-- ==== Sys2Proof/Word.lean ====
section
/-!
DEFINITION. The widths the manual computes in, and finite maps kept as plain data: a list of
(key, value) pairs in one canonical form, in which no pair holds the value that an unlisted key reads
as. Memory, register files and register maps are all such lists.
-/

namespace Sys2Proof

abbrev Byte := BitVec 8
/-- A 32-bit register, instruction word or scratchpad address. -/
abbrev Word := BitVec 32
/-- A 64-bit pair, virtual address or management register. -/
abbrev Dword := BitVec 64
/-- A 64-bit lane mask. -/
abbrev Mask := BitVec 64

/-- A finite map from naturals: rising keys, and a default for every key that is not listed. -/
abbrev SMap (β : Type) := List (Nat × β)

namespace SMap
variable {β : Type}

/-- The value at a key; `d` says what an unlisted key reads as. -/
def get (d : Nat → β) : SMap β → Nat → β
  | [], k => d k
  | (k', v) :: t, k => if k = k' then v else get d t k

/-- The pairs with every pair of key `k` taken out. -/
def erase (m : SMap β) (k : Nat) : SMap β := m.filter fun e => e.1 != k

/-- The pairs with `k` given the value `v`, at its place in rising order. -/
def insert : SMap β → Nat → β → SMap β
  | [], k, v => [(k, v)]
  | (k', v') :: t, k, v =>
    if k < k' then (k, v) :: (k', v') :: t
    else if k = k' then (k, v) :: t
    else (k', v') :: insert t k v

/-- Write one key; writing the default removes the entry. -/
def set [DecidableEq β] (d : Nat → β) (m : SMap β) (k : Nat) (v : β) : SMap β :=
  if v = d k then m.erase k else m.insert k v

/-- The canonical form: keys strictly rising, and no entry equal to its default. -/
def wf [DecidableEq β] (d : Nat → β) : SMap β → Bool
  | [] => true
  | (k, v) :: t => (v != d k) && t.all (fun e => decide (k < e.1)) && wf d t

end SMap

end Sys2Proof
end

