-- ==== Sys2Proof/Config.lean ====
section
/-!
DEFINITION. What an implementation of the part fixes and the manual does not give, as constants without a
body. A free value is such a constant applied to a counter of the state, or to the operands it depends on.
-/

namespace Sys2Proof.Config

/-- Free values of the model, one per count of the state's `freeTick` (notes/assumptions 6). -/
opaque freeByte : Nat → Byte
opaque freeDword : Nat → Dword

/-- The correctly rounded functions of 12_float R286 outside what the bounded computation of Machine/FloatFn
decides: function code, format, rounding mode and operand bits give the result bits and flags (log 7). -/
opaque undecidedFn : Nat → Nat → Nat → Nat → Nat × Byte

/-- Fused values (20_host_fabric R446, R453 to R457; log 8). -/
opaque identityKey : Nat
opaque vendorKeyHash : Nat
/-- The vendor's public key, which the boot ROM checks against the fused hash. -/
opaque vendorKeyX : Nat
opaque vendorKeyY : Nat
/-- The digest with which MEAS3 is extended, of the trained versions of the links, four bits each (log 8). -/
opaque linkVersions : Nat → Nat
/-- PWRCAP.DRAW at a reading (log 8). -/
opaque measuredDraw : Nat → Nat
opaque romDigest : Nat
opaque fuseSettings : Nat
opaque minFwVersion : Nat
/-- Digest and version of the firmware image a module leaves the factory with (log 8). -/
opaque factoryDigest : Nat
opaque factoryVersion : Nat
/-- The per-signature secret of an ECDSA signature, for a digest (R457; log 8). -/
opaque signNonce : Nat → Nat

/-- The set of the directory that a block falls in (04_dram_l2 R93 gives sets and ways, not the index; log 9). -/
opaque dirSet : Nat → Nat

/-- The set of an L2 slice that a block falls in, 0 to 63 (04_dram_l2 R84), and the set of an L1 that a block falls in: the number of
sets, the context and the virtual block (06_core_memory R127). The manual gives sets and ways, not the index (log 9). -/
opaque l2Set : Nat → Nat
opaque l1Set : Nat → Nat → Nat → Nat

end Sys2Proof.Config
end

