-- ==== Sys2Proof/Syntax.lean ====
section
/-!
DEFINITION. The syntax: one constructor for every row of spec/opcode_table.json. The first 123 are
the steps of the module's agents other than an issuing weft, and of the world outside
(95_what_each_step_holds), each with what names its subject: `k` a weft (16 times its team number plus its
weft index), `j` a place in a list of things in flight, `core`, `team`, `cluster`, `q` a queue, `v` a value
written to a register. The other 280 are instruction forms with the operand fields of their words
(03_encoding R45, R49) and the prefix in front of the base word, if there is one; the exchange forms of
LPULL and LPUSH are the forms whose prefix has ext[0] = 1 (11_integer_lane R270).
-/

namespace Sys2Proof

/-- A register field. -/
abbrev Reg := BitVec 7

/-- The prefix word (03_encoding R49). -/
structure Prefix where
  mask : BitVec 3
  z    : Bool
  rm   : BitVec 3
  c    : Reg
  asc  : Bool
  bsc  : Bool
  sat  : Bool
  ext  : BitVec 8
  deriving DecidableEq, Repr

/-- One plait flit (20_host_fabric R448). `zeros` holds the fields that must be zero. -/
structure Flit where
  typ   : Byte
  fl    : Byte
  src   : BitVec 16
  dst   : BitVec 16
  id    : BitVec 16
  raddr : Dword
  op1   : BitVec 128
  op2   : Dword
  zeros : BitVec 96
  seq   : Word
  ack   : Word
  crc   : Word
  deriving DecidableEq, Repr

inductive Instr where
  /-- CLAUSE_START (R55) -/
  | clauseStart (k : Nat)
  /-- PERIODIC_SWAP_OPPORTUNITY (R43) -/
  | periodicSwapOpportunity (core : Nat)
  /-- FLAG_A_COMPLETION (R56) -/
  | flagACompletion (k j : Nat)
  /-- STORE_ENTRY (R146) -/
  | storeEntry (k : Nat)
  /-- STORE_ORDER_POINT (R96) -/
  | storeOrderPoint (k j l : Nat)
  /-- FENCE_COMPLETE (R157) -/
  | fenceComplete (k : Nat)
  /-- FUNCTION_RESULT (R288) -/
  | functionResult (k j : Nat)
  /-- WAITF_RELEASE (R354) -/
  | waitfRelease (k : Nat)
  /-- MATRIX_SWAP (R296) -/
  | matrixSwap (core team : Nat)
  /-- MMA_COMPLETE (R307) -/
  | mmaComplete (core j : Nat)
  /-- COPY_ACCEPT (R186) -/
  | copyAccept (core : Nat)
  /-- COPY_ELEMENT_LAND (R187) -/
  | copyElementLand (core j : Nat)
  /-- TSWEEP_COMPLETE (R193) -/
  | tsweepComplete (core j : Nat)
  /-- TFETCH_COMPLETE (R194) -/
  | tfetchComplete (core j : Nat)
  /-- ACC_ST_COMPLETE (R315) -/
  | accStComplete (core j : Nat)
  /-- ACC_LD_COMPLETE (R316) -/
  | accLdComplete (core j : Nat)
  /-- SCL_LD_COMPLETE (R317) -/
  | sclLdComplete (core j : Nat)
  /-- TFETCH_RERUN_COMPLETE (R465) -/
  | tfetchRerunComplete (core slot : Nat)
  /-- RESPONSE_LOST (R172) -/
  | responseLost (k j lane : Nat)
  /-- SAVED_REQUEST_LAPSE (R172) -/
  | savedRequestLapse (peer id : Nat)
  /-- KEPT_VALUE_EXPIRY (R174) -/
  | keptValueExpiry (src id : Nat)
  /-- RDS (R90) -/
  | rds (agent unit : Nat)
  /-- RDX (R90) -/
  | rdx (agent unit : Nat)
  /-- UPG (R90) -/
  | upg (agent unit : Nat)
  /-- WBD (R90) -/
  | wbd (agent unit : Nat)
  /-- FWDS (R90) -/
  | fwds (agent unit : Nat)
  /-- FWDX (R90) -/
  | fwdx (agent unit : Nat)
  /-- INV (R113) -/
  | inv (agent unit : Nat)
  /-- DATA_S (R89) -/
  | dataS (agent unit : Nat)
  /-- DATA_E (R89) -/
  | dataE (agent unit : Nat)
  /-- DATA_M (R89) -/
  | dataM (agent unit : Nat)
  /-- ACK_M (R89) -/
  | ackM (agent unit : Nat)
  /-- FWDACK (R91) -/
  | fwdack (agent unit : Nat)
  /-- NODATA (R92) -/
  | nodata (agent unit : Nat)
  /-- INVACK (R90) -/
  | invack (agent unit : Nat)
  /-- WBACK (R92) -/
  | wback (agent unit : Nat)
  /-- SWEEPER_TICK (R122) -/
  | sweeperTick
  /-- PATROL_SCRUB (R78) -/
  | patrolScrub
  /-- MREPAIR_PEND (R80) -/
  | mrepairPend (pcn : Nat)
  /-- MREPAIR_GRANT (R80) -/
  | mrepairGrant (v : Dword)
  /-- REPAIR_COPY_DONE (R80) -/
  | repairCopyDone
  /-- MPCSTAT_CLR (R83) -/
  | mpcstatClr (n : Nat) (v : Dword)
  /-- CBROLE_WRITE (R126) -/
  | cbroleWrite (core : Nat) (v : Dword)
  /-- BANK_DRAIN_DONE (R126) -/
  | bankDrainDone (core : Nat)
  /-- FRAME_RESERVATION (R138) -/
  | frameReservation (team : Nat) (pages : List Nat)
  /-- SPAD_PAGE_FILL (R137) -/
  | spadPageFill (team page : Nat)
  /-- SPAD_EVICTION (R139) -/
  | spadEviction (team page : Nat)
  /-- REGISTER_LINE_FILL (R200) -/
  | registerLineFill (k line : Nat)
  /-- ICACHE_MISS_FILL (R375) -/
  | icacheMissFill (core ctx line : Nat)
  /-- REVERSE_STEP (R216) -/
  | reverseStep (k : Nat)
  /-- PREEMPT (R426) -/
  | preempt (team : Nat)
  /-- COPY_STOP_TIMEOUT (R426) -/
  | copyStopTimeout (core j : Nat)
  /-- SAVE_COMPLETE (R426) -/
  | saveComplete (team : Nat)
  /-- TEAM_RESTORE (R428) -/
  | teamRestore (team core : Nat)
  /-- CP_TAKE_RECORD (R359) -/
  | cpTakeRecord (cp : Nat)
  /-- LAUNCH_EXPAND (R364) -/
  | launchExpand (j : Nat)
  /-- TASK_DEAL (R368) -/
  | taskDeal (j : Nat)
  /-- TASK_START (R367) -/
  | taskStart (core : Nat)
  /-- CORE_STEAL (R369) -/
  | coreSteal (core : Nat)
  /-- TASK_END (R372) -/
  | taskEnd (team : Nat)
  /-- JOIN_APPEND (R373) -/
  | joinAppend (j : Nat)
  /-- JOIN_APPEND_TIMEOUT (R373) -/
  | joinAppendTimeout (j : Nat)
  /-- QUEUE_HOLD_RELEASE (R380) -/
  | queueHoldRelease (k : Nat)
  /-- QPUT_TIMEOUT (R380) -/
  | qputTimeout (k : Nat)
  /-- DOMAIN_ADMIT (R387) -/
  | domainAdmit
  /-- DSYNC_GRANT (R392) -/
  | dsyncGrant (k : Nat)
  /-- TURN_CLOSE (R392) -/
  | turnClose (dom : Nat)
  /-- DCLK_RELEASE (R393) -/
  | dclkRelease (k : Nat)
  /-- FLUSH_POINT (R396) -/
  | flushPoint (dom : Nat)
  /-- SEGMENT_COMPARE (R432) -/
  | segmentCompare (k : Nat)
  /-- CLUSTER_REBUILD (R437) -/
  | clusterRebuild (cluster : Nat)
  /-- REBUILD_COMPLETE (R437) -/
  | rebuildComplete (cluster : Nat)
  /-- WATCHDOG_WEFT (R438) -/
  | watchdogWeft (k : Nat)
  /-- WATCHDOG_CLUSTER (R438) -/
  | watchdogCluster (cluster : Nat)
  /-- WATCHDOG_CMDP (R438) -/
  | watchdogCmdp (cp : Nat)
  /-- WATCHDOG_HANG (R438) -/
  | watchdogHang (k : Nat)
  /-- FAULT_ENTRY_WRITE (R417) -/
  | faultEntryWrite (j : Nat)
  /-- FQ_HEAD_POLL (R417) -/
  | fqHeadPoll (ctx : Nat)
  /-- FAULT_REPORT_DROP (R417) -/
  | faultReportDrop (j : Nat)
  /-- FQRESUME (R421) -/
  | fqresume (v : Dword)
  /-- FQDISCARD (R421) -/
  | fqdiscard (v : Dword)
  /-- CTXSTOP (R422) -/
  | ctxstop (v : Dword)
  /-- CTXGO (R422) -/
  | ctxgo (v : Dword)
  /-- TRANSLATION_CONFIG_WRITE (R123) -/
  | translationConfigWrite (off : Nat) (v : Dword)
  /-- IMAGE_POOL_WRITE (R420) -/
  | imagePoolWrite (off : Nat) (v : Dword)
  /-- QCFG_WRITE (R357) -/
  | qcfgWrite (q : Nat) (v : Dword)
  /-- QBASE_WRITE (R357) -/
  | qbaseWrite (q : Nat) (v : Dword)
  /-- QPOST (R358) -/
  | qpost (q bytes : Nat) (rec : BitVec 512)
  /-- MSEM_TAKE (R446) -/
  | msemTake (port : Nat)
  /-- MSEM_GIVE (R446) -/
  | msemGive (port : Nat)
  /-- MRESET (R453) -/
  | mreset (port : Nat) (v : Dword)
  /-- FWUPD (R455) -/
  | fwupd (port : Nat) (v : Dword)
  /-- ATTCTL_GO (R457) -/
  | attctlGo (port : Nat)
  /-- ATTEST_DONE (R457) -/
  | attestDone
  /-- DBGREV2 (R452) -/
  | dbgrev2 (port : Nat) (v : Dword)
  /-- MODID_WRITE (R446) -/
  | modidWrite (v : Dword)
  /-- REGISTER_WRITE (R6) -/
  | registerWrite (off : Nat) (v : Dword)
  /-- APERTURE_READ (R443) -/
  | apertureRead (off bytes : Nat)
  /-- APERTURE_WRITE (R443) -/
  | apertureWrite (off bytes : Nat) (v : Dword)
  /-- PORT_LINK_DOWN (R445) -/
  | portLinkDown (port : Nat)
  /-- MODULE_RESET (R453) -/
  | moduleReset
  /-- POWER_CAP_EXCEEDED (R458) -/
  | powerCapExceeded
  /-- THERMAL_TRIP (R458) -/
  | thermalTrip
  /-- RLD8 (R448) -/
  | rld8 (link : Nat) (f : Flit)
  /-- RLD16 (R448) -/
  | rld16 (link : Nat) (f : Flit)
  /-- RST8 (R448) -/
  | rst8 (link : Nat) (f : Flit)
  /-- RST16 (R448) -/
  | rst16 (link : Nat) (f : Flit)
  /-- RADD_FLIT (R448) -/
  | raddFlit (link : Nat) (f : Flit)
  /-- RCAS (R448) -/
  | rcas (link : Nat) (f : Flit)
  /-- RXCH (R448) -/
  | rxch (link : Nat) (f : Flit)
  /-- RDATA (R448) -/
  | rdata (link : Nat) (f : Flit)
  /-- RACK (R448) -/
  | rack (link : Nat) (f : Flit)
  /-- RERR (R448) -/
  | rerr (link : Nat) (f : Flit)
  /-- IDLE (R448) -/
  | idle (link : Nat) (f : Flit)
  /-- NAK (R448) -/
  | nak (link : Nat) (f : Flit)
  /-- TRAIN (R448) -/
  | train (link : Nat) (f : Flit)
  /-- LINK_FAIL (R447) -/
  | linkFail (link : Nat)
  /-- MMA_OPERAND_READ_DONE (R301) -/
  | mmaOperandReadDone (core j : Nat)
  /-- ILLEGAL_ENCODING (R61) -/
  | illegalEncoding (w : Word)
  /-- FLIT_CHECK_FAILURE (R448) -/
  | flitCheckFailure (link : Nat) (f : Flit)
  /-- UNKNOWN_FLIT_TYPE (R448) -/
  | unknownFlitType (link : Nat) (f : Flit)
  /-- MSIX_VECTOR_UNMASK (R444) -/
  | msixVectorUnmask (port vec : Nat)
  /-- MANAGEMENT_SEQUENCER_LOSS (R440) -/
  | managementSequencerLoss
  /-- ADD (R253) -/
  | add (p : Option Prefix) (u : Bool) (d : Reg) (a : Reg) (b : Reg)
  /-- SUB (R253) -/
  | sub (p : Option Prefix) (u : Bool) (d : Reg) (a : Reg) (b : Reg)
  /-- AND (R253) -/
  | and (p : Option Prefix) (u : Bool) (d : Reg) (a : Reg) (b : Reg)
  /-- OR (R253) -/
  | or (p : Option Prefix) (u : Bool) (d : Reg) (a : Reg) (b : Reg)
  /-- XOR (R253) -/
  | xor (p : Option Prefix) (u : Bool) (d : Reg) (a : Reg) (b : Reg)
  /-- ANDN (R253) -/
  | andn (p : Option Prefix) (u : Bool) (d : Reg) (a : Reg) (b : Reg)
  /-- MIN_I (R253) -/
  | minI (p : Option Prefix) (u : Bool) (d : Reg) (a : Reg) (b : Reg)
  /-- MAX_I (R253) -/
  | maxI (p : Option Prefix) (u : Bool) (d : Reg) (a : Reg) (b : Reg)
  /-- SHL (R253) -/
  | shl (p : Option Prefix) (u : Bool) (d : Reg) (a : Reg) (b : Reg)
  /-- SHR (R253) -/
  | shr (p : Option Prefix) (u : Bool) (d : Reg) (a : Reg) (b : Reg)
  /-- SAR (R253) -/
  | sar (p : Option Prefix) (u : Bool) (d : Reg) (a : Reg) (b : Reg)
  /-- ROL (R253) -/
  | rol (p : Option Prefix) (u : Bool) (d : Reg) (a : Reg) (b : Reg)
  /-- ROR (R253) -/
  | ror (p : Option Prefix) (u : Bool) (d : Reg) (a : Reg) (b : Reg)
  /-- MIN_N (R253) -/
  | minN (p : Option Prefix) (u : Bool) (d : Reg) (a : Reg) (b : Reg)
  /-- MAX_N (R253) -/
  | maxN (p : Option Prefix) (u : Bool) (d : Reg) (a : Reg) (b : Reg)
  /-- ADIF (R253) -/
  | adif (p : Option Prefix) (u : Bool) (d : Reg) (a : Reg) (b : Reg)
  /-- MUL (R253) -/
  | mul (p : Option Prefix) (u : Bool) (d : Reg) (a : Reg) (b : Reg)
  /-- MULH_I (R253) -/
  | mulhI (p : Option Prefix) (u : Bool) (d : Reg) (a : Reg) (b : Reg)
  /-- MULH_N (R253) -/
  | mulhN (p : Option Prefix) (u : Bool) (d : Reg) (a : Reg) (b : Reg)
  /-- DIV_I (R254) -/
  | divI (p : Option Prefix) (u : Bool) (d : Reg) (a : Reg) (b : Reg)
  /-- DIV_N (R254) -/
  | divN (p : Option Prefix) (u : Bool) (d : Reg) (a : Reg) (b : Reg)
  /-- REM_I (R254) -/
  | remI (p : Option Prefix) (u : Bool) (d : Reg) (a : Reg) (b : Reg)
  /-- REM_N (R254) -/
  | remN (p : Option Prefix) (u : Bool) (d : Reg) (a : Reg) (b : Reg)
  /-- MAD (R256) -/
  | mad (p : Option Prefix) (u : Bool) (d : Reg) (a : Reg) (b : Reg)
  /-- ADDX (R257) -/
  | addx (p : Option Prefix) (u : Bool) (d : Reg) (a : Reg)
  /-- SUBX (R257) -/
  | subx (p : Option Prefix) (u : Bool) (d : Reg) (a : Reg)
  /-- XORX (R257) -/
  | xorx (p : Option Prefix) (u : Bool) (d : Reg) (a : Reg)
  /-- ROLX (R257) -/
  | rolx (p : Option Prefix) (u : Bool) (d : Reg) (a : Reg)
  /-- RORX (R257) -/
  | rorx (p : Option Prefix) (u : Bool) (d : Reg) (a : Reg)
  /-- NEGX (R257) -/
  | negx (p : Option Prefix) (u : Bool) (d : Reg)
  /-- NOTX (R257) -/
  | notx (p : Option Prefix) (u : Bool) (d : Reg)
  /-- MULX (R258) -/
  | mulx (p : Option Prefix) (u : Bool) (d : Reg) (a : Reg)
  /-- SWAP (R259) -/
  | swap (p : Option Prefix) (u : Bool) (d : Reg) (a : Reg)
  /-- CSWAP (R259) -/
  | cswap (p : Option Prefix) (u : Bool) (d : Reg) (a : Reg)
  /-- CLZ (R259) -/
  | clz (p : Option Prefix) (u : Bool) (d : Reg) (a : Reg)
  /-- POPC (R259) -/
  | popc (p : Option Prefix) (u : Bool) (d : Reg) (a : Reg)
  /-- BREV (R259) -/
  | brev (p : Option Prefix) (u : Bool) (d : Reg) (a : Reg)
  /-- SEL (R260) -/
  | sel (p : Option Prefix) (u : Bool) (d : Reg) (a : Reg) (b : Reg)
  /-- MOV (R259) -/
  | mov (p : Option Prefix) (u : Bool) (d : Reg) (a : Reg)
  /-- BFX (R261) -/
  | bfx (p : Option Prefix) (u : Bool) (d : Reg) (a : Reg) (b : Reg)
  /-- CMP_EQ (R262) -/
  | cmpEq (p : Option Prefix) (u : Bool) (d : BitVec 3) (a : Reg) (b : Reg)
  /-- CMP_NE (R262) -/
  | cmpNe (p : Option Prefix) (u : Bool) (d : BitVec 3) (a : Reg) (b : Reg)
  /-- CMP_LT_I (R262) -/
  | cmpLtI (p : Option Prefix) (u : Bool) (d : BitVec 3) (a : Reg) (b : Reg)
  /-- CMP_LE_I (R262) -/
  | cmpLeI (p : Option Prefix) (u : Bool) (d : BitVec 3) (a : Reg) (b : Reg)
  /-- CMP_LT_N (R262) -/
  | cmpLtN (p : Option Prefix) (u : Bool) (d : BitVec 3) (a : Reg) (b : Reg)
  /-- CMP_LE_N (R262) -/
  | cmpLeN (p : Option Prefix) (u : Bool) (d : BitVec 3) (a : Reg) (b : Reg)
  /-- CMP_TST (R262) -/
  | cmpTst (p : Option Prefix) (u : Bool) (d : BitVec 3) (a : Reg) (b : Reg)
  /-- ADDI (R263) -/
  | addi (p : Option Prefix) (u : Bool) (d : Reg) (a : Reg) (i : BitVec 10)
  /-- ANDI (R263) -/
  | andi (p : Option Prefix) (u : Bool) (d : Reg) (a : Reg) (i : BitVec 10)
  /-- ORI (R263) -/
  | ori (p : Option Prefix) (u : Bool) (d : Reg) (a : Reg) (i : BitVec 10)
  /-- XORI (R263) -/
  | xori (p : Option Prefix) (u : Bool) (d : Reg) (a : Reg) (i : BitVec 10)
  /-- SHLI (R263) -/
  | shli (p : Option Prefix) (u : Bool) (d : Reg) (a : Reg) (i : BitVec 5)
  /-- SHRI (R263) -/
  | shri (p : Option Prefix) (u : Bool) (d : Reg) (a : Reg) (i : BitVec 5)
  /-- SARI (R263) -/
  | sari (p : Option Prefix) (u : Bool) (d : Reg) (a : Reg) (i : BitVec 5)
  /-- ROLI (R263) -/
  | roli (p : Option Prefix) (u : Bool) (d : Reg) (a : Reg) (i : BitVec 5)
  /-- ADDXI (R257) -/
  | addxi (p : Option Prefix) (u : Bool) (d : Reg) (i : BitVec 17)
  /-- XORXI (R257) -/
  | xorxi (p : Option Prefix) (u : Bool) (d : Reg) (i : BitVec 17)
  /-- MOVI (R264) -/
  | movi (p : Option Prefix) (u : Bool) (d : Reg) (i : BitVec 17)
  /-- MOVHI (R264) -/
  | movhi (p : Option Prefix) (u : Bool) (d : Reg) (i : BitVec 15)
  /-- ADD_I64 (R265) -/
  | addI64 (p : Option Prefix) (u : Bool) (d : Reg) (a : Reg) (b : Reg)
  /-- SUB_I64 (R265) -/
  | subI64 (p : Option Prefix) (u : Bool) (d : Reg) (a : Reg) (b : Reg)
  /-- AND_I64 (R265) -/
  | andI64 (p : Option Prefix) (u : Bool) (d : Reg) (a : Reg) (b : Reg)
  /-- OR_I64 (R265) -/
  | orI64 (p : Option Prefix) (u : Bool) (d : Reg) (a : Reg) (b : Reg)
  /-- XOR_I64 (R265) -/
  | xorI64 (p : Option Prefix) (u : Bool) (d : Reg) (a : Reg) (b : Reg)
  /-- SHL_I64 (R265) -/
  | shlI64 (p : Option Prefix) (u : Bool) (d : Reg) (a : Reg) (b : Reg)
  /-- SHR_I64 (R265) -/
  | shrI64 (p : Option Prefix) (u : Bool) (d : Reg) (a : Reg) (b : Reg)
  /-- SAR_I64 (R265) -/
  | sarI64 (p : Option Prefix) (u : Bool) (d : Reg) (a : Reg) (b : Reg)
  /-- MUL_I64 (R266) -/
  | mulI64 (p : Option Prefix) (u : Bool) (d : Reg) (a : Reg) (b : Reg)
  /-- MULH_I64 (R266) -/
  | mulhI64 (p : Option Prefix) (u : Bool) (d : Reg) (a : Reg) (b : Reg)
  /-- MULH_N64 (R266) -/
  | mulhN64 (p : Option Prefix) (u : Bool) (d : Reg) (a : Reg) (b : Reg)
  /-- ADDX_I64 (R266) -/
  | addxI64 (p : Option Prefix) (u : Bool) (d : Reg) (a : Reg)
  /-- SUBX_I64 (R266) -/
  | subxI64 (p : Option Prefix) (u : Bool) (d : Reg) (a : Reg)
  /-- XORX_I64 (R266) -/
  | xorxI64 (p : Option Prefix) (u : Bool) (d : Reg) (a : Reg)
  /-- SWAP_I64 (R266) -/
  | swapI64 (p : Option Prefix) (u : Bool) (d : Reg) (a : Reg)
  /-- LEA (R267) -/
  | lea (p : Option Prefix) (u : Bool) (d : Reg) (a : Reg) (b : Reg)
  /-- ADDI_I64 (R268) -/
  | addiI64 (p : Option Prefix) (u : Bool) (d : Reg) (a : Reg) (i : BitVec 10)
  /-- LPULL (R269) -/
  | lpull (p : Option Prefix) (d : Reg) (a : Reg) (b : Reg)
  /-- LPUSH (R271) -/
  | lpush (p : Option Prefix) (d : Reg) (a : Reg) (b : Reg)
  /-- LPULL_XCH (R270) -/
  | lpullXch (p : Prefix) (d : Reg) (a : Reg) (b : Reg)
  /-- LPUSH_XCH (R270) -/
  | lpushXch (p : Prefix) (d : Reg) (a : Reg) (b : Reg)
  /-- LBCAST (R269) -/
  | lbcast (p : Option Prefix) (d : Reg) (a : Reg) (b : Reg)
  /-- LXOR (R269) -/
  | lxor (p : Option Prefix) (d : Reg) (a : Reg) (b : Reg)
  /-- LUP (R269) -/
  | lup (p : Option Prefix) (d : Reg) (a : Reg) (b : Reg)
  /-- LDOWN (R269) -/
  | ldown (p : Option Prefix) (d : Reg) (a : Reg) (b : Reg)
  /-- LROT (R269) -/
  | lrot (p : Option Prefix) (d : Reg) (a : Reg) (b : Reg)
  /-- BALLOT (R272) -/
  | ballot (p : Option Prefix) (d : BitVec 3) (a : Reg)
  /-- ANY (R272) -/
  | any (p : Option Prefix) (d : BitVec 3) (a : Reg)
  /-- ALL (R272) -/
  | all (p : Option Prefix) (d : BitVec 3) (a : Reg)
  /-- MATCH (R272) -/
  | matchLanes (p : Option Prefix) (d : Reg) (a : Reg)
  /-- MRANK (R272) -/
  | mrank (p : Option Prefix) (d : Reg) (a : Reg)
  /-- MLEAD (R272) -/
  | mlead (p : Option Prefix) (d : BitVec 3) (a : Reg)
  /-- PFXPOP (R272) -/
  | pfxpop (p : Option Prefix) (d : Reg) (a : Reg)
  /-- RADD (R273) -/
  | radd (p : Option Prefix) (d : Reg) (a : Reg)
  /-- RMIN (R273) -/
  | rmin (p : Option Prefix) (d : Reg) (a : Reg)
  /-- RMAX (R273) -/
  | rmax (p : Option Prefix) (d : Reg) (a : Reg)
  /-- RAND (R273) -/
  | rand (p : Option Prefix) (d : Reg) (a : Reg)
  /-- ROR_RED (R273) -/
  | rorRed (p : Option Prefix) (d : Reg) (a : Reg)
  /-- RXOR (R273) -/
  | rxor (p : Option Prefix) (d : Reg) (a : Reg)
  /-- SCANI (R273) -/
  | scani (p : Option Prefix) (d : Reg) (a : Reg)
  /-- SCANX (R273) -/
  | scanx (p : Option Prefix) (d : Reg) (a : Reg)
  /-- MAND (R274) -/
  | mand (p : Option Prefix) (d : BitVec 3) (a : BitVec 3) (b : BitVec 3)
  /-- MOR (R274) -/
  | mor (p : Option Prefix) (d : BitVec 3) (a : BitVec 3) (b : BitVec 3)
  /-- MXOR (R274) -/
  | mxor (p : Option Prefix) (d : BitVec 3) (a : BitVec 3) (b : BitVec 3)
  /-- MNOT (R274) -/
  | mnot (p : Option Prefix) (d : BitVec 3) (a : BitVec 3)
  /-- MMOV (R274) -/
  | mmov (p : Option Prefix) (d : BitVec 3) (a : BitVec 3)
  /-- MPOPC (R274) -/
  | mpopc (p : Option Prefix) (d : Reg) (a : BitVec 3)
  /-- MFFS (R274) -/
  | mffs (p : Option Prefix) (d : Reg) (a : BitVec 3)
  /-- MSET (R274) -/
  | mset (p : Option Prefix) (d : BitVec 3) (a : Reg)
  /-- FADD (R279) -/
  | fadd (p : Option Prefix) (t : Bool) (u : Bool) (d : Reg) (a : Reg) (b : Reg)
  /-- FSUB (R279) -/
  | fsub (p : Option Prefix) (t : Bool) (u : Bool) (d : Reg) (a : Reg) (b : Reg)
  /-- FMUL (R279) -/
  | fmul (p : Option Prefix) (t : Bool) (u : Bool) (d : Reg) (a : Reg) (b : Reg)
  /-- FDIV (R279) -/
  | fdiv (p : Option Prefix) (t : Bool) (u : Bool) (d : Reg) (a : Reg) (b : Reg)
  /-- FMIN (R281) -/
  | fmin (p : Option Prefix) (t : Bool) (u : Bool) (d : Reg) (a : Reg) (b : Reg)
  /-- FMAX (R281) -/
  | fmax (p : Option Prefix) (t : Bool) (u : Bool) (d : Reg) (a : Reg) (b : Reg)
  /-- FFMA (R280) -/
  | ffma (p : Option Prefix) (t : Bool) (u : Bool) (d : Reg) (a : Reg) (b : Reg)
  /-- FCOPYSIGN (R279) -/
  | fcopysign (p : Option Prefix) (t : Bool) (u : Bool) (d : Reg) (a : Reg) (b : Reg)
  /-- FSQRT (R282) -/
  | fsqrt (p : Option Prefix) (t : Bool) (u : Bool) (d : Reg) (a : Reg)
  /-- FRSQ (R282) -/
  | frsq (p : Option Prefix) (t : Bool) (u : Bool) (d : Reg) (a : Reg)
  /-- FREC (R282) -/
  | frec (p : Option Prefix) (t : Bool) (u : Bool) (d : Reg) (a : Reg)
  /-- FABS (R282) -/
  | fabs (p : Option Prefix) (t : Bool) (u : Bool) (d : Reg) (a : Reg)
  /-- FNEG (R282) -/
  | fneg (p : Option Prefix) (t : Bool) (u : Bool) (d : Reg) (a : Reg)
  /-- FRND (R283) -/
  | frnd (p : Option Prefix) (t : Bool) (u : Bool) (d : Reg) (a : Reg)
  /-- FCLASS (R284) -/
  | fclass (p : Option Prefix) (t : Bool) (u : Bool) (d : Reg) (a : Reg)
  /-- FSCALE (R285) -/
  | fscale (p : Option Prefix) (t : Bool) (u : Bool) (d : Reg) (a : Reg) (b : Reg)
  /-- FEXP (R286) -/
  | fexp (p : Option Prefix) (t : Bool) (u : Bool) (d : Reg) (a : Reg)
  /-- FEXP2 (R286) -/
  | fexp2 (p : Option Prefix) (t : Bool) (u : Bool) (d : Reg) (a : Reg)
  /-- FLOG (R286) -/
  | flog (p : Option Prefix) (t : Bool) (u : Bool) (d : Reg) (a : Reg)
  /-- FLOG2 (R286) -/
  | flog2 (p : Option Prefix) (t : Bool) (u : Bool) (d : Reg) (a : Reg)
  /-- FERF (R286) -/
  | ferf (p : Option Prefix) (t : Bool) (u : Bool) (d : Reg) (a : Reg)
  /-- FERFC (R286) -/
  | ferfc (p : Option Prefix) (t : Bool) (u : Bool) (d : Reg) (a : Reg)
  /-- FNCDF (R286) -/
  | fncdf (p : Option Prefix) (t : Bool) (u : Bool) (d : Reg) (a : Reg)
  /-- FTANH (R286) -/
  | ftanh (p : Option Prefix) (t : Bool) (u : Bool) (d : Reg) (a : Reg)
  /-- FCMP_EQ (R290) -/
  | fcmpEq (p : Option Prefix) (t : Bool) (u : Bool) (d : BitVec 3) (a : Reg) (b : Reg)
  /-- FCMP_NE (R290) -/
  | fcmpNe (p : Option Prefix) (t : Bool) (u : Bool) (d : BitVec 3) (a : Reg) (b : Reg)
  /-- FCMP_LT (R290) -/
  | fcmpLt (p : Option Prefix) (t : Bool) (u : Bool) (d : BitVec 3) (a : Reg) (b : Reg)
  /-- FCMP_LE (R290) -/
  | fcmpLe (p : Option Prefix) (t : Bool) (u : Bool) (d : BitVec 3) (a : Reg) (b : Reg)
  /-- FCMP_GT (R290) -/
  | fcmpGt (p : Option Prefix) (t : Bool) (u : Bool) (d : BitVec 3) (a : Reg) (b : Reg)
  /-- FCMP_GE (R290) -/
  | fcmpGe (p : Option Prefix) (t : Bool) (u : Bool) (d : BitVec 3) (a : Reg) (b : Reg)
  /-- FCMP_UN (R290) -/
  | fcmpUn (p : Option Prefix) (t : Bool) (u : Bool) (d : BitVec 3) (a : Reg) (b : Reg)
  /-- FCMP_ORD (R290) -/
  | fcmpOrd (p : Option Prefix) (t : Bool) (u : Bool) (d : BitVec 3) (a : Reg) (b : Reg)
  /-- HADD (R291) -/
  | hadd (p : Option Prefix) (t : Bool) (u : Bool) (d : Reg) (a : Reg) (b : Reg)
  /-- HSUB (R291) -/
  | hsub (p : Option Prefix) (t : Bool) (u : Bool) (d : Reg) (a : Reg) (b : Reg)
  /-- HMUL (R291) -/
  | hmul (p : Option Prefix) (t : Bool) (u : Bool) (d : Reg) (a : Reg) (b : Reg)
  /-- HFMA (R291) -/
  | hfma (p : Option Prefix) (t : Bool) (u : Bool) (d : Reg) (a : Reg) (b : Reg)
  /-- HMIN (R291) -/
  | hmin (p : Option Prefix) (t : Bool) (u : Bool) (d : Reg) (a : Reg) (b : Reg)
  /-- HMAX (R291) -/
  | hmax (p : Option Prefix) (t : Bool) (u : Bool) (d : Reg) (a : Reg) (b : Reg)
  /-- CVT (R293) -/
  | cvt (p : Option Prefix) (u : Bool) (d : Reg) (a : Reg) (pf : BitVec 4) (qf : BitVec 3)
  /-- CVT_PK2 (R292) -/
  | cvtPk2 (p : Option Prefix) (u : Bool) (d : Reg) (a : Reg) (pf : BitVec 4) (qf : BitVec 3)
  /-- CVT_PK4 (R292) -/
  | cvtPk4 (p : Option Prefix) (u : Bool) (d : Reg) (a : Reg) (pf : BitVec 4) (qf : BitVec 3)
  /-- CVT_PK8 (R292) -/
  | cvtPk8 (p : Option Prefix) (u : Bool) (d : Reg) (a : Reg) (pf : BitVec 4) (qf : BitVec 3)
  /-- UNPK2 (R292) -/
  | unpk2 (p : Option Prefix) (u : Bool) (d : Reg) (a : Reg) (pf : BitVec 4) (qf : BitVec 3)
  /-- UNPK4 (R292) -/
  | unpk4 (p : Option Prefix) (u : Bool) (d : Reg) (a : Reg) (pf : BitVec 4) (qf : BitVec 3)
  /-- UNPK8 (R292) -/
  | unpk8 (p : Option Prefix) (u : Bool) (d : Reg) (a : Reg) (pf : BitVec 4) (qf : BitVec 3)
  /-- LD (R149) -/
  | ld (p : Option Prefix) (sz : BitVec 3) (u : Bool) (d : Reg) (a : Reg) (i : BitVec 7)
  /-- ST (R150) -/
  | st (p : Option Prefix) (sz : BitVec 3) (u : Bool) (d : Reg) (a : Reg) (i : BitVec 7)
  /-- LDS (R149) -/
  | lds (p : Option Prefix) (sz : BitVec 3) (u : Bool) (d : Reg) (a : Reg) (i : BitVec 7)
  /-- STS (R150) -/
  | sts (p : Option Prefix) (sz : BitVec 3) (u : Bool) (d : Reg) (a : Reg) (i : BitVec 7)
  /-- XCHG (R153) -/
  | xchg (p : Option Prefix) (sz : Bool) (u : Bool) (d : Reg) (a : Reg) (i : BitVec 7)
  /-- XCHGS (R153) -/
  | xchgs (p : Option Prefix) (sz : Bool) (u : Bool) (d : Reg) (a : Reg) (i : BitVec 7)
  /-- LDA (R154) -/
  | lda (p : Option Prefix) (sc : BitVec 2) (sz : Bool) (u : Bool) (d : Reg) (a : Reg) (i : BitVec 7)
  /-- STL (R155) -/
  | stl (p : Option Prefix) (sc : BitVec 2) (sz : Bool) (u : Bool) (d : Reg) (a : Reg) (i : BitVec 7)
  /-- CFLUSH (R160) -/
  | cflush (p : Option Prefix) (u : Bool) (a : Reg) (b : Reg)
  /-- CINV (R160) -/
  | cinv (p : Option Prefix) (u : Bool) (a : Reg) (b : Reg)
  /-- CCLEAN (R160) -/
  | cclean (p : Option Prefix) (u : Bool) (a : Reg) (b : Reg)
  /-- PREF (R160) -/
  | pref (p : Option Prefix) (u : Bool) (a : Reg) (b : Reg)
  /-- PREF1 (R160) -/
  | pref1 (p : Option Prefix) (u : Bool) (a : Reg) (b : Reg)
  /-- IPREF (R160) -/
  | ipref (p : Option Prefix) (u : Bool) (a : Reg) (b : Reg)
  /-- SPEVICT (R160) -/
  | spevict (p : Option Prefix) (u : Bool) (a : Reg) (b : Reg)
  /-- FENCE_ACQ (R157) -/
  | fenceAcq (p : Option Prefix) (sc : BitVec 2)
  /-- FENCE_REL (R157) -/
  | fenceRel (p : Option Prefix) (sc : BitVec 2)
  /-- FENCE_AR (R157) -/
  | fenceAr (p : Option Prefix) (sc : BitVec 2)
  /-- FENCE_SC (R157) -/
  | fenceSc (p : Option Prefix) (sc : BitVec 2)
  /-- AADD_I (R164) -/
  | aaddI (p : Option Prefix) (t : Bool) (u : Bool) (d : Reg) (a : Reg) (b : Reg)
  /-- AADD_F (R165) -/
  | aaddF (p : Option Prefix) (t : Bool) (u : Bool) (d : Reg) (a : Reg) (b : Reg)
  /-- AMIN_I (R164) -/
  | aminI (p : Option Prefix) (t : Bool) (u : Bool) (d : Reg) (a : Reg) (b : Reg)
  /-- AMAX_I (R164) -/
  | amaxI (p : Option Prefix) (t : Bool) (u : Bool) (d : Reg) (a : Reg) (b : Reg)
  /-- AAND (R164) -/
  | aand (p : Option Prefix) (t : Bool) (u : Bool) (d : Reg) (a : Reg) (b : Reg)
  /-- AOR (R164) -/
  | aor (p : Option Prefix) (t : Bool) (u : Bool) (d : Reg) (a : Reg) (b : Reg)
  /-- AXOR (R164) -/
  | axor (p : Option Prefix) (t : Bool) (u : Bool) (d : Reg) (a : Reg) (b : Reg)
  /-- AXCH (R164) -/
  | axch (p : Option Prefix) (t : Bool) (u : Bool) (d : Reg) (a : Reg) (b : Reg)
  /-- ACAS_B32 (R164) -/
  | acasB32 (p : Option Prefix) (u : Bool) (d : Reg) (a : Reg) (b : Reg)
  /-- ACAS_B64 (R164) -/
  | acasB64 (p : Option Prefix) (u : Bool) (d : Reg) (a : Reg) (b : Reg)
  /-- AADDS_I32 (R166) -/
  | aaddsI32 (p : Option Prefix) (u : Bool) (d : Reg) (a : Reg) (b : Reg)
  /-- AADDS_F32 (R165) -/
  | aaddsF32 (p : Option Prefix) (u : Bool) (d : Reg) (a : Reg) (b : Reg)
  /-- AMINS_I (R166) -/
  | aminsI (p : Option Prefix) (u : Bool) (d : Reg) (a : Reg) (b : Reg)
  /-- AMAXS_I (R166) -/
  | amaxsI (p : Option Prefix) (u : Bool) (d : Reg) (a : Reg) (b : Reg)
  /-- AANDS (R166) -/
  | aands (p : Option Prefix) (u : Bool) (d : Reg) (a : Reg) (b : Reg)
  /-- AORS (R166) -/
  | aors (p : Option Prefix) (u : Bool) (d : Reg) (a : Reg) (b : Reg)
  /-- AXORS (R166) -/
  | axors (p : Option Prefix) (u : Bool) (d : Reg) (a : Reg) (b : Reg)
  /-- AXCHS (R166) -/
  | axchs (p : Option Prefix) (u : Bool) (d : Reg) (a : Reg) (b : Reg)
  /-- DADD_I32 (R395) -/
  | daddI32 (p : Option Prefix) (u : Bool) (a : Reg) (b : Reg)
  /-- DADD_F32 (R395) -/
  | daddF32 (p : Option Prefix) (u : Bool) (a : Reg) (b : Reg)
  /-- DADD_F64 (R395) -/
  | daddF64 (p : Option Prefix) (u : Bool) (a : Reg) (b : Reg)
  /-- DMIN_I (R395) -/
  | dminI (p : Option Prefix) (u : Bool) (a : Reg) (b : Reg)
  /-- DMAX_I (R395) -/
  | dmaxI (p : Option Prefix) (u : Bool) (a : Reg) (b : Reg)
  /-- DADD_I64 (R395) -/
  | daddI64 (p : Option Prefix) (u : Bool) (a : Reg) (b : Reg)
  /-- RATOM_ADD64 (R169) -/
  | ratomAdd64 (p : Option Prefix) (u : Bool) (d : Reg) (a : Reg) (b : Reg)
  /-- RATOM_CAS64 (R169) -/
  | ratomCas64 (p : Option Prefix) (u : Bool) (d : Reg) (a : Reg) (b : Reg)
  /-- RATOM_XCH64 (R169) -/
  | ratomXch64 (p : Option Prefix) (u : Bool) (d : Reg) (a : Reg) (b : Reg)
  /-- RATOM_RETRY (R173) -/
  | ratomRetry (p : Option Prefix) (u : Bool) (d : Reg) (a : Reg) (b : Reg)
  /-- RLD_B64 (R169) -/
  | rldB64 (p : Option Prefix) (u : Bool) (d : Reg) (a : Reg)
  /-- RST_B64 (R169) -/
  | rstB64 (p : Option Prefix) (u : Bool) (d : Reg) (a : Reg)
  /-- RLD_B128 (R169) -/
  | rldB128 (p : Option Prefix) (u : Bool) (d : Reg) (a : Reg)
  /-- RST_B128 (R169) -/
  | rstB128 (p : Option Prefix) (u : Bool) (d : Reg) (a : Reg)
  /-- BCOPY_G2S (R186) -/
  | bcopyG2s (p : Option Prefix) (d : Reg) (a : Reg) (b : Reg)
  /-- BCOPY_S2G (R186) -/
  | bcopyS2g (p : Option Prefix) (d : Reg) (a : Reg) (b : Reg)
  /-- BCOPY_G2G (R186) -/
  | bcopyG2g (p : Option Prefix) (d : Reg) (a : Reg) (b : Reg)
  /-- BCOPY_S2S (R186) -/
  | bcopyS2s (p : Option Prefix) (d : Reg) (a : Reg) (b : Reg)
  /-- BCOPY_V2S (R185) -/
  | bcopyV2s (p : Option Prefix) (d : Reg) (a : Reg) (b : Reg)
  /-- BCOPY_S2V (R188) -/
  | bcopyS2v (p : Option Prefix) (d : Reg) (a : Reg) (b : Reg)
  /-- BB_INIT (R182) -/
  | bbInit (p : Option Prefix) (a : Reg) (b : Reg)
  /-- BB_EXPECT (R182) -/
  | bbExpect (p : Option Prefix) (a : Reg) (b : Reg)
  /-- BB_ARRIVE (R182) -/
  | bbArrive (p : Option Prefix) (a : Reg) (b : Reg)
  /-- BB_WAIT (R182) -/
  | bbWait (p : Option Prefix) (a : Reg) (b : Reg)
  /-- BB_TEST (R182) -/
  | bbTest (p : Option Prefix) (d : Reg) (a : Reg) (b : Reg)
  /-- BB_INVAL (R182) -/
  | bbInval (p : Option Prefix) (a : Reg)
  /-- TADD (R191) -/
  | tadd (p : Option Prefix) (d : Reg) (a : Reg) (b : Reg)
  /-- TMUL (R191) -/
  | tmul (p : Option Prefix) (d : Reg) (a : Reg) (b : Reg)
  /-- TFMA (R191) -/
  | tfma (p : Option Prefix) (d : Reg) (a : Reg) (b : Reg)
  /-- TMAX (R191) -/
  | tmax (p : Option Prefix) (d : Reg) (a : Reg) (b : Reg)
  /-- TCVT (R192) -/
  | tcvt (p : Option Prefix) (d : Reg) (a : Reg)
  /-- TEXP (R192) -/
  | texp (p : Option Prefix) (d : Reg) (a : Reg)
  /-- TFILL (R191) -/
  | tfill (p : Option Prefix) (d : Reg) (a : Reg)
  /-- TCOPY (R191) -/
  | tcopy (p : Option Prefix) (d : Reg) (a : Reg)
  /-- TFETCH (R194) -/
  | tfetch (p : Option Prefix) (d : Reg) (a : Reg)
  /-- TUNPIN (R196) -/
  | tunpin (p : Option Prefix) (d : Reg)
  /-- MMA (R307) -/
  | mma (p : Option Prefix) (fmt : BitVec 3) (d : Reg) (a : Reg) (b : Reg)
  /-- MMA_G (R311) -/
  | mmaG (p : Option Prefix) (fmt : BitVec 3) (d : Reg) (a : Reg) (b : Reg)
  /-- ACC_ZERO (R314) -/
  | accZero (p : Option Prefix) (a : Reg)
  /-- ACC_RD (R313) -/
  | accRd (p : Option Prefix) (d : Reg) (a : Reg)
  /-- ACC_WR (R313) -/
  | accWr (p : Option Prefix) (d : Reg) (a : Reg)
  /-- ACC_ST (R315) -/
  | accSt (p : Option Prefix) (d : Reg) (a : Reg)
  /-- ACC_LD (R316) -/
  | accLd (p : Option Prefix) (d : Reg) (a : Reg)
  /-- SCL_LD (R317) -/
  | sclLd (p : Option Prefix) (d : Reg) (a : Reg)
  /-- SCL_RD (R313) -/
  | sclRd (p : Option Prefix) (d : Reg) (a : Reg)
  /-- BR_ALWAYS (R346) -/
  | brAlways (p : Option Prefix) (off : BitVec 19)
  /-- BR_ANY (R346) -/
  | brAny (p : Option Prefix) (m : BitVec 3) (off : BitVec 19)
  /-- BR_ALL (R346) -/
  | brAll (p : Option Prefix) (m : BitVec 3) (off : BitVec 19)
  /-- BR_NONE (R346) -/
  | brNone (p : Option Prefix) (m : BitVec 3) (off : BitVec 19)
  /-- BR_DIV (R347) -/
  | brDiv (p : Option Prefix) (m : BitVec 3) (off : BitVec 19)
  /-- CALL (R349) -/
  | call (p : Option Prefix) (off : BitVec 19)
  /-- JOIN (R351) -/
  | join (p : Option Prefix) (off : BitVec 19)
  /-- NOP (R354) -/
  | nop (p : Option Prefix) (u : Bool)
  /-- EXIT (R353) -/
  | exit (p : Option Prefix) (u : Bool)
  /-- RET (R350) -/
  | ret (p : Option Prefix) (a : Reg)
  /-- YIELD (R354) -/
  | yield (p : Option Prefix)
  /-- WAITF (R354) -/
  | waitf (p : Option Prefix) (a : Reg)
  /-- BRK (R355) -/
  | brk (p : Option Prefix) (b : Reg)
  /-- TRAP (R355) -/
  | trap (p : Option Prefix) (a : Reg)
  /-- JMPR (R350) -/
  | jmpr (p : Option Prefix) (a : Reg) (b : Reg)
  /-- WIN (R226) -/
  | win (p : Option Prefix) (a : Reg)
  /-- REGLD (R204) -/
  | regld (p : Option Prefix) (d : Reg) (a : Reg) (k : BitVec 7)
  /-- REGST (R204) -/
  | regst (p : Option Prefix) (d : Reg) (a : Reg) (k : BitVec 7)
  /-- REV (R228) -/
  | rev (p : Option Prefix) (a : Reg)
  /-- COMMIT (R221) -/
  | commit (p : Option Prefix)
  /-- CKPT (R222) -/
  | ckpt (p : Option Prefix)
  /-- HMODE (R224) -/
  | hmode (p : Option Prefix) (a : Reg)
  /-- CFRD (R227) -/
  | cfrd (p : Option Prefix) (d : Reg)
  /-- QPUT (R380) -/
  | qput (p : Option Prefix) (d : Reg) (a : Reg)
  /-- QPUT_NB (R380) -/
  | qputNb (p : Option Prefix) (d : Reg) (a : Reg) (b : BitVec 3)
  /-- QGET (R381) -/
  | qget (p : Option Prefix) (d : Reg) (a : Reg)
  /-- QGET_NB (R381) -/
  | qgetNb (p : Option Prefix) (d : Reg) (a : Reg) (b : BitVec 3)
  /-- SPAWN (R382) -/
  | spawn (p : Option Prefix) (a : Reg)
  /-- TDONE (R382) -/
  | tdone (p : Option Prefix) (a : Reg)
  /-- STEAL (R383) -/
  | steal (p : Option Prefix) (d : Reg) (a : Reg) (b : Reg)
  /-- QSTAT (R384) -/
  | qstat (p : Option Prefix) (d : Reg) (a : Reg)
  /-- BAR_T (R386) -/
  | barT (p : Option Prefix) (a : Reg)
  /-- BAR_P (R386) -/
  | barP (p : Option Prefix) (a : Reg)
  /-- BAR_ARRIVE (R386) -/
  | barArrive (p : Option Prefix) (a : Reg)
  /-- BAR_WAIT (R386) -/
  | barWait (p : Option Prefix) (a : Reg)
  /-- DSYNC (R392) -/
  | dsync (p : Option Prefix) (a : Reg)
  /-- FLUSHPT (R397) -/
  | flushpt (p : Option Prefix) (a : Reg)
  /-- DCLK (R393) -/
  | dclk (p : Option Prefix) (a : Reg)
  /-- SRD (R411) -/
  | srd (p : Option Prefix) (u : Bool) (d : Reg) (b : Reg)
  /-- SWR (R411) -/
  | swr (p : Option Prefix) (u : Bool) (a : Reg) (b : Reg)
  /-- ERET (R412) -/
  | eret (p : Option Prefix) (d : BitVec 3) (a : Reg) (b : Bool)
  /-- FQPARK (R413) -/
  | fqpark (p : Option Prefix)
  /-- FLAGS_CLR (R414) -/
  | flagsClr (p : Option Prefix) (a : Reg)
  /-- CTXSV (R415) -/
  | ctxsv (p : Option Prefix)
  /-- PAIRSIG (R416) -/
  | pairsig (p : Option Prefix) (d : Reg)
  deriving DecidableEq, Repr

end Sys2Proof
end

