-- ==== Sys2Proof/WellFormed.lean ====
section
/-!
DEFINITION. What makes a term of the syntax an instruction of the opcode map: the size, scope and
exchange-form fields that 03_encoding R59 and R60 leave without a row. Everything else that raises ILLEGAL
is judged when the instruction issues (Machine/Forms).
-/

namespace Sys2Proof

/-- Sizes a load takes: fn 7 is a dash (07_memory_instructions R148). -/
def loadSizeOk (sz : BitVec 3) : Bool := sz != 7

/-- Sizes a store takes: fn 1, 3 and 7 are dashes (R148). -/
def storeSizeOk (sz : BitVec 3) : Bool := sz == 0 || sz == 2 || sz == 4 || sz == 5 || sz == 6

/-- LPULL and LPUSH without their exchange bit (11_integer_lane R270). -/
def notExchange (p : Option Prefix) : Bool := p.all fun x => !x.ext.getLsbD 0

def Instr.wf : Instr → Bool
  | .ld _ sz .. => loadSizeOk sz
  | .lds _ sz .. => loadSizeOk sz
  | .st _ sz .. => storeSizeOk sz
  | .sts _ sz .. => storeSizeOk sz
  | .stl _ sc .. => sc != 3
  | .lpull p .. => notExchange p
  | .lpush p .. => notExchange p
  | .lpullXch p .. => p.ext.getLsbD 0
  | .lpushXch p .. => p.ext.getLsbD 0
  | _ => true

end Sys2Proof
end

