-- ==== Sys2Proof/Decode.lean ====
section
/-!
DEFINITION. The instruction words (03_encoding R44 to R61): the four layouts, the decoder from words
and from bytes, and the encoder. A decoder arm takes a layout's fields apart once and refuses, by name,
what has no row: unassigned opcodes, function codes marked with a dash, a U bit the map does not allow,
and fields that must be zero. The decoder is marked noncomputable because compiled code cannot build a
constructor past the 245th of a type; the kernel evaluates it as it does any other definition, and
compiled code runs `step` through Machine/Run.
-/

namespace Sys2Proof

/-- Why a word is no instruction. -/
inductive DecodeError where
  /-- opcode 0x00, 0x7F or a reserved opcode (R61) -/
  | badOpcode
  /-- a function code marked with a dash (R59) -/
  | badFn
  /-- a U bit outside the U column (R48) -/
  | badU
  /-- a field that must be zero is not (R48) -/
  | reservedField
  /-- a clause header where an instruction is wanted (R52) -/
  | header
  /-- a prefix with a prefix or a header after it (R53) -/
  | strayPrefix
  /-- fewer bytes than the instruction has -/
  | short
  deriving DecidableEq, Repr

/-- The fields of a base word, by format (R45). A format M word is a format A word whose b field is imm7. -/
inductive Layout where
  | fmtA (op : BitVec 7) (fn : BitVec 3) (u : Bool) (d a b : Reg)
  | fmtI (op : BitVec 7) (u : Bool) (d a : Reg) (imm : BitVec 10)
  | fmtL (op : BitVec 7) (u : Bool) (d : Reg) (imm : BitVec 17)
  | fmtB (op : BitVec 7) (fn m : BitVec 3) (off : BitVec 19)
  deriving DecidableEq, Repr

def bit (x : Bool) : BitVec 1 := BitVec.ofBool x

/-- The base word of a layout. -/
def Layout.word : Layout → Word
  | .fmtA op fn u d a b => op ++ fn ++ bit u ++ d ++ a ++ b
  | .fmtI op u d a imm => op ++ bit u ++ d ++ a ++ imm
  | .fmtL op u d imm => op ++ bit u ++ d ++ imm
  | .fmtB op fn m off => op ++ fn ++ m ++ off

/-- The opcodes of formats I, L and B (R59, R60). -/
def isFormatI (op : BitVec 7) : Bool := (8 ≤ op.toNat && op.toNat ≤ 15) || op.toNat == 26
def isFormatL (op : BitVec 7) : Bool := 16 ≤ op.toNat && op.toNat ≤ 19
def isFormatB (op : BitVec 7) : Bool := 96 ≤ op.toNat && op.toNat ≤ 98

/-- A base word taken apart in the format its opcode selects. -/
def Layout.ofWord (w : Word) : Layout :=
  let op := w.extractLsb' 25 7
  if isFormatI op then .fmtI op (w.getLsbD 24) (w.extractLsb' 17 7) (w.extractLsb' 10 7) (w.extractLsb' 0 10)
  else if isFormatL op then .fmtL op (w.getLsbD 24) (w.extractLsb' 17 7) (w.extractLsb' 0 17)
  else if isFormatB op then .fmtB op (w.extractLsb' 22 3) (w.extractLsb' 19 3) (w.extractLsb' 0 19)
  else .fmtA op (w.extractLsb' 22 3) (w.getLsbD 21) (w.extractLsb' 14 7) (w.extractLsb' 7 7) (w.extractLsb' 0 7)

/-- The prefix word (R49). -/
def Prefix.word (p : Prefix) : Word :=
  126#7 ++ p.mask ++ bit p.z ++ p.rm ++ p.c ++ bit p.asc ++ bit p.bsc ++ bit p.sat ++ p.ext

def Prefix.ofWord (w : Word) : Prefix :=
  { mask := w.extractLsb' 22 3, z := w.getLsbD 21, rm := w.extractLsb' 18 3, c := w.extractLsb' 11 7
    asc := w.getLsbD 10, bsc := w.getLsbD 9, sat := w.getLsbD 8, ext := w.extractLsb' 0 8 }

def isPrefix (w : Word) : Bool := w.extractLsb' 25 7 == 126#7

/-- A clause header: 111110 in [31:26] (R52). -/
def isHeader (w : Word) : Bool := w.extractLsb' 26 6 == 62#6

/-- The fields of a clause header (R52). -/
def headerBackLink (w : Word) : Nat := (w.extractLsb' 20 6).toNat
def headerWait (w : Word) : BitVec 12 := w.extractLsb' 8 12
def headerFlagA (w : Word) : Nat := (w.extractLsb' 4 4).toNat
def headerFlagB (w : Word) : Nat := (w.extractLsb' 0 4).toNat

/-- Go on when a check holds; otherwise refuse by name. -/
def need {α : Type} (c : Bool) (e : DecodeError) (x : Except DecodeError α) : Except DecodeError α :=
  if c then x else .error e

noncomputable def decodeA01 (p : Option Prefix) (fn : BitVec 3) (u : Bool) (d a b : Reg) : Except DecodeError Instr :=
  match fn.toNat with
  | 0 => .ok (.add p u d a b)
  | 1 => .ok (.sub p u d a b)
  | 2 => .ok (.and p u d a b)
  | 3 => .ok (.or p u d a b)
  | 4 => .ok (.xor p u d a b)
  | 5 => .ok (.andn p u d a b)
  | 6 => .ok (.minI p u d a b)
  | _ => .ok (.maxI p u d a b)

noncomputable def decodeA02 (p : Option Prefix) (fn : BitVec 3) (u : Bool) (d a b : Reg) : Except DecodeError Instr :=
  match fn.toNat with
  | 0 => .ok (.shl p u d a b)
  | 1 => .ok (.shr p u d a b)
  | 2 => .ok (.sar p u d a b)
  | 3 => .ok (.rol p u d a b)
  | 4 => .ok (.ror p u d a b)
  | 5 => .ok (.minN p u d a b)
  | 6 => .ok (.maxN p u d a b)
  | _ => .ok (.adif p u d a b)

noncomputable def decodeA03 (p : Option Prefix) (fn : BitVec 3) (u : Bool) (d a b : Reg) : Except DecodeError Instr :=
  match fn.toNat with
  | 0 => .ok (.mul p u d a b)
  | 1 => .ok (.mulhI p u d a b)
  | 2 => .ok (.mulhN p u d a b)
  | 3 => .ok (.divI p u d a b)
  | 4 => .ok (.divN p u d a b)
  | 5 => .ok (.remI p u d a b)
  | 6 => .ok (.remN p u d a b)
  | _ => .ok (.mad p u d a b)

noncomputable def decodeA04 (p : Option Prefix) (fn : BitVec 3) (u : Bool) (d a b : Reg) : Except DecodeError Instr :=
  match fn.toNat with
  | 0 => need (b == 0#7) .reservedField <| .ok (.addx p u d a)
  | 1 => need (b == 0#7) .reservedField <| .ok (.subx p u d a)
  | 2 => need (b == 0#7) .reservedField <| .ok (.xorx p u d a)
  | 3 => need (b == 0#7) .reservedField <| .ok (.rolx p u d a)
  | 4 => need (b == 0#7) .reservedField <| .ok (.rorx p u d a)
  | 5 => need (a == 0#7 && b == 0#7) .reservedField <| .ok (.negx p u d)
  | 6 => need (a == 0#7 && b == 0#7) .reservedField <| .ok (.notx p u d)
  | _ => need (b == 0#7) .reservedField <| .ok (.mulx p u d a)

noncomputable def decodeA05 (p : Option Prefix) (fn : BitVec 3) (u : Bool) (d a b : Reg) : Except DecodeError Instr :=
  match fn.toNat with
  | 0 => need (b == 0#7) .reservedField <| .ok (.swap p u d a)
  | 1 => need (b == 0#7) .reservedField <| .ok (.cswap p u d a)
  | 2 => need (b == 0#7) .reservedField <| .ok (.clz p u d a)
  | 3 => need (b == 0#7) .reservedField <| .ok (.popc p u d a)
  | 4 => need (b == 0#7) .reservedField <| .ok (.brev p u d a)
  | 5 => .ok (.sel p u d a b)
  | 6 => need (b == 0#7) .reservedField <| .ok (.mov p u d a)
  | _ => .ok (.bfx p u d a b)

noncomputable def decodeA06 (p : Option Prefix) (fn : BitVec 3) (u : Bool) (d a b : Reg) : Except DecodeError Instr :=
  match fn.toNat with
  | 0 => need (d.extractLsb' 3 4 == 0#4) .reservedField <| .ok (.cmpEq p u (d.extractLsb' 0 3) a b)
  | 1 => need (d.extractLsb' 3 4 == 0#4) .reservedField <| .ok (.cmpNe p u (d.extractLsb' 0 3) a b)
  | 2 => need (d.extractLsb' 3 4 == 0#4) .reservedField <| .ok (.cmpLtI p u (d.extractLsb' 0 3) a b)
  | 3 => need (d.extractLsb' 3 4 == 0#4) .reservedField <| .ok (.cmpLeI p u (d.extractLsb' 0 3) a b)
  | 4 => need (d.extractLsb' 3 4 == 0#4) .reservedField <| .ok (.cmpLtN p u (d.extractLsb' 0 3) a b)
  | 5 => need (d.extractLsb' 3 4 == 0#4) .reservedField <| .ok (.cmpLeN p u (d.extractLsb' 0 3) a b)
  | 6 => need (d.extractLsb' 3 4 == 0#4) .reservedField <| .ok (.cmpTst p u (d.extractLsb' 0 3) a b)
  | _ => .error .badFn

noncomputable def decodeA18 (p : Option Prefix) (fn : BitVec 3) (u : Bool) (d a b : Reg) : Except DecodeError Instr :=
  match fn.toNat with
  | 0 => .ok (.addI64 p u d a b)
  | 1 => .ok (.subI64 p u d a b)
  | 2 => .ok (.andI64 p u d a b)
  | 3 => .ok (.orI64 p u d a b)
  | 4 => .ok (.xorI64 p u d a b)
  | 5 => .ok (.shlI64 p u d a b)
  | 6 => .ok (.shrI64 p u d a b)
  | _ => .ok (.sarI64 p u d a b)

noncomputable def decodeA19 (p : Option Prefix) (fn : BitVec 3) (u : Bool) (d a b : Reg) : Except DecodeError Instr :=
  match fn.toNat with
  | 0 => .ok (.mulI64 p u d a b)
  | 1 => .ok (.mulhI64 p u d a b)
  | 2 => .ok (.mulhN64 p u d a b)
  | 3 => need (b == 0#7) .reservedField <| .ok (.addxI64 p u d a)
  | 4 => need (b == 0#7) .reservedField <| .ok (.subxI64 p u d a)
  | 5 => need (b == 0#7) .reservedField <| .ok (.xorxI64 p u d a)
  | 6 => need (b == 0#7) .reservedField <| .ok (.swapI64 p u d a)
  | _ => .ok (.lea p u d a b)

noncomputable def decodeA20 (p : Option Prefix) (fn : BitVec 3) (u : Bool) (d a b : Reg) : Except DecodeError Instr :=
  match fn.toNat with
  | 0 => need (!u) .badU <| (match p with
      | some x => if x.ext.getLsbD 0 then .ok (.lpullXch x d a b) else .ok (.lpull p d a b)
      | none => .ok (.lpull p d a b))
  | 1 => need (!u) .badU <| (match p with
      | some x => if x.ext.getLsbD 0 then .ok (.lpushXch x d a b) else .ok (.lpush p d a b)
      | none => .ok (.lpush p d a b))
  | 2 => need (!u) .badU <| .ok (.lbcast p d a b)
  | 3 => need (!u) .badU <| .ok (.lxor p d a b)
  | 4 => need (!u) .badU <| .ok (.lup p d a b)
  | 5 => need (!u) .badU <| .ok (.ldown p d a b)
  | 6 => need (!u) .badU <| .ok (.lrot p d a b)
  | _ => .error .badFn

noncomputable def decodeA21 (p : Option Prefix) (fn : BitVec 3) (u : Bool) (d a b : Reg) : Except DecodeError Instr :=
  match fn.toNat with
  | 0 => need (!u) .badU <| need (d.extractLsb' 3 4 == 0#4 && b == 0#7) .reservedField <| .ok (.ballot p (d.extractLsb' 0 3) a)
  | 1 => need (!u) .badU <| need (d.extractLsb' 3 4 == 0#4 && b == 0#7) .reservedField <| .ok (.any p (d.extractLsb' 0 3) a)
  | 2 => need (!u) .badU <| need (d.extractLsb' 3 4 == 0#4 && b == 0#7) .reservedField <| .ok (.all p (d.extractLsb' 0 3) a)
  | 3 => need (!u) .badU <| need (b == 0#7) .reservedField <| .ok (.matchLanes p d a)
  | 4 => need (!u) .badU <| need (b == 0#7) .reservedField <| .ok (.mrank p d a)
  | 5 => need (!u) .badU <| need (d.extractLsb' 3 4 == 0#4 && b == 0#7) .reservedField <| .ok (.mlead p (d.extractLsb' 0 3) a)
  | 6 => need (!u) .badU <| need (b == 0#7) .reservedField <| .ok (.pfxpop p d a)
  | _ => .error .badFn

noncomputable def decodeA22 (p : Option Prefix) (fn : BitVec 3) (u : Bool) (d a b : Reg) : Except DecodeError Instr :=
  match fn.toNat with
  | 0 => need (!u) .badU <| need (b == 0#7) .reservedField <| .ok (.radd p d a)
  | 1 => need (!u) .badU <| need (b == 0#7) .reservedField <| .ok (.rmin p d a)
  | 2 => need (!u) .badU <| need (b == 0#7) .reservedField <| .ok (.rmax p d a)
  | 3 => need (!u) .badU <| need (b == 0#7) .reservedField <| .ok (.rand p d a)
  | 4 => need (!u) .badU <| need (b == 0#7) .reservedField <| .ok (.rorRed p d a)
  | 5 => need (!u) .badU <| need (b == 0#7) .reservedField <| .ok (.rxor p d a)
  | 6 => need (!u) .badU <| need (b == 0#7) .reservedField <| .ok (.scani p d a)
  | _ => need (!u) .badU <| need (b == 0#7) .reservedField <| .ok (.scanx p d a)

noncomputable def decodeA23 (p : Option Prefix) (fn : BitVec 3) (u : Bool) (d a b : Reg) : Except DecodeError Instr :=
  match fn.toNat with
  | 0 => need (u) .badU <| need (d.extractLsb' 3 4 == 0#4 && a.extractLsb' 3 4 == 0#4 && b.extractLsb' 3 4 == 0#4) .reservedField <| .ok (.mand p (d.extractLsb' 0 3) (a.extractLsb' 0 3) (b.extractLsb' 0 3))
  | 1 => need (u) .badU <| need (d.extractLsb' 3 4 == 0#4 && a.extractLsb' 3 4 == 0#4 && b.extractLsb' 3 4 == 0#4) .reservedField <| .ok (.mor p (d.extractLsb' 0 3) (a.extractLsb' 0 3) (b.extractLsb' 0 3))
  | 2 => need (u) .badU <| need (d.extractLsb' 3 4 == 0#4 && a.extractLsb' 3 4 == 0#4 && b.extractLsb' 3 4 == 0#4) .reservedField <| .ok (.mxor p (d.extractLsb' 0 3) (a.extractLsb' 0 3) (b.extractLsb' 0 3))
  | 3 => need (u) .badU <| need (d.extractLsb' 3 4 == 0#4 && a.extractLsb' 3 4 == 0#4 && b == 0#7) .reservedField <| .ok (.mnot p (d.extractLsb' 0 3) (a.extractLsb' 0 3))
  | 4 => need (u) .badU <| need (d.extractLsb' 3 4 == 0#4 && a.extractLsb' 3 4 == 0#4 && b == 0#7) .reservedField <| .ok (.mmov p (d.extractLsb' 0 3) (a.extractLsb' 0 3))
  | 5 => need (u) .badU <| need (a.extractLsb' 3 4 == 0#4 && b == 0#7) .reservedField <| .ok (.mpopc p d (a.extractLsb' 0 3))
  | 6 => need (u) .badU <| need (a.extractLsb' 3 4 == 0#4 && b == 0#7) .reservedField <| .ok (.mffs p d (a.extractLsb' 0 3))
  | _ => need (u) .badU <| need (d.extractLsb' 3 4 == 0#4 && b == 0#7) .reservedField <| .ok (.mset p (d.extractLsb' 0 3) a)

noncomputable def decodeA28 (p : Option Prefix) (t : Bool) (fn : BitVec 3) (u : Bool) (d a b : Reg) : Except DecodeError Instr :=
  match fn.toNat with
  | 0 => .ok (.fadd p t u d a b)
  | 1 => .ok (.fsub p t u d a b)
  | 2 => .ok (.fmul p t u d a b)
  | 3 => .ok (.fdiv p t u d a b)
  | 4 => .ok (.fmin p t u d a b)
  | 5 => .ok (.fmax p t u d a b)
  | 6 => .ok (.ffma p t u d a b)
  | _ => .ok (.fcopysign p t u d a b)

noncomputable def decodeA2A (p : Option Prefix) (t : Bool) (fn : BitVec 3) (u : Bool) (d a b : Reg) : Except DecodeError Instr :=
  match fn.toNat with
  | 0 => need (b == 0#7) .reservedField <| .ok (.fsqrt p t u d a)
  | 1 => need (b == 0#7) .reservedField <| .ok (.frsq p t u d a)
  | 2 => need (b == 0#7) .reservedField <| .ok (.frec p t u d a)
  | 3 => need (b == 0#7) .reservedField <| .ok (.fabs p t u d a)
  | 4 => need (b == 0#7) .reservedField <| .ok (.fneg p t u d a)
  | 5 => need (b == 0#7) .reservedField <| .ok (.frnd p t u d a)
  | 6 => need (b == 0#7) .reservedField <| .ok (.fclass p t u d a)
  | _ => .ok (.fscale p t u d a b)

noncomputable def decodeA2C (p : Option Prefix) (t : Bool) (fn : BitVec 3) (u : Bool) (d a b : Reg) : Except DecodeError Instr :=
  match fn.toNat with
  | 0 => need (b == 0#7) .reservedField <| .ok (.fexp p t u d a)
  | 1 => need (b == 0#7) .reservedField <| .ok (.fexp2 p t u d a)
  | 2 => need (b == 0#7) .reservedField <| .ok (.flog p t u d a)
  | 3 => need (b == 0#7) .reservedField <| .ok (.flog2 p t u d a)
  | 4 => need (b == 0#7) .reservedField <| .ok (.ferf p t u d a)
  | 5 => need (b == 0#7) .reservedField <| .ok (.ferfc p t u d a)
  | 6 => need (b == 0#7) .reservedField <| .ok (.fncdf p t u d a)
  | _ => need (b == 0#7) .reservedField <| .ok (.ftanh p t u d a)

noncomputable def decodeA2E (p : Option Prefix) (t : Bool) (fn : BitVec 3) (u : Bool) (d a b : Reg) : Except DecodeError Instr :=
  match fn.toNat with
  | 0 => need (d.extractLsb' 3 4 == 0#4) .reservedField <| .ok (.fcmpEq p t u (d.extractLsb' 0 3) a b)
  | 1 => need (d.extractLsb' 3 4 == 0#4) .reservedField <| .ok (.fcmpNe p t u (d.extractLsb' 0 3) a b)
  | 2 => need (d.extractLsb' 3 4 == 0#4) .reservedField <| .ok (.fcmpLt p t u (d.extractLsb' 0 3) a b)
  | 3 => need (d.extractLsb' 3 4 == 0#4) .reservedField <| .ok (.fcmpLe p t u (d.extractLsb' 0 3) a b)
  | 4 => need (d.extractLsb' 3 4 == 0#4) .reservedField <| .ok (.fcmpGt p t u (d.extractLsb' 0 3) a b)
  | 5 => need (d.extractLsb' 3 4 == 0#4) .reservedField <| .ok (.fcmpGe p t u (d.extractLsb' 0 3) a b)
  | 6 => need (d.extractLsb' 3 4 == 0#4) .reservedField <| .ok (.fcmpUn p t u (d.extractLsb' 0 3) a b)
  | _ => need (d.extractLsb' 3 4 == 0#4) .reservedField <| .ok (.fcmpOrd p t u (d.extractLsb' 0 3) a b)

noncomputable def decodeA30 (p : Option Prefix) (t : Bool) (fn : BitVec 3) (u : Bool) (d a b : Reg) : Except DecodeError Instr :=
  match fn.toNat with
  | 0 => .ok (.hadd p t u d a b)
  | 1 => .ok (.hsub p t u d a b)
  | 2 => .ok (.hmul p t u d a b)
  | 3 => .ok (.hfma p t u d a b)
  | 4 => .ok (.hmin p t u d a b)
  | 5 => .ok (.hmax p t u d a b)
  | _ => .error .badFn

noncomputable def decodeA32 (p : Option Prefix) (fn : BitVec 3) (u : Bool) (d a b : Reg) : Except DecodeError Instr :=
  match fn.toNat with
  | 0 => .ok (.cvt p u d a (b.extractLsb' 3 4) (b.extractLsb' 0 3))
  | 1 => .ok (.cvtPk2 p u d a (b.extractLsb' 3 4) (b.extractLsb' 0 3))
  | 2 => .ok (.cvtPk4 p u d a (b.extractLsb' 3 4) (b.extractLsb' 0 3))
  | 3 => .ok (.cvtPk8 p u d a (b.extractLsb' 3 4) (b.extractLsb' 0 3))
  | 4 => .ok (.unpk2 p u d a (b.extractLsb' 3 4) (b.extractLsb' 0 3))
  | 5 => .ok (.unpk4 p u d a (b.extractLsb' 3 4) (b.extractLsb' 0 3))
  | 6 => .ok (.unpk8 p u d a (b.extractLsb' 3 4) (b.extractLsb' 0 3))
  | _ => .error .badFn

noncomputable def decodeA38 (p : Option Prefix) (fn : BitVec 3) (u : Bool) (d a b : Reg) : Except DecodeError Instr :=
  need (loadSizeOk fn) .badFn <| .ok (.ld p fn u d a b)

noncomputable def decodeA39 (p : Option Prefix) (fn : BitVec 3) (u : Bool) (d a b : Reg) : Except DecodeError Instr :=
  need (storeSizeOk fn) .badFn <| .ok (.st p fn u d a b)

noncomputable def decodeA3A (p : Option Prefix) (fn : BitVec 3) (u : Bool) (d a b : Reg) : Except DecodeError Instr :=
  need (loadSizeOk fn) .badFn <| .ok (.lds p fn u d a b)

noncomputable def decodeA3B (p : Option Prefix) (fn : BitVec 3) (u : Bool) (d a b : Reg) : Except DecodeError Instr :=
  need (storeSizeOk fn) .badFn <| .ok (.sts p fn u d a b)

noncomputable def decodeA3C (p : Option Prefix) (fn : BitVec 3) (u : Bool) (d a b : Reg) : Except DecodeError Instr :=
  need (fn.extractLsb' 1 2 == 2#2) .badFn <| .ok (.xchg p (fn.getLsbD 0) u d a b)

noncomputable def decodeA3D (p : Option Prefix) (fn : BitVec 3) (u : Bool) (d a b : Reg) : Except DecodeError Instr :=
  need (fn.extractLsb' 1 2 == 2#2) .badFn <| .ok (.xchgs p (fn.getLsbD 0) u d a b)

noncomputable def decodeA3E (p : Option Prefix) (fn : BitVec 3) (u : Bool) (d a b : Reg) : Except DecodeError Instr :=
  .ok (.lda p (fn.extractLsb' 1 2) (fn.getLsbD 0) u d a b)

noncomputable def decodeA3F (p : Option Prefix) (fn : BitVec 3) (u : Bool) (d a b : Reg) : Except DecodeError Instr :=
  need (fn.extractLsb' 1 2 != 3#2) .badFn <| .ok (.stl p (fn.extractLsb' 1 2) (fn.getLsbD 0) u d a b)

noncomputable def decodeA40 (p : Option Prefix) (fn : BitVec 3) (u : Bool) (d a b : Reg) : Except DecodeError Instr :=
  match fn.toNat with
  | 0 => need (d == 0#7) .reservedField <| .ok (.cflush p u a b)
  | 1 => need (d == 0#7) .reservedField <| .ok (.cinv p u a b)
  | 2 => need (d == 0#7) .reservedField <| .ok (.cclean p u a b)
  | 3 => need (d == 0#7) .reservedField <| .ok (.pref p u a b)
  | 4 => need (d == 0#7) .reservedField <| .ok (.pref1 p u a b)
  | 5 => need (d == 0#7) .reservedField <| .ok (.ipref p u a b)
  | 6 => need (d == 0#7) .reservedField <| .ok (.spevict p u a b)
  | _ => .error .badFn

noncomputable def decodeA41 (p : Option Prefix) (fn : BitVec 3) (u : Bool) (d a b : Reg) : Except DecodeError Instr :=
  match fn.toNat with
  | 0 => need (u) .badU <| need (d == 0#7 && a == 0#7 && b.extractLsb' 2 5 == 0#5) .reservedField <| .ok (.fenceAcq p (b.extractLsb' 0 2))
  | 1 => need (u) .badU <| need (d == 0#7 && a == 0#7 && b.extractLsb' 2 5 == 0#5) .reservedField <| .ok (.fenceRel p (b.extractLsb' 0 2))
  | 2 => need (u) .badU <| need (d == 0#7 && a == 0#7 && b.extractLsb' 2 5 == 0#5) .reservedField <| .ok (.fenceAr p (b.extractLsb' 0 2))
  | 3 => need (u) .badU <| need (d == 0#7 && a == 0#7 && b.extractLsb' 2 5 == 0#5) .reservedField <| .ok (.fenceSc p (b.extractLsb' 0 2))
  | _ => .error .badFn

noncomputable def decodeA48 (p : Option Prefix) (t : Bool) (fn : BitVec 3) (u : Bool) (d a b : Reg) : Except DecodeError Instr :=
  match fn.toNat with
  | 0 => .ok (.aaddI p t u d a b)
  | 1 => .ok (.aaddF p t u d a b)
  | 2 => .ok (.aminI p t u d a b)
  | 3 => .ok (.amaxI p t u d a b)
  | 4 => .ok (.aand p t u d a b)
  | 5 => .ok (.aor p t u d a b)
  | 6 => .ok (.axor p t u d a b)
  | _ => .ok (.axch p t u d a b)

noncomputable def decodeA4A (p : Option Prefix) (fn : BitVec 3) (u : Bool) (d a b : Reg) : Except DecodeError Instr :=
  match fn.toNat with
  | 0 => .ok (.acasB32 p u d a b)
  | 1 => .ok (.acasB64 p u d a b)
  | _ => .error .badFn

noncomputable def decodeA4B (p : Option Prefix) (fn : BitVec 3) (u : Bool) (d a b : Reg) : Except DecodeError Instr :=
  match fn.toNat with
  | 0 => .ok (.aaddsI32 p u d a b)
  | 1 => .ok (.aaddsF32 p u d a b)
  | 2 => .ok (.aminsI p u d a b)
  | 3 => .ok (.amaxsI p u d a b)
  | 4 => .ok (.aands p u d a b)
  | 5 => .ok (.aors p u d a b)
  | 6 => .ok (.axors p u d a b)
  | _ => .ok (.axchs p u d a b)

noncomputable def decodeA4C (p : Option Prefix) (fn : BitVec 3) (u : Bool) (d a b : Reg) : Except DecodeError Instr :=
  match fn.toNat with
  | 0 => need (d == 0#7) .reservedField <| .ok (.daddI32 p u a b)
  | 1 => need (d == 0#7) .reservedField <| .ok (.daddF32 p u a b)
  | 2 => need (d == 0#7) .reservedField <| .ok (.daddF64 p u a b)
  | 3 => need (d == 0#7) .reservedField <| .ok (.dminI p u a b)
  | 4 => need (d == 0#7) .reservedField <| .ok (.dmaxI p u a b)
  | 5 => need (d == 0#7) .reservedField <| .ok (.daddI64 p u a b)
  | _ => .error .badFn

noncomputable def decodeA4D (p : Option Prefix) (fn : BitVec 3) (u : Bool) (d a b : Reg) : Except DecodeError Instr :=
  match fn.toNat with
  | 0 => .ok (.ratomAdd64 p u d a b)
  | 1 => .ok (.ratomCas64 p u d a b)
  | 2 => .ok (.ratomXch64 p u d a b)
  | 3 => .ok (.ratomRetry p u d a b)
  | _ => .error .badFn

noncomputable def decodeA4E (p : Option Prefix) (fn : BitVec 3) (u : Bool) (d a b : Reg) : Except DecodeError Instr :=
  match fn.toNat with
  | 0 => need (b == 0#7) .reservedField <| .ok (.rldB64 p u d a)
  | 1 => need (b == 0#7) .reservedField <| .ok (.rstB64 p u d a)
  | 2 => need (b == 0#7) .reservedField <| .ok (.rldB128 p u d a)
  | 3 => need (b == 0#7) .reservedField <| .ok (.rstB128 p u d a)
  | _ => .error .badFn

noncomputable def decodeA50 (p : Option Prefix) (fn : BitVec 3) (u : Bool) (d a b : Reg) : Except DecodeError Instr :=
  match fn.toNat with
  | 0 => need (u) .badU <| .ok (.bcopyG2s p d a b)
  | 1 => need (u) .badU <| .ok (.bcopyS2g p d a b)
  | 2 => need (u) .badU <| .ok (.bcopyG2g p d a b)
  | 3 => need (u) .badU <| .ok (.bcopyS2s p d a b)
  | 4 => need (u) .badU <| .ok (.bcopyV2s p d a b)
  | 5 => need (u) .badU <| .ok (.bcopyS2v p d a b)
  | _ => .error .badFn

noncomputable def decodeA51 (p : Option Prefix) (fn : BitVec 3) (u : Bool) (d a b : Reg) : Except DecodeError Instr :=
  match fn.toNat with
  | 0 => need (u) .badU <| need (d == 0#7) .reservedField <| .ok (.bbInit p a b)
  | 1 => need (u) .badU <| need (d == 0#7) .reservedField <| .ok (.bbExpect p a b)
  | 2 => need (u) .badU <| need (d == 0#7) .reservedField <| .ok (.bbArrive p a b)
  | 3 => need (u) .badU <| need (d == 0#7) .reservedField <| .ok (.bbWait p a b)
  | 4 => need (u) .badU <| .ok (.bbTest p d a b)
  | 5 => need (u) .badU <| need (d == 0#7 && b == 0#7) .reservedField <| .ok (.bbInval p a)
  | _ => .error .badFn

noncomputable def decodeA52 (p : Option Prefix) (fn : BitVec 3) (u : Bool) (d a b : Reg) : Except DecodeError Instr :=
  match fn.toNat with
  | 0 => need (u) .badU <| .ok (.tadd p d a b)
  | 1 => need (u) .badU <| .ok (.tmul p d a b)
  | 2 => need (u) .badU <| .ok (.tfma p d a b)
  | 3 => need (u) .badU <| .ok (.tmax p d a b)
  | 4 => need (u) .badU <| need (b == 0#7) .reservedField <| .ok (.tcvt p d a)
  | 5 => need (u) .badU <| need (b == 0#7) .reservedField <| .ok (.texp p d a)
  | 6 => need (u) .badU <| need (b == 0#7) .reservedField <| .ok (.tfill p d a)
  | _ => need (u) .badU <| need (b == 0#7) .reservedField <| .ok (.tcopy p d a)

noncomputable def decodeA53 (p : Option Prefix) (fn : BitVec 3) (u : Bool) (d a b : Reg) : Except DecodeError Instr :=
  match fn.toNat with
  | 0 => need (u) .badU <| need (b == 0#7) .reservedField <| .ok (.tfetch p d a)
  | 1 => need (u) .badU <| need (a == 0#7 && b == 0#7) .reservedField <| .ok (.tunpin p d)
  | _ => .error .badFn

noncomputable def decodeA58 (p : Option Prefix) (fn : BitVec 3) (u : Bool) (d a b : Reg) : Except DecodeError Instr :=
  need (u) .badU <| .ok (.mma p fn d a b)

noncomputable def decodeA59 (p : Option Prefix) (fn : BitVec 3) (u : Bool) (d a b : Reg) : Except DecodeError Instr :=
  need (u) .badU <| .ok (.mmaG p fn d a b)

noncomputable def decodeA5A (p : Option Prefix) (fn : BitVec 3) (u : Bool) (d a b : Reg) : Except DecodeError Instr :=
  match fn.toNat with
  | 0 => need (u) .badU <| need (d == 0#7 && b == 0#7) .reservedField <| .ok (.accZero p a)
  | 1 => need (!u) .badU <| need (b == 0#7) .reservedField <| .ok (.accRd p d a)
  | 2 => need (!u) .badU <| need (b == 0#7) .reservedField <| .ok (.accWr p d a)
  | 3 => need (u) .badU <| need (b == 0#7) .reservedField <| .ok (.accSt p d a)
  | 4 => need (u) .badU <| need (b == 0#7) .reservedField <| .ok (.accLd p d a)
  | 5 => need (u) .badU <| need (b == 0#7) .reservedField <| .ok (.sclLd p d a)
  | 6 => need (!u) .badU <| need (b == 0#7) .reservedField <| .ok (.sclRd p d a)
  | _ => .error .badFn

noncomputable def decodeA65 (p : Option Prefix) (fn : BitVec 3) (u : Bool) (d a b : Reg) : Except DecodeError Instr :=
  match fn.toNat with
  | 0 => need (d == 0#7 && a == 0#7 && b == 0#7) .reservedField <| .ok (.nop p u)
  | 1 => need (d == 0#7 && a == 0#7 && b == 0#7) .reservedField <| .ok (.exit p u)
  | 2 => need (u) .badU <| need (d == 0#7 && b == 0#7) .reservedField <| .ok (.ret p a)
  | 3 => need (u) .badU <| need (d == 0#7 && a == 0#7 && b == 0#7) .reservedField <| .ok (.yield p)
  | 4 => need (u) .badU <| need (d == 0#7 && b == 0#7) .reservedField <| .ok (.waitf p a)
  | 5 => need (u) .badU <| need (d == 0#7 && a == 0#7) .reservedField <| .ok (.brk p b)
  | 6 => need (u) .badU <| need (d == 0#7 && b == 0#7) .reservedField <| .ok (.trap p a)
  | _ => need (u) .badU <| need (d == 0#7) .reservedField <| .ok (.jmpr p a b)

noncomputable def decodeA68 (p : Option Prefix) (fn : BitVec 3) (u : Bool) (d a b : Reg) : Except DecodeError Instr :=
  match fn.toNat with
  | 0 => need (u) .badU <| need (d == 0#7 && b == 0#7) .reservedField <| .ok (.win p a)
  | 1 => need (!u) .badU <| .ok (.regld p d a b)
  | 2 => need (!u) .badU <| .ok (.regst p d a b)
  | 3 => need (u) .badU <| need (d == 0#7 && b == 0#7) .reservedField <| .ok (.rev p a)
  | 4 => need (u) .badU <| need (d == 0#7 && a == 0#7 && b == 0#7) .reservedField <| .ok (.commit p)
  | 5 => need (u) .badU <| need (d == 0#7 && a == 0#7 && b == 0#7) .reservedField <| .ok (.ckpt p)
  | 6 => need (u) .badU <| need (d == 0#7 && b == 0#7) .reservedField <| .ok (.hmode p a)
  | _ => need (u) .badU <| need (a == 0#7 && b == 0#7) .reservedField <| .ok (.cfrd p d)

noncomputable def decodeA6C (p : Option Prefix) (fn : BitVec 3) (u : Bool) (d a b : Reg) : Except DecodeError Instr :=
  match fn.toNat with
  | 0 => need (u) .badU <| need (b == 0#7) .reservedField <| .ok (.qput p d a)
  | 1 => need (u) .badU <| need (b.extractLsb' 3 4 == 0#4) .reservedField <| .ok (.qputNb p d a (b.extractLsb' 0 3))
  | 2 => need (u) .badU <| need (b == 0#7) .reservedField <| .ok (.qget p d a)
  | 3 => need (u) .badU <| need (b.extractLsb' 3 4 == 0#4) .reservedField <| .ok (.qgetNb p d a (b.extractLsb' 0 3))
  | 4 => need (u) .badU <| need (d == 0#7 && b == 0#7) .reservedField <| .ok (.spawn p a)
  | 5 => need (u) .badU <| need (d == 0#7 && b == 0#7) .reservedField <| .ok (.tdone p a)
  | 6 => need (u) .badU <| .ok (.steal p d a b)
  | _ => need (u) .badU <| need (b == 0#7) .reservedField <| .ok (.qstat p d a)

noncomputable def decodeA70 (p : Option Prefix) (fn : BitVec 3) (u : Bool) (d a b : Reg) : Except DecodeError Instr :=
  match fn.toNat with
  | 0 => need (u) .badU <| need (d == 0#7 && b == 0#7) .reservedField <| .ok (.barT p a)
  | 1 => need (u) .badU <| need (d == 0#7 && b == 0#7) .reservedField <| .ok (.barP p a)
  | 2 => need (u) .badU <| need (d == 0#7 && b == 0#7) .reservedField <| .ok (.barArrive p a)
  | 3 => need (u) .badU <| need (d == 0#7 && b == 0#7) .reservedField <| .ok (.barWait p a)
  | _ => .error .badFn

noncomputable def decodeA71 (p : Option Prefix) (fn : BitVec 3) (u : Bool) (d a b : Reg) : Except DecodeError Instr :=
  match fn.toNat with
  | 0 => need (u) .badU <| need (d == 0#7 && b == 0#7) .reservedField <| .ok (.dsync p a)
  | 1 => need (u) .badU <| need (d == 0#7 && b == 0#7) .reservedField <| .ok (.flushpt p a)
  | 2 => need (u) .badU <| need (d == 0#7 && b == 0#7) .reservedField <| .ok (.dclk p a)
  | _ => .error .badFn

noncomputable def decodeA78 (p : Option Prefix) (fn : BitVec 3) (u : Bool) (d a b : Reg) : Except DecodeError Instr :=
  match fn.toNat with
  | 0 => need (a == 0#7) .reservedField <| .ok (.srd p u d b)
  | 1 => need (d == 0#7) .reservedField <| .ok (.swr p u a b)
  | 2 => need (u) .badU <| need (d.extractLsb' 3 4 == 0#4 && b.extractLsb' 1 6 == 0#6) .reservedField <| .ok (.eret p (d.extractLsb' 0 3) a (b.getLsbD 0))
  | 3 => need (u) .badU <| need (d == 0#7 && a == 0#7 && b == 0#7) .reservedField <| .ok (.fqpark p)
  | 4 => need (u) .badU <| need (d == 0#7 && b == 0#7) .reservedField <| .ok (.flagsClr p a)
  | 5 => need (u) .badU <| need (d == 0#7 && a == 0#7 && b == 0#7) .reservedField <| .ok (.ctxsv p)
  | 6 => need (u) .badU <| need (a == 0#7 && b == 0#7) .reservedField <| .ok (.pairsig p d)
  | _ => .error .badFn

/-- The instruction of a base word's fields, under the prefix before it. -/
noncomputable def Layout.instr (p : Option Prefix) : Layout → Except DecodeError Instr
  | .fmtA op fn u d a b =>
    match op.toNat with
    | 1 => decodeA01 p fn u d a b
    | 2 => decodeA02 p fn u d a b
    | 3 => decodeA03 p fn u d a b
    | 4 => decodeA04 p fn u d a b
    | 5 => decodeA05 p fn u d a b
    | 6 => decodeA06 p fn u d a b
    | 24 => decodeA18 p fn u d a b
    | 25 => decodeA19 p fn u d a b
    | 32 => decodeA20 p fn u d a b
    | 33 => decodeA21 p fn u d a b
    | 34 => decodeA22 p fn u d a b
    | 35 => decodeA23 p fn u d a b
    | 40 => decodeA28 p false fn u d a b
    | 41 => decodeA28 p true fn u d a b
    | 42 => decodeA2A p false fn u d a b
    | 43 => decodeA2A p true fn u d a b
    | 44 => decodeA2C p false fn u d a b
    | 45 => decodeA2C p true fn u d a b
    | 46 => decodeA2E p false fn u d a b
    | 47 => decodeA2E p true fn u d a b
    | 48 => decodeA30 p false fn u d a b
    | 49 => decodeA30 p true fn u d a b
    | 50 => decodeA32 p fn u d a b
    | 56 => decodeA38 p fn u d a b
    | 57 => decodeA39 p fn u d a b
    | 58 => decodeA3A p fn u d a b
    | 59 => decodeA3B p fn u d a b
    | 60 => decodeA3C p fn u d a b
    | 61 => decodeA3D p fn u d a b
    | 62 => decodeA3E p fn u d a b
    | 63 => decodeA3F p fn u d a b
    | 64 => decodeA40 p fn u d a b
    | 65 => decodeA41 p fn u d a b
    | 72 => decodeA48 p false fn u d a b
    | 73 => decodeA48 p true fn u d a b
    | 74 => decodeA4A p fn u d a b
    | 75 => decodeA4B p fn u d a b
    | 76 => decodeA4C p fn u d a b
    | 77 => decodeA4D p fn u d a b
    | 78 => decodeA4E p fn u d a b
    | 80 => decodeA50 p fn u d a b
    | 81 => decodeA51 p fn u d a b
    | 82 => decodeA52 p fn u d a b
    | 83 => decodeA53 p fn u d a b
    | 88 => decodeA58 p fn u d a b
    | 89 => decodeA59 p fn u d a b
    | 90 => decodeA5A p fn u d a b
    | 101 => decodeA65 p fn u d a b
    | 104 => decodeA68 p fn u d a b
    | 108 => decodeA6C p fn u d a b
    | 112 => decodeA70 p fn u d a b
    | 113 => decodeA71 p fn u d a b
    | 120 => decodeA78 p fn u d a b
    | _ => .error .badOpcode
  | .fmtI op u d a i =>
    match op.toNat with
    | 8 => .ok (.addi p u d a i)
    | 9 => .ok (.andi p u d a i)
    | 10 => .ok (.ori p u d a i)
    | 11 => .ok (.xori p u d a i)
    | 12 => need (i.extractLsb' 5 5 == 0#5) .reservedField <| .ok (.shli p u d a (i.extractLsb' 0 5))
    | 13 => need (i.extractLsb' 5 5 == 0#5) .reservedField <| .ok (.shri p u d a (i.extractLsb' 0 5))
    | 14 => need (i.extractLsb' 5 5 == 0#5) .reservedField <| .ok (.sari p u d a (i.extractLsb' 0 5))
    | 15 => need (i.extractLsb' 5 5 == 0#5) .reservedField <| .ok (.roli p u d a (i.extractLsb' 0 5))
    | 26 => .ok (.addiI64 p u d a i)
    | _ => .error .badOpcode
  | .fmtL op u d i =>
    match op.toNat with
    | 16 => .ok (.addxi p u d i)
    | 17 => .ok (.xorxi p u d i)
    | 18 => .ok (.movi p u d i)
    | 19 => need (i.extractLsb' 15 2 == 0#2) .reservedField <| .ok (.movhi p u d (i.extractLsb' 0 15))
    | _ => .error .badOpcode
  | .fmtB op fn m off =>
    match op.toNat, fn.toNat with
    | 96, 0 => need (m == 0#3) .reservedField <| .ok (.brAlways p off)
    | 96, 1 => .ok (.brAny p m off)
    | 96, 2 => .ok (.brAll p m off)
    | 96, 3 => .ok (.brNone p m off)
    | 96, 4 => .ok (.brDiv p m off)
    | 97, 0 => need (m == 0#3) .reservedField <| .ok (.call p off)
    | 98, 0 => need (m == 0#3) .reservedField <| .ok (.join p off)
    | _, _ => .error .badFn

/-- The instruction of a base word under an optional prefix. -/
noncomputable def decodeBase (p : Option Prefix) (w : Word) : Except DecodeError Instr :=
  if isHeader w then .error .header
  else if isPrefix w then .error .strayPrefix
  else (Layout.ofWord w).instr p

/-- The instruction at the front of a list of words, and the words after it. -/
noncomputable def decodeWords : List Word → Except DecodeError (Instr × List Word)
  | [] => .error .short
  | w :: rest =>
    if isPrefix w then
      match rest with
      | [] => .error .short
      | b :: rest' =>
        if isHeader b || isPrefix b then .error .strayPrefix
        else (decodeBase (some (Prefix.ofWord w)) b).map fun i => (i, rest')
    else (decodeBase none w).map fun i => (i, rest)

/-- Words from bytes, little-endian (00_scope R4). -/
def wordsOfBytes : List Byte → List Word
  | b0 :: b1 :: b2 :: b3 :: t => (b3 ++ b2 ++ b1 ++ b0) :: wordsOfBytes t
  | _ => []

def bytesOfWord (w : Word) : List Byte :=
  [w.extractLsb' 0 8, w.extractLsb' 8 8, w.extractLsb' 16 8, w.extractLsb' 24 8]

/-- The decoder on bytes, total; it answers with the instruction and the bytes after it. -/
noncomputable def decode (bs : List Byte) : Except DecodeError (Instr × List Byte) :=
  match decodeWords (wordsOfBytes bs) with
  | .error e => .error e
  | .ok (i, rest) => .ok (i, bs.drop (bs.length / 4 * 4 - 4 * rest.length))

/-- The opcode of a pair of opcodes, the second for 64-bit or FP16 forms (R59). -/
def opOf (n : Nat) (t : Bool) : BitVec 7 := BitVec.ofNat 7 (if t then n + 1 else n)

/-- The prefix and the fields of the base word of an instruction form; the other agents' steps have none. -/
def Instr.layout : Instr → Option (Option Prefix × Layout)
  | .add p u d a b => some (p, .fmtA 1 0 u d a b)
  | .sub p u d a b => some (p, .fmtA 1 1 u d a b)
  | .and p u d a b => some (p, .fmtA 1 2 u d a b)
  | .or p u d a b => some (p, .fmtA 1 3 u d a b)
  | .xor p u d a b => some (p, .fmtA 1 4 u d a b)
  | .andn p u d a b => some (p, .fmtA 1 5 u d a b)
  | .minI p u d a b => some (p, .fmtA 1 6 u d a b)
  | .maxI p u d a b => some (p, .fmtA 1 7 u d a b)
  | .shl p u d a b => some (p, .fmtA 2 0 u d a b)
  | .shr p u d a b => some (p, .fmtA 2 1 u d a b)
  | .sar p u d a b => some (p, .fmtA 2 2 u d a b)
  | .rol p u d a b => some (p, .fmtA 2 3 u d a b)
  | .ror p u d a b => some (p, .fmtA 2 4 u d a b)
  | .minN p u d a b => some (p, .fmtA 2 5 u d a b)
  | .maxN p u d a b => some (p, .fmtA 2 6 u d a b)
  | .adif p u d a b => some (p, .fmtA 2 7 u d a b)
  | .mul p u d a b => some (p, .fmtA 3 0 u d a b)
  | .mulhI p u d a b => some (p, .fmtA 3 1 u d a b)
  | .mulhN p u d a b => some (p, .fmtA 3 2 u d a b)
  | .divI p u d a b => some (p, .fmtA 3 3 u d a b)
  | .divN p u d a b => some (p, .fmtA 3 4 u d a b)
  | .remI p u d a b => some (p, .fmtA 3 5 u d a b)
  | .remN p u d a b => some (p, .fmtA 3 6 u d a b)
  | .mad p u d a b => some (p, .fmtA 3 7 u d a b)
  | .addx p u d a => some (p, .fmtA 4 0 u d a 0)
  | .subx p u d a => some (p, .fmtA 4 1 u d a 0)
  | .xorx p u d a => some (p, .fmtA 4 2 u d a 0)
  | .rolx p u d a => some (p, .fmtA 4 3 u d a 0)
  | .rorx p u d a => some (p, .fmtA 4 4 u d a 0)
  | .negx p u d => some (p, .fmtA 4 5 u d 0 0)
  | .notx p u d => some (p, .fmtA 4 6 u d 0 0)
  | .mulx p u d a => some (p, .fmtA 4 7 u d a 0)
  | .swap p u d a => some (p, .fmtA 5 0 u d a 0)
  | .cswap p u d a => some (p, .fmtA 5 1 u d a 0)
  | .clz p u d a => some (p, .fmtA 5 2 u d a 0)
  | .popc p u d a => some (p, .fmtA 5 3 u d a 0)
  | .brev p u d a => some (p, .fmtA 5 4 u d a 0)
  | .sel p u d a b => some (p, .fmtA 5 5 u d a b)
  | .mov p u d a => some (p, .fmtA 5 6 u d a 0)
  | .bfx p u d a b => some (p, .fmtA 5 7 u d a b)
  | .cmpEq p u d a b => some (p, .fmtA 6 0 u (0#4 ++ d) a b)
  | .cmpNe p u d a b => some (p, .fmtA 6 1 u (0#4 ++ d) a b)
  | .cmpLtI p u d a b => some (p, .fmtA 6 2 u (0#4 ++ d) a b)
  | .cmpLeI p u d a b => some (p, .fmtA 6 3 u (0#4 ++ d) a b)
  | .cmpLtN p u d a b => some (p, .fmtA 6 4 u (0#4 ++ d) a b)
  | .cmpLeN p u d a b => some (p, .fmtA 6 5 u (0#4 ++ d) a b)
  | .cmpTst p u d a b => some (p, .fmtA 6 6 u (0#4 ++ d) a b)
  | .addi p u d a i => some (p, .fmtI 8 u d a i)
  | .andi p u d a i => some (p, .fmtI 9 u d a i)
  | .ori p u d a i => some (p, .fmtI 10 u d a i)
  | .xori p u d a i => some (p, .fmtI 11 u d a i)
  | .shli p u d a i => some (p, .fmtI 12 u d a (0#5 ++ i))
  | .shri p u d a i => some (p, .fmtI 13 u d a (0#5 ++ i))
  | .sari p u d a i => some (p, .fmtI 14 u d a (0#5 ++ i))
  | .roli p u d a i => some (p, .fmtI 15 u d a (0#5 ++ i))
  | .addxi p u d i => some (p, .fmtL 16 u d i)
  | .xorxi p u d i => some (p, .fmtL 17 u d i)
  | .movi p u d i => some (p, .fmtL 18 u d i)
  | .movhi p u d i => some (p, .fmtL 19 u d (0#2 ++ i))
  | .addI64 p u d a b => some (p, .fmtA 24 0 u d a b)
  | .subI64 p u d a b => some (p, .fmtA 24 1 u d a b)
  | .andI64 p u d a b => some (p, .fmtA 24 2 u d a b)
  | .orI64 p u d a b => some (p, .fmtA 24 3 u d a b)
  | .xorI64 p u d a b => some (p, .fmtA 24 4 u d a b)
  | .shlI64 p u d a b => some (p, .fmtA 24 5 u d a b)
  | .shrI64 p u d a b => some (p, .fmtA 24 6 u d a b)
  | .sarI64 p u d a b => some (p, .fmtA 24 7 u d a b)
  | .mulI64 p u d a b => some (p, .fmtA 25 0 u d a b)
  | .mulhI64 p u d a b => some (p, .fmtA 25 1 u d a b)
  | .mulhN64 p u d a b => some (p, .fmtA 25 2 u d a b)
  | .addxI64 p u d a => some (p, .fmtA 25 3 u d a 0)
  | .subxI64 p u d a => some (p, .fmtA 25 4 u d a 0)
  | .xorxI64 p u d a => some (p, .fmtA 25 5 u d a 0)
  | .swapI64 p u d a => some (p, .fmtA 25 6 u d a 0)
  | .lea p u d a b => some (p, .fmtA 25 7 u d a b)
  | .addiI64 p u d a i => some (p, .fmtI 26 u d a i)
  | .lpull p d a b => some (p, .fmtA 32 0 false d a b)
  | .lpush p d a b => some (p, .fmtA 32 1 false d a b)
  | .lpullXch p d a b => some (some p, .fmtA 32 0 false d a b)
  | .lpushXch p d a b => some (some p, .fmtA 32 1 false d a b)
  | .lbcast p d a b => some (p, .fmtA 32 2 false d a b)
  | .lxor p d a b => some (p, .fmtA 32 3 false d a b)
  | .lup p d a b => some (p, .fmtA 32 4 false d a b)
  | .ldown p d a b => some (p, .fmtA 32 5 false d a b)
  | .lrot p d a b => some (p, .fmtA 32 6 false d a b)
  | .ballot p d a => some (p, .fmtA 33 0 false (0#4 ++ d) a 0)
  | .any p d a => some (p, .fmtA 33 1 false (0#4 ++ d) a 0)
  | .all p d a => some (p, .fmtA 33 2 false (0#4 ++ d) a 0)
  | .matchLanes p d a => some (p, .fmtA 33 3 false d a 0)
  | .mrank p d a => some (p, .fmtA 33 4 false d a 0)
  | .mlead p d a => some (p, .fmtA 33 5 false (0#4 ++ d) a 0)
  | .pfxpop p d a => some (p, .fmtA 33 6 false d a 0)
  | .radd p d a => some (p, .fmtA 34 0 false d a 0)
  | .rmin p d a => some (p, .fmtA 34 1 false d a 0)
  | .rmax p d a => some (p, .fmtA 34 2 false d a 0)
  | .rand p d a => some (p, .fmtA 34 3 false d a 0)
  | .rorRed p d a => some (p, .fmtA 34 4 false d a 0)
  | .rxor p d a => some (p, .fmtA 34 5 false d a 0)
  | .scani p d a => some (p, .fmtA 34 6 false d a 0)
  | .scanx p d a => some (p, .fmtA 34 7 false d a 0)
  | .mand p d a b => some (p, .fmtA 35 0 true (0#4 ++ d) (0#4 ++ a) (0#4 ++ b))
  | .mor p d a b => some (p, .fmtA 35 1 true (0#4 ++ d) (0#4 ++ a) (0#4 ++ b))
  | .mxor p d a b => some (p, .fmtA 35 2 true (0#4 ++ d) (0#4 ++ a) (0#4 ++ b))
  | .mnot p d a => some (p, .fmtA 35 3 true (0#4 ++ d) (0#4 ++ a) 0)
  | .mmov p d a => some (p, .fmtA 35 4 true (0#4 ++ d) (0#4 ++ a) 0)
  | .mpopc p d a => some (p, .fmtA 35 5 true d (0#4 ++ a) 0)
  | .mffs p d a => some (p, .fmtA 35 6 true d (0#4 ++ a) 0)
  | .mset p d a => some (p, .fmtA 35 7 true (0#4 ++ d) a 0)
  | .fadd p t u d a b => some (p, .fmtA (opOf 40 t) 0 u d a b)
  | .fsub p t u d a b => some (p, .fmtA (opOf 40 t) 1 u d a b)
  | .fmul p t u d a b => some (p, .fmtA (opOf 40 t) 2 u d a b)
  | .fdiv p t u d a b => some (p, .fmtA (opOf 40 t) 3 u d a b)
  | .fmin p t u d a b => some (p, .fmtA (opOf 40 t) 4 u d a b)
  | .fmax p t u d a b => some (p, .fmtA (opOf 40 t) 5 u d a b)
  | .ffma p t u d a b => some (p, .fmtA (opOf 40 t) 6 u d a b)
  | .fcopysign p t u d a b => some (p, .fmtA (opOf 40 t) 7 u d a b)
  | .fsqrt p t u d a => some (p, .fmtA (opOf 42 t) 0 u d a 0)
  | .frsq p t u d a => some (p, .fmtA (opOf 42 t) 1 u d a 0)
  | .frec p t u d a => some (p, .fmtA (opOf 42 t) 2 u d a 0)
  | .fabs p t u d a => some (p, .fmtA (opOf 42 t) 3 u d a 0)
  | .fneg p t u d a => some (p, .fmtA (opOf 42 t) 4 u d a 0)
  | .frnd p t u d a => some (p, .fmtA (opOf 42 t) 5 u d a 0)
  | .fclass p t u d a => some (p, .fmtA (opOf 42 t) 6 u d a 0)
  | .fscale p t u d a b => some (p, .fmtA (opOf 42 t) 7 u d a b)
  | .fexp p t u d a => some (p, .fmtA (opOf 44 t) 0 u d a 0)
  | .fexp2 p t u d a => some (p, .fmtA (opOf 44 t) 1 u d a 0)
  | .flog p t u d a => some (p, .fmtA (opOf 44 t) 2 u d a 0)
  | .flog2 p t u d a => some (p, .fmtA (opOf 44 t) 3 u d a 0)
  | .ferf p t u d a => some (p, .fmtA (opOf 44 t) 4 u d a 0)
  | .ferfc p t u d a => some (p, .fmtA (opOf 44 t) 5 u d a 0)
  | .fncdf p t u d a => some (p, .fmtA (opOf 44 t) 6 u d a 0)
  | .ftanh p t u d a => some (p, .fmtA (opOf 44 t) 7 u d a 0)
  | .fcmpEq p t u d a b => some (p, .fmtA (opOf 46 t) 0 u (0#4 ++ d) a b)
  | .fcmpNe p t u d a b => some (p, .fmtA (opOf 46 t) 1 u (0#4 ++ d) a b)
  | .fcmpLt p t u d a b => some (p, .fmtA (opOf 46 t) 2 u (0#4 ++ d) a b)
  | .fcmpLe p t u d a b => some (p, .fmtA (opOf 46 t) 3 u (0#4 ++ d) a b)
  | .fcmpGt p t u d a b => some (p, .fmtA (opOf 46 t) 4 u (0#4 ++ d) a b)
  | .fcmpGe p t u d a b => some (p, .fmtA (opOf 46 t) 5 u (0#4 ++ d) a b)
  | .fcmpUn p t u d a b => some (p, .fmtA (opOf 46 t) 6 u (0#4 ++ d) a b)
  | .fcmpOrd p t u d a b => some (p, .fmtA (opOf 46 t) 7 u (0#4 ++ d) a b)
  | .hadd p t u d a b => some (p, .fmtA (opOf 48 t) 0 u d a b)
  | .hsub p t u d a b => some (p, .fmtA (opOf 48 t) 1 u d a b)
  | .hmul p t u d a b => some (p, .fmtA (opOf 48 t) 2 u d a b)
  | .hfma p t u d a b => some (p, .fmtA (opOf 48 t) 3 u d a b)
  | .hmin p t u d a b => some (p, .fmtA (opOf 48 t) 4 u d a b)
  | .hmax p t u d a b => some (p, .fmtA (opOf 48 t) 5 u d a b)
  | .cvt p u d a pf qf => some (p, .fmtA 50 0 u d a (pf ++ qf))
  | .cvtPk2 p u d a pf qf => some (p, .fmtA 50 1 u d a (pf ++ qf))
  | .cvtPk4 p u d a pf qf => some (p, .fmtA 50 2 u d a (pf ++ qf))
  | .cvtPk8 p u d a pf qf => some (p, .fmtA 50 3 u d a (pf ++ qf))
  | .unpk2 p u d a pf qf => some (p, .fmtA 50 4 u d a (pf ++ qf))
  | .unpk4 p u d a pf qf => some (p, .fmtA 50 5 u d a (pf ++ qf))
  | .unpk8 p u d a pf qf => some (p, .fmtA 50 6 u d a (pf ++ qf))
  | .ld p sz u d a i => some (p, .fmtA 56 sz u d a i)
  | .st p sz u d a i => some (p, .fmtA 57 sz u d a i)
  | .lds p sz u d a i => some (p, .fmtA 58 sz u d a i)
  | .sts p sz u d a i => some (p, .fmtA 59 sz u d a i)
  | .xchg p sz u d a i => some (p, .fmtA 60 (2#2 ++ bit sz) u d a i)
  | .xchgs p sz u d a i => some (p, .fmtA 61 (2#2 ++ bit sz) u d a i)
  | .lda p sc sz u d a i => some (p, .fmtA 62 (sc ++ bit sz) u d a i)
  | .stl p sc sz u d a i => some (p, .fmtA 63 (sc ++ bit sz) u d a i)
  | .cflush p u a b => some (p, .fmtA 64 0 u 0 a b)
  | .cinv p u a b => some (p, .fmtA 64 1 u 0 a b)
  | .cclean p u a b => some (p, .fmtA 64 2 u 0 a b)
  | .pref p u a b => some (p, .fmtA 64 3 u 0 a b)
  | .pref1 p u a b => some (p, .fmtA 64 4 u 0 a b)
  | .ipref p u a b => some (p, .fmtA 64 5 u 0 a b)
  | .spevict p u a b => some (p, .fmtA 64 6 u 0 a b)
  | .fenceAcq p sc => some (p, .fmtA 65 0 true 0 0 (0#5 ++ sc))
  | .fenceRel p sc => some (p, .fmtA 65 1 true 0 0 (0#5 ++ sc))
  | .fenceAr p sc => some (p, .fmtA 65 2 true 0 0 (0#5 ++ sc))
  | .fenceSc p sc => some (p, .fmtA 65 3 true 0 0 (0#5 ++ sc))
  | .aaddI p t u d a b => some (p, .fmtA (opOf 72 t) 0 u d a b)
  | .aaddF p t u d a b => some (p, .fmtA (opOf 72 t) 1 u d a b)
  | .aminI p t u d a b => some (p, .fmtA (opOf 72 t) 2 u d a b)
  | .amaxI p t u d a b => some (p, .fmtA (opOf 72 t) 3 u d a b)
  | .aand p t u d a b => some (p, .fmtA (opOf 72 t) 4 u d a b)
  | .aor p t u d a b => some (p, .fmtA (opOf 72 t) 5 u d a b)
  | .axor p t u d a b => some (p, .fmtA (opOf 72 t) 6 u d a b)
  | .axch p t u d a b => some (p, .fmtA (opOf 72 t) 7 u d a b)
  | .acasB32 p u d a b => some (p, .fmtA 74 0 u d a b)
  | .acasB64 p u d a b => some (p, .fmtA 74 1 u d a b)
  | .aaddsI32 p u d a b => some (p, .fmtA 75 0 u d a b)
  | .aaddsF32 p u d a b => some (p, .fmtA 75 1 u d a b)
  | .aminsI p u d a b => some (p, .fmtA 75 2 u d a b)
  | .amaxsI p u d a b => some (p, .fmtA 75 3 u d a b)
  | .aands p u d a b => some (p, .fmtA 75 4 u d a b)
  | .aors p u d a b => some (p, .fmtA 75 5 u d a b)
  | .axors p u d a b => some (p, .fmtA 75 6 u d a b)
  | .axchs p u d a b => some (p, .fmtA 75 7 u d a b)
  | .daddI32 p u a b => some (p, .fmtA 76 0 u 0 a b)
  | .daddF32 p u a b => some (p, .fmtA 76 1 u 0 a b)
  | .daddF64 p u a b => some (p, .fmtA 76 2 u 0 a b)
  | .dminI p u a b => some (p, .fmtA 76 3 u 0 a b)
  | .dmaxI p u a b => some (p, .fmtA 76 4 u 0 a b)
  | .daddI64 p u a b => some (p, .fmtA 76 5 u 0 a b)
  | .ratomAdd64 p u d a b => some (p, .fmtA 77 0 u d a b)
  | .ratomCas64 p u d a b => some (p, .fmtA 77 1 u d a b)
  | .ratomXch64 p u d a b => some (p, .fmtA 77 2 u d a b)
  | .ratomRetry p u d a b => some (p, .fmtA 77 3 u d a b)
  | .rldB64 p u d a => some (p, .fmtA 78 0 u d a 0)
  | .rstB64 p u d a => some (p, .fmtA 78 1 u d a 0)
  | .rldB128 p u d a => some (p, .fmtA 78 2 u d a 0)
  | .rstB128 p u d a => some (p, .fmtA 78 3 u d a 0)
  | .bcopyG2s p d a b => some (p, .fmtA 80 0 true d a b)
  | .bcopyS2g p d a b => some (p, .fmtA 80 1 true d a b)
  | .bcopyG2g p d a b => some (p, .fmtA 80 2 true d a b)
  | .bcopyS2s p d a b => some (p, .fmtA 80 3 true d a b)
  | .bcopyV2s p d a b => some (p, .fmtA 80 4 true d a b)
  | .bcopyS2v p d a b => some (p, .fmtA 80 5 true d a b)
  | .bbInit p a b => some (p, .fmtA 81 0 true 0 a b)
  | .bbExpect p a b => some (p, .fmtA 81 1 true 0 a b)
  | .bbArrive p a b => some (p, .fmtA 81 2 true 0 a b)
  | .bbWait p a b => some (p, .fmtA 81 3 true 0 a b)
  | .bbTest p d a b => some (p, .fmtA 81 4 true d a b)
  | .bbInval p a => some (p, .fmtA 81 5 true 0 a 0)
  | .tadd p d a b => some (p, .fmtA 82 0 true d a b)
  | .tmul p d a b => some (p, .fmtA 82 1 true d a b)
  | .tfma p d a b => some (p, .fmtA 82 2 true d a b)
  | .tmax p d a b => some (p, .fmtA 82 3 true d a b)
  | .tcvt p d a => some (p, .fmtA 82 4 true d a 0)
  | .texp p d a => some (p, .fmtA 82 5 true d a 0)
  | .tfill p d a => some (p, .fmtA 82 6 true d a 0)
  | .tcopy p d a => some (p, .fmtA 82 7 true d a 0)
  | .tfetch p d a => some (p, .fmtA 83 0 true d a 0)
  | .tunpin p d => some (p, .fmtA 83 1 true d 0 0)
  | .mma p fmt d a b => some (p, .fmtA 88 fmt true d a b)
  | .mmaG p fmt d a b => some (p, .fmtA 89 fmt true d a b)
  | .accZero p a => some (p, .fmtA 90 0 true 0 a 0)
  | .accRd p d a => some (p, .fmtA 90 1 false d a 0)
  | .accWr p d a => some (p, .fmtA 90 2 false d a 0)
  | .accSt p d a => some (p, .fmtA 90 3 true d a 0)
  | .accLd p d a => some (p, .fmtA 90 4 true d a 0)
  | .sclLd p d a => some (p, .fmtA 90 5 true d a 0)
  | .sclRd p d a => some (p, .fmtA 90 6 false d a 0)
  | .brAlways p off => some (p, .fmtB 96 0 0 off)
  | .brAny p m off => some (p, .fmtB 96 1 m off)
  | .brAll p m off => some (p, .fmtB 96 2 m off)
  | .brNone p m off => some (p, .fmtB 96 3 m off)
  | .brDiv p m off => some (p, .fmtB 96 4 m off)
  | .call p off => some (p, .fmtB 97 0 0 off)
  | .join p off => some (p, .fmtB 98 0 0 off)
  | .nop p u => some (p, .fmtA 101 0 u 0 0 0)
  | .exit p u => some (p, .fmtA 101 1 u 0 0 0)
  | .ret p a => some (p, .fmtA 101 2 true 0 a 0)
  | .yield p => some (p, .fmtA 101 3 true 0 0 0)
  | .waitf p a => some (p, .fmtA 101 4 true 0 a 0)
  | .brk p b => some (p, .fmtA 101 5 true 0 0 b)
  | .trap p a => some (p, .fmtA 101 6 true 0 a 0)
  | .jmpr p a b => some (p, .fmtA 101 7 true 0 a b)
  | .win p a => some (p, .fmtA 104 0 true 0 a 0)
  | .regld p d a k => some (p, .fmtA 104 1 false d a k)
  | .regst p d a k => some (p, .fmtA 104 2 false d a k)
  | .rev p a => some (p, .fmtA 104 3 true 0 a 0)
  | .commit p => some (p, .fmtA 104 4 true 0 0 0)
  | .ckpt p => some (p, .fmtA 104 5 true 0 0 0)
  | .hmode p a => some (p, .fmtA 104 6 true 0 a 0)
  | .cfrd p d => some (p, .fmtA 104 7 true d 0 0)
  | .qput p d a => some (p, .fmtA 108 0 true d a 0)
  | .qputNb p d a b => some (p, .fmtA 108 1 true d a (0#4 ++ b))
  | .qget p d a => some (p, .fmtA 108 2 true d a 0)
  | .qgetNb p d a b => some (p, .fmtA 108 3 true d a (0#4 ++ b))
  | .spawn p a => some (p, .fmtA 108 4 true 0 a 0)
  | .tdone p a => some (p, .fmtA 108 5 true 0 a 0)
  | .steal p d a b => some (p, .fmtA 108 6 true d a b)
  | .qstat p d a => some (p, .fmtA 108 7 true d a 0)
  | .barT p a => some (p, .fmtA 112 0 true 0 a 0)
  | .barP p a => some (p, .fmtA 112 1 true 0 a 0)
  | .barArrive p a => some (p, .fmtA 112 2 true 0 a 0)
  | .barWait p a => some (p, .fmtA 112 3 true 0 a 0)
  | .dsync p a => some (p, .fmtA 113 0 true 0 a 0)
  | .flushpt p a => some (p, .fmtA 113 1 true 0 a 0)
  | .dclk p a => some (p, .fmtA 113 2 true 0 a 0)
  | .srd p u d b => some (p, .fmtA 120 0 u d 0 b)
  | .swr p u a b => some (p, .fmtA 120 1 u 0 a b)
  | .eret p d a b => some (p, .fmtA 120 2 true (0#4 ++ d) a (0#6 ++ bit b))
  | .fqpark p => some (p, .fmtA 120 3 true 0 0 0)
  | .flagsClr p a => some (p, .fmtA 120 4 true 0 a 0)
  | .ctxsv p => some (p, .fmtA 120 5 true 0 0 0)
  | .pairsig p d => some (p, .fmtA 120 6 true d 0 0)
  | .clauseStart .. => none
  | .periodicSwapOpportunity .. => none
  | .flagACompletion .. => none
  | .storeEntry .. => none
  | .storeOrderPoint .. => none
  | .fenceComplete .. => none
  | .functionResult .. => none
  | .waitfRelease .. => none
  | .matrixSwap .. => none
  | .mmaComplete .. => none
  | .copyAccept .. => none
  | .copyElementLand .. => none
  | .tsweepComplete .. => none
  | .tfetchComplete .. => none
  | .accStComplete .. => none
  | .accLdComplete .. => none
  | .sclLdComplete .. => none
  | .tfetchRerunComplete .. => none
  | .responseLost .. => none
  | .savedRequestLapse .. => none
  | .keptValueExpiry .. => none
  | .rds .. => none
  | .rdx .. => none
  | .upg .. => none
  | .wbd .. => none
  | .fwds .. => none
  | .fwdx .. => none
  | .inv .. => none
  | .dataS .. => none
  | .dataE .. => none
  | .dataM .. => none
  | .ackM .. => none
  | .fwdack .. => none
  | .nodata .. => none
  | .invack .. => none
  | .wback .. => none
  | .sweeperTick => none
  | .patrolScrub => none
  | .mrepairPend .. => none
  | .mrepairGrant .. => none
  | .repairCopyDone => none
  | .mpcstatClr .. => none
  | .cbroleWrite .. => none
  | .bankDrainDone .. => none
  | .frameReservation .. => none
  | .spadPageFill .. => none
  | .spadEviction .. => none
  | .registerLineFill .. => none
  | .icacheMissFill .. => none
  | .reverseStep .. => none
  | .preempt .. => none
  | .copyStopTimeout .. => none
  | .saveComplete .. => none
  | .teamRestore .. => none
  | .cpTakeRecord .. => none
  | .launchExpand .. => none
  | .taskDeal .. => none
  | .taskStart .. => none
  | .coreSteal .. => none
  | .taskEnd .. => none
  | .joinAppend .. => none
  | .joinAppendTimeout .. => none
  | .queueHoldRelease .. => none
  | .qputTimeout .. => none
  | .domainAdmit => none
  | .dsyncGrant .. => none
  | .turnClose .. => none
  | .dclkRelease .. => none
  | .flushPoint .. => none
  | .segmentCompare .. => none
  | .clusterRebuild .. => none
  | .rebuildComplete .. => none
  | .watchdogWeft .. => none
  | .watchdogCluster .. => none
  | .watchdogCmdp .. => none
  | .watchdogHang .. => none
  | .faultEntryWrite .. => none
  | .fqHeadPoll .. => none
  | .faultReportDrop .. => none
  | .fqresume .. => none
  | .fqdiscard .. => none
  | .ctxstop .. => none
  | .ctxgo .. => none
  | .translationConfigWrite .. => none
  | .imagePoolWrite .. => none
  | .qcfgWrite .. => none
  | .qbaseWrite .. => none
  | .qpost .. => none
  | .msemTake .. => none
  | .msemGive .. => none
  | .mreset .. => none
  | .fwupd .. => none
  | .attctlGo .. => none
  | .attestDone => none
  | .dbgrev2 .. => none
  | .modidWrite .. => none
  | .registerWrite .. => none
  | .apertureRead .. => none
  | .apertureWrite .. => none
  | .portLinkDown .. => none
  | .moduleReset => none
  | .powerCapExceeded => none
  | .thermalTrip => none
  | .rld8 .. => none
  | .rld16 .. => none
  | .rst8 .. => none
  | .rst16 .. => none
  | .raddFlit .. => none
  | .rcas .. => none
  | .rxch .. => none
  | .rdata .. => none
  | .rack .. => none
  | .rerr .. => none
  | .idle .. => none
  | .nak .. => none
  | .train .. => none
  | .linkFail .. => none
  | .mmaOperandReadDone .. => none
  | .illegalEncoding .. => none
  | .flitCheckFailure .. => none
  | .unknownFlitType .. => none
  | .msixVectorUnmask .. => none
  | .managementSequencerLoss => none

/-- The words of an instruction form. -/
def encode (i : Instr) : List Word :=
  match i.layout with
  | some (some p, l) => [p.word, l.word]
  | some (none, l) => [l.word]
  | none => []

/-- The length of an instruction in words. -/
def Instr.len (i : Instr) : Nat := (encode i).length

/-- The instruction whose words, laid out as the hardware stores them, are the bits of `w`: bit 0 is the
least significant bit of the first word, and every bit from `nbits` up is zero. -/
noncomputable def decodeTableWord (nbits w : Nat) : Option Instr :=
  let v := w % 2 ^ nbits
  let bytes := (List.range 8).map fun k => BitVec.ofNat 8 (v >>> (8 * k))
  match decode bytes with
  | .ok (i, _) => some i
  | .error _ => none

end Sys2Proof
end

