-- ==== Sys2Proof/Machine/State.lean ====
section
/-!
DEFINITION. The state of the module as plain data, and its value after reset. Tables that the manual
lays out by number (registers, wefts, teams, cores, management offsets, memory) are `SMap`s whose unlisted
keys read as the reset value, so a table after reset lists nothing. What is absent after reset (a task, an
operation in flight, a message) is an empty list or table.
-/

namespace Sys2Proof.Machine

/-! ## Causes, faults and refusals -/

/-- The cause codes (18_traps R404). -/
inductive Cause where
  | illegal | clause | regbound | align | page | prot | spfault | spbound | fpx | shadow | converge | opbound
  | irrev | hfull | queue | detbuf | watchdog | brk | soft | pairmis | orphan | atomic | priv | noninv | queuefull
  deriving DecidableEq, Repr

/-- The number of a cause (R404). -/
def Cause.code : Cause → Nat
  | .illegal => 0x01 | .clause => 0x02 | .regbound => 0x03 | .align => 0x04 | .page => 0x05 | .prot => 0x06
  | .spfault => 0x07 | .spbound => 0x08 | .fpx => 0x09 | .shadow => 0x0A | .converge => 0x0B
  | .opbound => 0x0C | .irrev => 0x0D | .hfull => 0x0E | .queue => 0x0F | .detbuf => 0x10
  | .watchdog => 0x11 | .brk => 0x12 | .soft => 0x13 | .pairmis => 0x14 | .orphan => 0x15
  | .atomic => 0x16 | .priv => 0x17 | .noninv => 0x18 | .queuefull => 0x19

/-- Why the model stops. -/
inductive Fault where
  /-- A hardware structure (a ring, a table, an image, a descriptor) that the management registers place at or
  above CAP is read or written there. No memory exists at such an address (04_dram_l2 R74) and the manual gives no
  effect. Raised by the physical-memory operations of Machine/Memory. Safe: the model only stops. -/
  | noMemory (pa : Nat)
  deriving DecidableEq, Repr

/-- Why an instruction has no meaning here. -/
inductive Refusal where
  /-- The constructor has no meaning yet. Raised by Dispatch alone. Safe: the model only stops. -/
  | notModelled (mnemonic : String)
  deriving DecidableEq, Repr

/-! ## Wefts -/

/-- A word of the history stack. `opq` marks a word of a DIV payload, whose value is opaque (R207, R356). -/
structure HWord where
  v   : Word
  opq : Bool := false
  deriving DecidableEq, Repr

/-- A history record before it is laid out in words (R206). -/
structure Rec where
  kind    : Nat
  mask    : Mask
  payload : List HWord
  deriving DecidableEq, Repr

/-- An entry of the reconvergence stack (R341). -/
inductive StackEntry where
  | join (rpc : Dword) (mask : Mask)
  | path (ppc : Dword) (mask : Mask) (rpc : Dword)
  deriving DecidableEq, Repr

/-- A deferred lane fault (R407). -/
structure LaneFault where
  lane  : Nat
  cause : Cause
  ic    : Dword
  addr  : Dword
  deriving DecidableEq, Repr

/-- An imprecise cause that waits for its delivery point: before a clause or WAITF that waits on flag
`gate`, or before the next instruction when `gate` is none (R405). -/
structure Impr where
  cause : Cause
  pc    : Dword
  ic    : Dword
  lane  : Nat
  mask  : Mask
  addr  : Dword
  gate  : Option Nat
  deriving DecidableEq, Repr

/-- How the weft comes to the word at its PC: inside a clause, by falling through, by a fall-through tried again after a trap, by a transfer whose
arrival is still to be made, at a header it has arrived at, or at the clause of a path entry that R342 popped, whose
header is not checked again (R347). -/
inductive Entry where
  | body | fall | refall | xfer | arrived | popped
  deriving DecidableEq, Repr

/-- The undo entry of the last retired instruction: the records it pushed or would have pushed (R223). -/
structure Undo where
  ic   : Dword
  recs : List Rec
  deriving DecidableEq, Repr

/-- What a held instruction waits for. The instruction has passed its checks and has not retired. -/
inductive HoldKind where
  | waitf (mask : BitVec 12)
  /-- a FENCE of a kind at a scope (R157) -/
  | fence (fn scope : Nat)
  | bar (id inst : Nat)
  | bbwait (addr : Nat) (parity : Bool)
  | bbinval (addr : Nat)
  /-- a QPUT, or a SPAWN that posts to the origin queue: the queue and the record, byte 0 in the low bits -/
  | qput (q : Nat) (rec_ : BitVec 512)
  | qget (q addr : Nat)
  | dsync (n : Nat)
  | flushpt (epoch : Nat)
  | dclk (t : Dword)
  /-- a segment boundary of a redundant pair (R432) -/
  | boundary
  deriving DecidableEq, Repr

/-- A hold: what is waited for, the held instruction and the word after it, and the records it pushes when it
retires. -/
structure Hold where
  kind  : HoldKind
  pc    : Dword
  next  : Dword
  recs  : List Rec := []
  deriving DecidableEq, Repr

/-- What an instruction in flight does at memory when its lanes are performed (R149, R153, R154, R163, R169). -/
inductive FlightOp where
  | load | lda (scope : Nat) | xchg
  | lds | xchgs
  | atom (fn : Nat) | acas | atoms (fn : Nat)
  | rld | rst | ratom (fn : Nat) | retry
  | func
  /-- a local or remote access that the partner performs for both (R432 item 4) -/
  | mirror (remote : Bool)
  deriving DecidableEq, Repr

/-- One lane of an access: its address, the physical address it was translated to, its operands, and the value it
has been answered with. -/
structure LaneAcc where
  lane : Nat
  va   : Dword
  pa   : Nat
  gr   : Nat := 128
  x    : BitVec 128 := 0
  y    : Dword := 0
  val  : Option (BitVec 128) := none
  cause : Option Cause := none
  /-- the MMAs, by weft and place in its program order, that were reading its bytes at issue (R152) -/
  waits : List (Nat × Nat) := []
  deriving DecidableEq, Repr

/-- A long-latency instruction between its issue and its completion (R56). `d` is the first physical register of its
destination, or the scalar register. -/
structure Flight where
  op    : FlightOp
  seq   : Nat := 0
  flag  : Nat
  pc    : Dword
  ic    : Dword
  uni   : Bool
  d     : Nat
  words : Nat
  bytes : Nat
  sext  : Bool := false
  lanes : List LaneAcc
  zlanes : Mask := 0
  fflags : List (Nat × Byte) := []
  /-- its place among the accesses that have come to the core's L1 (R146) -/
  born  : Nat := 0
  deriving DecidableEq, Repr

/-- A run of bytes of a queued store. `hist` is the place, in words from A0, of the record payload that the old
bytes go to at the order point (R150, R151). -/
structure Piece where
  lane : Nat
  va   : Dword
  pa   : Nat := 0
  gr   : Nat := 128
  data : List Byte
  hist : Option Nat := none
  done : Bool := false
  /-- the MMAs that were reading its bytes at issue (R152) -/
  waits : List (Nat × Nat) := []
  deriving DecidableEq, Repr

/-- An instruction of the store queue (R146). `hdrs` are the headers of its records, in words from A0. -/
structure StoreEntry where
  seq     : Nat := 0
  pc      : Dword
  ic      : Dword
  flag    : Option Nat
  entered : Bool := false
  /-- its place among the accesses that have come to the core's L1, once it has entered (R146) -/
  born    : Nat := 0
  hdrs    : List Nat := []
  /-- an STS with lanes that wait for an MMA's operand read (R152) -/
  spad    : Bool := false
  /-- a later release at .t covers it (R154) -/
  released : Bool := false
  pieces  : List Piece
  deriving DecidableEq, Repr

/-- A global write of a redundant pair's open segment (R431): its address, size byte and data, and what it becomes when it is
released, pieces of a store-queue entry or a DATOM entry. -/
structure SegWrite where
  seq  : Nat := 0
  ic   : Dword
  va   : Dword
  size : Byte
  data : List Byte
  pa   : Nat := 0
  datom : Option (Nat × Nat) := none   -- function and lane
  pc   : Dword := 0
  pieces : List Piece := []
  hdrs : List Nat := []
  deriving DecidableEq, Repr

/-- The register file of a weft and its window (R35, R198, R202). Per-thread register `p` of lane `L` is key
`64 * p + L`. -/
structure Regs where
  v      : SMap Word := []
  s      : SMap Word := []
  m      : SMap Mask := []
  fflags : SMap Byte := []
  wb     : Nat := 0
  alloc  : Nat := 16
  fmode  : Word := 0
  deriving DecidableEq, Repr

/-- The history stack (R206 to R224). `words` is keyed by word index from A0. -/
structure Hist where
  words   : SMap HWord := []
  a0      : Dword := 0
  bytes   : Nat := 0
  hsp     : Dword := 0
  hbase   : Dword := 0
  hlim    : Dword := 0
  hcommit : Dword := 0
  on      : Bool := false
  mhist   : Bool := false
  undo    : Option Undo := none
  lastPc  : Dword := 0
  deriving DecidableEq, Repr

/-- Trap registers, handler mode, pending faults (R39, R405 to R413). -/
structure TrapRegs where
  tcause  : Word := 0
  tpc     : Dword := 0
  tmask   : Mask := 0
  taddr   : Dword := 0
  tlane   : Word := 0
  tic     : Dword := 0
  tamask  : Mask := 0
  handler : Bool := false
  resume  : Dword := 0
  /-- the clause and entry state of the resume point -/
  rEntry  : Entry := .body
  rHdr    : Dword := 0
  rFlagA  : Nat := 15
  rFlagB  : Nat := 15
  lanes   : List LaneFault := []
  /-- the lane faults that were pending, or were taken, when handler mode was entered: its end drops them (R408, R412) -/
  old     : List LaneFault := []
  impr    : List Impr := []
  /-- the imprecise causes that were pending when handler mode was entered: they are taken after its end (R407) -/
  later   : List Impr := []
  rejoin  : Mask := 0
  deriving DecidableEq, Repr

/-- Where the weft stands in its code (R52 to R57, R213). -/
structure Flow where
  pc     : Dword := 0
  ic     : Dword := 0
  dir    : Bool := false
  revT   : Dword := 0
  cf     : Dword := 0
  cfic   : Dword := 0xFFFFFFFFFFFFFFFF
  active : Mask := 0
  stack  : List StackEntry := []
  entry  : Entry := .xfer
  hdr    : Dword := 0
  flagA  : Nat := 15
  flagB  : Nat := 15
  deriving DecidableEq, Repr

/-- Scheduling and deterministic state of a weft (R41 to R43, R388 to R397). -/
structure Sched where
  inActive : Bool := false
  entered  : Nat := 0
  waits    : Nat := 0
  issues   : Nat := 0
  skip     : Dword := 0
  epoch    : Nat := 0
  turn     : Bool := false
  turnLeft : Nat := 0
  exitClock : Option Dword := none
  uncommitted : Bool := false
  /-- swap opportunities that have passed it over while it was pending and ready (R43 item 3) -/
  passed : Nat := 0
  deriving DecidableEq, Repr

/-- What the leading member's performance of an instruction gave, for its partner (R432 item 4). -/
structure SegResult where
  ic    : Dword
  vals  : List (Nat × BitVec 128) := []
  faults : List (Nat × Cause) := []
  bytes : List Byte := []
  deriving DecidableEq, Repr

/-- A segment that has ended and has not been compared (R431): its first IC, the IC at which it ended, the kind of the boundary
(0 CKPT, 1 implicit checkpoint, 2 irreversible instruction, 3 fence, 4 EXIT), the boundary's own contribution (R460), and its
writes. -/
structure ClosedSeg where
  start   : Dword
  stop    : Dword
  kind    : Nat
  contrib : List Byte := []
  writes  : List SegWrite := []
  deriving DecidableEq, Repr

/-- A redundant pair's segments in one weft (R431 to R433): the open one's first IC and writes, those that have ended, the
mismatches and the SOFT faults since the last match, the address at which the last mismatch differed, whether the boundary that holds
the weft has matched, a walk back that is under way, the trailing member's copies of released writes, and results taken from the
partner. -/
structure Segment where
  start   : Dword := 0
  writes  : List SegWrite := []
  closed  : List ClosedSeg := []
  retries : Nat := 0
  softs   : Nat := 0
  diff    : Dword := 0
  passed  : Bool := false
  walk    : Option Dword := none
  /-- the pair parks with PAIRMIS once both have walked back: the TADDR that it reports -/
  mis     : Option Dword := none
  kept    : List SegWrite := []
  results : List SegResult := []
  deriving DecidableEq, Repr

inductive WeftStatus where
  | absent | live | ended
  deriving DecidableEq, Repr

/-- A weft. The weft of index w of team t is key 16 t + w. -/
structure Weft where
  status : WeftStatus := .absent
  width  : Nat := 16
  role   : Nat := 0
  prio   : Nat := 0
  flow   : Flow := {}
  regs   : Regs := {}
  hist   : Hist := {}
  trap   : TrapRegs := {}
  sched  : Sched := {}
  seg    : Segment := {}
  flags  : SMap Nat := []
  flights : List Flight := []
  stores : List StoreEntry := []
  /-- the place in program order of the next access -/
  seq    : Nat := 0
  hold   : Option Hold := none
  deriving DecidableEq, Repr

/-! ## Teams -/

/-- A task record (R360, R361). -/
structure TaskRec where
  entry  : Dword := 0
  arg    : Dword := 0
  join   : Dword := 0
  tilex  : Word := 0
  tiley  : Word := 0
  tilez  : Word := 0
  flags  : Word := 0
  launch : Dword := 0
  preds  : Word := 0
  origin : BitVec 16 := 0
  zero   : BitVec 16 := 0
  tag    : Dword := 0
  deriving DecidableEq, Repr

/-- A launch block (R363). `zeros` says whether every zero field is zero. -/
structure Launch where
  verfl : Word := 0
  wcode : Byte := 0
  wefts : Byte := 0
  trav  : Byte := 0
  swz   : Byte := 0
  gx    : Word := 0
  gy    : Word := 0
  gz    : Word := 0
  scr   : Word := 0
  entry : Dword := 0
  arg   : Dword := 0
  fmode : Word := 0
  tq    : BitVec 16 := 0
  histb : Word := 0
  role0 : Dword := 0
  role1 : Dword := 0
  role2 : Dword := 0
  role3 : Dword := 0
  zeros : Bool := true
  deriving DecidableEq, Repr

/-- A barrier instance: which wefts have an arrival pending, its phase, and the greatest LC of an arrival (R385, R389). -/
structure BarInst where
  pending : BitVec 16 := 0
  phase   : Bool := false
  lc      : Dword := 0
  deriving DecidableEq, Repr

/-- A DATOM entry (R395). -/
structure DEntry where
  pa    : Nat
  fn    : Nat
  x     : Dword
  teamIx : Nat
  weft  : Nat
  lane  : Nat
  seq   : Nat
  epoch : Nat
  ic    : Dword
  /-- the core that issued it, whose sector a range makes it write back (17_determinism R396) -/
  core  : Nat := 0
  deriving DecidableEq, Repr

inductive TeamStatus where
  | absent
  | resident
  /-- being saved (R426); the argument is the KIND of fault-queue entry to write, or 4 for none -/
  | saving (kind : Nat)
  /-- saved with its entry written or waiting (R417) -/
  | parked (kind : Nat)
  /-- saved and waiting to be placed again as a record of priority 7 (R421, R422) -/
  | queued
  deriving DecidableEq, Repr

/-- What a park reports (R418). -/
structure Report where
  kind   : Nat := 0
  code   : Nat := 0
  cause  : Nat := 0
  cause2 : Nat := 0
  tlane  : Word := 0
  image  : Dword := 0
  tpc    : Dword := 0
  tic    : Dword := 0
  taddr  : Dword := 0
  tmask  : Dword := 0
  launch : Dword := 0
  record : Dword := 0
  tag    : Dword := 0
  team   : Nat := 0
  weft   : Nat := 0
  origin : Nat := 0
  preds  : Word := 0
  ctx    : Nat := 0
  /-- a team's entry waits for room; a report is dropped when the limit passes (R417) -/
  parked : Bool := false
  polled : Bool := true
  deriving DecidableEq, Repr

/-! ## Cores -/

/-- An iterator record's values (R175). -/
structure Iter where
  base  : Dword := 0
  fmt   : Nat := 0
  bcast : Nat := 0
  ext   : List Nat := [1, 1, 1, 1]
  str   : List Int := [0, 0, 0, 0]
  idx   : List Nat := [0, 0, 0, 0]
  glob  : Bool := false
  raw   : List Byte := []
  deriving DecidableEq, Repr

/-- A copy of the copy engine (R184 to R189). `next` is the lowest element not landed. -/
structure Copy where
  k     : Nat
  fn    : Nat
  bar   : Nat
  flag  : Nat
  pc    : Dword
  ic    : Dword
  src   : Iter
  dst   : Iter
  seq   : Nat := 0
  regs  : List Word := []     -- the register run that a V2S read
  run   : List Nat := []      -- the physical registers of an S2V run
  arg   : Word := 0           -- the register run as the instruction gave it
  next  : Nat
  accepted : Bool := false
  stopped : Bool := false
  deriving DecidableEq, Repr

/-- An operand of an MMA: its lines' first address or slot, and pitch (R299). -/
structure MDesc where
  addr : Nat
  slot : Bool
  ldu  : Nat
  deriving DecidableEq, Repr

/-- A row group of an MMA (R310); MMA has one group of 128 rows. -/
structure MGroup where
  rows : Nat
  scb  : Nat
  b    : MDesc
  deriving DecidableEq, Repr

inductive EngKind where
  | mma (fn tile : Nat) (accum : Bool) (sca : Nat) (a : MDesc) (groups : List MGroup)
  | tsweep (fn : Nat) (d : Iter) (srcs : List Iter) (fill : Dword)
  | tfetch (slot : Nat) (r : Iter)
  | accSt (tile : Nat) (int : Bool) (r : Iter)
  | accLd (tile : Nat) (r : Iter)
  | sclLd (first count addr : Nat)
  deriving DecidableEq, Repr

/-- An engine operation in flight. `opnds` holds the latched operand and scale bytes of an MMA once they are
read (R301); `hist` lists where old payload words go (R318). -/
structure EngOp where
  k     : Nat
  kind  : EngKind
  flag  : Nat
  pc    : Dword
  ic    : Dword
  lane  : Nat                 -- lowest lane of ACTIVE
  rm    : Nat
  phase : Nat
  fmode : Word
  sat   : Bool
  latched : Option (List Byte × List Byte × List Byte) := none
  hist  : Option Nat := none  -- word index from A0 of the first record of ACC.ST
  seq   : Nat := 0            -- place in program order of its accesses
  next  : Nat := 0            -- lowest element of an ACC.ST that is not written
  fl    : Byte := 0           -- flags of the elements an ACC.ST has written, and the address of the lowest that raised an enabled one
  bad   : Option Dword := none
  eats  : List Nat := []      -- slots whose last TFETCH before an MMA it consumes
  sets  : Nat := 0            -- operand sets of an MMA that have been read (R301)
  part  : List Byte × List Byte := ([], [])   -- and their lines of A and B
  unpin : Bool := false       -- TUNPIN has named the slot of a TFETCH: it pins nothing when it completes (R196)
  stopped : Bool := false
  deriving DecidableEq, Repr

/-- An operand-buffer slot (R194 to R197). -/
structure Slot where
  data  : SMap Byte := []
  snap  : Option (Nat × Iter) := none   -- team and record of the last TFETCH
  pins  : List Nat := []                -- pinned blocks
  used  : Bool := false                 -- its consuming MMA has completed
  unpin : Bool := false                 -- TUNPIN has named the slot since its last TFETCH
  rerun : Bool := false                 -- a restore re-run is in flight (R465)
  rerunProt : Option Dword := none
  deriving DecidableEq, Repr

/-- A team and its task. -/
structure Team where
  status : TeamStatus := .absent
  task   : TaskRec := {}
  launch : Launch := {}
  taskp  : Dword := 0
  sig    : Dword := 0
  ctx    : Nat := 0
  teamIx : Nat := 0
  nwefts : Nat := 0
  pair   : Bool := false          -- runs on a core pair (R33)
  core   : Nat := 0               -- the core, or the even core of the pair
  lastCore : Nat := 0
  image  : Nat := 0               -- IB (R423)
  imageLen : Nat := 0
  size   : Nat := 0               -- S (R129)
  spt    : SMap Dword := []       -- scratchpad page table entries (R132)
  release : Option Nat := none    -- old core whose frames are being released (R141)
  bars   : SMap BarInst := []     -- id i, instance j at 3 i + j
  member : Nat := 0               -- 0 no redundant pair, 1 leading, 2 trailing (R430)
  partner : Nat := 0
  launchId : Nat := 0             -- the launch being expanded that made it; 0 none
  domain : Nat := 0               -- deterministic domain; 0 none
  datoms : List DEntry := []
  matrixSaved : BitVec 2 := 0     -- per core parity: MATB holds this team's matrix state
  slots  : List (Nat × Nat × List Byte) := []  -- saved slot snapshots: parity, slot, record with VALID and PINNED
  copies : List (Nat × Copy) := []   -- copies in the engine table: core parity and copy
  ops    : List (Nat × EngOp) := []  -- engine operations in the engine table
  report : Report := {}
  noWayBack : Bool := false       -- parked pair that may not resume (R433)
  arrivalsOf : SMap Dword := []   -- greatest LC of BB.ARRIVE per barrier address (R389)
  deriving DecidableEq, Repr

/-- A resident scratchpad frame (R124, R137). -/
structure Frame where
  team : Nat
  page : Nat
  back : Dword                 -- the core's copy of the entry (R134)
  dirty : Bool := false
  /-- SPEVICT has named it while it was held: it leaves once it is released (07_memory_instructions R160) -/
  due : Bool := false
  ref  : Bool := true
  data : SMap Byte := []
  deriving DecidableEq, Repr

/-- A record of a local queue (R367): the record, its context, priority, its place in memory for TASKP (R468), and what
it belongs to. -/
structure LocalRec where
  task : TaskRec
  ctx  : Nat
  prio : Nat
  taskp : Dword := 0
  launch : Launch := {}
  launchId : Nat := 0
  spawned : Bool := false
  /-- its place among the launches and records held for a domain (17_determinism R387), 0 when it is not held; and the domain it has
  been given -/
  held  : Nat := 0
  domain : Nat := 0
  deriving DecidableEq, Repr

/-- A 32-byte sector of a non-coherent write-back range in a core's L1: its context and virtual address, W of the translation that
filled it, its place in physical memory, its bytes and which of them are dirty (R98, R108, R110). -/
structure NcSector where
  ctx   : Nat
  va    : Dword
  pa    : Nat
  w     : Bool
  data  : List Byte
  dirty : BitVec 32 := 0
  used  : Nat := 0
  deriving DecidableEq, Repr

structure Core where
  queue  : List LocalRec := []
  owner  : Option Nat := none
  tiles  : SMap Word := []         -- 16384 t + 128 r + c
  scales : SMap Byte := []         -- 128 i + j
  slots  : SMap Slot := []
  copies : List Copy := []
  ops    : List EngOp := []
  frames : SMap (Option Frame) := []
  hand   : Nat := 0
  nc     : List NcSector := []     -- non-coherent sectors of the L1
  roles  : Option Dword := none    -- the CBROLE value being drained for (R126)
  reserve : List (Nat × List Nat) := []   -- waiting frame reservations, in order (R138)
  stlb   : List (Nat × Nat) := []   -- the scratchpad TLB: teams and pages, newest first (R135)
  misses : Nat := 0                 -- counts misses that wefts of the core have met at issue (02_threads R41)
  arrived : Nat := 0                -- counts the accesses that have come to the L1 (R146)
  round  : List (Nat × Nat) := []   -- the issues of the present clock: unit 0 or 1 (vector pipes) or 2 (scalar unit), and weft (R26, R42)
  busy   : Nat × Nat := (0, 0)      -- clocks for which each vector pipe accepts nothing more (R26)
  deriving DecidableEq, Repr

/-! ## Caches of a cluster, the directory and the snoop filters -/

/-- A cluster TLB entry, and what its walk read as addresses and lengths (R110, R113). -/
structure TlbEntry where
  ctx   : Nat
  vpn   : Nat         -- VA[56:14] of the first 16 KiB page
  pages : Nat         -- 16 KiB pages it maps
  frame : Nat
  w     : Bool
  x     : Bool
  d     : Bool
  grain : Nat
  leaf  : Nat
  walked : List (Nat × Nat)
  deriving DecidableEq, Repr

/-- An instruction-cache line: 32 words, tagged by context and virtual address (R375). -/
structure ICLine where
  ctx  : Nat
  va   : Dword
  pa   : Nat
  words : List Word
  deriving DecidableEq, Repr

structure Cluster where
  tlb   : List TlbEntry := []
  icache : List ICLine := []
  rebuilding : Bool := false
  deriving DecidableEq, Repr

inductive CohState where
  | I | S | E | M | O
  deriving DecidableEq, Repr

/-- Directory state of a grain unit (R88). `presence` has bits 0 to 31 for clusters and 32 to 34 for dies. -/
structure UnitDir where
  state : CohState := .I
  owner : Option Nat := none
  presence : Dword := 0
  deriving DecidableEq, Repr

inductive MsgKind where
  | rdS | rdX | upg | wbD | fwdS | fwdX | inv | dataS | dataE | dataM | ackM | fwdAck | noData | invAck | wbAck
  deriving DecidableEq, Repr

/-- A coherence message in flight (R89). Agents: 0 to 127 are clusters, 128 to 131 the gateways of the dies, 132 the home slice of
the unit. `other` names the requester of a forward, or the new state of a FwdAck (0 I, 1 S, 4 O); in the write-back buffer it is 1
once the write-back has been applied or discarded; in a request it is an address in the unit, which the grain in force at the home
may make a larger or a smaller one (R86). `mark` is the attribute mark of an Inv (05_translation R109). -/
structure Msg where
  kind  : MsgKind
  src   : Nat
  dst   : Nat
  unit  : Nat
  gr    : Nat
  other : Nat := 0
  data  : List Byte := []
  mark  : Bool := false
  deriving DecidableEq, Repr

/-- An open transaction at the home (node 4) or at the gateway of die `node` (R91, R94, R95). -/
structure Txn where
  node  : Nat
  unit  : Nat
  gr    : Nat
  /-- the request that it serves; a forward or Inv from the home, at a gateway; wbD for a recall, a write-back or a back-invalidation -/
  req   : MsgKind
  from_ : Nat               -- the agent that asked
  other : Nat := 0          -- the requester that a forward names, or the address that a request names
  acks  : List Nat := []    -- agents whose InvAck is still due
  fwdTo : Option Nat := none -- the owner to forward to once they have come
  fwd   : Bool := false     -- the forward has gone
  atHome : Bool := false    -- the home's answer is due
  data  : List Byte := []   -- data that has been granted or collected
  dirty : Bool := false
  mark  : Bool := false     -- its Invs carry the attribute mark
  deriving DecidableEq, Repr

/-- A block's entry in the directory or in a die's snoop filter: grain, units, and age order (R86, R93, R94). -/
structure DirEntry where
  die   : Nat               -- 4 is the home directory, 0 to 3 the snoop filter of that die
  block : Nat
  grain : Nat
  units : SMap UnitDir
  deriving DecidableEq, Repr

/-- A coherent grain unit held in a core's L1, with its state and bytes (R87, R90), the context and virtual address that tag it, W of
the translation that filled it (05_translation R108, R110) and when it was last used. As core 1024 + c it is a line that cluster c holds
for its page walks and its instruction cache (R112, 16_scheduling R375). -/
structure L1Line where
  core : Nat
  base : Nat
  gr   : Nat
  st   : CohState
  data : List Byte
  ctx  : Nat := 0
  va   : Dword := 0
  w    : Bool := false
  used : Nat := 0
  deriving DecidableEq, Repr

/-- A request that a cluster has outstanding: an address of its unit, and the line that its grant fills. -/
structure Ask where
  cluster : Nat
  pa   : Nat
  core : Nat
  ctx  : Nat
  va   : Dword
  w    : Bool
  deriving DecidableEq, Repr

/-- A way of an L2 slice: its block, and which 32-byte sectors it holds (R84). Their bytes are those of home memory. -/
structure L2Way where
  block : Nat
  valid : BitVec 16
  deriving DecidableEq, Repr

structure Coherence where
  dir   : List DirEntry := []     -- most recently used first
  txns  : List Txn := []
  waiting : List Msg := []        -- requests waiting at homes and gateways, in arrival order
  msgs  : List Msg := []          -- in flight, in sending order
  wbuf  : List Msg := []          -- write-back buffers (R92)
  l1    : List L1Line := []
  asks  : List Ask := []          -- which holder a cluster's request is for
  ors   : List (Nat × Byte) := [] -- A and D of frames still to be set at their home (R121)
  clock : Nat := 0                -- counts uses of L1 lines, for their replacement (R127)
  l2    : List L2Way := []        -- most recently used first
  writers : SMap Nat := []        -- for bytes last written by a core's store, the core plus one (07_memory_instructions R154)
  /-- the weft and number of the access that the present step performs, which waits for no Inv of its own (R113) -/
  actor : Option (Nat × Nat) := none
  /-- the present step has met an access that must wait; such a step does not take place -/
  blocked : Bool := false
  deriving DecidableEq, Repr

/-! ## Scheduling, determinism, links, host -/

/-- A launch being expanded (R364) or whose tasks have not all ended. -/
structure LaunchRun where
  id    : Nat
  task  : TaskRec
  blk   : Launch
  ctx   : Nat
  queue : Nat
  next  : Nat           -- tasks already dealt
  ended : Nat
  domain : Nat := 0
  held  : Nat := 0
  deriving DecidableEq, Repr

/-- A task taken by a command processor and not yet dealt (R368), or an append that waits (R373). -/
structure DealRec where
  rec_  : LocalRec
  queue : Nat
  deriving DecidableEq, Repr

structure JoinAppend where
  task  : TaskRec
  queue : Nat
  ctx   : Nat
  report : Report
  deriving DecidableEq, Repr

/-- A deterministic domain (R387 to R399). -/
structure Domain where
  id     : Nat
  launchId : Nat            -- 0 for a one-team domain
  team   : Nat := 0
  applied : Nat := 0        -- flush points applied
  turn   : Option Nat := none
  entries : List DEntry := []    -- unapplied entries of teams that have ended
  lost   : List Nat := []        -- epochs at which wefts of discarded teams stood, which never end (16_scheduling R374)
  deriving DecidableEq, Repr

/-- A saved remote atomic (R172), or a value a peer keeps (R174). -/
structure SavedReq where
  peer : Nat
  id   : Nat
  flit : Flit
  /-- the place of its id among the ids assigned for the peer -/
  at_  : Nat := 0
  deriving DecidableEq, Repr

structure KeptVal where
  src  : Nat
  id   : Nat
  val  : Dword
  deriving DecidableEq, Repr

/-- A remote request whose answer is due: the weft, flight and lane that wait for it. -/
structure RemoteWait where
  link : Nat
  k    : Nat
  seq  : Nat
  lane : Nat
  peer : Nat
  flit : Flit
  /-- the place of its id among the ids assigned for the peer -/
  at_  : Nat := 0
  deriving DecidableEq, Repr

/-- One end of a plait link (R447, R448). -/
structure LinkEnd where
  sendSeq : Word := 0
  recvSeq : Word := 0
  kept    : List Flit := []
  out     : List Flit := []
  deriving DecidableEq, Repr

structure Fabric where
  links : SMap LinkEnd := []
  ids   : SMap Nat := []       -- next RATOM id per peer
  assigned : SMap Nat := []    -- RATOM ids assigned for each peer (R172)
  tags  : SMap Nat := []       -- next RLD and RST tag per peer
  waits : List RemoteWait := []
  saved : List SavedReq := []
  kept  : List KeptVal := []
  deriving DecidableEq, Repr

/-- What the module has sent to the host: messages and read completions (R443, R444). -/
inductive HostOut where
  | msix (port vec : Nat)
  | readData (off bytes : Nat) (v : Dword)
  | event (gen : Word) (capMib : Nat)
  deriving DecidableEq, Repr

/-- An access of a host or a request of a peer that waits its turn: held during a repair pause (R80), or behind one that must wait
(05_translation R113). -/
inductive HeldHost where
  | write (off bytes : Nat) (v : Dword)
  | read (off bytes : Nat)
  | post (q : Nat) (rec_ : BitVec 512)
  | flit (link : Nat) (f : Flit)
  deriving DecidableEq, Repr

/-- Upsets of the physical module that the manual's checks detect (R77, R249, R323, R429, R434, R437, R440). -/
inductive Upset where
  /-- what the shadow unit delivers for the instruction at this IC of this weft, by lane and element, and for its retry; in the lanes not
  named it delivers what the main unit does (R249) -/
  | shadow (k : Nat) (ic : Dword) (first again : List (Nat × List Nat))
  /-- the checksum column disagrees with this MMA, and with its re-run when `again` is set -/
  | checksum (k : Nat) (ic : Dword) (again : Bool)
  /-- a DRAM codeword has a correctable or an uncorrectable error -/
  | dram (pa : Nat) (uncorrectable : Bool)
  /-- an SRAM line of a team has a correctable or an uncorrectable error: kind 1 to 5 of R434, and the image offset -/
  | sram (team kind off : Nat) (uncorrectable : Bool)
  /-- a sector that L2 holds has a correctable or an uncorrectable error -/
  | l2 (pa : Nat) (uncorrectable : Bool)
  /-- a message of the unit between two dies has an uncorrectable error -/
  | link (unit : Nat)
  /-- a die's snoop filter, or the home's directory (node 4), has an uncorrectable error in the entry of a block -/
  | dir (node block : Nat)
  /-- the remap table has an uncorrectable error in what it says of a block -/
  | remap (block : Nat)
  deriving DecidableEq, Repr

/-- The order in which agents move and inputs arrive, so far as it is laid down: the issue of a weft, or the
step of another agent or of the outside world. -/
inductive Move where
  | issue (k : Nat)
  | event (i : Instr)
  deriving DecidableEq, Repr

/-- The firmware image in flash (R454 to R456): its digest and version, those of the image it left the factory with when
absent, and whether it has come to harm so that it no longer verifies. -/
structure Flash where
  digest  : Option Nat := none
  version : Option Nat := none
  bad     : Bool := false
  deriving DecidableEq, Repr

/-- The module's remap table (R75, R80, R81), as what has changed it. -/
structure Repair where
  done : List (Nat × Nat) := []     -- completed repairs in order: pseudo-channel, LIVE before it
  deriving DecidableEq, Repr

/-- What bring-up measures and attestation signs (R454, R457): the running firmware's version, MEAS0 to MEAS3, the digest being signed, and ATTSIG. -/
structure Identity where
  fwver  : BitVec 16 := 0
  meas   : List (BitVec 384) := [0, 0, 0, 0]
  digest : BitVec 384 := 0
  sig    : BitVec 768 := 0
  deriving DecidableEq, Repr

structure State where
  cur    : Nat := 0
  agenda : List Move := []
  freeTick : Nat := 0
  wefts  : SMap Weft := []
  teams  : SMap Team := []
  cores  : SMap Core := []
  clusters : SMap Cluster := []
  mem    : SMap Byte := []
  mgmt   : SMap Dword := []
  coh    : Coherence := {}
  fabric : Fabric := {}
  launches : List LaunchRun := []
  deals  : List DealRec := []
  joins  : List JoinAppend := []
  reports : List Report := []
  domains : List Domain := []
  stopped : List Nat := []           -- contexts stopped by CTXSTOP
  lastServed : SMap Nat := []        -- per command processor, the queue after the one it served last (R359)
  cmdpFailed : List Nat := []        -- command processors that the watchdog has reset (19_reliability R438)
  dealFrom : Nat := 0                -- the core at which placement order starts (R368)
  hostOut : List HostOut := []
  held   : List HeldHost := []
  repair : Repair := {}
  upsets : List Upset := []
  sweepNext : Nat := 0               -- next frame of the clock sweeper (R122)
  scrubNext : Nat := 0               -- next codeword of the patrol scrubber (R78)
  flash  : Flash := {}
  ident  : Identity := {}
  powered : Bool := true
  poolUsed : List (Nat × Nat) := []  -- image pool: base and length of each image (R421)
  stalled : List Nat := []           -- wefts whose next instruction cannot issue until something else has happened (R42)
  nextId : Nat := 1                  -- names for launches and domains
  deriving DecidableEq, Repr

/-- The module right after reset (20_host_fabric R453): every table empty, every register at its reset value, every
byte of memory at the value that unlisted memory reads as, and the model's own fields at zero. -/
def State.reset : State := {}

end Sys2Proof.Machine
end

