-- ==== Sys2Proof/Machine/Bits.lean ====
section
/-!
DEFINITION. Bit-field, byte-order and lane-mask helpers (00_scope R3, R4, R9).
-/

namespace Sys2Proof.Machine

/-- Bits [lo + n - 1 : lo] of a natural number. -/
def bitsN (v lo n : Nat) : Nat := (v >>> lo) % 2 ^ n

/-- Bits [lo + n - 1 : lo] of a register. -/
def bitsOf {w : Nat} (v : BitVec w) (lo n : Nat) : Nat := bitsN v.toNat lo n

/-- A register with bits [lo + n - 1 : lo] replaced. -/
def withBits {w : Nat} (v : BitVec w) (lo n x : Nat) : BitVec w :=
  let m : BitVec w := BitVec.ofNat w (2 ^ n - 1) <<< lo
  (v &&& ~~~m) ||| ((BitVec.ofNat w (x % 2 ^ n)) <<< lo)

/-- A little-endian run of bytes as a number (R4). -/
def leNat : List Byte → Nat
  | [] => 0
  | b :: t => b.toNat + 256 * leNat t

/-- The low `n` bytes of a number, little-endian (R4). -/
def leBytes : Nat → Nat → List Byte
  | 0, _ => []
  | n + 1, v => BitVec.ofNat 8 v :: leBytes n (v / 256)

def leWord (bs : List Byte) : Word := BitVec.ofNat 32 (leNat bs)
def leDword (bs : List Byte) : Dword := BitVec.ofNat 64 (leNat bs)

/-- Sign extension of the low `n` bits of a number, as an integer. -/
def sextN (v n : Nat) : Int :=
  let m := v % 2 ^ n
  if m < 2 ^ (n - 1) then (m : Int) else (m : Int) - (2 ^ n : Nat)

/-- A 64-bit pair from its low and high words (R4). -/
def pairOf (lo hi : Word) : Dword := hi ++ lo
def lowWord (v : Dword) : Word := v.setWidth 32
def highWord (v : Dword) : Word := (v >>> 32).setWidth 32

/-- The lanes below `w` that a mask names, ascending (R9). -/
def lanesOf (w : Nat) (m : Mask) : List Nat := (List.range w).filter fun L => m.getLsbD L

/-- The mask of lanes 0 to w - 1. -/
def fullMask (w : Nat) : Mask := BitVec.ofNat 64 (2 ^ w - 1)

/-- The mask of one lane. -/
def laneBit (L : Nat) : Mask := BitVec.ofNat 64 (2 ^ L)

def maskOf (ls : List Nat) : Mask := ls.foldl (fun m L => m ||| laneBit L) 0

/-- The lowest lane of a mask; 0 when it is empty. -/
def lowestLane (w : Nat) (m : Mask) : Nat := (lanesOf w m).headD 0

def popCount {w : Nat} (v : BitVec w) : Nat := ((List.range w).filter fun i => v.getLsbD i).length

/-- A signed minimum and the like need the integer value; `clampI` keeps a value between two limits. -/
def clampI (lo hi x : Int) : Int := if x < lo then lo else if hi < x then hi else x

/-- Address plus signed offset, modulo 2^64 (R143). -/
def addOff (a : Dword) (off : Int) : Dword := a + BitVec.ofInt 64 off

/-- Bits [63:56] all equal (05_translation R102). -/
def canonical (a : Dword) : Bool :=
  let top := a.extractLsb' 56 8
  top == 0#8 || top == 0xFF#8

end Sys2Proof.Machine
end

