-- ==== Sys2Proof/Machine/Memory.lean ====
section
/-!
DEFINITION. Physical memory and the tables of the state. Memory is one list of (address, byte) pairs in
canonical form; an address that is not listed reads as `unlisted` (notes/assumptions 2: the manual gives
no contents at power-on). Reads and writes of more than one byte go through one block operation.
-/

namespace Sys2Proof

namespace SMap
variable {β : Type}

/-- The pairs with keys in [lo, lo + n) replaced by a rising list of pairs. -/
def splice (m : SMap β) (lo n : Nat) (mid : SMap β) : SMap β :=
  (m.filter fun e => decide (e.1 < lo)) ++ mid ++ (m.filter fun e => decide (lo + n ≤ e.1))

/-- Values at lo, lo + 1, … as pairs, those that differ from the default. -/
def enum [DecidableEq β] (d : Nat → β) : Nat → List β → SMap β
  | _, [] => []
  | a, v :: t => if v = d a then enum d (a + 1) t else (a, v) :: enum d (a + 1) t

/-- Write consecutive keys. -/
def write [DecidableEq β] (d : Nat → β) (m : SMap β) (lo : Nat) (vs : List β) : SMap β :=
  m.splice lo vs.length (enum d lo vs)

/-- Read consecutive keys. -/
def read (d : Nat → β) (m : SMap β) (lo n : Nat) : List β :=
  let part := m.filter fun e => decide (lo ≤ e.1) && decide (e.1 < lo + n)
  (List.range n).map fun i => get d part (lo + i)

end SMap

namespace Machine

/-- What a byte of memory that nothing has written reads as: zero (notes/assumptions 2). -/
def unlisted : Nat → Byte := fun _ => 0

/-- The canonical form of memory. -/
def Memory.wf (m : SMap Byte) : Bool := SMap.wf unlisted m

/-- 768 MiB, the share of one pseudo-channel (04_dram_l2 R74). -/
def channelBytes : Nat := 768 * 2 ^ 20

/-! ## Tables with their defaults -/

def State.weft (s : State) (k : Nat) : Weft := SMap.get (fun _ => {}) s.wefts k
def State.setWeft (s : State) (k : Nat) (w : Weft) : State := { s with wefts := SMap.set (fun _ => {}) s.wefts k w }
def State.modWeft (s : State) (k : Nat) (f : Weft → Weft) : State := s.setWeft k (f (s.weft k))

def State.team (s : State) (t : Nat) : Team := SMap.get (fun _ => {}) s.teams t
def State.setTeam (s : State) (t : Nat) (x : Team) : State := { s with teams := SMap.set (fun _ => {}) s.teams t x }
def State.modTeam (s : State) (t : Nat) (f : Team → Team) : State := s.setTeam t (f (s.team t))

def State.core (s : State) (c : Nat) : Core := SMap.get (fun _ => {}) s.cores c
def State.setCore (s : State) (c : Nat) (x : Core) : State := { s with cores := SMap.set (fun _ => {}) s.cores c x }
def State.modCore (s : State) (c : Nat) (f : Core → Core) : State := s.setCore c (f (s.core c))

def State.cluster (s : State) (c : Nat) : Cluster := SMap.get (fun _ => {}) s.clusters c
def State.setCluster (s : State) (c : Nat) (x : Cluster) : State :=
  { s with clusters := SMap.set (fun _ => {}) s.clusters c x }
def State.modCluster (s : State) (c : Nat) (f : Cluster → Cluster) : State := s.setCluster c (f (s.cluster c))

/-- The team and weft index of a weft key. -/
def teamOf (k : Nat) : Nat := k / 16
def indexOf (k : Nat) : Nat := k % 16

/-! ## The management window's registers (R6 and the register maps) -/

/-- The value of a management register after reset, by its offset in the window. -/
def regReset (off : Nat) : Dword :=
  if off = 0x0000 then BitVec.ofNat 64 (1024 + 786432 * 2 ^ 32)      -- MCAP (R83)
  else if off = 0x0018 then 12                                       -- MSCRUB
  else if 0x20000 ≤ off ∧ off < 0x22000 ∧ off % 8 = 0 then 0x40000000  -- MPCSTAT
  else if off = 0x2018 then BitVec.ofNat 64 (0x1000 * 2 ^ 8 + 64 * 2 ^ 32)  -- FTCTL (R123)
  else if 0x4000 ≤ off ∧ off < 0x8000 ∧ off % 16 = 0 then 0xAA55555555550000  -- CBROLE (R125)
  else if 0x4000 ≤ off ∧ off < 0x8000 ∧ off % 16 = 8 then BitVec.ofNat 64 (160 * 2 ^ 10)  -- CBSTAT
  else if off = 0xA000 then BitVec.ofNat 64 (16 + 16 * 2 ^ 8 + 64 * 2 ^ 16)  -- WDCFG (R441)
  else if off = 0xB008 then 3                                        -- PORTSTAT.UP
  else if off = 0xB010 then BitVec.ofNat 64 (9600 + 9600 * 2 ^ 16)   -- PWRCAP (R446)
  else if off = 0xB028 then 0x1112                                   -- CAPS
  else if 0xC000 ≤ off ∧ off < 0xC400 ∧ off % 64 = 0 then BitVec.ofNat 64 (1 + 2 * 2 ^ 4)  -- PLCTL
  else if 0x200000 ≤ off ∧ off < 0x400000 ∧ off % 128 = 0 then BitVec.ofNat 64 (0xF * 2 ^ 8 + 2 ^ 24)  -- QCFG (R357)
  else if 0x400000 ≤ off ∧ off < 0x408000 ∧ off % 16 = 8 then 0x100000000  -- MSI-X entry: vector control, masked
  else if 0x480000 ≤ off ∧ off < 0x488000 ∧ off % 16 = 8 then 0x100000000
  else 0

def State.reg (s : State) (off : Nat) : Dword := SMap.get regReset s.mgmt off
def State.setReg (s : State) (off : Nat) (v : Dword) : State := { s with mgmt := SMap.set regReset s.mgmt off v }

/-- A field [lo + n - 1 : lo] of a management register. -/
def State.field (s : State) (off lo n : Nat) : Nat := bitsOf (s.reg off) lo n
def State.setField (s : State) (off lo n v : Nat) : State := s.setReg off (withBits (s.reg off) lo n v)
/-- Set one bit of a management register. -/
def State.setBit (s : State) (off i : Nat) : State := s.setField off i 1 1

/-- CAP, the bytes of DRAM reported (R74). -/
def State.cap (s : State) : Nat := s.field 0 0 11 * channelBytes

/-- The module is viral (19_reliability R440). -/
def State.viral (s : State) : Bool := (s.reg 0xA008).getLsbD 0

/-- The module runs tasks: it has core power, has been brought up, and is not viral (R440, R454, R458). -/
def State.running (s : State) : Bool := s.powered && !s.viral && s.field 0xB030 0 2 == 1

/-! ## Physical memory -/

def State.byte (s : State) (pa : Nat) : Byte := SMap.get unlisted s.mem pa

/-- Read `n` bytes at a physical address. -/
def State.readMem (s : State) (pa n : Nat) : List Byte := SMap.read unlisted s.mem pa n

/-- Write bytes at a physical address. -/
def State.writeMem (s : State) (pa : Nat) (bs : List Byte) : State :=
  { s with mem := SMap.write unlisted s.mem pa bs }

def State.readWord (s : State) (pa : Nat) : Word := leWord (s.readMem pa 4)
def State.readDword (s : State) (pa : Nat) : Dword := leDword (s.readMem pa 8)
def State.writeWord (s : State) (pa : Nat) (v : Word) : State := s.writeMem pa (leBytes 4 v.toNat)
def State.writeDword (s : State) (pa : Nat) (v : Dword) : State := s.writeMem pa (leBytes 8 v.toNat)

/-- Bytes [pa, pa + n) exist (R74). -/
def State.exists (s : State) (pa n : Nat) : Bool := decide (pa + n ≤ s.cap)

/-- A fresh free value, and the state with the counter advanced (notes/assumptions 6). -/
def State.tick (s : State) : State := { s with freeTick := s.freeTick + 1 }

end Machine
end Sys2Proof
end

