-- ==== Sys2Proof/Machine/Ops.lean ====
section
/-!
DEFINITION. The named operations on a weft: registers and windows (09_registers_history R202), masks
(02_threads R36), history records (R206 to R213), lane faults (18_traps R407), reconvergence (15_control_flow
R342, R344), taking a trap (R408) and returning from one (R412).
-/

namespace Sys2Proof.Machine

/-! ## Registers -/

/-- The physical register of a per-thread field value (R202). -/
def physReg (r : Regs) (f : Nat) : Nat := if f < 16 then f else r.wb + f

def zeroWord : Nat → Word := fun _ => 0
def zeroMask : Nat → Mask := fun _ => 0
def zeroByte : Nat → Byte := fun _ => 0
def zeroNat : Nat → Nat := fun _ => 0
def zeroH : Nat → HWord := fun _ => { v := 0 }

def Regs.getV (r : Regs) (p L : Nat) : Word := SMap.get zeroWord r.v (64 * p + L)
def Regs.setV (r : Regs) (p L : Nat) (x : Word) : Regs := { r with v := SMap.set zeroWord r.v (64 * p + L) x }
def Regs.getS (r : Regs) (n : Nat) : Word := SMap.get zeroWord r.s n
def Regs.setS (r : Regs) (n : Nat) (x : Word) : Regs := { r with s := SMap.set zeroWord r.s n x }

/-- A run of 1, 2 or 4 words, the lowest word in the lowest register (00_scope R4). -/
def joinWords : List Word → BitVec 128
  | [] => 0
  | w :: t => (joinWords t <<< 32) ||| w.setWidth 128

/-- The words of a value, lowest first. -/
def splitWords : Nat → BitVec 128 → List Word
  | 0, _ => []
  | n + 1, v => v.setWidth 32 :: splitWords n (v >>> 32)

/-- Words p, p + 1, … of lane L, or scalars from n up. -/
def Regs.wordsV (r : Regs) (p L n : Nat) : List Word := (List.range n).map fun i => r.getV (p + i) L
def Regs.wordsS (r : Regs) (n k : Nat) : List Word := (List.range k).map fun i => r.getS (n + i)

def Regs.setWordsV (r : Regs) (p L : Nat) : List Word → Regs
  | [] => r
  | x :: t => (r.setV p L x).setWordsV (p + 1) L t

def Regs.setWordsS (r : Regs) (n : Nat) : List Word → Regs
  | [] => r
  | x :: t => (r.setS n x).setWordsS (n + 1) t

/-- The value of a 64-bit scalar pair. -/
def Regs.pairS (r : Regs) (n : Nat) : Dword := pairOf (r.getS n) (r.getS (n + 1))

/-- A mask register; m0 is the active mask (R35). -/
def Weft.maskReg (w : Weft) (n : Nat) : Mask := if n = 0 then w.flow.active else SMap.get zeroMask w.regs.m n

/-- Write m1 to m7; bits at and above W are discarded (R36). -/
def Weft.setMaskReg (w : Weft) (n : Nat) (v : Mask) : Weft :=
  { w with regs := { w.regs with m := SMap.set zeroMask w.regs.m n (v &&& fullMask w.width) } }

def Weft.fflag (w : Weft) (L : Nat) : Byte := SMap.get zeroByte w.regs.fflags L
def Weft.setFflag (w : Weft) (L : Nat) (b : Byte) : Weft :=
  { w with regs := { w.regs with fflags := SMap.set zeroByte w.regs.fflags L b } }
/-- flags_or (00_scope R9). -/
def Weft.orFflag (w : Weft) (L : Nat) (b : Byte) : Weft := w.setFflag L (w.fflag L ||| b)

/-! ## Completion flags (R37) -/

def Weft.flagCount (w : Weft) (n : Nat) : Nat := SMap.get zeroNat w.flags n
def Weft.countFlag (w : Weft) (n : Nat) : Weft := { w with flags := SMap.set zeroNat w.flags n (w.flagCount n + 1) }
def Weft.dropFlag (w : Weft) (n : Nat) : Weft := { w with flags := SMap.set zeroNat w.flags n (w.flagCount n - 1) }
/-- Every flag that a wait mask names is clear. -/
def Weft.flagsClear (w : Weft) (m : BitVec 12) : Bool :=
  (List.range 12).all fun n => !m.getLsbD n || w.flagCount n == 0

/-! ## History records (R206, R207) -/

/-- Words as record payload. -/
def plain (ws : List Word) : List HWord := ws.map fun v => { v }

def kReg32 := 0x01
def kReg64 := 0x02
def kSreg := 0x03
def kMask := 0x04
def kFlags := 0x05
def kMem32 := 0x06
def kMem64 := 0x07
def kSpad32 := 0x08
def kWin := 0x09
def kCtrl := 0x0A
def kDiv := 0x0B
def kAcct := 0x0C
def kBarrier := 0x0D
def kCkpt := 0x0E

/-- The words of a record pushed by the instruction that retires at `ic` (R206). -/
def Rec.words (r : Rec) (ic : Dword) : List HWord :=
  let n := r.payload.length
  plain [BitVec.ofNat 32 (r.kind * 2 ^ 24 + n * 2 ^ 16 + bitsOf ic 0 16), lowWord r.mask, highWord r.mask]
    ++ r.payload ++ plain [BitVec.ofNat 32 (n + 4)]

/-- The word index of HSP from A0. -/
def Hist.top (h : Hist) : Nat := (h.hsp - h.a0).toNat / 4

/-- Push one record at HSP (R206). -/
def Hist.push (h : Hist) (ic : Dword) (r : Rec) : Hist :=
  let ws := r.words ic
  { h with words := SMap.write zeroH h.words h.top ws
           hsp := h.hsp + BitVec.ofNat 64 (4 * ws.length) }

def Hist.pushAll (h : Hist) (ic : Dword) (rs : List Rec) : Hist := rs.foldl (fun h r => h.push ic r) h

/-- Bytes between HSP and HLIM suffice for `n` words (R211). -/
def Hist.room (h : Hist) (n : Nat) : Bool := decide (h.hsp.toNat + 4 * n ≤ h.hlim.toNat)

/-- History is recorded: HIST is set and the weft is outside handler mode (R214). -/
def Weft.recording (w : Weft) : Bool := w.hist.on && !w.trap.handler

/-- The topmost record below HSP: its header's word index, the record, and its IC bits. None when the stack is empty or
its words do not form a record. -/
def Hist.topRec (h : Hist) : Option (Nat × Rec × Nat) :=
  let t := h.top
  let base := (h.hbase - h.a0).toNat / 4
  if t ≤ base + 3 then none else
  let len := (SMap.get zeroH h.words (t - 1)).v.toNat
  if len < 4 ∨ t < base + len then none else
  let at_ := t - len
  let hd := (SMap.get zeroH h.words at_).v.toNat
  if bitsN hd 16 8 + 4 ≠ len then none else
  let m := pairOf (SMap.get zeroH h.words (at_ + 1)).v (SMap.get zeroH h.words (at_ + 2)).v
  some (at_, { kind := bitsN hd 24 8, mask := m, payload := SMap.read zeroH h.words (at_ + 3) (len - 4) }, bitsN hd 0 16)

/-- HSP lowered to a record's header. -/
def Hist.popTo (h : Hist) (at_ : Nat) : Hist := { h with hsp := h.a0 + BitVec.ofNat 64 (4 * at_) }

/-- The FLAGS record of the lanes whose FFLAGS byte differs between two states of a weft, if any (R11, R207). -/
def flagsRec (old new : Weft) : Option Rec :=
  let ls := (List.range old.width).filter fun L => old.fflag L != new.fflag L
  if ls.isEmpty then none
  else some { kind := kFlags, mask := maskOf ls, payload := plain (ls.map fun L => (old.fflag L).setWidth 32) }

/-- A CTRL record of the present CF and CFIC (R213). -/
def Weft.ctrlRec (w : Weft) (active : Mask) : Rec :=
  { kind := kCtrl, mask := active
    payload := plain [lowWord w.flow.cf, highWord w.flow.cf, lowWord w.flow.cfic, highWord w.flow.cfic] }

/-- A record's payload of the old words of a destination in ascending lanes, or of a scalar run (R207). -/
def oldVec (w : Weft) (p n : Nat) (m : Mask) : List Word :=
  (lanesOf w.width m).flatMap fun L => w.regs.wordsV p L n

/-! ## Lane faults (R407) -/

/-- lane_fault: the lane leaves the active mask, its TMASK bit is set, and it keeps its own cause, IC and address. -/
def Weft.laneFault (w : Weft) (L : Nat) (c : Cause) (addr : Dword) : Weft :=
  { w with
    flow := { w.flow with active := w.flow.active &&& ~~~(laneBit L) }
    trap := { w.trap with tmask := w.trap.tmask ||| laneBit L
                          lanes := w.trap.lanes ++ [{ lane := L, cause := c, ic := w.flow.ic, addr := addr }] } }

/-- A lane of TMASK carries a fault that no trap has taken yet; those that were pending when handler mode was entered are
not taken in it (R406, R408). -/
def Weft.lanesPending (w : Weft) : Bool := !w.trap.lanes.isEmpty

/-- The lanes that carry a fault (R407, R421). -/
def TrapRegs.faulted (t : TrapRegs) : Mask := maskOf ((t.old ++ t.lanes).map fun f => f.lane)

/-! ## Reconvergence (R341 to R344) -/

def StackEntry.rpc : StackEntry → Dword
  | .join r _ => r
  | .path _ _ r => r

def StackEntry.mask : StackEntry → Mask
  | .join _ m => m
  | .path _ m _ => m

/-- Where an arrival ends: the stack left, the active mask, the clause, the entries removed (top first), and whether
the clause is that of a popped path entry. -/
structure Arrival where
  stack   : List StackEntry
  active  : Mask
  at_     : Dword
  removed : List StackEntry
  popped  : Bool
  deriving DecidableEq, Repr

/-- Arrive at clause header `h` (R342); with an empty active mask, at the RPC of the top entry (R344). -/
def arrive : List StackEntry → Mask → Dword → Bool → Arrival
  | [], m, h, p => { stack := [], active := m, at_ := h, removed := [], popped := p }
  | e :: t, m, h, p =>
    let h' := if m = 0 then e.rpc else h
    if e.rpc = h' then
      let r := match e with
        | .path ppc pm _ => arrive t pm ppc true
        | .join _ jm => arrive t jm h' false
      { r with removed := e :: r.removed }
    else { stack := e :: t, active := m, at_ := h', removed := [], popped := p && h' == h }

/-- The first two words of a DIV payload say which form pushed it; programs cannot read them (R356). -/
def divSplit := 1
def divReconv := 2
def divExit := 3

/-- A reconvergence-stack entry as four payload words (R356). -/
def entryWords : StackEntry → List HWord
  | .join r m => [⟨lowWord r, true⟩, ⟨highWord r, true⟩, ⟨lowWord m, true⟩, ⟨highWord m, true⟩]
  | .path p m _ => [⟨lowWord p ||| 1, true⟩, ⟨highWord p, true⟩, ⟨lowWord m, true⟩, ⟨highWord m, true⟩]

/-- The DIV record of a reconvergence that removed entries (R343). -/
def reconvRec (active : Mask) (removed : List StackEntry) : Rec :=
  { kind := kDiv, mask := active
    payload := ⟨BitVec.ofNat 32 (divReconv + 256 * removed.length), true⟩ :: ⟨0, true⟩ ::
      (removed.reverse.flatMap entryWords) }

/-- No walk back of a redundant pair is under way in the weft, nor waits for its partner (19_reliability R433). -/
def Segment.still (g : Segment) : Bool := g.walk.isNone && g.mis.isNone

/-! ## The context of a weft and its trap vector -/

/-- THVEC of a context (R420). -/
def thvec (ctx : Nat) : Nat := 0x10000 + 8 * ctx

def State.teamOfWeft (s : State) (k : Nat) : Team := s.team (teamOf k)
def State.ctxOf (s : State) (k : Nat) : Nat := (s.teamOfWeft k).ctx

/-- The core on which a weft runs (02_threads R33). -/
def State.coreOf (s : State) (k : Nat) : Nat :=
  let t := s.teamOfWeft k
  if t.pair then t.core + indexOf k % 2 else t.core

/-! ## Taking a trap (R405 to R408) -/

/-- A new report waits to be written to its context's fault queue, whose HEAD is read again (R417). -/
def State.report (s : State) (r : Report) : State :=
  let again := fun (y : Report) => if y.ctx = r.ctx then { y with polled := true } else y
  { s with reports := s.reports.map again ++ [r] }

/-- A report of a saved team (R418). -/
def Team.stamp (x : Team) (kind : Nat) (r : Report) : Report :=
  { r with kind := kind, launch := x.task.launch, tag := x.task.tag, team := x.teamIx, image := BitVec.ofNat 64 x.image
           origin := x.task.origin.toNat, preds := x.task.preds, ctx := x.ctx, parked := true }

/-- Begin to save a team and park it with a report (R405, R413, R426). -/
def parkTeam (s : State) (t kind : Nat) (r : Report) : State :=
  let x := s.team t
  -- a fault during a save that was to write no entry of its own cause makes it a park for the fault (R426)
  let open_ := match x.status with
    | .resident => true
    | .saving old => kind == 1 && (old == 2 || old == 4)
    | _ => false
  match open_ with
  | true =>
    let x := { x with status := .saving kind, report := x.stamp kind r }
    let s := s.setTeam t x
    -- both members of a redundant pair are saved together, and only this one writes an entry (19_reliability R430)
    if x.member = 0 then s
    else s.modTeam x.partner fun y => if y.status = .resident then { y with status := .saving 4 } else y
  | false => s

/-- Park for a cause of delivery Park: no handler runs (R405). The entry holds the lane that met the cause, and TMASK (R418). -/
def parkFor (s : State) (k : Nat) (c : Cause) (addr tpc tic : Dword) (lane : Nat) : State :=
  let w := s.weft k
  parkTeam s (teamOf k) 1 { cause := c.code, taddr := addr, tpc := tpc, tic := tic, tlane := BitVec.ofNat 32 lane
                            tmask := w.trap.tmask, weft := indexOf k }

/-- Park for a cause that the instruction or header at the weft's PC meets. -/
def parkCause (s : State) (k : Nat) (c : Cause) (addr : Dword) (lane : Nat := 0) : State :=
  let w := s.weft k
  parkFor s k c addr w.flow.pc w.flow.ic lane

/-- Park as FQPARK does, from the weft's trap registers (R413). -/
def fqpark (s : State) (k : Nat) (cause2 : Nat) : State :=
  let w := s.weft k
  let s := s.setWeft k { w with trap := { w.trap with rejoin := w.trap.tmask } }
  parkTeam s (teamOf k) 0 { cause := w.trap.tcause.toNat, cause2 := cause2, tlane := w.trap.tlane, tpc := w.trap.tpc
                            tic := w.trap.tic, taddr := w.trap.taddr, tmask := w.trap.tmask, weft := indexOf k }

/-- Trap entry: the trap registers are written, the trapped mask goes to TAMASK, the faulting lanes rejoin the active mask,
and the weft goes on in handler mode at THVEC.ADDR (R408). With THVEC.EN 0 the team parks as FQPARK would park it
there; a cause that arises in handler mode parks it with both causes (R406). `entry` is how the weft came to its
resume point, whose address is `resume`. -/
def takeTrap (s : State) (k : Nat) (c : Cause) (tpc tic addr : Dword) (lane : Nat) (resume : Dword)
    (entry : Entry) : State :=
  let w := s.weft k
  if w.trap.handler then fqpark s k c.code
  else
    let v := s.reg (thvec (s.ctxOf k))
    let t : TrapRegs := { w.trap with
      tcause := BitVec.ofNat 32 c.code, tpc := tpc, tic := tic, taddr := addr, tlane := BitVec.ofNat 32 lane
      tamask := w.flow.active, handler := true, resume := resume, old := w.trap.lanes, lanes := []
      impr := [], later := w.trap.impr
      rEntry := entry, rHdr := w.flow.hdr, rFlagA := w.flow.flagA, rFlagB := w.flow.flagB }
    let f : Flow := { w.flow with
      active := (w.flow.active ||| w.trap.tmask) &&& fullMask w.width
      pc := v &&& ~~~(3 : Dword), entry := .arrived }
    let s := s.setWeft k { w with trap := t, flow := f, hold := none, hist := { w.hist with undo := none } }
    if v.getLsbD 0 then s else fqpark s k 0

/-- Take the deferred lane faults: TLANE is the lowest lane that carries one, and the trap registers are that lane's
(R407). In handler mode they park the team. -/
def takeLaneTrap (s : State) (k : Nat) (resume : Dword) (entry : Entry) : State :=
  let w := s.weft k
  let L := lowestLane w.width (maskOf (w.trap.lanes.map fun f => f.lane))
  match (w.trap.lanes.filter fun f => f.lane == L).head? with
  | some f => takeTrap s k f.cause resume f.ic f.addr L resume entry
  | none => s

/-- Take an imprecise cause before the instruction or header at the resume point (R405). The lanes that it names carry it. -/
def takeImprecise (s : State) (k : Nat) (x : Impr) (resume : Dword) (entry : Entry) : State :=
  let s := s.modWeft k fun w =>
    let mine := (lanesOf w.width x.mask).map fun L => ({ lane := L, cause := x.cause, ic := x.ic, addr := x.addr } : LaneFault)
    { w with flow := { w.flow with active := w.flow.active &&& ~~~x.mask }
             trap := { w.trap with impr := w.trap.impr.erase x, tmask := w.trap.tmask ||| x.mask, lanes := w.trap.lanes ++ mine } }
  takeTrap s k x.cause x.pc x.ic x.addr x.lane resume entry

/-- The pending imprecise cause of the lowest IC among those that a predicate allows (R407). -/
def Weft.nextImprecise (w : Weft) (p : Impr → Bool) : Option Impr :=
  (w.trap.impr.filter p).foldl (fun best x =>
    match best with
    | none => some x
    | some b => if x.ic.toNat < b.ic.toNat then some x else some b) none

/-! ## Returning from a trap (R412, R214) -/

/-- Lanes of TMASK outside the rejoin mask leave every stack entry. -/
def dropLanes (m : Mask) : StackEntry → StackEntry
  | .join r x => .join r (x &&& ~~~m)
  | .path p x r => .path p (x &&& ~~~m) r

/-- The end of a weft (R353): it counts as arrived in every barrier from then on; Machine/Barrier releases the others. -/
def Weft.end_ (w : Weft) : Weft := { w with status := .ended, hold := none, flow := { w.flow with active := 0 } }

/-- The payload of an ERET's BARRIER record (R207, R214). -/
def eretMark : Word := BitVec.ofNat 32 (0x78 + 2 * 128)

/-- ERET's effect: handler mode ends, the lanes of `R` rejoin, the others end for the task, and the weft goes on at the
resume point, or by a transfer of the trapped code at an explicit target (R412, R214). -/
def returnTrap (w : Weft) (R : Mask) (target : Dword) : Weft :=
  let gone := w.trap.tmask &&& ~~~R
  let active := (w.trap.tamask ||| R) &&& fullMask w.width
  let atResume := target == w.trap.resume
  let t : TrapRegs := { w.trap with tmask := 0, handler := false, lanes := [], old := [], impr := w.trap.later ++ w.trap.impr, later := [] }
  let f : Flow := { w.flow with
    active := active, stack := w.flow.stack.map (dropLanes gone), pc := target
    entry := if atResume then w.trap.rEntry else .xfer
    hdr := w.trap.rHdr, flagA := w.trap.rFlagA, flagB := w.trap.rFlagB }
  let w := { w with trap := t, flow := f }
  if atResume then w
  else if w.hist.lastPc = 0 then
    let h := if w.hist.on then
        w.hist.push (w.flow.ic - 1) { kind := kBarrier, mask := active, payload := plain [eretMark] }
      else w.hist
    { w with hist := { h with undo := none }, flow := { w.flow with cf := 0, cfic := 0xFFFFFFFFFFFFFFFF } }
  else
    let h := if w.hist.on then w.hist.push (w.flow.ic - 1) (w.ctrlRec active) else w.hist
    { w with hist := { h with undo := none }, flow := { w.flow with cf := w.hist.lastPc, cfic := w.flow.ic - 1 } }

end Sys2Proof.Machine
end

