-- ==== Sys2Proof/Machine/Signal.lean ====
section
/-!
DEFINITION. What the module signals to its hosts: module events and MSI-X messages (20_host_fabric R444), the viral state
(19_reliability R440), and the correction of DRAM errors, which both may follow (04_dram_l2 R77).
-/

namespace Sys2Proof.Machine

/-! ## MSI-X (R444) -/

/-- The MSI-X enable of a port, in its configuration space: bit 0 MSI-X Enable, bit 1 Function Mask (log 14). -/
def msixControl (port : Nat) : Nat := 0x1000000 + 8 * port
/-- The table entries of a port: offset 0x40_0000 of its BAR 0. Port 1's are kept from 0x48_0000 up in the model. -/
def msixEntry (port vec : Nat) : Nat := 0x400000 + 0x80000 * port + 16 * vec
/-- The pending-bit array, one bit for each vector. -/
def msixPending (port vec : Nat) : Nat := 0x410000 + 0x80000 * port + 8 * (vec / 64)

def State.msixMasked (s : State) (port vec : Nat) : Bool :=
  (s.reg (msixControl port)).getLsbD 1 || (s.reg (msixEntry port vec + 8)).getLsbD 32

/-- Signal an event on one port: a message, or the pending bit of a masked vector. -/
def signalPort (vec : Nat) (s : State) (port : Nat) : State :=
  if !(s.reg (msixControl port)).getLsbD 0 then s
  else if s.msixMasked port vec then s.setBit (msixPending port vec) (vec % 64)
  else { s with hostOut := s.hostOut ++ [.msix port vec] }

/-- Signal an event on both ports; none is sent in the viral state. -/
def State.signal (s : State) (vec : Nat) : State :=
  if s.viral then s else [0, 1].foldl (signalPort vec) s

/-- The vector of a context's fault queue. -/
def ctxVector (ctx : Nat) : Nat := 1 + ctx % 2047

def mevt : Nat := 0xB060

/-- Set a bit of MEVT; a change from 0 to 1 is a module event. -/
def State.raise (s : State) (b : Nat) : State :=
  if (s.reg mevt).getLsbD b then s else (s.setBit mevt b).signal 0

def evRepPend := 0
def evCapChg := 1
def evRepFail := 2
def evRepDone := 3
def evCeHi := 4
def evBoot := 5
def evQErr := 6

/-! ## The viral state (R440, R441) -/

def vstat : Nat := 0xA008

/-- The module becomes viral; VSTAT keeps the first fatal error. -/
def State.goViral (s : State) (cause addr : Nat) : State :=
  if s.viral then s else s.setReg vstat (BitVec.ofNat 64 (1 + 16 * cause + addr / 4096 * 4096))

/-- A corrected error of a core SRAM or of L2 is counted; it leaves no other trace (R436). -/
def countSram (s : State) : State := s.setField 0xA010 32 32 (s.field 0xA010 32 32 + 1)

/-- A saturating counter field of 16 bits. -/
def State.countSat (s : State) (off lo : Nat) : State :=
  s.setField off lo 16 (min 0xFFFF (s.field off lo 16 + 1))

end Sys2Proof.Machine
end

