-- ==== Sys2Proof/Machine/Directory.lean ====
section
/-!
DEFINITION. Placement of blocks (04_dram_l2 R75, R76, R81), errors of DRAM (R77) and the slices of L2 (R84), the coherent value of a
byte, which the copies and messages that hold it give (R85 to R96), the directory and the snoop filters (R86 to R94), and what a cluster
drops when a page-table line is taken from it (05_translation R113). `mem` is home memory, the slices and the DRAM behind them.
-/

namespace Sys2Proof.Machine

/-! ## Placement -/

/-- The bucket of a block index (R75). -/
def bucket (B : Nat) : Nat :=
  (bitsN B 0 12) ^^^ (bitsN B 12 12) ^^^ (bitsN B 24 12) ^^^ (bitsN B 36 7)

/-- Pseudo-channel and slot of a block on a module that has never been repaired (R75). -/
def place0 (B : Nat) : Nat × Nat := (bucket B % 1024, bucket B / 1024)

/-- The blocks below `hi` and at or above `lo` whose data satisfies `p`, counted. -/
def countBlocks (p : Nat → Bool) (lo hi : Nat) : Nat := ((List.range (hi - lo)).filter fun i => p (lo + i)).length

/-- Where a block's data lies after the repairs of a list, oldest last: its own place, or the place of the withdrawn block
paired with it in ascending order (R81). The result is the block whose original place it occupies. -/
def placeAfter : List (Nat × Nat) → Nat → Nat
  | [], B => B
  | (pc, live) :: older, B =>
    let cap := live * channelBytes / 512
    let cap' := (live - 1) * channelBytes / 512
    let on := fun b => (place0 (placeAfter older b)).1 == pc
    if !on B then placeAfter older B
    else
      let rank := countBlocks on 0 B
      let spare := (List.range (cap - cap')).filter fun i => !on (cap' + i)
      placeAfter older (cap' + spare.getD rank 0)

/-- The block whose own place holds the data of a block. -/
def State.standsFor (s : State) (B : Nat) : Nat := placeAfter s.repair.done.reverse B

def State.placeOf (s : State) (B : Nat) : Nat × Nat := place0 (s.standsFor B)

/-- Where a block's data lies in DRAM: its pseudo-channel, and its index there (R75 step 3). -/
def State.location (s : State) (B : Nat) : Nat × Nat :=
  let b := s.standsFor B
  let (p, k) := place0 b
  (p, bitsN b 12 31 * 4 + k)

/-- The home die and global home slice of a physical address (R76). -/
def State.homeDie (s : State) (pa : Nat) : Nat := (s.placeOf (pa / 512)).1 / 256
def State.homeSlice (s : State) (pa : Nat) : Nat :=
  let (p, k) := s.placeOf (pa / 512)
  p / 256 * 512 + 2 * (p % 256) + k % 2

/-! ## Errors of DRAM (R77) -/

/-- MPCSTAT n (R83). -/
def mpcstat (n : Nat) : Nat := 0x20000 + 8 * n

/-- A corrected error of a pseudo-channel is counted; the count that reaches CETH sets CEHI and tells the firmware. -/
def countCorrected (pcn : Nat) (s : State) : State :=
  let n := min 0xFFFF (s.field (mpcstat pcn) 0 16 + 1)
  let s := s.setField (mpcstat pcn) 0 16 n
  if n < s.field (mpcstat pcn) 24 8 then s else (s.setBit (mpcstat pcn) 17).raise evCeHi

/-- The DRAM controller reads a codeword: a correctable error is written back and counted, an uncorrectable one makes the module
viral and its data is not delivered. The flag says that data is delivered. -/
def readCodeword (c : Nat) (s : State) : Bool × State :=
  s.upsets.foldl (fun (r : Bool × State) u => match u with
    | .dram pa unc =>
      if pa / 64 ≠ c then r
      else if unc then (false, r.2.goViral 1 pa)
      else
        let t := r.2
        (r.1, countCorrected (t.placeOf (pa / 512)).1 { t with upsets := t.upsets.erase u })
    | _ => r) (true, s)

/-- The codewords of a run of bytes are read. -/
def readCodewords (pa n : Nat) (s : State) : Bool × State :=
  if s.upsets.isEmpty then (true, s)
  else (List.range ((pa + n - 1) / 64 + 1 - pa / 64)).foldl (fun r i =>
    let x := readCodeword (pa / 64 + i) r.2
    (r.1 && x.1, x.2)) (true, s)

/-! ## Clusters and dies -/

def clusterOf (core : Nat) : Nat := core / 8
def dieOf (core : Nat) : Nat := core / 256

/-- The cluster of a line, and whether it is one that its walks or its instruction cache hold. -/
def L1Line.shared (l : L1Line) : Bool := decide (1024 ≤ l.core)
def L1Line.cluster (l : L1Line) : Nat := if l.shared then l.core - 1024 else clusterOf l.core
/-- The holder of the lines that a cluster's walks and instruction cache keep. -/
def walkerOf (c : Nat) : Nat := 1024 + c

/-! ## L2 (R84) -/

/-- Blocks share a set of a slice. -/
def State.sameL2Set (s : State) (a b : Nat) : Bool := s.homeSlice (a * 512) == s.homeSlice (b * 512) && Config.l2Set a == Config.l2Set b

/-- A slot's fetch keeps the block in its slice (08_copy_engine R195). -/
def State.pinned (s : State) (b : Nat) : Bool := s.cores.any fun x => x.2.slots.any fun y => y.2.pins.contains b

/-- The ways of a block's set; fewer than twelve ways in all fill no set, and are not told apart. -/
def State.l2Set (s : State) (b : Nat) : List L2Way :=
  if s.coh.l2.length < 12 then s.coh.l2 else s.coh.l2.filter fun w => s.sameL2Set w.block b

/-- A block may be pinned: at most 12 ways of its set are. -/
def State.mayPin (s : State) (b : Nat) : Bool :=
  s.pinned b || decide (((s.l2Set b).filter fun w => w.block != b && s.pinned w.block).length < 12)

/-- The sectors of a block that [pa, pa + n) meets. -/
def sectorsOf (b pa n : Nat) : BitVec 16 :=
  ((List.range 16).filter fun i => decide (pa < b * 512 + 32 * i + 32) && decide (b * 512 + 32 * i < pa + n)).foldl
    (fun m i => m ||| BitVec.ofNat 16 (2 ^ i)) 0

/-- The sectors of a block that its slice holds. -/
def State.l2Valid (s : State) (b : Nat) : BitVec 16 := ((s.coh.l2.find? fun w => w.block == b).map fun w => w.valid).getD 0

/-- The slice takes sectors of a block; a full set gives up a way that no fetch pins, the least recently used one (R84 names no order;
notes/assumptions 43). -/
def State.l2Fill (s : State) (b : Nat) (m : BitVec 16) : State :=
  let rest := s.coh.l2.filter fun w => w.block != b
  let victim := if rest.length < s.coh.l2.length ∨ (s.l2Set b).length < 16 then none
    else (s.l2Set b).findRev? fun w => !s.pinned w.block
  let rest := match victim with
    | some v => rest.erase v
    | none => rest
  { s with coh := { s.coh with l2 := { block := b, valid := s.l2Valid b ||| m } :: rest } }

/-- The blocks that [pa, pa + n) meets. -/
def blocksOf (pa n : Nat) : List Nat := if n = 0 then [] else (List.range ((pa + n - 1) / 512 + 1 - pa / 512)).map fun i => pa / 512 + i

/-- A read of home memory would go to DRAM. -/
def State.l2Misses (s : State) (pa n : Nat) : Bool := (blocksOf pa n).any fun b => sectorsOf b pa n &&& ~~~s.l2Valid b != 0

/-- The slices that hold [pa, pa + n) write it. -/
def State.l2Write (s : State) (pa n : Nat) : State := (blocksOf pa n).foldl (fun s b => s.l2Fill b (sectorsOf b pa n)) s

/-- Bytes written to home memory. -/
def State.homePut (s : State) (pa : Nat) (bs : List Byte) : State := (s.l2Write pa bs.length).writeMem pa bs

/-- A slice reads a sector that it holds: an error is corrected and counted, or makes the module viral (19_reliability R435, R440). -/
def readSector (a : Nat) (s : State) : Bool × State :=
  s.upsets.foldl (fun (r : Bool × State) u => match u with
    | .l2 pa unc =>
      if pa / 32 ≠ a then r
      else if unc then (false, r.2.goViral 2 pa)
      else (r.1, countSram { r.2 with upsets := r.2.upsets.erase u })
    | _ => r) (true, s)

/-- They read it: sectors that they lack come from DRAM, whose codewords are checked (R77). The flag says that data is delivered. -/
def State.l2Read (s : State) (pa n : Nat) : Bool × State :=
  (blocksOf pa n).foldl (fun r b =>
    let lacks := sectorsOf b pa n &&& ~~~r.2.l2Valid b
    let x := if r.2.upsets.isEmpty then (true, r.2)
      else ((List.range 16).filter fun i => (sectorsOf b pa n).getLsbD i).foldl (fun y i =>
        let z := if lacks.getLsbD i then readCodeword (b * 8 + i / 2) y.2 else readSector (b * 16 + i) y.2
        (y.1 && z.1, z.2)) (true, r.2)
    if x.1 then (r.1, x.2.l2Fill b lacks) else (false, x.2)) (true, s)

/-! ## Coherent values -/

def L1Line.covers (l : L1Line) (pa : Nat) : Bool := decide (l.base ≤ pa) && decide (pa < l.base + l.gr)
def L1Line.byte (l : L1Line) (pa : Nat) : Byte := l.data.getD (pa - l.base) 0

def CohState.dirty : CohState → Bool
  | .M => true
  | .O => true
  | _ => false

/-- The copy of the owner of the unit that holds an address, if there is one: a dirty copy, or one in E. -/
def State.ownerLine (s : State) (pa : Nat) : Option L1Line :=
  (s.coh.l1.find? fun l => l.st.dirty && l.covers pa).orElse fun _ => s.coh.l1.find? fun l => l.st == .E && l.covers pa

/-- A message carries the unit that holds an address. -/
def Msg.holds (m : Msg) (pa : Nat) : Bool := !m.data.isEmpty && decide (m.unit ≤ pa) && decide (pa < m.unit + m.gr)
def Msg.byte (m : Msg) (pa : Nat) : Byte := m.data.getD (pa - m.unit) 0

/-- The message, transaction or write-back buffer that holds the newest bytes of a unit while no L1 does: a Data(M) on its way, the
data that a gateway has collected, or a write-back that its home has not applied. -/
def State.inFlight (s : State) (pa : Nat) : Option Byte :=
  match s.coh.msgs.findRev? fun m => m.kind == .dataM && m.holds pa with
  | some m => some (m.byte pa)
  | none => match s.coh.txns.find? fun t => t.dirty && decide (t.unit ≤ pa) && decide (pa < t.unit + t.gr) with
    | some t => some (t.data.getD (pa - t.unit) 0)
    | none => (s.coh.wbuf.findRev? fun m => m.other == 0 && m.holds pa).map fun m => m.byte pa

/-- No message is in flight, and no write-back waits. -/
def State.still (s : State) : Bool := s.coh.msgs.isEmpty && s.coh.wbuf.isEmpty && s.coh.txns.isEmpty

/-- The byte a coherent observer other than a holder reads: the owner's, else home memory's (R90). -/
def State.cohByte (s : State) (pa : Nat) : Byte :=
  match s.ownerLine pa with
  | some l => l.byte pa
  | none => if s.still then s.byte pa else (s.inFlight pa).getD (s.byte pa)

def State.cohRead (s : State) (pa n : Nat) : List Byte :=
  if s.coh.l1.isEmpty && s.still then s.readMem pa n else (List.range n).map fun i => s.cohByte (pa + i)

def State.cohWord (s : State) (pa : Nat) : Word := leWord (s.cohRead pa 4)
def State.cohDword (s : State) (pa : Nat) : Dword := leDword (s.cohRead pa 8)

def unitBase (pa gr : Nat) : Nat := pa / gr * gr

/-! ## The directory and the snoop filters (R86 to R88, R93, R94) -/

/-- The agent number that home die `h` gives cluster `c` of the module (R85, R88). -/
def agentAt (h c : Nat) : Nat :=
  let d := c / 32
  if d = h then c % 32 else 32 + (if d < h then d else d - 1)

def State.dirFind (s : State) (die block : Nat) : Option DirEntry :=
  s.coh.dir.find? fun e => e.die == die && e.block == block

/-- The grain in force for a block: that of its directory entry while it exists, else the access's own (R86). -/
def State.grainAt (s : State) (pa gr : Nat) : Nat :=
  match s.dirFind 4 (pa / 512) with
  | some e => e.grain
  | none => gr

def DirEntry.unitDir (e : DirEntry) (u : Nat) : UnitDir := SMap.get (fun _ => {}) e.units u
def DirEntry.setUnit (e : DirEntry) (u : Nat) (d : UnitDir) : DirEntry :=
  { e with units := SMap.set (fun _ => {}) e.units u d }

/-- Every unit of an entry is in I: the entry is freed (R93). -/
def DirEntry.free (e : DirEntry) : Bool := e.units.all fun x => x.2.state == .I

/-- Put an entry at the front, as the most recently used, or take it away when it is free. -/
def State.dirPut (s : State) (e : DirEntry) : State :=
  let rest := s.coh.dir.filter fun x => !(x.die == e.die && x.block == e.block)
  { s with coh := { s.coh with dir := if e.free then rest else e :: rest } }

/-- Directory state of a unit as the home holds it. -/
def State.unitDir (s : State) (die u : Nat) : UnitDir :=
  match s.dirFind die (u / 512) with
  | some e => e.unitDir u
  | none => {}

def State.setUnitDir (s : State) (die u gr : Nat) (d : UnitDir) : State :=
  let e := (s.dirFind die (u / 512)).getD { die := die, block := u / 512, grain := gr, units := [] }
  s.dirPut (e.setUnit u d)

/-! ## Messages in flight (R89) -/

def State.sendMsg (s : State) (m : Msg) : State := { s with coh := { s.coh with msgs := s.coh.msgs ++ [m] } }

/-- Where a cluster's requests for a unit go: the home, or the gateway of its die (R94). -/
def State.serverOf (s : State) (c u : Nat) : Nat := if c / 32 = s.homeDie u then 132 else 128 + c / 32

/-- A dirty unit leaves its cluster: its data goes to the write-back buffer and to the home (R90, R92). -/
def State.sendWbD (s : State) (l : L1Line) : State :=
  let c := l.cluster
  let m : Msg := { kind := .wbD, src := c, dst := s.serverOf c l.base, unit := l.base, gr := l.gr, data := l.data }
  { s with coh := { s.coh with wbuf := s.coh.wbuf ++ [m] } }.sendMsg m

/-- Lines leave the caches: dirty ones are written back, clean ones go silently (R88, R90). -/
def State.shedLines (s : State) (p : L1Line → Bool) : State :=
  let gone := s.coh.l1.filter p
  let s := { s with coh := { s.coh with l1 := s.coh.l1.filter fun l => !p l } }
  (gone.filter fun l => l.st.dirty).foldl State.sendWbD s

/-! ## Non-coherent sectors (R98) -/

/-- The bytes of a sector that it has written go to home memory. -/
def State.flushSector (s : State) (x : NcSector) : State :=
  ((List.range 32).filter fun i => x.dirty.getLsbD i).foldl (fun s i => s.homePut (x.pa + i) [x.data.getD i 0]) s

/-- Sectors of a core that a predicate names: their dirty bytes written to home memory, or discarded; the sectors dropped, or kept
clean. -/
def State.ncFlush (s : State) (core : Nat) (p : NcSector → Bool) (drop : Bool) (write : Bool) : State :=
  let hit := (s.core core).nc.filter p
  if hit.isEmpty then s
  else
    let s := if write then hit.foldl State.flushSector s else s
    let clean := fun (x : NcSector) => if p x then { x with dirty := 0 } else x
    s.modCore core fun c => { c with nc := if drop then c.nc.filter (fun x => !p x) else c.nc.map clean }

/-- The sector lies in [lo, hi). -/
def NcSector.within (lo hi : Nat) (x : NcSector) : Bool := decide (x.pa < hi) && decide (lo < x.pa + 32)

/-! ## Page-table stores and frames (05_translation R113, R121) -/

/-- Something that an entry's walk read lies in [base, base + n). -/
def TlbEntry.walkedIn (e : TlbEntry) (base n : Nat) : Bool :=
  e.walked.any fun a => decide (a.1 < base + n) && decide (base < a.1 + a.2)

/-- The entry translates an address of a context. -/
def TlbEntry.hits (e : TlbEntry) (ctx : Nat) (va : Dword) : Bool :=
  let vpn := bitsOf va 14 43
  e.ctx == ctx && decide (e.vpn ≤ vpn) && decide (vpn < e.vpn + e.pages)

/-- The entry's page holds a physical address. -/
def TlbEntry.maps (e : TlbEntry) (pa : Nat) : Bool := decide (e.frame ≤ pa) && decide (pa < e.frame + e.pages * 16384)

/-- A cluster drops the TLB entries walked from [base, base + n), the L1 lines and the instruction-cache lines under them, and the
instruction-cache lines fetched from it; dirty lines are written back (R113 items 1 to 3, 16_scheduling R375). -/
def State.dropClusterTranslations (s : State) (ci base n : Nat) : State :=
  let cl := s.cluster ci
  let gone := cl.tlb.filter fun e => e.walkedIn base n
  let under := fun (ctx : Nat) (va : Dword) => gone.any fun e => e.hits ctx va
  let lines := cl.icache.filter fun l => !(decide (l.pa < base + n) && decide (base < l.pa + 128)) && !under l.ctx l.va
  if gone.isEmpty && lines.length == cl.icache.length then s
  else
    let s := s.setCluster ci { cl with tlb := cl.tlb.filter (fun e => !e.walkedIn base n), icache := lines }
    let s := s.shedLines fun l => !l.shared && l.cluster == ci && under l.ctx l.va
    (List.range 8).foldl (fun s i => s.ncFlush (8 * ci + i) (fun x => under x.ctx x.va) true true) s

/-- An access of a weft of a cluster that has been translated through an entry walked from [base, base + n) is still to be performed
(R113 item 4); the access that the present step performs is not waited for. -/
def State.clusterPending (s : State) (ci base n : Nat) : Bool :=
  let gone := (s.cluster ci).tlb.filter fun e => e.walkedIn base n
  !gone.isEmpty && s.wefts.any fun x =>
    let under := fun (va : Dword) => gone.any fun e => e.hits (s.ctxOf x.1) va
    clusterOf (s.coreOf x.1) == ci &&
      ((x.2.flights.any fun f => f.op != .func && s.coh.actor != some (x.1, f.seq) && f.lanes.any fun l => l.val.isNone && under l.va) ||
       (x.2.stores.any fun y => y.entered && !y.spad && s.coh.actor != some (x.1, y.seq) && y.pieces.any fun p => !p.done && under p.va))

/-- The frame-table entry of the frame that holds an address, with the A and D that a grant sets; none when nothing changes (R121), or when
the entry would lie at or above CAP, where the manual gives the update no effect (notes/assumptions 13). -/
def State.frameBits (s : State) (pa : Nat) (own : Bool) : List (Nat × Byte) :=
  let at_ := bitsOf (s.reg 0x2010) 14 38 * 16384 + 8 * (pa / 16384)
  let v : Byte := if own then 3 else 1
  if s.exists at_ 8 && ((s.cohByte at_ ||| v) != s.cohByte at_) then [(at_, v)] else []

/-- A grant leaves the bits to be set at the home of the frame's entry. -/
def State.frameTouch (s : State) (pa : Nat) (own : Bool) : State :=
  { s with coh := { s.coh with ors := s.coh.ors ++ s.frameBits pa own } }

/-! ## L1 lines (06_core_memory R127, 05_translation R110) -/

/-- The line of a core's L1 that an access hits: by context and virtual address. -/
def L1Line.hits (l : L1Line) (core ctx : Nat) (va : Dword) : Bool :=
  l.core == core && l.ctx == ctx && decide (l.va.toNat ≤ va.toNat) && decide (va.toNat < l.va.toNat + l.gr)
def NcSector.hits (x : NcSector) (ctx : Nat) (va : Dword) : Bool := x.ctx == ctx && x.va == (va &&& ~~~(31 : Dword))

def State.lineAt (s : State) (core ctx : Nat) (va : Dword) : Option L1Line := s.coh.l1.find? fun l => l.hits core ctx va
def State.sectorAt (s : State) (core ctx : Nat) (va : Dword) : Option NcSector := (s.core core).nc.find? fun x => x.hits ctx va

def bitAt (i : Nat) : Dword := BitVec.ofNat 64 (2 ^ i)

/-- Bytes `bs` written into a list of bytes at an offset. -/
def patch (d : List Byte) (off : Nat) (bs : List Byte) : List Byte := d.take off ++ bs ++ d.drop (off + bs.length)

end Sys2Proof.Machine
end

