-- ==== Sys2Proof/Machine/Protocol.lean ====
section
/-!
DEFINITION. The coherence messages (04_dram_l2 R85 to R95, 05_translation R113). A node is a home (number 4) or the gateway of a die (its
number); it serialises each unit. Messages to one agent on one unit are delivered in the order sent. A request that an instruction, an
engine or a host makes of its own is sent, and the messages that answer it are delivered, in one step (`drive`); where one of them
must wait (R113), the step does not take place.
-/

namespace Sys2Proof.Machine

/-! ## Agents and nodes (R85, R88) -/

def homeAgent : Nat := 132
def nodeAgent (n : Nat) : Nat := if n = 4 then homeAgent else 128 + n
def nodeOf (agent : Nat) : Nat := if agent = homeAgent then 4 else agent - 128

/-- The number that a node gives an agent; `h` is the unit's home die. -/
def numberAt (n h agent : Nat) : Nat :=
  if n ≠ 4 then agent % 32
  else if agent < 128 then agent % 32
  else
    let e := agent - 128
    32 + (if e < h then e else e - 1)

/-- The agent of a number. -/
def agentOf (n h i : Nat) : Nat :=
  if n ≠ 4 then 32 * n + i
  else if i < 32 then 32 * h + i
  else
    let e := i - 32
    128 + (if e < h then e else e + 1)

/-- The agents with a presence bit. -/
def UnitDir.present (d : UnitDir) (n h : Nat) : List Nat :=
  ((List.range 35).filter fun i => d.presence.getLsbD i).map (agentOf n h)

def UnitDir.ownerAgent (d : UnitDir) (n h : Nat) : Option Nat := d.owner.map (agentOf n h)

/-- An agent is no sharer any more; a unit with no owner and no sharer is in I. -/
def UnitDir.without (d : UnitDir) (i : Nat) : UnitDir :=
  let p := d.presence &&& ~~~bitAt i
  let o := if d.owner = some i then none else d.owner
  if p = 0 ∧ o.isNone then {} else { state := if o.isNone then .S else d.state, owner := o, presence := p }

/-! ## Messages and transactions (R91) -/

def MsgKind.isProbe : MsgKind → Bool
  | .fwdS => true
  | .fwdX => true
  | .inv => true
  | _ => false

/-- Inv to the agents of a list. -/
def State.sendInvs (s : State) (t : Txn) (dsts : List Nat) : State :=
  dsts.foldl (fun s d => s.sendMsg { kind := .inv, src := nodeAgent t.node, dst := d, unit := t.unit, gr := t.gr, mark := t.mark }) s

def Txn.same (a b : Txn) : Bool := a.node == b.node && a.unit == b.unit && a.req.isProbe == b.req.isProbe
def State.dropTxn (s : State) (t : Txn) : State := { s with coh := { s.coh with txns := s.coh.txns.filter fun x => !x.same t } }
def State.putTxn (s : State) (t : Txn) : State :=
  let s := s.dropTxn t
  { s with coh := { s.coh with txns := s.coh.txns ++ [t] } }

def State.findTxn (s : State) (p : Txn → Bool) : Option Txn := s.coh.txns.find? p

/-- Take a buffered write-back's data, or mark it as applied. -/
def State.buffered (s : State) (agent unit : Nat) : Option Msg :=
  s.coh.wbuf.find? fun m => m.src == agent && m.unit == unit && m.other == 0
def State.consume (s : State) (agent unit : Nat) : State :=
  { s with coh := { s.coh with wbuf := s.coh.wbuf.map fun m => if m.src == agent && m.unit == unit then { m with other := 1 } else m } }

/-! ## The progress of a transaction -/

/-- Ask the home on a die's behalf. -/
def askHome (s : State) (t : Txn) (kind : MsgKind) : State :=
  (s.putTxn { t with atHome := true, fwdTo := none, fwd := false }).sendMsg
    { kind := kind, src := nodeAgent t.node, dst := homeAgent, unit := t.unit, gr := t.gr, other := t.other }

/-- The message that grants a request. -/
def grantMsg (t : Txn) (kind : MsgKind) (data : List Byte) : Msg :=
  { kind := kind, src := nodeAgent t.node, dst := t.from_, unit := t.unit, gr := t.gr, data := data }

/-- Data granted from home memory: an uncorrectable error delivers none (R77). -/
def grantMemory (s : State) (t : Txn) (kind : MsgKind) : State :=
  let (ok, s) := s.l2Read t.unit t.gr
  let s := s.dropTxn t
  if ok then s.sendMsg (grantMsg t kind (s.readMem t.unit t.gr)) else s

/-- A home's transaction ends with a grant of its own, or as a recall. A recall with the attribute mark leaves the unit to its
translation sharers, whose presence bits stay (05_translation R109, R112). -/
def completeHome (s : State) (t : Txn) : State :=
  let h := s.homeDie t.unit
  let q := numberAt 4 h t.from_
  let only : UnitDir := { state := .M, owner := some q, presence := bitAt q }
  match t.req with
  | .rdS =>
    let d := s.unitDir 4 t.unit
    if d.presence = 0 then
      ((grantMemory s t .dataE).setUnitDir 4 t.unit t.gr { state := .E, owner := some q, presence := bitAt q }).frameTouch t.unit false
    else ((grantMemory s t .dataS).setUnitDir 4 t.unit t.gr { d with state := .S, presence := d.presence ||| bitAt q }).frameTouch t.unit false
  | .upg => (((s.dropTxn t).sendMsg (grantMsg t .ackM [])).setUnitDir 4 t.unit t.gr only).frameTouch t.unit true
  | .rdX => ((grantMemory s t .dataM).setUnitDir 4 t.unit t.gr only).frameTouch t.unit true
  | _ =>
    let p := (s.unitDir 4 t.unit).presence
    (s.dropTxn t).setUnitDir 4 t.unit t.gr (if t.mark ∧ p ≠ 0 then { state := .S, presence := p } else {})

/-- A gateway's transaction ends: a grant inside the die, an answer to the home, or a write-back to it. -/
def completeGate (s : State) (t : Txn) : State :=
  let g := nodeAgent t.node
  let q := numberAt t.node 4 t.from_
  let own := fun (s : State) => s.setUnitDir t.node t.unit t.gr { state := .M, owner := some q, presence := bitAt q }
  let toHome := fun (s : State) (k : MsgKind) => s.sendMsg { kind := k, src := g, dst := homeAgent, unit := t.unit, gr := t.gr }
  match t.req with
  | .inv =>
    let p := (s.unitDir t.node t.unit).presence
    toHome ((s.dropTxn t).setUnitDir t.node t.unit t.gr (if t.mark ∧ p ≠ 0 then { state := .S, presence := p } else {})) .invAck
  | .wbD =>
    let s := if t.from_ < 128 then s.sendMsg (grantMsg t .wbAck []) else s
    if t.dirty then
      let m : Msg := { kind := .wbD, src := g, dst := homeAgent, unit := t.unit, gr := t.gr, data := t.data }
      let s := s.setUnitDir t.node t.unit t.gr { s.unitDir t.node t.unit with owner := none, presence := 0 }
      let s := { s with coh := { s.coh with wbuf := s.coh.wbuf ++ [m] } }
      (s.putTxn { t with atHome := true, data := [], dirty := false }).sendMsg m
    else (s.dropTxn t).setUnitDir t.node t.unit t.gr {}
  | .upg => own ((s.dropTxn t).sendMsg (grantMsg t .ackM []))
  | .rdX => if t.dirty then own ((s.dropTxn t).sendMsg (grantMsg t .dataM t.data)) else askHome s t .rdX
  | .rdS => askHome s t .rdS
  | k =>
    -- a forward for which the die holds no copy but, perhaps, a write-back (R92)
    let s := (s.dropTxn t).setUnitDir t.node t.unit t.gr {}
    match s.buffered g t.unit with
    | none => toHome s .noData
    | some b => toHome (s.sendMsg { b with kind := if k = .fwdX then .dataM else .dataS, src := g, dst := t.other }) .fwdAck

/-- Once every InvAck has come, the forward goes out, or the transaction ends. -/
def advance (s : State) (t : Txn) : State :=
  if !t.acks.isEmpty then s.putTxn t
  else match t.fwdTo with
  | some x =>
    let dest := if t.req.isProbe || t.req == .wbD then nodeAgent t.node else t.from_
    let k : MsgKind := if t.req = .rdS ∨ t.req = .fwdS then .fwdS else .fwdX
    (s.putTxn { t with fwd := true }).sendMsg
      { kind := k, src := nodeAgent t.node, dst := x, unit := t.unit, gr := t.gr, other := dest, mark := t.mark }
  | none => if t.node = 4 then completeHome s t else completeGate s t

/-- Open a transaction: Inv to the agents of a list, and a forward to an owner after them. -/
def openTxn (s : State) (t : Txn) (invs : List Nat) (fwdTo : Option Nat) : State :=
  advance (s.sendInvs t invs) { t with acks := invs, fwdTo := fwdTo }

/-! ## Requests at a home (R90, R92) -/

/-- A write-back is applied when it comes from the owner, and discarded otherwise: M gives I, O gives S, without the owner. -/
def applyWbD (s : State) (m : Msg) : State :=
  let q := numberAt 4 (s.homeDie m.unit) m.src
  let d := s.unitDir 4 m.unit
  let s := (s.consume m.src m.unit).sendMsg { kind := .wbAck, src := homeAgent, dst := m.src, unit := m.unit, gr := m.gr }
  if d.owner ≠ some q then s
  else (s.homePut m.unit m.data).setUnitDir 4 m.unit m.gr
    (if d.state = .O then { state := .S, presence := d.presence &&& ~~~bitAt q } else {})

def acceptHome (s : State) (m : Msg) : State :=
  if m.kind = .wbD then applyWbD s m
  else
    let h := s.homeDie m.unit
    let q := numberAt 4 h m.src
    let d0 := s.unitDir 4 m.unit
    -- the recorded owner of an E copy has dropped it
    let d := if d0.owner = some q ∧ d0.state = .E then d0.without q else d0
    let s := if d = d0 then s else s.setUnitDir 4 m.unit m.gr d
    let t : Txn := { node := 4, unit := m.unit, gr := m.gr, req := m.kind, from_ := m.src, other := m.other }
    let others := (d.present 4 h).filter fun a => a != m.src
    if m.kind = .rdS then openTxn s t [] (d.ownerAgent 4 h)
    else if m.kind = .upg ∧ (d.state = .S ∨ d.state = .O) ∧ d.presence.getLsbD q then openTxn s t others none
    else
      let x := (d.ownerAgent 4 h).filter fun a => a != m.src
      openTxn s { t with req := .rdX } (others.filter fun a => some a != x) x

/-! ## Requests at a gateway (R94): one that the die's own grant satisfies goes to a cluster of the die, any other to the home -/

def acceptGate (s : State) (n : Nat) (m : Msg) : State :=
  let q := numberAt n 4 m.src
  let d0 := s.unitDir n m.unit
  let t : Txn := { node := n, unit := m.unit, gr := m.gr, req := m.kind, from_ := m.src, other := m.other }
  if m.kind = .wbD then
    let s := s.consume m.src m.unit
    if d0.owner = some q then
      openTxn s { t with data := m.data, dirty := true } ((d0.present n 4).filter fun a => a != m.src) none
    else s.sendMsg { kind := .wbAck, src := nodeAgent n, dst := m.src, unit := m.unit, gr := m.gr }
  else
    let d := if d0.owner = some q ∧ d0.state = .E then { d0 with owner := none, presence := d0.presence &&& ~~~bitAt q } else d0
    let s := if d = d0 then s else s.setUnitDir n m.unit m.gr d
    let mine := d.state == .E || d.state == .M
    let others := (d.present n 4).filter fun a => a != m.src
    -- inside the die's own grant a sharer supplies the unit where there is no owner
    let x := ((d.ownerAgent n 4).filter fun a => a != m.src).orElse fun _ => if m.kind = .rdS ∨ mine then others.head? else none
    if m.kind = .rdS then (if x.isSome then openTxn s t [] x else askHome s t .rdS)
    else if m.kind = .upg ∧ d.presence.getLsbD q then (if mine then openTxn s t others none else askHome s t .upg)
    else if mine ∧ x.isSome then openTxn s { t with req := .rdX } (others.filter fun a => some a != x) x
    else askHome s { t with req := .rdX } (if d.state = .O ∧ x.isSome then .upg else .rdX)

/-- A forward or an Inv of the home: the gateway acts on its own clusters. -/
def acceptProbe (s : State) (n : Nat) (m : Msg) : State :=
  let d := s.unitDir n m.unit
  let t : Txn := { node := n, unit := m.unit, gr := m.gr, req := m.kind, from_ := m.src, other := m.other, mark := m.mark }
  let x := d.ownerAgent n 4
  if m.kind = .inv ∨ x.isNone then openTxn s t (d.present n 4) none
  else openTxn s t (if m.kind = .fwdS then [] else (d.present n 4).filter fun a => some a != x) x

/-! ## Sets, recalls and back-invalidations (R93 to R95) -/

def filterSet (B : Nat) : Nat := bitsN B 0 14 ^^^ bitsN B 14 14

/-- Two blocks share a set of a node's store. -/
def State.sameSet (s : State) (n a b : Nat) : Bool :=
  if n = 4 then s.homeSlice (a * 512) == s.homeSlice (b * 512) && Config.dirSet a == Config.dirSet b else filterSet a == filterSet b

/-- The set of a block is full. -/
def State.setFull (s : State) (n B : Nat) : Bool :=
  let es := s.coh.dir.filter fun e => e.die == n
  decide (16 ≤ es.length) && decide (16 ≤ (es.filter fun e => s.sameSet n e.block B).length)

def State.nodeBusy (s : State) (n u : Nat) : Bool := s.coh.txns.any fun t => t.node == n && t.unit == u

/-- A node makes room in a block's set. -/
def State.evicting (s : State) (n B : Nat) : Bool :=
  s.coh.txns.any fun t => t.node == n && t.req == .wbD && t.from_ == nodeAgent n && s.sameSet n (t.unit / 512) B

/-- The least recently used entry of a block's set of which no unit is busy. -/
def State.oldestEntry (s : State) (n B : Nat) : Option DirEntry :=
  s.coh.dir.findRev? fun e => e.die == n && s.sameSet n e.block B && e.units.all fun x => !s.nodeBusy n x.1

/-- A unit is taken back from its holders. -/
def recallUnit (n gr : Nat) (mark : Bool) (s : State) (u : Nat) : State :=
  let h := s.homeDie u
  let d := s.unitDir n u
  let t : Txn := { node := n, unit := u, gr := gr, req := .wbD, from_ := nodeAgent n, mark := mark }
  let o := if n = 4 then d.ownerAgent 4 h else none
  openTxn s t ((d.present n h).filter fun a => some a != o) o

/-- Every unit of an entry is taken back from its holders. -/
def recallEntry (s : State) (n : Nat) (e : DirEntry) : State := (e.units.map fun x => x.1).foldl (recallUnit n e.grain false) s

/-! ## Arrival, and requests that wait (R91) -/

def Msg.isRequest (m : Msg) : Bool := m.kind == .rdS || m.kind == .rdX || m.kind == .upg || m.kind == .wbD

/-- A request at the grain that the node's entry of its block has, if there is one (R86). -/
def State.atGrain (s : State) (m : Msg) : Msg :=
  if m.kind = .rdS ∨ m.kind = .rdX ∨ m.kind = .upg then
    match s.dirFind (nodeOf m.dst) (m.other / 512) with
    | some e => { m with unit := unitBase m.other e.grain, gr := e.grain }
    | none => m
  else m

/-- A gateway has a request of the block at the home and no entry for it yet, so that its grain is not known. -/
def State.grainOpen (s : State) (m : Msg) : Bool :=
  let n := nodeOf m.dst
  n != 4 && (s.dirFind n (m.unit / 512)).isNone && s.coh.txns.any fun t => t.node == n && t.unit / 512 == m.unit / 512

/-- The request needs an entry that its set has no room for. -/
def State.needsRoom (s : State) (m : Msg) : Bool :=
  let n := nodeOf m.dst
  m.kind != .wbD && !m.kind.isProbe && (s.dirFind n (m.unit / 512)).isNone && s.setFull n (m.unit / 512)

/-- A request or a probe can be taken up. -/
def State.acceptable (s : State) (m : Msg) : Bool :=
  let n := nodeOf m.dst
  if m.kind.isProbe then !(s.coh.txns.any fun t => t.node == n && t.unit == m.unit && (t.req.isProbe || !t.atHome))
  else
    let m := s.atGrain m
    !s.nodeBusy n m.unit && !s.grainOpen m &&
    (!s.needsRoom m || (!s.evicting n (m.unit / 512) && (s.oldestEntry n (m.unit / 512)).isSome))

def State.wait (s : State) (m : Msg) : State := { s with coh := { s.coh with waiting := s.coh.waiting ++ [m] } }

/-- The fatal error that a node meets as it takes up a request for a unit: in its directory or snoop filter, or at the home in the remap
table (19_reliability R440). -/
def State.nodeError (s : State) (n u : Nat) : Option Nat :=
  if s.upsets.contains (.dir n (u / 512)) then some 4
  else if n = 4 ∧ s.upsets.contains (.remap (u / 512)) then some 5
  else none

def takeUp (s : State) (m : Msg) : State :=
  let n := nodeOf m.dst
  if s.nodeError n m.unit ≠ none then s.goViral ((s.nodeError n m.unit).getD 0) m.unit
  else if m.kind.isProbe then acceptProbe s n m
  else if s.needsRoom m then
    match s.oldestEntry n (m.unit / 512) with
    | some e => recallEntry (s.wait m) n e
    | none => s.wait m
  else if n = 4 then acceptHome s (s.atGrain m) else acceptGate s n (s.atGrain m)

def arriveMsg (s : State) (m : Msg) : State := if s.acceptable m then takeUp s m else s.wait m

/-- Requests that waited are taken up once they can be, in arrival order. -/
def pump : Nat → State → State
  | 0, s => s
  | n + 1, s =>
    match s.coh.waiting.find? s.acceptable with
    | none => s
    | some m => pump n (takeUp { s with coh := { s.coh with waiting := s.coh.waiting.erase m } } m)

def pumpAll (s : State) : State := pump (2 * s.coh.waiting.length) s

/-! ## Messages at a cluster (R90, R92, R111, R113) -/

def State.linesIn (s : State) (c u : Nat) : List L1Line := s.coh.l1.filter fun l => l.cluster == c && l.base == u
def State.dropLines (s : State) (c u : Nat) : State :=
  { s with coh := { s.coh with l1 := s.coh.l1.filter fun l => !(l.cluster == c && l.base == u) } }

/-- What was translated through a unit goes with it, but for an attribute update (R109, R113). -/
def State.dropThrough (s : State) (m : Msg) : State := if m.mark then s else s.dropClusterTranslations m.dst m.unit m.gr

/-- A forward at the owner: from its copy, from its write-back buffer, or NoData. -/
def clusterForward (s : State) (m : Msg) : State :=
  let back := fun (s : State) (k : MsgKind) (st : Nat) =>
    s.sendMsg { kind := k, src := m.dst, dst := m.src, unit := m.unit, gr := m.gr, other := st }
  let give := fun (s : State) (d : List Byte) =>
    s.sendMsg { kind := if m.kind = .fwdX then .dataM else .dataS, src := m.dst, dst := m.other, unit := m.unit, gr := m.gr, data := d }
  let ls := s.linesIn m.dst m.unit
  match (ls.find? fun l => l.st.dirty).orElse fun _ => ls.head? with
  | some l =>
    if m.kind = .fwdX then back (give ((s.dropLines m.dst m.unit).dropThrough m) l.data) .fwdAck 0
    else
      let l1 := s.coh.l1.map fun x => if x.cluster == m.dst && x.base == m.unit then { x with st := match x.st with
        | .M => .O
        | .E => .S
        | y => y } else x
      back (give { s with coh := { s.coh with l1 := l1 } } l.data) .fwdAck (if l.st.dirty then 4 else 1)
  | none =>
    let s := if m.kind = .fwdX then s.dropThrough m else s
    match s.buffered m.dst m.unit with
    | some b => back (give s b.data) .fwdAck 0
    | none => back s .noData 0

/-- An Inv: the copies go, with what was translated through the unit; a dirty copy's data goes with the InvAck. -/
def clusterInv (s : State) (m : Msg) : State :=
  let d := ((s.linesIn m.dst m.unit).find? fun l => l.st.dirty).map fun l => l.data
  let s := (s.dropLines m.dst m.unit).dropThrough m
  s.sendMsg { kind := .invAck, src := m.dst, dst := m.src, unit := m.unit, gr := m.gr, data := d.getD [] }

/-- A grant with data fills the line that the cluster asked for; of a request that no access made, the line of its first core. -/
def clusterData (s : State) (m : Msg) : State :=
  let st : CohState := match m.kind with
    | .dataE => .E
    | .dataM => .M
    | _ => .S
  let s := if st = .S then s else s.dropLines m.dst m.unit
  let mine := fun (a : Ask) => a.cluster == m.dst && decide (m.unit ≤ a.pa) && decide (a.pa < m.unit + m.gr)
  let l : L1Line := match s.coh.asks.find? mine with
    | some a => { core := a.core, base := m.unit, gr := m.gr, st := st, data := m.data, ctx := a.ctx, w := a.w, used := s.coh.clock
                  va := a.va - BitVec.ofNat 64 (a.pa - m.unit) }
    | none => { core := 8 * m.dst, base := m.unit, gr := m.gr, st := st, data := m.data, va := BitVec.ofNat 64 m.unit }
  { s with coh := { s.coh with l1 := l :: s.coh.l1, asks := s.coh.asks.filter fun a => !mine a } }

/-- Ack(M): one copy of the cluster becomes M, and its others go. -/
def clusterAck (s : State) (m : Msg) : State :=
  match (s.linesIn m.dst m.unit).head? with
  | none => s
  | some l =>
    let s := s.dropLines m.dst m.unit
    let asks := s.coh.asks.filter fun a => !(a.cluster == m.dst && decide (m.unit ≤ a.pa) && decide (a.pa < m.unit + m.gr))
    { s with coh := { s.coh with l1 := { l with st := .M } :: s.coh.l1, asks := asks } }

/-- WbAck: the buffer entry is freed. -/
def freeBuffer (s : State) (agent u : Nat) : State :=
  { s with coh := { s.coh with wbuf := s.coh.wbuf.filter fun m => !(m.src == agent && m.unit == u) } }

/-! ## Answers at a gateway (R94, R95) -/

/-- A grant of the home, at the grain that the home gives it, or the data that a probe collects. -/
def gateAnswer (s : State) (n : Nat) (m : Msg) : State :=
  match s.findTxn fun t => t.node == n && t.unit == m.unit && t.req.isProbe && t.fwd with
  | some t => s.putTxn { t with data := m.data, dirty := m.kind == .dataM }
  | none => match s.findTxn fun t => t.node == n && t.atHome && (t.unit == m.unit || (decide (m.unit ≤ t.other) && decide (t.other < m.unit + m.gr))) with
    | none => s
    | some t0 =>
      let s := s.dropTxn t0
      let t := { t0 with unit := m.unit }
      let d := s.unitDir n t.unit
      let q := numberAt n 4 t.from_
      let others := (d.present n 4).filter fun a => a != t.from_
      let t := { t with atHome := false, gr := m.gr }
      let grant := fun (k : MsgKind) (d : UnitDir) => ((s.dropTxn t).sendMsg (grantMsg t k m.data)).setUnitDir n t.unit t.gr d
      match m.kind with
      | .dataS => grant .dataS { state := .S, presence := d.presence ||| bitAt q }
      | .dataE =>
        if others.isEmpty then grant .dataE { state := .E, owner := some q, presence := bitAt q }
        else grant .dataS { state := .E, presence := d.presence ||| bitAt q }
      | .dataM => openTxn (s.setUnitDir n t.unit t.gr { d with state := .M }) { t with req := .rdX, data := m.data, dirty := true } others none
      | _ =>
        let s := s.setUnitDir n t.unit t.gr { d with state := .M }
        if t.req = .upg ∧ d.presence.getLsbD q then openTxn s t others none
        else
          let x := (d.ownerAgent n 4).filter fun a => a != t.from_
          openTxn s { t with req := .rdX } (others.filter fun a => some a != x) x

/-- WbAck at a gateway: the buffer entry is freed, and the unit's entry with it. -/
def gateWbAck (s : State) (n u : Nat) : State :=
  let s := freeBuffer s (128 + n) u
  match s.findTxn fun t => t.node == n && t.unit == u && t.req == .wbD && t.atHome with
  | some t => (s.dropTxn t).setUnitDir n u t.gr {}
  | none => s

/-! ## Acknowledgements at a node (R91, R92) -/

def nodeInvAck (s : State) (n : Nat) (m : Msg) : State :=
  match s.findTxn fun t => t.node == n && t.unit == m.unit && t.acks.contains m.src with
  | none => s
  | some t =>
    let d := s.unitDir n t.unit
    let i := numberAt n (s.homeDie t.unit) m.src
    -- the state that the die was granted stays until the transaction ends
    let d := { d with presence := if t.mark then d.presence else d.presence &&& ~~~bitAt i, owner := if d.owner = some i then none else d.owner }
    let t := { t with acks := t.acks.erase m.src }
    let t := if t.req = .wbD ∧ n ≠ 4 ∧ !m.data.isEmpty then { t with data := m.data, dirty := true } else t
    advance (s.setUnitDir n t.unit t.gr d) t

/-- A forward was served. `other` is the owner's new state. -/
def nodeFwdAck (s : State) (n : Nat) (m : Msg) : State :=
  match s.findTxn fun t => t.node == n && t.unit == m.unit && t.fwd && t.fwdTo == some m.src with
  | none => s
  | some t =>
    let h := s.homeDie t.unit
    let i := numberAt n h m.src
    let q := numberAt n h t.from_
    let d := s.unitDir n t.unit
    let set := fun (s : State) (d : UnitDir) => s.setUnitDir n t.unit t.gr d
    let toHome := fun (s : State) (st : Nat) =>
      s.sendMsg { kind := .fwdAck, src := nodeAgent n, dst := homeAgent, unit := t.unit, gr := t.gr, other := st }
    let s := s.dropTxn t
    match t.req with
    | .rdS =>
      let p := d.presence ||| bitAt q ||| bitAt i
      if n ≠ 4 then set s (if m.other = 1 then { d with owner := none, presence := p } else { d with presence := p })
      else (set s (if m.other = 1 then { state := .S, presence := p } else { state := .O, owner := some i, presence := p })).frameTouch t.unit false
    | .wbD => set s (if t.mark then { state := .S, presence := d.presence } else {})
    | .fwdS =>
      let s := s.sendMsg { kind := .dataS, src := nodeAgent n, dst := t.other, unit := t.unit, gr := t.gr, data := t.data }
      if m.other = 1 then toHome (set s { d with state := .S, owner := none }) 1 else toHome (set s { d with state := .O }) 4
    | .fwdX =>
      let s := s.sendMsg { kind := .dataM, src := nodeAgent n, dst := t.other, unit := t.unit, gr := t.gr, data := t.data }
      toHome (set s {}) 0
    | _ =>
      let s := set s { state := .M, owner := some q, presence := bitAt q }
      if n = 4 then s.frameTouch t.unit true else s

/-- A forward found no copy: the owner is cleared, and the request is served from home memory, or by the home. -/
def nodeNoData (s : State) (n : Nat) (m : Msg) : State :=
  match s.findTxn fun t => t.node == n && t.unit == m.unit && t.fwd && t.fwdTo == some m.src with
  | none => s
  | some t =>
    let h := s.homeDie t.unit
    let i := numberAt n h m.src
    let d := s.unitDir n t.unit
    let t := { t with fwd := false, fwdTo := none }
    if n = 4 then completeHome (s.setUnitDir 4 t.unit t.gr (d.without i)) t
    else
      let d := { d with owner := none, presence := d.presence &&& ~~~bitAt i }
      let s := s.setUnitDir n t.unit t.gr d
      let next := ((d.present n 4).filter fun a => a != t.from_).head?
      if t.req.isProbe then openTxn s t (d.present n 4) none
      else if t.req = .rdS ∧ next.isSome then openTxn s t [] next
      else completeGate s t

/-! ## Delivery -/

/-- What a message does when it is delivered, which has left the messages in flight. -/
def handle (s : State) (m : Msg) : State :=
  if m.dst < 128 then
    match m.kind with
    | .fwdS => clusterForward s m
    | .fwdX => clusterForward s m
    | .inv => clusterInv s m
    | .ackM => clusterAck s m
    | .wbAck => freeBuffer s m.dst m.unit
    | _ => clusterData s m
  else
    let n := nodeOf m.dst
    match m.kind with
    | .invAck => nodeInvAck s n m
    | .fwdAck => nodeFwdAck s n m
    | .noData => nodeNoData s n m
    | .wbAck => gateWbAck s n m.unit
    | .ackM => gateAnswer s n m
    | .dataM => if n = 4 then (s.homePut m.unit m.data) else gateAnswer s n m
    | .dataE => gateAnswer s n m
    | .dataS => if n = 4 then s else gateAnswer s n m
    | _ => arriveMsg s m

/-- The die of an agent; the home of a unit stands on its home die. -/
def State.dieOfAgent (s : State) (u agent : Nat) : Nat :=
  if agent < 128 then agent / 32 else if agent = homeAgent then s.homeDie u else nodeOf agent

/-- A message between two dies fails its check. -/
def State.linkError (s : State) (m : Msg) : Bool :=
  s.upsets.contains (.link m.unit) && s.dieOfAgent m.unit m.src != s.dieOfAgent m.unit m.dst

/-- A message reaches its receiver; one that fails its check on a die link is never delivered, and the module becomes viral (19_reliability
R435, R440). -/
def deliver (s : State) (m : Msg) : State :=
  let t := { s with coh := { s.coh with msgs := s.coh.msgs.erase m } }
  if s.linkError m then t.goViral 3 m.unit else pumpAll (handle t m)

/-- An Inv, or a FwdX, waits until every access that its cluster has translated through the unit has been performed (R113). -/
def State.invWaits (s : State) (m : Msg) : Bool :=
  (m.kind == .inv || m.kind == .fwdX) && !m.mark && decide (m.dst < 128) && s.clusterPending m.dst m.unit m.gr

/-- A message is the next for its receiver on its unit, and can be delivered. -/
def State.deliverable (s : State) (m : Msg) : Bool :=
  (s.coh.msgs.find? fun x => x.dst == m.dst && x.unit == m.unit) == some m && !s.invWaits m

/-- The message of a kind for an agent and a unit, when it is the next for its receiver on the unit. -/
def State.nextMsg (s : State) (p : Msg → Bool) (u : Nat) : Option Msg :=
  match s.coh.msgs.find? fun m => p m && m.unit == u with
  | none => none
  | some m => if s.deliverable m then some m else none

/-! ## A request and its answers in one step -/

/-- Messages are delivered, first those that `near` names, until `done` holds; a step in which they cannot be does not take place. -/
def drive (done : State → Bool) (near : Msg → Bool) : Nat → State → State
  | 0, s => { s with coh := { s.coh with blocked := true } }
  | fuel + 1, s =>
    if done s then s
    else match (s.coh.msgs.find? fun m => near m && s.deliverable m).orElse fun _ => s.coh.msgs.find? s.deliverable with
    | some m => drive done near fuel (deliver s m)
    | none => { s with coh := { s.coh with blocked := true } }

def driveFuel : Nat := 65536

/-- A message of the block of [pa, pa + n). -/
def Msg.nearTo (pa n : Nat) (m : Msg) : Bool := decide (m.unit / 512 * 512 < pa + n) && decide (pa / 512 * 512 ≤ m.unit)

/-- Nothing is under way on a unit that meets [pa, pa + n). -/
def State.idleAt (s : State) (pa n : Nat) : Bool :=
  let near := fun (u gr : Nat) => decide (u < pa + n) && decide (pa < u + gr)
  s.still || !((s.coh.msgs.any fun m => near m.unit m.gr) || (s.coh.txns.any fun t => near t.unit t.gr)
    || (s.coh.waiting.any fun m => near m.unit m.gr) || s.coh.wbuf.any fun m => near m.unit m.gr)

/-- What is under way on the bytes ends first. -/
def State.settled (s : State) (pa n : Nat) : State :=
  if s.idleAt pa n then s else drive (fun s => s.idleAt pa n) (Msg.nearTo pa n) driveFuel s

/-- The units of [pa, pa + n) that an agent holds, as the home's directory has them, with their grain. -/
def State.heldUnits (s : State) (pa n : Nat) : List (Nat × Nat) :=
  (s.coh.dir.filter fun e => e.die == 4).flatMap fun e =>
    (e.units.filter fun x => decide (x.1 < pa + n) && decide (pa < x.1 + e.grain)).map fun x => (x.1, e.grain)

/-- The home gathers the copies of [pa, pa + n), as a recall does: home memory is current, and no L1 holds a byte of it (R93, R166). -/
def State.gather (s : State) (pa n : Nat) (mark : Bool := false) : State :=
  let s := s.settled pa n
  let us := s.heldUnits pa n
  if us.isEmpty then s else (us.foldl (fun s u => recallUnit 4 u.2 mark s u.1) s).settled pa n

/-- A write at the home (R96, R115, R166): copies are gathered first, with what was translated from the bytes. -/
def State.homeWrite (s : State) (pa : Nat) (bs : List Byte) : State :=
  let s := (s.gather pa bs.length).homePut pa bs
  { s with coh := { s.coh with writers := SMap.write zeroNat s.coh.writers pa (List.replicate bs.length 0) } }

/-- An OR into a byte at its home (05_translation R109, R121). -/
def State.homeOr (s : State) (pa : Nat) (v : Byte) (mark : Bool) : State :=
  let s := s.gather pa 1 mark
  s.homePut pa [s.byte pa ||| v]

/-- The frames' bits that wait are set, unless a copy of an entry cannot be gathered yet. -/
def applyOrs (s : State) : State :=
  s.coh.ors.foldl (fun s x =>
    let t := { s with coh := { s.coh with ors := s.coh.ors.erase x } }.homeOr x.1 x.2 false
    if t.coh.blocked && !s.coh.blocked then s else t) s

/-- The step has met an uncorrectable error of DRAM, L2, a die link, a directory or the remap table (19_reliability R440). -/
def State.metError (s t : State) : Bool := t.viral && !s.viral && decide (1 ≤ t.field vstat 4 4) && decide (t.field vstat 4 4 ≤ 5)

/-- What a step leaves (R77, R113): one that met an uncorrectable error delivers nothing and makes the module viral; one that met an
access that must wait does not take place (notes/assumptions 129). -/
def State.after (s t : State) : State :=
  if s.metError t then s.goViral (t.field vstat 4 4) (bitsOf (t.reg vstat) 12 40 * 4096)
  else if t.coh.blocked then s
  else applyOrs { t with coh := { t.coh with actor := none } }

/-- The outcome of a step that may have met such an access. -/
def taken (s : State) : Host.Outcome State Fault Refusal → Host.Outcome State Fault Refusal
  | .next t => .next (s.after t)
  | o => o

/-! ## Messages by themselves -/

/-- A message from an agent, or to one, is delivered. -/
def messageFrom (kind : MsgKind) (agent u : Nat) (s : State) : Host.Outcome State Fault Refusal :=
  match s.nextMsg (fun m => m.kind == kind && m.src == agent) u with
  | some m => .next (applyOrs (deliver s m))
  | none => .next s
def messageTo (kind : MsgKind) (agent u : Nat) (s : State) : Host.Outcome State Fault Refusal :=
  match s.nextMsg (fun m => m.kind == kind && m.dst == agent) u with
  | some m => .next (applyOrs (deliver s m))
  | none => .next s

/-! ## A cluster's own requests -/

/-- The grain of a request for a unit by a cluster: that of a translation it holds of it, else the largest up to 128 bytes that the
address allows. -/
def State.askGrain (s : State) (c u : Nat) : Nat :=
  let own := ((s.cluster c).tlb.find? fun e => e.maps u).map fun e => e.grain
  s.grainAt u (own.getD (if u % 128 = 0 then 128 else 32))

/-- A cluster has a request, or an answer, outstanding on a unit. -/
def State.outstanding (s : State) (c u : Nat) : Bool :=
  (s.coh.txns.any fun t => t.unit == u && t.from_ == c) || (s.coh.waiting.any fun m => m.unit == u && m.src == c)
    || s.coh.msgs.any fun m => m.unit == u && (m.dst == c || m.src == c)

/-- A cluster may ask for a unit: what it holds of it fits the request. -/
def State.mayAsk (s : State) (kind : MsgKind) (c u : Nat) : Bool :=
  let ls := s.linesIn c u
  match kind with
  | .upg => !ls.isEmpty && ls.all fun l => l.st == .S || l.st == .O
  | .wbD => (ls.any fun l => l.st.dirty) && !(s.coh.wbuf.any fun m => m.src == c && m.unit == u)
  | _ => ls.isEmpty

/-- A request arrives from an agent: one in flight, or one that a cluster makes now. A write-back leaves its data in the buffer. -/
def request (kind : MsgKind) (agent u : Nat) (s : State) : Host.Outcome State Fault Refusal :=
  match s.nextMsg (fun m => m.kind == kind && m.src == agent) u with
  | some m => .next (applyOrs (deliver s m))
  | none =>
    let gr := s.askGrain agent u
    if 128 ≤ agent ∨ u % gr ≠ 0 ∨ !s.running ∨ !s.exists u gr ∨ s.outstanding agent u ∨ !s.mayAsk kind agent u then .next s
    else
      if kind = .wbD then
        match (s.linesIn agent u).find? fun l => l.st.dirty with
        | none => .next s
        | some l =>
          let s := (s.dropLines agent u).sendWbD l
          match s.nextMsg (fun m => m.kind == kind && m.src == agent) u with
          | some m => .next (applyOrs (deliver s m))
          | none => .next s
      else
        let m : Msg := { kind := kind, src := agent, dst := s.serverOf agent u, unit := u, gr := gr, other := u }
        .next (applyOrs (pumpAll (arriveMsg s m)))

/-! ## The rows -/

/-- RDS (R90) -/
def execRds (agent unit : Nat) (s : State) : Host.Outcome State Fault Refusal := request .rdS agent unit s
/-- RDX (R90) -/
def execRdx (agent unit : Nat) (s : State) : Host.Outcome State Fault Refusal := request .rdX agent unit s
/-- UPG (R90) -/
def execUpg (agent unit : Nat) (s : State) : Host.Outcome State Fault Refusal := request .upg agent unit s
/-- WBD (R90) -/
def execWbd (agent unit : Nat) (s : State) : Host.Outcome State Fault Refusal := request .wbD agent unit s
/-- FWDS (R90) -/
def execFwds (agent unit : Nat) (s : State) : Host.Outcome State Fault Refusal := messageTo .fwdS agent unit s
/-- FWDX (R90) -/
def execFwdx (agent unit : Nat) (s : State) : Host.Outcome State Fault Refusal := messageTo .fwdX agent unit s
/-- INV (R113) -/
def execInv (agent unit : Nat) (s : State) : Host.Outcome State Fault Refusal := messageTo .inv agent unit s
/-- DATA_S (R89) -/
def execDataS (agent unit : Nat) (s : State) : Host.Outcome State Fault Refusal := messageTo .dataS agent unit s
/-- DATA_E (R89) -/
def execDataE (agent unit : Nat) (s : State) : Host.Outcome State Fault Refusal := messageTo .dataE agent unit s
/-- DATA_M (R89) -/
def execDataM (agent unit : Nat) (s : State) : Host.Outcome State Fault Refusal := messageTo .dataM agent unit s
/-- ACK_M (R89) -/
def execAckM (agent unit : Nat) (s : State) : Host.Outcome State Fault Refusal := messageTo .ackM agent unit s
/-- FWDACK (R91) -/
def execFwdack (agent unit : Nat) (s : State) : Host.Outcome State Fault Refusal := messageFrom .fwdAck agent unit s
/-- NODATA (R92) -/
def execNodata (agent unit : Nat) (s : State) : Host.Outcome State Fault Refusal := messageFrom .noData agent unit s
/-- INVACK (R90) -/
def execInvack (agent unit : Nat) (s : State) : Host.Outcome State Fault Refusal := messageFrom .invAck agent unit s
/-- WBACK (R92) -/
def execWback (agent unit : Nat) (s : State) : Host.Outcome State Fault Refusal := messageTo .wbAck agent unit s

end Sys2Proof.Machine
end

