-- ==== Sys2Proof/Machine/Coherence.lean ====
section
/-!
DEFINITION. A core's own accesses to global memory: its L1 (06_core_memory R127, 05_translation R110), what it asks the home for (04_dram_l2
R90, 05_translation R111), and the coherent, non-coherent and uncached kinds (04_dram_l2 R96 to R99).
-/

namespace Sys2Proof.Machine

/-! ## Roles of banks (06_core_memory R124, R125) -/

def cbrole (core : Nat) : Nat := 0x4000 + 16 * core
def cbstat (core : Nat) : Nat := 0x4008 + 16 * core

/-- The role of bank n in a CBROLE value. -/
def roleIn (v : Dword) (n : Nat) : Nat := bitsOf v (2 * n) 2
def State.roles (s : State) (core : Nat) : Dword := s.reg (cbrole core)
def banksOf (v : Dword) (code : Nat) : List Nat := (List.range 32).filter fun n => roleIn v n == code

/-- The banks of a role that a role change in progress does not take away (06_core_memory R126). -/
def State.stayingBanks (s : State) (core code : Nat) : List Nat :=
  (banksOf (s.roles core) code).filter fun n => match (s.core core).roles with
    | some v => roleIn v n == code
    | none => true

/-! ## The L1 (06_core_memory R127) -/

/-- The cluster whose copy a holder's line is. -/
def holderCluster (core : Nat) : Nat := if 1024 ≤ core then core - 1024 else clusterOf core

/-- Sets of a core's L1: four ways of 512 bytes for every 2 KiB. -/
def State.l1Sets (s : State) (core : Nat) : Nat := 8 * (s.stayingBanks core 0).length

/-- The blocks that a core's L1 holds, by context and virtual block, with their last uses. -/
def State.l1Uses (s : State) (core : Nat) : List ((Nat × Nat) × Nat) :=
  ((s.coh.l1.filter fun l => l.core == core).map fun l => ((l.ctx, l.va.toNat / 512), l.used))
    ++ (s.core core).nc.map fun x => ((x.ctx, x.va.toNat / 512), x.used)

/-- A block leaves a core's L1: what is dirty is written back. -/
def State.dropBlock (s : State) (core : Nat) (b : Nat × Nat) : State :=
  (s.shedLines fun l => l.core == core && (l.ctx, l.va.toNat / 512) == b).ncFlush core (fun x => (x.ctx, x.va.toNat / 512) == b) true true

/-- A block that an access brings in finds a way: the least recently used block of a full set of four leaves. -/
def State.l1Room (s : State) (core ctx : Nat) (va : Dword) : State :=
  let uses := s.l1Uses core
  let tags := (uses.map fun u => u.1).dedup
  let b := (ctx, va.toNat / 512)
  if 1024 ≤ core ∨ tags.contains b ∨ tags.length < 4 then s
  else
    let set := fun (t : Nat × Nat) => Config.l1Set (s.l1Sets core) t.1 t.2
    let mine := tags.filter fun t => set t == set b
    if mine.length < 4 then s
    else
      let last := fun (t : Nat × Nat) => (uses.filter fun u => u.1 == t).foldl (fun m u => max m u.2) 0
      let oldest := mine.foldl (fun best t => match best with
        | none => some t
        | some o => if last t < last o then some t else some o) none
      match oldest with
      | some o => s.dropBlock core o
      | none => s

/-- A use of the line at an address. -/
def State.useLine (s : State) (core ctx : Nat) (va : Dword) : State :=
  let l1 := s.coh.l1.map fun l => if l.hits core ctx va then { l with used := s.coh.clock } else l
  { s with coh := { s.coh with l1 := l1, clock := s.coh.clock + 1 } }

/-! ## Requests for a unit (04_dram_l2 R90, 05_translation R111) -/

/-- The cluster's lines of the unit that holds an address. -/
def State.clusterLines (s : State) (c pa : Nat) : List L1Line := s.coh.l1.filter fun l => l.cluster == c && l.covers pa

/-- W of the translation that an access uses (05_translation R108). -/
def State.mayWrite (s : State) (core ctx : Nat) (va : Dword) : Bool :=
  ((s.cluster (holderCluster core)).tlb.find? fun e => e.hits ctx va).any fun e => e.w

/-- A request of a holder's cluster is sent and answered. -/
def State.ask (s : State) (kind : MsgKind) (core ctx : Nat) (va : Dword) (pa gr0 : Nat) (granted : L1Line → Bool) : State :=
  let c := holderCluster core
  let gr := s.grainAt pa gr0
  let m : Msg := { kind := kind, src := c, dst := s.serverOf c pa, unit := unitBase pa gr, gr := gr, other := pa }
  let a : Ask := { cluster := c, pa := pa, core := core, ctx := ctx, va := va, w := s.mayWrite core ctx va }
  let done := fun (s : State) => s.idleAt pa 1 && (s.lineAt core ctx va).any granted
  drive done (Msg.nearTo pa 1) driveFuel (pumpAll (arriveMsg { s with coh := { s.coh with asks := s.coh.asks ++ [a] } } m))

/-- The unit's line of another holder of the cluster, as it stands under this one's tag. -/
def State.copyOf (s : State) (core ctx : Nat) (va : Dword) (pa : Nat) (l : L1Line) (st : CohState) : L1Line :=
  { l with core := core, ctx := ctx, va := va - BitVec.ofNat 64 (pa - l.base), w := s.mayWrite core ctx va, used := s.coh.clock, st := st }

/-- A holder takes a readable copy of a unit. One that its cluster holds already is copied, and a dirty one is written back first, so
that every copy is clean (R111); else the home is asked. -/
def State.fetchShared (s : State) (core ctx : Nat) (va : Dword) (pa gr : Nat) : State :=
  match s.lineAt core ctx va with
  | some _ => s
  | none =>
    let c := holderCluster core
    let s := (s.l1Room core ctx va).settled pa 1
    let held := s.clusterLines c pa
    if held.any fun l => l.st.dirty then
      let s := (s.shedLines fun l => l.cluster == c && l.covers pa).settled pa 1
      let s := s.ask .rdS core ctx va pa gr fun _ => true
      { s with coh := { s.coh with l1 := s.coh.l1 ++ held.map fun l => { l with st := .S } } }
    else match held.head? with
    | some l => { s with coh := { s.coh with l1 := s.copyOf core ctx va pa l .S :: s.coh.l1 } }
    | none => s.ask .rdS core ctx va pa gr fun _ => true

/-- A core takes a unit to write it. What its own cluster has translated through the unit goes first, and every other copy of the
cluster; the home is asked unless the cluster holds the unit in E or M (R111, R115). -/
def State.fetchOwned (s : State) (core ctx : Nat) (va : Dword) (pa gr0 : Nat) : State :=
  let c := holderCluster core
  let s := (s.l1Room core ctx va).settled pa 1
  let gr := s.grainAt pa gr0
  let u := unitBase pa gr
  if s.clusterPending c u gr then { s with coh := { s.coh with blocked := true } }
  else
    let s := s.dropClusterTranslations c u gr
    let held := s.clusterLines c pa
    let best := ((held.find? fun l => l.st.dirty).orElse fun _ => held.find? fun l => l.st == .E).orElse fun _ => held.head?
    match best with
    | none => s.ask .rdX core ctx va pa gr fun l => l.st == .M
    | some l =>
      let own := l.st == .E || l.st == .M
      let rest := s.coh.l1.filter fun l => !(l.cluster == c && l.covers pa)
      let s := { s with coh := { s.coh with l1 := s.copyOf core ctx va pa l (if own then .M else l.st) :: rest } }
      if own then s else s.ask .upg core ctx va pa gr fun l => l.st == .M

/-- A cluster holds a line for its walks, as a sharer at 128-byte grain (05_translation R112). -/
def State.walkLine (s : State) (c pa : Nat) : State := s.fetchShared (walkerOf c) 0 (BitVec.ofNat 64 pa) pa 128

/-! ## Non-coherent ranges (R97, R98) -/

/-- The physical base of a context descriptor (05_translation R103). -/
def State.descBase (s : State) (ctx : Nat) : Nat := bitsOf (s.reg 0x2000) 12 40 * 4096 + 512 * ctx

/-- The mode of one range entry for an address: none when it does not match. -/
def rangeMatch (w0 w1 : Dword) (pa : Nat) : Option Nat :=
  let mode := bitsOf w0 0 2
  let b := bitsOf w0 9 43
  let l := bitsOf w1 9 43
  if mode = 0 ∨ mode = 3 ∨ bitsOf w0 2 7 ≠ 0 ∨ bitsOf w0 52 12 ≠ 0 ∨ bitsOf w1 0 9 ≠ 0 ∨ bitsOf w1 52 12 ≠ 0 ∨ b > l then none
  else if b ≤ pa / 512 ∧ pa / 512 ≤ l then some mode else none

/-- 0 coherent, 1 non-coherent write-back, 2 uncached: the lowest-numbered matching entry decides (R98). -/
def State.rangeMode (s : State) (ctx pa : Nat) : Nat :=
  let base := s.descBase ctx + 0x100
  ((List.range 16).findSome? fun n =>
    rangeMatch (s.cohDword (base + 16 * n)) (s.cohDword (base + 16 * n + 8)) pa).getD 0

/-- The cluster is a sharer of the lines that hold a context's ranges (R100). -/
def State.holdRanges (s : State) (core ctx : Nat) : State :=
  let base := s.descBase ctx + 0x100
  if s.exists base 256 then (s.walkLine (clusterOf core) base).walkLine (clusterOf core) (base + 128) else s

/-- A core's L1 takes a sector of a non-coherent range, from home memory. -/
def State.ncFetch (s : State) (core ctx : Nat) (va : Dword) (pa : Nat) : State :=
  match s.sectorAt core ctx va with
  | some _ => s
  | none =>
    let lo := pa / 32 * 32
    let s := ((s.l1Room core ctx va).l2Read lo 32).2
    let x : NcSector := { ctx := ctx, va := va &&& ~~~(31 : Dword), pa := lo, w := s.mayWrite core ctx va, data := s.readMem lo 32, used := s.coh.clock }
    s.modCore core fun c => { c with nc := x :: c.nc }

/-! ## Loads and stores of a core -/

def NcSector.bytes (x : NcSector) (pa n : Nat) : List Byte := (List.range n).map fun i => x.data.getD (pa + i - x.pa) 0
def L1Line.bytes (l : L1Line) (pa n : Nat) : List Byte := (List.range n).map fun i => l.byte (pa + i)

/-- A load of bytes of one sector by a core, at its virtual address and the physical one that it was translated to: from the L1 on a
hit, whatever the ranges are now (R98, R100), else by the kind of the address. -/
def State.coreRead (s : State) (core ctx : Nat) (va : Dword) (pa gr n : Nat) : List Byte × State :=
  match s.lineAt core ctx va with
  | some l => (l.bytes pa n, s.useLine core ctx va)
  | none => match s.sectorAt core ctx va with
  | some x => (x.bytes pa n, s)
  | none =>
    let s := s.holdRanges core ctx
    if s.rangeMode ctx pa = 0 then
      let s := s.fetchShared core ctx va pa gr
      (((s.lineAt core ctx va).map fun l => l.bytes pa n).getD (s.cohRead pa n), s)
    else if s.rangeMode ctx pa = 1 then
      let s := s.ncFetch core ctx va pa
      (((s.sectorAt core ctx va).map fun x => x.bytes pa n).getD (s.readMem pa n), s)
    else
      let s := (s.l2Read pa n).2
      (s.readMem pa n, s)

/-- A coherent store at its order point: into an L1 copy in M. -/
def State.storeLine (s : State) (core ctx : Nat) (va : Dword) (pa gr : Nat) (bs : List Byte) : State :=
  let s := s.fetchOwned core ctx va pa gr
  let l1 := s.coh.l1.map fun l => if l.hits core ctx va then { l with st := .M, data := patch l.data (pa - l.base) bs, used := s.coh.clock } else l
  { s with coh := { s.coh with l1 := l1, clock := s.coh.clock + 1 } }

/-- A store into a sector of a non-coherent range: its bytes are dirty. -/
def State.storeSector (s : State) (core ctx : Nat) (va : Dword) (pa : Nat) (bs : List Byte) : State :=
  let s := s.ncFetch core ctx va pa
  let mark := fun (x : NcSector) => (List.range bs.length).foldl (fun m i => m ||| BitVec.ofNat 32 (2 ^ (pa + i - x.pa))) x.dirty
  s.modCore core fun c => { c with nc := c.nc.map fun x => if x.hits ctx va then { x with data := patch x.data (pa - x.pa) bs, dirty := mark x } else x }

/-- Bytes are written by a core's store. -/
def State.noteWriter (s : State) (core pa n : Nat) : State :=
  { s with coh := { s.coh with writers := SMap.write zeroNat s.coh.writers pa (List.replicate n (core + 1)) } }

/-- A core's store at its order point (R96): into its L1 copy in M, into its L1 with dirty bytes, or at the home. -/
def State.coreWrite (s : State) (core ctx : Nat) (va : Dword) (pa gr : Nat) (bs : List Byte) : State :=
  let s := s.noteWriter core pa bs.length
  match s.sectorAt core ctx va with
  | some _ => s.storeSector core ctx va pa bs
  | none => match s.lineAt core ctx va with
  | some _ => s.storeLine core ctx va pa gr bs
  | none =>
    let s := s.holdRanges core ctx
    if s.rangeMode ctx pa = 0 then s.storeLine core ctx va pa gr bs
    else if s.rangeMode ctx pa = 1 then s.storeSector core ctx va pa bs
    else s.homePut pa bs

/-- An exchange of a core at one order point (07_memory_instructions R153): in its L1 with the unit owned, in its L1 with dirty bytes, or at
the home; the old bytes. -/
def State.coreSwap (s : State) (core ctx : Nat) (va : Dword) (pa gr : Nat) (bs : List Byte) : List Byte × State :=
  let own := (s.sectorAt core ctx va).isNone && ((s.lineAt core ctx va).isSome || s.rangeMode ctx pa == 0)
  let s := if own then s.fetchOwned core ctx va pa gr else s
  let (old, s) := s.coreRead core ctx va pa gr bs.length
  (old, s.coreWrite core ctx va pa gr bs)

/-- The value that a core's access would read now (the memory view of the statements). -/
def State.viewByte (s : State) (core ctx : Nat) (va : Dword) (pa : Nat) : Byte :=
  match s.lineAt core ctx va with
  | some l => l.byte pa
  | none => match s.sectorAt core ctx va with
  | some x => x.data.getD (pa - x.pa) 0
  | none => if s.rangeMode ctx pa = 0 then s.cohByte pa else s.byte pa

/-! ## Reads at the home -/

/-- The 32-byte sectors that [pa, pa + n) meets. -/
def sectorBases (pa n : Nat) : List Nat := if n = 0 then [] else (List.range ((pa + n - 1) / 32 + 1 - pa / 32)).map fun i => (pa / 32 + i) * 32

/-- A coherent read in the order of the home, which allocates in no L1: the owner's bytes, else those of home memory (R77, R84). -/
def State.homeRead (s : State) (pa n : Nat) : List Byte × State :=
  let s := s.settled pa n
  let s := (sectorBases pa n).foldl (fun s a => if (s.ownerLine a).isSome then s else (s.l2Read a 32).2) s
  (s.cohRead pa n, s)

/-! ## Engines (08_copy_engine R187, R194) -/

/-- A read by an engine, which has no L1: in the order of the home, or of home memory in a non-coherent range of the context. What the home
gives sets A of the frame (05_translation R121; notes/assumptions 119). -/
def State.engRead (s : State) (core ctx pa n : Nat) : List Byte × State :=
  let s := s.holdRanges core ctx
  if s.rangeMode ctx pa = 0 then let (bs, s) := s.homeRead pa n; (bs, s.frameTouch pa false)
  else let s := (s.l2Read pa n).2; (s.readMem pa n, s)

/-- A write by an engine. -/
def State.engWrite (s : State) (core ctx pa : Nat) (bs : List Byte) : State :=
  let s := s.holdRanges core ctx
  let s := if s.rangeMode ctx pa = 0 then (s.homeWrite pa bs).frameTouch pa true else s.homePut pa bs
  s.noteWriter core pa bs.length

end Sys2Proof.Machine
end

