-- ==== Sys2Proof/Machine/Translate.lean ====
section
/-!
DEFINITION. Translation of virtual addresses (05_translation R102 to R114): context descriptors, the four-level walk, the
cluster TLB, permissions, and the A and D updates. A lookup never changes the state; `touch` makes the cluster a sharer of what the walk
read, installs the TLB entry and sets A and D once the access is performed.
-/

namespace Sys2Proof.Machine

/-- What an access needs of a leaf (R108); `write` also sets D (R109), `maint` is cache maintenance. -/
inductive Acc where
  | read | write | maint | fetch
  deriving DecidableEq, Repr

inductive XFault where
  | page | prot
  deriving DecidableEq, Repr

def XFault.cause : XFault → Cause
  | .page => .page
  | .prot => .prot

/-- A context number that names a descriptor: below COUNT, which acts as 4096 at most (R103). -/
def State.ctxNamed (s : State) (ctx : Nat) : Bool := decide (ctx < min (s.field 0x2008 0 13) 4096)

/-- The descriptor of a context: EN set, every zero field zero, and its number below COUNT (R103, R104). It gives the root
table's frame. A descriptor that lies above CAP is none (notes/assumptions 10). -/
def State.rootOf (s : State) (ctx : Nat) : Option Nat :=
  let base := s.descBase ctx
  if s.ctxNamed ctx ∧ s.exists base 512 then
    let w := s.cohDword base
    if w.getLsbD 0 ∧ bitsOf w 1 13 = 0 ∧ bitsOf w 52 12 = 0 ∧ (s.cohRead (base + 16) 240).all (· == 0) then
      some (bitsOf w 14 38 * 16384)
    else none
  else none

/-- The index of a virtual address at a level (R106). -/
def levelIndex (level : Nat) (va : Dword) : Nat := if level = 3 then bitsOf va 47 10 else bitsOf va (14 + 11 * level) 11

/-- The walk from a table at a level downwards: R107's conditions in their order. `read` collects the entries read. -/
def walk (s : State) (ctx : Nat) (va : Dword) : Nat → Nat → List (Nat × Nat) → Except XFault TlbEntry
  | level, table, read =>
    let at_ := table + 8 * levelIndex level va
    if !s.exists at_ 8 then .error .prot
    else
      let e := s.cohDword at_
      let leaf := e.getLsbD 7
      let frame := bitsOf e 14 38
      if !e.getLsbD 0 then .error .page
      else if bitsOf e 52 12 ≠ 0 then .error .prot
      else if level = 3 ∧ leaf ∨ level = 0 ∧ !leaf then .error .prot
      else if !leaf then
        match level with
        | 0 => .error .prot
        | l + 1 => walk s ctx va l (frame * 16384) ((at_, 8) :: read)
      else
        let pages := 2 ^ (11 * level)
        if bitsOf e 5 2 = 3 then .error .prot
        else if frame % pages ≠ 0 then .error .prot
        else if s.cap < frame * 16384 + pages * 16384 ∧ s.cap ≤ frame * 16384 then .error .prot
        else
          let vpn := bitsOf va 14 43
          .ok { ctx := ctx, vpn := vpn / pages * pages, pages := pages, frame := frame * 16384
                w := e.getLsbD 1, x := e.getLsbD 2, d := e.getLsbD 4
                grain := if bitsOf e 5 2 = 0 then 32 else if bitsOf e 5 2 = 1 then 128 else 512
                leaf := at_, walked := (s.descBase ctx, 256) :: (at_, 8) :: read }
termination_by structural level => level

/-- The physical address of a virtual address under an entry. -/
def TlbEntry.pa (e : TlbEntry) (va : Dword) : Nat := e.frame + (bitsOf va 0 57 - e.vpn * 16384)

/-- The translation a cluster uses: its TLB entry, else a walk (R110). In a context that names no descriptor there is none (R103). -/
def State.translation (s : State) (cl ctx : Nat) (va : Dword) : Except XFault TlbEntry :=
  if !canonical va || !s.ctxNamed ctx then .error .prot
  else match (s.cluster cl).tlb.find? fun e => e.hits ctx va with
  | some e => .ok e
  | none =>
    match s.rootOf ctx with
    | none => .error .prot
    | some root => walk s ctx va 3 root []

/-- A lookup with the permission check of R108. An address at or above CAP raises PROT, also where the frame of its large page begins
below CAP (R74; the manual speaks of the frame alone, notes/assumptions 115). -/
def State.lookup (s : State) (cl ctx : Nat) (acc : Acc) (va : Dword) : Except XFault TlbEntry :=
  match s.translation cl ctx va with
  | .error e => .error e
  | .ok e =>
    let need := match acc with
      | .read => true
      | .write => e.w
      | .maint => e.w
      | .fetch => e.x
    if s.cap ≤ e.pa va then .error .prot
    else if need then .ok e else .error .prot

/-- An atomic OR by the walker into a leaf at its home, with the attribute mark; TLB entries are kept (R109). -/
def State.orLeaf (s : State) (leaf : Nat) (m : Byte) : State :=
  if s.cohByte leaf ||| m = s.cohByte leaf then s else s.homeOr leaf m true

/-- The cluster holds the lines that a walk read, as their sharer (R112). -/
def State.holdWalk (s : State) (cl : Nat) (e : TlbEntry) : State :=
  e.walked.foldl (fun s a => if a.2 ≤ 128 then s.walkLine cl a.1 else (s.walkLine cl a.1).walkLine cl (a.1 + 128)) s

/-- Install the translation, setting A when the leaf's A is 0, and D on the first write (R109). -/
def State.touch (s : State) (cl ctx : Nat) (acc : Acc) (va : Dword) (e : TlbEntry) : State :=
  let s := if (s.cluster cl).tlb.any fun x => x.hits ctx va then s
    else ((s.holdWalk cl e).modCluster cl fun c => { c with tlb := e :: c.tlb }).orLeaf e.leaf 0x08
  if acc = .write ∧ !e.d then
    let s := s.orLeaf e.leaf 0x10
    s.modCluster cl fun c => { c with tlb := c.tlb.map fun x => if x.hits ctx va then { x with d := true } else x }
  else s

/-- What an access of a core finds: the physical address and grain, and the translation that it goes through; an L1 hit goes
through none, but for a store to a line without W (R108, R110). -/
def State.find (s : State) (core ctx : Nat) (acc : Acc) (va : Dword) : Except XFault (Nat × Nat × Option TlbEntry) :=
  let hit : Option (Nat × Nat) :=
    if acc = .maint ∨ acc = .fetch then none
    else match s.lineAt core ctx va with
    | some l => if acc = .read ∨ l.w then some (l.base + (va - l.va).toNat, l.gr) else none
    | none => match s.sectorAt core ctx va with
      | some x => if acc = .read ∨ x.w then some (x.pa + (va - x.va).toNat, 32) else none
      | none => none
  match hit with
  | some x => .ok (x.1, x.2, none)
  | none => match s.lookup (clusterOf core) ctx acc va with
    | .error e => .error e
    | .ok e => .ok (e.pa va, e.grain, some e)

/-- The translation that an access went through is installed. -/
def State.through (s : State) (core ctx : Nat) (acc : Acc) (va : Dword) (e : Option TlbEntry) : State :=
  match e with
  | some e => s.touch (clusterOf core) ctx acc va e
  | none => s

/-- Translate one address for a core: the physical address and grain, and the state with the translation installed. -/
def State.xlate (s : State) (core ctx : Nat) (acc : Acc) (va : Dword) : Except XFault (Nat × Nat × State) :=
  match s.find core ctx acc va with
  | .error e => .error e
  | .ok (pa, gr, e) => .ok (pa, gr, s.through core ctx acc va e)

/-- Translate one address for an engine of the core's cluster, which no L1 serves (R110). -/
def State.engXlate (s : State) (core ctx : Nat) (acc : Acc) (va : Dword) : Except XFault (Nat × Nat × State) :=
  match s.lookup (clusterOf core) ctx acc va with
  | .error e => .error e
  | .ok e => .ok (e.pa va, e.grain, s.touch (clusterOf core) ctx acc va e)

/-- Translate the addresses of several lanes; none is installed unless all succeed (R145, R119). The lane whose fault is
reported is the lowest. -/
def State.xlateAll (s : State) (core ctx : Nat) (acc : Acc) (as : List (Nat × Dword)) :
    Except (XFault × Nat × Dword) (List (Nat × Dword × Nat × Nat) × State) :=
  let looked := as.map fun a => (a, s.find core ctx acc a.2)
  match looked.findSome? fun x => match x.2 with
    | .error e => some (e, x.1.1, x.1.2)
    | .ok _ => none with
  | some f => .error f
  | none =>
    .ok (looked.filterMap fun x => match x.2 with
        | .ok e => some (x.1.1, x.1.2, e.1, e.2.1)
        | .error _ => none,
      looked.foldl (fun s x => match x.2 with
        | .ok e => s.through core ctx acc x.1.2 e.2.2
        | .error _ => s) s)

/-! ## Instruction fetch (R375, R467) -/

/-- A word of code at a virtual address for a weft: from the cluster's instruction cache, else through the translation with
fetch permission. The low two bits of the address take no part: the manual names no cause for an address that is no multiple of 4,
as a task's ENTRY may be (03_encoding R44; notes/assumptions 116). -/
def State.codeWord (s : State) (k : Nat) (va : Dword) : Except XFault Word :=
  let cl := clusterOf (s.coreOf k)
  let ctx := s.ctxOf k
  let line := va &&& ~~~(127 : Dword)
  if !canonical va || !s.ctxNamed ctx then .error .prot
  else match (s.cluster cl).icache.find? fun l => l.ctx == ctx && l.va == line with
  | some l => .ok (l.words.getD (bitsOf va 2 5) 0)
  | none =>
    match s.lookup cl ctx .fetch va with
    | .error e => .error e
    | .ok e => .ok (s.cohWord (e.pa va))

/-- The line of code at a virtual address is in the cluster's instruction cache. -/
def State.codeCached (s : State) (k : Nat) (va : Dword) : Bool :=
  let line := va &&& ~~~(127 : Dword)
  (s.cluster (clusterOf (s.coreOf k))).icache.any fun l => l.ctx == s.ctxOf k && l.va == line

/-- Bring a line of code into the cluster's instruction cache, which becomes a sharer of its units (16_scheduling R375). -/
def State.fillCode (s : State) (core ctx : Nat) (va : Dword) : Except XFault State :=
  let line := va &&& ~~~(127 : Dword)
  match s.xlate core ctx .fetch line with
  | .error e => .error e
  | .ok (pa, gr, s) =>
    let s := (List.range 4).foldl (fun s i => s.fetchShared (walkerOf (clusterOf core)) 0 (BitVec.ofNat 64 (pa + 32 * i)) (pa + 32 * i) gr) s
    let words := (List.range 32).map fun i => s.cohWord (pa + 4 * i)
    .ok (s.modCluster (clusterOf core) fun c =>
      { c with icache := { ctx := ctx, va := line, pa := pa, words := words } ::
        c.icache.filter fun l => !(l.ctx == ctx && l.va == line) })

end Sys2Proof.Machine
end

