-- ==== Sys2Proof/Machine/Operands.lean ====
section
/-!
DEFINITION. Operand forms: what each register field of an instruction names (03_encoding R47), what its prefix may carry
(R50), immediates (R51), and reading and writing operands lane by lane.
-/

namespace Sys2Proof.Machine

/-- What a register field names: nothing (the field holds zero, an immediate or a code), a run of n registers that begins
at a multiple of n, or a mask register. -/
inductive RK where
  | none
  | reg (n : Nat)
  | mask
  deriving DecidableEq, Repr

def RK.words : RK → Nat
  | .none => 0
  | .reg n => n
  | .mask => 0

def RK.isReg : RK → Bool
  | .reg _ => true
  | _ => false

/-- How the ext byte of a prefix is used. -/
inductive ExtUse where
  | zero
  /-- high bits of the immediate (R51) -/
  | imm
  /-- the instruction's own bits, those of the mask -/
  | own (m : Byte)
  deriving DecidableEq, Repr

/-- What the issue of an instruction needs to know of its form. `flag` is the completion flag it counts on (R56): true for
B. `est` gives the largest total of its data records in words for a number of lanes (R211). -/
structure Info where
  op    : Nat
  fn    : Nat := 0
  u     : Bool
  p     : Option Prefix
  d     : Reg := 0
  a     : Reg := 0
  b     : Reg := 0
  dk    : RK := .none
  ak    : RK := .none
  bk    : RK := .none
  ck    : RK := .none
  ext   : ExtUse := .zero
  round : Bool := false
  sat   : Bool := false
  maskOk : Bool := true
  zOk   : Bool := false
  flag  : Option Bool := none
  irrev : Bool := false
  fflags : Bool := false
  /-- the old value of d is recorded (R208) -/
  isDest : Bool := false
  est   : Nat → Nat := fun _ => 0
  /-- the words of the DIV and CTRL records of a control transfer; none where only a reconvergence after it can push them -/
  ctl   : Option Nat := none
  /-- held at issue until every effect in flight has written its registers (09_registers_history R205) -/
  quiet : Bool := false
  /-- the kinds of the records, beside the destination's, that it pushes when no lane takes part (R208) -/
  emptyKinds : List Nat := []
  /-- a uniform form whose body itself judges an empty ACTIVE, as those that need the full mask do (R27) -/
  selfEmpty : Bool := false
  ok    : Bool := true          -- any further rule whose breach raises ILLEGAL
  /-- registers that it reads or writes beside those its fields name, as `regsOf` gives them -/
  more  : List (Bool × Nat) := []
  /-- the CLAUSE that its transfer raises at decode, with its TADDR (03_encoding R53, R58) -/
  clause : Option Dword := none
  /-- it raises PRIV at decode (R58) -/
  priv  : Bool := false

/-- The fourth operand: the prefix's c, or d without a prefix (R50). R50's list of the forms whose c is d omits TFMA, of which its own rule
says nothing: TFMA takes d as well (notes/assumptions 128). -/
def Info.c (i : Info) : Reg :=
  match i.p with
  | some x => x.c
  | none => i.d

/-- Length in words. -/
def Info.len (i : Info) : Nat := if i.p.isSome then 2 else 1

/-- Field a, or b, names a scalar register: by U, or by the prefix (R47). -/
def Info.aScalar (i : Info) : Bool := i.u || (i.p.any fun x => x.asc)
def Info.bScalar (i : Info) : Bool := i.u || (i.p.any fun x => x.bsc)

/-- The prefix's fields suit the base instruction (R50). -/
def Info.prefixOk (i : Info) (x : Prefix) : Bool :=
  x.rm != 7 && (x.rm == 0 || i.round)
  && (x.mask == 0 || i.maskOk)
  && (!x.z || (x.mask != 0 && !i.u && i.zOk))
  && (!x.asc || (!i.u && i.ak.isReg)) && (!x.bsc || (!i.u && i.bk.isReg))
  && (x.c == 0 || i.ck != .none)
  && (!x.sat || i.sat)
  && (match i.ext with
      | .imm => true
      | .zero => x.ext == 0
      | .own m => x.ext &&& ~~~m == 0)

/-- Pairs are even, quads multiples of 4, and a group of n begins at a multiple of n (R47, 12_float R292). -/
def aligned (k : RK) (r : Reg) : Bool :=
  match k with
  | .reg n => r.toNat % n == 0
  | _ => true

/-- No rule whose breach raises ILLEGAL is broken. A mask destination of m0 is refused (02_threads R36). -/
def Info.legal (i : Info) : Bool :=
  (i.p.all i.prefixOk) && aligned i.dk i.d && aligned i.ak i.a && aligned i.bk i.b && aligned i.ck i.c
  && !(i.dk == .mask && i.d == 0) && i.ok

/-- The registers an instruction names, as (scalar, number) with the window applied (R202). -/
def Info.regsOf (i : Info) (w : Weft) : List (Bool × Nat) :=
  let f := fun (sc : Bool) (k : RK) (r : Reg) =>
    (List.range k.words).map fun n => (sc, (if sc then r.toNat else physReg w.regs r.toNat) + n)
  f i.u i.dk i.d ++ f i.aScalar i.ak i.a ++ f i.bScalar i.bk i.b ++ f i.u i.ck i.c

/-- The registers that the weft's effects in flight guard (R57). -/
def Flight.guards (f : Flight) : List (Bool × Nat) := (List.range f.words).map fun n => (f.uni, f.d + n)
def Weft.guarded (w : Weft) : List (Bool × Nat) := w.flights.flatMap Flight.guards

/-- A per-thread register named is at or above ALLOC (R203). -/
def Info.outOfBounds (i : Info) (w : Weft) : Bool :=
  (i.regsOf w).any fun r => !r.1 && decide (w.regs.alloc ≤ r.2)

/-- ACTIVE: the active mask ANDed with the prefix's mask register (00_scope R9). -/
def Info.activeOf (i : Info) (w : Weft) : Mask :=
  match i.p with
  | some x => w.flow.active &&& w.maskReg x.mask.toNat
  | none => w.flow.active

/-- Lanes that z zeroes: active lanes outside the prefix mask (R50). -/
def Info.zeroedOf (i : Info) (w : Weft) : Mask :=
  match i.p with
  | some x => if x.z then w.flow.active &&& ~~~(w.maskReg x.mask.toNat) else 0
  | none => 0

/-! ## Immediates (R51) -/

def immI (p : Option Prefix) (i : BitVec 10) : Int :=
  match p with
  | some x => (x.ext ++ i : BitVec 18).toInt
  | none => i.toInt

def immL (p : Option Prefix) (i : BitVec 17) : Int :=
  match p with
  | some x => (x.ext ++ i : BitVec 25).toInt
  | none => i.toInt

/-- A format M offset in units of the access size. -/
def immM (p : Option Prefix) (i : BitVec 7) : Int :=
  match p with
  | some x => (x.ext ++ i : BitVec 15).toInt
  | none => i.toInt

/-- The effective rounding mode: the prefix's, else FMODE[2:0] (00_scope R9). -/
def rmOf (p : Option Prefix) (fmode : Word) : Nat :=
  match p with
  | some x => if x.rm = 0 then bitsOf fmode 0 3 else x.rm.toNat
  | none => bitsOf fmode 0 3

/-! ## The context of an issuing instruction -/

/-- What an instruction sees at issue: its weft's key, its form, ACTIVE after the register checks, the lanes z zeroes, and
the address of the word after it. -/
structure Ctx where
  k      : Nat
  i      : Info
  active : Mask
  zeroed : Mask
  pc     : Dword
  next   : Dword

/-- An operand's value in a lane: 1, 2 or 4 words. -/
def readOp (w : Weft) (sc : Bool) (k : RK) (r : Reg) (L : Nat) : BitVec 128 :=
  if sc then joinWords (w.regs.wordsS r.toNat k.words)
  else joinWords (w.regs.wordsV (physReg w.regs r.toNat) L k.words)

def Ctx.lanes (c : Ctx) (w : Weft) : List Nat := lanesOf w.width c.active
def Ctx.valA (c : Ctx) (w : Weft) (L : Nat) : BitVec 128 := readOp w c.i.aScalar c.i.ak c.i.a L
def Ctx.valB (c : Ctx) (w : Weft) (L : Nat) : BitVec 128 := readOp w c.i.bScalar c.i.bk c.i.b L
def Ctx.valC (c : Ctx) (w : Weft) (L : Nat) : BitVec 128 := readOp w c.i.u c.i.ck c.i.c L
def Ctx.valD (c : Ctx) (w : Weft) (L : Nat) : BitVec 128 := readOp w c.i.u c.i.dk c.i.d L

/-- The scalar word, or pair, that field a, b or d of a uniform instruction names. -/
def sregOf (w : Weft) (r : Reg) : Word := w.regs.getS r.toNat
def spairOf (w : Weft) (r : Reg) : Dword := w.regs.pairS r.toNat

/-- Write the destination of a lane, or the scalar destination. -/
def writeD (w : Weft) (c : Ctx) (L : Nat) (v : BitVec 128) : Weft :=
  let ws := splitWords c.i.dk.words v
  { w with regs := if c.i.u then w.regs.setWordsS c.i.d.toNat ws
                   else w.regs.setWordsV (physReg w.regs c.i.d.toNat) L ws }

/-- Zero the destination in the lanes that z names (R50). -/
def zeroLanes (w : Weft) (c : Ctx) : Weft :=
  (lanesOf w.width c.zeroed).foldl (fun w L => writeD w c L 0) w

/-- Format code of an element in bits (10_formats R229). -/
def fmtBits : Nat → Nat
  | 0 => 32 | 1 => 32 | 2 => 64 | 3 => 64 | 4 => 32 | 5 => 64 | 6 => 16 | 7 => 16
  | 8 => 8 | 9 => 8 | 10 => 4 | 11 => 8 | 12 => 8 | 13 => 16 | 14 => 16 | _ => 2

/-- The register words of one unpacked element (12_float R292). -/
def elemWords (f : Nat) : Nat := if fmtBits f = 64 then 2 else 1

/-- The parts of a register destination that have records of their own, in the order in which these are pushed: offset from d and
words. UNPKn has one for each element (12_float R293), a quad two, the high half first (07_memory R151), and CFRD one of four
words (09_registers_history R227). -/
def Info.parts (i : Info) : List (Nat × Nat) :=
  match i.dk with
  | .reg n =>
    if i.op = 0x32 ∧ 4 ≤ i.fn then
      let e := elemWords (bitsOf i.b 0 3)
      (List.range (n / e)).map fun j => (j * e, e)
    else if n = 4 ∧ i.op ≠ 0x68 then [(2, 2), (0, 2)]
    else [(0, n)]
  | _ => []

/-- The record of one part of a register destination: SREG for a scalar run, else REG32 or REG64 (09_registers_history R207). -/
def partRec (w : Weft) (c : Ctx) (x : Nat × Nat) : Rec :=
  if c.i.u then { kind := kSreg, mask := c.active, payload := plain (w.regs.wordsS (c.i.d.toNat + x.1) x.2) }
  else
    let m := c.active ||| c.zeroed
    { kind := if x.2 = 1 then kReg32 else kReg64, mask := m, payload := plain (oldVec w (physReg w.regs c.i.d.toNat + x.1) x.2 m) }

/-- The records of the old destination: those of its parts for a register, MASK for a mask register (R207). -/
def destRecs (w : Weft) (c : Ctx) : List Rec :=
  match c.i.dk with
  | .none => []
  | .mask =>
    let v := w.maskReg c.i.d.toNat
    [{ kind := kMask, mask := c.active, payload := plain [lowWord v, highWord v] }]
  | .reg _ => c.i.parts.map (partRec w c)

/-- The words of the destination's records for `n` lanes (R211). -/
def destEst (u : Bool) (k : RK) (n : Nat) : Nat :=
  match k with
  | .none => 0
  | .mask => 6
  | .reg r => if u then (if r = 4 then 12 else 4 + r) else if r ≤ 2 then 4 + r * n else 8 + r * n

end Sys2Proof.Machine
end

