-- ==== Sys2Proof/Machine/Issue.lean ====
section
/-!
DEFINITION. The issue of one instruction: the checks in their order (03_encoding R58, 09_registers R203, R211, 16_scheduling
R377, 18_traps R407), and its retirement: records (R208), CTRL and CF (R213), IC, LASTPC (R214), the
one-entry undo (R223), reconvergence after a transfer (15_control_flow R342, R343) and turns (17_determinism R392). A
meaning is one call of `issue` with the form's `Info` and a body.
-/

namespace Sys2Proof.Machine

/-! ## Effects in flight (R56) -/

/-- The words of a flight's destination written for one lane. -/
def Flight.put (f : Flight) (w : Weft) (L : Nat) (v : BitVec 128) : Weft :=
  let ws := splitWords f.words v
  { w with regs := if f.uni then w.regs.setWordsS f.d ws else w.regs.setWordsV f.d L ws }

/-- Remove the flight at place j and count its flag down. -/
def Weft.land (w : Weft) (j : Nat) (f : Flight) : Weft :=
  { w with flights := w.flights.eraseIdx j }.dropFlag f.flag

/-! ## Outcomes of a body -/

/-- How a body stops short of retiring. -/
inductive Stop where
  /-- a precise trap: the instruction has no effect -/
  | trap (c : Cause) (addr : Dword) (lane : Nat)
  /-- a park: the instruction has no effect and runs again after restore -/
  | park (c : Cause) (addr : Dword) (lane : Nat := 0)
  /-- deferred lane faults are taken before it -/
  | lanes
  /-- it does not issue yet: nothing changes -/
  | stay
  /-- it does not issue yet, and its weft counts as one in a byte-barrier wait, which gives up its place (02_threads R41) -/
  | give
  /-- it does not issue yet: its request for frames waits (06_core_memory R138) -/
  | reserve (core t : Nat) (Ps : List Nat)
  /-- it holds the weft: it has been checked and waits in the given state -/
  | hold (s : State) (h : HoldKind)
  /-- the state after it, which the body has made whole -/
  | whole (s : State)
  | fault (f : Fault)

def trap {α : Type} (c : Cause) (addr : Dword := 0) (lane : Nat := 0) : Except Stop α := .error (.trap c addr lane)

/-- Where the weft goes after the instruction. -/
inductive Fin where
  | next
  /-- a taken transfer, with the DIV records it pushes of its own (R208) -/
  | taken (target : Dword)
  /-- the weft has ended -/
  | ended

/-- What a body leaves: the state with its effects, its data records bottom first, the DIV records of its own, and where
the weft goes. `merge` joins the DIV record of the arrival to its own (15_control_flow R356). `noUndo` marks an effect that the one-entry undo does not cover (R223). -/
structure Eff where
  s    : State
  recs : List Rec := []
  divs : List Rec := []
  fin  : Fin := .next
  noUndo : Bool := false
  noFlagsRec : Bool := false
  merge : Bool := false

/-- Flag A, or B, of the running clause; 15 counts nothing (R52). -/
def Weft.flagOf (w : Weft) (b : Bool) : Nat := if b then w.flow.flagB else w.flow.flagA

/-- The issued instruction is counted on its clause's flag (R56). -/
def Ctx.flagNo (c : Ctx) (w : Weft) : Nat :=
  match c.i.flag with
  | some b => w.flagOf b
  | none => 15

/-- The DIV and CTRL words that a reconvergence after the word at `next` would push: that word is a header and the top entry's
RPC (R211, R343). -/
def reconvEst (s : State) (k : Nat) (w : Weft) (next : Dword) : Nat :=
  match w.flow.stack with
  | [] => 0
  | e :: _ =>
    if e.rpc = next then
      match s.codeWord k next with
      | .ok h => if isHeader h then
          let r := arrive w.flow.stack w.flow.active next false
          (6 + 4 * r.removed.length) + 8
        else 0
      | .error _ => 0
    else 0

/-- The length of an open turn counts down with each retirement (R392). -/
def Weft.turnTick (w : Weft) : Weft :=
  if w.sched.turn ∧ 0 < w.sched.turnLeft then { w with sched := { w.sched with turnLeft := w.sched.turnLeft - 1 } } else w

/-- A header that no entry accepts: back-link 1, or a flag of 12 to 14 (R53). -/
def badHeader (h : Word) : Bool :=
  let bad := fun f => decide (12 ≤ f) && decide (f ≤ 14)
  headerBackLink h == 1 || bad (headerFlagA h) || bad (headerFlagB h)

/-- The weft after a taken transfer has arrived (R342 to R345): with deferred lane faults pending, or a header that raises CLAUSE
(`bad`), the arrival is still to be made. -/
def land (w : Weft) (target : Dword) (bad : Bool) : Weft × List Rec :=
  if w.lanesPending || bad then
    ({ w with flow := { w.flow with pc := target, entry := .xfer } }, [])
  else
    let r := arrive w.flow.stack w.flow.active target false
    let f : Flow := { w.flow with stack := r.stack, active := r.active, pc := r.at_
                                  entry := if r.popped then .popped else .arrived }
    let w' := { w with flow := f }
    (if r.active = 0 then w'.end_ else w', if r.removed.isEmpty then [] else [reconvRec w.flow.active r.removed])

/-- The DIV record of an EXIT that also reconverges: its own words, and the entries that the arrival removed (R356). -/
def mergeDivs (own arrived : List Rec) : List Rec :=
  match own, arrived with
  | [x], [y] =>
    match x.payload, y.payload with
    | h :: rest, y0 :: _ :: ents =>
      [{ x with payload := { h with v := h.v + (y0.v &&& 0xFFFFFF00) } :: rest ++ ents }]
    | _, _ => own ++ arrived
  | _, _ => own ++ arrived

/-- The records that an effect pushes before those of its transfer: its own, and FLAGS where it changed flags. -/
def Eff.data (e : Eff) (old w : Weft) : List Rec := e.recs ++ if e.noFlagsRec then [] else (flagsRec old w).toList

/-- Records are pushed where the weft before the instruction recorded. -/
def Weft.pushIf (w old : Weft) (rs : List Rec) : Weft :=
  if old.recording then { w with hist := w.hist.pushAll old.flow.ic rs } else w

/-- CF and CFIC name the transfer at this PC (R213). -/
def Weft.noteTransfer (w old : Weft) (pc : Dword) : Weft :=
  if old.trap.handler then w else { w with flow := { w.flow with cf := pc, cfic := old.flow.ic } }

/-- The instruction falls on to the next word. -/
def goNext (c : Ctx) (old w : Weft) (rs : List Rec) : Weft :=
  { w with flow := { w.flow with pc := c.next, entry := .body } }.pushIf old rs

/-- It transfers to `target`. -/
def goTaken (c : Ctx) (old w : Weft) (e : Eff) (target : Dword) : Weft :=
  let bad := match e.s.codeWord c.k target with
    | .ok h => badHeader h
    | .error _ => false
  let (w', dv) := land w target bad
  let recs := e.data old w ++ (if e.merge then mergeDivs e.divs dv else e.divs ++ dv) ++ [old.ctrlRec old.flow.active]
  (w'.pushIf old recs).noteTransfer old c.pc

/-- It ends the weft. -/
def goEnded (c : Ctx) (old w : Weft) (rs : List Rec) : Weft :=
  ((w.pushIf old (rs ++ [old.ctrlRec old.flow.active])).noteTransfer old c.pc).end_

/-- The instruction is counted; outside handler mode it leaves an undo entry and LASTPC (R214, R223), and a turn counts down. -/
def Weft.counted (w old : Weft) (pc : Dword) (undo : Option Undo) : Weft :=
  if old.trap.handler then w
  else { w with flow := { w.flow with ic := old.flow.ic + 1 }, hist := { w.hist with undo := undo, lastPc := pc } }.turnTick

/-- Past the boundary of a redundant pair the next segment begins (19_reliability R433). -/
def Weft.pastBoundary (w old : Weft) : Weft :=
  if old.seg.passed then { w with seg := { w.seg with passed := false, start := old.flow.ic + 1, retries := 0, softs := 0 } } else w

/-- The state after the instruction has retired. `old` is the weft before it. -/
def retire (c : Ctx) (old : Weft) (e : Eff) : State :=
  let w := e.s.weft c.k
  let data := e.data old w
  let emptied := w.flow.active = 0 ∧ w.lanesPending
  let w1 : Weft := match e.fin with
    | .next => goNext c old w (data ++ e.divs)
    | .taken t => goTaken c old w e t
    | .ended => goEnded c old w (data ++ e.divs)
  let undo : Option Undo := match e.fin with
    | .next => if e.noUndo then none else some { ic := old.flow.ic, recs := data }
    | _ => none
  let w3 := (w1.counted old c.pc undo).pastBoundary old
  let s := e.s.setWeft c.k w3
  -- every remaining lane took a deferred fault: the trap follows the retirement (R344)
  if emptied ∧ w3.status = .live ∧ w3.flow.entry = .body then takeLaneTrap s c.k c.next .body else s

/-- A BARRIER record (R207). -/
def barrierRec (c : Ctx) : Rec :=
  { kind := kBarrier, mask := c.active, payload := plain [BitVec.ofNat 32 (c.i.op + 128 * c.i.fn)] }

/-- The words that the records of the instruction could take (R211). The lanes that z zeroes count beside those of ACTIVE
(DEDUCED: the rule lists ACTIVE alone, and the record covers both; notes/assumptions 38). An instruction without a lane changes no FFLAGS. -/
def Ctx.estimate (c : Ctx) (s : State) (w : Weft) : Nat :=
  let none_ := c.active == 0
  (if c.i.irrev then (if c.i.u && none_ && !c.i.selfEmpty then 0 else 5) else c.i.est (popCount (c.active ||| c.zeroed)))
    + (if c.i.fflags && !none_ then 4 + popCount c.active else 0)
    + c.i.ctl.getD (reconvEst s c.k w c.next)

/-- The partner of a weft of a redundant pair (19_reliability R430). -/
def State.partner (s : State) (k : Nat) : Nat := 16 * (s.teamOfWeft k).partner + indexOf k
/-- 0 outside a redundant pair, 1 for the leading member, 2 for the trailing one. -/
def State.member (s : State) (k : Nat) : Nat := (s.teamOfWeft k).member

/-- A partner may not run more than 4096 IC ahead of the other (R432). -/
def State.tooFarAhead (s : State) (k : Nat) : Bool :=
  s.member k != 0 && (s.weft (s.partner k)).status == .live &&
    decide ((s.weft (s.partner k)).flow.ic.toNat + 4096 ≤ (s.weft k).flow.ic.toNat)

/-- The weft may issue: it is live, its team is resident, it is not held, does not walk back, and stands inside a clause. -/
def State.canIssue (s : State) (k : Nat) : Bool :=
  let w := s.weft k
  w.status == .live && (s.teamOfWeft k).status == .resident && w.hold.isNone && !w.flow.dir && w.flow.entry == .body
    && !s.tooFarAhead k && w.seg.still && s.running

/-- Global writes of the weft's copies and of its ACC.ST are still to enter the compare buffer or the kept writes (R432). -/
def State.writesToCome (s : State) (k : Nat) : Bool :=
  s.cores.any fun (_, c) =>
    (c.copies.any fun y => y.k == k && (y.fn == 1 || y.fn == 2)) || c.ops.any fun o => o.k == k && match o.kind with
      | .accSt _ _ r => r.glob
      | _ => false

/-- The open segment ends at this IC; the next one begins at `next` (R431). -/
def Weft.closeSeg (w : Weft) (kind : Nat) (contrib : List Byte) (next : Dword) : Weft :=
  let x : ClosedSeg := { start := w.seg.start, stop := w.flow.ic, kind := kind, contrib := contrib, writes := w.seg.writes }
  { w with seg := { w.seg with closed := w.seg.closed ++ [x], writes := [], start := next } }

/-- A weft of a redundant pair is held at a segment boundary until it has matched (R432); `kind` is that of the boundary. -/
def State.boundary (s : State) (k kind : Nat) (contrib : List Byte) : Option Stop :=
  let w := s.weft k
  if s.member k = 0 ∨ w.seg.passed ∨ w.trap.handler then none
  else if s.writesToCome k then some .stay
  else some (.hold (s.setWeft k (w.closeSeg kind contrib w.flow.ic)) .boundary)

/-- The instruction waits for a completion: its flag counts 63 already (02_threads R37). -/
def Ctx.flagFull (c : Ctx) (w : Weft) : Bool :=
  match c.i.flag with
  | some b => w.flagOf b < 12 && w.flagCount (w.flagOf b) == 63
  | none => false

/-- A weft of the core has met a miss, or a hold that counts as a byte-barrier wait (02_threads R41). -/
def State.noteMiss (s : State) (core : Nat) : State := s.modCore core fun c => { c with misses := c.misses + 1 }

/-- A request for frames waits behind those of its core that came before it (06_core_memory R138). -/
def State.queueReserve (s : State) (core t : Nat) (Ps : List Nat) : State :=
  s.modCore core fun c => if c.reserve.contains (t, Ps) then c else { c with reserve := c.reserve ++ [(t, Ps)] }

/-- The outcome of a body's stop. -/
def finishStop (c : Ctx) (s0 : State) : Stop → Host.Outcome State Fault Refusal
  | .trap cs addr lane =>
    let w := s0.weft c.k
    .next (takeTrap s0 c.k cs c.pc w.flow.ic addr lane c.pc .body)
  | .park cs addr lane => .next (parkCause s0 c.k cs addr lane)
  | .lanes => .next (takeLaneTrap s0 c.k c.pc .body)
  | .stay => .next s0
  | .give => .next (s0.noteMiss (s0.coreOf c.k))
  | .reserve core t Ps => .next (s0.queueReserve core t Ps)
  | .hold s h =>
    let x : Hold := { kind := h, pc := c.pc, next := c.next, recs := if c.i.irrev then [barrierRec c] else [] }
    .next (s.modWeft c.k fun w => { w with hold := some x })
  | .whole s => .next s
  | .fault f => .fault f

/-- Every lane of ACTIVE takes a REGBOUND lane fault (R203). -/
def regbound (w : Weft) (active : Mask) : Weft :=
  (lanesOf w.width active).foldl (fun w L => w.laneFault L .regbound 0) w

/-- The data records of a destructive instruction that no lane contributed to, with a zero lane mask (R208): the destination's,
the mask that LPUSH reports in, and those of the kinds that the form names. -/
def emptyRecs (c : Ctx) (w : Weft) : List Rec :=
  let old := w.maskReg ((c.i.p.map fun x => x.c.toNat).getD 0)
  let losers := c.i.isDest && c.i.op == 0x20 && c.i.fn == 1 && (c.i.p.any fun x => x.c != 0)
  if c.i.irrev then []
  else (if c.i.isDest then destRecs w c else [])
    ++ (if losers then [{ kind := kMask, mask := 0, payload := plain [lowWord old, highWord old] }] else [])
    ++ c.i.emptyKinds.map fun kd => { kind := kd, mask := 0, payload := [] }

/-- A function on flag B, which the one-entry undo never covers (12_float R288). -/
def Info.isFunction (i : Info) : Bool := i.op == 0x2C || i.op == 0x2D

/-- A uniform instruction whose ACTIVE is empty retires with no effect (R27): a destructive one pushes its records with a
zero lane mask (R208), and one that counts on a flag counts up, and down at its completion (R56). -/
def retireEmpty (c : Ctx) (w : Weft) (s : State) : State :=
  let s := match c.i.flag with
    | none => s
    | some b =>
      let f : Flight := { op := .func, flag := w.flagOf b, pc := c.pc, ic := w.flow.ic, uni := true, d := 0, words := 0, bytes := 0, lanes := [] }
      s.setWeft c.k ({ w with flights := w.flights ++ [f] }.countFlag (w.flagOf b))
  retire c w { s := s, recs := emptyRecs c w, noUndo := c.i.irrev || c.i.isFunction }

/-- The checks of decode, in the order CLAUSE, ILLEGAL, PRIV, with the address that the cause reports (R53, R57, R58). -/
def decodeStop (i : Info) (w : Weft) : Option (Cause × Dword) :=
  if (i.regsOf w ++ i.more).any (fun r => w.guarded.contains r) then some (.clause, 0)
  else if (match i.flag with
      | some b => w.flagOf b == 15
      | none => false) then some (.clause, 0)
  else match i.clause with
  | some a => some (.clause, a)
  | none => if !i.legal then some (.illegal, 0) else if i.priv then some (.priv, 0) else none

/-- The bytes that the lanes of an atomic or remote instruction contribute to the comparison of a pair (R431, R460): address,
size byte, operands. -/
def contribution (c : Ctx) (w : Weft) : List Byte :=
  if [0x48, 0x49, 0x4A, 0x4D, 0x4E].contains c.i.op then
    (if c.i.u then [lowestLane w.width c.active] else c.lanes w).flatMap fun L =>
      let opnd := fun (k : RK) (v : BitVec 128) => leBytes (4 * k.words) v.toNat
      let store := c.i.op == 0x4E && c.i.fn % 2 == 1
      let n := if store then c.i.dk.words else c.i.bk.words
      leBytes 8 (c.valA w L).toNat ++ [BitVec.ofNat 8 (4 * n)] ++
        (if store then opnd c.i.dk (c.valD w L) else opnd c.i.bk (c.valB w L)) ++ opnd c.i.ck (c.valC w L)
  else []

/-- The registers of d lie below ALLOC. -/
def Info.destInBounds (i : Info) (w : Weft) : Bool :=
  i.u || decide (physReg w.regs i.d.toNat + i.dk.words ≤ w.regs.alloc)

/-- What is left of an instruction once REGBOUND has taken the lanes of ACTIVE: z still zeroes the others where d is in bounds
(09_registers_history R203, 11_integer_lane R273). -/
def Ctx.bounded (c : Ctx) (w : Weft) : Ctx :=
  { c with active := 0, zeroed := if c.i.destInBounds w then c.zeroed else 0 }

/-- The instruction runs: the boundary of a redundant pair, the register check and the body. -/
def runBody (c : Ctx) (body : Ctx → State → Except Stop Eff) (w : Weft) (s : State) : Except Stop State :=
  match (if c.i.irrev then s.boundary c.k 2 (contribution c w) else none) with
  | some st => .error st
  | none =>
    let out := c.i.outOfBounds w
    let s' := if out then s.setWeft c.k (regbound w c.active) else s
    let c := if out then c.bounded w else c
    match body c s' with
    | .error st => .error st
    | .ok e =>
      let e := if c.i.irrev then { e with recs := [barrierRec c], noUndo := true } else e
      .ok (retire c w e)

/-- A load with acquire of the weft has not bound its value (07_memory_instructions R154). -/
def Weft.acquiring (w : Weft) : Bool := w.flights.any fun f => (match f.op with
  | .lda _ => true
  | _ => false) && f.lanes.any fun l => l.val.isNone

/-- An instruction that accesses memory when it issues: scratchpad and remote accesses, cache maintenance, byte barriers, the engines'
records and tables, and queues. -/
def Info.touches (i : Info) : Bool :=
  [0x3A, 0x3B, 0x3D, 0x40, 0x4B, 0x4D, 0x4E, 0x50, 0x51, 0x52, 0x53, 0x58, 0x59, 0x5A, 0x6C].contains i.op

/-- The state after the instruction has retired, or why it stops short of that. The checks come in the order of decode (R58),
deferred lane faults before an irreversible instruction (R407), IRREV (R377), HFULL (R211), then those of its body. -/
def tryIssue (c : Ctx) (body : Ctx → State → Except Stop Eff) (w : Weft) (s : State) : Except Stop State :=
  let i := c.i
  if (i.quiet && !w.guarded.isEmpty) || (i.touches && w.acquiring) then .error .stay
  else
  match decodeStop i w with
  | some (cs, addr) => trap cs addr
  | none =>
    if c.flagFull w then .error .stay
    else if i.irrev ∧ w.lanesPending then .error .lanes
    else if i.irrev ∧ w.sched.uncommitted then trap .irrev
    else if w.recording ∧ !w.hist.room (c.estimate s w) then trap .hfull
    else if i.u ∧ c.active = 0 ∧ !i.selfEmpty then .ok (retireEmpty c w s)
    else runBody c body w s

/-- The context of an instruction of the weft whose turn it is. -/
def Info.at (i : Info) (k : Nat) (w : Weft) : Ctx :=
  { k := k, i := i, active := i.activeOf w, zeroed := i.zeroedOf w, pc := w.flow.pc, next := w.flow.pc + BitVec.ofNat 64 (4 * i.len) }

/-- Issue one instruction of the weft whose turn it is. An imprecise cause that is due comes before it, and deferred lane faults
come before that where this instruction is a point at which they are taken (R407). -/
def issue (i : Info) (body : Ctx → State → Except Stop Eff) (s : State) : Host.Outcome State Fault Refusal :=
  let k := s.cur
  if !s.canIssue k then .next s
  else
    let w := s.weft k
    let c := i.at k w
    let r := tryIssue c body w s
    match w.nextImprecise fun x => x.gate.isNone with
    | some x => match r with
      | .error .lanes => finishStop c s .lanes
      | _ => .next (takeImprecise s k x c.pc .body)
    | none => match r with
      | .error st => finishStop c s st
      | .ok t => .next t

/-- The step performs accesses of weft k, at this place in its program order. -/
def State.acting (s : State) (k seq : Nat) : State := { s with coh := { s.coh with actor := some (k, seq) } }

/-- The issue of an instruction whose body may access global memory, or a page of the scratchpad. -/
def issueMem (i : Info) (body : Ctx → State → Except Stop Eff) (s : State) : Host.Outcome State Fault Refusal := taken s (issue i body s)

end Sys2Proof.Machine
end

