-- ==== Sys2Proof/Machine/Forms.lean ====
section
/-!
DEFINITION. The form of every instruction word: what its fields name, what its prefix may carry, the flag it counts on,
its class, and the largest size of its records. A word whose prefix or operands break these raises ILLEGAL at
issue (03_encoding R47 to R51 and the operand rules of chapters 07 to 18).
-/

namespace Sys2Proof.Machine

/-- The c field of a prefix; 0 without one. -/
def prefixC (p : Option Prefix) : Reg := (p.map fun x => x.c).getD 0
def prefixExt (p : Option Prefix) : Byte := (p.map fun x => x.ext).getD 0
def prefixSat (p : Option Prefix) : Bool := p.any fun x => x.sat
def prefixMask (p : Option Prefix) : Nat := (p.map fun x => x.mask.toNat).getD 0

/-- A destination in a register, and its records. -/
def Info.dest (i : Info) (n : Nat) : Info :=
  { i with dk := .reg n, zOk := true, isDest := true, est := destEst i.u (.reg n) }

/-- A mask register destination. -/
def Info.destM (i : Info) : Info := { i with dk := .mask, isDest := true, est := fun _ => 6 }

/-- A prefix of zeros only (R225, R348, R352, R378, R386, R391, R410). -/
def Info.bare (i : Info) : Info := { i with maskOk := false }

/-- Fields d and a name the same register of the same kind. -/
def Info.sameDA (i : Info) : Bool := i.d == i.a && i.aScalar == i.u

/-- ext[0] chooses the unsigned range and needs the sat bit (11_integer_lane R255). -/
def satExtOk (p : Option Prefix) : Bool := prefixExt p == 0 || prefixSat p

def fmtFloat (f : Nat) : Bool := 4 ≤ f && f ≤ 10
def fmtInt (f : Nat) : Bool := f ≤ 3 || (11 ≤ f && f ≤ 14)

/-- CVT, PKn and UNPKn (R292): `hi` and `lo` are the two halves of field b. -/
def formCvt (i : Info) (fn hi lo : Nat) : Info :=
  let n := if fn = 0 then 1 else if fn = 1 ∨ fn = 4 then 2 else if fn = 2 ∨ fn = 5 then 4 else 8
  let unp := decide (4 ≤ fn)
  let dst := if unp then lo else hi
  let src := if unp then hi else lo
  let i := if fn = 0 then { (i.dest (elemWords dst)) with ak := .reg (elemWords src) }
    else if unp then
      { (i.dest (n * elemWords dst)) with ak := .reg 1, est := fun k => n * destEst i.u (.reg (elemWords dst)) k }
    else { (i.dest 1) with ak := .reg (n * elemWords src) }
  { i with
    round := fmtFloat dst || fmtFloat src
    sat := fmtInt dst
    ok := decide (fn = 0) || decide (n * fmtBits hi ≤ 32) }

/-- Words of the records of a store of 2^k bytes for n lanes (07_memory R151). -/
def storeEst (u : Bool) (sz : Nat) (n : Nat) : Nat :=
  let m := if u then 1 else n
  if sz = 6 then 8 + 4 * m else if sz = 5 then 4 + 2 * m else 4 + m

def szWords (sz : Nat) : Nat := if sz = 6 then 4 else if sz = 5 then 2 else 1
def szBytes (sz : Nat) : Nat :=
  match sz with
  | 0 => 1 | 1 => 1 | 2 => 2 | 3 => 2 | 4 => 4 | 5 => 8 | _ => 16

/-- A register overlap of a run of n at d with a run of m at a, of the same kind (R153). -/
def Info.overlapDA (i : Info) : Bool :=
  i.aScalar == i.u && decide (i.d.toNat < i.a.toNat + i.ak.words) && decide (i.a.toNat < i.d.toNat + i.dk.words)

/-- The operand form of special register `n` (02_threads R39): bits of the register, and whether it has one value per thread. -/
def specialWide (n : Nat) : Bool :=
  n == 0 || (2 ≤ n && n ≤ 7) || n == 0x13 || n == 0x14 || n == 0x18 || n == 0x19 || (0x1B ≤ n && n ≤ 0x1D) || n == 0x1F
def specialThread (n : Nat) : Bool := n == 0x0B || n == 0x0C

/-- The history kind of a store by size (R151). -/
def storeKinds (spad : Bool) (sz : Nat) : List Nat :=
  let k := if spad then kSpad32 else if sz = 5 ∨ sz = 6 then kMem64 else kMem32
  if sz = 6 then [k, k] else [k]

def Info.twoReg (i : Info) (n : Nat) : Info := { i with ak := .reg n, bk := .reg n }

/-- The forms of format A and M. -/
def formA (p : Option Prefix) (op fn : Nat) (u : Bool) (d a b : Reg) : Info :=
  let i : Info := { op := op, fn := fn, u := u, p := p, d := d, a := a, b := b }
  let fp := fun (n : Nat) => ({ i with fflags := true, ak := .reg n } : Info)
  match op with
  | 0x01 => { (i.dest 1).twoReg 1 with sat := decide (fn ≤ 1), ext := if fn ≤ 1 then .own 1 else .zero, ok := satExtOk p }
  | 0x02 => (i.dest 1).twoReg 1
  | 0x03 => { (i.dest 1).twoReg 1 with sat := fn == 0 || fn == 7, ext := if fn = 0 ∨ fn = 7 then .own 1 else .zero
                                       ck := if fn = 7 then .reg 1 else .none, ok := satExtOk p }
  | 0x04 =>
    let i := { i with dk := .reg 1, ak := if fn = 5 ∨ fn = 6 then .none else .reg 1 }
    { i with ok := fn == 5 || fn == 6 || !i.sameDA }
  | 0x05 =>
    match fn with
    | 0 => { i with dk := .reg 1, ak := .reg 1, ok := u || !i.aScalar }
    | 1 => { i with dk := .reg 1, ak := .reg 1, ok := (u || !i.aScalar) && prefixMask p != 0 }
    | 5 => { (i.dest 1).twoReg 1 with ck := if p.isSome then .mask else .none, ok := decide ((prefixC p).toNat < 8) }
    | 7 => (i.dest 1).twoReg 1
    | _ => { (i.dest 1) with ak := .reg 1 }
  | 0x06 => (i.destM).twoReg 1
  | 0x18 => { (i.dest 2) with ak := .reg 2, bk := if 5 ≤ fn then .reg 1 else .reg 2 }
  | 0x19 =>
    match fn with
    | 0 => (i.dest 2).twoReg 2
    | 1 => (i.dest 2).twoReg 2
    | 2 => (i.dest 2).twoReg 2
    | 6 => { i with dk := .reg 2, ak := .reg 2, ok := u || !i.aScalar }
    | 7 => { (i.dest 2) with ak := .reg 2, bk := .reg 1, ext := .own 15 }
    | _ => { i with dk := .reg 2, ak := .reg 2, ok := !i.sameDA }
  | 0x20 =>
    let i1 := (i.dest 1).twoReg 1
    match fn with
    | 0 => { i1 with ext := .own 1 }
    | 1 => { i1 with ext := .own 1, ck := .mask, ok := decide ((prefixC p).toNat < 8), est := fun n => 4 + n + 6 }
    | _ => i1
  | 0x21 =>
    match fn with
    | 3 => { (i.dest 2) with ak := .reg 1 }
    | 4 => { (i.dest 1) with ak := .reg 1 }
    | 6 => { (i.dest 1) with ak := .reg 1 }
    | _ => { i.destM with ak := .reg 1 }
  | 0x22 => { (i.dest 1) with ak := .reg 1, ext := if fn = 1 ∨ fn = 2 then .own 1 else .zero }
  | 0x23 =>
    match fn with
    | 5 => { (i.dest 1) with maskOk := false }
    | 6 => { (i.dest 1) with maskOk := false }
    | 7 => { i.destM with maskOk := false, ak := .reg 2 }
    | _ => { i.destM with maskOk := false }
  | 0x28 => { (fp 1).dest 1 with bk := .reg 1, round := fn ≤ 3 || fn == 6, ck := if fn = 6 then .reg 1 else .none }
  | 0x29 => { (fp 2).dest 2 with bk := .reg 2, round := fn ≤ 3 || fn == 6, ck := if fn = 6 then .reg 2 else .none }
  | 0x2A => { (fp 1).dest 1 with bk := if fn = 7 then .reg 1 else .none, round := fn ≤ 2 || fn == 5 || fn == 7 }
  | 0x2B => { (fp 2).dest (if fn = 6 then 1 else 2) with bk := if fn = 7 then .reg 1 else .none, round := fn ≤ 2 || fn == 5 || fn == 7 }
  | 0x2C => { (fp 1).dest 1 with round := true, flag := some true }
  | 0x2D => { (fp 2).dest 2 with round := true, flag := some true }
  | 0x2E => { (fp 1).destM with bk := .reg 1 }
  | 0x2F => { (fp 2).destM with bk := .reg 2 }
  | 0x30 => { (fp 1).dest 1 with bk := .reg 1, round := fn ≤ 3, ck := if fn = 3 then .reg 1 else .none }
  | 0x31 => { (fp 1).dest 1 with bk := .reg 1, round := fn ≤ 3, ck := if fn = 3 then .reg 1 else .none }
  | 0x32 => formCvt { i with fflags := true } fn (bitsOf b 3 4) (bitsOf b 0 3)
  | 0x38 => { (i.dest (szWords fn)) with ak := .reg 2, ext := .imm, flag := some false }
  | 0x39 => { i with dk := .reg (szWords fn), ak := .reg 2, ext := .imm, flag := some true
                     est := storeEst u fn, emptyKinds := storeKinds false fn }
  | 0x3A => { (i.dest (szWords fn)) with ak := .reg 1, ext := .imm, flag := some false }
  | 0x3B => { i with dk := .reg (szWords fn), ak := .reg 1, ext := .imm, flag := some true
                     est := storeEst u fn, emptyKinds := storeKinds true fn }
  | 0x3C =>
    let i := { i with dk := .reg (szWords fn), ak := .reg 2, ext := .imm, flag := some false }
    { i with ok := !i.overlapDA }
  | 0x3D =>
    let i := { i with dk := .reg (szWords fn), ak := .reg 1, ext := .imm, flag := some false }
    { i with ok := !i.overlapDA }
  | 0x3E => { (i.dest (if fn % 2 = 1 then 2 else 1)) with ak := .reg 2, ext := .imm, flag := some false }
  | 0x3F => { i with dk := .reg (if fn % 2 = 1 then 2 else 1), ak := .reg 2, ext := .imm, flag := some true, irrev := true }
  | 0x40 => { i with ak := .reg (if fn = 6 then 1 else 2), bk := .reg 1, irrev := fn == 1 }
  | 0x41 => { i with irrev := fn ≠ 0 && 2 ≤ bitsOf b 0 2 }
  | 0x48 => { (i.dest 1) with ak := .reg 2, bk := .reg 1, flag := some false, irrev := true }
  | 0x49 => { (i.dest 2) with ak := .reg 2, bk := .reg 2, flag := some false, irrev := true }
  | 0x4A =>
    let n := if fn = 0 then 1 else 2
    { (i.dest n) with ak := .reg 2, bk := .reg n, ck := .reg n, flag := some false, irrev := true }
  | 0x4B => { (i.dest 1) with ak := .reg 1, bk := .reg 1, flag := some false, irrev := true }
  | 0x4C => { i with ak := .reg 2, bk := .reg (if fn = 2 ∨ fn = 5 then 2 else 1) }
  | 0x4D => { (i.dest 2) with ak := .reg 2, bk := if fn = 3 then .reg 1 else .reg 2, ck := if fn = 1 then .reg 2 else .none
                              flag := some false, irrev := true }
  | 0x4E =>
    let n := if fn ≤ 1 then 2 else 4
    if fn % 2 = 0 then { (i.dest n) with ak := .reg 2, flag := some false, irrev := true }
    else { i with dk := .reg n, ak := .reg 2, flag := some true, irrev := true }
  | 0x50 =>
    let e := prefixExt p
    { i with dk := .reg 1, ak := .reg (if e.getLsbD 0 then 2 else 1), bk := .reg (if e.getLsbD 1 then 2 else 1)
             ext := .own 3, flag := some true, irrev := true
             ok := !(fn == 4 && e.getLsbD 0) && !(fn == 5 && e.getLsbD 1) }
  | 0x51 =>
    let i := { i with ak := .reg 1, bk := if fn = 5 then .none else .reg 1, irrev := fn ≤ 2 || fn == 5 }
    if fn = 4 then { i with dk := .reg 1, isDest := true, est := fun _ => 5 } else i
  | 0x52 => { i with dk := .reg 1, ak := .reg 1, bk := if fn ≤ 3 then .reg 1 else .none, ck := if fn = 2 then .reg 1 else .none
                     round := fn ≤ 5, sat := true, flag := some true, irrev := true }
  | 0x53 =>
    if fn = 0 then { i with dk := .reg 1, ak := .reg 1, flag := some true, irrev := true } else { i with dk := .reg 1 }
  | 0x58 => { i with dk := .reg 1, ak := .reg 2, bk := .reg 2, round := fn ≤ 5, sat := 6 ≤ fn, flag := some true, irrev := true
                     selfEmpty := true }
  | 0x59 => { i with dk := .reg 1, ak := .reg 2, bk := .reg 1, round := fn ≤ 5, sat := 6 ≤ fn, flag := some true, irrev := true
                     selfEmpty := true }
  | 0x5A =>
    let e := prefixExt p
    match fn with
    | 0 => { i with ak := .reg 1, est := fun _ => 128 * 133, emptyKinds := List.replicate 128 kAcct }
    | 1 => { (i.dest 1) with ak := .reg 1 }
    | 2 => { i with dk := .reg 1, ak := .reg 1, est := fun n => 133 * n }
    | 3 => { i with dk := .reg 1, ak := .reg (if e.getLsbD 0 then 2 else 1), ext := .own 3, round := true, sat := true
                    flag := some true, fflags := true, est := fun _ => 256 * 132
                    emptyKinds := List.replicate 128 (if e.getLsbD 1 then kMem32 else kSpad32) ++ [kFlags] }
    | 4 => { i with dk := .reg 1, ak := .reg (if e.getLsbD 0 then 2 else 1), ext := .own 3, round := true
                    flag := some true, fflags := true, est := fun _ => 128 * 133
                    emptyKinds := List.replicate 128 kAcct ++ [kFlags] }
    | 5 => { i with dk := .reg 1, ak := .reg 1, flag := some true, irrev := true }
    | _ => { (i.dest 1) with ak := .reg 1 }
  | 0x65 =>
    match fn with
    | 1 => { i with maskOk := !u, est := fun _ => 8 }
    | 2 => { i with ak := .reg 2, est := fun _ => 8 }.bare
    | 4 => { i with ak := .reg 1 }.bare
    | 6 => { i with ak := .reg 1 }.bare
    | 7 => { i with ak := .reg 2, bk := .reg 1, est := fun _ => 8 }.bare
    | _ => i.bare
  | 0x68 =>
    match fn with
    | 0 => { i with ak := .reg 1, est := fun _ => 5 }.bare
    | 1 => { (i.dest 1) with ak := .reg 1, quiet := true }
    | 2 => { i with dk := .reg 1, ak := .reg 1, est := fun n => 4 + n, quiet := true }
    | 3 => { i with ak := .reg 2 }.bare
    | 5 => { i with est := fun _ => 7 }.bare
    | 6 => { i with ak := .reg 1 }.bare
    | 7 => { i with dk := .reg 4, isDest := true, est := fun _ => 8 }.bare
    | _ => i.bare
  | 0x6C =>
    let q := { i with dk := .reg 1, ak := .reg 1, irrev := true }.bare
    match fn with
    | 1 => { q with ok := b != 0 }
    | 3 => { q with ok := b != 0 }
    | 4 => { q with dk := .none }
    | 5 => { q with dk := .none, ak := .reg 2 }
    | 6 => { q with bk := .reg 1 }
    | 7 => { i with dk := .reg 2, isDest := true, ak := .reg 1, est := fun _ => 6 }.bare
    | _ => q
  | 0x70 => { i with ak := .reg 1, irrev := true }.bare
  | 0x71 => { i with ak := .reg 1 }.bare
  | 0x78 =>
    match fn with
    | 0 => { (i.dest (if specialWide b.toNat then 2 else 1)) with
             ok := decide (b.toNat ≤ 0x2F) && !(u && specialThread b.toNat) }
    | 1 => { i with ak := .reg (if specialWide b.toNat then 2 else 1), fflags := b == 0x0B
                    ok := decide (b.toNat ≤ 0x20) && (u != specialThread b.toNat) && !(p.any fun x => x.asc) }
    | 2 => { i with ak := if b.getLsbD 0 then .reg 2 else .none, ok := b.getLsbD 0 || a == 0 }.bare
    | 4 => { i with ak := .reg 1, fflags := true, emptyKinds := [kFlags] }.bare
    | 6 => { i with dk := .reg 1, isDest := true, est := fun _ => 5 }.bare
    | _ => i.bare
  | _ => i

/-- The form of a base word's fields. -/
def formOf (p : Option Prefix) : Layout → Info
  | .fmtA op fn u d a b => formA p op.toNat fn.toNat u d a b
  | .fmtI op u d a _ =>
    let i : Info := { op := op.toNat, u := u, p := p, d := d, a := a }
    let n := if op = 0x1A then 2 else 1
    { (i.dest n) with ak := .reg n, ext := if 0x0C ≤ op.toNat ∧ op.toNat ≤ 0x0F then .zero else .imm }
  | .fmtL op u d _ =>
    let i : Info := { op := op.toNat, u := u, p := p, d := d }
    if op.toNat ≤ 0x11 then { i with dk := .reg 1, ext := .imm }
    else { (i.dest 1) with ext := if op = 0x12 then .imm else .zero }
  | .fmtB op fn _ _ =>
    let i : Info := { op := op.toNat, fn := fn.toNat, u := false, p := p }
    if op = 0x61 then { i with est := fun _ => 6 + 8 }.bare
    else if op = 0x62 then { i with est := fun _ => 4 }.bare
    else { i with est := fun _ => if fn = 4 then 6 + 8 else 8 }.bare

/-- The exchange forms of LPULL and LPUSH (R270). -/
def formXch (p : Prefix) (fn : Nat) (d a b : Reg) : Info :=
  let i : Info := { op := 0x20, fn := fn, u := false, p := some p, d := d, a := a, b := b
                    dk := .reg 1, ak := .reg 1, bk := .reg 1, ext := .own 1 }
  { i with ok := d != a && !p.asc && (p.bsc || (b != d && b != a)) }

end Sys2Proof.Machine
end

