-- ==== Sys2Proof/Machine/Alu.lean ====
section
/-!
DEFINITION. The shapes of the register instructions: a lane function under the history rules of the destructive class, of
the invertible class, and of the mask destinations (11_integer_lane R252, R257, R262; 12_float R277). A lane function sees the
lane number and the operands a, b, c and the old d, and answers with the new d or a lane fault.
-/

namespace Sys2Proof.Machine

/-- A lane's operands. -/
structure LaneIn where
  lane : Nat
  a : BitVec 128
  b : BitVec 128
  c : BitVec 128
  d : BitVec 128

/-- A lane's result: the new d, the flags raised, and whether the lane faults instead. -/
structure LaneOut where
  val   : BitVec 128 := 0
  flags : Byte := 0
  fault : Option Cause := none
  deriving DecidableEq, Repr

abbrev LaneFn := LaneIn → LaneOut

/-- The operands of a lane. -/
def Ctx.lane (c : Ctx) (w : Weft) (L : Nat) : LaneIn :=
  { lane := L, a := c.valA w L, b := c.valB w L, c := c.valC w L, d := c.valD w L }

/-- The lanes that compute: those of ACTIVE, or, for a uniform instruction, its lowest lane, which stands for the weft. -/
def Ctx.computing (c : Ctx) (w : Weft) : List Nat :=
  if c.i.u then [lowestLane w.width c.active] else c.lanes w

/-- Each computing lane with its result. Every source is read from the weft before the instruction (00_scope R10). -/
def laneResults (f : LaneFn) (c : Ctx) (w : Weft) : List (Nat × LaneOut) :=
  (c.computing w).map fun L => (L, f (c.lane w L))

/-- Lanes with a fault leave ACTIVE; the flags of every lane that computed are ORed. -/
def applyFaults (rs : List (Nat × LaneOut)) (w : Weft) : Weft :=
  rs.foldl (fun w r =>
    let w := if r.2.flags = 0 then w else w.orFflag r.1 r.2.flags
    match r.2.fault with
    | some cs => w.laneFault r.1 cs 0
    | none => w) w

def faultMask (rs : List (Nat × LaneOut)) : Mask :=
  maskOf ((rs.filter fun r => r.2.fault.isSome).map fun r => r.1)

/-- Write the destinations of the lanes without a fault, and zero those z names. -/
def writeResults (rs : List (Nat × LaneOut)) (c : Ctx) (w : Weft) : Weft :=
  zeroLanes (rs.foldl (fun w r => if r.2.fault.isSome then w else writeD w c r.1 r.2.val) w) c

/-- A uniform instruction whose one result faults writes nothing; its record names the lanes left, without a payload
that a write would have needed. -/
def survivors (c : Ctx) (rs : List (Nat × LaneOut)) : Ctx :=
  { c with active := c.active &&& ~~~(faultMask rs) }

/-- The effect of a lane function on registers: the old destinations are pushed when `push` is set (R252), nothing is
pushed for the invertible class (R257). -/
def laneEffect (push : Bool) (f : LaneFn) (c : Ctx) (s : State) : Except Stop Eff :=
  let w := s.weft c.k
  let rs := laneResults f c w
  let c' := survivors c rs
  let recs := if push then destRecs w c' else []
  .ok { s := s.setWeft c.k (writeResults rs c (applyFaults rs w)), recs := recs }

/-- A comparison: bit L of the mask destination for the lanes of ACTIVE; a uniform result goes to every one of them
(R262, R290). -/
def maskEffect (f : LaneFn) (c : Ctx) (s : State) : Except Stop Eff :=
  let w := s.weft c.k
  let rs := laneResults f c w
  let act := c.active &&& ~~~(faultMask rs)
  let ok := rs.filter fun r => r.2.fault.isNone
  let bits : Mask :=
    if c.i.u then (if ok.any fun r => r.2.val != 0 then act else 0)
    else maskOf ((ok.filter fun r => r.2.val != 0).map fun r => r.1)
  let keep := if c.i.u ∧ ok.isEmpty then w.maskReg c.i.d.toNat &&& c.active else w.maskReg c.i.d.toNat &&& c.active &&& ~~~act
  let old := w.maskReg c.i.d.toNat
  let new := (old &&& ~~~c.active) ||| keep ||| (bits &&& act)
  .ok { s := s.setWeft c.k ((applyFaults rs w).setMaskReg c.i.d.toNat new), recs := destRecs w { c with active := act } }

/-- Issue of a destructive register instruction. -/
def issueAlu (i : Info) (f : LaneFn) (s : State) : Host.Outcome State Fault Refusal := issue i (laneEffect true f) s
/-- Issue of an invertible one. -/
def issueInv (i : Info) (f : LaneFn) (s : State) : Host.Outcome State Fault Refusal := issue i (laneEffect false f) s
/-- Issue of a comparison. -/
def issueCmp (i : Info) (f : LaneFn) (s : State) : Host.Outcome State Fault Refusal := issue i (maskEffect f) s

/-! ## Lane functions of 32-bit and 64-bit operands -/

def w32 (v : BitVec 128) : Word := v.setWidth 32
def w64 (v : BitVec 128) : Dword := v.setWidth 64

def ret32 (v : Word) : LaneOut := { val := v.setWidth 128 }
def ret64 (v : Dword) : LaneOut := { val := v.setWidth 128 }
def retBool (b : Bool) : LaneOut := { val := if b then 1 else 0 }

/-- A function of a and b, 32 bits. -/
def fn2 (f : Word → Word → Word) : LaneFn := fun x => ret32 (f (w32 x.a) (w32 x.b))
/-- A function of a, 32 bits. -/
def fn1 (f : Word → Word) : LaneFn := fun x => ret32 (f (w32 x.a))
/-- A function of a and b, 64 bits. -/
def fn2d (f : Dword → Dword → Dword) : LaneFn := fun x => ret64 (f (w64 x.a) (w64 x.b))
/-- An in-place function of the old d and a. -/
def fnDA (f : Word → Word → Word) : LaneFn := fun x => ret32 (f (w32 x.d) (w32 x.a))
def fnDAd (f : Dword → Dword → Dword) : LaneFn := fun x => ret64 (f (w64 x.d) (w64 x.a))

end Sys2Proof.Machine
end

