-- ==== Sys2Proof/Machine/Float.lean ====
section
/-!
DEFINITION. The floating formats, rounding, and exact arithmetic on their values (10_formats R229 to R247). A floating
value is a NaN, an infinity, or a sign, a magnitude and a power of two; a result is known as a magnitude with a
sticky bit, and is rounded once.
-/

namespace Sys2Proof.Machine

/-! ## Formats (R230, R231) -/

structure FFmt where
  bits : Nat
  e    : Nat
  f    : Nat
  bias : Nat
  code : Nat
  deriving DecidableEq, Repr

/-- A floating format by its code (R229). -/
def ffmt : Nat → FFmt
  | 4 => { bits := 32, e := 8, f := 23, bias := 127, code := 4 }
  | 5 => { bits := 64, e := 11, f := 52, bias := 1023, code := 5 }
  | 6 => { bits := 16, e := 8, f := 7, bias := 127, code := 6 }
  | 7 => { bits := 16, e := 5, f := 10, bias := 15, code := 7 }
  | 8 => { bits := 8, e := 4, f := 3, bias := 7, code := 8 }
  | 9 => { bits := 8, e := 5, f := 2, bias := 15, code := 9 }
  | _ => { bits := 4, e := 2, f := 1, bias := 1, code := 10 }

/-- Exponent of the smallest normal. -/
def FFmt.emin (t : FFmt) : Int := 1 - (t.bias : Int)
/-- Weight, as a power of two, of the last bit of the subnormal grid. -/
def FFmt.qmin (t : FFmt) : Int := t.emin - t.f
/-- E all ones marks infinities and NaNs, but in f8e4 and f4e2. -/
def FFmt.ieee (t : FFmt) : Bool := t.code ≠ 8 && t.code ≠ 10
/-- The largest finite magnitude as an encoding without sign. -/
def FFmt.maxBits (t : FFmt) : Nat :=
  if t.code = 8 then 0x7E else if t.code = 10 then 7 else (2 ^ t.e - 1) * 2 ^ t.f - 1
def FFmt.infBits (t : FFmt) : Nat := (2 ^ t.e - 1) * 2 ^ t.f
def FFmt.signBit (t : FFmt) (neg : Bool) : Nat := if neg then 2 ^ (t.e + t.f) else 0
/-- The default NaN (R231). f4e2 has none: a NaN becomes +0 (R236). -/
def FFmt.nan (t : FFmt) : Nat :=
  if t.code = 8 then 0x7F else if t.code = 10 then 0 else (2 ^ t.e - 1) * 2 ^ t.f + 2 ^ (t.f - 1)

/-- A floating value. -/
inductive FVal where
  | nan (signalling : Bool)
  | inf (neg : Bool)
  | fin (neg : Bool) (m : Nat) (e : Int)
  deriving DecidableEq, Repr

/-- The value of an encoding. -/
def FFmt.decode (t : FFmt) (v : Nat) : FVal :=
  let F := v % 2 ^ t.f
  let E := v / 2 ^ t.f % 2 ^ t.e
  let neg := (v / 2 ^ (t.f + t.e)) % 2 == 1
  if t.ieee && E = 2 ^ t.e - 1 then
    if F = 0 then .inf neg else .nan (F < 2 ^ (t.f - 1))
  else if t.code = 8 ∧ E = 15 ∧ F = 7 then .nan false
  else if E = 0 then .fin neg F t.qmin
  else .fin neg (2 ^ t.f + F) ((E : Int) - t.bias - t.f)

/-- A subnormal encoding. -/
def FFmt.subnormal (t : FFmt) (v : Nat) : Bool := v / 2 ^ t.f % 2 ^ t.e == 0 && v % 2 ^ t.f != 0

/-- The value of an operand, with FTZI's replacement of subnormals (R241). -/
def FFmt.operand (t : FFmt) (ftzi : Bool) (v : Nat) : FVal :=
  match t.decode v with
  | .fin n m e => if ftzi && t.subnormal v then .fin n 0 e else .fin n m e
  | x => x

/-! ## Flags and the mode (R243 to R246) -/

def fNX : Byte := 1
def fUF : Byte := 2
def fOF : Byte := 4
def fDZ : Byte := 8
def fNV : Byte := 16
def fSC : Byte := 32

/-- What rounding needs: the mode, FMODE's fields, and the entry of the dither table for the element (R239, R240). -/
structure FEnv where
  rm   : Nat
  ftzi : Bool
  ftzo : Bool
  satn : Bool
  dith : Nat
  deriving DecidableEq, Repr

/-- D[j], the 6-bit bit reversal of j (R239). -/
def ditherD (j : Nat) : Nat := (List.range 6).foldl (fun r k => r + (j / 2 ^ k % 2) * 2 ^ (5 - k)) 0

/-- The environment of an element at dither position `i` under FMODE and an effective mode; mode code 0 is rne. `phase` is
the dither phase in use. -/
def fenvAt (fmode : Word) (rm i phase : Nat) : FEnv :=
  { rm := if rm = 0 then 1 else rm
    ftzi := fmode.getLsbD 3, ftzo := fmode.getLsbD 4, satn := fmode.getLsbD 5
    dith := ditherD ((i + phase) % 64) }

/-- DPHASE (R246). -/
def dphase (fmode : Word) : Nat := bitsOf fmode 11 6

def fenv (fmode : Word) (rm i : Nat) : FEnv := fenvAt fmode rm i (dphase fmode)

/-- The flags that FMODE's trap enables name (R277). -/
def enables (fmode : Word) : Byte :=
  (if fmode.getLsbD 10 then fNX else 0) ||| (if fmode.getLsbD 9 then fUF else 0) ||| (if fmode.getLsbD 8 then fOF else 0)
    ||| (if fmode.getLsbD 7 then fDZ else 0) ||| (if fmode.getLsbD 6 then fNV else 0)

/-- A result's encoding and the flags it raised. -/
structure FRes where
  bits  : Nat
  flags : Byte := 0
  deriving DecidableEq, Repr

/-! ## Rounding (R237 to R239, R241, R243) -/

/-- A magnitude known up to a sticky bit: |x| is m·2^e, or lies strictly between m·2^e and (m + 1)·2^e. -/
structure Approx where
  neg    : Bool
  m      : Nat
  e      : Int
  sticky : Bool := false
  deriving DecidableEq, Repr

def bitLen (m : Nat) : Nat := if m = 0 then 0 else Nat.log2 m + 1

/-- The multiple of 2^q that a magnitude rounds to, and whether it is inexact. -/
def roundAt (v : FEnv) (x : Approx) (q : Int) : Nat × Bool :=
  let sh := (q - x.e).toNat
  let up0 := (x.e - q).toNat
  let m := x.m * 2 ^ up0
  let D := 2 ^ sh
  let n := m / D
  let r := m % D
  let inexact := r ≠ 0 ∨ x.sticky
  let up : Bool :=
    match v.rm with
    | 2 => false
    | 3 => !x.neg && inexact
    | 4 => x.neg && inexact
    | 5 => decide (D ≤ 2 * r)
    | 6 => decide (64 ≤ r * 64 / D + v.dith)
    | _ => decide (D < 2 * r) || (decide (2 * r = D) && (x.sticky || decide (n % 2 = 1)))
  (if up then n + 1 else n, inexact)

/-- The overflow result and its flags (R238, R241). -/
def overflow (t : FFmt) (v : FEnv) (neg : Bool) : FRes :=
  let s := t.signBit neg
  let max : Bool :=
    t.code = 10 || (v.satn && t.code ≠ 4 && t.code ≠ 5) ||
    (t.ieee && (v.rm = 2 || v.rm = 6 || (v.rm = 3 && neg) || (v.rm = 4 && !neg)))
  { bits := if max then s + t.maxBits else if t.code = 8 then 0x7F else s + t.infBits, flags := fOF ||| fNX }

/-- round(x, fmt, RM), with the effects of FTZO and SATN and the flags OF, UF and NX. -/
def roundF (t : FFmt) (v : FEnv) (x : Approx) : FRes :=
  let s := t.signBit x.neg
  if x.m = 0 ∧ !x.sticky then { bits := s }
  else
    let E : Int := x.e + bitLen x.m - 1
    let q : Int := if x.m = 0 then t.qmin else max E t.emin - t.f
    let (n, inexact) := roundAt v x q
    -- one more bit may have been carried into
    let (n, q) := if n = 2 ^ (t.f + 1) then (n / 2, q + 1) else (n, q)
    let small := decide (n < 2 ^ t.f)
    let tiny : Bool := x.m = 0 || (decide (E < t.emin) &&
      (let (k, _) := roundAt v x (E - t.f)
       decide (E < t.emin - 1) || decide (k < 2 ^ (t.f + 1))))
    let fl : Byte := (if inexact then fNX else 0) ||| (if tiny && inexact then fUF else 0)
    if small then
      if v.ftzo then { bits := s, flags := fUF ||| fNX } else { bits := s + n, flags := fl }
    else
      let Ef := (q + t.f + t.bias).toNat
      let mag := Ef * 2 ^ t.f + (n - 2 ^ t.f)
      if t.maxBits < mag then overflow t v x.neg else { bits := s + mag, flags := fl }

/-- An infinity in a format (R241): f8e4 and f4e2 have none. -/
def infF (t : FFmt) (v : FEnv) (neg : Bool) : FRes :=
  if t.code = 8 then { bits := if v.satn then t.signBit neg + t.maxBits else 0x7F }
  else if t.code = 10 then { bits := t.signBit neg + 7, flags := fNV }
  else { bits := t.signBit neg + t.infBits }

/-- A NaN result (R236). -/
def nanF (t : FFmt) (flags : Byte) : FRes :=
  { bits := t.nan, flags := if t.code = 10 then flags ||| fNV else flags }

/-- Round a value into a format. -/
def roundVal (t : FFmt) (v : FEnv) : FVal → FRes
  | .nan sg => nanF t (if sg then fNV else 0)
  | .inf n => infF t v n
  | .fin n m e => roundF t v { neg := n, m := m, e := e }

/-! ## Exact arithmetic -/

def FVal.isNan : FVal → Bool
  | .nan _ => true
  | _ => false
def FVal.isSig : FVal → Bool
  | .nan s => s
  | _ => false
def FVal.isZero : FVal → Bool
  | .fin _ m _ => m == 0
  | _ => false
def FVal.neg : FVal → Bool
  | .nan _ => false
  | .inf n => n
  | .fin n _ _ => n
def FVal.negate : FVal → FVal
  | .nan s => .nan s
  | .inf n => .inf !n
  | .fin n m e => .fin (!n) m e

/-- NV for signalling operands (R236). -/
def sigFlag (xs : List FVal) : Byte := if xs.any FVal.isSig then fNV else 0

/-- A sum of two finite values; an exact zero sum takes the sign of R237. -/
def addFin (v : FEnv) (n1 : Bool) (m1 : Nat) (e1 : Int) (n2 : Bool) (m2 : Nat) (e2 : Int) : Approx :=
  let e := min e1 e2
  let x : Int := (if n1 then -1 else 1) * ((m1 * 2 ^ (e1 - e).toNat : Nat) : Int)
  let y : Int := (if n2 then -1 else 1) * ((m2 * 2 ^ (e2 - e).toNat : Nat) : Int)
  let z := x + y
  let neg := if z = 0 then (if m1 = 0 ∧ m2 = 0 ∧ n1 = n2 then n1 else v.rm == 4) else decide (z < 0)
  { neg := neg, m := z.natAbs, e := e }

def fAdd (t : FFmt) (v : FEnv) (x y : FVal) : FRes :=
  if x.isNan || y.isNan then nanF t (sigFlag [x, y])
  else match x, y with
  | .inf a, .inf b => if a = b then infF t v a else nanF t fNV
  | .inf a, _ => infF t v a
  | _, .inf b => infF t v b
  | .fin n1 m1 e1, .fin n2 m2 e2 => roundF t v (addFin v n1 m1 e1 n2 m2 e2)
  | _, _ => nanF t 0

/-- The exact product: none for 0 × ∞. -/
def mulVal : FVal → FVal → Option FVal
  | .fin n1 m1 e1, .fin n2 m2 e2 => some (.fin (n1 != n2) (m1 * m2) (e1 + e2))
  | .inf a, y => if y.isZero then none else some (.inf (a != y.neg))
  | x, .inf b => if x.isZero then none else some (.inf (x.neg != b))
  | _, _ => some (.nan false)

def fMul (t : FFmt) (v : FEnv) (x y : FVal) : FRes :=
  if x.isNan || y.isNan then nanF t (sigFlag [x, y])
  else match mulVal x y with
  | none => nanF t fNV
  | some r => roundVal t v r

/-- a × b + c, rounded once; 0 × ∞ raises NV even when c is a quiet NaN (R280). -/
def fFma (t : FFmt) (v : FEnv) (x y z : FVal) : FRes :=
  if x.isNan || y.isNan then nanF t (sigFlag [x, y, z])
  else match mulVal x y with
  | none => nanF t fNV
  | some p =>
    if z.isNan then nanF t (sigFlag [z])
    else fAdd t v p z

/-- The bits of extra precision a quotient or root is computed to. -/
def guard : Nat := 140

def fDiv (t : FFmt) (v : FEnv) (x y : FVal) : FRes :=
  if x.isNan || y.isNan then nanF t (sigFlag [x, y])
  else
    let neg := x.neg != y.neg
    match x, y with
    | .inf _, .inf _ => nanF t fNV
    | .inf _, _ => infF t v neg
    | _, .inf _ => { bits := t.signBit neg }
    | .fin _ m1 e1, .fin _ m2 e2 =>
      if m2 = 0 then
        if m1 = 0 then nanF t fNV else { infF t v neg with flags := fDZ }
      else
        let k := guard + bitLen m2
        let n := m1 * 2 ^ k
        roundF t v { neg := neg, m := n / m2, e := e1 - e2 - k, sticky := decide (n % m2 ≠ 0) }
    | _, _ => nanF t 0

/-- Integer square root by Newton's iteration from above. -/
def isqrtGo (n : Nat) : Nat → Nat → Nat
  | 0, x => x
  | k + 1, x =>
    let y := (x + n / x) / 2
    if y < x then isqrtGo n k y else x

def isqrt (n : Nat) : Nat := if n = 0 then 0 else isqrtGo n 64 (2 ^ ((bitLen n + 1) / 2))

/-- A magnitude with an even exponent. -/
def evenExp (m : Nat) (e : Int) : Nat × Int := if e % 2 = 0 then (m, e) else (2 * m, e - 1)

def fSqrt (t : FFmt) (v : FEnv) : FVal → FRes
  | .nan sg => nanF t (if sg then fNV else 0)
  | .inf n => if n then nanF t fNV else infF t v false
  | .fin n m e =>
    if m = 0 then { bits := t.signBit n }
    else if n then nanF t fNV
    else
      let (m, e) := evenExp m e
      let N := m * 4 ^ guard
      let r := isqrt N
      roundF t v { neg := false, m := r, e := e / 2 - guard, sticky := decide (r * r ≠ N) }

def fRsq (t : FFmt) (v : FEnv) : FVal → FRes
  | .nan sg => nanF t (if sg then fNV else 0)
  | .inf n => if n then nanF t fNV else { bits := 0 }
  | .fin n m e =>
    if m = 0 then { infF t v n with flags := fDZ }
    else if n then nanF t fNV
    else
      let (m, e) := evenExp m e
      let k := guard + bitLen m
      let r := isqrt (4 ^ k / m)
      roundF t v { neg := false, m := r, e := -(e / 2) - k, sticky := decide (r * r * m ≠ 4 ^ k) }

def fRec (t : FFmt) (v : FEnv) (x : FVal) : FRes := fDiv t v (.fin false 1 0) x

/-- FRND (R283): an integral value of the same format, with the sign of a. -/
def fRnd (t : FFmt) (v : FEnv) (bits : Nat) (x : FVal) : FRes :=
  match x with
  | .nan sg => nanF t (if sg then fNV else 0)
  | .inf _ => { bits := bits }
  | .fin n m e =>
    if m = 0 then { bits := t.signBit n }
    else if 0 ≤ e then { bits := bits }
    else
      let (k, inexact) := roundAt v { neg := n, m := m, e := e } 0
      { roundF t { v with ftzo := false } { neg := n, m := k, e := 0 } with flags := if inexact then fNX else 0 }

/-- FSCALE (R285). -/
def fScale (t : FFmt) (v : FEnv) (x : FVal) (b : Int) : FRes :=
  match x with
  | .fin n m e => roundF t v { neg := n, m := m, e := e + b }
  | x => roundVal t v x

/-- The order of two values that are not NaNs: −1, 0 or 1; −0 equals +0. -/
def fOrder (x y : FVal) : Int :=
  let key : FVal → Int → Int := fun z e0 => match z with
    | .fin n m e => (if n then -1 else 1) * ((m * 2 ^ (e - e0).toNat : Nat) : Int)
    | _ => 0
  match x, y with
  | .inf a, .inf b => if a = b then 0 else if a then -1 else 1
  | .inf a, _ => if a then -1 else 1
  | _, .inf b => if b then 1 else -1
  | .fin _ _ e1, .fin _ _ e2 =>
    let d := key x (min e1 e2) - key y (min e1 e2)
    if d < 0 then -1 else if d = 0 then 0 else 1
  | _, _ => 0

/-- FMIN and FMAX (R281); −0 is less than +0. The operands' bits are those after FTZI. -/
def fMinMax (t : FFmt) (isMax : Bool) (xb yb : Nat) (x y : FVal) : FRes :=
  let fl := sigFlag [x, y]
  if x.isNan && y.isNan then { bits := t.nan, flags := fl }
  else if x.isNan then { bits := yb, flags := fl }
  else if y.isNan then { bits := xb, flags := fl }
  else
    let o := fOrder x y
    let xLess : Bool := if o = 0 then x.neg else decide (o < 0)
    { bits := if xLess != isMax then xb else yb, flags := fl }

/-- The bits of an operand after FTZI. -/
def FFmt.flush (t : FFmt) (ftzi : Bool) (v : Nat) : Nat :=
  if ftzi && t.subnormal v then v / 2 ^ (t.e + t.f) * 2 ^ (t.e + t.f) else v

/-- FCLASS (R284). -/
def fClass (t : FFmt) (v : Nat) : Nat :=
  2 ^ (match t.decode v with
    | .nan sg => if sg then 8 else 9
    | .inf n => if n then 0 else 7
    | .fin n m _ =>
      if m = 0 then (if n then 3 else 4)
      else if t.subnormal v then (if n then 2 else 5)
      else if n then 1 else 6)

/-- The conditions of FCMP and their NV (R290). -/
def fCmp (fn : Nat) (x y : FVal) : Bool × Byte :=
  let un := x.isNan || y.isNan
  let o := fOrder x y
  let quiet := sigFlag [x, y]
  let loud : Byte := if un then fNV else 0
  match fn with
  | 0 => (!un && o == 0, quiet)
  | 1 => (un || o != 0, quiet)
  | 2 => (!un && decide (o < 0), loud)
  | 3 => (!un && decide (o ≤ 0), loud)
  | 4 => (!un && decide (0 < o), loud)
  | 5 => (!un && decide (0 ≤ o), loud)
  | 6 => (un, quiet)
  | _ => (!un, quiet)

/-! ## Conversions (R242, R293) -/

def intSigned (code : Nat) : Bool := code = 0 || code = 2 || code = 11 || code = 13
def intMin (code : Nat) (bits : Nat) : Int := if intSigned code then -(2 ^ (bits - 1)) else 0
def intMax (code : Nat) (bits : Nat) : Int := if intSigned code then 2 ^ (bits - 1) - 1 else 2 ^ bits - 1
def intVal (code bits v : Nat) : Int := if intSigned code then sextN v bits else ((v % 2 ^ bits : Nat) : Int)
def intBits (bits : Nat) (x : Int) : Nat := (x % (2 ^ bits : Nat)).toNat

/-- The bits of a format code (R229). -/
def codeBits : Nat → Nat
  | 0 => 32 | 1 => 32 | 2 => 64 | 3 => 64 | 4 => 32 | 5 => 64 | 6 => 16 | 7 => 16
  | 8 => 8 | 9 => 8 | 10 => 4 | 11 => 8 | 12 => 8 | 13 => 16 | 14 => 16 | _ => 2

def codeFloat (c : Nat) : Bool := 4 ≤ c && c ≤ 10

/-- A floating value to an integer format (R242). -/
def toInt (code : Nat) (v : FEnv) (x : FVal) : FRes :=
  let bits := codeBits code
  let lo := intMin code bits
  let hi := intMax code bits
  match x with
  | .nan _ => { bits := 0, flags := fNV }
  | .inf n => { bits := intBits bits (if n then lo else hi), flags := fNV }
  | .fin n m e =>
    let (k, inexact) := roundAt v { neg := n, m := m, e := e } 0
    let z : Int := if n then -(k : Int) else k
    if z < lo then { bits := intBits bits lo, flags := fNV }
    else if hi < z then { bits := intBits bits hi, flags := fNV }
    else { bits := intBits bits z, flags := if inexact then fNX else 0 }

/-- A sign as a ternary element (R234). -/
def trnOf (x : Int) : Nat := if x = 0 then 0 else if 0 < x then 1 else 3

/-- A floating value to trn2: NX unless it is −1, ±0 or +1. -/
def toTrn (x : FVal) : FRes :=
  match x with
  | .nan _ => { bits := 0, flags := fNV }
  | .inf n => { bits := if n then 3 else 1, flags := fNX }
  | .fin n m e =>
    if m = 0 then { bits := 0 }
    else
      let one := decide (e ≤ 0) && m == 2 ^ (-e).toNat
      { bits := if n then 3 else 1, flags := if one then 0 else fNX }

/-- One element converted from a format code to a format code (R293). -/
def convert (src dst : Nat) (sat : Bool) (v : FEnv) (x : Nat) : FRes :=
  if codeFloat src then
    let val := (ffmt src).operand v.ftzi x
    if codeFloat dst then roundVal (ffmt dst) v val
    else if dst = 15 then toTrn val
    else toInt dst v val
  else
    let (z, fl) : Int × Byte :=
      if src = 15 then
        match x % 4 with
        | 1 => (1, 0)
        | 3 => (-1, 0)
        | 2 => (0, fNV)
        | _ => (0, 0)
      else (intVal src (codeBits src) x, 0)
    let r : FRes :=
      if codeFloat dst then roundF (ffmt dst) v { neg := decide (z < 0), m := z.natAbs, e := 0 }
      else if dst = 15 then { bits := trnOf z }
      else
        let b := codeBits dst
        -- sat acts on integer sources only; trn2 is no integer format (10_formats R229, 12_float R292)
        { bits := intBits b (if sat && src != 15 then clampI (intMin dst b) (intMax dst b) z else z) }
    { r with flags := r.flags ||| fl }

end Sys2Proof.Machine
end

