-- ==== Sys2Proof/Machine/Checksum.lean ====
section
/-!
DEFINITION. The check codes: CRC-32C of flits and segment signatures (19_reliability R431, 20_host_fabric R448) and CRC-64/XZ of
context images (18_traps R423), bit by bit.
-/

namespace Sys2Proof.Machine

/-- One bit of a reflected CRC of width n with polynomial `poly`. -/
def crcBit {n : Nat} (poly : BitVec n) (c : BitVec n) : BitVec n :=
  if c.getLsbD 0 then (c >>> 1) ^^^ poly else c >>> 1

def crcByte {n : Nat} (poly : BitVec n) (c : BitVec n) (b : Byte) : BitVec n :=
  (List.range 8).foldl (fun c _ => crcBit poly c) (c ^^^ b.setWidth n)

/-- Initial value and final XOR are all ones. -/
def crc {n : Nat} (poly : BitVec n) (bs : List Byte) : BitVec n := ~~~(bs.foldl (crcByte poly) (BitVec.allOnes n))

/-- The Castagnoli polynomial, reflected. -/
def crc32c (bs : List Byte) : Word := crc (0x82F63B78 : Word) bs
/-- The ECMA-182 polynomial, reflected. -/
def crc64xz (bs : List Byte) : Dword := crc (0xC96C5795D7870F42 : Dword) bs

end Sys2Proof.Machine
end

