-- ==== Sys2Proof/Machine/Module.lean ====
section
/-!
DEFINITION. Accesses by a host or a peer, through page tables (14_consistency R326, 20_host_fabric R450).
-/

namespace Sys2Proof.Machine

/-! ## Accesses by a host or a peer -/

/-- A repair is in progress: requests of peers and host writes to device memory are held (R80). -/
def State.repairing (s : State) : Bool := (s.reg 0x0008).getLsbD 18

/-- Translation for a host access in a context: no cluster's TLB takes part. -/
def State.hostXlate (s : State) (ctx : Nat) (acc : Acc) (va : Dword) : Except XFault (Nat × State) :=
  if !canonical va then .error .prot
  else match s.rootOf ctx with
  | none => .error .prot
  | some root =>
    match walk s ctx va 3 root [] with
    | .error e => .error e
    | .ok e =>
      if s.cap ≤ e.pa va then .error .prot
      else if acc = .write ∧ !e.w then .error .prot
      else
        let s := s.orLeaf e.leaf 0x08
        let s := if acc = .write ∧ !e.d then s.orLeaf e.leaf 0x10 else s
        .ok (e.pa va, s)

/-- A host's coherent read and write of physical bytes, in the order of the home. The home's grants to the host set A and D of the frame
(R121). -/
def State.hostRead (s : State) (pa n : Nat) : List Byte × State := let (bs, s) := s.homeRead pa n; (bs, s.frameTouch pa false)
def State.hostWrite (s : State) (pa : Nat) (bs : List Byte) : State := (s.homeWrite pa bs).frameTouch pa true

end Sys2Proof.Machine
end

