-- ==== Sys2Proof/Machine/Iter.lean ====
section
/-!
DEFINITION. Iterator records (08_copy_engine R175 to R178): their bytes, their elements, and the refusals of R178; and where
the sections of a team's context image lie (18_traps R423).
-/

namespace Sys2Proof.Machine

/-! ## Iterator records -/

/-- Bytes of an element by format code; 0 for the codes that a record may not hold (R176). -/
def elemBytes : Nat → Nat
  | 8 => 1 | 9 => 1 | 11 => 1 | 12 => 1
  | 6 => 2 | 7 => 2 | 13 => 2 | 14 => 2
  | 0 => 4 | 1 => 4 | 4 => 4
  | 2 => 8 | 3 => 8 | 5 => 8
  | _ => 0

def nth (l : List Nat) (j : Nat) : Nat := l.getD j 0
def nthI (l : List Int) (j : Nat) : Int := l.getD j 0

def Iter.esize (r : Iter) : Nat := elemBytes r.fmt
/-- N (R177). -/
def Iter.count (r : Iter) : Nat := nth r.ext 0 * nth r.ext 1 * nth r.ext 2 * nth r.ext 3
/-- The linear number of the start. -/
def Iter.start (r : Iter) : Nat :=
  nth r.idx 0 + nth r.ext 0 * (nth r.idx 1 + nth r.ext 1 * (nth r.idx 2 + nth r.ext 2 * nth r.idx 3))
/-- The stride that moves the address in dimension j: 0 under BCAST. -/
def Iter.move (r : Iter) (j : Nat) : Int := if r.bcast.testBit j then 0 else nthI r.str j
/-- The index of element e in each dimension. -/
def Iter.index (r : Iter) (e : Nat) : List Nat :=
  let x := nth r.ext 0
  let y := nth r.ext 1
  let z := nth r.ext 2
  [e % x, e / x % y, e / (x * y) % z, e / (x * y * z)]
/-- addr(e) − BASE. -/
def Iter.offset (r : Iter) (e : Nat) : Int :=
  let i := r.index e
  (List.range 4).foldl (fun t j => t + (nth i j : Int) * r.move j) 0
/-- addr(e) (R177). -/
def Iter.addr (r : Iter) (e : Nat) : Dword := addOff r.base (r.offset e)

/-- A record from its 64 bytes: none when a rule of R178 about the record alone refuses it. -/
def Iter.ofBytes (glob : Bool) (bs : List Byte) : Option Iter :=
  let b := fun i => (bs.getD i 0).toNat
  let w := fun i => leNat ((bs.drop i).take 4)
  let r : Iter :=
    { base := leDword bs, fmt := b 8, bcast := b 9
      ext := [w 0x10, w 0x14, w 0x18, w 0x1C]
      str := [sextN (w 0x20) 32, sextN (w 0x24) 32, sextN (w 0x28) 32, sextN (w 0x2C) 32]
      idx := [w 0x30, w 0x34, w 0x38, w 0x3C], glob := glob, raw := bs }
  let zeros := (List.range 6).all fun i => b (0x0A + i) == 0
  let size := elemBytes r.fmt
  let dims := (List.range 4).all fun j =>
    1 ≤ nth r.ext j && nth r.ext j ≤ 16777216 && nth r.idx j < nth r.ext j &&
      (nth r.ext j == 1 || r.bcast.testBit j || (nthI r.str j).natAbs % size == 0)
  if zeros && r.fmt < 16 && r.bcast < 16 && size != 0 && dims && r.base.toNat % size == 0
      && (glob || r.base.toNat < 2 ^ 32) && (r.count - r.start) * size ≤ 2 ^ 31 - 1 then some r
  else none

/-- The least and the greatest of addr(e) − BASE over the elements from the start (R178). The elements are those that exceed
the start first in dimension 3, 2, 1, or 0, or equal it. -/
def Iter.extremes (r : Iter) : Int × Int :=
  let span := fun (j lo : Nat) =>
    let hi := nth r.ext j - 1
    let x := (lo : Int) * r.move j
    let y := (hi : Int) * r.move j
    (min x y, max x y)
  let fixd := fun (j : Nat) => (nth r.idx j : Int) * r.move j
  let box := fun (d : Nat) (lo : Nat) =>
    (List.range 4).foldl (fun (t : Int × Int) j =>
      if j < d then let s := span j 0; (t.1 + s.1, t.2 + s.2)
      else if j = d then let s := span j lo; (t.1 + s.1, t.2 + s.2)
      else (t.1 + fixd j, t.2 + fixd j)) (0, 0)
  (List.range 4).foldl (fun (t : Int × Int) d =>
    let lo := nth r.idx d + (if d = 0 then 0 else 1)
    if lo < nth r.ext d then let b := box d lo; (min t.1 b.1, max t.2 b.2) else t) (r.offset r.start, r.offset r.start)

/-- The record's covered addresses are in bounds: inside [0, S), or canonical at both extremes. -/
def Iter.inBounds (r : Iter) (S : Nat) : Bool :=
  let (lo, hi) := r.extremes
  if r.glob then canonical (addOff r.base lo) && canonical (addOff r.base hi)
  else
    let b : Int := r.base.toNat
    decide (0 ≤ b + lo) && decide (b + hi + (r.esize : Int) ≤ S)

/-- The elements covered, ascending. -/
def Iter.elements (r : Iter) : List Nat := (List.range (r.count - r.start)).map fun i => r.start + i

/-- The scratchpad pages of the covered elements. -/
def Iter.pages (r : Iter) : List Nat :=
  if r.glob then [] else (r.elements.map fun e => (r.addr e).toNat / 2048).dedup

/-! ## The context image (R423) -/

def up4k (n : Nat) : Nat := (n + 4095) / 4096 * 4096

/-- The cores of a team. -/
def Team.cores (x : Team) : Nat := if x.pair then 2 else 1

/-- Bytes of a weft's register region (R198). -/
def regionBytes (w : Weft) : Nat := up4k (0x400 + w.width * w.regs.alloc * 4)

/-- Bytes of a store-queue block (R423). -/
def stqBytes : Nat := 52 * 1024

/-- Physical addresses of the sections of a team's image. -/
structure ImageMap where
  regs : List Nat
  stq  : Nat
  hist : Nat
  histb : Nat
  matb : Nat
  datb : Nat
  sptb : Nat
  backb : Nat
  stop : Nat
  deriving DecidableEq, Repr

/-- The sections of a team's image at base `ib`. Each register region starts on a 4 KiB boundary, and the history areas of the wefts follow each other
without gaps (notes/assumptions 12). -/
def imageMapOf (ib nwefts cores histb size : Nat) (det : Bool) (regions : List Nat) : ImageMap :=
  let r0 := ib + 0xE000
  let regs := (List.range nwefts).map fun i => r0 + (regions.take i).foldl (· + ·) 0
  let stq := r0 + regions.foldl (· + ·) 0
  let hist := stq + nwefts * stqBytes
  let matb := up4k (hist + nwefts * histb)
  let datb := matb + cores * 278528
  let sptb := datb + (if det then 256 * 1024 else 0)
  let backb := sptb + up4k (size / 256)
  { regs := regs, stq := stq, hist := hist, histb := histb, matb := matb, datb := datb, sptb := sptb, backb := backb
    stop := backb + up4k size }

def State.imageMap (s : State) (t : Nat) : ImageMap :=
  let x := s.team t
  imageMapOf x.image x.nwefts x.cores x.launch.histb.toNat x.size (x.domain != 0)
    ((List.range x.nwefts).map fun i => regionBytes (s.weft (16 * t + i)))

end Sys2Proof.Machine
end

