-- ==== Sys2Proof/Machine/Spad.lean ====
section
/-!
DEFINITION. The scratchpad: page tables, frames, fills and evictions (06_core_memory R124 to R141), and its bytes.
-/

namespace Sys2Proof.Machine

/-! ## Page table entries (R132) -/

def zeroD : Nat → Dword := fun _ => 0

def Team.spte (x : Team) (P : Nat) : Dword := SMap.get zeroD x.spt P
def Team.setSpte (x : Team) (P : Nat) (e : Dword) : Team := { x with spt := SMap.set zeroD x.spt P e }

def speV (e : Dword) : Bool := e.getLsbD 0
def speRes (e : Dword) : Bool := e.getLsbD 1
def speZf (e : Dword) : Bool := e.getLsbD 3
/-- BACK as a physical address. -/
def speBack (e : Dword) : Nat := bitsOf e 11 41 * 2048
/-- RES without V, or a zero field that is not zero. -/
def speMalformed (e : Dword) : Bool := (speRes e && !speV e) || bitsOf e 4 7 != 0 || bitsOf e 61 3 != 0
/-- V, BACK and ZF alone. -/
def speBare (e : Dword) : Dword := e &&& 0x000FFFFFFFFFF809

/-- An entry that every access must find: V set, and well formed (R136 item 1). -/
def speOk (e : Dword) : Bool := speV e && !speMalformed e

/-! ## Roles and frames (R124 to R128) -/

/-- The scratchpad-role banks of a core, ascending; a bank that is being drained takes no new fill (R126). -/
def State.spadBanks (s : State) (core : Nat) : List Nat := banksOf (s.roles core) 1
/-- The frames of a core's pool, ascending. -/
def State.pool (s : State) (core : Nat) : List Nat := (s.spadBanks core).flatMap fun b => (List.range 8).map fun k => 8 * b + k
def State.fillBanks (s : State) (core : Nat) : List Nat := s.stayingBanks core 1

/-- Operand-role banks: the slots of a core (R128). -/
def State.slotCount (s : State) (core : Nat) : Nat := (banksOf (s.roles core) 2).length

def Core.frame (c : Core) (i : Nat) : Option Frame := SMap.get (fun _ => none) c.frames i
def State.setFrame (s : State) (core i : Nat) (f : Option Frame) : State :=
  s.modCore core fun c => { c with frames := SMap.set (fun _ => none) c.frames i f }

/-- CBSTAT.FREE: the free frames of the pool (R125). -/
def State.noteFree (s : State) (core : Nat) : State :=
  let free := ((s.spadBanks core).flatMap fun b => (List.range 8).filter fun k => ((s.core core).frame (8 * b + k)).isNone).length
  s.setField (cbstat core) 10 8 free

/-- The cores whose frames may hold a team's pages: its own, and those that a release still has to empty (R141). -/
def Team.frameCores (x : Team) : List Nat :=
  let own := if x.pair then [x.core, x.core + 1] else [x.core]
  let old := match x.release with
    | none => []
    | some c => if x.pair then [c, c + 1] else [c]
  own ++ old

/-- The frame that holds page P of a team: its core, index and contents. -/
def State.findFrame (s : State) (t P : Nat) : Option (Nat × Nat × Frame) :=
  (s.team t).frameCores.findSome? fun core =>
    (s.core core).frames.findSome? fun e => match e.2 with
      | some f => if f.team = t ∧ f.page = P then some (core, e.1, f) else none
      | none => none

/-- A page that may not leave: that of a byte barrier that a copy in flight names (R138, R142). A beat, an operand set of an MMA, an element
of a copy or of a sweep is performed in one step, so none holds a frame between steps; a TFETCH reads no scratchpad page after issue (notes/assumptions 35). -/
def State.heldPage (s : State) (t P : Nat) : Bool :=
  s.cores.any fun (_, c) => c.copies.any fun y => y.k / 16 == t && y.bar / 2048 == P

/-! ## Eviction (R134, R139) -/

/-- Take the frame away: a dirty one is written to BACK, and the entry takes RES and D 0 and the V, BACK and ZF of the core's
copy. While the team is parked the entry is written in its image. -/
def State.evict (s : State) (core i : Nat) : Except Stop State :=
  match (s.core core).frame i with
  | none => .ok s
  | some f =>
    let back := speBack f.back
    let e := speBare f.back
    let x := s.team f.team
    let at_ := (s.imageMap f.team).sptb + 8 * f.page
    let inImage : Bool := match x.status with
      | .parked _ => true
      | .queued => true
      | _ => false
    if f.dirty ∧ !s.exists back 2048 then .error (.fault (.noMemory back))
    else if inImage ∧ !s.exists at_ 8 then .error (.fault (.noMemory at_))
    else
      let s := if f.dirty then s.homeWrite back (SMap.read zeroByte f.data 0 2048) else s
      let s := if inImage then s.homeWrite at_ (leBytes 8 e.toNat) else s
      let s := s.setTeam f.team ((s.team f.team).setSpte f.page e)
      let s := (s.setFrame core i none).noteFree core
      -- the release ends when the old cores hold none of the team's frames
      .ok (s.modTeam f.team fun x => match x.release with
        | none => x
        | some c =>
          let cs := if x.pair then [c, c + 1] else [c]
          if cs.any fun c => (s.core c).frames.any fun e => match e.2 with
            | some g => g.team == f.team
            | none => false
          then x else { x with release := none })

/-- A frame of the pool may be evicted for a fill: it is held by nothing, and its bank stays in the pool (R126, R139). -/
def State.evictable (s : State) (core i : Nat) : Bool :=
  (s.fillBanks core).contains (i / 8) && match (s.core core).frame i with
    | some f => !s.heldPage f.team f.page
    | none => false

/-- The clock over the pool: from the hand, the first evictable frame that has not been referenced since the hand last passed it; those
passed lose their reference bit, and when every one of them is referenced a whole turn has cleared them all (R139). -/
def State.clockVictim (s : State) (core : Nat) : Option (Nat × State) :=
  let c := s.core core
  let order := ((s.pool core).filter fun i => decide (c.hand ≤ i)) ++ ((s.pool core).filter fun i => decide (i < c.hand))
  let live := order.filter (s.evictable core)
  let fresh := fun i => match c.frame i with
    | some f => !f.ref
    | none => false
  match live with
  | [] => none
  | first :: _ =>
    let found := live.find? fresh
    let victim := found.getD first
    let passed := if found.isSome then live.takeWhile fun i => i != victim else live
    let s := passed.foldl (fun s i => match (s.core core).frame i with
      | some f => s.setFrame core i (some { f with ref := false })
      | none => s) s
    some (victim, s.modCore core fun c => { c with hand := victim + 1 })

/-! ## Fill (R137) -/

/-- The free frame for page P on a core: the preferred bank's, else the lowest-numbered bank's. -/
def State.freeFrame (s : State) (core P : Nat) : Option Nat :=
  let banks := s.fillBanks core
  let all := s.spadBanks core
  let pref := all.getD (P % max all.length 1) 0
  let slot := fun b => ((List.range 8).find? fun k => ((s.core core).frame (8 * b + k)).isNone).map fun k => 8 * b + k
  ((if banks.contains pref then [pref] else []) ++ banks).findSome? slot

/-- A frame on a core, evicting one when none is free. -/
def State.takeFrame (s : State) (core P : Nat) : Except Stop (Option (Nat × State)) :=
  match s.freeFrame core P with
  | some i => .ok (some (i, s))
  | none =>
    match s.clockVictim core with
    | none => .ok none
    | some (v, s) =>
      match s.evict core v with
      | .error e => .error e
      | .ok s => .ok ((s.freeFrame core P).map fun i => (i, s))

/-- A frame for page P of a team: of `core`, or of its partner when that core has neither a free nor an evictable frame (R137). -/
def State.teamFrame (s : State) (t P core : Nat) : Except Stop (Option (Nat × Nat × State)) :=
  let x := s.team t
  match s.takeFrame core P with
  | .error st => .error st
  | .ok (some (i, s)) => .ok (some (core, i, s))
  | .ok none =>
    if x.pair then
      let other := if core = x.core then x.core + 1 else x.core
      match s.takeFrame other P with
      | .error st => .error st
      | .ok r => .ok (r.map fun y => (other, y.1, y.2))
    else .ok none

/-- Fill page P of a team (R137): zeros, or the 2 KiB at BACK by the coherent path (R140). -/
def State.fillPage (s : State) (t P core : Nat) : Except Stop State :=
  let x := s.team t
  let e := x.spte P
  let back := speBack e
  if !speZf e && !s.exists back 2048 then .error (.fault (.noMemory back))
  else match s.teamFrame t P core with
  | .error st => .error st
  | .ok none => .error .stay
  | .ok (some (c, i, s)) =>
    let (bs, s) := if speZf e then ([], s) else s.homeRead back 2048
    let data : SMap Byte := SMap.write zeroByte [] 0 bs
    let bare := speBare e &&& ~~~(8 : Dword)
    let part : Dword := if x.pair ∧ c ≠ x.core then BitVec.ofNat 64 (2 ^ 60) else 0
    let e' := bare ||| 2 ||| (BitVec.ofNat 64 (i * 2 ^ 52)) ||| part
    let s := s.setTeam t ((s.team t).setSpte P e')
    let s := (s.setFrame c i (some { team := t, page := P, back := bare, data := data })).noteFree c
    .ok ((s.setField (cbstat c) 32 32 (s.field (cbstat c) 32 32 + 1)).modCore core fun c => { c with misses := c.misses + 1 })

/-- The cores whose frames a resident team fills. -/
def Team.ownCores (x : Team) : List Nat := if x.pair then [x.core, x.core + 1] else [x.core]

/-- The frame of the team's own cores that holds page P. -/
def State.ownFrame (s : State) (t P : Nat) : Option (Nat × Nat × Frame) :=
  (s.findFrame t P).filter fun x => (s.team t).ownCores.contains x.1

/-- The core's scratchpad TLB comes to hold the entry of page P; a miss reads it from the image (R135). -/
def State.spadTlb (s : State) (core t P : Nat) : State :=
  if (s.core core).stlb.contains (t, P) then s
  else
    let at_ := (s.imageMap t).sptb + 8 * P
    let s := if s.exists at_ 8 then (s.homeRead at_ 8).2 else s
    s.modCore core fun c => { c with stlb := ((t, P) :: c.stlb).take 256, misses := c.misses + 1 }

/-- Page P is made resident on the team's own cores: a page that an old core still holds is evicted there first
(R141 item 3), and a page that is not resident is filled. -/
def State.bringPage (s : State) (t core P : Nat) : Except Stop State :=
  let s := s.spadTlb core t P
  match s.findFrame t P with
  | some (c, i, f) =>
    if (s.team t).ownCores.contains c then .ok (if f.ref then s else s.setFrame c i (some { f with ref := true }))
    else if s.heldPage t P then .error .stay
    else match s.evict c i with
      | .error st => .error st
      | .ok s => s.fillPage t P core
  | none => s.fillPage t P core

/-- Frames of the team's cores that are free, or that could be evicted without taking a page of a list. -/
def State.obtainable (s : State) (t core : Nat) (Ps : List Nat) : Nat :=
  let x := s.team t
  let cores := if x.pair then core :: x.ownCores.filter (· != core) else [core]
  (cores.flatMap fun c => (s.pool c).filter fun i => match (s.core c).frame i with
    | none => (s.fillBanks c).contains (i / 8)
    | some f => s.evictable c i && !(f.team == t && Ps.contains f.page)).length

/-- Pages are reserved in one step: all of them, when enough frames are free or evictable and no request waits before this one; otherwise
none, and the request waits (R138). -/
def State.bringPages (s : State) (t core : Nat) (Ps : List Nat) : Except Stop State :=
  let Ps := Ps.dedup
  let need := (Ps.filter fun P => (s.ownFrame t P).isNone).length
  let waiting := (s.core core).reserve
  let first := waiting.isEmpty || waiting.head? == some (t, Ps)
  if need ≠ 0 ∧ (!first ∨ s.obtainable t core Ps < need) then .error (.reserve core t Ps)
  else
    let r := Ps.foldl (fun (r : Except Stop State) P => match r with
      | .ok s => s.bringPage t core P
      | e => e) (.ok s)
    match r with
    | .error .stay => .error (.reserve core t Ps)
    | .error e => .error e
    | .ok s => .ok (if need ≠ 0 ∧ !waiting.isEmpty then s.modCore core fun c => { c with reserve := c.reserve.tail } else s)

/-! ## Bytes -/

/-- A byte of a team's scratchpad: the resident frame's, else what a fill would bring. -/
def State.spadByte (s : State) (t a : Nat) : Byte :=
  match s.findFrame t (a / 2048) with
  | some (_, _, f) => SMap.get zeroByte f.data (a % 2048)
  | none =>
    let e := (s.team t).spte (a / 2048)
    if speZf e || !speV e then 0 else s.cohByte (speBack e + a % 2048)

/-- Read bytes of one page. -/
def State.spadRead (s : State) (t a n : Nat) : List Byte :=
  match s.findFrame t (a / 2048) with
  | some (_, _, f) => SMap.read zeroByte f.data (a % 2048) n
  | none => (List.range n).map fun i => s.spadByte t (a + i)

def State.spadWord (s : State) (t a : Nat) : Word := leWord (s.spadRead t a 4)
def State.spadDword (s : State) (t a : Nat) : Dword := leDword (s.spadRead t a 8)

/-- Write bytes of one resident page. -/
def State.spadWrite (s : State) (t a : Nat) (bs : List Byte) : State :=
  match s.findFrame t (a / 2048) with
  | some (c, i, f) =>
    let s := s.setFrame c i (some { f with dirty := true, ref := true, data := SMap.write zeroByte f.data (a % 2048) bs })
    s.modTeam t fun x => x.setSpte (a / 2048) (x.spte (a / 2048) ||| 4)
  | none => s

/-- The pages that [a, a + n) meets. -/
def pagesIn (a n : Nat) : List Nat := if n = 0 then [] else (List.range ((a + n - 1) / 2048 - a / 2048 + 1)).map fun i => a / 2048 + i

/-- SPFAULT for an address in [0, S): its page's entry has V 0 or is malformed (R136). -/
def State.spadBad (s : State) (t a : Nat) : Bool :=
  let x := s.team t
  decide (a < x.size) && !speOk (x.spte (a / 2048))

end Sys2Proof.Machine
end

