-- ==== Sys2Proof/Machine/Soft.lean ====
section
/-!
DEFINITION. The start of a walk back (09_registers_history R216, R228), the walk of a redundant pair (19_reliability R433), and uncorrectable
errors in state that belongs to one team (R434).
-/

namespace Sys2Proof.Machine

/-! ## The start of a walk -/

/-- The address at which a walk begins: the instruction that would retire next; at a header, the first of its clause. -/
def walkStart (s : State) (k : Nat) (pc : Dword) : Dword :=
  match s.codeWord k pc with
  | .ok h => if isHeader h then pc + 4 else pc
  | .error _ => pc

/-- The weft begins to walk back. -/
def beginWalk (s : State) (k : Nat) (pc target : Dword) : State :=
  s.modWeft k fun w =>
    let f : Flow := { w.flow with dir := true, revT := target, pc := walkStart s k pc, entry := .body }
    { w with flow := f }

/-- In handler mode every lane of TMASK rejoins before the first step. -/
def rejoinAll (w : Weft) : Weft :=
  let f : Flow := { w.flow with active := (w.trap.tamask ||| w.trap.tmask) &&& fullMask w.width }
  let t : TrapRegs := { w.trap with tmask := 0, lanes := [], old := [] }
  { w with flow := f, trap := t }

/-- The resume point of a weft: that of its trap when it is parked from its handler (KIND 0), its hold's instruction, or its PC. -/
def resumePc (parkedHere : Bool) (w : Weft) : Dword :=
  if parkedHere then w.trap.resume
  else match w.hold with
  | some h => h.pc
  | none => w.flow.pc

/-! ## The walk of a redundant pair (R433) -/

/-- The segment's unreleased writes, and those after it, are discarded; the hold at a boundary ends. -/
def Weft.dropSegments (w : Weft) (start : Dword) : Weft :=
  { w with seg := { w.seg with writes := [], closed := [], start := start, passed := false }, hold := none }

/-- A mismatch at an address is noted; a second one parks the pair once both have walked back. -/
def Segment.mismatched (addr : Dword) (second : Bool) (g : Segment) : Segment :=
  { g with retries := g.retries + 1, diff := addr, mis := if second then some addr else none }

/-- A SOFT fault is noted. -/
def Segment.softened (g : Segment) : Segment := { g with softs := g.softs + 1, diff := 0, mis := none }

/-- The weft walks back to an IC: from the held instruction, or from its trap's resume point in handler mode. `note` says why. -/
def walkBack (s : State) (k : Nat) (start : Dword) (note : Segment → Segment) : State :=
  let w := s.weft k
  let pc := if w.trap.handler then w.trap.resume else resumePc false w
  let w := if w.trap.handler then rejoinAll w else w
  let w := w.dropSegments start
  let g := note w.seg
  if start = w.flow.ic ∧ g.mis.isNone ∧ w.flow.entry ≠ .body then s.setWeft k { w with seg := g }
  else beginWalk (s.setWeft k { w with seg := { g with walk := some start } }) k pc start

/-! ## Uncorrectable errors (R434) -/

/-- The word at offset o of a weft's register region (09_registers_history R198). -/
def Weft.regionWord (w : Weft) (o : Nat) : Word :=
  if o < 0x200 then w.regs.getS (o / 4)
  else if o < 0x240 then let m := w.maskReg ((o - 0x200) / 8); if o % 8 = 0 then lowWord m else highWord m
  else if 0x280 ≤ o ∧ o < 0x2C0 then leWord ((List.range 4).map fun j => if o - 0x280 + j < w.width then w.fflag (o - 0x280 + j) else 0)
  else if 0x400 ≤ o ∧ (o - 0x400) / 4 < w.width * w.regs.alloc then w.regs.getV ((o - 0x400) / 4 / w.width) ((o - 0x400) / 4 % w.width)
  else 0

/-- The weft with another word there. -/
def Weft.setRegionWord (w : Weft) (o : Nat) (x : Word) : Weft :=
  if o < 0x200 then { w with regs := w.regs.setS (o / 4) x }
  else if o < 0x208 then w
  else if o < 0x240 then
    let n := (o - 0x200) / 8
    let m := w.maskReg n
    w.setMaskReg n (if o % 8 = 0 then pairOf x (highWord m) else pairOf (lowWord m) x)
  else if 0x280 ≤ o ∧ o < 0x2C0 then
    (List.range 4).foldl (fun w j => if o - 0x280 + j < w.width then w.setFflag (o - 0x280 + j) (x.extractLsb' (8 * j) 8) else w) w
  else if 0x400 ≤ o ∧ (o - 0x400) / 4 < w.width * w.regs.alloc then
    { w with regs := w.regs.setV ((o - 0x400) / 4 / w.width) ((o - 0x400) / 4 % w.width) x }
  else w

/-- The free words of a damaged line. -/
def freeWords (s : State) : List Word := (List.range 32).map fun j => (Config.freeDword (s.freeTick + j)).setWidth 32

/-- The words of a line with their offsets from `o`. -/
def lineWords (o : Nat) (ws : List Word) : List (Nat × Word) := (List.range ws.length).zip ws |>.map fun x => (o + 4 * x.1, x.2)

/-- The weft whose register region, or history area, holds an image offset, and the offset in it. -/
def State.regionAt (s : State) (t off : Nat) : Option (Nat × Nat) :=
  let a := (s.team t).image + off
  ((List.range (s.team t).nwefts).find? fun i =>
    let b := (s.imageMap t).regs.getD i 0
    decide (b ≤ a) && decide (a < b + regionBytes (s.weft (16 * t + i)))).map fun i => (i, a - (s.imageMap t).regs.getD i 0)

def State.historyAt (s : State) (t off : Nat) : Option (Nat × Nat) :=
  let m := s.imageMap t
  let a := (s.team t).image + off
  if m.hist ≤ a ∧ a < m.hist + m.histb * (s.team t).nwefts ∧ m.histb ≠ 0 then some ((a - m.hist) / m.histb, (a - m.hist) % m.histb) else none

/-- The image holds a good copy of a damaged line: a register line, or a history line, that has not been written since, and a page with
D = 0. A tile or a slot has none. -/
def State.goodCopy (s : State) (t kind off : Nat) : Bool :=
  let a := (s.team t).image + off
  match kind with
  | 1 => match s.regionAt t off with
    | some (i, o) => (List.range 32).all fun j => s.cohWord (a + 4 * j) == (s.weft (16 * t + i)).regionWord (o + 4 * j)
    | none => true
  | 2 => match s.findFrame t ((off - ((s.imageMap t).backb - (s.team t).image)) / 2048) with
    | some (_, _, f) => !f.dirty
    | none => true
  | 3 => match s.historyAt t off with
    | some (i, o) => (List.range 32).all fun j => s.cohWord (a + 4 * j) == (SMap.get zeroH (s.weft (16 * t + i)).hist.words (o / 4 + j)).v
    | none => true
  | _ => false

/-- A damaged line holds nothing that is known: free values. A slot's contents are fetched again at restore. -/
def State.damage (s : State) (t kind off : Nat) : State :=
  let ws := freeWords s
  let s := { s with freeTick := s.freeTick + 32 }
  let m := s.imageMap t
  let a := (s.team t).image + off
  match kind with
  | 1 => match s.regionAt t off with
    | some (i, o) => s.modWeft (16 * t + i) fun w => (lineWords o ws).foldl (fun w x => w.setRegionWord x.1 x.2) w
    | none => s
  | 2 =>
    let P := (a - m.backb) / 2048
    match s.findFrame t P with
    | some (c, i, f) =>
      s.setFrame c i (some { f with data := SMap.write zeroByte f.data ((a - m.backb) % 2048) (ws.flatMap fun w => leBytes 4 w.toNat) })
    | none => s
  | 3 => match s.historyAt t off with
    | some (i, o) => s.modWeft (16 * t + i) fun w =>
        let put := fun (ws : SMap HWord) (x : Nat × Word) =>
          SMap.set zeroH ws (x.1 / 4) { SMap.get zeroH ws (x.1 / 4) with v := x.2 }
        { w with hist := { w.hist with words := (lineWords o ws).foldl put w.hist.words } }
    | none => s
  | 4 =>
    let o := (a - m.matb) % 278528
    s.modCore ((s.team t).core + (a - m.matb) / 278528) fun x =>
      if x.owner ≠ some t then x
      else if o < 262144 then { x with tiles := SMap.write zeroWord x.tiles (o / 4) ws }
      else { x with scales := SMap.write zeroByte x.scales (o - 262144) (ws.flatMap fun w => leBytes 4 w.toNat) }
  | _ => s

/-- An error of a line of a team is met. One that can be is corrected, and counted. Of an uncorrectable one a good copy is fetched again; in
a redundant pair the first one in a segment is masked by a walk back of both members; otherwise the team parks with SOFT. `k` is the weft
that met it. -/
def softError (s : State) (t kind off k : Nat) : State :=
  let unc := s.upsets.contains (.sram t kind off true)
  let s := { s with upsets := s.upsets.erase (.sram t kind off unc) }
  if !unc then countSram s
  else if s.goodCopy t kind off then s
  else
    let x := s.team t
    let ks := if kind = 1 ∨ kind = 3 then [k] else (List.range x.nwefts).map fun i => 16 * t + i
    let live := ks.filter fun k => (s.weft k).status == .live && (s.weft (s.partner k)).status == .live
    if x.member ≠ 0 ∧ x.status = .resident ∧ live.all (fun k => (s.weft k).seg.softs == 0) then
      live.foldl (fun s k =>
        let start := fun j => ((s.weft j).seg.closed.head?.map fun c => c.start).getD (s.weft j).seg.start
        walkBack (walkBack s k (start k) Segment.softened) (s.partner k) (start (s.partner k)) Segment.softened) s
    else
      let w := s.weft k
      let s := s.damage t kind off
      if x.status ≠ .resident then s
      else parkTeam (s.countSat 0xA018 32) t 1
        { cause := Cause.soft.code, cause2 := kind, taddr := BitVec.ofNat 64 off, tpc := w.flow.pc, tic := w.flow.ic, weft := indexOf k }

/-- A damaged line of the page bytes [a, a + n) lie in. -/
def State.spadUpset (s : State) (t a : Nat) : Option Nat :=
  if s.upsets.isEmpty then none
  else
    let off := (s.imageMap t).backb - (s.team t).image + a / 128 * 128
    if s.upsets.contains (.sram t 2 off true) || s.upsets.contains (.sram t 2 off false) then some off else none

end Sys2Proof.Machine
end

