-- ==== Sys2Proof/Machine/Waits.lean ====
section
/-!
DEFINITION. Held instructions that retire (03_encoding R56), the logical clocks that leaving a wait raises (17_determinism R387 to R390), byte
barriers and their waits (08_copy_engine R179 to R182), and writes to the scratchpad, which may end such waits.
-/

namespace Sys2Proof.Machine

/-! ## The end of a hold -/

/-- A held instruction retires with its records (R208). -/
def releaseHold (s : State) (k : Nat) (h : Hold) : State :=
  let w := { (s.weft k) with hold := none }
  let c : Ctx := { k := k, i := { op := 0, u := true, p := none }, active := w.flow.active, zeroed := 0, pc := h.pc, next := h.next }
  retire c w { s := s.setWeft k w, recs := h.recs, noUndo := true }

/-- The weft may leave a hold: it is live and its team is resident. -/
def State.canRelease (s : State) (k : Nat) : Bool :=
  (s.weft k).status == .live && (s.teamOfWeft k).status == .resident

/-! ## Logical clocks -/

/-- The weft runs in a deterministic domain. -/
def State.inDomain (s : State) (k : Nat) : Bool := (s.teamOfWeft k).domain != 0

/-- LC (R388). -/
def Weft.lc (w : Weft) : Dword := w.flow.ic + w.sched.skip

def maxD (a b : Dword) : Dword := if a.toNat < b.toNat then b else a

/-- Leaving a wait whose exit clock is `x`, before the waiting instruction retires: after it LC is the exit clock plus one. In handler
mode the retirement does not advance IC (09_registers_history R214), so SKIP takes the one. -/
def State.leaveWait (s : State) (k : Nat) (x : Dword) : State :=
  if s.inDomain k then
    s.modWeft k fun w =>
      let after := if w.trap.handler then x + 1 else x
      { w with sched := { w.sched with skip := maxD w.sched.skip (after - w.flow.ic), exitClock := none } }
  else s

/-- Release a held weft whose exit clock is `x`. -/
def releaseWait (s : State) (k : Nat) (h : Hold) (x : Dword) : State := releaseHold (s.leaveWait k x) k h

/-- The wefts of a team, as keys. -/
def State.weftsOf (s : State) (t : Nat) : List Nat := (List.range (s.team t).nwefts).map fun i => 16 * t + i

/-! ## Byte barriers (R179 to R183) -/

/-- The four words of a byte barrier. -/
structure BBar where
  head   : Word
  count  : Word
  arrive : Word
  bytes  : Word
  deriving DecidableEq, Repr

def BBar.ofBytes (bs : List Byte) : BBar :=
  { head := leWord bs, count := leWord (bs.drop 4), arrive := leWord (bs.drop 8), bytes := leWord (bs.drop 12) }
def BBar.toBytes (b : BBar) : List Byte := [b.head, b.count, b.arrive, b.bytes].flatMap fun w => leBytes 4 w.toNat
def BBar.phase (b : BBar) : Bool := b.head.getLsbD 0
def BBar.valid (b : BBar) : Bool := b.head.getLsbD 1

/-- The test after every update: with nothing due, the barrier completes (R180). -/
def BBar.test (b : BBar) : BBar :=
  if b.arrive = 0 ∧ b.bytes = 0 then { b with head := b.head ^^^ 1, arrive := b.count } else b

/-- The key under which a team keeps the greatest LC of the arrivals of a barrier's phase (17_determinism R389). -/
def arrivalKey (a : Nat) (phase : Bool) : Nat := a + phase.toNat

def Team.arrivalLc (x : Team) (a : Nat) (phase : Bool) : Dword := SMap.get zeroD x.arrivalsOf (arrivalKey a phase)

/-- No arrival of either phase is known. -/
def Team.clearArrivals (x : Team) (a : Nat) : Team :=
  let m := SMap.set zeroD x.arrivalsOf (arrivalKey a false) 0
  { x with arrivalsOf := SMap.set zeroD m (arrivalKey a true) 0 }

/-- The exit clock of a wait for a phase whose arrivals have all been applied. -/
def State.bbExit (s : State) (k a : Nat) (phase : Bool) : Dword :=
  maxD (s.weft k).lc ((s.teamOfWeft k).arrivalLc a phase)

/-- Release the wefts of the team whose awaited phase is over, and fix the exit clocks of those that wait only for bytes. -/
def wakeBarrier (s : State) (t a : Nat) (b : BBar) : State :=
  (s.weftsOf t).foldl (fun s k =>
    match (s.weft k).hold with
    | none => s
    | some h =>
      match h.kind with
      | .bbwait a' p =>
        if a' ≠ a then s
        else if b.phase != p && s.canRelease k then releaseWait s k h (s.bbExit k a p)
        else if b.phase != p || b.arrive == 0 then
          s.modWeft k fun w => { w with sched := { w.sched with exitClock := some (s.bbExit k a p) } }
        else s
      | _ => s) s

/-! ## Writes to the scratchpad -/

/-- Bytes of a resident page are written. A BB.WAIT of the team on a barrier among them looks at its phase again (R182). -/
def State.spadPut (s : State) (t a : Nat) (bs : List Byte) : State :=
  (s.weftsOf t).foldl (fun s k => match (s.weft k).hold with
    | some { kind := .bbwait b _, .. } =>
      if b < a + bs.length ∧ a < b + 16 then wakeBarrier s t b (BBar.ofBytes (s.spadRead t b 16)) else s
    | _ => s) (s.spadWrite t a bs)

end Sys2Proof.Machine
end

