-- ==== Sys2Proof/Machine/LoadStore.lean ====
section
/-!
DEFINITION. Loads, stores, exchanges, acquire and release, and atomics on global memory and scratchpad: what each does at issue
(07_memory_instructions R143 to R167). A global load, exchange or atomic is checked and translated at issue and performed
when it completes; a global store enters the weft's store queue; scratchpad lanes are performed at issue unless R152
holds them.
-/

namespace Sys2Proof.Machine

/-! ## Addresses and checks -/

def Ctx.addrG (c : Ctx) (w : Weft) (off : Int) (L : Nat) : Dword := addOff ((c.valA w L).setWidth 64) off
def Ctx.addrS (c : Ctx) (w : Weft) (off : Int) (L : Nat) : Nat :=
  ((c.valA w L).setWidth 32 + BitVec.ofInt 32 off : Word).toNat

/-- The lanes that access: those of ACTIVE, or the lowest for a uniform instruction. -/
def Ctx.accessLanes (c : Ctx) (w : Weft) : List Nat := if c.i.u then [lowestLane w.width c.active] else c.lanes w

/-- Lanes faulted for an address, and the context without them. -/
def faultLanes (c : Ctx) (s : State) (cs : Cause) (ls : List (Nat × Dword)) : Ctx × State :=
  if ls.isEmpty then (c, s)
  else ({ c with active := c.active &&& ~~~(maskOf (ls.map fun x => x.1)) },
   s.modWeft c.k fun w => ls.foldl (fun w x => w.laneFault x.1 cs x.2) w)

/-- The stop for a translation fault of a precise access (R145). -/
def xlateStop {α : Type} (f : XFault × Nat × Dword) : Except Stop α :=
  match f.1 with
  | .page => .error (.park .page f.2.2 f.2.1)
  | .prot => .error (.trap .prot f.2.2 f.2.1)

/-- The checks of R145: misaligned lanes fault, and the others are translated; a translation fault in any lane leaves no
effect. The answer holds lane, address, physical address and grain. -/
def globalLanes (c : Ctx) (s : State) (n : Nat) (off : Int) (acc : Acc) :
    Except Stop (List (Nat × Dword × Nat × Nat) × Ctx × State) :=
  let w := s.weft c.k
  let all := (c.accessLanes w).map fun L => (L, c.addrG w off L)
  let bad := all.filter fun x => x.2.toNat % n != 0
  let good := all.filter fun x => x.2.toNat % n == 0
  match s.xlateAll (s.coreOf c.k) (s.ctxOf c.k) acc good with
  | .error f => xlateStop f
  | .ok (accs, s) =>
    let (c, s) := faultLanes c s .align bad
    .ok (accs, c, s)

/-- The checks of R136. The answer holds lane and address. -/
def spadLanes (c : Ctx) (s : State) (n : Nat) (off : Int) : Except Stop (List (Nat × Nat) × Ctx × State) :=
  let w := s.weft c.k
  let t := teamOf c.k
  let S := (s.team t).size
  let all := (c.accessLanes w).map fun L => (L, c.addrS w off L)
  match all.find? fun x => s.spadBad t x.2 with
  | some x => .error (.park .spfault (BitVec.ofNat 64 x.2) x.1)
  | none =>
  match all.findSome? fun x => s.spadUpset t x.2 with
  | some off => .error (.whole (softError s t 2 off c.k))
  | none =>
    let bad := all.filter fun x => x.2 % n != 0
    let beyond := all.filter fun x => x.2 % n == 0 && decide (S ≤ x.2)
    let good := all.filter fun x => x.2 % n == 0 && decide (x.2 < S)
    let addr := fun (x : Nat × Nat) => (x.1, BitVec.ofNat 64 x.2)
    let (c, s) := faultLanes c s .align (bad.map addr)
    let (c, s) := faultLanes c s .spbound (beyond.map addr)
    .ok (good, c, s)

/-! ## Lanes that an MMA's operand read holds (R152, R301) -/

/-- Bytes [a, a + n) meet a line of an operand in scratchpad. -/
def MDesc.hits (m : MDesc) (lines lineBytes a n : Nat) : Bool :=
  !m.slot && (List.range lines).any fun i =>
    let l := m.addr + i * m.ldu * 128
    decide (a < l + lineBytes) && decide (l < a + n)

/-- The MMAs of the team that have not read all their operands and read bytes of [a, a + n), by weft and place in its program order. -/
def State.mmasReading (s : State) (t a n : Nat) : List (Nat × Nat) :=
  s.cores.flatMap fun (_, c) => (c.ops.filter fun o =>
    o.k / 16 == t && o.latched.isNone && match o.kind with
    | .mma fn _ _ _ A gs =>
      A.hits (gs.foldl (fun r g => r + g.rows) 0) 128 a n ||
        gs.any fun g => g.b.hits 128 (if fn = 7 then 512 else 128) a n
    | _ => false).map fun o => (o.k, o.seq)

/-- One of the MMAs of a list is still reading its operands. -/
def State.stillReading (s : State) (ms : List (Nat × Nat)) : Bool :=
  !ms.isEmpty && s.cores.any fun (_, c) => c.ops.any fun o => o.latched.isNone && ms.contains (o.k, o.seq)

/-- A scratchpad lane of the weft that comes before `seq` in program order is still held; later accesses wait (14_consistency R329, R338). -/
def Weft.heldBefore (w : Weft) (seq : Nat) : Bool :=
  (w.stores.any fun e => e.spad && decide (e.seq < seq)) || w.flights.any fun f =>
    decide (f.seq < seq) && (f.op == .xchgs || (match f.op with
      | .atoms _ => true
      | _ => false)) && f.lanes.any fun l => l.val.isNone

def Weft.spadHeld (w : Weft) : Bool := w.heldBefore w.seq

/-! ## Values -/

def valOf (bs : List Byte) : BitVec 128 := BitVec.ofNat 128 (leNat bs)

/-- A loaded value extended to its register (R148). -/
def extendVal (n : Nat) (sx : Bool) (v : BitVec 128) : BitVec 128 :=
  if sx ∧ n < 4 then BitVec.ofInt 128 (sextN v.toNat (8 * n)) &&& 0xFFFFFFFF else v

/-- Program-order number of the next access, and the weft after taking it. -/
def Weft.takeSeq (w : Weft) : Nat × Weft := (w.seq, { w with seq := w.seq + 1 })

/-- The first physical register of d, or the scalar register. -/
def Ctx.dest (c : Ctx) (w : Weft) : Nat := if c.i.u then c.i.d.toNat else physReg w.regs c.i.d.toNat

/-- A load, exchange or atomic on global memory. -/
def FlightOp.global : FlightOp → Bool
  | .load => true
  | .lda _ => true
  | .xchg => true
  | .atom _ => true
  | .acas => true
  | .mirror remote => !remote
  | _ => false

/-- The next place among the accesses that come to a core's L1 (R146). -/
def State.arrive (s : State) (core : Nat) : Nat × State :=
  ((s.core core).arrived, s.modCore core fun c => { c with arrived := c.arrived + 1 })

/-- Put an access in flight on its clause's flag. -/
def launch (c : Ctx) (s : State) (op : FlightOp) (n words : Nat) (sx : Bool) (lanes : List LaneAcc) : State :=
  let (born, s) := if op.global then s.arrive (s.coreOf c.k) else (0, s)
  let w := s.weft c.k
  let (q, w) := w.takeSeq
  let f : Flight := { op := op, seq := q, flag := c.flagNo w, pc := c.pc, ic := w.flow.ic, uni := c.i.u, d := c.dest w
                      words := words, bytes := n, sext := sx, lanes := lanes, zlanes := c.zeroed, born := born }
  s.setWeft c.k ({ w with flights := w.flights ++ [f] }.countFlag (c.flagNo w))

/-! ## LD and LDA (R149, R154) -/

def globalLoad (op : FlightOp) (n : Nat) (sx : Bool) (off : Int) (c : Ctx) (s : State) : Except Stop Eff :=
  match globalLanes c s n off .read with
  | .error e => .error e
  | .ok (accs, c, s) =>
    let recs := destRecs (s.weft c.k) c
    let lanes := accs.map fun x => ({ lane := x.1, va := x.2.1, pa := x.2.2.1, gr := x.2.2.2 } : LaneAcc)
    .ok { s := launch c s op n c.i.dk.words sx lanes, recs := recs }

/-! ## LDS (R149, R136) -/

/-- The lanes of an access by beats of 16 (02_threads R25). -/
def beatsOf {α : Type} (ls : List (Nat × α)) : List (List (Nat × α)) :=
  ((List.range 4).map fun b => ls.filter fun x => x.1 / 16 == b).filter fun l => !l.isEmpty

/-- An access is performed beat by beat, each with all its frames (06_core_memory R136, R138), and in ascending lanes: `f` performs a lane
at its address, with its operand, and gives its answer. -/
def runBeats {α β : Type} (t core : Nat) (f : Nat → Nat × α → State → β × State) :
    List (List (Nat × Nat × α)) → State → Except Stop (List β × State)
  | [], s => .ok ([], s)
  | beat :: rest, s =>
    match s.bringPages t core (beat.map fun x => x.2.1 / 2048) with
    | .error e => .error e
    | .ok s =>
      let r := beat.foldl (fun (r : List β × State) x => let y := f x.1 x.2 r.2; (r.1 ++ [y.1], y.2)) ([], s)
      match runBeats t core f rest r.2 with
      | .error e => .error e
      | .ok (ys, s) => .ok (r.1 ++ ys, s)

/-- Lanes and addresses without operands. -/
def bare (accs : List (Nat × Nat)) : List (Nat × Nat × Unit) := accs.map fun x => (x.1, x.2, ())

def spadLoad (n : Nat) (sx : Bool) (off : Int) (c : Ctx) (s : State) : Except Stop Eff :=
  if (s.weft c.k).spadHeld then .error .stay
  else match spadLanes c s n off with
  | .error e => .error e
  | .ok (accs, c, s) =>
    let t := teamOf c.k
    let read := fun (L : Nat) (x : Nat × Unit) (s : State) =>
      (({ lane := L, va := BitVec.ofNat 64 x.1, pa := x.1, val := some (valOf (s.spadRead t x.1 n)) } : LaneAcc), s)
    match runBeats t (s.coreOf c.k) read (beatsOf (bare accs)) s with
    | .error e => .error e
    | .ok (lanes, s) =>
      let recs := destRecs (s.weft c.k) c
      .ok { s := launch c s .lds n c.i.dk.words sx lanes, recs := recs }

/-! ## Stores -/

/-- The halves of a store's bytes that have records of their own, highest first: .b128 has two (R151). -/
def storeHalves (n : Nat) : List (Nat × Nat) := if n = 16 then [(8, 8), (0, 8)] else [(0, n)]

/-- The history kind of a store's records, and payload words for each lane. -/
def storeKind (spad : Bool) (n : Nat) : Nat × Nat :=
  (if spad then kSpad32 else if 8 ≤ n then kMem64 else kMem32, if 8 ≤ n then 2 else 1)

/-- Bytes of a lane's data register. -/
def Ctx.storeData (c : Ctx) (w : Weft) (n L : Nat) : List Byte := leBytes n (c.valD w L).toNat

/-- The places of a store's headers and payloads on the stack, in words from A0, when its records are pushed at `top`: for each
half the header and the first payload word. -/
def storePlaces (spad : Bool) (n lanes top : Nat) : List (Nat × Nat) :=
  let pw := (storeKind spad n).2
  (List.range (storeHalves n).length).map fun i => (top + i * (4 + pw * lanes), top + i * (4 + pw * lanes) + 3)

/-- A store's records with payloads still to be filled in, for its lanes. -/
def storeRecs (spad : Bool) (n lanes : Nat) (mask : Mask) (fill : Nat → List (List Word)) : List Rec :=
  let (kind, _) := storeKind spad n
  (List.range (storeHalves n).length).map fun h =>
    { kind := kind, mask := mask, payload := plain ((List.range lanes).flatMap fun i => (fill i).getD h []) }

/-- Payload of zeros, for a store whose old bytes are taken at its order point. -/
def blankFill (n : Nat) (_ : Nat) : List (List Word) := (storeHalves n).map fun _ => if 8 ≤ n then [0, 0] else [0]

/-- The words of a store's old bytes, by half: the aligned word that holds them, or two words (R151). -/
def oldWords (read : Nat → Nat → List Byte) (n a : Nat) : List (List Word) :=
  (storeHalves n).map fun h =>
    if 8 ≤ n then [leWord (read (a + h.1) 4), leWord (read (a + h.1 + 4) 4)]
    else [leWord (read (a / 4 * 4) 4)]

/-- Entries of the store queue that a global store made (R146). -/
def Weft.queueLen (w : Weft) : Nat := (w.stores.filter fun e => !e.spad).length

/-- The pieces of a store entry, with the places of their old bytes when records are pushed. -/
def storePieces (n : Nat) (top : Option Nat) (lanes : List (Nat × Dword × List Byte)) : List Piece :=
  let pw := (storeKind false n).2
  let places := storePlaces false n lanes.length (top.getD 0)
  (List.range lanes.length).flatMap fun i =>
    match lanes[i]? with
    | none => []
    | some (L, va, bs) =>
      (List.range (storeHalves n).length).map fun h =>
        let (off, m) := (storeHalves n).getD h (0, n)
        { lane := L, va := va + BitVec.ofNat 64 off, data := (bs.drop off).take m
          hist := top.map fun _ => (places.getD h (0, 0)).2 + pw * i }

/-- The headers of a store's records that are pushed at `top`. -/
def storeHdrs (n lanes : Nat) (top : Option Nat) : List Nat :=
  match top with
  | some tp => (storePlaces false n lanes tp).map fun x => x.1
  | none => []

/-- The segment's writes with those of a member's store, and no count on a flag (R432, R459). -/
def segStore (w : Weft) (pc : Dword) (n q : Nat) (top : Option Nat) (lanes : List (Nat × Dword × List Byte)) : Weft :=
  let ps := storePieces n top lanes
  let hdrs := storeHdrs n lanes.length top
  let ws : List SegWrite := lanes.map fun x =>
    { seq := q, ic := w.flow.ic, va := x.2.1, size := BitVec.ofNat 8 n, data := x.2.2, pc := pc, hdrs := hdrs
      pieces := ps.filter fun p => p.lane == x.1 }
  { w with seg := { w.seg with writes := w.seg.writes ++ ws } }

/-- ST: alignment faults, records, and an entry of the store queue counted on flag B (R150). In a redundant pair the data goes
to the compare buffer or the member's kept writes (R432), after an implicit checkpoint when its share would be passed
(R431). -/
def globalStore (n : Nat) (off : Int) (c : Ctx) (s : State) : Except Stop Eff :=
  let w := s.weft c.k
  let all := (c.accessLanes w).map fun L => (L, c.addrG w off L)
  let bad := all.filter fun x => x.2.toNat % n != 0
  let good := all.filter fun x => x.2.toNat % n == 0
  let member := s.member c.k
  if member = 0 ∧ 32 ≤ w.queueLen then .error .stay
  else
    -- an implicit checkpoint ends the segment before a store that would pass its share (R431)
    let s := if member ≠ 0 ∧ 256 < w.seg.writes.length + good.length then s.setWeft c.k (w.closeSeg 1 [] w.flow.ic) else s
    let (c, s) := faultLanes c s .align bad
    let w := s.weft c.k
    let lanes := good.map fun x => (x.1, x.2, c.storeData w n x.1)
    let mask := if good.isEmpty then 0 else c.active
    let recs := storeRecs false n lanes.length mask (blankFill n)
    let top := if w.recording then some w.hist.top else none
    let (q, w) := w.takeSeq
    if member ≠ 0 then .ok { s := s.setWeft c.k (segStore w c.pc n q top lanes), recs := recs, noUndo := true }
    -- a store without a lane is complete
    else if lanes.isEmpty then .ok { s := s, recs := recs, noUndo := true }
    else
      let e : StoreEntry := { seq := q, pc := c.pc, ic := w.flow.ic, flag := some (c.flagNo w), hdrs := storeHdrs n lanes.length top
                              pieces := storePieces n top lanes }
      .ok { s := s.setWeft c.k ({ w with stores := w.stores ++ [e] }.countFlag (c.flagNo w)), recs := recs, noUndo := true }

/-- The pieces of an STS's held lanes, with the MMAs that they wait for (R152). -/
def heldPieces (n : Nat) (top : Option Nat) (accs : List (Nat × Nat)) (heldL : List (Nat × Nat × List Byte × List (Nat × Nat))) : List Piece :=
  let places := storePlaces true n accs.length (top.getD 0)
  let pw := (storeKind true n).2
  let idx := fun (L : Nat) => accs.findIdx fun x => x.1 == L
  heldL.flatMap fun x => (List.range (storeHalves n).length).map fun h =>
    let (off, m) := (storeHalves n).getD h (0, n)
    { lane := x.1, va := BitVec.ofNat 64 (x.2.1 + off), pa := x.2.1 + off, data := (x.2.2.1.drop off).take m, waits := x.2.2.2
      hist := top.map fun _ => (places.getD h (0, 0)).2 + pw * idx x.1 }

/-- STS: performed at retirement, but for the lanes that an MMA's operand read holds (R150, R152). -/
def spadStore (n : Nat) (off : Int) (c : Ctx) (s : State) : Except Stop Eff :=
  if (s.weft c.k).spadHeld then .error .stay
  else match spadLanes c s n off with
  | .error e => .error e
  | .ok (accs, c, s) =>
    let t := teamOf c.k
    let core := s.coreOf c.k
    let old := fun (_ : Nat) (x : Nat × Unit) (s : State) => (oldWords (fun a m => s.spadRead t a m) n x.1, s)
    match runBeats t core old (beatsOf (bare accs)) s with
    | .error e => .error e
    | .ok (olds, s) =>
      let w := s.weft c.k
      let mask := if accs.isEmpty then 0 else c.active
      let recs := storeRecs true n accs.length mask fun i => olds.getD i []
      let data := accs.map fun x => (x.1, x.2, c.storeData w n x.1, s.mmasReading t x.2 n)
      let heldL := data.filter fun x => !x.2.2.2.isEmpty
      let write := fun (_ : Nat) (x : Nat × List Byte × List (Nat × Nat)) (s : State) => ((), s.spadPut t x.1 x.2.1)
      match runBeats t core write (beatsOf (data.filter fun x => x.2.2.2.isEmpty)) s with
      | .error e => .error e
      | .ok (_, s) =>
        if heldL.isEmpty then .ok { s := s, recs := recs, noUndo := true }
        else
          let w := s.weft c.k
          let (q, w) := w.takeSeq
          let e : StoreEntry := { seq := q, pc := c.pc, ic := w.flow.ic, flag := some (c.flagNo w), entered := true, spad := true
                                  pieces := heldPieces n (if w.recording then some w.hist.top else none) accs heldL }
          .ok { s := s.setWeft c.k ({ w with stores := w.stores ++ [e] }.countFlag (c.flagNo w)), recs := recs, noUndo := true }

/-! ## Exchanges (R153) -/

def globalXchg (n : Nat) (off : Int) (c : Ctx) (s : State) : Except Stop Eff :=
  match globalLanes c s n off .write with
  | .error e => .error e
  | .ok (accs, c, s) =>
    let w := s.weft c.k
    let lanes := accs.map fun x => ({ lane := x.1, va := x.2.1, pa := x.2.2.1, gr := x.2.2.2, x := c.valD w x.1 } : LaneAcc)
    .ok { s := launch c s .xchg n c.i.dk.words false lanes, noUndo := true }

/-- A lane of a scratchpad exchange or atomic: `f` gives the new value from the old one; a held lane is left for its completion, with the
MMAs that it waits for (R147, R152). -/
def spadRmw (t n : Nat) (f : Nat → BitVec 128 → BitVec 128) (L : Nat) (x : Nat × Unit) (s : State) : LaneAcc × State :=
  let ms := s.mmasReading t x.1 n
  let o := valOf (s.spadRead t x.1 n)
  let l : LaneAcc := { lane := L, va := BitVec.ofNat 64 x.1, pa := x.1, waits := ms, val := if ms.isEmpty then some o else none }
  (l, if ms.isEmpty then s.spadPut t x.1 (leBytes n (f L o).toNat) else s)

def spadXchg (n : Nat) (off : Int) (c : Ctx) (s : State) : Except Stop Eff :=
  if (s.weft c.k).spadHeld then .error .stay
  else match spadLanes c s n off with
  | .error e => .error e
  | .ok (accs, c, s) =>
    let w := s.weft c.k
    match runBeats (teamOf c.k) (s.coreOf c.k) (spadRmw (teamOf c.k) n fun L _ => c.valD w L) (beatsOf (bare accs)) s with
    | .error e => .error e
    | .ok (ls, s) =>
      .ok { s := launch c s .xchgs n c.i.dk.words false (ls.map fun l => { l with x := c.valD w l.lane }), noUndo := true }

/-! ## Atomics (R163 to R167) -/

/-- AADD of floating values: exact, nearest even, FMODE ignored (R165). -/
def atomicFadd (code : Nat) (o x : BitVec 128) : BitVec 128 :=
  let t := ffmt code
  let v : FEnv := { rm := 1, ftzi := false, ftzo := false, satn := false, dith := 0 }
  let get := fun (y : BitVec 128) => t.decode (y.toNat % 2 ^ t.bits)
  BitVec.ofNat 128 (fAdd t v (get o) (get x)).bits

/-- The new memory value from the old one and the operand, by function code, for n bytes. -/
def atomicNew (fn n : Nat) (o x : BitVec 128) : BitVec 128 :=
  let so := sextN o.toNat (8 * n)
  let sx := sextN x.toNat (8 * n)
  match fn with
  | 0 => BitVec.ofNat 128 ((o.toNat + x.toNat) % 2 ^ (8 * n))
  | 1 => atomicFadd (if n = 8 then 5 else 4) o x
  | 2 => if so ≤ sx then o else x
  | 3 => if so ≤ sx then x else o
  | 4 => o &&& x
  | 5 => o ||| x
  | 6 => o ^^^ x
  | _ => x

/-- A flight that takes its result from the partner's performance, local or remote (R432 item 4). -/
def mirrorLaunch (c : Ctx) (s : State) (remote : Bool) (n words : Nat) (lanes : List LaneAcc) : Eff :=
  { s := launch c s (.mirror remote) n words false lanes, noUndo := true }

def globalAtomic (op : FlightOp) (n : Nat) (c : Ctx) (s : State) : Except Stop Eff :=
  match globalLanes c s n 0 .write with
  | .error e => .error e
  | .ok (accs, c, s) =>
    let w := s.weft c.k
    if s.member c.k = 2 then
      .ok (mirrorLaunch c s false n c.i.dk.words (accs.map fun x => { lane := x.1, va := x.2.1, pa := x.2.2.1, gr := x.2.2.2 }))
    else
      let lanes := accs.map fun x =>
        let cas := op == .acas
        ({ lane := x.1, va := x.2.1, pa := x.2.2.1, gr := x.2.2.2
           x := if cas then (if c.i.p.isSome then c.valC w x.1 else c.valD w x.1) else c.valB w x.1
           y := if cas then (c.valB w x.1).setWidth 64 else 0 } : LaneAcc)
      .ok { s := launch c s op n c.i.dk.words false lanes, noUndo := true }

def spadAtomic (fn : Nat) (c : Ctx) (s : State) : Except Stop Eff :=
  if (s.weft c.k).spadHeld then .error .stay
  else match spadLanes c s 4 0 with
  | .error e => .error e
  | .ok (accs, c, s) =>
    let w := s.weft c.k
    match runBeats (teamOf c.k) (s.coreOf c.k) (spadRmw (teamOf c.k) 4 fun L o => atomicNew fn 4 o (c.valB w L)) (beatsOf (bare accs)) s with
    | .error e => .error e
    | .ok (ls, s) =>
      .ok { s := launch c s (.atoms fn) 4 1 false (ls.map fun l => { l with x := c.valB w l.lane }), noUndo := true }

/-! ## The instructions -/

def formMem (p : Option Prefix) (op fn : Nat) (u : Bool) (d a : Reg) (i : BitVec 7) : Info := formA p op fn u d a i

/-- The offset of format M, in bytes. -/
def offM (p : Option Prefix) (i : BitVec 7) (n : Nat) : Int := immM p i * n

/-- Sizes 0 and 2 sign-extend (R148). -/
def loadSext (sz : BitVec 3) : Bool := sz == 0 || sz == 2

/-- LD (R149) -/
def execLd (p : Option Prefix) (sz : BitVec 3) (u : Bool) (d a : Reg) (i : BitVec 7) (s : State) :
    Host.Outcome State Fault Refusal :=
  let n := szBytes sz.toNat
  issueMem (formMem p 0x38 sz.toNat u d a i) (globalLoad .load n (loadSext sz) (offM p i n)) s
/-- ST (R150) -/
def execSt (p : Option Prefix) (sz : BitVec 3) (u : Bool) (d a : Reg) (i : BitVec 7) (s : State) :
    Host.Outcome State Fault Refusal :=
  let n := szBytes sz.toNat
  issue (formMem p 0x39 sz.toNat u d a i) (globalStore n (offM p i n)) s
/-- LDS (R149) -/
def execLds (p : Option Prefix) (sz : BitVec 3) (u : Bool) (d a : Reg) (i : BitVec 7) (s : State) :
    Host.Outcome State Fault Refusal :=
  let n := szBytes sz.toNat
  issueMem (formMem p 0x3A sz.toNat u d a i) (spadLoad n (loadSext sz) (offM p i n)) s
/-- STS (R150) -/
def execSts (p : Option Prefix) (sz : BitVec 3) (u : Bool) (d a : Reg) (i : BitVec 7) (s : State) :
    Host.Outcome State Fault Refusal :=
  let n := szBytes sz.toNat
  issueMem (formMem p 0x3B sz.toNat u d a i) (spadStore n (offM p i n)) s

/-- The size code of a two-size form: 4 for .b32, 5 for .b64. -/
def szCode (x : Bool) : Nat := if x then 5 else 4

/-- XCHG (R153) -/
def execXchg (p : Option Prefix) (sz u : Bool) (d a : Reg) (i : BitVec 7) (s : State) : Host.Outcome State Fault Refusal :=
  let n := szBytes (szCode sz)
  issueMem (formMem p 0x3C (szCode sz) u d a i) (globalXchg n (offM p i n)) s
/-- XCHGS (R153) -/
def execXchgs (p : Option Prefix) (sz u : Bool) (d a : Reg) (i : BitVec 7) (s : State) : Host.Outcome State Fault Refusal :=
  let n := szBytes (szCode sz)
  issueMem (formMem p 0x3D (szCode sz) u d a i) (spadXchg n (offM p i n)) s
/-- LDA (R154) -/
def execLda (p : Option Prefix) (sc : BitVec 2) (sz u : Bool) (d a : Reg) (i : BitVec 7) (s : State) :
    Host.Outcome State Fault Refusal :=
  let n := szBytes (szCode sz)
  issueMem (formMem p 0x3E (2 * sc.toNat + sz.toNat) u d a i) (globalLoad (.lda sc.toNat) n false (offM p i n)) s

def atomBytes (t : Bool) : Nat := if t then 8 else 4

def issueAtom (fn : Nat) (p : Option Prefix) (t u : Bool) (d a b : Reg) (s : State) : Host.Outcome State Fault Refusal :=
  issueMem (formA p (opT2 t) fn u d a b) (globalAtomic (.atom fn) (atomBytes t)) s
where opT2 (t : Bool) : Nat := if t then 0x49 else 0x48

/-- AADD.i (R163) -/
def execAaddI (p : Option Prefix) (t u : Bool) (d a b : Reg) (s : State) : Host.Outcome State Fault Refusal := issueAtom 0 p t u d a b s
/-- AADD.f (R165) -/
def execAaddF (p : Option Prefix) (t u : Bool) (d a b : Reg) (s : State) : Host.Outcome State Fault Refusal := issueAtom 1 p t u d a b s
/-- AMIN (R163) -/
def execAminI (p : Option Prefix) (t u : Bool) (d a b : Reg) (s : State) : Host.Outcome State Fault Refusal := issueAtom 2 p t u d a b s
/-- AMAX (R163) -/
def execAmaxI (p : Option Prefix) (t u : Bool) (d a b : Reg) (s : State) : Host.Outcome State Fault Refusal := issueAtom 3 p t u d a b s
/-- AAND (R163) -/
def execAand (p : Option Prefix) (t u : Bool) (d a b : Reg) (s : State) : Host.Outcome State Fault Refusal := issueAtom 4 p t u d a b s
/-- AOR (R163) -/
def execAor (p : Option Prefix) (t u : Bool) (d a b : Reg) (s : State) : Host.Outcome State Fault Refusal := issueAtom 5 p t u d a b s
/-- AXOR (R163) -/
def execAxor (p : Option Prefix) (t u : Bool) (d a b : Reg) (s : State) : Host.Outcome State Fault Refusal := issueAtom 6 p t u d a b s
/-- AXCH (R163) -/
def execAxch (p : Option Prefix) (t u : Bool) (d a b : Reg) (s : State) : Host.Outcome State Fault Refusal := issueAtom 7 p t u d a b s
/-- ACAS.b32 (R164) -/
def execAcasB32 (p : Option Prefix) (u : Bool) (d a b : Reg) (s : State) : Host.Outcome State Fault Refusal :=
  issueMem (formA p 0x4A 0 u d a b) (globalAtomic .acas 4) s
/-- ACAS.b64 (R164) -/
def execAcasB64 (p : Option Prefix) (u : Bool) (d a b : Reg) (s : State) : Host.Outcome State Fault Refusal :=
  issueMem (formA p 0x4A 1 u d a b) (globalAtomic .acas 8) s

def issueAtoms (fn : Nat) (p : Option Prefix) (u : Bool) (d a b : Reg) (s : State) : Host.Outcome State Fault Refusal :=
  issueMem (formA p 0x4B fn u d a b) (spadAtomic fn) s

/-- AADDS.i32 (R163) -/
def execAaddsI32 (p : Option Prefix) (u : Bool) (d a b : Reg) (s : State) : Host.Outcome State Fault Refusal := issueAtoms 0 p u d a b s
/-- AADDS.f32 (R165) -/
def execAaddsF32 (p : Option Prefix) (u : Bool) (d a b : Reg) (s : State) : Host.Outcome State Fault Refusal := issueAtoms 1 p u d a b s
/-- AMINS (R163) -/
def execAminsI (p : Option Prefix) (u : Bool) (d a b : Reg) (s : State) : Host.Outcome State Fault Refusal := issueAtoms 2 p u d a b s
/-- AMAXS (R163) -/
def execAmaxsI (p : Option Prefix) (u : Bool) (d a b : Reg) (s : State) : Host.Outcome State Fault Refusal := issueAtoms 3 p u d a b s
/-- AANDS (R163) -/
def execAands (p : Option Prefix) (u : Bool) (d a b : Reg) (s : State) : Host.Outcome State Fault Refusal := issueAtoms 4 p u d a b s
/-- AORS (R163) -/
def execAors (p : Option Prefix) (u : Bool) (d a b : Reg) (s : State) : Host.Outcome State Fault Refusal := issueAtoms 5 p u d a b s
/-- AXORS (R163) -/
def execAxors (p : Option Prefix) (u : Bool) (d a b : Reg) (s : State) : Host.Outcome State Fault Refusal := issueAtoms 6 p u d a b s
/-- AXCHS (R163) -/
def execAxchs (p : Option Prefix) (u : Bool) (d a b : Reg) (s : State) : Host.Outcome State Fault Refusal := issueAtoms 7 p u d a b s

end Sys2Proof.Machine
end

