-- ==== Sys2Proof/Machine/MemEvents.lean ====
section
/-!
DEFINITION. What becomes of memory instructions after they issue: the store queue (07_memory_instructions R146, R150), the
performance and completion of loads, exchanges and atomics under 14_consistency R328 and R329, fences (R156 to R158),
STL (R155) and cache maintenance (R159 to R162).
-/

namespace Sys2Proof.Machine

/-! ## Program order within a weft (R328) -/

/-- A load, exchange or atomic on global memory that has not bound its value. -/
def Flight.globalLoad (f : Flight) : Bool := f.op.global

/-- It writes memory as well. -/
def Flight.rmw (f : Flight) : Bool :=
  match f.op with
  | .xchg => true
  | .atom _ => true
  | .acas => true
  | _ => false

def Flight.isLda (f : Flight) : Bool :=
  match f.op with
  | .lda _ => true
  | _ => false

def Weft.earlierLoads (w : Weft) (seq : Nat) : List Flight := w.flights.filter fun f => f.globalLoad && decide (f.seq < seq)

def sameUnit (a ga b gb : Nat) : Bool := unitBase a (max ga gb) == unitBase b (max ga gb)

/-- The physical address and grain of a queued piece, by its own translation or the one that stands. -/
def State.pieceUnit (s : State) (k : Nat) (e : StoreEntry) (p : Piece) : Option (Nat × Nat) :=
  if e.entered then some (p.pa, p.gr)
  else match s.lookup (clusterOf (s.coreOf k)) (s.ctxOf k) .write p.va with
  | .ok t => some (t.pa p.va, t.grain)
  | .error _ => none

/-- A store of the weft before `seq` to the unit of an address has not reached its order point. -/
def State.storeBefore (s : State) (k seq pa gr : Nat) : Bool :=
  (s.weft k).stores.any fun e => !e.spad && decide (e.seq < seq) && e.pieces.any fun p => !p.done &&
    match s.pieceUnit k e p with
    | some (a, g) => sameUnit a g pa gr
    | none => false

/-- The bytes of the weft's own writes before `seq` that are still to be performed, in program order: physical address and
data (R146, R432). -/
def State.ownWrites (s : State) (k seq : Nat) : List (Nat × List Byte) :=
  let w := s.weft k
  let phys := fun (va : Dword) => match s.lookup (clusterOf (s.coreOf k)) (s.ctxOf k) .read va with
    | .ok t => some (t.pa va)
    | .error _ => none
  let pending := !((s.weft (s.partner k)).stores.isEmpty)
  let seg := (if pending then w.seg.kept else []) ++ (w.seg.closed.flatMap fun x => x.writes) ++ w.seg.writes
  let segW := (seg.filter fun x => decide (x.seq < seq)).filterMap fun x => (phys x.va).map fun a => (a, x.data)
  let q := (w.stores.filter fun e => !e.spad && decide (e.seq < seq)).flatMap fun e =>
    (e.pieces.filter fun p => !p.done).filterMap fun p => (s.pieceUnit k e p).map fun u => (u.1, p.data)
  (if s.member k = 0 then [] else segW) ++ q

/-- Bytes read at `pa` with those writes laid over them. -/
def overlay (ws : List (Nat × List Byte)) (pa : Nat) (bs : List Byte) : List Byte :=
  (List.range bs.length).map fun i =>
    ws.foldl (fun v x => if x.1 ≤ pa + i ∧ pa + i < x.1 + x.2.length then x.2.getD (pa + i - x.1) v else v) (bs.getD i 0)

/-- A store of another weft of the core to the unit of an address has entered the L1 and is still to be performed, and an access that came
`born`-th to the L1 waits for it: the store was released at .t (R334, R335), or had entered before (R146). -/
def State.otherBefore (s : State) (k pa gr born : Nat) : Bool :=
  s.wefts.any fun (k', w') => k' != k && !w'.stores.isEmpty && s.coreOf k' == s.coreOf k && w'.stores.any fun e =>
    e.entered && !e.spad && (e.released || decide (e.born < born)) && e.pieces.any fun p => !p.done && sameUnit p.pa p.gr pa gr

/-- A core other than the weft's wrote one of the bytes [pa, pa + n) and has stores that it has released at .t and not performed: they come
before an LDA.dr (R154). -/
def State.promoted (s : State) (k pa n : Nat) : Bool :=
  (List.range n).any fun i =>
    let c := SMap.get zeroNat s.coh.writers (pa + i)
    c != 0 && c - 1 != s.coreOf k && s.wefts.any fun (k', w') =>
      s.coreOf k' == c - 1 && w'.stores.any fun e => e.released && !e.spad

/-- A load, exchange or atomic may be performed now, so far as the order among accesses goes. -/
def State.mayPerform (s : State) (k : Nat) (f : Flight) : Bool :=
  let w := s.weft k
  let before := w.earlierLoads f.seq
  let same := fun (e : Flight) => e.lanes.any fun x => f.lanes.any fun y => sameUnit x.pa x.gr y.pa y.gr
  !(before.any Flight.isLda) && !(before.any same)
    && !(f.lanes.any fun l => s.otherBefore k l.pa l.gr f.born)
    && (!f.rmw || (before.isEmpty && !(f.lanes.any fun l => s.storeBefore k f.seq l.pa l.gr)))
    && (f.op != .lda 3 || !(f.lanes.any fun l => s.promoted k l.pa f.bytes))

/-! ## Performing (R147, R153, R164, R166) -/

/-- A read-modify-write at the home: the unit's copies are gathered, or in a non-coherent range the core writes back and drops
its sector (R166). -/
def State.homeRmw (s : State) (core ctx pa gr n : Nat) (f : BitVec 128 → BitVec 128) : BitVec 128 × State :=
  let s := if s.rangeMode ctx pa = 0 then s.gather (unitBase pa gr) gr
    else ((s.shedLines fun l => l.core == core && l.covers pa).settled pa n).ncFlush core (NcSector.within (pa / 32 * 32) (pa / 32 * 32 + 32)) true true
  let s := (s.l2Read pa n).2
  let o := valOf (s.readMem pa n)
  let bs := leBytes n (f o).toNat
  (o, if s.rangeMode ctx pa = 0 then (s.homeWrite pa bs).frameTouch pa true else s.homePut pa bs)

/-- Perform one lane: the value bound and the state after it. -/
def performLane (k : Nat) (f : Flight) (own : List (Nat × List Byte)) (l : LaneAcc) (s : State) : BitVec 128 × State :=
  let core := s.coreOf k
  let ctx := s.ctxOf k
  match f.op with
  | .xchg =>
    let (bs, s) := s.coreSwap core ctx l.va l.pa l.gr (leBytes f.bytes l.x.toNat)
    (valOf bs, s)
  | .atom fn => s.homeRmw core ctx l.pa l.gr f.bytes fun o => atomicNew fn f.bytes o l.x
  | .acas => s.homeRmw core ctx l.pa l.gr f.bytes fun o => if o.toNat = l.y.toNat % 2 ^ (8 * f.bytes) then l.x else o
  | _ =>
    let (bs, s) := s.coreRead core ctx l.va l.pa l.gr f.bytes
    (valOf (overlay own l.pa bs), s)

/-- Perform every lane in ascending order. -/
def performAll (k : Nat) (f : Flight) (own : List (Nat × List Byte)) : List LaneAcc → State → List LaneAcc × State
  | [], s => ([], s)
  | l :: rest, s =>
    let (v, s) := performLane k f own l s
    let (ls, s) := performAll k f own rest s
    ({ l with val := some v } :: ls, s)

/-- The new value of a held scratchpad lane. -/
def Flight.spadNew (f : Flight) (l : LaneAcc) (o : BitVec 128) : BitVec 128 :=
  match f.op with
  | .atoms fn => atomicNew fn f.bytes o l.x
  | _ => l.x

/-- A held lane is performed. -/
def heldLane (t : Nat) (f : Flight) (l : LaneAcc) (s : State) : LaneAcc × State :=
  let o := valOf (s.spadRead t l.pa f.bytes)
  ({ l with val := some o }, s.spadPut t l.pa (leBytes f.bytes (f.spadNew l o).toNat))

/-- The held scratchpad lanes whose MMAs have read their operands are performed, in ascending order (R152); lanes of one address are held
alike. It stays while there are none. -/
def performSpad (k : Nat) (f : Flight) (s : State) : Except Stop (List LaneAcc × State) :=
  let held := f.lanes.filter fun l => l.val.isNone
  let free := held.filter fun l => !s.stillReading l.waits
  if free.isEmpty ∧ !held.isEmpty then .error .stay
  else
    let t := teamOf k
    match runBeats t (s.coreOf k) (fun _ (x : Nat × LaneAcc) s => heldLane t f x.2 s) (beatsOf (free.map fun l => (l.lane, l.pa, l))) s with
    | .error e => .error e
    | .ok (ls, s) => .ok (f.lanes.map fun l => (ls.find? fun x => x.lane == l.lane).getD l, s)

/-- Write the destinations of a flight, zero those of z, and count its flag down (R56). -/
def finishFlight (s : State) (k j : Nat) (f : Flight) : State :=
  s.modWeft k fun w =>
    let w := f.lanes.foldl (fun w l => match l.val with
      | some v => f.put w l.lane (extendVal f.bytes f.sext v)
      | none => w) w
    let w := (lanesOf w.width f.zlanes).foldl (fun w L => f.put w L 0) w
    { w with flights := w.flights.eraseIdx j }.dropFlag f.flag

/-- What the leading member's performance gives its partner (R432 item 4). -/
def State.giveResult (s : State) (k : Nat) (ic : Dword) (vals : List (Nat × BitVec 128)) (bytes : List Byte)
    (faults : List (Nat × Cause) := []) : State :=
  if s.member k = 1 then
    let r : SegResult := { ic := ic, vals := vals, faults := faults, bytes := bytes }
    s.modWeft (s.partner k) fun w => { w with seg := { w.seg with results := w.seg.results ++ [r] } }
  else s

/-- The result that the partner has given for an IC. -/
def Weft.resultOf (w : Weft) (ic : Dword) : Option SegResult := w.seg.results.find? fun r => r.ic == ic
def Weft.dropResult (w : Weft) (ic : Dword) : Weft :=
  { w with seg := { w.seg with results := w.seg.results.filter fun r => r.ic != ic } }

def laneVals (ls : List LaneAcc) : List (Nat × BitVec 128) := ls.filterMap fun l => l.val.map fun v => (l.lane, v)

/-- An imprecise fault of a retired operation of a weft: it waits for its delivery point, or is reported as ORPHAN when the
weft has ended (18_traps R405, R419). -/
def State.imprecise (s : State) (k : Nat) (x : Impr) : State :=
  let w := s.weft k
  if w.status = .live then s.setWeft k { w with trap := { w.trap with impr := w.trap.impr ++ [x] } }
  else
    let t := s.teamOfWeft k
    s.report
      { kind := 3, cause := Cause.orphan.code, cause2 := x.cause.code, tpc := x.pc, tic := x.ic, taddr := x.addr
        tlane := BitVec.ofNat 32 x.lane, launch := t.task.launch, tag := t.task.tag, team := t.teamIx, weft := indexOf k
        origin := t.task.origin.toNat, preds := t.task.preds, ctx := t.ctx }

/-- The lane faults that the answers to an access brought: an imprecise fault of the access, taken before the clause that waits
on its flag (R170, R172). -/
def remoteFaults (s : State) (k : Nat) (f : Flight) : State :=
  let bad := f.lanes.filter fun l => l.cause.isSome
  match bad with
  | [] => s
  | l :: _ => s.imprecise k { cause := l.cause.getD .prot, pc := f.pc, ic := f.ic, lane := l.lane
                              mask := maskOf (bad.map fun l => l.lane), addr := l.va, gate := some f.flag }

/-- A scratchpad access whose lanes have all been performed completes. -/
def finishSpad (k j : Nat) (f : Flight) (s : State) : Except Stop State :=
  (performSpad k f s).map fun r =>
    let f := { f with lanes := r.1 }
    if r.1.all fun l => l.val.isSome then finishFlight r.2 k j f
    else r.2.modWeft k fun w => { w with flights := w.flights.set j f }

/-- Completion of a local access in flight; it stays while it may not be performed. -/
def completeLocal (s : State) (k j : Nat) (f : Flight) : Except Stop State :=
  match f.op with
  | .lds => .ok (finishFlight s k j f)
  | .xchgs => finishSpad k j f s
  | .atoms _ => finishSpad k j f s
  | .mirror _ =>
    match (s.weft k).resultOf f.ic with
    | none => .error .stay
    | some r =>
      let ls := f.lanes.map fun l => { l with val := (r.vals.find? fun x => x.1 == l.lane).map fun x => x.2
                                              cause := (r.faults.find? fun x => x.1 == l.lane).map fun x => x.2 }
      let f := { f with lanes := ls }
      .ok (remoteFaults ((finishFlight s k j f).modWeft k fun w => w.dropResult f.ic) k f)
  | _ =>
    if f.globalLoad ∧ s.mayPerform k f then
      let (ls, s) := performAll k f (s.ownWrites k f.seq) f.lanes (s.acting k f.seq)
      .ok (finishFlight (s.giveResult k f.ic (laneVals ls) []) k j { f with lanes := ls })
    else .error .stay

/-- The outcome of an event that stops short of its effect. -/
def onStop (s : State) : Stop → Host.Outcome State Fault Refusal
  | .fault f => .fault f
  | .reserve core t Ps => .next (s.queueReserve core t Ps)
  | .whole t => .next t
  | _ => .next s

/-- The outcome of an event that may access global memory, or stop. -/
def event (s : State) : Except Stop State → Host.Outcome State Fault Refusal
  | .ok t => taken s (.next t)
  | .error st => taken s (onStop s st)

/-! ## The store queue -/

/-- Words of the history stack replaced from a place on. -/
def Hist.patch (h : Hist) (at_ : Nat) (ws : List Word) : Hist := { h with words := SMap.write zeroH h.words at_ (plain ws) }

/-- The lane mask of a record's header cleared (R150). -/
def Hist.clearMask (h : Hist) (hdr : Nat) : Hist := h.patch (hdr + 1) [0, 0]

/-- Take a store out of the queue and count its flag down. -/
def Weft.dropStore (w : Weft) (seq : Nat) (flag : Option Nat) : Weft :=
  let w := { w with stores := w.stores.filter fun e => e.seq != seq }
  match flag with
  | some n => w.dropFlag n
  | none => w

/-- Where an imprecise PROT of a store is reported: at the fence at .d or .s that waits for it, if there is one, with the address of the
128-byte line as TADDR (R150, R157). -/
def storeProt (w : Weft) (e : StoreEntry) (lane : Nat) (va : Dword) : Impr :=
  let waiting := match w.hold with
    | some h => (match h.kind with
      | .fence _ sc => if 2 ≤ sc then some h.pc else none
      | _ => none)
    | none => none
  { cause := .prot, pc := waiting.getD e.pc, ic := if waiting.isSome then w.flow.ic else e.ic, lane := lane, mask := 0
    addr := if waiting.isSome then va &&& ~~~(127 : Dword) else va, gate := none }

/-- The pieces of a store with their translations. -/
def placedPieces (e : StoreEntry) (accs : List (Nat × Dword × Nat × Nat)) : List Piece :=
  (e.pieces.zip accs).map fun x => { x.1 with pa := x.2.2.2.1, gr := x.2.2.2.2 }

/-- STORE_ENTRY: the oldest store that awaits translation is translated in every lane and entered. PAGE parks the team with
the whole store; PROT stops the whole store, clears the lane mask of its records, and is an imprecise fault (R146, R150, R157). -/
def execStoreEntry (k : Nat) (s0 : State) : Host.Outcome State Fault Refusal :=
  let w := s0.weft k
  match w.stores.find? fun e => !e.entered with
  | none => .next s0
  | some e =>
    let vas := (List.range e.pieces.length).zip (e.pieces.map fun p => p.va)
    let lane := fun i => (e.pieces[i]?.map fun p => p.lane).getD 0
    match s0.xlateAll (s0.coreOf k) (s0.ctxOf k) .write vas with
    | .ok (accs, s) =>
      let (born, s) := s.arrive (s.coreOf k)
      taken s0 (.next (s.modWeft k fun w => { w with stores := w.stores.map fun x =>
        if x.seq = e.seq then { x with entered := true, born := born, pieces := placedPieces e accs } else x }))
    | .error (.page, i, va) => .next (parkFor s0 k .page va e.pc e.ic (lane i))
    | .error (.prot, i, va) =>
      let w := w.dropStore e.seq e.flag
      let w := { w with hist := e.hdrs.foldl Hist.clearMask w.hist }
      .next ((s0.setWeft k w).imprecise k (storeProt w e (lane i) va))

/-- The old bytes of a piece at its order point, into its record's payload (R150). -/
def pieceOld (read : Nat → Nat → List Byte) (p : Piece) : List Word :=
  if 8 ≤ p.data.length then [leWord (read p.pa 4), leWord (read (p.pa + 4) 4)] else [leWord (read (p.pa / 4 * 4) 4)]

/-- Put the old bytes of pieces into the stack, and mark them done; the store leaves the queue when none is left. -/
def finishPieces (s : State) (k : Nat) (e : StoreEntry) (olds : List (Piece × List Word)) : State :=
  s.modWeft k fun w =>
    let h := olds.foldl (fun (h : Hist) x => match x.1.hist with
      | some at_ => h.patch at_ x.2
      | none => h) w.hist
    let ps := e.pieces.map fun p => if olds.any fun x => x.1 == p then { p with done := true } else p
    let w := { w with hist := h }
    if ps.all fun p => p.done then w.dropStore e.seq e.flag
    else { w with stores := w.stores.map fun x => if x.seq = e.seq then { x with pieces := ps } else x }

/-- Pieces of one store are performed, in ascending lanes, with the bytes that they replace (R147, R150). -/
def performPieces (s : State) (k : Nat) (e : StoreEntry) (now : List Piece) (read : Piece → Nat → Nat → List Byte)
    (write : State → Piece → State) : State :=
  let olds := now.map fun p => (p, pieceOld (read p) p)
  finishPieces (now.foldl write s) k e olds

/-- The held lanes of an STS that write the bytes of a piece, once the MMAs that held it have read their operands (R147, R152). -/
def spadOrderPoint (k : Nat) (e : StoreEntry) (p0 : Piece) (s : State) : Except Stop State :=
  let t := teamOf k
  if s.stillReading p0.waits ∨ (s.weft k).heldBefore e.seq then .error .stay
  else match s.bringPages t (s.coreOf k) [p0.pa / 2048] with
  | .error st => .error st
  | .ok s =>
    let now := e.pieces.filter fun p => !p.done && p.pa == p0.pa
    .ok (performPieces s k e now (fun _ a n => s.spadRead t a n) fun s p => s.spadPut t p.pa p.data)

/-- The pieces of a store in the unit of a piece are written, once every earlier load of the weft has bound its value, and the earlier
stores to the unit, its own and those that entered the core's L1 before it, have reached their order points (R96, R146, R328). -/
def globalOrderPoint (k : Nat) (e : StoreEntry) (p0 : Piece) (s : State) : Except Stop State :=
  let core := s.coreOf k
  let ctx := s.ctxOf k
  if !e.entered || !((s.weft k).earlierLoads e.seq).isEmpty || s.storeBefore k e.seq p0.pa p0.gr || s.otherBefore k p0.pa p0.gr e.born
  then .error .stay
  else
    let s := s.acting k e.seq
    let now := e.pieces.filter fun p => !p.done && sameUnit p.pa p.gr p0.pa p0.gr
    let view := fun (p : Piece) (a n : Nat) =>
      (List.range n).map fun i => s.viewByte core ctx (p.va + BitVec.ofNat 64 (a + i) - BitVec.ofNat 64 p.pa) (a + i)
    .ok (performPieces s k e now view fun s p => s.coreWrite core ctx p.va p.pa p.gr p.data)

/-- STORE_ORDER_POINT: the pieces of store `j` in the unit of lane `l` are performed. -/
def execStoreOrderPoint (k j l : Nat) (s : State) : Host.Outcome State Fault Refusal :=
  match (s.weft k).stores[j]? with
  | none => .next s
  | some e =>
    match e.pieces.find? fun p => !p.done && p.lane == l with
    | none => .next s
    | some p0 => event s (if e.spad then spadOrderPoint k e p0 s else globalOrderPoint k e p0 s)

/-! ## Fences (R156 to R158) and STL (R155) -/

/-- An access whose value is still to come. -/
def Flight.unbound (f : Flight) : Bool := f.op != .func && f.lanes.any fun l => l.val.isNone

def Flight.remoteAtomic (f : Flight) : Bool :=
  match f.op with
  | .ratom _ => true
  | .retry => true
  | .rst => true
  | .mirror remote => remote
  | _ => false

/-- The acquire conditions of R157. An RATOM, or its RETRY, is a remote access and no atomic of that row, which names RLD alone among the
remote accesses (DEDUCED; notes/assumptions 117). -/
def acqReady (w : Weft) : Bool := w.flights.all fun f => !f.unbound || f.remoteAtomic

/-- Every store of the team's other wefts that a release at .t has covered has reached its order point: a release at a wider scope publishes
those too (14_consistency R334, R337). -/
def State.teamReleased (s : State) (k : Nat) : Bool :=
  s.wefts.all fun (k', w') => teamOf k' != teamOf k || w'.stores.all fun e => !e.released || e.spad

/-- The release conditions of R157 at scope code 1 (.t), 2 (.d) or 3 (.s). -/
def relReady (s : State) (k scope : Nat) : Bool :=
  let w := s.weft k
  let pairTeam := (s.teamOfWeft k).pair
  let bound := w.flights.all fun f => !f.unbound || f.remoteAtomic || f.op == .rld
  bound && (w.stores.all fun e => e.entered && !e.spad)
    && ((scope < 2 && !pairTeam) || (w.stores.isEmpty && s.teamReleased k))
    && (scope < 3 || w.flights.all fun f => !f.unbound)

def fenceReady (s : State) (k fn scope : Nat) : Bool :=
  scope == 0 || ((fn == 1 || acqReady (s.weft k)) && (fn == 0 || relReady s k scope))

/-- A release at .t covers the stores queued before it (R154). -/
def markReleased (s : State) (k fn scope : Nat) : State :=
  if fn ≠ 0 ∧ scope = 1 then
    s.modWeft k fun w => { w with stores := w.stores.map fun e => { e with released := true } }
  else s

def fenceBody (fn scope : Nat) (c : Ctx) (s : State) : Except Stop Eff :=
  -- in a member that is a pair team, a release at .t ends the segment first (R431)
  match (if fn ≠ 0 ∧ scope = 1 ∧ (s.teamOfWeft c.k).pair then s.boundary c.k 3 [] else none) with
  | some st => .error st
  | none =>
    if fenceReady s c.k fn scope then .ok { s := markReleased s c.k fn scope, noUndo := true }
    else .error (.hold s (.fence fn scope))

/-- FENCE_COMPLETE (R157) -/
def execFenceComplete (k : Nat) (s : State) : Host.Outcome State Fault Refusal :=
  match (s.weft k).hold with
  | some h =>
    match h.kind with
    | .fence fn scope =>
      if s.canRelease k && fenceReady s k fn scope then .next (releaseHold (markReleased s k fn scope) k h) else .next s
    | _ => .next s
  | none => .next s

def issueFence (fn : Nat) (p : Option Prefix) (sc : BitVec 2) (s : State) : Host.Outcome State Fault Refusal :=
  issue (formA p 0x41 fn true 0 0 (sc.setWidth 7)) (fenceBody fn sc.toNat) s

/-- FENCE.acq (R157) -/
def execFenceAcq (p : Option Prefix) (sc : BitVec 2) (s : State) : Host.Outcome State Fault Refusal := issueFence 0 p sc s
/-- FENCE.rel (R157) -/
def execFenceRel (p : Option Prefix) (sc : BitVec 2) (s : State) : Host.Outcome State Fault Refusal := issueFence 1 p sc s
/-- FENCE.ar (R157) -/
def execFenceAr (p : Option Prefix) (sc : BitVec 2) (s : State) : Host.Outcome State Fault Refusal := issueFence 2 p sc s
/-- FENCE.sc (R157): the order of the steps is the single order of sc fences -/
def execFenceSc (p : Option Prefix) (sc : BitVec 2) (s : State) : Host.Outcome State Fault Refusal := issueFence 3 p sc s

/-- STL: it enters the store queue only when FENCE.rel at its scope would complete, and pushes no MEM record (R155). -/
def stlBody (sc n : Nat) (off : Int) (c : Ctx) (s : State) : Except Stop Eff :=
  if !fenceReady s c.k 1 (sc + 1) then .error .stay
  else
    let s := markReleased s c.k 1 (sc + 1)
    let w := s.weft c.k
    let member := s.member c.k
    if member = 0 ∧ 32 ≤ w.queueLen then .error .stay
    else
      let all := (c.accessLanes w).map fun L => (L, c.addrG w off L)
      let bad := all.filter fun x => x.2.toNat % n != 0
      let good := all.filter fun x => x.2.toNat % n == 0
      let (c, s) := faultLanes c s .align bad
      let w := s.weft c.k
      let lanes := good.map fun x => (x.1, x.2, c.storeData w n x.1)
      let (q, w) := w.takeSeq
      if member ≠ 0 then .ok { s := s.setWeft c.k (segStore w c.pc n q none lanes), noUndo := true }
      else if lanes.isEmpty then .ok { s := s, noUndo := true }
      else
        let e : StoreEntry := { seq := q, pc := c.pc, ic := w.flow.ic, flag := some (c.flagNo w)
                                pieces := storePieces n none lanes }
        .ok { s := s.setWeft c.k ({ w with stores := w.stores ++ [e] }.countFlag (c.flagNo w)), noUndo := true }

/-- STL (R155) -/
def execStl (p : Option Prefix) (sc : BitVec 2) (sz u : Bool) (d a : Reg) (i : BitVec 7) (s : State) :
    Host.Outcome State Fault Refusal :=
  let n := szBytes (szCode sz)
  issue (formMem p 0x3F (2 * sc.toNat + sz.toNat) u d a i) (stlBody sc.toNat n (offM p i n)) s

/-! ## Cache maintenance and prefetch (R159 to R162) -/

/-- The ranges that the lanes supply, in ascending lanes, widened to multiples of `g`; those of length 0 are left out. -/
def cmoRanges (c : Ctx) (w : Weft) (g : Nat) : List (Nat × Nat × Nat) :=
  (c.accessLanes w).filterMap fun L =>
    let a := (c.valA w L).toNat % (if c.i.ak == .reg 1 then 2 ^ 32 else 2 ^ 64)
    let n := (c.valB w L).toNat % 2 ^ 32
    if n = 0 then none else some (L, a / g * g, (a + n + g - 1) / g * g)

/-- The 16 KiB pages of a range as (page address, low, high) in virtual addresses. -/
def pagesOf (lo hi : Nat) : List (Nat × Nat × Nat) :=
  (List.range ((hi - 1) / 16384 - lo / 16384 + 1)).map fun i =>
    let b := (lo / 16384 + i) * 16384
    (b, max lo b, min hi (b + 16384))

/-- CFLUSH, CINV or CCLEAN of [lo, hi) on a core (R160): the sectors of its non-coherent lines, and for the first two its coherent
units, whose write-backs are at their homes when it ends. -/
def State.maintain (s : State) (fn core lo hi : Nat) : State :=
  let s := s.ncFlush core (NcSector.within lo hi) (fn != 2) (fn != 1)
  if fn = 2 then s
  else (s.shedLines fun l => l.core == core && decide (l.base < hi) && decide (lo < l.base + l.gr)).settled lo (hi - lo)

/-- An earlier store of the weft to bytes of [lo, hi) is still to be performed, in its queue (R161), whatever addresses it names them by. -/
def State.storesMeet (s : State) (k lo hi : Nat) : Bool :=
  (s.weft k).stores.any fun e => !e.spad && e.pieces.any fun p => !p.done && match s.pieceUnit k e p with
    | some (a, _) => decide (a < hi) && decide (lo < a + p.data.length)
    | none => false

/-- A weft of a redundant pair has an unreleased write to bytes of [lo, hi). -/
def State.segMeets (s : State) (k lo hi : Nat) : Bool :=
  let g := (s.weft k).seg
  (g.writes ++ (g.closed.flatMap fun x => x.writes)).any fun x =>
    match s.lookup (clusterOf (s.coreOf k)) (s.ctxOf k) .read x.va with
    | .ok t => decide (t.pa x.va < hi) && decide (lo < t.pa x.va + x.data.length)
    | .error _ => false

/-- CFLUSH, CINV and CCLEAN translate every page first; they wait for the weft's own earlier stores in the range to reach their order
points (R161), and act in one step. In a redundant pair the open segment ends where it has written the range, so that its writes are
released first (19_reliability R431, R432; notes/assumptions 118). -/
def cmoBody (fn : Nat) (c : Ctx) (s : State) : Except Stop Eff :=
  let w := s.weft c.k
  let rs := cmoRanges c w 32
  let pages := rs.flatMap fun r => (pagesOf r.2.1 r.2.2).map fun p => (r.1, p)
  match s.xlateAll (s.coreOf c.k) (s.ctxOf c.k) .maint (pages.map fun p => (p.1, BitVec.ofNat 64 p.2.1)) with
  | .error f => xlateStop f
  | .ok (accs, s) =>
    let runs := (pages.zip accs).map fun x => (x.2.2.2.1 + (x.1.2.2.1 - x.1.2.1), x.2.2.2.1 + (x.1.2.2.2 - x.1.2.1))
    let segs := s.member c.k != 0 && !w.trap.handler && runs.any fun r => s.segMeets c.k r.1 r.2
    match (if segs then s.boundary c.k 3 [] else none) with
    | some st => .error st
    | none =>
      if runs.any fun r => s.storesMeet c.k r.1 r.2 then .error .stay
      else
        let core := s.coreOf c.k
        .ok { s := runs.foldl (fun s r => s.maintain fn core r.1 r.2) s, noUndo := true }

/-- A prefetch that may not be performed now is dropped. -/
def tryTo (s : State) (f : State → State) : State := let t := f s; if t.coh.blocked && !s.coh.blocked then s else t

/-- The lines of code of a run of virtual addresses, brought into the cluster's instruction cache (IPREF). -/
def prefCode (core ctx lo hi : Nat) (s : State) : State :=
  (List.range ((hi + 127) / 128 - lo / 128)).foldl (fun s i => tryTo s fun s =>
    match s.fillCode core ctx (BitVec.ofNat 64 ((lo / 128 + i) * 128)) with
    | .ok s => s
    | .error _ => s) s

/-- The sectors of a run of one page, read into L2 at their home (PREF), or into the L1 (PREF1). -/
def prefSectors (fn core ctx : Nat) (p : Nat × Nat × Nat) (s : State) : State :=
  let (b, lo, hi) := p
  match s.xlate core ctx .read (BitVec.ofNat 64 b) with
  | .error _ => s
  | .ok (pa, gr, s) => (List.range ((hi - lo) / 32)).foldl (fun s i => tryTo s fun s =>
      let at_ := pa + (lo - b) + 32 * i
      if fn = 3 then (s.homeRead at_ 32).2 else (s.coreRead core ctx (BitVec.ofNat 64 (lo + 32 * i)) at_ gr 32).2) s

/-- PREF, PREF1 and IPREF: each page that cannot be translated with the permission needed is dropped (R160). -/
def prefBody (fn : Nat) (c : Ctx) (s : State) : Except Stop Eff :=
  let w := s.weft c.k
  let core := s.coreOf c.k
  let ctx := s.ctxOf c.k
  let pages := (cmoRanges c w 32).flatMap fun r => pagesOf r.2.1 r.2.2
  .ok { s := pages.foldl (fun s p => tryTo s fun s => if fn = 5 then prefCode core ctx p.2.1 p.2.2 s else prefSectors fn core ctx p s) s
        noUndo := true }

/-- SPEVICT of one page: resident and not held it is evicted, held it is marked and leaves once it is released (R160, R138). -/
def evictPage (t : Nat) (r : Except Stop State) (P : Nat) : Except Stop State :=
  match r with
  | .error e => .error e
  | .ok s => match s.findFrame t P with
    | none => .ok s
    | some (core, i, f) => if s.heldPage t P then .ok (s.setFrame core i (some { f with due := true })) else s.evict core i

/-- SPEVICT: the resident pages of the range below S leave. -/
def spevictBody (c : Ctx) (s : State) : Except Stop Eff :=
  let w := s.weft c.k
  let t := teamOf c.k
  let S := (s.team t).size
  let pages := ((cmoRanges c w 2048).flatMap fun r =>
    (List.range (r.2.2 / 2048 - r.2.1 / 2048)).map fun i => r.2.1 / 2048 + i).filter fun P => decide (P * 2048 < S)
  (pages.foldl (evictPage t) (.ok s)).map fun s => { s := s, noUndo := true }

def formCmo (p : Option Prefix) (fn : Nat) (u : Bool) (a b : Reg) : Info := formA p 0x40 fn u 0 a b

/-- CFLUSH (R160) -/
def execCflush (p : Option Prefix) (u : Bool) (a b : Reg) (s : State) : Host.Outcome State Fault Refusal :=
  issueMem (formCmo p 0 u a b) (cmoBody 0) s
/-- CINV (R160) -/
def execCinv (p : Option Prefix) (u : Bool) (a b : Reg) (s : State) : Host.Outcome State Fault Refusal :=
  issueMem (formCmo p 1 u a b) (cmoBody 1) s
/-- CCLEAN (R160) -/
def execCclean (p : Option Prefix) (u : Bool) (a b : Reg) (s : State) : Host.Outcome State Fault Refusal :=
  issueMem (formCmo p 2 u a b) (cmoBody 2) s
/-- PREF (R160) -/
def execPref (p : Option Prefix) (u : Bool) (a b : Reg) (s : State) : Host.Outcome State Fault Refusal :=
  issueMem (formCmo p 3 u a b) (prefBody 3) s
/-- PREF1 (R160) -/
def execPref1 (p : Option Prefix) (u : Bool) (a b : Reg) (s : State) : Host.Outcome State Fault Refusal :=
  issueMem (formCmo p 4 u a b) (prefBody 4) s
/-- IPREF (R160) -/
def execIpref (p : Option Prefix) (u : Bool) (a b : Reg) (s : State) : Host.Outcome State Fault Refusal :=
  issueMem (formCmo p 5 u a b) (prefBody 5) s
/-- SPEVICT (R160) -/
def execSpevict (p : Option Prefix) (u : Bool) (a b : Reg) (s : State) : Host.Outcome State Fault Refusal :=
  issueMem (formCmo p 6 u a b) spevictBody s

end Sys2Proof.Machine
end

