-- ==== Sys2Proof/Machine/Clocks.lean ====
section
/-!
DEFINITION. Turns and releases that waits look at (17_determinism R392, 14_consistency R335).
-/

namespace Sys2Proof.Machine

/-- The weft's next instruction is one of those of its open turn, inside which a wait raises OPBOUND (R392). Past the last of them the turn
may still be open until their accesses have been performed, and a wait is no longer inside it (notes/assumptions 126). -/
def Weft.inTurn (w : Weft) : Bool := w.sched.turn && decide (0 < w.sched.turnLeft)

/-- The stores of a weft queued before a release at .t that it makes in passing (14_consistency R335). -/
def releaseT (s : State) (k : Nat) : State := markReleased s k 1 1

end Sys2Proof.Machine
end

