-- ==== Sys2Proof/Machine/Active.lean ====
section
/-!
DEFINITION. The active and pending sets of a core, the issue choice and swap opportunities (02_threads R41 to R43), and the clocks that
issue counts: a clock of a core ends once no unit of it can take another instruction of a ready weft (R26).
-/

namespace Sys2Proof.Machine

/-- The live wefts of the teams resident on a core, as keys in ascending team slots and weft indices. -/
def State.residents (s : State) (core : Nat) : List Nat :=
  (s.wefts.filter fun (k, w) =>
    w.status == .live && (s.teamOfWeft k).status == .resident && s.coreOf k == core).map fun x => x.1

/-- The flags that the header at an address names are clear. What is no header, or cannot be fetched, waits for none. -/
def State.headerClear (s : State) (k : Nat) (va : Dword) : Bool :=
  match s.codeWord k va with
  | .ok h => !isHeader h || (s.weft k).flagsClear (h.extractLsb' 8 12)
  | .error _ => true

/-- The clause wait of the weft's next instruction is satisfied: inside a clause there is none; else it is that of the header at which the
arrival leaves the weft (03_encoding R52, 15_control_flow R342). Pending lane faults come before the arrival (18_traps R407). -/
def State.clauseReady (s : State) (k : Nat) : Bool :=
  let w := s.weft k
  let inside := w.flow.entry == .body && match s.codeWord k w.flow.pc with
    | .ok h => !isHeader h
    | .error _ => true
  if inside then true
  else if w.flow.entry = .arrived ∨ w.flow.entry = .popped then s.headerClear k w.flow.pc
  else if w.lanesPending then true
  else
    let r := Machine.arrive w.flow.stack w.flow.active w.flow.pc false
    r.active == 0 || s.headerClear k r.at_

/-- The weft is ready: nothing holds it, the clause wait of its next instruction is satisfied, and that instruction has not been found to be
interlocked (R42). -/
def State.readyWeft (s : State) (k : Nat) : Bool :=
  let w := s.weft k
  w.status == .live && (s.teamOfWeft k).status == .resident && w.hold.isNone && !w.flow.dir && w.seg.still
    && !s.tooFarAhead k && s.running && !s.stalled.contains k && s.clauseReady k

/-- The sort key of the issue choice, least first (R42): overdue wefts by wait count, weft index, team and entry; then by priority,
IC, team, weft index and entry. -/
def State.issueKey (s : State) (k : Nat) : List Nat :=
  let w := s.weft k
  let t := (s.teamOfWeft k).teamIx
  if 32 ≤ w.sched.waits then [0, 2 ^ 64 - w.sched.waits, indexOf k, t, w.sched.entered]
  else [1, 3 - w.prio, w.flow.ic.toNat, t, indexOf k, w.sched.entered]

def lexLt : List Nat → List Nat → Bool
  | [], _ => false
  | _ :: _, [] => false
  | a :: s, b :: t => decide (a < b) || (a == b && lexLt s t)

/-- The weft with the least key. -/
def leastBy (key : Nat → List Nat) (ks : List Nat) : Option Nat :=
  ks.foldl (fun best k => match best with
    | none => some k
    | some b => if lexLt (key k) (key b) then some k else best) none

def State.activeOn (s : State) (core : Nat) : List Nat := (s.residents core).filter fun k => (s.weft k).sched.inActive
def State.pendingOn (s : State) (core : Nat) : List Nat := (s.residents core).filter fun k => !(s.weft k).sched.inActive

/-- A weft enters the active set. -/
def State.activate (s : State) (core k : Nat) : State :=
  let last := (s.residents core).foldl (fun m k => max m (s.weft k).sched.entered) 0
  s.modWeft k fun w => { w with sched := { w.sched with inActive := true, entered := last + 1, waits := 0, issues := 0, passed := 0 } }

/-- The order in which ready pending wefts enter: those passed over most often first, then by priority, IC, team and weft index
(notes/assumptions 58). -/
def State.enterKey (s : State) (k : Nat) : List Nat :=
  let w := s.weft k
  [2 ^ 64 - w.sched.passed, 3 - w.prio, w.flow.ic.toNat, (s.teamOfWeft k).teamIx, indexOf k]

/-- The ready pending wefts in that order. -/
def State.entering (s : State) (core : Nat) : List Nat :=
  ((s.pendingOn core).filter s.readyWeft).mergeSort fun a b => !lexLt (s.enterKey b) (s.enterKey a)

/-- Places of the active set that are free go to pending wefts. -/
def State.fillActive (s : State) (core : Nat) : State :=
  ((s.entering core).take (8 - (s.activeOn core).length)).foldl (fun s k => s.activate core k) s

/-- A pending weft takes the place of the active weft that has issued most since it entered (R43 item 2). -/
def State.swapIn (s : State) (core p : Nat) : State :=
  let key := fun k =>
    let w := s.weft k
    [2 ^ 64 - w.sched.issues, w.sched.entered, (s.teamOfWeft k).teamIx, indexOf k]
  match leastBy key (s.activeOn core) with
  | none => s
  | some v => (s.modWeft v fun w => { w with sched := { w.sched with inActive := false } }).activate core p

/-- Every pending weft that was ready at a swap opportunity and stayed behind has been passed over once more; the count of one that is not
ready starts again. -/
def State.countPassed (s : State) (core : Nat) : State :=
  (s.pendingOn core).foldl (fun s k =>
    let n := if s.readyWeft k then (s.weft k).sched.passed + 1 else 0
    s.modWeft k fun w => { w with sched := { w.sched with passed := n } }) s

/-- A swap opportunity (R43): with a ready pending weft, one active weft leaves for it; every weft that three opportunities have passed over
enters as well, so that each enters within four. -/
def State.swapOpportunity (s : State) (core : Nat) : State :=
  let s := s.fillActive core
  let next := s.entering core
  let due := (next.filter fun k => decide (3 ≤ (s.weft k).sched.passed)).length
  ((next.take (max 1 due)).foldl (fun s p => s.swapIn core p) s).countPassed core

/-! ## Units and clocks (R25, R26) -/

/-- The form issues to the scalar unit: a uniform instruction, or one of format B. -/
def scalarForm : Layout → Bool
  | .fmtA _ _ u _ _ _ => u
  | .fmtI _ u _ _ _ => u
  | .fmtL _ u _ _ => u
  | .fmtB .. => true

/-- The wide instructions (R25). -/
def wideForm : Layout → Bool
  | .fmtA op fn _ _ _ b =>
    [0x18, 0x19, 0x29, 0x2B, 0x2D, 0x2F].contains op.toNat
      || op == 0x32 && (elemWords (bitsOf b 3 4) == 2 || fn == 0 && elemWords (bitsOf b 0 3) == 2)
  | .fmtI op _ _ _ _ => op == 0x1A
  | _ => false

/-- The form of the base word that the weft issues next, none at a header or outside a clause. -/
def State.nextForm (s : State) (k : Nat) : Option Layout :=
  let f := (s.weft k).flow
  if f.entry ≠ .body then none
  else match s.codeWord k f.pc with
  | .error _ => none
  | .ok a =>
    if isHeader a then none
    else if !isPrefix a then some (.ofWord a)
    else match s.codeWord k (f.pc + 4) with
    | .ok b => some (.ofWord b)
    | .error _ => none

/-- Clocks for which an instruction of a weft occupies its vector pipe (R26). -/
def occupancy (w : Weft) (x : Layout) : Nat := w.width / 16 * if wideForm x then 2 else 1

/-- A unit of the core, 0 or 1 for a vector pipe and 2 for the scalar unit, takes an instruction of the weft in the present clock. -/
def Core.takes (y : Core) (u k : Nat) : Bool :=
  !(y.round.any fun x => x.1 == u || x.2 == k) && (u == 2 || (if u = 0 then y.busy.1 else y.busy.2) == 0)

/-- The units that a form may go to. -/
def formUnits (x : Layout) : List Nat := if scalarForm x then [2] else [0, 1]

/-- A clock of the core ends: ready active wefts that have not issued in it have waited one more (R42). -/
def State.nextClock (s : State) (core : Nat) : State :=
  let y := s.core core
  let idle := (s.activeOn core).filter fun k => s.readyWeft k && !(y.round.any fun x => x.2 == k)
  let s := idle.foldl (fun s k => s.modWeft k fun w => { w with sched := { w.sched with waits := w.sched.waits + 1 } }) s
  s.modCore core fun y => { y with round := [], busy := (y.busy.1 - 1, y.busy.2 - 1) }

/-- The first clock in which a unit takes an instruction of the weft, and the unit; no pipe is occupied for more than 8 clocks. -/
def takeUnit (core k : Nat) (x : Layout) : Nat → State → Nat × State
  | 0, s => (2, s)
  | n + 1, s =>
    match (formUnits x).find? fun u => (s.core core).takes u k with
    | some u => (u, s)
    | none => takeUnit core k x n (s.nextClock core)

/-- An instruction of the weft has issued: its unit is taken for the clock, and a pipe for as long as its beats need (R26, R42). -/
def State.noteIssue (s : State) (k : Nat) (x : Layout) : State :=
  let core := s.coreOf k
  let (u, s) := takeUnit core k x 10 s
  let n := occupancy (s.weft k) x
  let s := s.modCore core fun y =>
    { y with round := y.round ++ [(u, k)], busy := (if u = 0 then n else y.busy.1, if u = 1 then n else y.busy.2) }
  s.modWeft k fun w => { w with sched := { w.sched with issues := w.sched.issues + 1, waits := 0 } }

/-- The ready active weft that a unit of the core takes next, from this clock or a later one: the choice of R42 for each unit in turn. A
weft that comes to a clause takes no unit. -/
def pickIssue (core : Nat) : Nat → State → Option (Nat × State)
  | 0, _ => none
  | n + 1, s =>
    let ready := (s.activeOn core).filter s.readyWeft
    let pick := fun (u : Nat) => leastBy s.issueKey (ready.filter fun k => (s.core core).takes u k && match s.nextForm k with
      | some x => (formUnits x).contains u
      | none => false)
    match (leastBy s.issueKey (ready.filter fun k => (s.nextForm k).isNone)).orElse fun _ => [0, 1, 2].findSome? pick with
    | some k => some (k, s)
    | none => if ready.isEmpty then none else pickIssue core n (s.nextClock core)

/-! ## The periodic opportunity (R43) -/

/-- PERIODIC_SWAP_OPPORTUNITY: every 1,024 clocks, if the pending set holds a ready weft (R43). -/
def execPeriodicSwapOpportunity (core : Nat) (s : State) : Host.Outcome State Fault Refusal :=
  .next (s.swapOpportunity core)

end Sys2Proof.Machine
end

