-- ==== Sys2Proof/Machine/Illegal.lean ====
section
/-!
DEFINITION. Words that are no instruction: illegal encodings, and violations of the structure of a clause (03_encoding R53, R61).
-/

namespace Sys2Proof.Machine

/-- The form of a word that names no instruction: it breaks a rule of decode and reads nothing. -/
def noForm : Info := { op := 0, u := true, p := none, ok := false }

/-- ILLEGAL_ENCODING: the word raises ILLEGAL precisely, before any effect (R61). -/
def execIllegalEncoding (_w : Word) (s : State) : Host.Outcome State Fault Refusal := issue noForm (fun _ s => .ok { s := s }) s

/-- A word that may not stand where it does, a 63rd body word or a prefix before a prefix or a header, raises CLAUSE at the address that R53 gives. -/
def issueClause (at_ : Dword) (s : State) : Host.Outcome State Fault Refusal :=
  let k := s.cur
  if !s.canIssue k then .next s
  else
    let w := s.weft k
    match (if w.trap.handler then none else w.nextImprecise fun x => x.gate.isNone) with
    | some x => .next (takeImprecise s k x w.flow.pc .body)
    | none => .next (takeTrap s k .clause at_ w.flow.ic 0 0 w.flow.pc .body)

end Sys2Proof.Machine
end

