-- ==== Sys2Proof/Machine/Copy.lean ====
section
/-!
DEFINITION. Byte barriers, iterator records at issue, and the copy engine (08_copy_engine R175 to R190).
-/

namespace Sys2Proof.Machine

/-! ## Scratchpad structures of an instruction -/

/-- The scratchpad bytes [a, a + n) of one page at issue: SPFAULT parks, a page that is not resident is filled (R136, R137). -/
def spadAt (c : Ctx) (s : State) (a n : Nat) : Except Stop (List Byte × State) :=
  let t := teamOf c.k
  let w := s.weft c.k
  if s.spadBad t a then .error (.park .spfault (BitVec.ofNat 64 a) (lowestLane w.width c.active))
  else if w.spadHeld then .error .stay
  else match s.bringPages t (s.coreOf c.k) [a / 2048] with
  | .error e => .error e
  | .ok s => .ok (s.spadRead t a n, s)

/-- The accesses of an engine operation of weft `k` to global bytes wait for the weft's own earlier accesses to them, for its earlier loads
with acquire, and for the released stores of the core (R338, R335, 07_memory_instructions R154). -/
def State.forkReady (s : State) (k seq pa gr : Nat) : Bool :=
  !s.storeBefore k seq pa gr && !s.otherBefore k pa gr 0
    && !((s.weft k).earlierLoads seq).any fun f => f.isLda || f.lanes.any fun l => sameUnit l.pa l.gr pa gr

/-- A record's 64 bytes of global memory, in the two sectors that hold them. -/
def State.readRecord (s : State) (core ctx : Nat) (va : Dword) (pa gr : Nat) : List Byte × State :=
  let (x, s) := s.coreRead core ctx va pa gr 32
  let (y, s) := s.coreRead core ctx (va + 32) (pa + 32) gr 32
  (x ++ y, s)

/-- An iterator record named by a register: a scratchpad address, or a global one in a pair (R178, R184). `glob` is the side that
its elements lie on. -/
def recordAt (c : Ctx) (s : State) (glob : Bool) (inGlobal : Bool) (r : Reg) : Except Stop (Iter × State) :=
  let w := s.weft c.k
  let S := (s.team (teamOf c.k)).size
  let judge := fun (bs : List Byte) (s : State) =>
    match Iter.ofBytes glob bs with
    | some x => if x.inBounds S then (.ok (x, s) : Except Stop (Iter × State)) else trap .opbound
    | none => trap .opbound
  if inGlobal then
    let va := spairOf w r
    if va.toNat % 64 ≠ 0 then trap .opbound
    else match s.xlate (s.coreOf c.k) (s.ctxOf c.k) .read va with
    | .error f => xlateStop (f, lowestLane w.width c.active, va)
    | .ok (pa, gr, s) =>
      -- earlier accesses of the weft to the record come first (14_consistency R328, R338)
      if !s.forkReady c.k w.seq pa (max gr 64) then .error .stay
      else
        let (bs, s) := s.readRecord (s.coreOf c.k) (s.ctxOf c.k) va pa gr
        judge (overlay (s.ownWrites c.k w.seq) pa bs) s
  else
    let a := (sregOf w r).toNat
    if a % 64 ≠ 0 ∨ S < a + 64 then trap .opbound
    else match spadAt c s a 64 with
    | .error e => .error e
    | .ok (bs, s) => judge bs s

/-! ## Byte barriers (R182) -/

/-- The barrier of an instruction: a multiple of 16 below S, or OPBOUND (R182). -/
def barrierAt (c : Ctx) (s : State) : Except Stop (Nat × BBar × State) :=
  let a := (sregOf (s.weft c.k) c.i.a).toNat
  if a % 16 ≠ 0 ∨ (s.team (teamOf c.k)).size ≤ a then trap .opbound
  else match spadAt c s a 16 with
  | .error e => .error e
  | .ok (bs, s) => .ok (a, BBar.ofBytes bs, s)

/-- One indivisible update of a barrier on a resident page (R180). -/
def updateBarrier (s : State) (t a : Nat) (f : BBar → BBar) : State :=
  let old := BBar.ofBytes (s.spadRead t a 16)
  let b := f old
  let new := b.test
  let s := s.spadPut t a new.toBytes
  -- a phase that begins has had no arrivals
  let s := if new.phase != b.phase then
      s.modTeam t fun x => { x with arrivalsOf := SMap.set zeroD x.arrivalsOf (arrivalKey a new.phase) 0 }
    else s
  wakeBarrier s t a new

/-- Note an arrival's clock (R389). -/
def noteArrival (s : State) (k a : Nat) (phase : Bool) : State :=
  s.modTeam (teamOf k) fun x =>
    { x with arrivalsOf := SMap.set zeroD x.arrivalsOf (arrivalKey a phase) (maxD (x.arrivalLc a phase) (s.weft k).lc) }

/-- BB.INIT, BB.EXPECT and BB.ARRIVE. BB.ARRIVE is a release at .t (14_consistency R335). -/
def bbBody (fn : Nat) (c : Ctx) (s : State) : Except Stop Eff :=
  match barrierAt c s with
  | .error e => .error e
  | .ok (a, b, s) =>
    let t := teamOf c.k
    let x := sregOf (s.weft c.k) c.i.b
    match fn with
    | 0 =>
      if b.valid || x == 0 || decide (65536 < x.toNat) then trap .opbound
      else
        let s := s.modTeam t fun y => y.clearArrivals a
        .ok { s := s.spadPut t a (BBar.toBytes { head := 2, count := x, arrive := x, bytes := 0 }) }
    | 1 =>
      if !b.valid then trap .opbound
      else .ok { s := updateBarrier s t a fun b => { b with bytes := b.bytes + x } }
    | _ =>
      if !b.valid || b.arrive == 0 then trap .opbound
      else if !relReady s c.k 1 then .error .stay
      else
        let s := noteArrival (releaseT s c.k) c.k a b.phase
        .ok { s := updateBarrier s t a fun b => { b with bytes := b.bytes + x, arrive := b.arrive - 1 } }

/-- BB.WAIT: the weft is held until PHASE differs from the parity; pending lane faults come first (18_traps R407). -/
def bbWaitBody (c : Ctx) (s : State) : Except Stop Eff :=
  match barrierAt c s with
  | .error e => .error e
  | .ok (a, b, s) =>
    let w := s.weft c.k
    let p := (sregOf w c.i.b).getLsbD 0
    if !b.valid || w.inTurn then trap .opbound
    else if b.phase != p then .ok { s := s.leaveWait c.k (s.bbExit c.k a p), noUndo := true }
    else if w.lanesPending then .error .lanes
    else
      let exit := if b.arrive = 0 then some (s.bbExit c.k a p) else none
      .error (.hold (s.setWeft c.k { w with sched := { w.sched with exitClock := exit } }) (.bbwait a p))

/-- BB.TEST -/
def bbTestBody (c : Ctx) (s : State) : Except Stop Eff :=
  match barrierAt c s with
  | .error e => .error e
  | .ok (_, b, s) =>
    let w := s.weft c.k
    if !b.valid then trap .opbound
    else
      let r : BitVec 128 := if b.phase != (sregOf w c.i.b).getLsbD 0 then 1 else 0
      .ok { s := s.setWeft c.k (writeD w c 0 r), recs := destRecs w c }

/-- An accepted copy of the team names a barrier. -/
def State.copiesOn (s : State) (t a : Nat) : Bool :=
  s.cores.any fun (_, c) => c.copies.any fun y => y.k / 16 == t && y.bar == a && y.accepted && !y.stopped

/-- BB.INVAL: held until every accepted copy that names the barrier has landed or stopped. -/
def bbInvalBody (c : Ctx) (s : State) : Except Stop Eff :=
  match barrierAt c s with
  | .error e => .error e
  | .ok (a, b, s) =>
    if !b.valid then trap .opbound
    else if s.copiesOn (teamOf c.k) a then .error (.hold s (.bbinval a))
    else .ok { s := s.spadPut (teamOf c.k) a (leBytes 16 0) }

/-- A BB.INVAL that waits, once its copies are gone: it writes its zeros and retires, unless another has done so before it (OPBOUND). -/
def wakeInvalOf (t a : Nat) (s : State) (k : Nat) : State :=
  match (s.weft k).hold with
  | some h =>
    if h.kind ≠ .bbinval a ∨ !s.canRelease k then s
    else if (BBar.ofBytes (s.spadRead t a 16)).valid then releaseHold (s.spadPut t a (leBytes 16 0)) k h
    else takeTrap s k .opbound h.pc (s.weft k).flow.ic 0 (lowestLane (s.weft k).width (s.weft k).flow.active) h.pc .body
  | none => s

def wakeInval (s : State) (t a : Nat) : State := if s.copiesOn t a then s else (s.weftsOf t).foldl (wakeInvalOf t a) s

def formBB (p : Option Prefix) (fn : Nat) (d a b : Reg) : Info := formA p 0x51 fn true d a b

/-- BB.INIT (R182) -/
def execBbInit (p : Option Prefix) (a b : Reg) (s : State) : Host.Outcome State Fault Refusal := issueMem (formBB p 0 0 a b) (bbBody 0) s
/-- BB.EXPECT (R182) -/
def execBbExpect (p : Option Prefix) (a b : Reg) (s : State) : Host.Outcome State Fault Refusal := issueMem (formBB p 1 0 a b) (bbBody 1) s
/-- BB.ARRIVE (R182) -/
def execBbArrive (p : Option Prefix) (a b : Reg) (s : State) : Host.Outcome State Fault Refusal := issueMem (formBB p 2 0 a b) (bbBody 2) s
/-- BB.WAIT (R182) -/
def execBbWait (p : Option Prefix) (a b : Reg) (s : State) : Host.Outcome State Fault Refusal := issueMem (formBB p 3 0 a b) bbWaitBody s
/-- BB.TEST (R182) -/
def execBbTest (p : Option Prefix) (d a b : Reg) (s : State) : Host.Outcome State Fault Refusal := issueMem (formBB p 4 d a b) bbTestBody s
/-- BB.INVAL (R182) -/
def execBbInval (p : Option Prefix) (a : Reg) (s : State) : Host.Outcome State Fault Refusal := issueMem (formBB p 5 0 a 0) bbInvalBody s

/-! ## BCOPY (R184 to R186) -/

/-- A register run: the registers as physical numbers, or none when R185 refuses it. -/
def registerRun (w : Weft) (v : Word) (r : Iter) : Option (List Nat) :=
  let first := bitsOf v 0 7
  let count := bitsOf v 8 7 + 1
  let regs := (List.range count).map fun i => physReg w.regs (first + i)
  if v.getLsbD 7 || bitsOf v 15 17 != 0 || decide (127 < first + count - 1) || regs.any (fun p => decide (w.regs.alloc ≤ p))
      || r.esize != 4 || r.count != count * w.width then none
  else some regs

/-- Sources and destinations by fn: true for a global side, none for registers. -/
def copySides : Nat → Option Bool × Option Bool
  | 0 => (some true, some false)
  | 1 => (some false, some true)
  | 2 => (some true, some true)
  | 3 => (some false, some false)
  | 4 => (none, some false)
  | _ => (some false, none)

def emptyIter : Iter := {}

/-- Both operands of a BCOPY, checked: the source and destination records and the register run. For a run the paired record stands
on both sides. -/
def copyOperands (fn : Nat) (c : Ctx) (s : State) : Except Stop (Iter × Iter × List Nat × State) :=
  let ext := prefixExt c.i.p
  let w := s.weft c.k
  match copySides fn with
  | (some gs, some gd) =>
    match recordAt c s gs (ext.getLsbD 0) c.i.a with
    | .error e => .error e
    | .ok (x, s) => match recordAt c s gd (ext.getLsbD 1) c.i.b with
      | .error e => .error e
      | .ok (y, s) =>
        if x.esize ≠ y.esize ∨ x.count ≠ y.count ∨ x.start ≠ y.start then trap .opbound else .ok (x, y, [], s)
  | (none, some gd) =>
    match recordAt c s gd (ext.getLsbD 1) c.i.b with
    | .error e => .error e
    | .ok (y, s) => match registerRun w (sregOf w c.i.a) y with
      | some regs => .ok (y, y, regs, s)
      | none => trap .opbound
  | (some gs, none) =>
    match recordAt c s gs (ext.getLsbD 0) c.i.a with
    | .error e => .error e
    | .ok (x, s) => match registerRun w (sregOf w c.i.b) x with
      | some regs => .ok (x, x, regs, s)
      | none => trap .opbound
  | _ => trap .opbound

/-- BCOPY: checks, snapshot, and a copy that waits for acceptance, counted on flag B. A V2S reads its whole run now. -/
def bcopyBody (fn : Nat) (c : Ctx) (s : State) : Except Stop Eff :=
  let S := (s.team (teamOf c.k)).size
  let bar := (sregOf (s.weft c.k) c.i.d).toNat
  match copyOperands fn c s with
  | .error e => .error e
  | .ok (src, dst, regs, s) =>
    if bar % 16 ≠ 0 ∨ S ≤ bar then trap .opbound
    else match spadAt c s bar 16 with
    | .error e => .error e
    | .ok (bs, s) =>
      if !(BBar.ofBytes bs).valid then trap .opbound
      else
        let w := s.weft c.k
        let vals := if fn = 4 then regs.flatMap fun p => (List.range w.width).map fun L => w.regs.getV p L else []
        let (q, w) := w.takeSeq
        let y : Copy := { k := c.k, fn := fn, bar := bar, flag := c.flagNo w, pc := c.pc, ic := w.flow.ic, src := src, dst := dst
                          seq := q, regs := vals, run := if fn = 5 then regs else [], next := src.start
                          arg := if fn = 4 then sregOf w c.i.a else if fn = 5 then sregOf w c.i.b else 0 }
        let s := s.setWeft c.k (w.countFlag (c.flagNo w))
        .ok { s := s.modCore (s.coreOf c.k) fun x => { x with copies := x.copies ++ [y] } }

/-- The registers of the run that V2S reads, or S2V writes, which like those of its fields may not be guarded (03_encoding R57). -/
def runRegisters (fn : Nat) (a b : Reg) (w : Weft) : List (Bool × Nat) :=
  let v := sregOf w (if fn = 4 then a else b)
  if fn < 4 then []
  else ((List.range (bitsOf v 8 7 + 1)).filter fun i => decide (bitsOf v 0 7 + i < 128)).map fun i => (false, physReg w.regs (bitsOf v 0 7 + i))

def issueBcopy (fn : Nat) (p : Option Prefix) (d a b : Reg) (s : State) : Host.Outcome State Fault Refusal :=
  issueMem { formA p 0x50 fn true d a b with more := runRegisters fn a b (s.weft s.cur) } (bcopyBody fn) s

/-- BCOPY.G2S (R184) -/
def execBcopyG2s (p : Option Prefix) (d a b : Reg) (s : State) : Host.Outcome State Fault Refusal := issueBcopy 0 p d a b s
/-- BCOPY.S2G (R184) -/
def execBcopyS2g (p : Option Prefix) (d a b : Reg) (s : State) : Host.Outcome State Fault Refusal := issueBcopy 1 p d a b s
/-- BCOPY.G2G (R184) -/
def execBcopyG2g (p : Option Prefix) (d a b : Reg) (s : State) : Host.Outcome State Fault Refusal := issueBcopy 2 p d a b s
/-- BCOPY.S2S (R184) -/
def execBcopyS2s (p : Option Prefix) (d a b : Reg) (s : State) : Host.Outcome State Fault Refusal := issueBcopy 3 p d a b s
/-- BCOPY.V2S (R184) -/
def execBcopyV2s (p : Option Prefix) (d a b : Reg) (s : State) : Host.Outcome State Fault Refusal := issueBcopy 4 p d a b s
/-- BCOPY.S2V (R184) -/
def execBcopyS2v (p : Option Prefix) (d a b : Reg) (s : State) : Host.Outcome State Fault Refusal := issueBcopy 5 p d a b s

/-! ## The copy engine (R186 to R189) -/

/-- COPY_ACCEPT: the core's engine takes its oldest waiting copy, at most 64 at once; flag B counts down (R186). -/
def execCopyAccept (core : Nat) (s : State) : Host.Outcome State Fault Refusal :=
  let cs := (s.core core).copies
  let j := cs.findIdx fun y => !y.accepted
  match cs[j]? with
  | none => .next s
  | some y =>
    if 64 ≤ (cs.filter fun y => y.accepted).length then .next s
    else
      let s := s.modCore core fun c => { c with copies := cs.set j { y with accepted := true } }
      .next (s.modWeft y.k fun w => w.dropFlag y.flag)

/-- A fault of an element of an engine operation. -/
inductive EngFault where
  | page (va : Dword)
  | prot (va : Dword)
  | spfault (a : Nat)
  | wait
  /-- its request for frames waits (06_core_memory R138) -/
  | reserve (core t : Nat) (Ps : List Nat)
  | stop (f : Fault)
  deriving DecidableEq, Repr

def EngFault.ofStop : Stop → EngFault
  | .fault f => .stop f
  | .reserve core t Ps => .reserve core t Ps
  | _ => .wait

/-- Read an element of an engine operation. -/
def readElem (s : State) (core k seq : Nat) (r : Iter) (e : Nat) : Except EngFault (List Byte × State) :=
  let a := r.addr e
  if r.glob then
    match s.engXlate core (s.ctxOf k) .read a with
    | .error .page => .error (.page a)
    | .error .prot => .error (.prot a)
    | .ok (pa, gr, s) =>
      if !s.forkReady k seq pa gr then .error .wait
      else
        let (bs, s) := s.engRead core (s.ctxOf k) pa r.esize
        -- a redundant member's own writes, those of this operation's earlier elements among them (R187, 19_reliability R432)
        .ok (overlay (s.ownWrites k (seq + 1)) pa bs, s)
  else
    let t := teamOf k
    if s.spadBad t a.toNat then .error (.spfault a.toNat)
    else if (s.weft k).heldBefore seq then .error .wait
    else match s.bringPages t core [a.toNat / 2048] with
    | .error st => .error (.ofStop st)
    | .ok s => .ok (s.spadRead t a.toNat r.esize, s)

/-- Write an element. A redundant member's global write goes to its segment (19_reliability R432). -/
def writeElem (s : State) (core k seq : Nat) (ic : Dword) (r : Iter) (e : Nat) (bs : List Byte) : Except EngFault State :=
  let a := r.addr e
  if r.glob then
    match s.engXlate core (s.ctxOf k) .write a with
    | .error .page => .error (.page a)
    | .error .prot => .error (.prot a)
    | .ok (pa, gr, s) =>
      if !s.forkReady k seq pa gr then .error .wait
      else if s.member k ≠ 0 then
        let x : SegWrite := { seq := seq, ic := ic, va := a, size := BitVec.ofNat 8 bs.length, data := bs, pieces := [{ lane := e, va := a, data := bs }] }
        .ok (s.modWeft k fun w => { w with seg := { w.seg with writes := w.seg.writes ++ [x] } })
      else .ok (s.engWrite core (s.ctxOf k) pa bs)
  else
    let t := teamOf k
    if s.spadBad t a.toNat then .error (.spfault a.toNat)
    else if (s.weft k).heldBefore seq then .error .wait
    else match s.bringPages t core [a.toNat / 2048] with
    | .error st => .error (.ofStop st)
    | .ok s => .ok (s.spadPut t a.toNat bs)

/-- Park the team of an engine operation for a PAGE or SPFAULT (R189, R193, R197). -/
def parkEngine (s : State) (k : Nat) (pc ic : Dword) (c : Cause) (addr : Dword) : State :=
  parkFor s k c addr pc ic 0

/-- Element e of a copy: its source read and its destination written. -/
def copyElem (s : State) (core : Nat) (y : Copy) : Except EngFault State :=
  let e := y.next
  let w := s.weft y.k
  let src : Except EngFault (List Byte × State) :=
    if y.fn = 4 then .ok (leBytes 4 (y.regs.getD e 0).toNat, s) else readElem s core y.k y.seq y.src e
  match src with
  | .error f => .error f
  | .ok (bs, s) =>
    if y.fn = 5 then
      .ok (s.modWeft y.k fun w' => { w' with regs := w'.regs.setV (y.run.getD (e / w.width) 0) (e % w.width) (leWord bs) })
    else writeElem s core y.k y.seq y.ic y.dst e bs

def setCopy (s : State) (core j : Nat) (f : Copy → Option Copy) : State :=
  s.modCore core fun c => match c.copies[j]? with
    | none => c
    | some y => match f y with
      | some y' => { c with copies := c.copies.set j y' }
      | none => { c with copies := c.copies.eraseIdx j }

/-- A weft that waits in BB.WAIT takes an imprecise cause that is due before its next instruction at once (R189). -/
def wakeFault (s : State) (k : Nat) : Option State :=
  match (s.weft k).hold with
  | some { kind := .bbwait .., pc := pc, .. } =>
    if s.canRelease k then ((s.weft k).nextImprecise fun x => x.gate.isNone).map fun x => takeImprecise s k x pc .body else none
  | _ => none

/-- An imprecise PROT of a copy is delivered when its weft next issues, or at once in BB.WAIT (R189). -/
def deliverCopyFault (s : State) (k : Nat) (x : Impr) : State :=
  let s := s.imprecise k x
  (wakeFault s k).getD s

/-- A fault stops a copy: its counters stand at the faulting element (R189). -/
def copyFault (s : State) (core j : Nat) (y : Copy) : EngFault → Host.Outcome State Fault Refusal
  | .wait => .next s
  | .reserve c t Ps => .next (s.queueReserve c t Ps)
  | .stop f => .fault f
  | .page va => .next (parkEngine (setCopy s core j fun y => some { y with stopped := true }) y.k y.pc y.ic .page va)
  | .spfault a =>
    .next (parkEngine (setCopy s core j fun y => some { y with stopped := true }) y.k y.pc y.ic .spfault (BitVec.ofNat 64 a))
  | .prot va =>
    let s := deliverCopyFault (setCopy s core j fun _ => none) y.k
      { cause := .prot, pc := y.pc, ic := y.ic, lane := 0, mask := 0, addr := va, gate := none }
    .next (wakeInval s (teamOf y.k) y.bar)

/-- The page of a copy's barrier stands ready for its report. -/
def copyBarrier (s : State) (core : Nat) (y : Copy) : Except EngFault State :=
  let t := teamOf y.k
  if s.spadBad t y.bar then .error (.spfault y.bar)
  else match s.bringPages t core [y.bar / 2048] with
  | .error st => .error (.ofStop st)
  | .ok s => .ok s

/-- COPY_ELEMENT_LAND: the next element of an accepted copy lands, and its bytes are reported to the barrier (R187, R180). -/
def execCopyElementLand (core j : Nat) (s : State) : Host.Outcome State Fault Refusal :=
  match (s.core core).copies[j]? with
  | none => .next s
  | some y =>
    if !y.accepted || y.stopped then .next s
    else
      taken s (match (copyBarrier (s.acting y.k y.seq) core y).bind fun s => copyElem s core y with
      | .error f => copyFault s core j y f
      | .ok s =>
        let t := teamOf y.k
        let s := updateBarrier s t y.bar fun b => { b with bytes := b.bytes - BitVec.ofNat 32 y.src.esize }
        let s := setCopy s core j fun y => if y.next + 1 < y.src.count then some { y with next := y.next + 1 } else none
        .next (wakeInval s t y.bar))

/-- COPY_STOP_TIMEOUT: a copy still running 42,000 clocks into a save is stopped at its lowest unlanded element (18_traps R426). -/
def execCopyStopTimeout (core j : Nat) (s : State) : Host.Outcome State Fault Refusal :=
  match (s.core core).copies[j]? with
  | none => .next s
  | some y =>
    match (s.team (teamOf y.k)).status with
    | .saving _ =>
      if y.accepted then
        .next (wakeInval (setCopy s core j fun y => some { y with stopped := true }) (teamOf y.k) y.bar)
      else .next s
    | _ => .next s

end Sys2Proof.Machine
end

