-- ==== Sys2Proof/Machine/Barrier.lean ====
section
/-!
DEFINITION. Team barriers (16_scheduling R385, R386), and what the end of a weft brings with it (R385, 18_traps R419).
-/

namespace Sys2Proof.Machine

/-! ## Barrier instances (R385) -/

def Team.bar (x : Team) (key : Nat) : BarInst := SMap.get (fun _ => {}) x.bars key
def Team.setBar (x : Team) (key : Nat) (b : BarInst) : Team := { x with bars := SMap.set (fun _ => {}) x.bars key b }

/-- The instance that a form names: the parity half of a pair team for BAR.T, the whole team otherwise. -/
def barInstance (pair : Bool) (fn ix : Nat) : Nat := if fn = 0 ∧ pair then 1 + ix % 2 else 0

/-- The wefts that take part in an instance. -/
def State.barWefts (s : State) (t inst : Nat) : List Nat :=
  (s.weftsOf t).filter fun k => inst == 0 || indexOf k % 2 + 1 == inst

/-- Some participant waits in the phase, and every one that has not ended has arrived. -/
def State.barComplete (s : State) (t key : Nat) : Bool :=
  let b := (s.team t).bar key
  b.pending != 0 && (s.barWefts t (key % 3)).all fun k => (s.weft k).status == .ended || b.pending.getLsbD (indexOf k)

/-- A held weft of a completed phase is released at its exit clock (17_determinism R389), or keeps the clock while its team is
saved. -/
def releaseBar (s : State) (k key : Nat) (x : Dword) : State :=
  match (s.weft k).hold with
  | some h => match h.kind with
    | .bar id inst =>
      if 3 * id + inst ≠ key then s
      else if s.canRelease k then releaseWait s k h x
      else s.modWeft k fun w => { w with sched := { w.sched with exitClock := some x } }
    | _ => s
  | none => s

/-- Completion flips the phase, clears every pending arrival of it, and releases the wefts held on it. -/
def completeBar (s : State) (t key : Nat) : State :=
  if !s.barComplete t key then s
  else
    let b := (s.team t).bar key
    let s := s.modTeam t fun x => x.setBar key { pending := 0, phase := !b.phase, lc := 0 }
    (s.barWefts t (key % 3)).foldl (fun s k => releaseBar s k key b.lc) s

/-- A weft that is held on a phase that has completed leaves the hold: it evaluates its hold again after a restore (R427). -/
def wakeBar (s : State) (k : Nat) : State :=
  match (s.weft k).hold with
  | some h => match h.kind with
    | .bar id inst =>
      let b := (s.teamOfWeft k).bar (3 * id + inst)
      if b.pending.getLsbD (indexOf k) then s
      else if s.canRelease k then releaseWait s k h ((s.weft k).sched.exitClock.getD (s.weft k).lc) else s
    | _ => s
  | none => s

/-! ## BAR (R386) -/

def barBody (fn : Nat) (c : Ctx) (s : State) : Except Stop Eff :=
  let w := s.weft c.k
  let t := teamOf c.k
  let v := (sregOf w c.i.a).toNat
  if 8 ≤ v ∨ w.inTurn then trap .opbound
  else
    let inst := barInstance (s.team t).pair fn (indexOf c.k)
    let key := 3 * v + inst
    let b := (s.team t).bar key
    let mine := b.pending.getLsbD (indexOf c.k)
    if fn = 3 then (if mine then .error (.hold s (.bar v inst)) else trap .opbound)
    else if mine then trap .opbound
    else if !relReady s c.k 1 then .error .stay
    else
      let lc := maxD b.lc w.lc
      let s := releaseT s c.k
      let s := s.modTeam t fun x =>
        x.setBar key { b with pending := b.pending ||| BitVec.ofNat 16 (2 ^ indexOf c.k), lc := lc }
      if s.barComplete t key then
        let s := completeBar s t key
        .ok { s := if fn = 2 then s else s.leaveWait c.k lc }
      else if fn = 2 then .ok { s := s }
      else .error (.hold s (.bar v inst))

def issueBar (fn : Nat) (p : Option Prefix) (a : Reg) (s : State) : Host.Outcome State Fault Refusal :=
  issue (formA p 0x70 fn true 0 a 0) (barBody fn) s

/-- BAR.T (R386) -/
def execBarT (p : Option Prefix) (a : Reg) (s : State) : Host.Outcome State Fault Refusal := issueBar 0 p a s
/-- BAR.P (R386) -/
def execBarP (p : Option Prefix) (a : Reg) (s : State) : Host.Outcome State Fault Refusal := issueBar 1 p a s
/-- BAR.ARRIVE (R386) -/
def execBarArrive (p : Option Prefix) (a : Reg) (s : State) : Host.Outcome State Fault Refusal := issueBar 2 p a s
/-- BAR.WAIT (R386) -/
def execBarWait (p : Option Prefix) (a : Reg) (s : State) : Host.Outcome State Fault Refusal := issueBar 3 p a s

/-! ## The end of a weft -/

/-- Once a weft has ended it counts as arrived in every instance it belongs to, and its imprecise causes that are still pending
are reported as ORPHAN (R385, R419). -/
def settleEnd (k : Nat) (s : State) : State :=
  if (s.weft k).status != .ended then s
  else
    let w := s.weft k
    let s := s.setWeft k { w with trap := { w.trap with impr := [], later := [] } }
    let s := (w.trap.later ++ w.trap.impr).foldl (fun s x => s.imprecise k x) s
    (List.range 24).foldl (fun s key => completeBar s (teamOf k) key) s

/-- The outcome of an instruction that may end its weft. -/
def settled (k : Nat) : Host.Outcome State Fault Refusal → Host.Outcome State Fault Refusal
  | .next s => .next (settleEnd k s)
  | o => o

end Sys2Proof.Machine
end

