-- ==== Sys2Proof/Machine/Control.lean ====
section
/-!
DEFINITION. Arrival at clauses and their start (03_encoding R53 to R55, 15_control_flow R342 to R345), branches, calls, JOIN and the
MISC group (R346 to R355).
-/

namespace Sys2Proof.Machine

/-! ## Headers -/

/-- The word that an instruction reads as code: PAGE parks, and PROT is precise (05_translation R119). -/
def codeAt (c : Ctx) (s : State) (va : Dword) : Except Stop Word :=
  match s.codeWord c.k va with
  | .ok w => .ok w
  | .error .page => .error (.park .page va)
  | .error .prot => trap .prot va

/-- The target of a transfer must be a header (R53, R350). -/
def targetHeader (c : Ctx) (s : State) (va : Dword) : Except Stop Word :=
  if !canonical va || va.toNat % 4 != 0 then trap .clause va
  else match codeAt c s va with
  | .error e => .error e
  | .ok h => if isHeader h then .ok h else trap .clause va

/-- The CLAUSE of a transfer to `va` at decode: its target is no header (R53, R350). That the target of BR, CALL and JOIN must be
canonical too is read from R350, which says so of RET and JMPR (notes/assumptions 55). -/
def targetClause (s : State) (k : Nat) (va : Dword) : Option Dword :=
  if !canonical va || va.toNat % 4 != 0 then some va
  else match s.codeWord k va with
  | .ok h => if isHeader h then none else some va
  | .error _ => none

/-- The CLAUSE of a transfer that falls through to the word at `next` (R54). -/
def fallClause (s : State) (k : Nat) (next : Dword) : Option Dword :=
  match s.codeWord k next with
  | .ok h => if isHeader h then none else some 0
  | .error _ => none

/-- The word after a BR.DIV that splits may be arrived at by falling through (R347, R53). -/
def splitFalls (w : Weft) (next : Dword) (h : Word) : Bool :=
  isHeader h && headerBackLink h != 0 && next == w.flow.hdr + BitVec.ofNat 64 (4 * headerBackLink h) && !badHeader h

/-- Falling through out of a transfer leads to a header (R54). -/
def fallHeader (c : Ctx) (s : State) : Except Stop Word :=
  match codeAt c s c.next with
  | .error e => .error e
  | .ok h => if isHeader h then .ok h else trap .clause

/-- The address of the base word of the instruction. -/
def Ctx.base (c : Ctx) : Dword := c.next - 4

def branchTarget (next : Dword) (off : BitVec 19) : Dword := (next - 4) + 4 * off.signExtend 64

/-- The words of the DIV record that an arrival pushes (R356). -/
def arrivalWords (stack : List StackEntry) (active : Mask) (at_ : Dword) : Nat :=
  let n := (arrive stack active at_ false).removed.length
  if n = 0 then 0 else 6 + 4 * n

/-- A reconvergence after a fall-through also pushes CTRL (R343). -/
def fallWords (stack : List StackEntry) (active : Mask) (at_ : Dword) : Nat :=
  let n := arrivalWords stack active at_
  if n = 0 then 0 else n + 8

/-! ## The start of a clause -/

/-- A precise CLAUSE or other cause at the header where a weft stands: TPC and TIC name it (R53). -/
def headerTrap (s : State) (k : Nat) (cs : Cause) (addr : Dword) : State :=
  let w := s.weft k
  takeTrap s k cs w.flow.pc w.flow.ic addr 0 w.flow.pc w.flow.entry

/-- The header at a weft's PC, or the state after the fault that fetching it raises. -/
def fetchHeader (s : State) (k : Nat) : Except State Word :=
  let w := s.weft k
  match s.codeWord k w.flow.pc with
  | .error .page => .error (parkCause s k .page w.flow.pc)
  | .error .prot => .error (headerTrap s k .prot w.flow.pc)
  | .ok h =>
    if !isHeader h then .error (headerTrap s k .clause w.flow.pc)
    else if w.flow.entry == .popped then .ok h
    else if (w.flow.entry == .fall || w.flow.entry == .refall) && (headerBackLink h == 0 || w.flow.pc != w.flow.hdr + BitVec.ofNat 64 (4 * headerBackLink h)) then
      .error (headerTrap s k .clause 0)
    else if badHeader h then .error (headerTrap s k .clause 0)
    else .ok h

/-- Is the record of an EXIT on top of the stack, pushed by the instruction that retired last, to be joined with the arrival's? -/
def Hist.exitRec (h : Hist) (ic : Dword) : Option (Nat × Rec) :=
  match h.topRec with
  | some (at_, r, i) =>
    match r.payload with
    | x :: _ => if r.kind = kDiv ∧ i = bitsOf (ic - 1) 0 16 ∧ bitsOf x.v 0 8 = divExit ∧ bitsOf x.v 8 24 = 0 then some (at_, r) else none
    | [] => none
  | none => none

/-- The reconvergence of R342 at the header where a weft stands, recorded against the instruction that retired last (R343, R345). -/
def reconverge (w : Weft) (again : Bool) : Weft :=
  let r := arrive w.flow.stack w.flow.active w.flow.pc false
  let div := reconvRec w.flow.active r.removed
  let did := w.flow.cfic == w.flow.ic - 1 || w.hist.lastPc == 0
  let ctrl := if did then [] else [w.ctrlRec w.flow.active]
  let hist : Hist := if r.removed.isEmpty || !w.recording then w.hist
    else match (if again || did then none else w.hist.exitRec w.flow.ic) with
      | some (at_, x) => (w.hist.popTo at_).pushAll (w.flow.ic - 1) (mergeDivs [x] [div] ++ ctrl)
      | none => w.hist.pushAll (w.flow.ic - 1) (div :: ctrl)
  let f : Flow := { w.flow with stack := r.stack, active := r.active, pc := r.at_
                                entry := if r.popped then .popped else .arrived }
  let f := if r.removed.isEmpty || did || w.trap.handler then f else { f with cf := w.hist.lastPc, cfic := w.flow.ic - 1 }
  -- a reconvergence counts as a taken transfer, which the one-entry undo does not cover
  let w := { w with hist := { hist with undo := if r.removed.isEmpty then w.hist.undo else none }, flow := f }
  if r.active = 0 then w.end_ else w

/-- The clause at the weft's PC starts once its flags are clear, after the imprecise causes that it waits on (R55, R405). -/
def startClause (k : Nat) (s : State) : State :=
  match fetchHeader s k with
  | .error s => s
  | .ok h =>
    let w := s.weft k
    let wait := h.extractLsb' 8 12
    if !w.flagsClear wait then s
    else
      let due := if w.trap.handler then none else w.nextImprecise fun x => match x.gate with
        | some n => wait.getLsbD n
        | none => false
      match due with
      | some x => takeImprecise s k x w.flow.pc w.flow.entry
      | none =>
        s.setWeft k { w with flow := { w.flow with
          entry := .body, hdr := w.flow.pc, flagA := headerFlagA h, flagB := headerFlagB h, pc := w.flow.pc + 4 } }

/-- The weft waits at a header and may go on. -/
def State.atClause (s : State) (k : Nat) : Bool :=
  let w := s.weft k
  w.status == .live && (s.teamOfWeft k).status == .resident && w.hold.isNone && !w.flow.dir && w.seg.still
    && w.flow.entry != .body && s.running

/-- CLAUSE_START: the deferred lane faults that an arrival takes come first (R345, R407), then the checks of R53, the arrival (R342),
and the wait for the flags. -/
def execClauseStart (k : Nat) (s : State) : Host.Outcome State Fault Refusal :=
  if !s.atClause k then .next s
  else
    let w := s.weft k
    let made := w.flow.entry == .arrived || w.flow.entry == .popped
    if !made && w.lanesPending then .next (takeLaneTrap s k w.flow.pc (if w.flow.entry == .fall then .refall else w.flow.entry))
    else match fetchHeader s k with
    | .error s => .next s
    | .ok _ =>
      let s := if made then s else s.setWeft k (reconverge w (w.flow.entry == .refall))
      if (s.weft k).status == .ended then .next (settleEnd k s) else .next (startClause k s)

/-! ## Branches (R346 to R348) -/

/-- The kinds of BR. -/
inductive BrKind where
  | always | any | all | none | div
  deriving DecidableEq, Repr

def BrKind.taken (b : BrKind) (t act : Mask) : Bool :=
  match b with
  | .always => true
  | .any => t != 0
  | .all => t == act
  | .none => t == 0
  | .div => t != 0

/-- A BR.DIV that splits pushes a path entry for the lanes that stay, and jumps with the others (R347). -/
def splitBody (t : Mask) (target : Dword) (c : Ctx) (s : State) : Except Stop Eff :=
  let w := s.weft c.k
  match codeAt c s c.next with
  | .error e => .error e
  | .ok h =>
    if !splitFalls w c.next h then trap .clause c.next
    else match targetHeader c s target with
    | .error e => .error e
    | .ok _ =>
      if w.trap.handler then trap .illegal
      else match w.flow.stack with
      | [] => trap .converge
      | top :: _ =>
        if 32 ≤ w.flow.stack.length then trap .converge
        else
          let e : StackEntry := .path c.next (w.flow.active &&& ~~~t) top.rpc
          let div : Rec := { kind := kDiv, mask := w.flow.active, payload := [⟨BitVec.ofNat 32 divSplit, true⟩, ⟨0, true⟩] }
          let f : Flow := { w.flow with stack := e :: w.flow.stack, active := t }
          .ok { s := s.setWeft c.k { w with flow := f }, divs := [div], fin := .taken target }

def brBody (b : BrKind) (m : Nat) (off : BitVec 19) (c : Ctx) (s : State) : Except Stop Eff :=
  let w := s.weft c.k
  let act := w.flow.active
  let t := w.maskReg m &&& act
  let target := branchTarget c.next off
  if !b.taken t act then
    match fallHeader c s with
    | .error e => .error e
    | .ok _ => .ok { s := s }
  else if b = .div ∧ t ≠ act then splitBody t target c s
  else match targetHeader c s target with
  | .error e => .error e
  | .ok _ => .ok { s := s, fin := .taken target }

/-- The DIV and CTRL words of a BR, which its masks decide at issue (R211). -/
def brWords (b : BrKind) (m : Nat) (off : BitVec 19) (w : Weft) (next : Dword) : Nat :=
  let act := w.flow.active
  let t := w.maskReg m &&& act
  let target := branchTarget next off
  if !b.taken t act then fallWords w.flow.stack act next
  else if b = .div ∧ t ≠ act then
    match w.flow.stack with
    | [] => 14
    | top :: _ => 14 + arrivalWords (.path next (act &&& ~~~t) top.rpc :: w.flow.stack) t target
  else 8 + arrivalWords w.flow.stack act target

/-- The CLAUSE of a BR at decode: of its target, or of the word it falls through to (R53, R54, R347). -/
def brClause (b : BrKind) (m : Nat) (off : BitVec 19) (s : State) (k : Nat) (next : Dword) : Option Dword :=
  let w := s.weft k
  let act := w.flow.active
  let t := w.maskReg m &&& act
  let target := branchTarget next off
  if !b.taken t act then fallClause s k next
  else if b = .div ∧ t ≠ act then
    match s.codeWord k next with
    | .ok h => if splitFalls w next h then targetClause s k target else some next
    | .error _ => none
  else targetClause s k target

/-- The address after an instruction of the current weft. -/
def State.nextOf (s : State) (i : Info) : Dword := (s.weft s.cur).flow.pc + BitVec.ofNat 64 (4 * i.len)

def formBr (p : Option Prefix) (op fn : Nat) : Info := formOf p (.fmtB (BitVec.ofNat 7 op) (BitVec.ofNat 3 fn) 0 0)

def issueBr (b : BrKind) (fn : Nat) (p : Option Prefix) (m : BitVec 3) (off : BitVec 19) (s : State) :
    Host.Outcome State Fault Refusal :=
  let i := formBr p 0x60 fn
  let n := brWords b m.toNat off (s.weft s.cur) (s.nextOf i)
  settled s.cur (issue { i with est := fun _ => 0, ctl := some n, clause := brClause b m.toNat off s s.cur (s.nextOf i) } (brBody b m.toNat off) s)

/-- BR.ALWAYS (R346) -/
def execBrAlways (p : Option Prefix) (off : BitVec 19) (s : State) : Host.Outcome State Fault Refusal := issueBr .always 0 p 0 off s
/-- BR.ANY (R346) -/
def execBrAny (p : Option Prefix) (m : BitVec 3) (off : BitVec 19) (s : State) : Host.Outcome State Fault Refusal :=
  issueBr .any 1 p m off s
/-- BR.ALL (R346) -/
def execBrAll (p : Option Prefix) (m : BitVec 3) (off : BitVec 19) (s : State) : Host.Outcome State Fault Refusal :=
  issueBr .all 2 p m off s
/-- BR.NONE (R346) -/
def execBrNone (p : Option Prefix) (m : BitVec 3) (off : BitVec 19) (s : State) : Host.Outcome State Fault Refusal :=
  issueBr .none 3 p m off s
/-- BR.DIV (R347) -/
def execBrDiv (p : Option Prefix) (m : BitVec 3) (off : BitVec 19) (s : State) : Host.Outcome State Fault Refusal :=
  issueBr .div 4 p m off s

/-! ## CALL, RET, JMPR and JOIN (R349 to R351) -/

/-- A jump with the data records it pushes beneath its CTRL record. -/
def jumpTo (target : Dword) (c : Ctx) (s : State) : Except Stop Eff :=
  match targetHeader c s target with
  | .error e => .error e
  | .ok _ => .ok { s := s, fin := .taken target }

/-- CALL writes the pair s126, s127 with the address after it (R349). -/
def callBody (off : BitVec 19) (c : Ctx) (s : State) : Except Stop Eff :=
  let w := s.weft c.k
  let target := branchTarget c.next off
  match targetHeader c s target with
  | .error e => .error e
  | .ok _ =>
    let r : Rec := { kind := kSreg, mask := c.active, payload := plain [w.regs.getS 126, w.regs.getS 127] }
    let w := { w with regs := w.regs.setWordsS 126 [lowWord c.next, highWord c.next] }
    .ok { s := s.setWeft c.k w, recs := [r], fin := .taken target }

def jumpWords (w : Weft) (target : Dword) : Nat := 8 + arrivalWords w.flow.stack w.flow.active target

/-- CALL (R349) -/
def execCall (p : Option Prefix) (off : BitVec 19) (s : State) : Host.Outcome State Fault Refusal :=
  let i := formBr p 0x61 0
  let n := jumpWords (s.weft s.cur) (branchTarget (s.nextOf i) off)
  settled s.cur (issue { i with est := fun _ => 6, ctl := some n, more := [(true, 126), (true, 127)]
                                clause := targetClause s s.cur (branchTarget (s.nextOf i) off) } (callBody off) s)

/-- The CLAUSE of a jump through a pair; an odd field names none (R350). -/
def pairClause (s : State) (a : Reg) (va : Dword) : Option Dword := if a.toNat % 2 = 0 then targetClause s s.cur va else none

def retBody (c : Ctx) (s : State) : Except Stop Eff := jumpTo (spairOf (s.weft c.k) c.i.a) c s

/-- sreg(a) + 4 × sext(sreg(b)) (R350). -/
def jmprTarget (w : Weft) (a b : Reg) : Dword := spairOf w a + 4 * (sregOf w b).signExtend 64

def jmprBody (c : Ctx) (s : State) : Except Stop Eff := jumpTo (jmprTarget (s.weft c.k) c.i.a c.i.b) c s

/-- RET (R350) -/
def execRet (p : Option Prefix) (a : Reg) (s : State) : Host.Outcome State Fault Refusal :=
  let w := s.weft s.cur
  settled s.cur (issue { (formA p 0x65 2 true 0 a 0) with
    est := fun _ => 0, ctl := some (jumpWords w (spairOf w a)),
    clause := pairClause s a (spairOf w a) } retBody s)

/-- JMPR (R350) -/
def execJmpr (p : Option Prefix) (a b : Reg) (s : State) : Host.Outcome State Fault Refusal :=
  let w := s.weft s.cur
  settled s.cur (issue { (formA p 0x65 7 true 0 a b) with
    est := fun _ => 0, ctl := some (jumpWords w (jmprTarget w a b)),
    clause := pairClause s a (jmprTarget w a b) } jmprBody s)

/-- JOIN pushes a join entry for the active mask (R351); in handler mode it is illegal (18_traps R409). -/
def joinBody (off : BitVec 19) (c : Ctx) (s : State) : Except Stop Eff :=
  let w := s.weft c.k
  let target := branchTarget c.next off
  match targetHeader c s target with
  | .error e => .error e
  | .ok _ =>
    if w.trap.handler then trap .illegal
    else if 32 ≤ w.flow.stack.length then trap .converge
    else
      let f : Flow := { w.flow with stack := .join target w.flow.active :: w.flow.stack }
      .ok { s := s.setWeft c.k { w with flow := f }, divs := [{ kind := kDiv, mask := w.flow.active, payload := [] }], noUndo := true }

/-- JOIN (R351) -/
def execJoin (p : Option Prefix) (off : BitVec 19) (s : State) : Host.Outcome State Fault Refusal :=
  let i := formBr p 0x62 0
  let w := s.weft s.cur
  let target := branchTarget (s.nextOf i) off
  let n := fallWords (.join target w.flow.active :: w.flow.stack) w.flow.active (s.nextOf i)
  issue { i with ctl := if isHeader ((s.codeWord s.cur (s.nextOf i)).toOption.getD 0) then some n else some 0
                 clause := targetClause s s.cur target } (joinBody off) s

/-! ## EXIT (R353) -/

/-- The reconvergence stack without the lanes of an EXIT. -/
def exitStack (w : Weft) (m : Mask) : List StackEntry := w.flow.stack.map (dropLanes m)

/-- The DIV record of a per-thread EXIT: the old active mask and the old mask of every entry, bottom first. -/
def exitRec (w : Weft) : Rec :=
  { kind := kDiv, mask := w.flow.active
    payload := ⟨BitVec.ofNat 32 divExit, true⟩ :: ⟨BitVec.ofNat 32 w.flow.stack.length, true⟩ ::
      (w.flow.stack.reverse.flatMap fun e => [⟨lowWord e.mask, true⟩, ⟨highWord e.mask, true⟩]) }

/-- An EXIT that would end the weft: uniform, or per-thread over the whole active mask with an empty stack. In handler mode both
forms end it (R353, 18_traps R409). -/
def exitEnds (u : Bool) (w : Weft) (m : Mask) : Bool :=
  u || w.trap.handler || (m == w.flow.active && w.flow.stack.isEmpty)

def exitBody (u : Bool) (c : Ctx) (s : State) : Except Stop Eff :=
  let w := s.weft c.k
  if exitEnds u w c.active then
    if w.lanesPending then .error .lanes
    else if w.sched.uncommitted then trap .irrev
    else match s.boundary c.k 4 [] with
    | some st => .error st
    | none => .ok { s := s, divs := if u then [] else [exitRec w], fin := .ended }
  else
    let left := w.flow.active &&& ~~~c.active
    let f : Flow := { w.flow with active := left, stack := exitStack w c.active }
    let s' := s.setWeft c.k { w with flow := f }
    if left = 0 then
      -- the weft arrives at the RPC of the top entry (R344)
      let target := (w.flow.stack.head?.map StackEntry.rpc).getD 0
      .ok { s := s', divs := [exitRec w], fin := .taken target, merge := true }
    else match fallHeader c s with
    | .error e => .error e
    | .ok _ => .ok { s := s', divs := [exitRec w], noUndo := true }

/-- The DIV and CTRL words of an EXIT; a reconvergence adds four words for every entry it removes to the EXIT's own record (R356). -/
def exitWords (u : Bool) (w : Weft) (m : Mask) (next : Dword) : Nat :=
  let own := if u then 0 else 6 + 2 * w.flow.stack.length
  if exitEnds u w m then own + 8
  else
    let left := w.flow.active &&& ~~~m
    let st := exitStack w m
    let at_ := if left = 0 then (w.flow.stack.head?.map StackEntry.rpc).getD 0 else next
    let n := (arrive st left at_ false).removed.length
    own + 4 * n + (if n = 0 ∧ left ≠ 0 then 0 else 8)

/-- The CLAUSE of an EXIT that leaves lanes active and falls through (R54). -/
def exitClause (u : Bool) (s : State) (k : Nat) (m : Mask) (next : Dword) : Option Dword :=
  let w := s.weft k
  if exitEnds u w m ∨ w.flow.active &&& ~~~m = 0 then none else fallClause s k next

/-- EXIT (R353) -/
def execExit (p : Option Prefix) (u : Bool) (s : State) : Host.Outcome State Fault Refusal :=
  let i := formA p 0x65 1 u 0 0 0
  let w := s.weft s.cur
  settled s.cur (issue { i with
    est := fun _ => 0, ctl := some (exitWords u w (i.activeOf w) (s.nextOf i)),
    clause := exitClause u s s.cur (i.activeOf w) (s.nextOf i) } (exitBody u) s)

/-! ## NOP, YIELD, WAITF, BRK and TRAP (R354, R355) -/

/-- NOP (R354) -/
def execNop (p : Option Prefix) (u : Bool) (s : State) : Host.Outcome State Fault Refusal :=
  issue (formA p 0x65 0 u 0 0 0) (fun _ s => .ok { s := s }) s

/-- YIELD gives a swap opportunity (02_threads R43). -/
def execYield (p : Option Prefix) (s : State) : Host.Outcome State Fault Refusal :=
  issue (formA p 0x65 3 true 0 0 0) (fun c s => .ok { s := s.swapOpportunity (s.coreOf c.k) }) s

/-- The imprecise cause that a WAITF on a mask delivers before it completes. -/
def Weft.waitDue (w : Weft) (m : BitVec 12) : Option Impr :=
  w.nextImprecise fun x => match x.gate with
    | some n => m.getLsbD n
    | none => false

def waitfBody (c : Ctx) (s : State) : Except Stop Eff :=
  let w := s.weft c.k
  let v := sregOf w c.i.a
  let m := v.extractLsb' 0 12
  if 4096 ≤ v.toNat then trap .opbound
  else if !w.flagsClear m then
    if w.lanesPending then .error .lanes else .error (.hold s (.waitf m))
  else match w.waitDue m with
  | some x => .error (.whole (takeImprecise s c.k x c.pc .body))
  | none => .ok { s := s }

/-- WAITF (R354) -/
def execWaitf (p : Option Prefix) (a : Reg) (s : State) : Host.Outcome State Fault Refusal :=
  issue (formA p 0x65 4 true 0 a 0) waitfBody s

/-- WAITF_RELEASE: the held WAITF completes, or an imprecise cause of its flags is taken, after which it executes again. -/
def execWaitfRelease (k : Nat) (s : State) : Host.Outcome State Fault Refusal :=
  let w := s.weft k
  match w.hold with
  | none => .next s
  | some h =>
    match h.kind with
    | .waitf m =>
      if !s.canRelease k || !w.flagsClear m then .next s
      else match w.waitDue m with
      | some x => .next (takeImprecise s k x h.pc .body)
      | none => .next (releaseHold s k h)
    | _ => .next s

/-- BRK and TRAP retire, and then raise BREAK; in handler mode they only retire (R355). -/
def breakBody (addr : Ctx → Weft → Dword) (c : Ctx) (s : State) : Except Stop Eff :=
  let w := s.weft c.k
  if w.trap.handler then .ok { s := s }
  else
    let s' := retire c w { s := s }
    .error (.whole (takeTrap s' c.k .brk c.next (w.flow.ic + 1) (addr c w) 0 c.next .body))

/-- BRK (R355) -/
def execBrk (p : Option Prefix) (b : Reg) (s : State) : Host.Outcome State Fault Refusal :=
  issue (formA p 0x65 5 true 0 0 b) (breakBody fun c _ => c.i.b.setWidth 64) s

/-- TRAP (R355) -/
def execTrap (p : Option Prefix) (a : Reg) (s : State) : Host.Outcome State Fault Refusal :=
  issue (formA p 0x65 6 true 0 a 0) (breakBody fun c w => pairOf (sregOf w c.i.a) 1) s

end Sys2Proof.Machine
end

