-- ==== Sys2Proof/Machine/Crypto.lean ====
section
/-!
DEFINITION. What signing and measuring compute (20_host_fabric R455 to R457): SHA-384 (FIPS 180-4) and ECDSA on brainpoolP384r1 (RFC 5639).
-/

namespace Sys2Proof.Machine

/-! ## SHA-384 -/

def shaK : List Dword :=
  [0x428A2F98D728AE22, 0x7137449123EF65CD, 0xB5C0FBCFEC4D3B2F, 0xE9B5DBA58189DBBC,
   0x3956C25BF348B538, 0x59F111F1B605D019, 0x923F82A4AF194F9B, 0xAB1C5ED5DA6D8118,
   0xD807AA98A3030242, 0x12835B0145706FBE, 0x243185BE4EE4B28C, 0x550C7DC3D5FFB4E2,
   0x72BE5D74F27B896F, 0x80DEB1FE3B1696B1, 0x9BDC06A725C71235, 0xC19BF174CF692694,
   0xE49B69C19EF14AD2, 0xEFBE4786384F25E3, 0x0FC19DC68B8CD5B5, 0x240CA1CC77AC9C65] ++
  [0x2DE92C6F592B0275, 0x4A7484AA6EA6E483, 0x5CB0A9DCBD41FBD4, 0x76F988DA831153B5,
   0x983E5152EE66DFAB, 0xA831C66D2DB43210, 0xB00327C898FB213F, 0xBF597FC7BEEF0EE4,
   0xC6E00BF33DA88FC2, 0xD5A79147930AA725, 0x06CA6351E003826F, 0x142929670A0E6E70,
   0x27B70A8546D22FFC, 0x2E1B21385C26C926, 0x4D2C6DFC5AC42AED, 0x53380D139D95B3DF,
   0x650A73548BAF63DE, 0x766A0ABB3C77B2A8, 0x81C2C92E47EDAEE6, 0x92722C851482353B] ++
  [0xA2BFE8A14CF10364, 0xA81A664BBC423001, 0xC24B8B70D0F89791, 0xC76C51A30654BE30,
   0xD192E819D6EF5218, 0xD69906245565A910, 0xF40E35855771202A, 0x106AA07032BBD1B8,
   0x19A4C116B8D2D0C8, 0x1E376C085141AB53, 0x2748774CDF8EEB99, 0x34B0BCB5E19B48A8,
   0x391C0CB3C5C95A63, 0x4ED8AA4AE3418ACB, 0x5B9CCA4F7763E373, 0x682E6FF3D6B2B8A3,
   0x748F82EE5DEFB2FC, 0x78A5636F43172F60, 0x84C87814A1F0AB72, 0x8CC702081A6439EC] ++
  [0x90BEFFFA23631E28, 0xA4506CEBDE82BDE9, 0xBEF9A3F7B2C67915, 0xC67178F2E372532B,
   0xCA273ECEEA26619C, 0xD186B8C721C0C207, 0xEADA7DD6CDE0EB1E, 0xF57D4F7FEE6ED178,
   0x06F067AA72176FBA, 0x0A637DC5A2C898A6, 0x113F9804BEF90DAE, 0x1B710B35131C471B,
   0x28DB77F523047D84, 0x32CAAB7B40C72493, 0x3C9EBE0A15C9BEBC, 0x431D67C49C100D4C,
   0x4CC5D4BECB3E42B6, 0x597F299CFC657E2A, 0x5FCB6FAB3AD6FAEC, 0x6C44198C4A475817]

def shaInit : List Dword :=
  [0xCBBB9D5DC1059ED8, 0x629A292A367CD507, 0x9159015A3070DD17, 0x152FECD8F70E5939,
   0x67332667FFC00B31, 0x8EB44A8768581511, 0xDB0C2E0D64F98FA7, 0x47B5481DBEFA4FA4]

def rotr (x : Dword) (n : Nat) : Dword := x.rotateRight n
def bigS0 (x : Dword) : Dword := rotr x 28 ^^^ rotr x 34 ^^^ rotr x 39
def bigS1 (x : Dword) : Dword := rotr x 14 ^^^ rotr x 18 ^^^ rotr x 41
def smallS0 (x : Dword) : Dword := rotr x 1 ^^^ rotr x 8 ^^^ (x >>> 7)
def smallS1 (x : Dword) : Dword := rotr x 19 ^^^ rotr x 61 ^^^ (x >>> 6)

/-- The schedule, latest word first. -/
def shaExpand : Nat → List Dword → List Dword
  | 0, w => w
  | n + 1, w => shaExpand n ((smallS1 (w.getD 1 0) + w.getD 6 0 + smallS0 (w.getD 14 0) + w.getD 15 0) :: w)

def shaRound (v : List Dword) (kw : Dword) : List Dword :=
  match v with
  | [a, b, c, d, e, f, g, h] =>
    let t1 := h + bigS1 e + ((e &&& f) ^^^ (~~~e &&& g)) + kw
    let t2 := bigS0 a + ((a &&& b) ^^^ (a &&& c) ^^^ (b &&& c))
    [t1 + t2, a, b, c, d + t1, e, f, g]
  | _ => v

def shaBlock (h : List Dword) (m : List Dword) : List Dword :=
  let w := (shaExpand 64 m.reverse).reverse
  let v := ((shaK.zip w).map fun x => x.1 + x.2).foldl shaRound h
  (h.zip v).map fun x => x.1 + x.2

/-- Eight bytes, most significant first. -/
def beNat (bs : List Byte) : Nat := bs.foldl (fun n b => 256 * n + b.toNat) 0
def beBytes (n v : Nat) : List Byte := (leBytes n v).reverse

def beWords : Nat → List Byte → List Dword
  | 0, _ => []
  | n + 1, bs => BitVec.ofNat 64 (beNat (bs.take 8)) :: beWords n (bs.drop 8)

def shaBlocks : Nat → List Byte → List Dword → List Dword
  | 0, _, h => h
  | n + 1, bs, h => shaBlocks n (bs.drop 128) (shaBlock h (beWords 16 bs))

/-- The message with its padding: a one bit, zeros, and the length in bits. -/
def shaPad (bs : List Byte) : List Byte :=
  let n := bs.length
  bs ++ [0x80] ++ leBytes ((239 - n % 128) % 128) 0 ++ beBytes 16 (8 * n)

/-- SHA-384: 48 bytes. -/
def sha384 (bs : List Byte) : List Byte :=
  let m := shaPad bs
  ((shaBlocks (m.length / 128) m shaInit).take 6).flatMap fun w => beBytes 8 w.toNat

/-! ## brainpoolP384r1 -/

def ecP : Nat := 0x8CB91E82A3386D280F5D6F7E50E641DF152F7109ED5456B412B1DA197FB71123ACD3A729901D1A71874700133107EC53
def ecA : Nat := 0x7BC382C63D8C150C3C72080ACE05AFA0C2BEA28E4FB22787139165EFBA91F90F8AA5814A503AD4EB04A8C7DD22CE2826
def ecB : Nat := 0x4A8C7DD22CE28268B39B55416F0447C2FB77DE107DCD2A62E880EA53EEB62D57CB4390295DBC9943AB78696FA504C11
def ecN : Nat := 0x8CB91E82A3386D280F5D6F7E50E641DF152F7109ED5456B31F166E6CAC0425A7CF3AB6AF6B7FC3103B883202E9046565
def ecG : Nat × Nat := (0x1D1C64F068CF45FFA2A63A81B7C13F6B8847A3E77EF14FE3DB7FCAFE0CBD10E8E826E03436D646AAEF87B2E247D4AF1E,
  0x8ABE1D7520F9C2A45CB1EB8E95CFD55262B70B29FEEC5864E19C054FF99129280E4646217791811142820341263C5315)

def powMod (m : Nat) : Nat → Nat → Nat → Nat
  | 0, _, _ => 1 % m
  | f + 1, b, e =>
    let h := powMod m f (b * b % m) (e / 2)
    if e % 2 = 1 then b * h % m else h

/-- The inverse of a number modulo a prime below 2^384. -/
def invMod (a m : Nat) : Nat := powMod m 384 (a % m) (m - 2)

/-- A point of the curve; none is the point at infinity. -/
abbrev EcPoint := Option (Nat × Nat)

def ecAdd : EcPoint → EcPoint → EcPoint
  | none, q => q
  | p, none => p
  | some (x1, y1), some (x2, y2) =>
    if x1 = x2 ∧ (y1 + y2) % ecP = 0 then none
    else
      let l := if x1 = x2 then (3 * x1 * x1 + ecA) * invMod (2 * y1) ecP % ecP
        else (y2 + ecP - y1) * invMod (x2 + ecP - x1) ecP % ecP
      let x := (l * l + 2 * ecP - x1 - x2) % ecP
      some (x, (l * (x1 + ecP - x) + ecP - y1) % ecP)

def ecMul : Nat → Nat → EcPoint → EcPoint
  | 0, _, _ => none
  | f + 1, k, q =>
    let h := ecMul f (k / 2) (ecAdd q q)
    if k % 2 = 1 then ecAdd q h else h

def ecTimes (k : Nat) (q : EcPoint) : EcPoint := ecMul 384 k q

/-- A point that may be a public key. -/
def ecValid (x y : Nat) : Bool := decide (x < ecP) && decide (y < ecP) && (y * y) % ecP == (x * x * x + ecA * x + ecB) % ecP

/-- Does (r, s) sign the digest z under the public key (x, y)? -/
def ecdsaVerify (x y z r s : Nat) : Bool :=
  if r = 0 ∨ ecN ≤ r ∨ s = 0 ∨ ecN ≤ s ∨ !ecValid x y then false
  else
    let w := invMod s ecN
    match ecAdd (ecTimes (z * w % ecN) (some ecG)) (ecTimes (r * w % ecN) (some (x, y))) with
    | none => false
    | some (v, _) => v % ecN == r

/-- The signature (r, s) of a digest z by the key d with the secret k. -/
def ecdsaSign (d k z : Nat) : Nat × Nat :=
  let r := ((ecTimes k (some ecG)).map fun p => p.1 % ecN).getD 0
  (r, invMod k ecN * ((z + r * d) % ecN) % ecN)

end Sys2Proof.Machine
end

