-- ==== Sys2Proof/Machine/Records.lean ====
section
/-!
DEFINITION. Task records, launch blocks, work queues and join blocks (16_scheduling R357 to R363, R371 to R373), the traversal order
(R366), and the CRC-64 of a reproducibility signature (17_determinism R401).
-/

namespace Sys2Proof.Machine

/-! ## Records and launch blocks -/

/-- The little-endian field of n bytes at an offset. -/
def fieldLe (bs : List Byte) (off n : Nat) : Nat := leNat ((bs.drop off).take n)

def TaskRec.ofBytes (bs : List Byte) : TaskRec :=
  let d := fun off => BitVec.ofNat 64 (fieldLe bs off 8)
  let w := fun off => BitVec.ofNat 32 (fieldLe bs off 4)
  { entry := d 0, arg := d 8, join := d 0x10, tilex := w 0x18, tiley := w 0x1C, tilez := w 0x20, flags := w 0x24
    launch := d 0x28, preds := w 0x30, origin := BitVec.ofNat 16 (fieldLe bs 0x34 2), zero := BitVec.ofNat 16 (fieldLe bs 0x36 2)
    tag := d 0x38 }

def TaskRec.toBytes (r : TaskRec) : List Byte :=
  leBytes 8 r.entry.toNat ++ leBytes 8 r.arg.toNat ++ leBytes 8 r.join.toNat
    ++ [r.tilex, r.tiley, r.tilez, r.flags].flatMap (fun w => leBytes 4 w.toNat)
    ++ leBytes 8 r.launch.toNat ++ leBytes 4 r.preds.toNat ++ leBytes 2 r.origin.toNat ++ leBytes 2 r.zero.toNat
    ++ leBytes 8 r.tag.toNat

def TaskRec.prio (r : TaskRec) : Nat := bitsOf r.flags 4 3
def TaskRec.topRole (r : TaskRec) : Nat := bitsOf r.flags 7 2
def TaskRec.opt (r : TaskRec) : Bool := r.flags.getLsbD 9
def TaskRec.det (r : TaskRec) : Bool := r.flags.getLsbD 10
def TaskRec.red (r : TaskRec) : Bool := r.flags.getLsbD 11
def TaskRec.hist (r : TaskRec) : Bool := r.flags.getLsbD 12
def TaskRec.mhist (r : TaskRec) : Bool := r.flags.getLsbD 13
def TaskRec.isLaunch (r : TaskRec) : Bool := r.entry == 0

/-- The checks of a record's own fields: codes 1, 2 and 10 (R362, R363). -/
def TaskRec.ownCode (r : TaskRec) : Option Nat :=
  if bitsOf r.flags 0 4 ≠ 1 then some 1
  else if r.zero ≠ 0 ∨ bitsOf r.flags 14 18 ≠ 0
      ∨ (r.isLaunch ∧ (r.arg ≠ 0 ∨ r.tilex ≠ 0 ∨ r.tiley ≠ 0 ∨ r.tilez ≠ 0 ∨ bitsOf r.flags 4 10 ≠ 0)) then some 2
  else if r.opt ∧ (!r.hist ∨ r.red) then some 10
  else none

def Launch.ofBytes (bs : List Byte) : Launch :=
  let n := fun off k => fieldLe bs off k
  let d := fun off => BitVec.ofNat 64 (n off 8)
  let w := fun off => BitVec.ofNat 32 (n off 4)
  let b := fun off => bs.getD off 0
  { verfl := w 0, wcode := b 4, wefts := b 5, trav := b 6, swz := b 7, gx := w 8, gy := w 0xC, gz := w 0x10, scr := w 0x14
    entry := d 0x18, arg := d 0x20, fmode := w 0x28, tq := BitVec.ofNat 16 (n 0x2C 2), histb := w 0x30
    role0 := d 0x40, role1 := d 0x48, role2 := d 0x50, role3 := d 0x58
    zeros := n 0x2E 2 == 0 && n 0x34 12 == 0 && n 0x60 32 == 0 && n 0 4 / 512 == 0 && b 4 &&& 0xFC == 0 && b 6 &&& 0xFC == 0
      && b 7 &&& 0xF0 == 0 && [0x44, 0x4C, 0x54, 0x5C].all fun o => n o 4 == 0 }

def Launch.roles (l : Launch) : List Dword := [l.role0, l.role1, l.role2, l.role3]
def roleAlloc (r : Dword) : Nat := bitsOf r 0 16
def rolePrio (r : Dword) : Nat := bitsOf r 16 8
def roleCount (r : Dword) : Nat := bitsOf r 24 8
def Launch.det (l : Launch) : Bool := l.verfl.getLsbD 4
def Launch.pair (l : Launch) : Bool := l.verfl.getLsbD 5
def Launch.red (l : Launch) : Bool := l.verfl.getLsbD 8
def Launch.width (l : Launch) : Nat := if l.wcode.toNat % 4 = 0 then 16 else if l.wcode.toNat % 4 = 1 then 32 else 64

/-- The roles of a team's wefts in weft order, as role number and entry (02_threads R30): roles 0 to `top`. -/
def Launch.weftRoles (l : Launch) (top : Nat) : List (Nat × Dword) :=
  ((List.range 4).zip l.roles).flatMap fun x => if x.1 ≤ top then List.replicate (roleCount x.2) x else []

/-- A role entry in use breaks a limit of 02_threads R31. -/
def roleBad (r : Dword) : Bool :=
  roleCount r != 0 && (decide (roleAlloc r < 16) || decide (1024 < roleAlloc r) || roleAlloc r % 16 != 0 || decide (3 < rolePrio r)
    || decide (16 < roleCount r))

/-- The refusals of R362 that a launch block and the record's use of it give, as codes. -/
def blockCodes (r : TaskRec) (l : Launch) : List Nat :=
  let total := l.roles.foldl (fun n x => n + roleCount x) 0
  let top := if r.isLaunch then 3 else r.topRole
  (if bitsOf l.verfl 0 4 ≠ 1 then [1] else [])
    ++ (if l.zeros then [] else [2])
    ++ (if l.wcode.toNat % 4 = 3 then [4] else [])
    ++ (if l.roles.any roleBad ∨ total < 1 ∨ 16 < total ∨ l.wefts.toNat ≠ total ∨ (l.weftRoles top).isEmpty then [5] else [])
    ++ (if bitsOf l.fmode 0 3 = 7 ∨ bitsOf l.fmode 18 14 ≠ 0 then [6] else [])
    ++ (if l.scr.toNat % 2048 ≠ 0 ∨ 4 * 2 ^ 20 < l.scr.toNat then [7] else [])
    ++ (if l.gx = 0 ∨ l.gy = 0 ∨ l.gz = 0 ∨ 2 ^ 32 < l.gx.toNat * l.gy.toNat * l.gz.toNat then [8] else [])
    ++ (if 2 ≤ l.trav.toNat % 4 ∧ l.swz.toNat % 16 ≠ 0 then [9] else [])
    ++ (if !r.isLaunch ∧ r.det ≠ l.det then [10] else [])
    ++ (if l.histb.toNat % 128 ≠ 0 then [13] else [])

def minCode (cs : List Nat) : Option Nat := cs.foldl (fun m c => match m with
  | none => some c
  | some x => some (min x c)) none

/-- Read the launch block a record names: none when it is 0, misaligned or unreadable (code 3). -/
def State.readLaunch (s : State) (ctx : Nat) (va : Dword) : Option (Launch × State) :=
  if va = 0 ∨ va.toNat % 128 ≠ 0 then none
  else match s.hostXlate ctx .read va with
  | .error _ => none
  | .ok (pa, s) => let (bs, s) := s.hostRead pa 128; some (Launch.ofBytes bs, s)

/-- Every check of a record and of the launch block it names; `queue` is the queue it was taken from, none for SPAWN. Of the codes
that apply the least is reported. -/
def State.checkRec (s : State) (ctx : Nat) (queue : Option Nat) (r : TaskRec) : Except (Nat × State) (Launch × State) :=
  let own := r.ownCode.toList
  match s.readLaunch ctx r.launch with
  | none => .error ((minCode (3 :: own)).getD 3, s)
  | some (l, s) =>
    let tq := match queue with
      | some q => if r.isLaunch ∧ l.tq.toNat ≠ q then [11] else []
      | none => if r.isLaunch then [11] else []
    match minCode (own ++ blockCodes r l ++ tq) with
    | some c => .error (c, s)
    | none => .ok (l, s)

/-! ## Signature (17_determinism R401) -/

/-- SIG of a task of a launch block. -/
def Launch.sig (l : Launch) (det : Bool) : Dword :=
  crc64xz (leBytes 4 l.fmode.toNat ++ leBytes 4 1 ++ [l.wcode, if det then 1 else 0] ++ leBytes 6 0
    ++ l.roles.flatMap fun r => leBytes 8 r.toNat)

/-! ## Traversal (R366) -/

/-- The bits of d at even, or odd, places. -/
def unweave (m d off : Nat) : Nat := (List.range m).foldl (fun x j => x + (d / 2 ^ (2 * j + off) % 2) * 2 ^ j) 0

/-- The Hilbert curve's loop: m steps left, with t, s, x and y. -/
def hilbertGo : Nat → Nat → Nat → Nat → Nat → Nat × Nat
  | 0, _, _, x, y => (x, y)
  | n + 1, t, s, x, y =>
    let a := t / 2 % 2
    let b := (t ^^^ a) % 2
    let (x, y) := if b = 0 then (let (x, y) := if a = 1 then (s - 1 - x, s - 1 - y) else (x, y); (y, x)) else (x, y)
    hilbertGo n (t / 4) (2 * s) (x + s * a) (y + s * b)

def log2Up (n : Nat) : Nat := if n ≤ 1 then 0 else Nat.log2 (n - 1) + 1

/-- Position i within a plane of X × Y in row-major order with bands of 2^k rows. -/
def bandPos (X Y k i : Nat) : Nat × Nat :=
  let h := 2 ^ k
  let b := i / (X * h)
  let r := i % (X * h)
  let rows := min Y ((b + 1) * h) - b * h
  (r / max rows 1, b * h + r % max rows 1)

/-- The n-th curve position that lies in the plane, looking from d on. -/
def curveFind (X Y : Nat) (curve : Nat → Nat × Nat) : Nat → Nat → Nat → Nat × Nat
  | 0, d, _ => curve d
  | fuel + 1, d, n =>
    let p := curve d
    if p.1 < X ∧ p.2 < Y then (if n = 0 then p else curveFind X Y curve fuel (d + 1) (n - 1))
    else curveFind X Y curve fuel (d + 1) n

/-- The (x, y, z) of enumeration i. -/
def Launch.position (l : Launch) (i : Nat) : Nat × Nat × Nat :=
  let X := l.gx.toNat
  let Y := l.gy.toNat
  let z := i / (X * Y)
  let p := i % (X * Y)
  let k := l.swz.toNat % 16
  let m := log2Up (max X Y)
  let (x, y) : Nat × Nat := match l.trav.toNat % 4 with
    | 0 => bandPos X Y k p
    | 1 => let (y, x) := bandPos Y X k p; (x, y)
    | 2 => curveFind X Y (fun d => (unweave m d 0, unweave m d 1)) (4 ^ m) 0 p
    | _ => curveFind X Y (fun d => hilbertGo m d 1 0 0) (4 ^ m) 0 p
  (x, y, z)

def Launch.teams (l : Launch) : Nat := l.gx.toNat * l.gy.toNat * l.gz.toNat

/-- TEAMIX (02_threads R28). -/
def Launch.teamIx (l : Launch) (r : TaskRec) : Nat :=
  r.tilex.toNat + l.gx.toNat * (r.tiley.toNat + l.gy.toNat * r.tilez.toNat)

/-! ## Work queues (R357) -/

def qcfg (q : Nat) : Nat := 0x200000 + 128 * q
def qbase (q : Nat) : Nat := 0x200008 + 128 * q
def qhead (q : Nat) : Nat := 0x200010 + 128 * q
def qtail (q : Nat) : Nat := 0x200018 + 128 * q

def State.qEn (s : State) (q : Nat) : Bool := (s.reg (qcfg q)).getLsbD 0
def State.qCap (s : State) (q : Nat) : Nat := 2 ^ s.field (qcfg q) 1 4
def State.qPrio (s : State) (q : Nat) : Nat := s.field (qcfg q) 5 3
def State.qDies (s : State) (q : Nat) : Nat := s.field (qcfg q) 8 4
def State.qCtx (s : State) (q : Nat) : Nat := s.field (qcfg q) 12 12
def State.qServe (s : State) (q : Nat) : Bool := (s.reg (qcfg q)).getLsbD 24
def State.qLen (s : State) (q : Nat) : Nat := (s.field (qtail q) 0 32 + 2 ^ 32 - s.field (qhead q) 0 32) % 2 ^ 32
def State.qFull (s : State) (q : Nat) : Bool := decide (s.qCap q ≤ s.qLen q)
/-- The physical address of the slot of a count. -/
def State.qSlot (s : State) (q n : Nat) : Nat := s.field (qbase q) 12 40 * 4096 + 64 * (n % s.qCap q)

/-- QHEAD.ERR is set, a module event (20_host_fabric R444). -/
def State.qErr (s : State) (q : Nat) : State := if q < 16384 then (s.setBit (qhead q) 32).raise evQErr else s

/-- A queue that an instruction or an append of a context may name. -/
def State.qUsable (s : State) (q ctx : Nat) : Bool := decide (q < 16384) && s.qEn q && s.qCtx q == ctx

/-- A record as one number, byte 0 in the low bits. -/
def bytesBits (bs : List Byte) : BitVec 512 := BitVec.ofNat 512 (leNat bs)
def bitsBytes (v : BitVec 512) : List Byte := leBytes 64 v.toNat

/-- Append a record at TAIL; the queue has room. The write is ordered at the home before TAIL advances (R335). -/
def State.qAppend (s : State) (q : Nat) (bs : List Byte) : Except Fault State :=
  let t := s.field (qtail q) 0 32
  let at_ := s.qSlot q t
  if !s.exists at_ 64 then .error (.noMemory at_)
  else .ok ((s.hostWrite at_ bs).setField (qtail q) 0 32 (t + 1))

/-- Take the record at HEAD: its bytes, its address, and the state with HEAD advanced. -/
def State.qTake (s : State) (q : Nat) : Except Fault (List Byte × Nat × State) :=
  let h := s.field (qhead q) 0 32
  let at_ := s.qSlot q h
  if !s.exists at_ 64 then .error (.noMemory at_)
  else
    let (bs, s) := s.hostRead at_ 64
    .ok (bs, at_, s.setField (qhead q) 0 32 (h + 1))

/-! ## Reports (18_traps R417, R418) -/

/-- A QUEUE report for a refused record, and ERR of its queue (R362). -/
def State.refuseRec (s : State) (queue : Option Nat) (ctx code : Nat) (record : Dword) (r : TaskRec) : State :=
  let x : Report := { kind := 3, code := code, cause := Cause.queue.code, launch := r.launch, record := record, tag := r.tag
                      origin := r.origin.toNat, preds := r.preds, ctx := ctx }
  let s := match queue with
    | some q => s.qErr q
    | none => s
  s.report x

/-! ## Join blocks (R371, R373) -/

/-- Append the record that a join posts, as QPUT does: it waits when the queue is full. -/
def State.joinPost (s : State) (ctx tq : Nat) (record : Dword) (r : TaskRec) : Except Fault State :=
  if !s.qUsable tq ctx then .ok (s.refuseRec (some tq) ctx 11 record r)
  else match r.ownCode with
  | some c => .ok (s.refuseRec (some tq) ctx c record r)
  | none =>
    if s.qFull tq ∨ s.joins.any fun j => j.queue == tq then
      let rep : Report := { record := record, ctx := ctx }
      .ok { s with joins := s.joins ++ [{ task := r, queue := tq, ctx := ctx, report := rep }] }
    else s.qAppend tq r.toBytes

/-- The decrement of the join block whose COUNT lies at `pa`; a block that is not aligned to 64 bytes is read from the bytes that follow
in memory. The manual gives no treatment of a field that must be zero and is not: bytes 0x10 to 0x3F take no part, and a TQ with a
bit of [31:14] set names no queue, code 11 (notes/assumptions 121). -/
def State.joinDecrement (s : State) (ctx pa : Nat) : Except Fault State :=
  let (block, s) := s.hostRead pa 16
  let count := leNat (block.take 4)
  let tq := leNat ((block.drop 4).take 4)
  let rec_ := leDword (block.drop 8)
  let task := fun (s : State) => match s.hostXlate ctx .read rec_ with
    | .ok (rp, s) => let (bs, s) := s.hostRead rp 64; (some (TaskRec.ofBytes bs), s)
    | .error _ => (none, s)
  let queue := if tq < 16384 then some tq else none
  if count = 0 then
    let (r, s) := task s
    .ok (s.refuseRec queue ctx 12 rec_ (r.getD {}))
  else
    let s := s.hostWrite pa (leBytes 4 (count - 1))
    if count ≠ 1 then .ok s
    else match task s with
    | (none, s) => .ok (s.refuseRec queue ctx 11 rec_ {})
    | (some r, s) => s.joinPost ctx tq rec_ r

/-- The decrement at the end of a task or of a launch: a block that cannot be written is refused with code 14. -/
def State.joinEnd (s : State) (ctx : Nat) (va : Dword) (r : TaskRec) : Except Fault State :=
  if va = 0 then .ok s
  else match s.hostXlate ctx .write va with
  | .error _ => .ok (s.refuseRec none ctx 14 va r)
  | .ok (pa, s) => s.joinDecrement ctx pa

end Sys2Proof.Machine
end

