-- ==== Sys2Proof/Machine/Queue.lean ====
section
/-!
DEFINITION. The Q group (16_scheduling R378 to R384), holds of its blocking forms, and local queues (R367 to R369).
-/

namespace Sys2Proof.Machine

/-! ## Operands -/

/-- The scratchpad address of a record: a multiple of 64 below S (R378). -/
def recordAddr (c : Ctx) (s : State) : Except Stop Nat :=
  let a := (sregOf (s.weft c.k) c.i.a).toNat
  if a % 64 ≠ 0 ∨ (s.team (teamOf c.k)).size ≤ a then trap .opbound else .ok a

/-- A queue number that names an enabled queue of the context (R378). -/
def queueArg (c : Ctx) (s : State) (v : Word) : Except Stop Nat :=
  if 16384 ≤ v.toNat then trap .opbound
  else if s.qUsable v.toNat (s.ctxOf c.k) then .ok v.toNat else trap .queue

/-- The record at a scratchpad address, its own fields checked (R362). -/
def postRecord (c : Ctx) (s : State) (a : Nat) : Except Stop (TaskRec × State) :=
  match spadAt c s a 64 with
  | .error e => .error e
  | .ok (bs, s) =>
    let r := TaskRec.ofBytes bs
    if r.ownCode.isSome then trap .queue else .ok (r, s)

/-- A release at .d that an instruction makes: the stores before it have reached their order points (14_consistency R335). -/
def released (c : Ctx) (s : State) (body : Except Stop Eff) : Except Stop Eff :=
  if relReady s c.k 2 then body else .error .stay

/-- In a redundant pair the trailing member takes what the leading member's performance gave (19_reliability R432). -/
def performedOnce (c : Ctx) (s : State) (lead : Except Stop Eff) (trail : SegResult → State → Except Stop Eff) : Except Stop Eff :=
  if s.member c.k ≠ 2 then lead
  else match (s.weft c.k).resultOf (s.weft c.k).flow.ic with
  | none => .error .stay
  | some r =>
    let s := s.modWeft c.k fun w => w.dropResult r.ic
    match r.faults with
    | f :: _ => .error (.whole (takeTrap s c.k f.2 c.pc r.ic 0 0 c.pc .body))
    | [] => trail r s

/-- Every bit of a mask register below W set, or cleared (R380). -/
def Weft.setAll (w : Weft) (m : BitVec 3) (b : Bool) : Weft := w.setMaskReg m.toNat (if b then fullMask w.width else 0)

/-- The value that a performed instruction gives its partner. -/
def giveOne (s : State) (k : Nat) (v : Nat) (bytes : List Byte := []) : State :=
  s.giveResult k (s.weft k).flow.ic [(0, BitVec.ofNat 128 v)] bytes

def SegResult.value (r : SegResult) : Nat := (r.vals.headD (0, 0)).2.toNat

/-! ## QPUT and QGET (R380, R381) -/

/-- Post a record: `nb` names the mask of a non-blocking form. -/
def postTo (nb : Option (BitVec 3)) (c : Ctx) (q : Nat) (r : TaskRec) (s : State) : Except Stop Eff :=
  let mark := fun (s : State) (b : Bool) => match nb with
    | some m => s.modWeft c.k fun w => w.setAll m b
    | none => s
  performedOnce c s
    (if s.qFull q then
      match nb with
      | some _ => .ok { s := mark (giveOne s c.k 0) false }
      | none => .error (.hold s (.qput q (bytesBits r.toBytes)))
    else released c s (match s.qAppend q r.toBytes with
      | .error f => .error (.fault f)
      | .ok s => .ok { s := mark (giveOne s c.k 1) true }))
    fun x s => .ok { s := mark s (x.value != 0) }

def qputBody (nb : Option (BitVec 3)) (c : Ctx) (s : State) : Except Stop Eff :=
  match recordAddr c s with
  | .error e => .error e
  | .ok a => match queueArg c s (sregOf (s.weft c.k) c.i.d) with
    | .error e => .error e
    | .ok q => match postRecord c s a with
      | .error e => .error e
      | .ok (r, s) => postTo nb c q r s

/-- The page of a record's place in scratchpad stands ready, so that a fault leaves the queue as it was. -/
def recordPage (c : Ctx) (s : State) (a : Nat) : Except Stop State := (spadAt c s a 64).map fun x => x.2

/-- Take a record: `nb` names the mask of a non-blocking form. -/
def qgetBody (nb : Option (BitVec 3)) (c : Ctx) (s : State) : Except Stop Eff :=
  match recordAddr c s with
  | .error e => .error e
  | .ok a => match queueArg c s (sregOf (s.weft c.k) c.i.d) with
    | .error e => .error e
    | .ok q =>
      if s.qServe q then trap .queue
      else
        let mark := fun (s : State) (b : Bool) => match nb with
          | some m => s.modWeft c.k fun w => w.setAll m b
          | none => s
        match recordPage c s a with
        | .error e => .error e
        | .ok s =>
          performedOnce c s
            (if s.qLen q = 0 then
              match nb with
              | some _ => .ok { s := mark (giveOne s c.k 0) false }
              | none => .error (.hold s (.qget q a))
            else match s.qTake q with
              | .error f => .error (.fault f)
              | .ok (bs, _, s) => .ok { s := mark (giveOne (s.spadPut (teamOf c.k) a bs) c.k 1 bs) true })
            fun x s => .ok { s := if x.value = 0 then mark s false else mark (s.spadPut (teamOf c.k) a x.bytes) true }

def formQ (p : Option Prefix) (fn : Nat) (d a b : Reg) : Info := formA p 0x6C fn true d a b

/-- QPUT (R380) -/
def execQput (p : Option Prefix) (d a : Reg) (s : State) : Host.Outcome State Fault Refusal := issueMem (formQ p 0 d a 0) (qputBody none) s
/-- QPUT.NB (R380) -/
def execQputNb (p : Option Prefix) (d a : Reg) (b : BitVec 3) (s : State) : Host.Outcome State Fault Refusal :=
  issueMem (formQ p 1 d a (b.setWidth 7)) (qputBody (some b)) s
/-- QGET (R381) -/
def execQget (p : Option Prefix) (d a : Reg) (s : State) : Host.Outcome State Fault Refusal := issueMem (formQ p 2 d a 0) (qgetBody none) s
/-- QGET.NB (R381) -/
def execQgetNb (p : Option Prefix) (d a : Reg) (b : BitVec 3) (s : State) : Host.Outcome State Fault Refusal :=
  issueMem (formQ p 3 d a (b.setWidth 7)) (qgetBody (some b)) s

/-- What a held QPUT, SPAWN or QGET does once its queue has room, or a record. -/
def queueRelease (s : State) (k : Nat) (h : Hold) : Host.Outcome State Fault Refusal :=
  let t := teamOf k
  match h.kind with
  | .qput q r =>
    if !s.qUsable q (s.ctxOf k) || s.qFull q || !relReady s k 2 then .next s
    else match s.qAppend q (bitsBytes r) with
    | .error f => .fault f
    | .ok s => .next (releaseHold (giveOne s k 1) k h)
  | .qget q a =>
    if !s.qUsable q (s.ctxOf k) || s.qServe q || s.qLen q == 0 then .next s
    else if s.spadBad t a then .next (parkEngine s k h.pc (s.weft k).flow.ic .spfault (BitVec.ofNat 64 a))
    else match s.bringPages t (s.coreOf k) [a / 2048] with
    | .error st => onStop s st
    | .ok s => match s.qTake q with
      | .error f => .fault f
      | .ok (bs, _, s) => .next (releaseHold (giveOne (s.spadPut t a bs) k 1 bs) k h)
  | _ => .next s

/-- QUEUE_HOLD_RELEASE: the queue of a held QPUT, or SPAWN, has room, or that of a held QGET a record. -/
def execQueueHoldRelease (k : Nat) (s : State) : Host.Outcome State Fault Refusal :=
  match (s.weft k).hold with
  | none => .next s
  | some h => if s.canRelease k then taken s (queueRelease s k h) else .next s

/-- QPUT_TIMEOUT: the queue is still full 4,200,000 clocks after the issue: QUEUEFULL, with no effect (R380). -/
def execQputTimeout (k : Nat) (s : State) : Host.Outcome State Fault Refusal :=
  match (s.weft k).hold with
  | none => .next s
  | some h =>
    match h.kind with
    | .qput q _ =>
      if !s.canRelease k || !s.qFull q then .next s
      else
        let ic := (s.weft k).flow.ic
        let s := s.giveResult k ic [] [] [(0, .queuefull)]
        .next (takeTrap s k .queuefull h.pc ic 0 0 h.pc .body)
    | _ => .next s

/-! ## Local queues (R367 to R369, R382) -/

/-- The team of a record runs on a core pair (02_threads R33). -/
def pairRecord (r : TaskRec) (l : Launch) : Bool := l.pair || decide (8 < (l.weftRoles r.topRole).length)

/-- The core that keeps a record meant for a core: the even one of its pair for a pair team. -/
def queueCore (pair : Bool) (core : Nat) : Nat := if pair then core / 2 * 2 else core

def State.localRoom (s : State) (core : Nat) : Bool := decide ((s.core core).queue.length < 64)

/-- SPAWN: the record goes to the local queue of the core, or to the origin queue when that is full. -/
def spawnBody (c : Ctx) (s : State) : Except Stop Eff :=
  match recordAddr c s with
  | .error e => .error e
  | .ok a => match postRecord c s a with
    | .error e => .error e
    | .ok (r, s) =>
      let t := s.team (teamOf c.k)
      let origin := t.task.origin.toNat
      let r := { r with origin := t.task.origin }
      let give := fun (s : State) => giveOne s c.k 1
      if s.member c.k = 2 then performedOnce c s (.ok { s := s }) fun _ s => .ok { s := s }
      else released c s (
        let full : State → Except Stop Eff := fun s => if s.qUsable origin t.ctx then postTo none c origin r s else trap .queue
        -- the checks of the launch block are made when the record is placed
        if !s.localRoom (s.coreOf c.k) then full s
        else match s.checkRec t.ctx none r with
        | .error (code, s) => .ok { s := give ((s.refuseRec (some origin) t.ctx code 0 r)) }
        | .ok (l, s) =>
          let core := queueCore (pairRecord r l) (s.coreOf c.k)
          if s.localRoom core then
            let x : LocalRec := { task := r, ctx := t.ctx, prio := r.prio, launch := l, spawned := true }
            .ok { s := give (s.modCore core fun y => { y with queue := y.queue ++ [x] }) }
          else full s)

/-- SPAWN (R382) -/
def execSpawn (p : Option Prefix) (a : Reg) (s : State) : Host.Outcome State Fault Refusal := issueMem (formQ p 4 0 a 0) spawnBody s

/-- TDONE: the block is translated as an atomic's address is, and decremented (R382). -/
def tdoneBody (c : Ctx) (s : State) : Except Stop Eff :=
  match globalLanes c s 4 0 .write with
  | .error e => .error e
  | .ok (accs, _, s) =>
    performedOnce c s
      (match accs with
      | [] => .ok { s := s }
      | x :: _ => released c s (match s.joinDecrement (s.ctxOf c.k) x.2.2.1 with
        | .error f => .error (.fault f)
        | .ok s => .ok { s := giveOne s c.k 1 }))
      fun _ s => .ok { s := s }

/-- TDONE (R382) -/
def execTdone (p : Option Prefix) (a : Reg) (s : State) : Host.Outcome State Fault Refusal := issueMem (formQ p 5 0 a 0) tdoneBody s

/-- The records of a list that a predicate admits: the place of the oldest of the highest priority. -/
def bestRecord (ok : LocalRec → Bool) (q : List LocalRec) : Option Nat :=
  let tagged := ((List.range q.length).zip q).filter fun x => ok x.2
  let top := tagged.foldl (fun m x => max m x.2.prio) 0
  (tagged.find? fun x => x.2.prio == top).map fun x => x.1

/-- The team's wefts stand on its cores. -/
def TeamStatus.onCore : TeamStatus → Bool
  | .resident => true
  | .saving _ => true
  | _ => false

/-- The resident wefts of a core: a weft that has ended is none (notes/assumptions 125). -/
def State.weftCount (s : State) (core : Nat) : Nat :=
  (s.wefts.filter fun x => x.2.status == .live && (s.teamOfWeft x.1).status.onCore && s.coreOf x.1 == core).length

/-- The core, or pair, admits a team of n wefts: at most 48 wefts become resident (R367). -/
def State.canAdmit (s : State) (core n : Nat) (pair : Bool) : Bool :=
  decide (core < 1024) && !(s.cluster (clusterOf core)).rebuilding &&
    if pair then core % 2 == 0 && decide (s.weftCount core + (n + 1) / 2 ≤ 48) && decide (s.weftCount (core + 1) + n / 2 ≤ 48)
    else decide (s.weftCount core + n ≤ 48)

/-- The wefts of a record's team, and whether it takes a core pair. -/
def LocalRec.count (r : LocalRec) : Nat := (r.launch.weftRoles r.task.topRole).length
def LocalRec.pair (r : LocalRec) : Bool := pairRecord r.task r.launch

/-- A record may run on a die of its origin queue's DIES (R368, R369). -/
def State.mayRunOn (s : State) (r : LocalRec) (die : Nat) : Bool := (s.qDies r.task.origin.toNat).testBit die

/-- A record taken from a local queue by a thief counts as a steal (R376), also one that STEAL takes (notes/assumptions 68). -/
def countSteal (s : State) (core : Nat) : State := s.setField (0x8000 + 8 * core) 32 32 (s.field (0x8000 + 8 * core) 32 32 + 1)

/-- STEAL: the record that R369 would choose, of the task's context, that the issuing core, or its pair, can admit. -/
def stealBody (c : Ctx) (s : State) : Except Stop Eff :=
  let victim := (sregOf (s.weft c.k) c.i.b).toNat
  let put := fun (s : State) (v : Word) => s.modWeft c.k fun w => { w with regs := w.regs.setS c.i.d.toNat v }
  match recordAddr c s with
  | .error e => .error e
  | .ok a =>
    if 1023 < victim then trap .opbound
    else match recordPage c s a with
    | .error e => .error e
    | .ok s =>
      let core := s.coreOf c.k
      let fits := fun (r : LocalRec) => r.ctx == s.ctxOf c.k && s.mayRunOn r (dieOf core) && r.held == 0
        && s.canAdmit (queueCore r.pair core) r.count r.pair
      performedOnce c s
        (match bestRecord fits (s.core victim).queue with
        | none => .ok { s := put (giveOne s c.k 0) 0 }
        | some j =>
          let bs := (((s.core victim).queue[j]?.map LocalRec.task).getD {}).toBytes
          let s := s.modCore victim fun y => { y with queue := y.queue.eraseIdx j }
          .ok { s := put (giveOne ((countSteal s core).spadPut (teamOf c.k) a bs) c.k 1 bs) 1 })
        fun x s => .ok { s := if x.value = 0 then put s 0 else put (s.spadPut (teamOf c.k) a x.bytes) 1 }

/-- STEAL (R383) -/
def execSteal (p : Option Prefix) (d a b : Reg) (s : State) : Host.Outcome State Fault Refusal := issueMem (formQ p 6 d a b) stealBody s

/-- QSTAT (R384) -/
def qstatBody (c : Ctx) (s : State) : Except Stop Eff :=
  let w := s.weft c.k
  let v := sregOf w c.i.a
  let put := fun (x y : Nat) => ({ s := s.setWeft c.k (writeD w c 0 (joinWords [BitVec.ofNat 32 x, BitVec.ofNat 32 y])), recs := destRecs w c } : Eff)
  if v = 0xFFFFFFFF then .ok (put (s.core (s.coreOf c.k)).queue.length 64)
  else match queueArg c s v with
  | .error e => .error e
  | .ok q => .ok (put (s.qLen q) (s.qCap q))

/-- QSTAT (R384) -/
def execQstat (p : Option Prefix) (d a : Reg) (s : State) : Host.Outcome State Fault Refusal := issue (formQ p 7 d a 0) qstatBody s

end Sys2Proof.Machine
end

