-- ==== Sys2Proof/Machine/Determinism.lean ====
section
/-!
DEFINITION. Deterministic operation (17_determinism R387 to R399): the counted clocks of a domain, DSYNC and its turns, DCLK, the
buffered atomics, FLUSHPT and the flush points.
-/

namespace Sys2Proof.Machine

/-! ## Domains and their clocks (R387 to R390) -/

def State.domain? (s : State) (id : Nat) : Option Domain := s.domains.find? fun d => d.id == id
def State.modDomain (s : State) (id : Nat) (f : Domain → Domain) : State :=
  { s with domains := s.domains.map fun d => if d.id == id then f d else d }

/-- The teams of a domain that count: those of a pair's trailing members do not (19_reliability R432). -/
def State.domainTeams (s : State) (id : Nat) : List Nat :=
  (s.teams.filter fun x => x.2.domain == id && x.2.member != 2 && x.2.status != .absent).map fun x => x.1

def State.domainWefts (s : State) (id : Nat) : List Nat := (s.domainTeams id).flatMap s.weftsOf

/-- The clock with which a weft is counted: none when it has ended, or is held at a BAR or BB.WAIT whose exit clock is not fixed
(R389). -/
def State.countedClock (s : State) (k : Nat) : Option Dword :=
  let w := s.weft k
  if w.status != .live then none
  else
    let waiting := match w.hold with
      | some h => match h.kind with
        | .bar .. => true
        | .bbwait .. => true
        | _ => false
      | none => false
    if waiting then w.sched.exitClock else some w.lc

/-- The team linear indices of a domain's tasks that have not started: they count with LC 0. -/
def State.unstarted (s : State) (d : Domain) : List Nat :=
  if d.launchId = 0 then []
  else
    let rest := match s.launches.find? fun l => l.id == d.launchId with
      | none => []
      | some l => ((List.range l.blk.teams).drop l.next).map fun i =>
          let (x, y, z) := l.blk.position i
          x + l.blk.gx.toNat * (y + l.blk.gy.toNat * z)
    let inQueue := (s.cores.flatMap fun c => c.2.queue) ++ s.deals.map fun x => x.rec_
    rest ++ (inQueue.filter fun r => r.launchId == d.launchId).map fun r => r.launch.teamIx r.task

/-- The place of a weft in the order of clocks: LC, team linear index, weft index. -/
def State.clockKey (s : State) (k : Nat) (lc : Dword) : List Nat := [lc.toNat, (s.teamOfWeft k).teamIx, indexOf k]

def keyLt : List Nat → List Nat → Bool
  | a :: s, b :: t => decide (a < b) || (a == b && keyLt s t)
  | _, _ => false

/-- The weft's (LC, logical id) is below that of every other counted weft of the domain (R392). -/
def State.leastClock (s : State) (k : Nat) : Bool :=
  let t := s.teamOfWeft k
  let me := s.clockKey k (s.weft k).lc
  (match s.domain? t.domain with
    | some d => (s.unstarted d).all fun ix => keyLt me [0, ix, 0]
    | none => true) &&
  ((s.domainWefts t.domain).filter fun j => j != k).all fun j => match s.countedClock j with
    | some lc => keyLt me (s.clockKey j lc)
    | none => true

/-- The least LC over the counted wefts of a domain (R390). -/
def State.minClock (s : State) (id : Nat) : Dword :=
  let started := (s.domainWefts id).filterMap s.countedClock
  let all := match s.domain? id with
    | some d => if (s.unstarted d).isEmpty then started else 0 :: started
    | none => started
  match all with
  | [] => 0
  | x :: rest => rest.foldl (fun m y => if y.toNat < m.toNat then y else m) x

/-! ## DSYNC and turns (R391, R392) -/

def State.turnOpen (s : State) (id : Nat) : Bool := (s.domain? id).any fun d => d.turn.isSome

/-- The weft has a turn over its next n retired instructions; the retirement that follows counts one more. -/
def Weft.beginTurn (w : Weft) (n : Nat) : Weft :=
  { w with sched := { w.sched with turn := true, turnLeft := if w.trap.handler then n else n + 1 } }

def openTurn (s : State) (k n : Nat) : State :=
  (s.modWeft k fun w => w.beginTurn n).modDomain (s.teamOfWeft k).domain fun d => { d with turn := some k }

def State.mayTurn (s : State) (k : Nat) : Bool := !s.turnOpen (s.teamOfWeft k).domain && s.leastClock k

def dsyncBody (c : Ctx) (s : State) : Except Stop Eff :=
  let w := s.weft c.k
  let n := (sregOf w c.i.a).toNat
  if n < 1 ∨ 64 < n ∨ w.inTurn then trap .opbound
  else if !s.inDomain c.k then .ok { s := s }
  else performedOnce c s
    (if s.mayTurn c.k then .ok { s := openTurn (giveOne s c.k 1) c.k n } else .error (.hold s (.dsync n)))
    fun _ s => .ok { s := s.modWeft c.k fun w => w.beginTurn n }

/-- DSYNC (R392) -/
def execDsync (p : Option Prefix) (a : Reg) (s : State) : Host.Outcome State Fault Refusal :=
  issue { (formA p 0x71 0 true 0 a 0) with irrev := s.inDomain s.cur } dsyncBody s

/-- DSYNC_GRANT: the held DSYNC whose weft is least retires and opens its turn. -/
def execDsyncGrant (k : Nat) (s : State) : Host.Outcome State Fault Refusal :=
  match (s.weft k).hold with
  | none => .next s
  | some h =>
    match h.kind with
    | .dsync n => if s.canRelease k && s.mayTurn k then .next (releaseHold (openTurn (giveOne s k 1) k n) k h) else .next s
    | _ => .next s

/-- Every memory access of the weft has been performed: none is queued or in flight, none waits in a segment of a redundant pair for its
release, and the engines hold no operation of it. -/
def State.quietMemory (s : State) (k : Nat) : Bool :=
  let w := s.weft k
  w.stores.isEmpty && w.flights.all (fun f => !f.unbound) && w.seg.writes.isEmpty && w.seg.closed.all (fun x => x.writes.isEmpty)
    && s.cores.all fun x => x.2.copies.all (fun y => y.k != k) && x.2.ops.all fun o => o.k != k

/-- The turn of a weft has run out, or the weft has ended. -/
def Weft.turnOver (w : Weft) : Bool := w.sched.turn && (w.status == .ended || w.sched.turnLeft == 0)

/-- It closes once its memory accesses have been performed as well. -/
def State.turnDone (s : State) (k : Nat) : Bool := (s.weft k).turnOver && s.quietMemory k

def Weft.endTurn (w : Weft) : Weft := { w with sched := { w.sched with turn := false, turnLeft := 0 } }

/-- TURN_CLOSE: the open turn of a domain closes; so do those that trailing members keep beside it. -/
def execTurnClose (dom : Nat) (s : State) : Host.Outcome State Fault Refusal :=
  let mirrors := s.wefts.filter fun x => (s.teamOfWeft x.1).domain == dom && (s.teamOfWeft x.1).member == 2 && x.2.turnOver
  let s := mirrors.foldl (fun s x => s.modWeft x.1 Weft.endTurn) s
  match s.domain? dom with
  | none => .next s
  | some d =>
    match d.turn with
    | none => .next s
    | some k =>
      if s.turnDone k then .next ((s.modWeft k Weft.endTurn).modDomain dom fun d => { d with turn := none }) else .next s

/-! ## DCLK (R393) -/

/-- Every other counted weft of the domain has LC ≥ t. -/
def State.clockReached (s : State) (k : Nat) (t : Dword) : Bool :=
  let dom := (s.teamOfWeft k).domain
  (match s.domain? dom with
    | some d => (s.unstarted d).isEmpty || t == 0
    | none => true) &&
  ((s.domainWefts dom).filter fun j => j != k).all fun j => match s.countedClock j with
    | some lc => decide (t.toNat ≤ lc.toNat)
    | none => true

def dclkBody (c : Ctx) (s : State) : Except Stop Eff :=
  let w := s.weft c.k
  if c.i.a.toNat % 2 = 1 ∨ w.inTurn then trap .opbound
  else
    let t := spairOf w c.i.a
    if !s.inDomain c.k || decide (t.toNat ≤ w.lc.toNat) || s.clockReached c.k t then .ok { s := s }
    else if w.lanesPending then .error .lanes
    else .error (.hold s (.dclk t))

/-- DCLK (R393) -/
def execDclk (p : Option Prefix) (a : Reg) (s : State) : Host.Outcome State Fault Refusal :=
  issue (formA p 0x71 2 true 0 a 0) dclkBody s

/-- DCLK_RELEASE (R393) -/
def execDclkRelease (k : Nat) (s : State) : Host.Outcome State Fault Refusal :=
  match (s.weft k).hold with
  | none => .next s
  | some h =>
    match h.kind with
    | .dclk t => if s.canRelease k && s.clockReached k t then .next (releaseHold s k h) else .next s
    | _ => .next s

/-! ## Deterministic atomics (R394, R395) -/

/-- Bytes of a DATOM's operand. -/
def datomBytes (fn : Nat) : Nat := if fn = 2 ∨ fn = 5 then 8 else 4

/-- The entries of a weft's current epoch: in the team's buffer, and those of an unreleased segment. -/
def State.epochShare (s : State) (k : Nat) : Nat :=
  let w := s.weft k
  let own := ((s.teamOfWeft k).datoms.filter fun e => e.weft == indexOf k && e.epoch == w.sched.epoch).length
  let seg := (w.seg.writes ++ w.seg.closed.flatMap fun x => x.writes).filter fun x => x.datom.isSome
  own + seg.length

/-- The entry of one lane. -/
def State.datomEntry (s : State) (k fn q pa L : Nat) (ic x : Dword) : DEntry :=
  { pa := pa, fn := fn, x := x, teamIx := (s.teamOfWeft k).teamIx, weft := indexOf k, lane := L, seq := q
    epoch := (s.weft k).sched.epoch, ic := ic, core := s.coreOf k }

/-- A DATOM appends one entry for each lane, to the buffer of its member's team; in a redundant pair they wait for the comparison (19_reliability R432). -/
def datomBody (fn : Nat) (c : Ctx) (s : State) : Except Stop Eff :=
  let n := datomBytes fn
  match globalLanes c s n 0 .write with
  | .error e => .error e
  | .ok (accs, c, s) =>
    if 4096 / max 1 (s.teamOfWeft c.k).nwefts < s.epochShare c.k + accs.length then trap .detbuf
    else
      let w := s.weft c.k
      let ic := w.flow.ic
      let (q, w') := w.takeSeq
      let x := fun L => ((c.valB w L).setWidth 64 : Dword)
      if s.member c.k ≠ 0 then
        let ws : List SegWrite := accs.map fun a =>
          { seq := q, ic := ic, va := a.2.1, size := BitVec.ofNat 8 fn, data := leBytes n (x a.1).toNat, pa := a.2.2.1, datom := some (fn, a.1) }
        .ok { s := s.setWeft c.k { w' with seg := { w'.seg with writes := w'.seg.writes ++ ws } } }
      else
        let es := accs.map fun a => s.datomEntry c.k fn q a.2.2.1 a.1 ic (x a.1)
        .ok { s := (s.setWeft c.k w').modTeam (teamOf c.k) fun t => { t with datoms := t.datoms ++ es } }

def issueDatom (fn : Nat) (p : Option Prefix) (u : Bool) (a b : Reg) (s : State) : Host.Outcome State Fault Refusal :=
  let i := formA p 0x4C fn u 0 a b
  -- outside a domain every DATOM is illegal
  issueMem { i with ok := i.ok && s.inDomain s.cur } (datomBody fn) s

/-- DADD.i32 (R394) -/
def execDaddI32 (p : Option Prefix) (u : Bool) (a b : Reg) (s : State) : Host.Outcome State Fault Refusal := issueDatom 0 p u a b s
/-- DADD.f32 (R394) -/
def execDaddF32 (p : Option Prefix) (u : Bool) (a b : Reg) (s : State) : Host.Outcome State Fault Refusal := issueDatom 1 p u a b s
/-- DADD.f64 (R394) -/
def execDaddF64 (p : Option Prefix) (u : Bool) (a b : Reg) (s : State) : Host.Outcome State Fault Refusal := issueDatom 2 p u a b s
/-- DMIN.i (R394) -/
def execDminI (p : Option Prefix) (u : Bool) (a b : Reg) (s : State) : Host.Outcome State Fault Refusal := issueDatom 3 p u a b s
/-- DMAX.i (R394) -/
def execDmaxI (p : Option Prefix) (u : Bool) (a b : Reg) (s : State) : Host.Outcome State Fault Refusal := issueDatom 4 p u a b s
/-- DADD.i64 (R394) -/
def execDaddI64 (p : Option Prefix) (u : Bool) (a b : Reg) (s : State) : Host.Outcome State Fault Refusal := issueDatom 5 p u a b s

/-- The new value of memory under an entry (R394). -/
def datomNew (fn : Nat) (o x : BitVec 128) : BitVec 128 :=
  let n := datomBytes fn
  match fn with
  | 1 => atomicNew 1 n o x
  | 2 => atomicNew 1 n o x
  | 3 => atomicNew 2 n o x
  | 4 => atomicNew 3 n o x
  | _ => atomicNew 0 n o x

/-- An entry applied at the home as an atomic of its core is (R396, 07_memory_instructions R166). -/
def applyEntry (ctx : Nat) (s : State) (e : DEntry) : State :=
  (s.homeRmw e.core ctx e.pa (s.grainAt e.pa 128) (datomBytes e.fn) fun o => datomNew e.fn o (e.x.setWidth 128)).2

def DEntry.key (e : DEntry) : List Nat := [e.pa, e.teamIx, e.weft, e.lane, e.seq]

/-! ## Flush points (R396, R397, R399) -/

/-- Every unapplied entry of a domain. -/
def State.domainEntries (s : State) (d : Domain) : List DEntry :=
  d.entries ++ (s.domainTeams d.id).flatMap fun t => (s.team t).datoms

def State.domainCtx (s : State) (d : Domain) : Nat :=
  match s.launches.find? fun l => l.id == d.launchId with
  | some l => l.ctx
  | none => (s.team d.team).ctx

/-- Apply the entries of one epoch, address by address, each address in element order. -/
def applyEpoch (s : State) (d : Domain) (epoch : Nat) : State :=
  let es := (s.domainEntries d).filter fun e => e.epoch == epoch
  let s := (es.mergeSort fun a b => !keyLt b.key a.key).foldl (applyEntry (s.domainCtx d)) s
  let keep := fun (l : List DEntry) => l.filter fun e => e.epoch != epoch
  let s := s.modDomain d.id fun d => { d with entries := keep d.entries, applied := epoch + 1 }
  ((s.teams.filter fun x => x.2.domain == d.id).map fun x => x.1).foldl (fun s t => s.modTeam t fun x => { x with datoms := keep x.datoms }) s

/-- Flush point k is reached: every weft has executed its (k + 1)-th FLUSHPT or has ended (R396). -/
def State.flushReached (s : State) (d : Domain) (k : Nat) : Bool :=
  (s.unstarted d).isEmpty && d.lost.all (fun e => decide (k < e)) && (s.domainWefts d.id).all fun j => (s.weft j).status == .ended || decide (k < (s.weft j).sched.epoch)

/-- A weft that waits for a flush point that has been applied goes on; in a pair the partner is given the result. -/
def wakeFlush (s : State) (k : Nat) : State :=
  match (s.weft k).hold with
  | none => s
  | some h =>
    match h.kind with
    | .flushpt e =>
      let done := (s.domain? (s.teamOfWeft k).domain).all fun d => decide (e < d.applied)
      if done && s.canRelease k then releaseHold (giveOne s k 1) k h else s
    | _ => s

/-- FLUSH_POINT: the next flush point of a domain is applied, and its waiters go on. -/
def execFlushPoint (dom : Nat) (s : State) : Host.Outcome State Fault Refusal :=
  match s.domain? dom with
  | none => .next s
  | some d =>
    let k := d.applied
    let due := (s.domainEntries d).any (fun e => e.epoch == k) || (s.domainWefts dom).any fun j => decide (k < (s.weft j).sched.epoch)
    if !due || !s.flushReached d k then .next s
    else
      let s' := applyEpoch s d k
      taken s (.next ((s'.domainWefts dom).foldl wakeFlush s'))

/-- FLUSHPT: a release at .d, then the weft's epoch closes. A third closed epoch waits until the oldest has been applied (18_traps
R423). -/
def flushptBody (c : Ctx) (s : State) : Except Stop Eff :=
  let w := s.weft c.k
  let v := sregOf w c.i.a
  if 2 ≤ v.toNat ∨ (w.inTurn ∧ v.getLsbD 0) then trap .opbound
  else if !s.inDomain c.k then .ok { s := s }
  else
    let e := w.sched.epoch
    let close := fun (s : State) => s.modWeft c.k fun w => { w with sched := { w.sched with epoch := e + 1 } }
    let applied := ((s.domain? (s.teamOfWeft c.k).domain).map fun d => d.applied).getD 0
    performedOnce c s
      (if applied + 2 ≤ e then .error .stay
      else released c s (
        if v.getLsbD 0 && decide (applied ≤ e) then .error (.hold (close s) (.flushpt e))
        else .ok { s := close (giveOne s c.k 1) }))
      fun _ s => .ok { s := close s }

/-- FLUSHPT (R397) -/
def execFlushpt (p : Option Prefix) (a : Reg) (s : State) : Host.Outcome State Fault Refusal :=
  issue { (formA p 0x71 1 true 0 a 0) with irrev := s.inDomain s.cur } flushptBody s

/-! ## Domains held and admitted (R387) -/

/-- The order numbers of what is held for a domain. -/
def State.heldOrders (s : State) : List Nat :=
  ((s.launches.map fun l => l.held) ++ s.cores.flatMap fun c => c.2.queue.map fun r => r.held).filter fun n => n != 0

/-- A domain may begin now: fewer than 64 are tracked, and nothing is held before it. -/
def State.domainFree (s : State) : Bool := decide (s.domains.length < 64) && s.heldOrders.isEmpty

def State.newDomain (s : State) (launchId : Nat) : Nat × State :=
  let id := s.nextId
  (id, { s with domains := s.domains ++ [{ id := id, launchId := launchId }], nextId := id + 1 })

/-- DOMAIN_ADMIT: with fewer than 64 domains, the launch or record held first takes one. -/
def execDomainAdmit (s : State) : Host.Outcome State Fault Refusal :=
  match minCode s.heldOrders with
  | none => .next s
  | some n =>
    if 64 ≤ s.domains.length then .next s
    else match s.launches.find? fun l => l.held == n with
    | some l =>
      let (id, s) := s.newDomain l.id
      .next { s with launches := s.launches.map fun x => if x.id == l.id then { x with held := 0, domain := id } else x }
    | none =>
      let (id, s) := s.newDomain 0
      .next { s with cores := s.cores.map fun c =>
        (c.1, { c.2 with queue := c.2.queue.map fun r => if r.held == n then { r with held := 0, domain := id } else r }) }

end Sys2Proof.Machine
end

