-- ==== Sys2Proof/Machine/Fabric.lean ====
section
/-!
DEFINITION. Plait links (20_host_fabric R447 to R450): flits, their sending and receipt, training, retry, and the requests of
peers (07_memory_instructions R168, R174).
-/

namespace Sys2Proof

open Machine

/-! ## Flits (R448) -/

/-- Bytes 0 to 59, which the CRC covers. -/
def Flit.body (f : Flit) : List Byte :=
  [f.typ, f.fl] ++ leBytes 2 f.src.toNat ++ leBytes 2 f.dst.toNat ++ leBytes 2 f.id.toNat ++ leBytes 8 f.raddr.toNat
    ++ leBytes 16 f.op1.toNat ++ leBytes 8 f.op2.toNat ++ leBytes 8 f.zeros.toNat ++ leBytes 4 f.seq.toNat
    ++ leBytes 4 f.ack.toNat ++ leBytes 4 (f.zeros.toNat / 2 ^ 64)

def Flit.sealed (f : Flit) : Flit := { f with crc := crc32c f.body }
def Flit.crcOk (f : Flit) : Bool := f.crc == crc32c f.body

/-- IDLE, NAK and TRAIN carry no sequence number of their own. -/
def Flit.numbered (f : Flit) : Bool := f.typ != 0x70 && f.typ != 0x71 && f.typ != 0x7E

def Flit.blank : Flit :=
  { typ := 0, fl := 0, src := 0, dst := 0, id := 0, raddr := 0, op1 := 0, op2 := 0, zeros := 0, seq := 0, ack := 0, crc := 0 }

/-- Bytes of OP1 that a type uses. -/
def op1Bytes : Nat → Nat
  | 0x03 => 8 | 0x04 => 16 | 0x05 => 8 | 0x06 => 8 | 0x07 => 8
  | 0x41 => 16 | 0x43 => 1 | 0x71 => 4 | 0x7E => 3
  | _ => 0

def knownType (t : Nat) : Bool := (1 ≤ t && t ≤ 7) || t == 0x41 || t == 0x42 || t == 0x43 || t == 0x70 || t == 0x71 || t == 0x7E

/-- Every field that must be zero is zero. -/
def Flit.zerosOk (f : Flit) : Bool :=
  let t := f.typ.toNat
  f.fl &&& 0xFC == 0 && f.src.extractLsb' 12 4 == 0#4 && f.dst.extractLsb' 12 4 == 0#4 && f.zeros == 0
    && f.op1.toNat < 256 ^ op1Bytes t && (t == 6 || f.op2 == 0) && (t ≤ 7 || f.raddr == 0)

end Sys2Proof

namespace Sys2Proof.Machine

/-! ## Registers (R446) -/

def plctl (l : Nat) : Nat := 0xC000 + 64 * l
def plstat (l : Nat) : Nat := 0xC008 + 64 * l
def rwcfg (w : Nat) : Nat := 0xD000 + 32 * w
def rwbase (w : Nat) : Nat := 0xD008 + 32 * w
def rwlen (w : Nat) : Nat := 0xD010 + 32 * w
def routeReg (n : Nat) : Nat := 0x18000 + 8 * n

def State.modid (s : State) : Nat := s.field 0xB020 0 12
def State.linkState (s : State) (l : Nat) : Nat := s.field (plstat l) 0 2
def State.linkUp (s : State) (l : Nat) : Bool := s.linkState l == 2

def State.link (s : State) (l : Nat) : LinkEnd := SMap.get (fun _ => {}) s.fabric.links l
def State.setLink (s : State) (l : Nat) (e : LinkEnd) : State :=
  { s with fabric := { s.fabric with links := SMap.set (fun _ => {}) s.fabric.links l e } }

/-- The link that a remote access to peer n travels on (R449). -/
def State.linkTo (s : State) (n : Nat) : Option Nat :=
  if n = s.modid then none
  else (List.range 16).find? fun l => (s.reg (routeReg n)).getLsbD l && s.linkUp l

/-! ## Sending -/

/-- Send a flit on a link: it takes the next sequence number and is kept until it is acknowledged. In the viral state only the
refusal RERR leaves (R440, R448). The SEQ field of a flit without a number is free (log 6). -/
def State.send (s : State) (l : Nat) (f : Flit) : State :=
  if s.viral && f.typ != 0x43 then s
  else
    let e := s.link l
    let f := { f with src := BitVec.ofNat 16 s.modid, ack := e.recvSeq - 1 }
    if f.numbered then
      let f := ({ f with seq := e.sendSeq }).sealed
      s.setLink l { e with sendSeq := e.sendSeq + 1, kept := e.kept ++ [f], out := e.out ++ [f] }
    else
      let f := ({ f with seq := (Config.freeDword s.freeTick).setWidth 32 }).sealed
      (s.setLink l { e with out := e.out ++ [f] }).tick

/-- A response copies ID and FL.TAG and swaps SRC and DST. -/
def State.respond (s : State) (l : Nat) (f : Flit) (typ : Byte) (op1 : BitVec 128) : State :=
  s.send l { Flit.blank with typ := typ, fl := f.fl &&& 2, dst := f.src, id := f.id, op1 := op1 }

def State.refuse (s : State) (l : Nat) (f : Flit) (code : Nat) : State := s.respond l f 0x43 (BitVec.ofNat 128 code)

/-- NAK naming the next expected SEQ. -/
def State.nak (s : State) (l : Nat) (f : Flit) : State :=
  s.send l { Flit.blank with typ := 0x71, dst := f.src, op1 := (s.link l).recvSeq.setWidth 128 }

/-- `a` is at or before `b` in sequence numbers modulo 2^32. -/
def seqLe (a b : Word) : Bool := decide ((b - a).toNat < 2 ^ 31)

/-- An ACK lets go of the kept flits at or below it. -/
def State.takeAck (s : State) (l : Nat) (ack : Word) : State :=
  let e := s.link l
  s.setLink l { e with kept := e.kept.filter fun g => !seqLe g.seq ack }

/-- A flit fails its check: a bad CRC, or a SEQ that is not the next expected. -/
def State.flitBad (s : State) (l : Nat) (f : Flit) : Bool := !f.crcOk || (f.numbered && f.seq != (s.link l).recvSeq)

/-- The state after a flit with a good check has been received in order. -/
def State.accept (s : State) (l : Nat) (f : Flit) : State :=
  let s := s.takeAck l f.ack
  if f.numbered then
    let e := s.link l
    s.setLink l { e with recvSeq := e.recvSeq + 1 }
  else s

/-- A flit of an unknown type or with a field that is not zero is discarded, and refused when it could be a request. -/
def State.discardFlit (s : State) (l : Nat) (f : Flit) : State :=
  if 1 ≤ f.typ.toNat ∧ f.typ.toNat ≤ 0x3F then s.refuse l f 1 else s

/-- The outcome of a step that a missing structure may stop. -/
def outcomeOf : Except Fault State → Host.Outcome State Fault Refusal
  | .ok s => .next s
  | .error f => .fault f

/-- Receipt of a flit of type `t` on a link that is up: what the checks leave is handed to `act`. -/
def receive (t l : Nat) (f : Flit) (act : State → Except Fault State) (s : State) : Host.Outcome State Fault Refusal :=
  if !s.powered || f.typ.toNat != t || !s.linkUp l then .next s
  else if s.flitBad l f then .next (s.nak l f)
  else
    let s := s.accept l f
    outcomeOf (if f.zerosOk then act s else .ok (s.discardFlit l f))

/-! ## Requests of peers (R450, R174) -/

/-- Bytes that a request accesses. -/
def reqBytes (t : Nat) : Nat := if t = 2 ∨ t = 4 then 16 else 8

/-- What an atomic request leaves in memory for an old value. -/
def reqNew (f : Flit) (o : Dword) : Dword :=
  let x : Dword := f.op1.setWidth 64
  match f.typ.toNat with
  | 5 => o + x
  | 6 => if o = x then f.op2 else o
  | _ => x

/-- The value kept for a source's id, which a request sent again finds. -/
def State.keptFor (s : State) (f : Flit) : Option KeptVal :=
  s.fabric.kept.find? fun v => v.src == f.src.toNat && v.id == f.id.toNat

/-- Keep the old value of an atomic for its source and id, in place of an older one of the same id. -/
def State.keep (s : State) (f : Flit) (o : Dword) : State :=
  let rest := s.fabric.kept.filter fun v => !(v.src == f.src.toNat && v.id == f.id.toNat)
  { s with fabric := { s.fabric with kept := { src := f.src.toNat, id := f.id.toNat, val := o } :: rest } }

/-- Perform a request of a peer as a host access, and answer it. -/
def State.serve (s : State) (l : Nat) (f : Flit) : State :=
  let t := f.typ.toNat
  let n := reqBytes t
  let w := bitsOf f.raddr 60 4
  let off := bitsOf f.raddr 0 48
  let cfg := s.reg (rwcfg w)
  let wr := t != 1 && t != 2
  let atomic := 5 ≤ t
  if s.viral then s.refuse l f 2
  else if n = 16 ∧ s.field (plstat l) 4 4 < 2 then s.refuse l f 1
  else match (if atomic && f.fl.getLsbD 0 then s.keptFor f else none) with
  | some v => s.respond l f 0x41 (v.val.setWidth 128)
  | none =>
    if !cfg.getLsbD 0 || decide (s.field (rwlen w) 14 34 * 16384 ≤ off) || (wr && !cfg.getLsbD 1) || off % n != 0 then s.refuse l f 1
    else
      let va := (s.reg (rwbase w) &&& ~~~(16383 : Dword)) + BitVec.ofNat 64 off
      match s.hostXlate (bitsOf cfg 12 12) (if wr then .write else .read) va with
      | .error _ => s.refuse l f 1
      | .ok (pa, s) =>
        if !wr then
          let (bs, s) := s.hostRead pa n
          s.respond l f 0x41 (BitVec.ofNat 128 (leNat bs))
        else if atomic then
          let (bs, s) := s.hostRead pa 8
          let o := leDword bs
          ((s.hostWrite pa (leBytes 8 (reqNew f o).toNat)).keep f o).respond l f 0x41 (o.setWidth 128)
        else (s.hostWrite pa (leBytes n f.op1.toNat)).respond l f 0x42 0

/-! ## The aperture (R443), posts (16_scheduling R358), and what waits its turn -/

def State.aperture (s : State) (off : Nat) : Nat := s.field 0xB018 0 20 * 2 ^ 32 + off

/-- A host's write through the aperture; bytes at or above CAP are discarded. -/
def State.putAperture (s : State) (off bytes : Nat) (v : Dword) : State :=
  let pa := s.aperture off
  let n := min bytes (s.cap - pa)
  if n = 0 then s else s.hostWrite pa (leBytes n v.toNat)

/-- A host's read through the aperture: bytes at or above CAP read as all ones. In the viral state no completion carries device memory
(19_reliability R440). -/
def State.getAperture (s : State) (off bytes : Nat) : State :=
  if s.viral then s
  else
    let pa := s.aperture off
    let n := min bytes (s.cap - pa)
    let (bs, s) := if n = 0 then ([], s) else s.hostRead pa n
    { s with hostOut := s.hostOut ++ [.readData off bytes (leDword (bs ++ List.replicate (bytes - n) 0xFF))] }

/-- A host's post of a record: a queue that is full, or not enabled, discards it (R358). -/
def State.post (s : State) (q : Nat) (rec_ : BitVec 512) : Except Fault State :=
  if !s.qEn q ∨ s.qFull q then .ok (s.qErr q) else s.qAppend q (bitsBytes rec_)

/-- An access of a host, or a request of a peer, is performed. -/
def performHeld (s : State) : HeldHost → Except Fault State
  | .write off bytes v => .ok (s.putAperture off bytes v)
  | .read off bytes => .ok (s.getAperture off bytes)
  | .post q rec_ => s.post q rec_
  | .flit l f => .ok (s.serve l f)

/-- Accesses are performed in the order in which they came, up to the first that must wait. -/
def serveAll : List HeldHost → State → Except Fault State
  | [], s => .ok { s with held := [] }
  | h :: rest, s =>
    match performHeld s h with
    | .error f => .error f
    | .ok t =>
      let u := s.after t
      if t.coh.blocked && !u.viral then .ok { s with held := h :: rest } else serveAll rest u

/-- What waits is served in arrival order, but during a repair pause (04_dram_l2 R80). A viral module answers requests at once. -/
def State.serveHeld (s : State) : Except Fault State := if s.repairing && !s.viral then .ok s else serveAll s.held s

/-- An access of a host, or a request of a peer, arrives: it comes after those that wait, of whatever port or peer (R80, R443,
14_consistency R330; notes/assumptions 130). -/
def State.hostAccess (s : State) (h : HeldHost) : Except Fault State := { s with held := s.held ++ [h] }.serveHeld

/-- RLD8 (R448) -/
def execRld8 (link : Nat) (f : Flit) (s : State) : Host.Outcome State Fault Refusal := receive 0x01 link f (fun s => s.hostAccess (.flit link f)) s
/-- RLD16 (R448) -/
def execRld16 (link : Nat) (f : Flit) (s : State) : Host.Outcome State Fault Refusal := receive 0x02 link f (fun s => s.hostAccess (.flit link f)) s
/-- RST8 (R448) -/
def execRst8 (link : Nat) (f : Flit) (s : State) : Host.Outcome State Fault Refusal := receive 0x03 link f (fun s => s.hostAccess (.flit link f)) s
/-- RST16 (R448) -/
def execRst16 (link : Nat) (f : Flit) (s : State) : Host.Outcome State Fault Refusal := receive 0x04 link f (fun s => s.hostAccess (.flit link f)) s
/-- RADD (R448) -/
def execRaddFlit (link : Nat) (f : Flit) (s : State) : Host.Outcome State Fault Refusal := receive 0x05 link f (fun s => s.hostAccess (.flit link f)) s
/-- RCAS (R448) -/
def execRcas (link : Nat) (f : Flit) (s : State) : Host.Outcome State Fault Refusal := receive 0x06 link f (fun s => s.hostAccess (.flit link f)) s
/-- RXCH (R448) -/
def execRxch (link : Nat) (f : Flit) (s : State) : Host.Outcome State Fault Refusal := receive 0x07 link f (fun s => s.hostAccess (.flit link f)) s

/-! ## Answers (R170 to R173) -/

/-- The lanes of a flight that one request stands for: those that a load or store names the same address in (R147). -/
def Flight.shares (f : Flight) (lane : Nat) (l : LaneAcc) : Bool :=
  l.lane == lane || ((f.op == .rld || f.op == .rst) && f.lanes.any fun x => x.lane == lane && x.va == l.va)

/-- Record the answer to the request of one lane of a flight. -/
def Weft.answer (w : Weft) (seq lane : Nat) (val : Option (BitVec 128)) (cause : Option Cause) : Weft :=
  let put := fun (f : Flight) (l : LaneAcc) => if f.shares lane l then { l with val := val, cause := cause } else l
  { w with flights := w.flights.map fun f => if f.seq = seq ∧ f.op ≠ .func then { f with lanes := f.lanes.map (put f) } else f }

def Flight.answered (f : Flight) : Bool := f.lanes.all fun l => l.val.isSome || l.cause.isSome

/-- A remote access whose every lane has been answered completes: destinations, faults, and the partner's copy of the results. -/
def finishRemote (s : State) (k j : Nat) (f : Flight) : State :=
  let s := s.giveResult k f.ic (laneVals f.lanes) [] (f.lanes.filterMap fun l => l.cause.map fun c => (l.lane, c))
  remoteFaults (finishFlight s k j f) k f

/-- RST counts on flag B and completes when its last lane is acknowledged (R169). -/
def settleRst (s : State) (k seq : Nat) : State :=
  let w := s.weft k
  match (List.range w.flights.length).find? fun j => w.flights[j]?.any fun f => f.seq == seq && f.op == .rst && f.answered with
  | none => s
  | some j =>
    match w.flights[j]? with
    | some f => finishRemote s k j f
    | none => s

def dropSaved (s : State) (peer id : Nat) : State :=
  { s with fabric := { s.fabric with saved := s.fabric.saved.filter fun r => !(r.peer == peer && r.id == id) } }

/-- The wait of a lane is over, with a value or a fault. -/
def State.endWait (s : State) (x : RemoteWait) (val : Option (BitVec 128)) (cause : Option Cause) : State :=
  let s := { s with fabric := { s.fabric with waits := s.fabric.waits.erase x } }
  settleRst (s.modWeft x.k fun w => w.answer x.seq x.lane val cause) x.k x.seq

/-- The response to a request: a RETRY that is answered frees the saved request (R173). A response whose wait is over is
discarded (R172). A late response to the lost original is taken as the answer of a RETRY that is pending under the same id: a response
copies ID and FL.TAG alone, so that nothing tells the two apart (notes/assumptions 122). -/
def State.answered (s : State) (f : Flit) (val : Option (BitVec 128)) (cause : Option Cause) : State :=
  match s.fabric.waits.find? fun x => x.peer == f.src.toNat && x.flit.id == f.id && x.flit.fl.getLsbD 1 == f.fl.getLsbD 1 with
  | none => s
  | some x =>
    let s := if x.flit.fl.getLsbD 0 then dropSaved s x.peer f.id.toNat else s
    s.endWait x val cause

/-- RDATA (R448) -/
def execRdata (link : Nat) (f : Flit) (s : State) : Host.Outcome State Fault Refusal :=
  receive 0x41 link f (fun s => .ok (s.answered f (some f.op1) none)) s
/-- RACK (R448) -/
def execRack (link : Nat) (f : Flit) (s : State) : Host.Outcome State Fault Refusal :=
  receive 0x42 link f (fun s => .ok (s.answered f (some 0) none)) s
/-- RERR: either code is a PROT lane fault (R448) -/
def execRerr (link : Nat) (f : Flit) (s : State) : Host.Outcome State Fault Refusal :=
  receive 0x43 link f (fun s => .ok (s.answered f none (some .prot))) s

/-- What a lost RATOM leaves in its d pair: the id, and a code in the odd register (R172, R173). -/
def lostValue (id code : Nat) : BitVec 128 := BitVec.ofNat 128 (id % 65536 + code * 2 ^ 32)

/-- 32,768 later ids have been assigned for the peer (R172). -/
def State.lapsed (s : State) (peer at_ : Nat) : Bool := decide (at_ + 32768 < SMap.get zeroNat s.fabric.assigned peer)

/-- A response is lost: the lane takes ATOMIC; a RATOM's request is saved, once (R172, R173). -/
def State.lose (s : State) (x : RemoteWait) : State :=
  if x.flit.fl.getLsbD 1 then s.endWait x none (some .atomic)
  else
    let r : SavedReq := { peer := x.peer, id := x.flit.id.toNat, flit := { x.flit with fl := 0 }, at_ := x.at_ }
    let s := if x.flit.fl.getLsbD 0 || s.lapsed x.peer x.at_ then s
      else { s with fabric := { s.fabric with saved := s.fabric.saved ++ [r] } }
    s.endWait x (some (lostValue r.id 0xFFFFFFFF)) (some .atomic)

/-- RESPONSE_LOST: the wait of a lane of flight `j` has lasted 4,200,000 clocks (R172) -/
def execResponseLost (k j lane : Nat) (s : State) : Host.Outcome State Fault Refusal :=
  match (s.weft k).flights[j]? with
  | none => .next s
  | some f =>
    match s.fabric.waits.find? fun x => x.k == k && x.seq == f.seq && x.lane == lane with
    | some x => .next (s.lose x)
    | none => .next s

/-- SAVED_REQUEST_LAPSE: 16,800,000 clocks have passed since the first issue (R172) -/
def execSavedRequestLapse (peer id : Nat) (s : State) : Host.Outcome State Fault Refusal := .next (dropSaved s peer id)

/-- KEPT_VALUE_EXPIRY: 10 ms have passed, not counting repair pauses (R174) -/
def execKeptValueExpiry (src id : Nat) (s : State) : Host.Outcome State Fault Refusal :=
  if s.repairing then .next s
  else .next { s with fabric := { s.fabric with kept := s.fabric.kept.filter fun v => !(v.src == src && v.id == id) } }

/-! ## The link itself (R447, R448) -/

/-- IDLE carries only its ACK. -/
def execIdle (link : Nat) (f : Flit) (s : State) : Host.Outcome State Fault Refusal := receive 0x70 link f .ok s

/-- NAK: every kept flit from the named SEQ is sent again, and each counts in PLSTAT.RETRY. -/
def execNak (link : Nat) (f : Flit) (s : State) : Host.Outcome State Fault Refusal :=
  receive 0x71 link f (fun s =>
    let e := s.link link
    let again := e.kept.filter fun g => seqLe (f.op1.setWidth 32) g.seq
    let s := s.setLink link { e with out := e.out ++ again }
    .ok (s.setField (plstat link) 32 32 (s.field (plstat link) 32 32 + again.length))) s

/-- The highest version that this end offers; MAXV 0 acts as 1. -/
def State.offers (s : State) (l : Nat) : Nat := max 1 (s.field (plctl l) 4 4)

/-- TRAIN: an enabled link that is not up sends its own offer and comes up at the lower version with fresh sequence numbers, or
fails when the other end offers no version. -/
def execTrain (link : Nat) (f : Flit) (s : State) : Host.Outcome State Fault Refusal :=
  if !s.powered || f.typ.toNat != 0x7E || s.linkUp link || !(s.reg (plctl link)).getLsbD 0 then .next s
  else if !f.crcOk || !f.zerosOk then .next s
  else
    let theirs := bitsOf f.op1 0 8
    let peer := bitsOf f.op1 8 12
    let s := s.setLink link { out := (s.link link).out }
    let mine := s.offers link
    let s := s.send link { Flit.blank with typ := 0x7E, dst := f.src, op1 := BitVec.ofNat 128 (mine + 256 * s.modid) }
    let ver := min mine theirs
    if ver = 0 then .next (s.setField (plstat link) 0 2 3)
    else .next (((s.setField (plstat link) 4 4 ver).setField (plstat link) 16 12 peer).setField (plstat link) 0 2 2)

/-- LINK_FAIL: STATE 3, and every request on the link whose response is pending is lost (R447, R172). -/
def execLinkFail (link : Nat) (s : State) : Host.Outcome State Fault Refusal :=
  if !s.linkUp link then .next s
  else
    let s := s.setField (plstat link) 0 2 3
    .next ((s.fabric.waits.filter fun x => x.link == link).foldl State.lose s)

/-- FLIT_CHECK_FAILURE: the flit is discarded and a NAK names the next expected SEQ. -/
def execFlitCheckFailure (link : Nat) (f : Flit) (s : State) : Host.Outcome State Fault Refusal :=
  if s.powered && s.linkUp link && s.flitBad link f then .next (s.nak link f) else .next s

/-- UNKNOWN_FLIT_TYPE: a good flit of no known type, or with a zero field that is not zero, is discarded without a NAK. -/
def execUnknownFlitType (link : Nat) (f : Flit) (s : State) : Host.Outcome State Fault Refusal :=
  if s.powered && s.linkUp link && !s.flitBad link f && (!knownType f.typ.toNat || !f.zerosOk) then
    .next ((s.accept link f).discardFlit link f)
  else .next s

end Sys2Proof.Machine
end

