-- ==== Sys2Proof/Machine/FloatFn.lean ====
section
/-!
DEFINITION. The correctly rounded functions (10_formats R248, 12_float R286, R287): an interval around the exact value is
computed in fixed point and its two ends are rounded; when they agree, that is the result. The precision is doubled until they do, 63 times
at most; a free value stands only for what 2^71 bits do not decide (notes/assumptions 7).
-/

namespace Sys2Proof.Machine

/-! ## Fixed point: an integer X stands for X / 2^P -/

/-- A sum of terms t, each made from the one before; `k` counts them. -/
def series (next : Nat → Nat → Nat) : Nat → Nat → Nat → Nat → Nat
  | 0, _, _, acc => acc
  | fuel + 1, k, t, acc => if t = 0 then acc else series next fuel (k + 1) (next k t) (acc + t)

/-- 2·atanh(num/den) = 2 Σ (num/den)^(2n+1) / (2n+1), for |num/den| ≤ 1/2. -/
def atanh2 (P num den : Nat) : Nat :=
  let y := num * 2 ^ P / den
  let y2 := y * y / 2 ^ P
  let go : Nat → Nat → Nat → Nat → Nat := Nat.rec (fun _ _ acc => acc)
    (fun _ ih k t acc => if t = 0 then acc else ih (k + 1) (t * y2 / 2 ^ P) (acc + t / (2 * k + 1)))
  2 * go P 0 y 0

def ln2 (P : Nat) : Nat := atanh2 P 1 3

/-- arctan(1/n). -/
def atanInv (P n : Nat) : Nat :=
  let go : Nat → Nat → Nat → Nat → Nat → Nat := Nat.rec (fun _ _ pos neg => pos - neg)
    (fun _ ih k t pos neg =>
      if t = 0 then pos - neg
      else if k % 2 = 0 then ih (k + 1) (t / (n * n)) (pos + t / (2 * k + 1)) neg
      else ih (k + 1) (t / (n * n)) pos (neg + t / (2 * k + 1)))
  go P 0 (2 ^ P / n) 0 0

/-- π, by Machin's formula. -/
def piFix (P : Nat) : Nat := 16 * atanInv P 5 - 4 * atanInv P 239

/-- e^(X/2^P) as y and k: about y·2^(k − P), with 2^P ≤ y < 2^(P+1). -/
def expFix (P : Nat) (X : Int) : Nat × Int :=
  let L := ln2 P
  let k := X / (L : Int)
  let r := (X % (L : Int)).toNat / 2 ^ 8
  let s := series (fun n t => t * r / 2 ^ P / (n + 1)) P 0 (2 ^ P) 0
  ((List.range 8).foldl (fun y _ => y * y / 2 ^ P) s, k)

/-- The multiple of 2^-P at or below m·2^e. -/
def toFix (P : Nat) (m : Nat) (e : Int) : Nat := m * 2 ^ (e + P).toNat / 2 ^ (-(e + P)).toNat

/-- e^(−u) Σ (2u)^n / (2n+1)!! for u = U/2^P, with P bits of relative precision: a value and a power of two. -/
def gaussG (P U : Nat) : Nat × Int :=
  let s := series (fun n t => t * 2 * U / 2 ^ P / (2 * n + 3)) (4 * P + 64) 0 (2 ^ P) 0
  let (y, k) := expFix P (-(U : Int))
  (s * y / 2 ^ P, k - P)

/-! ## Enclosures -/

/-- The exact value lies strictly between lo·2^e and hi·2^e. -/
structure Enc where
  neg : Bool
  lo  : Nat
  hi  : Nat
  e   : Int

/-- A value within 2^128 units of its last place. -/
def around (neg : Bool) (y : Nat) (e : Int) : Enc := { neg := neg, lo := y - 2 ^ 128, hi := y + 2 ^ 128, e := e }

/-- A value just above or just below 2^j, nearer than 2^(j − 150). -/
def justAbove (neg : Bool) (j : Int) : Enc := { neg := neg, lo := 2 ^ 150, hi := 2 ^ 150 + 1, e := j - 150 }
def justBelow (neg : Bool) (j : Int) : Enc := { neg := neg, lo := 2 ^ 150 - 1, hi := 2 ^ 150, e := j - 150 }
def hugeVal : Enc := { neg := false, lo := 1, hi := 2, e := 5000 }
def tinyVal : Enc := { neg := false, lo := 0, hi := 1, e := -1200 }

/-- The functions by code (R286), at a finite operand that is no special case; `lvl` raises the precision. -/
def enclose (fn lvl : Nat) (neg : Bool) (m : Nat) (e : Int) : Enc :=
  let P := 320 * 2 ^ lvl
  let E : Int := e + bitLen m - 1      -- 2^E ≤ |a| < 2^(E+1)
  let signed := fun (x : Nat) => if neg then -(x : Int) else (x : Int)
  match fn with
  | 0 =>
    if 11 ≤ E then (if neg then tinyVal else hugeVal)
    else if E < -200 then (if neg then justBelow false 0 else justAbove false 0)
    else
      let (y, k) := expFix P (signed (toFix P m e))
      around false y (k - P)
  | 1 =>
    if 12 ≤ E then (if neg then tinyVal else hugeVal)
    else if E < -200 then (if neg then justBelow false 0 else justAbove false 0)
    else
      let X := signed (toFix P m e)
      let n := X / (2 ^ P : Nat)
      let f := (X % (2 ^ P : Nat)).toNat
      let (y, k) := expFix P ((f * ln2 P / 2 ^ P : Nat) : Int)
      around false y (n + k - P)
  | 2 => logEnc P m E false
  | 3 => logEnc P m E true
  | 4 =>
    if 5 ≤ E then justBelow neg 0
    else
      let x := toFix P m e
      let (g, ge) := gaussG P (x * x / 2 ^ P)
      -- 2/√π · a · G(a²)
      let c := 2 ^ (2 * P + 1) / isqrtBig (piFix P * 2 ^ P)
      around neg (m * (g * c / 2 ^ P)) (e + ge)
  | 5 =>
    if neg ∧ 5 ≤ E then justBelow false 1
    else if 5 ≤ E then tinyVal
    else if E < -200 then (if neg then justAbove false 0 else justBelow false 0)
    else
      let P := P + (if E < 0 then 0 else 3 * 4 ^ (E.toNat + 1))
      let x := toFix P m e
      let (g, ge) := gaussG P (x * x / 2 ^ P)
      let c := 2 ^ (2 * P + 1) / isqrtBig (piFix P * 2 ^ P)
      let r := x * (g * c / 2 ^ P) / 2 ^ (-ge).toNat
      around false (if neg then 2 ^ P + r else 2 ^ P - r) (-(P : Int))
  | 6 =>
    if neg ∧ 6 ≤ E then tinyVal
    else if 6 ≤ E then justBelow false 0
    else if E < -200 then (if neg then justBelow false (-1) else justAbove false (-1))
    else
      let P := P + (if E < 0 then 0 else 2 * 4 ^ (E.toNat + 1))
      let x := toFix P m e
      let (g, ge) := gaussG P (x * x / 2 ^ (P + 1))
      let c := 2 ^ (2 * P) / isqrtBig (2 * piFix P * 2 ^ P)
      let r := x * (g * c / 2 ^ P) / 2 ^ (-ge).toNat
      around false (if neg then 2 ^ (P - 1) - r else 2 ^ (P - 1) + r) (-(P : Int))
  | _ =>
    if 7 ≤ E then justBelow neg 0
    else if E < -60 then { neg := neg, lo := m * 2 ^ 60 - 1, hi := m * 2 ^ 60, e := e - 60 }
    else
      let (y, k) := expFix P (-(toFix P (2 * m) e : Int))
      let t := y / 2 ^ (-k).toNat
      around neg ((2 ^ P - t) * 2 ^ P / (2 ^ P + t)) (-(P : Int))
where
  /-- Integer square root of a number of any size. -/
  isqrtBig (n : Nat) : Nat := isqrtGo n 200 (2 ^ ((bitLen n + 1) / 2))
  /-- ln a, or log₂ a, of m·2^e. -/
  logEnc (P m : Nat) (E : Int) (two : Bool) : Enc :=
    -- z in [3/4, 3/2)
    let l := bitLen m
    let big := decide (3 * 2 ^ (l - 1) ≤ 2 * m)
    let den := if big then 2 ^ l else 2 ^ (l - 1)
    let k := if big then E + 1 else E
    let up := decide (den ≤ m)
    let t := atanh2 P (if up then m - den else den - m) (m + den)
    let L := ln2 P
    let v : Int := (if up then (t : Int) else -(t : Int)) + k * L
    let a := v.natAbs
    around (decide (v < 0)) (if two then a * 2 ^ P / L else a) (-(P : Int))

/-- The exact results of R248 and R287 for finite operands: none elsewhere. -/
def exactFn (fn : Nat) (t : FFmt) (v : FEnv) (neg : Bool) (m : Nat) (e : Int) : Option FRes :=
  let one : FVal := .fin false 1 0
  match fn with
  | 0 => if m = 0 then some (roundVal t v one) else none
  | 1 =>
    if m = 0 then some (roundVal t v one)
    else if 40 ≤ e then none
    else if m % 2 ^ (-e).toNat = 0 then
      let n : Int := (m * 2 ^ e.toNat / 2 ^ (-e).toNat : Nat)
      let n := if neg then -n else n
      if n < -5000 ∨ 5000 < n then none else some (roundVal t v (.fin false 1 n))
    else none
  | 2 =>
    if m = 0 then some { infF t v true with flags := fDZ }
    else if neg then some (nanF t fNV)
    else if 0 ≤ -e ∧ m = 2 ^ (-e).toNat then some { bits := 0 } else none
  | 3 =>
    if m = 0 then some { infF t v true with flags := fDZ }
    else if neg then some (nanF t fNV)
    else
      let l := bitLen m - 1
      if m = 2 ^ l then
        let n := e + l
        some (roundVal t v (.fin (decide (n < 0)) n.natAbs 0))
      else none
  | 5 => if m = 0 then some (roundVal t v one) else none
  | 6 => if m = 0 then some (roundVal t v (.fin false 1 (-1))) else none
  | _ => if m = 0 then some { bits := t.signBit neg } else none

/-- Results at infinities (R287). -/
def infFn (fn : Nat) (t : FFmt) (v : FEnv) (neg : Bool) : FRes :=
  let one : FVal := .fin false 1 0
  match fn with
  | 0 => if neg then { bits := 0 } else infF t v false
  | 1 => if neg then { bits := 0 } else infF t v false
  | 2 => if neg then nanF t fNV else infF t v false
  | 3 => if neg then nanF t fNV else infF t v false
  | 5 => if neg then roundVal t v (.fin false 2 0) else { bits := 0 }
  | 6 => if neg then { bits := 0 } else roundVal t v one
  | _ => roundVal t v (.fin neg 1 0)

/-- Both ends of an enclosure round alike. -/
def decideEnc (t : FFmt) (v : FEnv) (x : Enc) : Option FRes :=
  let lo := roundF t v { neg := x.neg, m := x.lo, e := x.e, sticky := true }
  let hi := roundF t v { neg := x.neg, m := x.hi - 1, e := x.e, sticky := true }
  if lo = hi then some lo else none

/-- How often the precision of an enclosure may be doubled. -/
def precisionLevels : Nat := 64

/-- A correctly rounded function of a value, in a format. -/
def fFn (fn : Nat) (t : FFmt) (v : FEnv) (x : FVal) : FRes :=
  match x with
  | .nan sg => nanF t (if sg then fNV else 0)
  | .inf n => infFn fn t v n
  | .fin n m e =>
    match exactFn fn t v n m e with
    | some r => r
    | none =>
      match (List.range precisionLevels).findSome? fun lvl => decideEnc t v (enclose fn lvl n m e) with
      | some r => r
      | none =>
        let r := Config.undecidedFn fn t.code v.rm (m * 2 ^ 64 + (e + 5000).toNat)
        { bits := r.1 % 2 ^ t.bits, flags := r.2 }

end Sys2Proof.Machine
end

