-- ==== Sys2Proof/Machine/FloatOps.lean ====
section
/-!
DEFINITION. The floating groups: opcodes 0x28 to 0x32 (12_float R275 to R293), with the shadow comparison of R249 and
the completion of a function (R288, R289).
-/

namespace Sys2Proof.Machine

/-! ## Shadow upsets (R249, R436) -/

/-- The fraction bits that a shadow unit keeps. -/
def FFmt.kept (t : FFmt) : Nat := min 6 t.f
/-- The format of what it delivers: sign, exponent field and those bits. -/
def FFmt.short (t : FFmt) : FFmt := { t with bits := 1 + t.e + t.kept, f := t.kept }

/-- A main result and what the shadow unit delivers agree. Fields of zeros stand for a zero or for a subnormal number below those bits, as
the main result has it (DEDUCED: the rule speaks of a result that is a zero; notes/assumptions 124). -/
def agrees (t : FFmt) (main shadow : Nat) : Bool :=
  let h := 2 ^ (t.e + t.kept)
  let T := main / 2 ^ (t.f - t.kept)
  match t.decode main, t.short.decode shadow with
  | .nan _, .nan _ => true
  | .inf a, .inf b => a == b
  | .fin n m _, .fin n' _ _ =>
    if m = 0 then n == n' && shadow % h == 0
    else if n = n' then decide (T % h ≤ shadow % h + 1) && decide (shadow % h ≤ T % h + 1)
    else decide (T % h ≤ 1) && decide (shadow % h ≤ 1)
  | _, _ => false

/-- The lanes of a list in which some element does not agree; `elems` gives the main results of a lane. -/
def disagree (t : FFmt) (elems : Nat → List Nat) (lanes : List Nat) (sh : List (Nat × List Nat)) : Mask :=
  maskOf (lanes.filter fun L => match sh.find? fun x => x.1 == L with
    | some x => !((elems L).zip x.2).all fun y => agrees t y.1 y.2
    | none => false)

/-- What the shadow units of the instruction at an IC deliver, the first time and at its retry. -/
def State.shadowAt (s : State) (k : Nat) (ic : Dword) : Option (List (Nat × List Nat) × List (Nat × List Nat)) :=
  s.upsets.findSome? fun u => match u with
    | .shadow k' ic' a b => if k' = k ∧ ic' = ic then some (a, b) else none
    | _ => none

/-- A retry: the upset is spent and counted. -/
def State.shadowRetry (s : State) (k : Nat) (ic : Dword) : State :=
  let s := { s with upsets := s.upsets.filter fun u => match u with
    | .shadow k' ic' _ _ => !(k' == k && ic' == ic)
    | _ => true }
  s.setReg 0xA010 (withBits (s.reg 0xA010) 0 32 (s.field 0xA010 0 32 + 1))

/-! ## The shared sequence (R277) -/

/-- The lane number that dither positions count from: 0 for a uniform result. -/
def Ctx.ditherLane (c : Ctx) (x : LaneIn) : Nat := if c.i.u then 0 else x.lane

/-- A floating lane function under the weft's FMODE: `g` is given the environment at each dither position. -/
def fpLane (c : Ctx) (w : Weft) (g : (Nat → FEnv) → Nat → LaneIn → FRes) : LaneFn := fun x =>
  let r := g (fenv w.regs.fmode (rmOf c.i.p w.regs.fmode)) (c.ditherLane x) x
  { val := BitVec.ofNat 128 r.bits, flags := r.flags
    fault := if r.flags &&& enables w.regs.fmode ≠ 0 then some .fpx else none }

/-- Run a floating body under the shadow comparison: a disagreement retries once and sets SC where it was, a second raises SHADOW. -/
def shadowed (t : FFmt) (elems : Nat → List Nat) (f : LaneFn) (run : LaneFn → Ctx → State → Except Stop Eff) (c : Ctx) (s : State) : Except Stop Eff :=
  let w := s.weft c.k
  match s.shadowAt c.k w.flow.ic with
  | none => run f c s
  | some (sh, sh') =>
    let first := disagree t elems (c.computing w) sh
    if first = 0 then run f c s
    else
      let s := s.shadowRetry c.k w.flow.ic
      let again := disagree t elems (c.computing w) sh'
      if again ≠ 0 then
        .error (.whole (takeTrap s c.k .shadow c.pc w.flow.ic 0 (lowestLane w.width again) c.pc .body))
      else
        run (fun x => let r := f x
                      if first.getLsbD x.lane then { r with flags := r.flags ||| fSC } else r) c s

/-- The elements of a result: n of them, each of the format's width, from bit 0 upward. -/
def elemsIn (t : FFmt) (n : Nat) (v : Nat) : List Nat := (List.range n).map fun j => bitsN v (t.bits * j) t.bits

/-- Issue of a floating instruction whose result goes to a register; `shadow` is the format and the number of elements that a shadow unit
computes too. -/
def issueF (i : Info) (shadow : Option (FFmt × Nat)) (g : (Nat → FEnv) → Nat → LaneIn → FRes) (s : State) :
    Host.Outcome State Fault Refusal :=
  issue i (fun c s =>
    let w := s.weft c.k
    let f := fpLane c w g
    match shadow with
    | some (t, n) => shadowed t (fun L => elemsIn t n (f (c.lane w L)).val.toNat) f (laneEffect true) c s
    | none => laneEffect true f c s) s

/-- Issue of a floating comparison. -/
def issueFCmp (i : Info) (g : (Nat → FEnv) → Nat → LaneIn → FRes) (s : State) : Host.Outcome State Fault Refusal :=
  issue i (fun c s => maskEffect (fpLane c (s.weft c.k) g) c s) s

/-- The format of opcode pairs: FP64 for the odd one. -/
def fmt64 (t : Bool) : FFmt := ffmt (if t then 5 else 4)

def opT (op : Nat) (t : Bool) : Nat := if t then op + 1 else op

/-- A function of the values of a and b. -/
def fp2 (t : FFmt) (h : FEnv → FVal → FVal → FRes) : (Nat → FEnv) → Nat → LaneIn → FRes := fun env L x =>
  let v := env L
  h v (t.operand v.ftzi (x.a.toNat % 2 ^ t.bits)) (t.operand v.ftzi (x.b.toNat % 2 ^ t.bits))

/-- A function of the value of a. -/
def fp1 (t : FFmt) (h : FEnv → FVal → FRes) : (Nat → FEnv) → Nat → LaneIn → FRes := fun env L x =>
  let v := env L
  h v (t.operand v.ftzi (x.a.toNat % 2 ^ t.bits))

/-- A bit-pattern function of a and b, which ignores FMODE. -/
def fpBits (h : Nat → Nat → Nat) (t : FFmt) : (Nat → FEnv) → Nat → LaneIn → FRes := fun _ _ x =>
  { bits := h (x.a.toNat % 2 ^ t.bits) (x.b.toNat % 2 ^ t.bits) }

def fpMinMax (t : FFmt) (isMax : Bool) : (Nat → FEnv) → Nat → LaneIn → FRes := fun env L x =>
  let v := env L
  let xb := t.flush v.ftzi (x.a.toNat % 2 ^ t.bits)
  let yb := t.flush v.ftzi (x.b.toNat % 2 ^ t.bits)
  fMinMax t isMax xb yb (t.decode xb) (t.decode yb)

def fpFma (t : FFmt) : (Nat → FEnv) → Nat → LaneIn → FRes := fun env L x =>
  let v := env L
  let o := fun (y : BitVec 128) => t.operand v.ftzi (y.toNat % 2 ^ t.bits)
  fFma t v (o x.a) (o x.b) (o x.c)

/-! ## Opcodes 0x28 and 0x29 (R279 to R281) -/

def formF (op : Nat) (fn : Nat) (p : Option Prefix) (t u : Bool) (d a b : Reg) : Info := formA p (opT op t) fn u d a b

/-- FADD (R279) -/
def execFadd (p : Option Prefix) (t u : Bool) (d a b : Reg) (s : State) : Host.Outcome State Fault Refusal :=
  issueF (formF 0x28 0 p t u d a b) (some (fmt64 t, 1)) (fp2 (fmt64 t) (fAdd (fmt64 t))) s
/-- FSUB (R279) -/
def execFsub (p : Option Prefix) (t u : Bool) (d a b : Reg) (s : State) : Host.Outcome State Fault Refusal :=
  issueF (formF 0x28 1 p t u d a b) (some (fmt64 t, 1)) (fp2 (fmt64 t) fun v x y => fAdd (fmt64 t) v x y.negate) s
/-- FMUL (R279) -/
def execFmul (p : Option Prefix) (t u : Bool) (d a b : Reg) (s : State) : Host.Outcome State Fault Refusal :=
  issueF (formF 0x28 2 p t u d a b) (some (fmt64 t, 1)) (fp2 (fmt64 t) (fMul (fmt64 t))) s
/-- FDIV (R279) -/
def execFdiv (p : Option Prefix) (t u : Bool) (d a b : Reg) (s : State) : Host.Outcome State Fault Refusal :=
  issueF (formF 0x28 3 p t u d a b) (some (fmt64 t, 1)) (fp2 (fmt64 t) (fDiv (fmt64 t))) s
/-- FMIN (R281) -/
def execFmin (p : Option Prefix) (t u : Bool) (d a b : Reg) (s : State) : Host.Outcome State Fault Refusal :=
  issueF (formF 0x28 4 p t u d a b) (some (fmt64 t, 1)) (fpMinMax (fmt64 t) false) s
/-- FMAX (R281) -/
def execFmax (p : Option Prefix) (t u : Bool) (d a b : Reg) (s : State) : Host.Outcome State Fault Refusal :=
  issueF (formF 0x28 5 p t u d a b) (some (fmt64 t, 1)) (fpMinMax (fmt64 t) true) s
/-- FFMA (R280) -/
def execFfma (p : Option Prefix) (t u : Bool) (d a b : Reg) (s : State) : Host.Outcome State Fault Refusal :=
  issueF (formF 0x28 6 p t u d a b) (some (fmt64 t, 1)) (fpFma (fmt64 t)) s
/-- FCOPYSIGN (R279, R281) -/
def execFcopysign (p : Option Prefix) (t u : Bool) (d a b : Reg) (s : State) : Host.Outcome State Fault Refusal :=
  let h := 2 ^ ((fmt64 t).bits - 1)
  issueF (formF 0x28 7 p t u d a b) (some (fmt64 t, 1)) (fpBits (fun x y => x % h + y / h * h) (fmt64 t)) s

/-! ## Opcodes 0x2A and 0x2B (R282 to R285) -/

/-- FSQRT (R282) -/
def execFsqrt (p : Option Prefix) (t u : Bool) (d a : Reg) (s : State) : Host.Outcome State Fault Refusal :=
  issueF (formF 0x2A 0 p t u d a 0) (some (fmt64 t, 1)) (fp1 (fmt64 t) (fSqrt (fmt64 t))) s
/-- FRSQ (R282) -/
def execFrsq (p : Option Prefix) (t u : Bool) (d a : Reg) (s : State) : Host.Outcome State Fault Refusal :=
  issueF (formF 0x2A 1 p t u d a 0) (some (fmt64 t, 1)) (fp1 (fmt64 t) (fRsq (fmt64 t))) s
/-- FREC (R282) -/
def execFrec (p : Option Prefix) (t u : Bool) (d a : Reg) (s : State) : Host.Outcome State Fault Refusal :=
  issueF (formF 0x2A 2 p t u d a 0) (some (fmt64 t, 1)) (fp1 (fmt64 t) (fRec (fmt64 t))) s
/-- FABS (R282) -/
def execFabs (p : Option Prefix) (t u : Bool) (d a : Reg) (s : State) : Host.Outcome State Fault Refusal :=
  let h := 2 ^ ((fmt64 t).bits - 1)
  issueF (formF 0x2A 3 p t u d a 0) (some (fmt64 t, 1)) (fpBits (fun x _ => x % h) (fmt64 t)) s
/-- FNEG (R282) -/
def execFneg (p : Option Prefix) (t u : Bool) (d a : Reg) (s : State) : Host.Outcome State Fault Refusal :=
  let h := 2 ^ ((fmt64 t).bits - 1)
  issueF (formF 0x2A 4 p t u d a 0) (some (fmt64 t, 1)) (fpBits (fun x _ => (x + h) % (2 * h)) (fmt64 t)) s
/-- FRND (R283) -/
def execFrnd (p : Option Prefix) (t u : Bool) (d a : Reg) (s : State) : Host.Outcome State Fault Refusal :=
  issueF (formF 0x2A 5 p t u d a 0) (some (fmt64 t, 1)) (fun env L x =>
    let v := env L
    let xb := (fmt64 t).flush v.ftzi (x.a.toNat % 2 ^ (fmt64 t).bits)
    fRnd (fmt64 t) v xb ((fmt64 t).decode xb)) s
/-- FCLASS: 32 bits for FP64 too (R284) -/
def execFclass (p : Option Prefix) (t u : Bool) (d a : Reg) (s : State) : Host.Outcome State Fault Refusal :=
  issueF (formF 0x2A 6 p t u d a 0) none (fpBits (fun x _ => fClass (fmt64 t) x) (fmt64 t)) s
/-- FSCALE: b is one 32-bit register (R285) -/
def execFscale (p : Option Prefix) (t u : Bool) (d a b : Reg) (s : State) : Host.Outcome State Fault Refusal :=
  issueF (formF 0x2A 7 p t u d a b) (some (fmt64 t, 1)) (fun env L x =>
    fp1 (fmt64 t) (fun v y => fScale (fmt64 t) v y (w32 x.b).toInt) env L x) s

/-! ## Opcodes 0x2C and 0x2D: correctly rounded functions (R286 to R289) -/

/-- At issue the flags are raised, enabled exceptions fault their lanes, and the records are pushed; the destination waits
for the result (R288). -/
def functionEffect (fn : Nat) (t : FFmt) (c : Ctx) (s : State) : Except Stop Eff :=
  let w := s.weft c.k
  let rs := laneResults (fpLane c w (fp1 t (fFn fn t))) c w
  let ok := rs.filter fun r => r.2.fault.isNone
  let flag := c.flagNo w
  let d := if c.i.u then c.i.d.toNat else physReg w.regs c.i.d.toNat
  let f : Flight := { op := .func, flag := flag, pc := c.pc, ic := w.flow.ic, uni := c.i.u, d := d
                      words := c.i.dk.words, bytes := 4 * c.i.dk.words, zlanes := c.zeroed
                      lanes := ok.map fun r => { lane := r.1, va := 0, pa := 0, x := r.2.val } }
  let recs := destRecs w (survivors c rs)
  let w' := (applyFaults rs w).countFlag flag
  .ok { s := s.setWeft c.k { w' with flights := w'.flights ++ [f] }, recs := recs, noUndo := true }

def issueFn (fn : Nat) (p : Option Prefix) (t u : Bool) (d a : Reg) (s : State) : Host.Outcome State Fault Refusal :=
  issue (formF 0x2C fn p t u d a 0) (functionEffect fn (fmt64 t)) s

/-- FEXP (R286) -/
def execFexp (p : Option Prefix) (t u : Bool) (d a : Reg) (s : State) : Host.Outcome State Fault Refusal := issueFn 0 p t u d a s
/-- FEXP2 (R286) -/
def execFexp2 (p : Option Prefix) (t u : Bool) (d a : Reg) (s : State) : Host.Outcome State Fault Refusal := issueFn 1 p t u d a s
/-- FLOG (R286) -/
def execFlog (p : Option Prefix) (t u : Bool) (d a : Reg) (s : State) : Host.Outcome State Fault Refusal := issueFn 2 p t u d a s
/-- FLOG2 (R286) -/
def execFlog2 (p : Option Prefix) (t u : Bool) (d a : Reg) (s : State) : Host.Outcome State Fault Refusal := issueFn 3 p t u d a s
/-- FERF (R286) -/
def execFerf (p : Option Prefix) (t u : Bool) (d a : Reg) (s : State) : Host.Outcome State Fault Refusal := issueFn 4 p t u d a s
/-- FERFC (R286) -/
def execFerfc (p : Option Prefix) (t u : Bool) (d a : Reg) (s : State) : Host.Outcome State Fault Refusal := issueFn 5 p t u d a s
/-- FNCDF (R286) -/
def execFncdf (p : Option Prefix) (t u : Bool) (d a : Reg) (s : State) : Host.Outcome State Fault Refusal := issueFn 6 p t u d a s
/-- FTANH (R286) -/
def execFtanh (p : Option Prefix) (t u : Bool) (d a : Reg) (s : State) : Host.Outcome State Fault Refusal := issueFn 7 p t u d a s

/-- FUNCTION_RESULT: the destination is written in the lanes whose shadow agrees, at once or at the retry; SC is set without
a record; lanes that disagree twice keep their destination and SHADOW waits for the clause that waits on the flag
(R288, R289). -/
def execFunctionResult (k j : Nat) (s : State) : Host.Outcome State Fault Refusal :=
  let w := s.weft k
  match w.flights[j]? with
  | none => .next s
  | some f =>
    if f.op ≠ .func then .next s
    else
      let t := fmt64 (f.words == 2)
      let lanes := f.lanes.map fun l => l.lane
      let elems := fun (L : Nat) => ((f.lanes.filter fun l => l.lane == L).map fun l => l.x.toNat % 2 ^ t.bits)
      let (first, again, s) : Mask × Mask × State := match s.shadowAt k f.ic with
        | none => (0, 0, s)
        | some (a, b) =>
          let first := disagree t elems lanes a
          if first = 0 then (0, 0, s) else (first, disagree t elems lanes b, s.shadowRetry k f.ic)
      let w := f.lanes.foldl (fun w l => if again.getLsbD l.lane then w else f.put w l.lane l.x) w
      let w := (lanesOf w.width f.zlanes).foldl (fun w L => f.put w L 0) w
      let w := if again = 0 then (lanesOf w.width first).foldl (fun w L => w.orFflag L fSC) w
        else { w with trap := { w.trap with impr := w.trap.impr ++
          [{ cause := .shadow, pc := f.pc, ic := f.ic, lane := lowestLane w.width again, mask := 0, addr := 0
             gate := some f.flag }] } }
      .next (s.setWeft k (w.land j f))

/-! ## Opcodes 0x2E and 0x2F (R290) -/

def issueFcond (fn : Nat) (p : Option Prefix) (t u : Bool) (d : BitVec 3) (a b : Reg) (s : State) :
    Host.Outcome State Fault Refusal :=
  issueFCmp (formF 0x2E fn p t u (d.setWidth 7) a b)
    (fp2 (fmt64 t) fun _ x y => let r := fCmp fn x y; { bits := if r.1 then 1 else 0, flags := r.2 }) s

/-- FCMP.EQ (R290) -/
def execFcmpEq (p : Option Prefix) (t u : Bool) (d : BitVec 3) (a b : Reg) (s : State) : Host.Outcome State Fault Refusal :=
  issueFcond 0 p t u d a b s
/-- FCMP.NE (R290) -/
def execFcmpNe (p : Option Prefix) (t u : Bool) (d : BitVec 3) (a b : Reg) (s : State) : Host.Outcome State Fault Refusal :=
  issueFcond 1 p t u d a b s
/-- FCMP.LT (R290) -/
def execFcmpLt (p : Option Prefix) (t u : Bool) (d : BitVec 3) (a b : Reg) (s : State) : Host.Outcome State Fault Refusal :=
  issueFcond 2 p t u d a b s
/-- FCMP.LE (R290) -/
def execFcmpLe (p : Option Prefix) (t u : Bool) (d : BitVec 3) (a b : Reg) (s : State) : Host.Outcome State Fault Refusal :=
  issueFcond 3 p t u d a b s
/-- FCMP.GT (R290) -/
def execFcmpGt (p : Option Prefix) (t u : Bool) (d : BitVec 3) (a b : Reg) (s : State) : Host.Outcome State Fault Refusal :=
  issueFcond 4 p t u d a b s
/-- FCMP.GE (R290) -/
def execFcmpGe (p : Option Prefix) (t u : Bool) (d : BitVec 3) (a b : Reg) (s : State) : Host.Outcome State Fault Refusal :=
  issueFcond 5 p t u d a b s
/-- FCMP.UN (R290) -/
def execFcmpUn (p : Option Prefix) (t u : Bool) (d : BitVec 3) (a b : Reg) (s : State) : Host.Outcome State Fault Refusal :=
  issueFcond 6 p t u d a b s
/-- FCMP.ORD (R290) -/
def execFcmpOrd (p : Option Prefix) (t u : Bool) (d : BitVec 3) (a b : Reg) (s : State) : Host.Outcome State Fault Refusal :=
  issueFcond 7 p t u d a b s

/-! ## Opcodes 0x30 and 0x31: packed halves (R291) -/

/-- Both elements, each at its own dither position. -/
def fpHalves (t : FFmt) (h : FEnv → Nat → Nat → Nat → FRes) : (Nat → FEnv) → Nat → LaneIn → FRes := fun env L x =>
  let el := fun (v : BitVec 128) (k : Nat) => bitsOf v (16 * k) 16
  let r := fun k => h (env (L * 2 + k)) (el x.a k) (el x.b k) (el x.c k)
  { bits := (r 0).bits % 2 ^ t.bits + (r 1).bits * 2 ^ 16, flags := (r 0).flags ||| (r 1).flags }

def halfFmt (t : Bool) : FFmt := ffmt (if t then 7 else 6)

def issueHalves (fn : Nat) (p : Option Prefix) (t u : Bool) (d a b : Reg)
    (h : FFmt → FEnv → FVal → FVal → FVal → FRes) (s : State) : Host.Outcome State Fault Refusal :=
  let q := halfFmt t
  issueF (formF 0x30 fn p t u d a b) (some (q, 2))
    (fpHalves q fun v x y z => h q v (q.operand v.ftzi x) (q.operand v.ftzi y) (q.operand v.ftzi z)) s

/-- HADD (R291) -/
def execHadd (p : Option Prefix) (t u : Bool) (d a b : Reg) (s : State) : Host.Outcome State Fault Refusal :=
  issueHalves 0 p t u d a b (fun q v x y _ => fAdd q v x y) s
/-- HSUB (R291) -/
def execHsub (p : Option Prefix) (t u : Bool) (d a b : Reg) (s : State) : Host.Outcome State Fault Refusal :=
  issueHalves 1 p t u d a b (fun q v x y _ => fAdd q v x y.negate) s
/-- HMUL (R291) -/
def execHmul (p : Option Prefix) (t u : Bool) (d a b : Reg) (s : State) : Host.Outcome State Fault Refusal :=
  issueHalves 2 p t u d a b (fun q v x y _ => fMul q v x y) s
/-- HFMA (R291) -/
def execHfma (p : Option Prefix) (t u : Bool) (d a b : Reg) (s : State) : Host.Outcome State Fault Refusal :=
  issueHalves 3 p t u d a b (fun q v x y z => fFma q v x y z) s

def issueHMinMax (fn : Nat) (p : Option Prefix) (t u : Bool) (d a b : Reg) (s : State) : Host.Outcome State Fault Refusal :=
  let q := halfFmt t
  issueF (formF 0x30 fn p t u d a b) (some (q, 2))
    (fpHalves q fun v x y _ =>
      let xb := q.flush v.ftzi x
      let yb := q.flush v.ftzi y
      fMinMax q (fn == 5) xb yb (q.decode xb) (q.decode yb)) s

/-- HMIN (R291) -/
def execHmin (p : Option Prefix) (t u : Bool) (d a b : Reg) (s : State) : Host.Outcome State Fault Refusal :=
  issueHMinMax 4 p t u d a b s
/-- HMAX (R291) -/
def execHmax (p : Option Prefix) (t u : Bool) (d a b : Reg) (s : State) : Host.Outcome State Fault Refusal :=
  issueHMinMax 5 p t u d a b s

/-! ## Opcode 0x32: conversions (R292, R293) -/

def formC (p : Option Prefix) (fn : Nat) (u : Bool) (d a : Reg) (pf : BitVec 4) (qf : BitVec 3) : Info :=
  formA p 0x32 fn u d a (pf ++ qf)

/-- A shadow unit computes a conversion to a floating format too. -/
def floatShadow (dst n : Nat) : Option (FFmt × Nat) := if codeFloat dst then some (ffmt dst, n) else none

/-- CVT of one element (R293) -/
def execCvt (p : Option Prefix) (u : Bool) (d a : Reg) (pf : BitVec 4) (qf : BitVec 3) (s : State) :
    Host.Outcome State Fault Refusal :=
  issueF (formC p 0 u d a pf qf) (floatShadow pf.toNat 1) (fun env L x =>
    convert qf.toNat pf.toNat (prefixSat p) (env L) (x.a.toNat % 2 ^ codeBits qf.toNat)) s

/-- Source element j of a register group: words from register a + j, or a + 2j. -/
def groupElem (w : Weft) (c : Ctx) (code L j : Nat) : Nat :=
  let n := elemWords code
  let v := if c.i.aScalar then joinWords (w.regs.wordsS (c.i.a.toNat + n * j) n)
    else joinWords (w.regs.wordsV (physReg w.regs c.i.a.toNat + n * j) L n)
  v.toNat % 2 ^ codeBits code

/-- CVT.PKn: n elements packed from bit 0 upward (R235). -/
def packBody (n src dst : Nat) (c : Ctx) (s : State) : Except Stop Eff :=
  let w := s.weft c.k
  let f := fpLane c w fun env L x =>
    let rs := (List.range n).map fun j => convert src dst (prefixSat c.i.p) (env (L * n + j)) (groupElem w c src x.lane j)
    { bits := rs.foldr (fun r acc => r.bits % 2 ^ codeBits dst + 2 ^ codeBits dst * acc) 0
      flags := rs.foldl (fun fl r => fl ||| r.flags) 0 }
  if codeFloat dst then shadowed (ffmt dst) (fun L => elemsIn (ffmt dst) n (f (c.lane w L)).val.toNat) f (laneEffect true) c s
  else laneEffect true f c s

/-- CVT.PK2 (R292) -/
def execCvtPk2 (p : Option Prefix) (u : Bool) (d a : Reg) (pf : BitVec 4) (qf : BitVec 3) (s : State) :
    Host.Outcome State Fault Refusal := issue (formC p 1 u d a pf qf) (packBody 2 qf.toNat pf.toNat) s
/-- CVT.PK4 (R292) -/
def execCvtPk4 (p : Option Prefix) (u : Bool) (d a : Reg) (pf : BitVec 4) (qf : BitVec 3) (s : State) :
    Host.Outcome State Fault Refusal := issue (formC p 2 u d a pf qf) (packBody 4 qf.toNat pf.toNat) s
/-- CVT.PK8 (R292) -/
def execCvtPk8 (p : Option Prefix) (u : Bool) (d a : Reg) (pf : BitVec 4) (qf : BitVec 3) (s : State) :
    Host.Outcome State Fault Refusal := issue (formC p 3 u d a pf qf) (packBody 8 qf.toNat pf.toNat) s

/-- A lane of UNPKn: its elements' values and flags. -/
def unpackLane (n src dst : Nat) (c : Ctx) (w : Weft) (L : Nat) : List FRes :=
  let x := c.lane w L
  let v := fenv w.regs.fmode (rmOf c.i.p w.regs.fmode) (c.ditherLane x)
  (List.range n).map fun j => convert src dst (prefixSat c.i.p) v (bitsOf x.a (codeBits src * j) (codeBits src))

/-- UNPKn: one record for each destination register or pair, in ascending order (R293). -/
def unpackBody (n src dst : Nat) (c : Ctx) (s : State) : Except Stop Eff :=
  let w := s.weft c.k
  let m := elemWords dst
  let flags := fun (rs : List FRes) => rs.foldl (fun fl r => fl ||| r.flags) 0
  let one : LaneFn := fun x =>
    let fl := flags (unpackLane n src dst c w x.lane)
    { flags := fl, fault := if fl &&& enables w.regs.fmode ≠ 0 then some .fpx else none }
  let run : LaneFn → Ctx → State → Except Stop Eff := fun f c s =>
    let rs := laneResults f c w
    let act := c.active &&& ~~~(faultMask rs)
    let at_ := fun j => { c with active := act, i := { c.i with dk := .reg m, d := c.i.d + BitVec.ofNat 7 (m * j) } }
    let recs := (List.range n).flatMap fun j => destRecs w (at_ j)
    let w' := (List.range n).foldl (fun acc j =>
      let acc := (rs.filter fun r => r.2.fault.isNone).foldl (fun acc r =>
        writeD acc (at_ j) r.1 (BitVec.ofNat 128 ((unpackLane n src dst c w r.1).getD j { bits := 0 }).bits)) acc
      zeroLanes acc (at_ j)) (applyFaults rs w)
    .ok { s := s.setWeft c.k w', recs := recs }
  let elems := fun (L : Nat) => (unpackLane n src dst c w L).map fun r => r.bits % 2 ^ codeBits dst
  if codeFloat dst then shadowed (ffmt dst) elems one run c s else run one c s

/-- UNPK2 (R292) -/
def execUnpk2 (p : Option Prefix) (u : Bool) (d a : Reg) (pf : BitVec 4) (qf : BitVec 3) (s : State) :
    Host.Outcome State Fault Refusal := issue (formC p 4 u d a pf qf) (unpackBody 2 pf.toNat qf.toNat) s
/-- UNPK4 (R292) -/
def execUnpk4 (p : Option Prefix) (u : Bool) (d a : Reg) (pf : BitVec 4) (qf : BitVec 3) (s : State) :
    Host.Outcome State Fault Refusal := issue (formC p 5 u d a pf qf) (unpackBody 4 pf.toNat qf.toNat) s
/-- UNPK8 (R292) -/
def execUnpk8 (p : Option Prefix) (u : Bool) (d a : Reg) (pf : BitVec 4) (qf : BitVec 3) (s : State) :
    Host.Outcome State Fault Refusal := issue (formC p 6 u d a pf qf) (unpackBody 8 pf.toNat qf.toNat) s

end Sys2Proof.Machine
end

