-- ==== Sys2Proof/Machine/History.lean ====
section
/-!
DEFINITION. The register-and-history group (09_registers_history R204, R220 to R228), segment signatures (19_reliability R431), and
what a reverse walk finds in the code (R216, R467).
-/

namespace Sys2Proof.Machine

/-! ## Segment signatures -/

/-- What a write contributes: its address, its size byte, its data (R431). -/
def SegWrite.bytes (x : SegWrite) : List Byte := leBytes 8 x.va.toNat ++ [x.size] ++ x.data

/-- Writes in program order, lanes ascending: copies and ACC.ST add theirs late. -/
def inOrder (ws : List SegWrite) : List SegWrite := ws.mergeSort fun a b => decide (a.seq ≤ b.seq)

/-- The signature of the writes of a segment. -/
def signature (ws : List SegWrite) : Word := crc32c ((inOrder ws).flatMap SegWrite.bytes)

/-! ## Finding predecessors (R216) -/

/-- Why a reverse step cannot be taken: the walk stops with IRREV, or the team parks for a PAGE (R467). -/
inductive WalkStop where
  | irrev
  | page (va : Dword)
  deriving DecidableEq, Repr

/-- A word of code that a reverse step reads. -/
def walkWord (s : State) (k : Nat) (va : Dword) : Except WalkStop Word :=
  match s.codeWord k va with
  | .ok w => .ok w
  | .error .page => .error (.page va)
  | .error .prot => .error .irrev

/-- The instruction whose last word is just below `q`. -/
def instrBelow (s : State) (k : Nat) (q : Dword) : Except WalkStop Dword :=
  match walkWord s k (q - 8) with
  | .error e => .error e
  | .ok w => .ok (if isPrefix w then q - 8 else q - 4)

/-- The address of the instruction that retired at `n` − 1, and whether it is the last taken transfer. -/
def predecessor (s : State) (k : Nat) (pc : Dword) (n : Dword) : Except WalkStop (Dword × Bool) :=
  let f := (s.weft k).flow
  match walkWord s k (pc - 4) with
  | .error e => .error e
  | .ok h =>
    if !isHeader h then (instrBelow s k pc).map fun p => (p, false)
    else if f.cfic = n - 1 then .ok (f.cf, true)
    else
      let b := headerBackLink h
      if b = 0 then .error .irrev
      else match walkWord s k (pc - 4 - BitVec.ofNat 64 (4 * b)) with
      | .error e => .error e
      | .ok h0 => if isHeader h0 then (instrBelow s k (pc - 4)).map fun p => (p, false) else .error .irrev

/-- The words of the instruction at an address: its prefix and its base word. -/
def wordsAt (s : State) (k : Nat) (va : Dword) : Except WalkStop (Option Prefix × Word) :=
  match walkWord s k va with
  | .error e => .error e
  | .ok w =>
    if isPrefix w then (walkWord s k (va + 4)).map fun b => (some (Prefix.ofWord w), b) else .ok (none, w)

/-- Does the instruction belong to the invertible class (R209)? A BR reached through a back-link was not taken, and is stepped over
(R462). `dom` says whether the weft runs in a deterministic domain. -/
def Info.invertible (i : Info) (dom : Bool) : Bool :=
  match i.op with
  | 0x04 => true
  | 0x05 => i.fn ≤ 1
  | 0x10 => true
  | 0x11 => true
  | 0x19 => 3 ≤ i.fn && i.fn ≤ 6
  | 0x20 => i.fn ≤ 1 && (prefixExt i.p).getLsbD 0
  | 0x3C => true
  | 0x3D => true
  | 0x40 => i.fn != 1
  | 0x41 => i.fn == 0 || bitsOf i.b 0 2 ≤ 1
  | 0x4C => true
  | 0x51 => i.fn == 3
  | 0x53 => i.fn == 1
  | 0x60 => true
  | 0x65 => i.fn == 0 || (3 ≤ i.fn && i.fn ≤ 6)
  | 0x71 => i.fn == 2 || !dom
  | 0x78 => i.fn == 5
  | _ => false

/-- The form of the words of an instruction. -/
def wordInfo (p : Option Prefix) (w : Word) : Info := formOf p (Layout.ofWord w)

/-- The instruction that retired last is invertible and took no transfer (R220). -/
def State.lastInvertible (s : State) (k : Nat) : Bool :=
  let w := s.weft k
  w.hist.lastPc != 0 && w.flow.cfic != w.flow.ic - 1 &&
    match wordsAt s k w.hist.lastPc with
    | .ok (p, b) => (wordInfo p b).invertible (s.inDomain k)
    | .error _ => false

/-- The floor of a walk (R220). -/
def State.walkFloor (s : State) (k : Nat) : Dword :=
  let w := s.weft k
  if w.hist.on then w.hist.hcommit
  else
    let covered := match w.hist.undo with
      | some u => u.ic == w.flow.ic - 1
      | none => false
    if w.flow.ic != 0 && (covered || s.lastInvertible k) then w.flow.ic - 1 else w.flow.ic

/-! ## WIN, REGLD, REGST and CFRD (R204, R226, R227) -/

def winBody (c : Ctx) (s : State) : Except Stop Eff :=
  let w := s.weft c.k
  let v := (sregOf w c.i.a).toNat
  if v % 16 ≠ 0 ∨ 1008 < v then trap .opbound
  else
    let r : Rec := { kind := kWin, mask := c.active, payload := plain [BitVec.ofNat 32 w.regs.wb] }
    .ok { s := s.setWeft c.k { w with regs := { w.regs with wb := v } }, recs := [r] }

/-- WIN (R226) -/
def execWin (p : Option Prefix) (a : Reg) (s : State) : Host.Outcome State Fault Refusal := issue (formA p 0x68 0 true 0 a 0) winBody s

/-- The physical register that a lane's index names: an exact sum (R204). -/
def Ctx.indexed (c : Ctx) (w : Weft) (L : Nat) : Nat := (w32 (c.valA w L)).toNat + c.i.b.toNat

/-- Each lane with the register it names, or its REGBOUND. -/
def indexedLanes (c : Ctx) (w : Weft) : List (Nat × LaneOut) :=
  (c.lanes w).map fun L =>
    let p := c.indexed w L
    (L, if w.regs.alloc ≤ p then { fault := some .regbound } else ret32 (w.regs.getV p L))

def regldBody (c : Ctx) (s : State) : Except Stop Eff :=
  let w := s.weft c.k
  let rs := indexedLanes c w
  .ok { s := s.setWeft c.k (writeResults rs c (applyFaults rs w)), recs := destRecs w (survivors c rs) }

def regstBody (c : Ctx) (s : State) : Except Stop Eff :=
  let w := s.weft c.k
  let rs := indexedLanes c w
  let ok := rs.filter fun r => r.2.fault.isNone
  let r : Rec := { kind := kReg32, mask := maskOf (ok.map fun r => r.1), payload := plain (ok.map fun r => w32 r.2.val) }
  let w' := ok.foldl (fun acc r => { acc with regs := acc.regs.setV (c.indexed w r.1) r.1 (w32 (c.valD w r.1)) }) (applyFaults rs w)
  .ok { s := s.setWeft c.k w', recs := [r] }

/-- REGLD (R204) -/
def execRegld (p : Option Prefix) (d a : Reg) (k : BitVec 7) (s : State) : Host.Outcome State Fault Refusal :=
  issue (formA p 0x68 1 false d a k) regldBody s
/-- REGST (R204) -/
def execRegst (p : Option Prefix) (d a : Reg) (k : BitVec 7) (s : State) : Host.Outcome State Fault Refusal :=
  issue (formA p 0x68 2 false d a k) regstBody s

def cfrdBody (c : Ctx) (s : State) : Except Stop Eff :=
  let w := s.weft c.k
  let d := c.i.d.toNat
  let r : Rec := { kind := kSreg, mask := c.active, payload := plain (w.regs.wordsS d 4) }
  let v := [lowWord w.flow.cf, highWord w.flow.cf, lowWord w.flow.cfic, highWord w.flow.cfic]
  .ok { s := s.setWeft c.k { w with regs := w.regs.setWordsS d v }, recs := [r] }

/-- CFRD (R227) -/
def execCfrd (p : Option Prefix) (d : Reg) (s : State) : Host.Outcome State Fault Refusal := issue (formA p 0x68 7 true d 0 0) cfrdBody s

/-! ## COMMIT, CKPT and HMODE (R221, R222, R224) -/

/-- IC after the retirement of the instruction; in handler mode the trapped weft's IC. -/
def Weft.icAfter (w : Weft) : Dword := if w.trap.handler then w.flow.ic else w.flow.ic + 1

/-- Records at or above a place are gone: no old bytes are put there any more. -/
def forgetRecords (s : State) (k top : Nat) : State :=
  let keep := fun (x : Option Nat) => x.filter fun a => decide (a < top)
  let piece := fun (p : Piece) => { p with hist := keep p.hist }
  let write := fun (x : SegWrite) => { x with pieces := x.pieces.map piece, hdrs := x.hdrs.filter fun a => decide (a < top) }
  let s := s.modWeft k fun w =>
    let seg : Segment := { w.seg with
      writes := w.seg.writes.map write
      closed := w.seg.closed.map fun c => { c with writes := c.writes.map write } }
    { w with seg := seg, stores := w.stores.map fun e => { e with pieces := e.pieces.map piece, hdrs := e.hdrs.filter fun a => decide (a < top) } }
  { s with cores := s.cores.map fun c => (c.1, { c.2 with ops := c.2.ops.map fun o => if o.k = k then { o with hist := keep o.hist } else o }) }

/-- HCOMMIT := IC and HSP := HBASE. -/
def freshHist (s : State) (k : Nat) : State :=
  (forgetRecords s k 0).modWeft k fun w => { w with hist := { w.hist with hcommit := w.icAfter, hsp := w.hist.hbase } }

def commitBody (c : Ctx) (s : State) : Except Stop Eff :=
  let s := freshHist s c.k
  let w := s.weft c.k
  .ok { s := s.setWeft c.k { w with sched := { w.sched with uncommitted := false } }, noUndo := true }

/-- COMMIT (R221) -/
def execCommit (p : Option Prefix) (s : State) : Host.Outcome State Fault Refusal := issue (formA p 0x68 4 true 0 0 0) commitBody s

/-- CKPT: its record carries the IC after it and the signature of the segment it ends, 0 outside a redundant pair; in a pair the
segment ends without a hold (R222, 19_reliability R431). -/
def ckptBody (c : Ctx) (s : State) : Except Stop Eff :=
  let w := s.weft c.k
  let member := s.member c.k != 0
  if member && !w.trap.handler && s.writesToCome c.k then .error .stay
  else
    let sig : Word := if member then signature w.seg.writes else 0
    let n := w.icAfter
    let r : Rec := { kind := kCkpt, mask := c.active, payload := plain [lowWord n, highWord n, sig] }
    let w := if member && !w.trap.handler then w.closeSeg 0 [] n else w
    .ok { s := s.setWeft c.k w, recs := [r], noUndo := true }

/-- CKPT (R222) -/
def execCkpt (p : Option Prefix) (s : State) : Host.Outcome State Fault Refusal := issue (formA p 0x68 5 true 0 0 0) ckptBody s

def hmodeBody (c : Ctx) (s : State) : Except Stop Eff :=
  let w := s.weft c.k
  let v := sregOf w c.i.a
  if 4 ≤ v.toNat then trap .opbound
  else
    let s := if v.getLsbD 0 ∧ !w.hist.on then freshHist s c.k else s
    let w := s.weft c.k
    .ok { s := s.setWeft c.k { w with hist := { w.hist with on := v.getLsbD 0, mhist := v.getLsbD 1 } }, noUndo := true }

/-- HMODE (R224): what the instruction itself would push follows the mode before it, and it pushes nothing. -/
def execHmode (p : Option Prefix) (a : Reg) (s : State) : Host.Outcome State Fault Refusal := issue (formA p 0x68 6 true 0 a 0) hmodeBody s

/-! ## REV (R228) -/

/-- A register copy of the weft has neither landed nor stopped. -/
def State.runCopies (s : State) (k : Nat) : Bool :=
  s.cores.any fun (_, c) => c.copies.any fun y => y.k == k && y.fn == 5 && !y.stopped

/-- Every completion flag is clear and no register copy runs: a walk may start (R216). -/
def State.walkReady (s : State) (k : Nat) : Bool := (s.weft k).flagsClear 0xFFF && !s.runCopies k

def revBody (c : Ctx) (s : State) : Except Stop Eff :=
  let w := s.weft c.k
  let t := spairOf w c.i.a
  if !w.trap.handler && w.lanesPending then .error .lanes
  else if w.flow.ic.toNat < t.toNat then trap .opbound
  else if t.toNat < (s.walkFloor c.k).toNat then trap .irrev
  else if t = w.flow.ic then
    if w.trap.handler then .error (.whole (s.setWeft c.k (returnTrap w w.trap.tmask w.trap.resume)))
    else .error (.whole (s.setWeft c.k { w with flow := { w.flow with pc := c.next, entry := .body } }))
  else if !s.walkReady c.k then .error .stay
  else if w.trap.handler then .error (.whole (beginWalk (s.setWeft c.k (rejoinAll w)) c.k w.trap.resume t))
  else .error (.whole (beginWalk s c.k c.pc t))

/-- REV (R228) -/
def execRev (p : Option Prefix) (a : Reg) (s : State) : Host.Outcome State Fault Refusal :=
  issue { (formA p 0x68 3 true 0 a 0) with ctl := some 0 } revBody s

end Sys2Proof.Machine
end

