-- ==== Sys2Proof/Machine/Sweep.lean ====
section
/-!
DEFINITION. TSWEEP, TFETCH and TUNPIN (08_copy_engine R191 to R197, R464, R465), and what the operations of the engines share:
the phases they reserve (10_formats R240), their faults and their completion.
-/

namespace Sys2Proof.Machine

/-! ## Operations of the engines -/

def EngKind.sweepLike : EngKind → Bool
  | .tsweep .. => true
  | .accSt .. => true
  | _ => false

/-- The phase that an ACC.ST or a TSWEEP reserves at issue (R240). -/
def State.reservePhase (s : State) (k : Nat) : Nat :=
  let earlier := s.cores.foldl (fun n x => n + (x.2.ops.filter fun o => o.k == k && o.kind.sweepLike).length) 0
  (dphase (s.weft k).regs.fmode + earlier) % 64

/-- An operation of the issuing instruction, counted on flag B and queued at its core. -/
def launchOp (c : Ctx) (s : State) (kind : EngKind) (hist : Option Nat := none) (eats : List Nat := []) : State :=
  let w := s.weft c.k
  let (q, w') := w.takeSeq
  let o : EngOp :=
    { k := c.k, kind := kind, flag := c.flagNo w, pc := c.pc, ic := w.flow.ic, lane := lowestLane w.width c.active
      rm := rmOf c.i.p w.regs.fmode, fmode := w.regs.fmode, sat := prefixSat c.i.p, seq := q, hist := hist, eats := eats
      phase := if kind.sweepLike then s.reservePhase c.k else dphase w.regs.fmode }
  let s := s.setWeft c.k (w'.countFlag (c.flagNo w))
  s.modCore (s.coreOf c.k) fun x => { x with ops := x.ops ++ [o] }

def setOp (s : State) (core j : Nat) (o : EngOp) : State := s.modCore core fun c => { c with ops := c.ops.set j o }
def dropOp (s : State) (core j : Nat) : State := s.modCore core fun c => { c with ops := c.ops.eraseIdx j }

/-- DPHASE moved by one (R240). -/
def Weft.stepPhase (w : Weft) (by_ : Nat) : Weft :=
  { w with regs := { w.regs with fmode := withBits w.regs.fmode 11 6 (dphase w.regs.fmode + by_) } }

/-- Completion: the flags are ORed into FFLAGS of the lowest lane, an enabled one becomes an imprecise FPX before the clause that
waits on the flag, and the flag counts down (R192, R193, 13_matrix R307, R308). -/
def finishOp (s : State) (core j : Nat) (o : EngOp) (fl : Byte) (bad : Option Dword) : State :=
  let s := (dropOp s core j).modWeft o.k fun w =>
    let w := if fl = 0 then w else w.orFflag o.lane fl
    let w := if o.kind.sweepLike then w.stepPhase 1 else w
    w.dropFlag o.flag
  match bad with
  | none => s
  | some a => s.imprecise o.k { cause := .fpx, pc := o.pc, ic := o.ic, lane := 0, mask := 0, addr := a, gate := some o.flag }

/-- An operation that a PROT ends: the fault is imprecise before the clause that waits on the flag (R197). -/
def protOp (s : State) (core j : Nat) (o : EngOp) (va : Dword) : State :=
  let s := (dropOp s core j).modWeft o.k fun w => w.dropFlag o.flag
  s.imprecise o.k { cause := .prot, pc := o.pc, ic := o.ic, lane := 0, mask := 0, addr := va, gate := some o.flag }

/-- A fault of an operation that runs again from its start: PAGE and SPFAULT park the team (R193, R197). -/
def opFault (s : State) (core j : Nat) (o : EngOp) : EngFault → Host.Outcome State Fault Refusal
  | .wait => .next s
  | .reserve c t Ps => .next (s.queueReserve c t Ps)
  | .stop f => .fault f
  | .page va => .next (parkEngine (setOp s core j { o with stopped := true }) o.k o.pc o.ic .page va)
  | .spfault a => .next (parkEngine (setOp s core j { o with stopped := true }) o.k o.pc o.ic .spfault (BitVec.ofNat 64 a))
  | .prot va => .next (protOp s core j o va)

/-- Elements performed one at a time in ascending order: the state, the flags of all, and the lowest element that raised a flag of
`en`. -/
def runElems (en : Byte) (f : Nat → State → Except EngFault (Byte × State)) :
    List Nat → State → Byte → Option Nat → Except EngFault (State × Byte × Option Nat)
  | [], s, fl, bad => .ok (s, fl, bad)
  | e :: t, s, fl, bad =>
    match f e s with
    | .error x => .error x
    | .ok (b, s) => runElems en f t s (fl ||| b) (if bad.isNone && b &&& en != 0 then some e else bad)

/-! ## The element functions of TSWEEP (R191, R192) -/

/-- An integer as a value. -/
def ofInt (z : Int) : FVal := .fin (decide (z < 0)) z.natAbs 0

/-- A source element at its exact value, FTZI applied to a floating one. -/
def srcVal (v : FEnv) (code x : Nat) : FVal :=
  if codeFloat code then (ffmt code).operand v.ftzi x else ofInt (intVal code (codeBits code) x)

/-- An exact sum; a signalling NaN stands for an invalid operation. -/
def addVal (v : FEnv) (x y : FVal) : FVal :=
  match x, y with
  | .nan a, y => .nan (a || y.isSig)
  | x, .nan b => .nan (b || x.isSig)
  | .inf a, .inf b => if a = b then .inf a else .nan true
  | .inf a, _ => .inf a
  | _, .inf b => .inf b
  | .fin n1 m1 e1, .fin n2 m2 e2 => let r := addFin v n1 m1 e1 n2 m2 e2; .fin r.neg r.m r.e

def mulExact (x y : FVal) : FVal :=
  if x.isNan || y.isNan then .nan (x.isSig || y.isSig) else (mulVal x y).getD (.nan true)

/-- a × b + c: an invalid product outweighs a quiet NaN in c (12_float R280). -/
def fmaVal (v : FEnv) (x y z : FVal) : FVal :=
  if x.isNan || y.isNan then .nan (x.isSig || y.isSig || z.isSig)
  else match mulVal x y with
  | none => .nan true
  | some p => addVal v p z

/-- The maximum as FMAX chooses it, and NV for a signalling operand. -/
def maxVal (x y : FVal) : FVal × Byte :=
  let fl := sigFlag [x, y]
  let quiet := fun (z : FVal) => if z.isNan then .nan false else z
  if x.isNan then (quiet y, fl)
  else if y.isNan then (x, fl)
  else
    let o := fOrder x y
    (if (if o = 0 then x.neg else decide (o < 0)) then y else x, fl)

/-- An integral value within the range of an integer format. -/
def exactInt (code : Nat) : FVal → Option Nat
  | .fin n m e =>
    let d := 2 ^ (-e).toNat
    if m % d ≠ 0 then none
    else
      let z : Int := (m / d * 2 ^ e.toNat : Nat)
      let z := if n then -z else z
      let b := codeBits code
      if intMin code b ≤ z ∧ z ≤ intMax code b then some (intBits b z) else none
  | _ => none

/-- e^x of a floating value rounded to an integer, by R242. -/
def expInt (dst : Nat) (v : FEnv) (x : FVal) : Option FRes :=
  match x with
  | .nan sg => some (toInt dst v (.nan sg))
  | .inf n => some (toInt dst v (if n then .fin false 0 0 else .inf false))
  | .fin n m e =>
    if m = 0 then some (toInt dst v (.fin false 1 0))
    else (List.range precisionLevels).findSome? fun lvl =>
      let r := enclose 0 lvl n m e
      let at_ := fun (y : Nat) => toInt dst v (.fin false (4 * y + 1) (r.e - 2))
      if at_ r.lo = at_ (r.hi - 1) then some (at_ r.lo) else none

/-- e^z of an integer rounded to an integer of any size in mode `RM` (notes/assumptions 11). -/
def expWhole (v : FEnv) (z : Int) : Option Nat :=
  if z = 0 then some 1
  else (List.range precisionLevels).findSome? fun lvl =>
    let P := 640 * 2 ^ lvl
    let (y, k) := expFix P (z * 2 ^ P)
    let at_ := fun (y : Nat) => (roundAt v { neg := false, m := 4 * y + 1, e := k - P - 2 } 0).1
    if at_ (y - 2 ^ 256) = at_ (y + 2 ^ 256) then some (at_ (y - 2 ^ 256)) else none

/-- An integer result computed from integer sources: it wraps, or is clamped under sat, with no flag. -/
def wrapInt (dst : Nat) (sat : Bool) : FVal → Nat
  | .fin n m _ =>
    let z : Int := if n then -(m : Int) else m
    let b := codeBits dst
    intBits b (if sat then clampI (intMin dst b) (intMax dst b) z else z)
  | _ => 0

/-- The result of one element, from the codes and bits of its sources: none where the manual states no value (notes/assumptions
11). -/
def sweepResult (fn dst : Nat) (v : FEnv) (sat : Bool) (srcs : List (Nat × Nat)) : Option FRes :=
  let val := fun i => match srcs[i]? with
    | some x => srcVal v x.1 x.2
    | none => .fin false 0 0
  let anyFloat := srcs.any fun x => codeFloat x.1
  let arith : FVal := match fn with
    | 0 => addVal v (val 0) (val 1)
    | 1 => mulExact (val 0) (val 1)
    | 2 => fmaVal v (val 0) (val 1) (val 2)
    | _ => val 0
  if fn = 3 then
    let (z, fl) := maxVal (val 0) (val 1)
    if codeFloat dst then (let r := roundVal (ffmt dst) v z; some { r with flags := r.flags ||| fl })
    else (exactInt dst z).map fun b => { bits := b, flags := fl }
  else if fn = 5 then
    if codeFloat dst then some (fFn 0 (ffmt dst) v (val 0))
    else if anyFloat then expInt dst v (val 0)
    else
      let x := srcs.headD (0, 0)
      let z := intVal x.1 (codeBits x.1) x.2
      -- a result beyond every format needs no place of it to be clamped
      let r := if sat ∧ 64 ≤ z then some (2 ^ 64) else expWhole v z
      r.map fun y => { bits := wrapInt dst sat (ofInt y) }
  else if codeFloat dst then some (roundVal (ffmt dst) v arith)
  else if anyFloat then some (toInt dst v arith)
  else some { bits := wrapInt dst sat arith }

/-! ## TSWEEP -/

/-- The records of the sources that a function uses. -/
def sweepSources (fn : Nat) (c : Ctx) : List Reg :=
  match fn with
  | 2 => [c.i.a, c.i.b, c.i.c]
  | 4 => [c.i.a]
  | 5 => [c.i.a]
  | 6 => []
  | 7 => [c.i.a]
  | _ => [c.i.a, c.i.b]

def recordsAt (c : Ctx) : List Reg → State → Except Stop (List Iter × State)
  | [], s => .ok ([], s)
  | r :: t, s =>
    match recordAt c s false false r with
    | .error e => .error e
    | .ok (x, s) => (recordsAt c t s).map fun y => (x :: y.1, y.2)

def sweepBody (fn : Nat) (c : Ctx) (s : State) : Except Stop Eff :=
  match recordAt c s false false c.i.d with
  | .error e => .error e
  | .ok (d, s) => match recordsAt c (sweepSources fn c) s with
    | .error e => .error e
    | .ok (srcs, s) =>
      let sizes := srcs.map Iter.esize
      if srcs.any (fun r => r.count != d.count || r.start != d.start) || (fn == 3 && sizes.dedup.length != 1)
          || (fn == 7 && sizes != [d.esize]) then trap .opbound
      else if fn = 6 ∧ d.esize = 8 ∧ c.i.a.toNat % 2 = 1 then trap .illegal
      else
        let w := s.weft c.k
        let fill : Dword := if fn = 6 then (if d.esize = 8 then spairOf w c.i.a else (sregOf w c.i.a).setWidth 64) else 0
        .ok { s := launchOp c s (.tsweep fn d srcs fill) }

def issueSweep (fn : Nat) (p : Option Prefix) (d a b : Reg) (s : State) : Host.Outcome State Fault Refusal :=
  issueMem (formA p 0x52 fn true d a b) (sweepBody fn) s

/-- TADD (R191) -/
def execTadd (p : Option Prefix) (d a b : Reg) (s : State) : Host.Outcome State Fault Refusal := issueSweep 0 p d a b s
/-- TMUL (R191) -/
def execTmul (p : Option Prefix) (d a b : Reg) (s : State) : Host.Outcome State Fault Refusal := issueSweep 1 p d a b s
/-- TFMA (R191) -/
def execTfma (p : Option Prefix) (d a b : Reg) (s : State) : Host.Outcome State Fault Refusal := issueSweep 2 p d a b s
/-- TMAX (R191) -/
def execTmax (p : Option Prefix) (d a b : Reg) (s : State) : Host.Outcome State Fault Refusal := issueSweep 3 p d a b s
/-- TCVT (R192) -/
def execTcvt (p : Option Prefix) (d a : Reg) (s : State) : Host.Outcome State Fault Refusal := issueSweep 4 p d a 0 s
/-- TEXP (R192) -/
def execTexp (p : Option Prefix) (d a : Reg) (s : State) : Host.Outcome State Fault Refusal := issueSweep 5 p d a 0 s
/-- TFILL (R191) -/
def execTfill (p : Option Prefix) (d a : Reg) (s : State) : Host.Outcome State Fault Refusal := issueSweep 6 p d a 0 s
/-- TCOPY (R191) -/
def execTcopy (p : Option Prefix) (d a : Reg) (s : State) : Host.Outcome State Fault Refusal := issueSweep 7 p d a 0 s

/-- The source elements of element e, as format codes and bits. -/
def readSources (s : State) (core : Nat) (o : EngOp) (e : Nat) : List Iter → Except EngFault (List (Nat × Nat) × State)
  | [] => .ok ([], s)
  | r :: t =>
    match readElem s core o.k o.seq r e with
    | .error x => .error x
    | .ok (bs, s) => (readSources s core o e t).map fun y => ((r.fmt, leNat bs) :: y.1, y.2)

/-- Element e of a sweep. -/
def sweepElem (core : Nat) (o : EngOp) (fn : Nat) (d : Iter) (srcs : List Iter) (fill : Dword) (e : Nat) (s : State) :
    Except EngFault (Byte × State) :=
  match readSources s core o e srcs with
  | .error x => .error x
  | .ok (xs, s) =>
    let v := fenvAt o.fmode o.rm (e % 64) o.phase
    let r : Option FRes :=
      if fn = 6 then some { bits := fill.toNat % 2 ^ (8 * d.esize) }
      else if fn = 7 then some { bits := (xs.headD (0, 0)).2 }
      else sweepResult fn d.fmt v o.sat xs
    let (x, s) : FRes × State := match r with
      | some x => (x, s)
      | none => ({ bits := (Config.freeDword s.freeTick).toNat % 2 ^ (8 * d.esize) }, s.tick)
    (writeElem s core o.k o.seq o.ic d e (leBytes d.esize x.bits)).map fun s => (x.flags, s)

/-- TSWEEP_COMPLETE: every element is performed, as if one at a time in ascending order; a fault leaves none of them. -/
def execTsweepComplete (core j : Nat) (s : State) : Host.Outcome State Fault Refusal :=
  match (s.core core).ops[j]? with
  | none => .next s
  | some o =>
    match o.kind with
    | .tsweep fn d srcs fill =>
      if o.stopped then .next s
      else taken s (match runElems (enables o.fmode) (sweepElem core o fn d srcs fill) d.elements (s.acting o.k o.seq) 0 none with
      | .error x => opFault s core j o x
      | .ok (s, fl, bad) => .next (finishOp s core j o fl (bad.map d.addr)))
    | _ => .next s

/-! ## Operand-buffer slots (R194 to R197) -/

def Core.slot (c : Core) (n : Nat) : Slot := SMap.get (fun _ => {}) c.slots n
def State.setSlot (s : State) (core n : Nat) (x : Slot) : State :=
  s.modCore core fun c => { c with slots := SMap.set (fun _ => {}) c.slots n x }

/-- The pins of a slot are released (R195). -/
def State.releasePins (s : State) (core n : Nat) : State := s.setSlot core n { (s.core core).slot n with pins := [] }

/-- Blocks are pinned for a slot, each unless 12 ways of its set are pinned already. -/
def State.addPins (s : State) (core n : Nat) (bs : List Nat) : State :=
  bs.foldl (fun s b => if s.mayPin b then (let x := (s.core core).slot n; s.setSlot core n { x with pins := b :: x.pins }) else s) s

/-- A TFETCH of the program to the slot is in flight. -/
def State.fetching (s : State) (core n : Nat) : Bool :=
  (s.core core).ops.any fun o => match o.kind with
    | .tfetch m _ => m == n
    | _ => false

/-- The slots that an MMA's descriptors name. -/
def mmaSlots (a : MDesc) (gs : List MGroup) : List Nat :=
  ((if a.slot then [a.addr] else []) ++ gs.filterMap fun g => if g.b.slot then some g.b.addr else none).dedup

/-- An MMA in flight that has not read its operands names the slot. -/
def State.slotToRead (s : State) (core n : Nat) : Bool :=
  (s.core core).ops.any fun o => o.latched.isNone && match o.kind with
    | .mma _ _ _ _ a gs => (mmaSlots a gs).contains n
    | _ => false

/-- TFETCH: held while an earlier MMA still has to read the slot, which counts as a byte-barrier wait (R464). The operations that named
the slot before do not consume this fetch. -/
def tfetchBody (c : Ctx) (s : State) : Except Stop Eff :=
  let core := s.coreOf c.k
  let n := (sregOf (s.weft c.k) c.i.d).toNat
  match recordAt c s true false c.i.a with
  | .error e => .error e
  | .ok (r, s) =>
    if s.slotCount core ≤ n ∨ 16384 < (r.count - r.start) * r.esize then trap .opbound
    else if s.slotToRead core n then .error .give
    else
      let s := s.releasePins core n
      let s := s.setSlot core n { (s.core core).slot n with snap := some (teamOf c.k, r), used := false, unpin := false, rerun := false, rerunProt := none }
      let s := s.modCore core fun x => { x with ops := x.ops.map fun o => { o with eats := o.eats.filter fun m => m != n } }
      .ok { s := launchOp c s (.tfetch n r) }

/-- TFETCH (R194) -/
def execTfetch (p : Option Prefix) (d a : Reg) (s : State) : Host.Outcome State Fault Refusal :=
  issueMem (formA p 0x53 0 true d a 0) tfetchBody s

/-- The operation is a TFETCH to the slot. -/
def EngOp.fetches (o : EngOp) (n : Nat) : Bool := match o.kind with
  | .tfetch m _ => m == n
  | _ => false

/-- TUNPIN: the slot's pins go now, and those of the fetches to it that are in flight when they complete. -/
def tunpinBody (c : Ctx) (s : State) : Except Stop Eff :=
  let core := s.coreOf c.k
  let n := (sregOf (s.weft c.k) c.i.d).toNat
  if s.slotCount core ≤ n then trap .opbound
  else
    let s := s.releasePins core n
    let s := s.setSlot core n { (s.core core).slot n with unpin := true }
    .ok { s := s.modCore core fun x => { x with ops := x.ops.map fun o => if o.fetches n then { o with unpin := true } else o } }

/-- TUNPIN (R196) -/
def execTunpin (p : Option Prefix) (d : Reg) (s : State) : Host.Outcome State Fault Refusal :=
  issue (formA p 0x53 1 true d 0 0) tunpinBody s

/-- One element of a fetch, read at the home order and not kept in the L1; `who` gives the weft and the place in its program order,
none for a re-run at restore. The answer holds the bytes and the block. -/
def fetchElem (core ctx : Nat) (who : Option (Nat × Nat)) (r : Iter) (e : Nat) (s : State) : Except EngFault (List Byte × Nat × State) :=
  let a := r.addr e
  match s.engXlate core ctx .read a with
  | .error .page => .error (.page a)
  | .error .prot => .error (.prot a)
  | .ok (pa, gr, s) =>
    let ready := who.all fun x => s.forkReady x.1 x.2 pa gr
    if !ready then .error .wait
    else
      let (bs, s) := s.engRead core ctx pa r.esize
      let bs := match who with
        | some x => overlay (s.ownWrites x.1 x.2) pa bs
        | none => bs
      .ok (bs, pa / 512, s)

def fetchAll (core ctx : Nat) (who : Option (Nat × Nat)) (r : Iter) : List Nat → State → Except EngFault (List Byte × List Nat × State)
  | [], s => .ok ([], [], s)
  | e :: t, s =>
    match fetchElem core ctx who r e s with
    | .error x => .error x
    | .ok (bs, b, s) => (fetchAll core ctx who r t s).map fun y => (bs ++ y.1, b :: y.2.1, y.2.2)

/-- The slot filled from its first byte, zeros after it, and these blocks pinned for it. -/
def fillSlot (s : State) (core n : Nat) (bs : List Byte) (blocks : List Nat) : State :=
  (s.setSlot core n { (s.core core).slot n with data := SMap.write zeroByte [] 0 bs, rerun := false }).addPins core n blocks.dedup

/-- TFETCH_COMPLETE: the slot is filled and flag B counts down; fetches to one slot complete in their order. It pins its blocks unless
TUNPIN has named the slot meanwhile or a later TFETCH to it has been issued. PROT leaves the slot zero (R194 to R197). -/
def execTfetchComplete (core j : Nat) (s : State) : Host.Outcome State Fault Refusal :=
  let ops := (s.core core).ops
  match ops[j]? with
  | none => .next s
  | some o =>
    match o.kind with
    | .tfetch n r =>
      if o.stopped || (ops.take j).any (fun x => x.fetches n) then .next s
      else
        let pin := !o.unpin && !(ops.drop (j + 1)).any fun x => x.fetches n
        taken s (match fetchAll core (s.ctxOf o.k) (some (o.k, o.seq)) r r.elements (s.acting o.k o.seq) with
        | .error (.prot va) => .next (protOp (fillSlot s core n [] []) core j o va)
        | .error x => opFault s core j o x
        | .ok (bs, blocks, s) => .next (finishOp (fillSlot s core n bs (if pin then blocks else [])) core j o 0 none))
    | _ => .next s

/-- TFETCH_RERUN_COMPLETE: the re-run of a restored slot (R465). A PAGE parks the team, and the re-run starts again at the next
restore; a PROT waits for the first MMA that names the slot. -/
def execTfetchRerunComplete (core slot : Nat) (s : State) : Host.Outcome State Fault Refusal :=
  let x := (s.core core).slot slot
  match x.rerun, x.snap with
  | true, some (t, r) =>
    if (s.team t).status ≠ .resident then .next s
    else taken s (match fetchAll core (s.team t).ctx none r r.elements s with
    | .ok (bs, blocks, s) => .next (fillSlot s core slot bs (if x.unpin then [] else blocks))
    | .error (.page va) =>
      .next (parkTeam (s.setSlot core slot { x with rerun := false }) t 1 { cause := Cause.page.code, taddr := va })
    | .error (.prot va) => .next (s.setSlot core slot { x with data := [], rerun := false, rerunProt := some va })
    | .error (.stop f) => .fault f
    | .error _ => .next s)
  | _, _ => .next s

end Sys2Proof.Machine
end

