-- ==== Sys2Proof/Machine/Matrix.lean ====
section
/-!
DEFINITION. The matrix engine (13_matrix R294 to R324): matrix state and its owner, MMA and MMA.G, the accumulator and scale
instructions, and the steps of the engine.
-/

namespace Sys2Proof.Machine

/-! ## Matrix state (R294 to R296) -/

def tileKey (t r c : Nat) : Nat := 16384 * t + 128 * r + c

def Core.tile (x : Core) (t r c : Nat) : Word := SMap.get zeroWord x.tiles (tileKey t r c)
def Core.tileRow (x : Core) (t r : Nat) : List Word := SMap.read zeroWord x.tiles (tileKey t r 0) 128
def Core.setTileRow (x : Core) (t r : Nat) (ws : List Word) : Core :=
  { x with tiles := SMap.write zeroWord x.tiles (tileKey t r 0) ws }
def Core.scale (x : Core) (i j : Nat) : Byte := SMap.get zeroByte x.scales (128 * i + j)

def EngKind.isMatrix : EngKind → Bool
  | .mma .. => true
  | .accSt .. => true
  | .accLd .. => true
  | .sclLd .. => true
  | _ => false

/-- The tile that an operation writes or reads. -/
def EngKind.tile? : EngKind → Option Nat
  | .mma _ t _ _ _ _ => some t
  | .accSt t _ _ => some t
  | .accLd t _ => some t
  | _ => none

/-- The image of a team's matrix state for a core: the accumulator image and the scale image after it (18_traps R423). -/
def State.matrixImage (s : State) (t core : Nat) : Nat :=
  (s.imageMap t).matb + 278528 * (if (s.team t).pair then core % 2 else 0)

def matrixParity (x : Team) (core : Nat) : Nat := if x.pair then core % 2 else 0

/-- The owner's tiles and scales are written to its image, and the core's are cleared. -/
def saveMatrix (s : State) (core : Nat) : Except Fault State :=
  match (s.core core).owner with
  | none => .ok s
  | some t =>
    let at_ := s.matrixImage t core
    if !s.exists at_ 278528 then .error (.noMemory at_)
    else
      let x := s.core core
      let bs := (SMap.read zeroWord x.tiles 0 65536).flatMap fun w => leBytes 4 w.toNat
      let s := (s.homeWrite at_ bs).homeWrite (at_ + 262144) (SMap.read zeroByte x.scales 0 16384)
      let s := s.modTeam t fun y => { y with matrixSaved := y.matrixSaved ||| BitVec.ofNat 2 (2 ^ matrixParity y core) }
      .ok (s.modCore core fun x => { x with owner := none, tiles := [], scales := [] })

/-- The words of a run of bytes. -/
def wordsOf : Nat → List Byte → List Word
  | 0, _ => []
  | n + 1, bs => leWord (bs.take 4) :: wordsOf n (bs.drop 4)

/-- A team becomes the owner: its images are loaded, or zeros when its task has not been saved. -/
def loadMatrix (s : State) (core t : Nat) : Except Fault State :=
  let x := s.team t
  if x.matrixSaved.getLsbD (matrixParity x core) then
    let at_ := s.matrixImage t core
    if !s.exists at_ 278528 then .error (.noMemory at_)
    else
      let (ts, s) := s.homeRead at_ 262144
      let (bs, s) := s.homeRead (at_ + 262144) 16384
      let tiles := SMap.write zeroWord [] 0 (wordsOf 65536 ts)
      let scales := SMap.write zeroByte [] 0 bs
      let s := s.modTeam t fun y => { y with matrixSaved := y.matrixSaved &&& ~~~(BitVec.ofNat 2 (2 ^ matrixParity y core)) }
      .ok (s.modCore core fun y => { y with owner := some t, tiles := tiles, scales := scales })
  else .ok (s.modCore core fun y => { y with owner := some t, tiles := [], scales := [] })

/-- An operation on a tile, or on scale memory, waits for one that was issued before it by the same team (R319, R321). -/
def EngOp.waitsFor (o x : EngOp) : Bool :=
  o.k / 16 == x.k / 16 && ((o.kind.tile?.isSome && o.kind.tile? == x.kind.tile?) || match o.kind, x.kind with
    | .mma .., .sclLd .. => o.latched.isNone
    | .sclLd .., .mma .. => x.latched.isNone
    | .sclLd .., .sclLd .. => true
    | _, _ => false)

/-- An operation waits for one of these. -/
def EngOp.behind (o : EngOp) (xs : List EngOp) : Bool := xs.any o.waitsFor

/-- The operations of a core that cannot complete before their team has been saved and restored: those that a fault has stopped, and those
that wait for such a one (notes/assumptions 123). -/
def stuckOps (ops : List EngOp) : List EngOp := ops.foldl (fun xs o => if o.stopped || o.behind xs then xs ++ [o] else xs) []

/-- The operation at place j of a core waits for an earlier one. -/
def State.mustWait (s : State) (core j : Nat) (o : EngOp) : Bool := o.stopped || o.behind ((s.core core).ops.take j)

/-- The owner of a core has no matrix instruction in flight there. -/
def State.matrixIdle (s : State) (core : Nat) : Bool :=
  let ops := (s.core core).ops
  !(ops.any fun o => o.kind.isMatrix && (s.core core).owner == some (o.k / 16) && !(stuckOps ops).contains o)

/-- A matrix swap (R296), which the requester's weft counts as a scratchpad page miss; none while the owner's instructions are in flight. -/
def swapMatrix (s : State) (core t : Nat) : Except Fault (Option State) :=
  if (s.core core).owner = some t then .ok (some s)
  else if !s.matrixIdle core then .ok none
  else match saveMatrix s core with
  | .error f => .error f
  | .ok s => (loadMatrix (s.noteMiss core) core t).map some

/-- A matrix instruction of a team that is not the owner waits for the swap. -/
def owning (c : Ctx) (s : State) (body : State → Except Stop Eff) : Except Stop Eff :=
  match swapMatrix s (s.coreOf c.k) (teamOf c.k) with
  | .error f => .error (.fault f)
  | .ok none => .error .give
  | .ok (some s) => body s

/-- An operation of the engine goes on once its team owns the core's matrix state. -/
def withOwner (s : State) (core : Nat) (o : EngOp) (f : State → Host.Outcome State Fault Refusal) : Host.Outcome State Fault Refusal :=
  taken s (match swapMatrix (s.acting o.k o.seq) core (teamOf o.k) with
  | .error x => .fault x
  | .ok none => .next s
  | .ok (some t) => f t)

/-- MATRIX_SWAP: the core changes its owner to a resident team. -/
def execMatrixSwap (core team : Nat) (s : State) : Host.Outcome State Fault Refusal :=
  if (s.team team).status ≠ .resident then .next s
  else taken s (match swapMatrix s core team with
  | .error f => .fault f
  | .ok none => .next s
  | .ok (some s) => .next s)

/-- An operation of the team on the tile is in flight at the core (R319). -/
def State.tileBusy (s : State) (core team tile : Nat) : Bool :=
  (s.core core).ops.any fun o => o.k / 16 == team && o.kind.tile? == some tile

/-! ## Operands (R297 to R300) -/

/-- Formats of A and B, K, bytes of a B line and chunk length, by fn. -/
def mmaFmtA : Nat → Nat
  | 0 => 6 | 1 => 7 | 2 => 8 | 3 => 9 | 4 => 8 | 5 => 10 | 6 => 11 | _ => 15
def mmaFmtB : Nat → Nat
  | 0 => 6 | 1 => 7 | 2 => 8 | 3 => 9 | 4 => 9 | 5 => 10 | _ => 11
def mmaK : Nat → Nat
  | 0 => 64 | 1 => 64 | 5 => 256 | 7 => 512 | _ => 128
def mmaChunk : Nat → Nat
  | 5 => 32 | 7 => 64 | _ => 16
def mmaLineB (fn : Nat) : Nat := if fn = 7 then 512 else 128
def mmaInt (fn : Nat) : Bool := 6 ≤ fn

/-- A descriptor of `lines` lines, or none where R300 refuses it. `wide` marks the B operand of .trn2. -/
def readDesc (v : Dword) (fmt S slots lines : Nat) (wide : Bool) : Option MDesc :=
  let addr := bitsOf v 0 32
  let slot := v.getLsbD 32
  let ldu := bitsOf v 40 16
  let lineBytes := if wide then 512 else 128
  let fields := bitsOf v 33 7 = 0 ∧ bitsOf v 56 4 = fmt ∧ bitsOf v 60 4 = 0
  let good : Bool :=
    if slot then decide (addr < 32) && decide (addr < slots) && ldu == 1 && !wide
    else 1 ≤ ldu && ldu ≤ 32767 && addr % lineBytes == 0 && ldu * 128 % lineBytes == 0
      && (lines == 0 || (decide (addr + (lines - 1) * ldu * 128 + lineBytes ≤ S) && decide (addr + (lines - 1) * ldu * 128 + lineBytes ≤ 2 ^ 32)))
  if fields ∧ good then some { addr := addr, slot := slot, ldu := ldu } else none

/-- The control word (R304). -/
structure MCtl where
  tile  : Nat
  accum : Bool
  sca   : Nat
  scb   : Nat
  deriving DecidableEq, Repr

def readCtl (v : Word) (fn : Nat) (grouped : Bool) : Option MCtl :=
  let sca := bitsOf v 3 7
  let scb := bitsOf v 10 7
  if bitsOf v 17 15 = 0 ∧ sca ≤ 120 ∧ scb ≤ 120 ∧ (fn = 5 ∨ sca = 0 ∧ scb = 0) ∧ (!grouped ∨ scb = 0) then
    some { tile := bitsOf v 0 2, accum := v.getLsbD 2, sca := sca, scb := scb }
  else none

/-- The groups of a group table after its head: none where R310 refuses one; an empty group is skipped, and `room` rows are left (R311). -/
def readGroups (c : Ctx) (fn S slots at_ room : Nat) : Nat → State → Except Stop (List MGroup × State)
  | 0, s => .ok ([], s)
  | n + 1, s =>
    if S < at_ + 16 then trap .opbound
    else match spadAt c s at_ 16 with
    | .error e => .error e
    | .ok (bs, s) =>
      let w0 := leNat (bs.take 4)
      let rows := w0 % 256
      if rows = 0 then readGroups c fn S slots (at_ + 16) room n s
      else
        let scb := bitsN w0 8 7
        match readDesc (leDword (bs.drop 8)) (mmaFmtB fn) S slots 128 (fn == 7) with
        | none => trap .opbound
        | some b =>
          if room < rows ∨ 120 < scb ∨ (fn ≠ 5 ∧ scb ≠ 0) ∨ bitsN w0 15 17 ≠ 0 ∨ leNat ((bs.drop 4).take 4) ≠ 0 then trap .opbound
          else (readGroups c fn S slots (at_ + 16) (room - rows) n s).map fun r => ({ rows := rows, scb := scb, b := b } :: r.1, r.2)

/-- The group table at a scratchpad address. -/
def readTable (c : Ctx) (fn S slots a : Nat) (s : State) : Except Stop (List MGroup × State) :=
  if a % 16 ≠ 0 ∨ S < a + 16 then trap .opbound
  else match spadAt c s a 16 with
  | .error e => .error e
  | .ok (bs, s) =>
    let count := leNat (bs.take 4)
    if count = 0 ∨ 16 < count ∨ leNat (bs.drop 4) ≠ 0 then trap .opbound
    else readGroups c fn S slots (a + 16) 128 count s

def rowsOf (gs : List MGroup) : Nat := gs.foldl (fun n g => n + g.rows) 0

/-- The scratchpad addresses of an operand's lines. -/
def MDesc.lines (m : MDesc) (n : Nat) : List Nat :=
  if m.slot then [] else (List.range n).map fun i => m.addr + i * m.ldu * 128

/-! ## The arithmetic of one element (R302, R303) -/

/-- Element k of a line (R235). -/
def lineElem (code : Nat) (line : Nat) (k : Nat) : Nat := bitsN line (k * codeBits code) (codeBits code)

/-- A floating element; FTZI flushes bf16 and f16 only. -/
def mmaVal (v : FEnv) (code x : Nat) : FVal := (ffmt code).operand (v.ftzi && (code == 6 || code == 7)) x

/-- The exact product of two floating elements, scaled for .f4e2; a NaN or an invalid product has the mark of NV. -/
def mmaProd (fn : Nat) (v : FEnv) (a b : Nat) (sa sb : Byte) : FVal :=
  match mmaVal v (mmaFmtA fn) a, mmaVal v (mmaFmtB fn) b with
  | .nan _, _ => .nan true
  | _, .nan _ => .nan true
  | x, y =>
    if fn = 5 ∧ (sa = 0xFF ∨ sb = 0xFF) then .nan true
    else match mulVal x y with
    | some (.fin n m e) => .fin n m (if fn = 5 then e + sa.toNat - 127 + sb.toNat - 127 else e)
    | some z => z
    | none => .nan true

/-- The sum of a step's terms rounded once to FP32; infinities of both signs are an invalid sum whatever else stands beside them, and an
exact zero takes the sign of R303. -/
def mmaStep (v : FEnv) (acc : FVal) (ts : List FVal) : FRes :=
  let t : FFmt := ffmt 4
  let all := acc :: ts
  let clash := all.contains (.inf false) && all.contains (.inf true)
  if clash || all.any FVal.isNan then nanF t (if clash || all.any FVal.isSig then fNV else 0)
  else
    let infs := all.filterMap fun x => match x with
      | .inf n => some n
      | _ => none
    match infs with
    | n :: _ => infF t v n
    | [] =>
      let e := all.foldl (fun e x => match x with
        | .fin _ _ e' => min e e'
        | _ => e) 0
      let z : Int := all.foldl (fun (z : Int) x => match x with
        | .fin n m e' => z + (if n then -1 else 1) * ((m * 2 ^ (e' - e).toNat : Nat) : Int)
        | _ => z) 0
      let neg := if z = 0 then all.all FVal.neg || (v.rm == 4 && !(all.all fun x => !x.neg)) else decide (z < 0)
      roundF t v { neg := neg, m := z.natAbs, e := e }

/-- A sign-select product of .trn2 or an integer product, and its NV (R234). -/
def mmaIntProd (fn : Nat) (a b : Nat) : Int × Byte :=
  let y := sextN b 8
  if fn = 7 then
    match a with
    | 1 => (y, 0)
    | 3 => (-y, 0)
    | 2 => (0, fNV)
    | _ => (0, 0)
  else (sextN a 8 * y, 0)

/-- What an element of a target row is computed from: its A line and B line as numbers, their rows of scale memory with the scale
columns, and the mode. -/
structure MElem where
  fn    : Nat
  accum : Bool
  sat   : Bool
  aLine : Nat
  bLine : Nat
  sa    : Nat → Byte
  sb    : Nat → Byte

/-- One chunk of the summation. -/
def mmaChunkStep (m : MElem) (v : FEnv) (q : Nat) (acc : FRes) : FRes :=
  let C := mmaChunk m.fn
  let ks := (List.range C).map fun i => q * C + i
  let el := fun k => (lineElem (mmaFmtA m.fn) m.aLine k, lineElem (mmaFmtB m.fn) m.bLine k)
  if mmaInt m.fn then
    let ps := ks.map fun k => mmaIntProd m.fn (el k).1 (el k).2
    let z := ps.foldl (fun z p => z + p.1) (sextN acc.bits 32)
    { bits := intBits 32 (if m.sat then clampI (-(2 ^ 31)) (2 ^ 31 - 1) z else z), flags := ps.foldl (fun b p => b ||| p.2) acc.flags }
  else
    let ts := ks.map fun k => mmaProd m.fn v (el k).1 (el k).2 (m.sa (k / 32)) (m.sb (k / 32))
    let r := mmaStep v ((ffmt 4).operand v.ftzi acc.bits) ts
    { r with flags := r.flags ||| acc.flags }

/-- An element of an MMA from its old value. -/
def mmaElem (m : MElem) (v : FEnv) (old : Word) : FRes :=
  (List.range (mmaK m.fn / mmaChunk m.fn)).foldl (fun acc q => mmaChunkStep m v q acc) { bits := if m.accum then old.toNat else 0 }

/-! ## MMA and MMA.G (R304 to R311) -/

/-- The dither position of a matrix element (R240). -/
def matrixPos (r c : Nat) : Nat := 8 * (r % 8) + c % 8

/-- ACCT records of rows of a tile, the first row at the bottom (R309). -/
def acctRecs (x : Core) (mask : Mask) (t : Nat) (rows : List Nat) : List Rec :=
  rows.map fun r => { kind := kAcct, mask := mask
                      payload := plain (BitVec.ofNat 32 (t + 4 * r) :: x.tileRow t r) }

/-- The FLAGS record for the lowest lane of ACTIVE, pushed whether or not the byte changes. -/
def lowFlags (c : Ctx) (w : Weft) : Rec :=
  let L := lowestLane w.width c.active
  { kind := kFlags, mask := laneBit L, payload := plain [(w.fflag L).setWidth 32] }

/-- Matrix history is kept: the instruction is then destructive, and irreversible otherwise (R309). -/
def Weft.matrixHistory (w : Weft) : Bool := w.recording && w.hist.mhist

/-- The control word, A and the groups of an issuing MMA, checked: what can be judged without the group table comes before it is read
(R306 items 2 and 3). -/
def mmaOperands (fn : Nat) (grouped : Bool) (c : Ctx) (s : State) : Except Stop (MCtl × MDesc × List MGroup × State) :=
  let w := s.weft c.k
  let S := (s.team (teamOf c.k)).size
  let slots := s.slotCount (s.coreOf c.k)
  let descA := fun (lines : Nat) => readDesc (spairOf w c.i.a) (mmaFmtA fn) S slots lines false
  match readCtl (sregOf w c.i.d) fn grouped, descA 0 with
  | some ctl, some _ =>
    let table : Except Stop (List MGroup × State) :=
      if grouped then readTable c fn S slots (sregOf w c.i.b).toNat s
      else match readDesc (spairOf w c.i.b) (mmaFmtB fn) S slots 128 (fn == 7) with
        | none => trap .opbound
        | some b => .ok ([{ rows := 128, scb := ctl.scb, b := b }], s)
    match table with
    | .error e => .error e
    | .ok (gs, s) => match descA (rowsOf gs) with
      | none => trap .opbound
      | some a => .ok (ctl, a, gs, s)
  | _, _ => trap .opbound

/-- A slot whose restore re-run met a PROT, and the address (R465). -/
def State.slotProt (s : State) (core : Nat) (slots : List Nat) : Option (Nat × Dword) :=
  slots.findSome? fun n => ((s.core core).slot n).rerunProt.map fun a => (n, a)

/-- What an MMA that has passed its checks pushes with matrix history (R309, R311). -/
def mmaRecs (c : Ctx) (s : State) (tile rows : Nat) : List Rec :=
  let w := s.weft c.k
  if w.matrixHistory then acctRecs (s.core (s.coreOf c.k)) c.active tile (List.range rows) ++ [lowFlags c w] else []

/-- MMA and MMA.G: the checks of R306 in their order, then the operation on flag B. With no row nothing is read or written (R311). -/
def mmaBody (fn : Nat) (grouped : Bool) (c : Ctx) (s : State) : Except Stop Eff :=
  let w := s.weft c.k
  let core := s.coreOf c.k
  if c.active ≠ fullMask w.width then trap .converge
  else owning c s fun s =>
    match mmaOperands fn grouped c s with
    | .error e => .error e
    | .ok (ctl, a, gs, s) =>
      let rows := rowsOf gs
      if rows = 0 then .ok { s := s, recs := mmaRecs c s ctl.tile 0, noFlagsRec := true, noUndo := true }
      else match (a.lines rows ++ gs.flatMap fun g => g.b.lines 128).find? (s.spadBad (teamOf c.k)) with
      | some x => .error (.park .spfault (BitVec.ofNat 64 x))
      | none =>
        let slots := mmaSlots a gs
        match s.slotProt core slots with
        | some (n, va) =>
          let s' := s.setSlot core n { (s.core core).slot n with rerunProt := none }
          .error (.whole (takeTrap s' c.k .prot c.pc w.flow.ic va 0 c.pc .body))
        | none =>
          let inFlight := ((s.core core).ops.filter fun o => match o.kind with
            | .mma .. => true
            | _ => false).length
          if slots.any fun n => s.fetching core n || ((s.core core).slot n).rerun then .error .give
          else if 4 ≤ inFlight ∨ w.matrixHistory ∧ s.tileBusy core (teamOf c.k) ctl.tile then .error .stay
          else
            let eats := slots.filter fun n => !((s.core core).slot n).used
            .ok { s := launchOp c s (.mma fn ctl.tile ctl.accum ctl.sca a gs) none eats, recs := mmaRecs c s ctl.tile rows
                  noFlagsRec := true, noUndo := true }

/-- The rows that a group table names, read ahead for the size of the records (R211). -/
def State.tableRows (s : State) (t a : Nat) : Nat :=
  let n := min 16 (s.spadWord t a).toNat
  min 128 ((List.range n).foldl (fun r g => r + (s.spadByte t (a + 16 + 16 * g)).toNat) 0)

def issueMma (op : Nat) (p : Option Prefix) (fmt : BitVec 3) (d a b : Reg) (s : State) : Host.Outcome State Fault Refusal :=
  let w := s.weft s.cur
  let grouped := decide (op = 0x59)
  let rows := if grouped then s.tableRows (teamOf s.cur) (sregOf w b).toNat else 128
  let i := formA p op fmt.toNat true d a b
  issueMem { i with irrev := !w.matrixHistory, est := fun _ => 133 * rows + 5 } (mmaBody fmt.toNat grouped) s

/-- MMA (R304 to R309) -/
def execMma (p : Option Prefix) (fmt : BitVec 3) (d a b : Reg) (s : State) : Host.Outcome State Fault Refusal :=
  issueMma 0x58 p fmt d a b s
/-- MMA.G (R310, R311) -/
def execMmaG (p : Option Prefix) (fmt : BitVec 3) (d a b : Reg) (s : State) : Host.Outcome State Fault Refusal :=
  issueMma 0x59 p fmt d a b s

/-- The scratchpad pages of lines of an operand. -/
def MDesc.pages (m : MDesc) (is : List Nat) : List Nat := if m.slot then [] else is.map fun i => (m.addr + i * m.ldu * 128) / 2048

/-- The bytes of lines of an operand whose pages are resident. -/
def MDesc.read (m : MDesc) (s : State) (core t lineBytes : Nat) (is : List Nat) : List Byte :=
  is.flatMap fun i =>
    if m.slot then SMap.read zeroByte ((s.core core).slot m.addr).data (128 * i) 128
    else s.spadRead t (m.addr + i * m.ldu * 128) lineBytes

/-- The lines of an operand set: those of A, which are read with the first group, and those of the group's B (R301, R311; for MMA.G
notes/assumptions 123). -/
def setLines (n rows : Nat) : List Nat × List Nat :=
  let is := (List.range 8).map fun i => 8 * (n % 16) + i
  (if n < 16 then is.filter fun i => decide (i < rows) else [], is)

/-- Operand set n of an MMA is read, with all its frames (06_core_memory R138), into the engine's latch; with the last set the scale bytes
are taken (R321). -/
def readSet (core : Nat) (fn : Nat) (a : MDesc) (gs : List MGroup) (o : EngOp) (s : State) : Except Stop (EngOp × State) :=
  let t := teamOf o.k
  match gs[o.sets / 16]? with
  | none => .ok (o, s)
  | some g =>
    let ls := setLines o.sets (rowsOf gs)
    match s.bringPages t core (a.pages ls.1 ++ g.b.pages ls.2) with
    | .error e => .error e
    | .ok s =>
      let A := o.part.1 ++ a.read s core t 128 ls.1
      let B := o.part.2 ++ g.b.read s core t (mmaLineB fn) ls.2
      let o : EngOp := { o with sets := o.sets + 1, part := (A, B) }
      .ok (if o.sets < 16 * gs.length then o
        else { o with part := ([], []), latched := some (A, B, SMap.read zeroByte (s.core core).scales 0 16384) }, s)

/-- MMA_OPERAND_READ_DONE: an operand set has been read. Every earlier SCL.LD of the core has written (R321), and every scratchpad lane of
the weft that came before and was held has been performed (R301, R320, R322). -/
def execMmaOperandReadDone (core j : Nat) (s : State) : Host.Outcome State Fault Refusal :=
  match (s.core core).ops[j]? with
  | none => .next s
  | some o =>
    match o.kind with
    | .mma fn _ _ _ a gs =>
      let scaleDue := ((s.core core).ops.take j).any fun x => x.k / 16 == o.k / 16 && match x.kind with
        | .sclLd .. => true
        | _ => false
      let rerun := (mmaSlots a gs).any fun n => ((s.core core).slot n).rerun
      if o.latched.isSome || scaleDue || rerun || o.stopped || (s.weft o.k).heldBefore o.seq then .next s
      else withOwner s core o fun s => match readSet core fn a gs o s with
        | .error st => onStop s st
        | .ok (o, s) => .next (setOp s core j o)
    | _ => .next s

/-- The rows with the group, by position, that each belongs to. -/
def groupRows (gs : List MGroup) : List (Nat × Nat × MGroup) :=
  let tagged := (List.range gs.length).zip gs
  let all := tagged.flatMap fun g => (List.range g.2.rows).map fun _ => g
  ((List.range all.length).zip all).map fun x => (x.1, x.2.1, x.2.2)

/-- The results of row r of an MMA, column 0 first. -/
def mmaRow (o : EngOp) (fn : Nat) (accum : Bool) (sca : Nat) (A B sc : List Byte) (x : Core) (tile r g : Nat) (scb : Nat) : List FRes :=
  let line := mmaLineB fn
  let aLine := leNat ((A.drop (128 * r)).take 128)
  (List.range 128).map fun col =>
    let bLine := leNat ((B.drop (line * (128 * g + col))).take line)
    let m : MElem := { fn := fn, accum := accum, sat := o.sat, aLine := aLine, bLine := bLine
                       sa := fun n => sc.getD (128 * r + sca + n) 0, sb := fun n => sc.getD (128 * col + scb + n) 0 }
    mmaElem m (fenvAt o.fmode o.rm (matrixPos r col) o.phase) (x.tile tile r col)

/-- A checksum upset of an MMA, and whether its re-run disagrees too. -/
def State.checksumAt (s : State) (k : Nat) (ic : Dword) : Option Bool :=
  s.upsets.findSome? fun u => match u with
    | .checksum k' ic' again => if k' = k ∧ ic' = ic then some again else none
    | _ => none

/-- A mismatch is spent and counted (19_reliability R436). -/
def State.checksumRetry (s : State) (k : Nat) (ic : Dword) : State :=
  let s := { s with upsets := s.upsets.filter fun u => match u with
    | .checksum k' ic' _ => !(k' == k && ic' == ic)
    | _ => true }
  s.setReg 0xA010 (withBits (s.reg 0xA010) 0 32 (s.field 0xA010 0 32 + 1))

/-- The slots that an MMA consumes lose their pins. -/
def State.eatSlots (s : State) (core : Nat) (ns : List Nat) : State :=
  ns.foldl (fun s n => (s.releasePins core n).setSlot core n { ((s.releasePins core n).core core).slot n with used := true }) s

/-- MMA_COMPLETE: every element of the target rows is written, the flags are delivered and the slots' pins released (R302, R307, R308),
after every earlier operation on the tile (R319). A checksum mismatch that the re-run repeats leaves the tile as it was and raises
SHADOW (R323). -/
def execMmaComplete (core j : Nat) (s : State) : Host.Outcome State Fault Refusal :=
  match (s.core core).ops[j]? with
  | none => .next s
  | some o =>
    match o.kind, o.latched with
    | .mma fn tile accum sca _ gs, some (A, B, sc) =>
      if s.mustWait core j o then .next s
      else withOwner s core o fun s =>
        let upset := s.checksumAt o.k o.ic
        let s := if upset.isSome then s.checksumRetry o.k o.ic else s
        let s := s.eatSlots core o.eats
        if upset = some true then
          let s := finishOp s core j o 0 none
          .next (s.imprecise o.k { cause := .shadow, pc := o.pc, ic := o.ic, lane := 0, mask := 0, addr := 0, gate := some o.flag })
        else
          let x := s.core core
          let rows := (groupRows gs).map fun g => (g.1, mmaRow o fn accum sca A B sc x tile g.1 g.2.1 g.2.2.scb)
          let fl := rows.foldl (fun b r => r.2.foldl (fun b e => b ||| e.flags) b) (if upset.isSome then fSC else 0)
          let bad := rows.findSome? fun r => (List.range 128).findSome? fun col =>
            if ((r.2.map FRes.flags).getD col 0) &&& enables o.fmode ≠ 0 then some (tileKey tile r.1 col) else none
          let s := s.modCore core fun x => rows.foldl (fun x r => x.setTileRow tile r.1 (r.2.map fun e => BitVec.ofNat 32 e.bits)) x
          .next (finishOp s core j o fl (bad.map fun n => BitVec.ofNat 64 n))
    | _, _ => .next s

/-! ## Accumulator instructions (R312 to R318) -/

/-- The instruction waits at issue for every operation in flight on its tile (R319). -/
def tileFree (c : Ctx) (s : State) (tile : Nat) (body : Except Stop Eff) : Except Stop Eff :=
  if s.tileBusy (s.coreOf c.k) (teamOf c.k) tile then .error .stay else body

/-- ACC.ZERO -/
def accZeroBody (c : Ctx) (s : State) : Except Stop Eff :=
  let v := sregOf (s.weft c.k) c.i.a
  if 4 ≤ v.toNat then trap .opbound
  else owning c s fun s =>
    let t := v.toNat
    tileFree c s t (
      let core := s.coreOf c.k
      let recs := acctRecs (s.core core) c.active t (List.range 128)
      .ok { s := s.modCore core fun x => { x with tiles := SMap.write zeroWord x.tiles (tileKey t 0 0) (List.replicate 16384 0) }
            recs := recs, noUndo := true })

/-- ACC.ZERO (R314) -/
def execAccZero (p : Option Prefix) (a : Reg) (s : State) : Host.Outcome State Fault Refusal :=
  issueMem (formA p 0x5A 0 true 0 a 0) accZeroBody s

/-- The tile, row and column of a selector (R313). -/
def selTile (v : Word) : Nat := bitsOf v 14 2
def selRow (v : Word) : Nat := bitsOf v 7 7
def selCol (v : Word) : Nat := bitsOf v 0 7

/-- The tiles that the lanes of an ACC.RD or ACC.WR name are free. -/
def tilesFree (c : Ctx) (s : State) (body : Except Stop Eff) : Except Stop Eff :=
  let w := s.weft c.k
  let core := s.coreOf c.k
  if (c.lanes w).any fun L => s.tileBusy core (teamOf c.k) (selTile (w32 (c.valA w L))) then .error .stay else body

def accRdBody (c : Ctx) (s : State) : Except Stop Eff :=
  owning c s fun s => tilesFree c s (
    let x := s.core (s.coreOf c.k)
    laneEffect true (fun l => let v := w32 l.a; ret32 (x.tile (selTile v) (selRow v) (selCol v))) c s)

/-- ACC.RD (R313) -/
def execAccRd (p : Option Prefix) (d a : Reg) (s : State) : Host.Outcome State Fault Refusal :=
  issueMem (formA p 0x5A 1 false d a 0) accRdBody s

/-- ACC.WR: lanes in ascending order, so that the highest lane's value remains; one ACCT record for each row written. -/
def accWrBody (c : Ctx) (s : State) : Except Stop Eff :=
  owning c s fun s => tilesFree c s (
    let w := s.weft c.k
    let core := s.coreOf c.k
    let x := s.core core
    let sel := (c.lanes w).map fun L => (L, w32 (c.valA w L))
    let rows := (List.range 512).filter fun n => sel.any fun y => selTile y.2 * 128 + selRow y.2 == n
    let recs := rows.flatMap fun n => acctRecs x c.active (n / 128) [n % 128]
    let put := fun (x : Core) (y : Nat × Word) =>
      ({ x with tiles := SMap.set zeroWord x.tiles (tileKey (selTile y.2) (selRow y.2) (selCol y.2)) (w32 (c.valD w y.1)) } : Core)
    .ok { s := s.setCore core (sel.foldl put x), recs := recs, noUndo := true })

/-- ACC.WR (R313) -/
def execAccWr (p : Option Prefix) (d a : Reg) (s : State) : Host.Outcome State Fault Refusal :=
  issueMem (formA p 0x5A 2 false d a 0) accWrBody s

/-- The record kind of ACC.ST, and the words of one row's old elements. -/
def accStKind (r : Iter) : Nat := if r.glob then kMem32 else kSpad32

/-- The aligned words of the elements of some columns of a row, ascending. -/
def rowWords (r : Iter) (row lo n : Nat) : List Nat :=
  let ws := (List.range n).flatMap fun i =>
    let a := (r.addr (128 * row + lo + i)).toNat
    if r.esize = 8 then [a, a + 4] else [a / 4 * 4]
  (ws.dedup).mergeSort (fun a b => decide (a ≤ b))

/-- The column ranges of a row's records: two for a row of more than 255 old words (R318). -/
def rowParts (r : Iter) (row : Nat) : List (Nat × Nat) :=
  if 255 < (rowWords r row 0 128).length then [(0, 64), (64, 64)] else [(0, 128)]

/-- The records of ACC.ST, with payloads to be filled as the elements are written. -/
def accStRecs (r : Iter) (mask : Mask) : List Rec :=
  (List.range 128).flatMap fun row => (rowParts r row).map fun p =>
    { kind := accStKind r, mask := mask, payload := plain ((rowWords r row p.1 p.2).map fun _ => 0) }

/-- A record of N = 16,384 from its first element. -/
def wholeTile (r : Iter) : Bool := r.count == 16384 && r.start == 0

def accStBody (c : Ctx) (s : State) : Except Stop Eff :=
  let w := s.weft c.k
  let v := sregOf w c.i.d
  let e := prefixExt c.i.p
  if 8 ≤ v.toNat then trap .opbound
  else match recordAt c s (e.getLsbD 1) (e.getLsbD 0) c.i.a with
  | .error x => .error x
  | .ok (r, s) =>
    if !wholeTile r then trap .opbound
    else if prefixSat c.i.p && !(v.getLsbD 2 && fmtInt r.fmt) then trap .illegal
    else owning c s fun s => tileFree c s (bitsOf v 0 2) (
      let recs := accStRecs r c.active ++ [lowFlags c w]
      let hist := if w.recording then some w.hist.top else none
      .ok { s := launchOp c s (.accSt (bitsOf v 0 2) (v.getLsbD 2) r) hist, recs := recs, noFlagsRec := true, noUndo := true })

/-- ACC.ST (R315); the size of its records is that of one whose elements have eight bytes (R211, R318). -/
def execAccSt (p : Option Prefix) (d a : Reg) (s : State) : Host.Outcome State Fault Refusal :=
  issueMem (formA p 0x5A 3 true d a 0) accStBody s

def accLdBody (c : Ctx) (s : State) : Except Stop Eff :=
  let w := s.weft c.k
  let v := sregOf w c.i.d
  let e := prefixExt c.i.p
  if prefixSat c.i.p then trap .illegal
  else if 4 ≤ v.toNat then trap .opbound
  else match recordAt c s (e.getLsbD 1) (e.getLsbD 0) c.i.a with
  | .error x => .error x
  | .ok (r, s) =>
    if !wholeTile r || r.fmt == 2 || r.fmt == 3 then trap .opbound
    else owning c s fun s => tileFree c s v.toNat (
      let recs := acctRecs (s.core (s.coreOf c.k)) c.active v.toNat (List.range 128) ++ [lowFlags c w]
      .ok { s := launchOp c s (.accLd v.toNat r), recs := recs, noFlagsRec := true, noUndo := true })

/-- ACC.LD (R316) -/
def execAccLd (p : Option Prefix) (d a : Reg) (s : State) : Host.Outcome State Fault Refusal :=
  issueMem { (formA p 0x5A 4 true d a 0) with ok := !prefixSat p } accLdBody s

/-- SCL.LD (R317) -/
def sclLdBody (c : Ctx) (s : State) : Except Stop Eff :=
  let w := s.weft c.k
  let v := sregOf w c.i.d
  let a := (sregOf w c.i.a).toNat
  let first := bitsOf v 0 7
  let count := bitsOf v 8 7 + 1
  if v.getLsbD 7 || bitsOf v 15 17 != 0 || a % 128 != 0 || decide (127 < first + count - 1)
      || decide ((s.team (teamOf c.k)).size < a + 128 * count) then trap .opbound
  else owning c s fun s => .ok { s := launchOp c s (.sclLd first count a) }

/-- SCL.LD (R317) -/
def execSclLd (p : Option Prefix) (d a : Reg) (s : State) : Host.Outcome State Fault Refusal :=
  issueMem (formA p 0x5A 5 true d a 0) sclLdBody s

/-- SCL.RD waits for the MMAs that have still to read scale memory, and for the SCL.LDs issued before it (R321). -/
def sclRdBody (c : Ctx) (s : State) : Except Stop Eff :=
  owning c s fun s =>
    let x := s.core (s.coreOf c.k)
    let busy := x.ops.any fun o => o.k / 16 == teamOf c.k && match o.kind with
      | .mma .. => o.latched.isNone
      | .sclLd .. => true
      | _ => false
    if busy then .error .stay
    else laneEffect true (fun l => let v := w32 l.a; ret32 ((x.scale (selRow v) (selCol v)).setWidth 32)) c s

/-- SCL.RD (R313) -/
def execSclRd (p : Option Prefix) (d a : Reg) (s : State) : Host.Outcome State Fault Refusal :=
  issueMem (formA p 0x5A 6 false d a 0) sclRdBody s

/-! ## Completions of the accumulator instructions -/

/-- The bytes of scale rows, page by page. -/
def readRows (core t : Nat) (m : MDesc) : List Nat → State → Except Stop (List Byte × State)
  | [], s => .ok ([], s)
  | i :: rest, s =>
    match s.bringPages t core (m.pages [i]) with
    | .error e => .error e
    | .ok s =>
      let bs := m.read s core t 128 [i]
      (readRows core t m rest s).map fun r => (bs ++ r.1, r.2)

/-- SCL_LD_COMPLETE: the scale rows are written once every earlier MMA has read its scales (R321). -/
def execSclLdComplete (core j : Nat) (s : State) : Host.Outcome State Fault Refusal :=
  match (s.core core).ops[j]? with
  | none => .next s
  | some o =>
    match o.kind with
    | .sclLd first count a =>
      let t := teamOf o.k
      if s.mustWait core j o || (s.weft o.k).heldBefore o.seq then .next s
      else match ((List.range count).map fun i => a + 128 * i).find? (s.spadBad t) with
      | some b => opFault s core j o (.spfault b)
      | none => withOwner s core o fun s =>
        let m : MDesc := { addr := a, slot := false, ldu := 1 }
        match readRows core t m (List.range count) s with
        | .error st => onStop s st
        | .ok (bs, s) =>
          let s := s.modCore core fun x => { x with scales := SMap.write zeroByte x.scales (128 * first) bs }
          .next (finishOp s core j o 0 none)
    | _ => .next s

/-- An element of ACC.LD as tile bits: to FP32 without the effects of FMODE's flush and saturation, or to INT32 (R316). -/
def accLdElem (o : EngOp) (fmt : Nat) (e x : Nat) : FRes :=
  let v := fenvAt (o.fmode &&& ~~~(0x38 : Word)) o.rm (matrixPos (e / 128) (e % 128)) o.phase
  if codeFloat fmt then roundVal (ffmt 4) v ((ffmt fmt).decode x)
  else { bits := intBits 32 (intVal fmt (codeBits fmt) x) }

def accLdRead (core : Nat) (o : EngOp) (r : Iter) : List Nat → State → Except EngFault (List FRes × State)
  | [], s => .ok ([], s)
  | e :: t, s =>
    match readElem s core o.k o.seq r e with
    | .error x => .error x
    | .ok (bs, s) => (accLdRead core o r t s).map fun y => (accLdElem o r.fmt e (leNat bs) :: y.1, y.2)

/-- ACC_LD_COMPLETE: every element has been read, and the tile is written in one step. -/
def execAccLdComplete (core j : Nat) (s : State) : Host.Outcome State Fault Refusal :=
  match (s.core core).ops[j]? with
  | none => .next s
  | some o =>
    match o.kind with
    | .accLd tile r =>
      if s.mustWait core j o then .next s
      else withOwner s core o fun s => match accLdRead core o r r.elements s with
      | .error x => opFault s core j o x
      | .ok (es, s) =>
        let fl := es.foldl (fun b e => b ||| e.flags) 0
        let bad := es.findIdx fun e => e.flags &&& enables o.fmode != 0
        let s := s.modCore core fun x =>
          { x with tiles := SMap.write zeroWord x.tiles (tileKey tile 0 0) (es.map fun e => BitVec.ofNat 32 e.bits) }
        .next (finishOp s core j o fl (if bad < es.length then some (r.addr bad) else none))
    | _ => .next s

/-- The place in the history stack, as a word index from A0, of the payload word for an aligned address in the record of element e. -/
def accStPlace (r : Iter) (base e a : Nat) : Nat :=
  let row := e / 128
  let size := fun (row : Nat) (p : Nat × Nat) => (rowWords r row p.1 p.2).length + 4
  let below := (List.range row).foldl (fun n i => (rowParts r i).foldl (fun n p => n + size i p) n) base
  let parts := rowParts r row
  let ix := parts.findIdx fun p => decide (e % 128 < p.1 + p.2)
  let below := (parts.take ix).foldl (fun n p => n + size row p) below
  let p := parts.getD ix (0, 128)
  below + 3 + (rowWords r row p.1 p.2).findIdx (· == a)

/-- The aligned words that element e touches. -/
def elemWordsAt (r : Iter) (e : Nat) : List Nat :=
  let a := (r.addr e).toNat
  if r.esize = 8 then [a, a + 4] else [a / 4 * 4]

/-- An earlier element of the same record has touched the word: its payload word is filled already. -/
def touchedBefore (r : Iter) (e a : Nat) : Bool :=
  let lo := e / 128 * 128 + (if (rowParts r (e / 128)).length = 2 ∧ 64 ≤ e % 128 then 64 else 0)
  (List.range (e - lo)).any fun i => (elemWordsAt r (lo + i)).contains a

/-- An aligned word of memory as element e finds it. -/
def oldWordAt (s : State) (core : Nat) (o : EngOp) (r : Iter) (a : Nat) : Word :=
  if r.glob then
    let ctx := s.ctxOf o.k
    match s.lookup (clusterOf core) ctx .read (BitVec.ofNat 64 a) with
    | .ok x =>
      let pa := x.pa (BitVec.ofNat 64 a)
      let bs := if s.rangeMode ctx pa = 0 then s.cohRead pa 4 else s.readMem pa 4
      leWord (overlay (s.ownWrites o.k (o.seq + 1)) pa bs)
    | .error _ => 0
  else s.spadWord (teamOf o.k) a

/-- One element of ACC.ST: the old words go to the records, then the converted element is written. -/
def accStElem (core : Nat) (o : EngOp) (tile : Nat) (int : Bool) (r : Iter) (e : Nat) (s : State) : Except EngFault (Byte × State) :=
  let v := fenvAt o.fmode o.rm (matrixPos (e / 128) (e % 128)) o.phase
  let x := convert (if int then 0 else 4) r.fmt o.sat v ((s.core core).tile tile (e / 128) (e % 128)).toNat
  let olds := (elemWordsAt r e).map fun a => (a, oldWordAt s core o r a)
  match writeElem s core o.k o.seq o.ic r e (leBytes r.esize x.bits) with
  | .error f => .error f
  | .ok s =>
    let s := match o.hist with
      | none => s
      | some base => olds.foldl (fun s w =>
          if touchedBefore r e w.1 then s
          else s.modWeft o.k fun y => { y with hist := y.hist.patch (accStPlace r base e w.1) [w.2] }) s
    .ok (x.flags, s)

/-- Elements written from `next` on, up to the first that faults: the state, the operation's progress, and the fault. -/
def accStRun (core : Nat) (tile : Nat) (int : Bool) (r : Iter) : Nat → EngOp → State → EngOp × State × Option EngFault
  | 0, o, s => (o, s, none)
  | n + 1, o, s =>
    match accStElem core o tile int r o.next s with
    | .error f => (o, s, some f)
    | .ok (b, s) =>
      let bad := if o.bad.isNone && b &&& enables o.fmode != 0 then some (r.addr o.next) else o.bad
      accStRun core tile int r n { o with next := o.next + 1, fl := o.fl ||| b, bad := bad } s

/-- ACC_ST_COMPLETE: the elements are written in ascending order. A fault stops it at the element, as a copy (R315, R189). -/
def execAccStComplete (core j : Nat) (s : State) : Host.Outcome State Fault Refusal :=
  match (s.core core).ops[j]? with
  | none => .next s
  | some o =>
    match o.kind with
    | .accSt tile int r =>
      if s.mustWait core j o then .next s
      else withOwner s core o fun s =>
        let (o', s', f) := accStRun core tile int r (16384 - o.next) o s
        match f with
        | none => .next (finishOp s' core j o' o'.fl o'.bad)
        | some .wait => .next (setOp s' core j o')
        | some (.reserve c t Ps) => .next ((setOp s' core j o').queueReserve c t Ps)
        | some (.prot va) =>
          let s := (dropOp s' core j).modWeft o.k fun w => (w.stepPhase 1).dropFlag o.flag
          .next (deliverCopyFault s o.k { cause := .prot, pc := o.pc, ic := o.ic, lane := 0, mask := 0, addr := va, gate := none })
        | some x => opFault s' core j o' x
    | _ => .next s

end Sys2Proof.Machine
end

