-- ==== Sys2Proof/Machine/Image.lean ====
section
/-!
DEFINITION. Context images (18_traps R423 to R425, 09_registers_history R198): the bytes that a save or CTXSV writes. Blocks that
the manual calls opaque take free values (notes/assumptions 6).
-/

namespace Sys2Proof.Machine

/-- Bytes with their physical address. -/
abbrev Piece8 := Nat × List Byte

def le4 (v : Nat) : List Byte := leBytes 4 v
def le8 (v : Nat) : List Byte := leBytes 8 v
def dw (v : Dword) : List Byte := leBytes 8 v.toNat
def wd (v : Word) : List Byte := leBytes 4 v.toNat
def flagBit (b : Bool) (n : Nat) : Nat := if b then 2 ^ n else 0

/-- Free bytes, and the counter past them. -/
def freeBytes (tick n : Nat) : List Byte := (List.range n).map fun i => Config.freeByte (tick + i)

/-- The STATE word of a weft table entry. -/
def stateWord (w : Weft) : Nat :=
  flagBit w.flow.dir 0 + flagBit w.trap.handler 1 + flagBit w.hist.on 2 + flagBit w.hist.mhist 3 + flagBit w.sched.uncommitted 4
    + flagBit (w.status == .ended) 5 + flagBit w.sched.turn 6 + w.sched.turnLeft % 128 * 128

/-- The completion flags as 6-bit fields. -/
def flagField (w : Weft) : Nat := (List.range 12).foldl (fun n i => n + w.flagCount i % 64 * 2 ^ (6 * i)) 0

/-- A weft table entry (R424). -/
def weftEntry (ib : Nat) (m : ImageMap) (i : Nat) (parkedHere : Bool) (w : Weft) : List Byte :=
  dw (resumePc parkedHere w) ++ dw w.flow.ic ++ dw w.flow.cf ++ dw w.flow.cfic ++ dw w.hist.hsp ++ dw w.hist.hbase ++ dw w.hist.hlim
    ++ dw w.hist.hcommit ++ le8 (m.regs.getD i 0) ++ dw w.flow.revT ++ dw w.sched.skip ++ dw w.trap.tpc ++ dw w.trap.tic
    ++ dw w.trap.taddr ++ dw w.trap.tmask ++ dw w.flow.active ++ wd w.trap.tcause ++ wd w.trap.tlane ++ wd w.regs.fmode
    ++ le4 (stateWord w) ++ le4 w.regs.wb ++ le4 w.regs.alloc ++ le4 w.sched.epoch ++ le4 0 ++ leBytes 12 (flagField w) ++ le4 0
    ++ dw w.trap.tamask ++ dw w.trap.rejoin ++ le8 (ib + 0x3400 + 512 * i) ++ le8 (m.stq + stqBytes * i) ++ dw w.hist.lastPc
    ++ leBytes 40 0

/-- A weft's register region (R198). -/
def regionImage (w : Weft) : List Byte :=
  (w.regs.wordsS 0 128).flatMap wd ++ ((List.range 8).map w.maskReg).flatMap dw ++ leBytes 64 0
    ++ (List.range 64).map (fun L => if L < w.width then w.fflag L else 0) ++ leBytes 320 0
    ++ (List.range w.regs.alloc).flatMap fun p => (List.range w.width).flatMap fun L => wd (w.regs.getV p L)

/-- The history area: opaque payload words take free values. -/
def historyImage (tick : Nat) (n : Nat) (h : Hist) : List Byte :=
  ((List.range (n / 4)).zip (SMap.read zeroH h.words 0 (n / 4))).flatMap fun x =>
    if x.2.opq then wd ((Config.freeDword (tick + x.1)).setWidth 32) else wd x.2.v

/-- What CTXSV writes of a weft: its table entry, register lines, history and reconvergence block (R415). -/
def weftPieces (s : State) (k : Nat) (parkedHere : Bool) : List Piece8 :=
  let x := s.teamOfWeft k
  let m := s.imageMap (teamOf k)
  let i := indexOf k
  let w := s.weft k
  [(x.image + 0x2400 + 256 * i, weftEntry x.image m i parkedHere w), (x.image + 0x3400 + 512 * i, freeBytes s.freeTick 512),
   (m.regs.getD i 0, regionImage w), (m.hist + m.histb * i, historyImage s.freeTick x.launch.histb.toNat w.hist)]

/-- A record with its IDX fields at element e (R189). -/
def Iter.rawAt (r : Iter) (e : Nat) : List Byte := r.raw.take 0x30 ++ (r.index e).flatMap le4

/-- An engine-table entry (R425). -/
def engineEntry (a d : List Byte) (kind fn weft flag arg : Nat) (run : Word) (pc ic : Dword) : List Byte :=
  (a ++ leBytes 64 0).take 64 ++ (d ++ leBytes 64 0).take 64 ++ le4 (kind + fn * 16 + weft * 256 + 2 ^ 16 + flag % 16 * 2 ^ 20)
    ++ le4 arg ++ wd run ++ le4 0 ++ dw pc ++ dw ic ++ leBytes 96 0

def copyEntry (y : Copy) : List Byte :=
  engineEntry (if y.fn = 4 then [] else y.src.rawAt y.next) (if y.fn = 5 then [] else y.dst.rawAt y.next) 1 y.fn (indexOf y.k)
    y.flag y.bar y.arg y.pc y.ic

def opEntry (o : EngOp) : List Byte :=
  let e := fun a d kind fn arg => engineEntry a d kind fn (indexOf o.k) o.flag arg 0 o.pc o.ic
  match o.kind with
  | .tsweep fn d srcs _ => e ((srcs.map Iter.raw).headD []) d.raw 2 fn 0
  | .tfetch _ r => e r.raw [] 3 0 0
  | .accSt t int r => e (r.rawAt o.next) [] 4 0 (t + flagBit int 2)
  | .accLd t r => e r.raw [] 5 0 t
  | _ => e [] [] 0 0 0

/-- The team record at the head of the image. -/
def teamRecord (x : Team) (m : ImageMap) (parked stopped : Bool) : List Byte :=
  let state := flagBit parked 0 + flagBit x.pair 1 + flagBit stopped 2 + flagBit x.release.isSome 3
  let bs := x.task.toBytes ++ le4 x.ctx ++ le4 x.nwefts ++ le4 state ++ le4 x.size ++ le8 x.core ++ le8 m.matb ++ le8 m.sptb
    ++ le8 m.datb ++ le8 m.backb
  bs ++ leBytes (256 - bs.length) 0

/-- The team's barrier instances. -/
def barrierImage (x : Team) : List Byte :=
  (List.range 24).flatMap fun key =>
    let b := x.bar key
    le8 (b.pending.toNat + flagBit b.phase 16)

/-- Slot snapshots: the record, then VALID and PINNED. -/
def slotPieces (x : Team) : List Piece8 :=
  (x.image + 0x400, leBytes 8192 0) :: x.slots.map fun y => (x.image + 0x400 + 4096 * y.1 + 128 * y.2.1, y.2.2 ++ leBytes 60 0)

/-- What a save writes of the whole team (R423). -/
def teamPieces (s : State) (t : Nat) (parked stopped : Bool) (parkedWeft : Option Nat) : List Piece8 :=
  let x := s.team t
  let m := s.imageMap t
  let ib := x.image
  let wefts := List.range x.nwefts
  let entries := (x.copies.map fun y => copyEntry y.2) ++ x.ops.map fun y => opEntry y.2
  [(ib, teamRecord x m parked stopped), (ib + 0x100, barrierImage x), (ib + 0x1C0, leBytes 576 0)]
    ++ slotPieces x
    ++ [(ib + 0x2400, leBytes 4096 0), (ib + 0x3400, leBytes 8192 0), (ib + 0x5400, leBytes 32768 0), (ib + 0xD400, leBytes 3072 0)]
    ++ wefts.flatMap (fun i => weftPieces s (16 * t + i) (parkedWeft == some i))
    ++ wefts.map (fun i => (m.stq + stqBytes * i, freeBytes s.freeTick stqBytes))
    ++ (if x.domain ≠ 0 then [(m.datb, freeBytes s.freeTick 262144)] else [])
    ++ ((List.range entries.length).zip entries).map (fun y => (ib + 0x5400 + 256 * y.1, y.2))
    ++ [(m.sptb, (List.range (x.size / 2048)).flatMap fun P => dw (x.spte P))]

/-- The number of free values that writing an image uses. -/
def imageTicks : Nat := 2 ^ 24

/-- Write pieces at the home; a piece above CAP has no memory. -/
def writePieces (s : State) : List Piece8 → Except Fault State
  | [] => .ok s
  | (a, bs) :: rest => if s.exists a bs.length then writePieces (s.homeWrite a bs) rest else .error (.noMemory a)

/-! ## The image pool (R420, R421) -/

def State.poolBase (s : State) : Nat := s.field 0x3000 12 40 * 4096
def State.poolLen (s : State) : Nat := s.field 0x3008 12 40 * 4096

/-- CIFREE. -/
def State.notePool (s : State) : State :=
  s.setField 0x3010 0 52 (s.poolLen - s.poolUsed.foldl (fun n x => n + x.2) 0)

/-- The lowest place in the pool with room for an image. -/
def State.poolPlace (s : State) (len : Nat) : Option Nat :=
  let places := s.poolBase :: s.poolUsed.map fun x => x.1 + x.2
  let fits := fun (b : Nat) => decide (s.poolBase ≤ b) && decide (b + len ≤ s.poolBase + s.poolLen)
    && s.poolUsed.all fun x => decide (b + len ≤ x.1) || decide (x.1 + x.2 ≤ b)
  minCode (places.filter fits)

def State.poolTake (s : State) (b len : Nat) : State := { s with poolUsed := s.poolUsed ++ [(b, len)] }.notePool
def State.poolFree (s : State) (b : Nat) : State := { s with poolUsed := s.poolUsed.filter fun x => x.1 != b }.notePool

end Sys2Proof.Machine
end

