-- ==== Sys2Proof/Machine/System.lean ====
section
/-!
DEFINITION. The SYS group (18_traps R410 to R416) and the special registers (02_threads R38 to R40).
-/

namespace Sys2Proof.Machine

/-! ## SRD (R39, R411) -/

/-- FLAGS: one bit for every flag that is not clear (R38). -/
def flagsWord (w : Weft) : Nat := (List.range 12).foldl (fun n i => n + flagBit (w.flagCount i != 0) i) 0

/-- A special register of a weft; thread-scope registers by lane. SRD DCLK is apart. -/
def specialVal (s : State) (k n L : Nat) : Dword :=
  let w := s.weft k
  let t := s.teamOfWeft k
  let z := fun (v : Word) => (v.setWidth 64 : Dword)
  let m := fun (v : Nat) => BitVec.ofNat 64 v
  match n with
  | 0x00 => w.flow.ic
  | 0x01 => m (flagBit w.flow.dir 0)
  | 0x02 => w.flow.cf
  | 0x03 => w.flow.cfic
  | 0x04 => w.hist.hsp
  | 0x05 => w.hist.hbase
  | 0x06 => w.hist.hlim
  | 0x07 => w.hist.hcommit
  | 0x08 => m w.regs.wb
  | 0x09 => m w.regs.alloc
  | 0x0A => z w.regs.fmode
  | 0x0B => (w.fflag L).setWidth 64
  | 0x0C => m L
  | 0x0D => m w.width
  | 0x0E => m (indexOf k)
  | 0x0F => m t.teamIx
  | 0x10 => z t.task.tilex
  | 0x11 => z t.task.tiley
  | 0x12 => z t.task.tilez
  | 0x13 => t.taskp
  | 0x14 => t.task.arg
  | 0x15 => m (s.coreOf k)
  | 0x16 => m (dieOf (s.coreOf k))
  | 0x17 => m w.role
  | 0x18 => t.sig
  | 0x1A => z w.trap.tcause
  | 0x1B => w.trap.tpc
  | 0x1C => w.trap.tmask
  | 0x1D => w.trap.taddr
  | 0x1E => z w.trap.tlane
  | 0x1F => w.trap.tic
  | 0x20 => m (flagsWord w)
  | _ => 0

/-- SRD DCLK: some value that is not above the published minimum; 0 outside a domain (17_determinism R390). -/
def dclkVal (s : State) (k : Nat) : Dword :=
  if !s.inDomain k then 0
  else
    let v := Config.freeDword s.freeTick
    let m := s.minClock (s.teamOfWeft k).domain
    if v.toNat ≤ m.toNat then v else m

def srdBody (n : Nat) (c : Ctx) (s : State) : Except Stop Eff :=
  if n = 0x19 then
    let v := dclkVal s c.k
    laneEffect true (fun _ => ret64 v) c s.tick
  else laneEffect true (fun x => { val := (specialVal s c.k n x.lane).setWidth 128 }) c s

/-- SRD (R411) -/
def execSrd (p : Option Prefix) (u : Bool) (d b : Reg) (s : State) : Host.Outcome State Fault Refusal :=
  issue (formA p 0x78 0 u d 0 b) (srdBody b.toNat) s

/-! ## SWR (R411, R212, R247) -/

/-- A FLAGS record that is pushed even when no byte changes (R466). -/
def flagsAlways (old new : Weft) : Rec := (flagsRec old new).getD { kind := kFlags, mask := 0, payload := [] }

/-- Registers that only a handler may write (R39). -/
def handlerReg (n : Nat) : Bool := (4 ≤ n && n ≤ 6) || n == 0x0A || (0x1A ≤ n && n ≤ 0x1F)

/-- The history area in bytes from A0 (R212). -/
def Hist.inArea (h : Hist) (v : Dword) : Bool := decide (h.a0.toNat ≤ v.toNat) && decide (v.toNat ≤ h.a0.toNat + h.bytes)

/-- A value written to HSP, HBASE or HLIM: none where R212 refuses it. -/
def writeHistReg (h : Hist) (n : Nat) (v : Dword) : Option Hist :=
  let h' : Hist := if n = 4 then { h with hsp := v } else if n = 5 then { h with hbase := v } else { h with hlim := v }
  if v.toNat % 4 = 0 ∧ h.inArea v ∧ h'.hbase.toNat ≤ h'.hsp.toNat ∧ h'.hsp.toNat ≤ h'.hlim.toNat ∧ h'.hsp.toNat ≤ h.hsp.toNat then
    some h' else none

def swrHandler (n : Nat) (v : Dword) (c : Ctx) (s : State) : Except Stop Eff :=
  let w := s.weft c.k
  let put := fun (t : TrapRegs) => (.ok { s := s.setWeft c.k { w with trap := t } } : Except Stop Eff)
  match n with
  | 0x0A =>
    let f := lowWord v
    if bitsOf f 0 3 = 7 ∨ bitsOf f 18 14 ≠ 0 then trap .opbound
    else if s.reservePhase c.k ≠ dphase w.regs.fmode ∨ s.cores.any (fun x => x.2.ops.any fun o => o.k == c.k && o.kind.sweepLike) then
      .error .stay
    else
      -- DET is read-only
      let f := withBits f 17 1 (bitsOf w.regs.fmode 17 1)
      .ok { s := s.setWeft c.k { w with regs := { w.regs with fmode := f } } }
  | 0x1A => put { w.trap with tcause := lowWord v }
  | 0x1B => put { w.trap with tpc := v }
  | 0x1C => put { w.trap with tmask := v, lanes := w.trap.lanes.filter fun f => v.getLsbD f.lane }
  | 0x1D => put { w.trap with taddr := v }
  | 0x1E => put { w.trap with tlane := lowWord v }
  | 0x1F => put { w.trap with tic := v }
  | _ => match writeHistReg w.hist n v with
    | some h =>
      let s := forgetRecords s c.k h.top
      .ok { s := s.modWeft c.k fun w => { w with hist := h } }
    | none => trap .opbound

def swrBody (n : Nat) (c : Ctx) (s : State) : Except Stop Eff :=
  let w := s.weft c.k
  if n = 0x0B then
    let w' := (c.lanes w).foldl (fun w' L => w'.setFflag L ((c.valA w L).setWidth 8 &&& 0x3F)) w
    .ok { s := s.setWeft c.k w', recs := [flagsAlways w w'], noFlagsRec := true }
  else if !handlerReg n ∨ !w.trap.handler then trap .priv
  else swrHandler n ((c.valA w (lowestLane w.width c.active)).setWidth 64) c s

/-- SWR (R411) -/
def execSwr (p : Option Prefix) (u : Bool) (a b : Reg) (s : State) : Host.Outcome State Fault Refusal :=
  let i := formA p 0x78 1 u 0 a b
  issue { i with priv := b != 0x0B && (!handlerReg b.toNat || !(s.weft s.cur).trap.handler) } (swrBody b.toNat) s

/-! ## ERET and FQPARK (R412, R413) -/

/-- The trapped code resumed: an empty active mask goes to the RPC of the top entry, or ends the weft (15_control_flow R344). -/
def resumeTrap (w : Weft) (R : Mask) (target : Dword) : Weft :=
  let w := returnTrap w R target
  if w.flow.active ≠ 0 then w
  else match w.flow.stack with
  | [] => w.end_
  | e :: _ => { w with flow := { w.flow with pc := e.rpc, entry := .xfer } }

def eretBody (m : BitVec 3) (explicit : Bool) (c : Ctx) (s : State) : Except Stop Eff :=
  let w := s.weft c.k
  if !w.trap.handler then trap .priv
  else
    let target := if explicit then spairOf w c.i.a else w.trap.resume
    let R := if m = 0 then w.trap.tmask else w.trap.tmask &&& w.maskReg m.toNat
    let go : Except Stop Eff := .error (.whole (settleEnd c.k (s.setWeft c.k (resumeTrap w R target))))
    if target = w.trap.resume then go
    else match targetHeader c s target with
    | .error e => .error e
    | .ok _ => go

/-- The CLAUSE of an explicit ERET at decode (R412, R53). -/
def eretClause (s : State) (a : Reg) : Option Dword :=
  let target := spairOf (s.weft s.cur) a
  if target = (s.weft s.cur).trap.resume then none else pairClause s a target

/-- ERET (R412) -/
def execEret (p : Option Prefix) (d : BitVec 3) (a : Reg) (b : Bool) (s : State) : Host.Outcome State Fault Refusal :=
  issue { (formA p 0x78 2 true (d.setWidth 7) a (if b then 1 else 0)) with
            ctl := some 0, clause := if b then eretClause s a else none, priv := !(s.weft s.cur).trap.handler } (eretBody d b) s

/-- FQPARK (R413) -/
def fqparkBody (c : Ctx) (s : State) : Except Stop Eff :=
  if !(s.weft c.k).trap.handler then trap .priv else .error (.whole (fqpark s c.k 0))

/-- FQPARK (R413) -/
def execFqpark (p : Option Prefix) (s : State) : Host.Outcome State Fault Refusal := 
  issue { (formA p 0x78 3 true 0 0 0) with priv := !(s.weft s.cur).trap.handler } fqparkBody s

/-! ## FLAGS.CLR, CTXSV and PAIRSIG (R414 to R416) -/

def flagsClrBody (c : Ctx) (s : State) : Except Stop Eff :=
  let w := s.weft c.k
  let v := sregOf w c.i.a
  if 64 ≤ v.toNat then trap .opbound
  else
    let w' := (c.lanes w).foldl (fun w' L => w'.setFflag L (w.fflag L &&& ~~~(v.setWidth 8))) w
    .ok { s := s.setWeft c.k w', recs := [flagsAlways w w'], noFlagsRec := true }

/-- FLAGS.CLR (R414) -/
def execFlagsClr (p : Option Prefix) (a : Reg) (s : State) : Host.Outcome State Fault Refusal :=
  issue (formA p 0x78 4 true 0 a 0) flagsClrBody s

/-- CTXSV writes the weft's image as it stands at its retirement (R415). -/
def ctxsvBody (c : Ctx) (s : State) : Except Stop Eff :=
  let s' := retire c (s.weft c.k) { s := s }
  match writePieces s' (weftPieces s' c.k false) with
  | .error f => .error (.fault f)
  | .ok s => .error (.whole { s with freeTick := s.freeTick + imageTicks })

/-- CTXSV (R415) -/
def execCtxsv (p : Option Prefix) (s : State) : Host.Outcome State Fault Refusal := issueMem (formA p 0x78 5 true 0 0 0) ctxsvBody s

def pairsigBody (c : Ctx) (s : State) : Except Stop Eff :=
  let w := s.weft c.k
  let v : Word := if s.member c.k = 0 then 0 else signature w.seg.writes
  .ok { s := s.setWeft c.k (writeD w c 0 (v.setWidth 128)), recs := destRecs w c }

/-- PAIRSIG (R416) -/
def execPairsig (p : Option Prefix) (d : Reg) (s : State) : Host.Outcome State Fault Refusal :=
  issue (formA p 0x78 6 true d 0 0) pairsigBody s

end Sys2Proof.Machine
end

