-- ==== Sys2Proof/Machine/Park.lean ====
section
/-!
DEFINITION. Pre-emption, restore and the fault queue (18_traps R417 to R428), and the host's commands on saved teams.
-/

namespace Sys2Proof.Machine

/-! ## Where a team stands -/

/-- The cores of a team. -/
def Team.coreList (x : Team) : List Nat := if x.pair then [x.core, x.core + 1] else [x.core]

/-- Tasks of a context are placed: the module runs, no repair is under way, and the context is not stopped (R422, 04_dram_l2 R80). -/
def State.placing (s : State) (ctx : Nat) : Bool := s.running && !s.repairing && !s.stopped.contains ctx

/-- The core stands on a die of the team's origin queue. -/
def State.eligible (s : State) (origin core : Nat) : Bool := (s.qDies origin).testBit (dieOf core)

/-- The first core that takes the other member of a pair: on another cluster than `core`, on an eligible die. -/
def State.otherCluster (s : State) (origin core n : Nat) (pair : Bool) : Option Nat :=
  (List.range 1024).find? fun c => clusterOf c != clusterOf core && s.eligible origin c && s.canAdmit c n pair

/-! ## Save (R426) -/

/-- PREEMPT: the command processor pre-empts a resident team; both members of a redundant pair are saved together (R426,
19_reliability R430). -/
def preemptTeam (s : State) (t : Nat) : State :=
  let x := s.team t
  if x.status ≠ .resident then s
  else
    let s := s.modTeam t fun x => { x with status := .saving 4 }
    if x.member = 0 then s
    else s.modTeam x.partner fun y => if y.status = .resident then { y with status := .saving 4 } else y

/-- PREEMPT (R426) -/
def execPreempt (team : Nat) (s : State) : Host.Outcome State Fault Refusal := .next (preemptTeam s team)

/-- What a save waits for in a weft: nothing in flight, and no entered or held store (R426 steps 1 and 2). -/
def Weft.saveable (w : Weft) : Bool := w.flights.isEmpty && w.stores.all fun e => !e.entered && !e.spad

/-- The team's accepted copies have landed or stopped, and its engine operations have completed or stopped, or wait for one that has
stopped (steps 3 and 4). -/
def State.enginesDone (s : State) (t : Nat) : Bool :=
  s.cores.all fun x => (x.2.copies.all fun y => y.k / 16 != t || !y.accepted || y.stopped)
    && x.2.ops.all fun o => o.k / 16 != t || (stuckOps x.2.ops).contains o

/-- The team's stopped operations move to its engine table. -/
def takeEngines (s : State) (t : Nat) : State :=
  let mine := fun (k : Nat) => k / 16 == t
  (s.team t).coreList.foldl (fun s c =>
    let copies := ((s.core c).copies.filter fun y => mine y.k).map fun y => (c - (s.team t).core, y)
    let ops := ((s.core c).ops.filter fun o => mine o.k).map fun o => (c - (s.team t).core, o)
    let s := s.modTeam t fun x => { x with copies := x.copies ++ copies, ops := x.ops ++ ops }
    s.modCore c fun y =>
      { y with copies := y.copies.filter fun z => !mine z.k, ops := y.ops.filter fun z => !mine z.k }) s

/-- The slots of a core whose last TFETCH the team issued. -/
def Core.slotsOf (y : Core) (t : Nat) : List (Nat × Slot × Iter) :=
  y.slots.filterMap fun x => match x.2.snap with
    | some (t', r) => if t' = t then some (x.1, x.2, r) else none
    | none => none

/-- The snapshots that a save writes VALID: the slot's last TFETCH has completed, and its consuming MMA has not (step 5, 08_copy_engine
R197), and PINNED unless TUNPIN has released its pins (R196). A TFETCH that has stopped resumes as an operation of the engine table instead. -/
def takeSlots (s : State) (t : Nat) : State :=
  s.modTeam t fun x =>
    let stopped := fun (c n : Nat) => x.ops.any fun o => x.core + o.1 == c && o.2.fetches n
    let found := x.coreList.flatMap fun c => ((s.core c).slotsOf t).filterMap fun y =>
      if y.2.1.used || stopped c y.1 then none else some (c - x.core, y.1, y.2.2.raw ++ le4 (1 + flagBit (!y.2.1.unpin) 1))
    { x with slots := found }

/-- The pins of the team's slots are released, and the slots are no longer the team's. -/
def dropSlots (s : State) (t : Nat) : State :=
  (s.team t).coreList.foldl (fun s c => ((s.core c).slotsOf t).foldl (fun s y =>
    let s := s.releasePins c y.1
    s.setSlot c y.1 { (s.core c).slot y.1 with snap := none, rerun := false, rerunProt := none }) s) s

/-- The matrix state of a team that is a core's owner goes to its image (step 5). -/
def saveMatrices (s : State) (t : Nat) : Except Fault State :=
  (s.team t).coreList.foldl (fun r c => match r with
    | .error f => .error f
    | .ok s => if (s.core c).owner = some t then saveMatrix s c else .ok s) (.ok s)

/-- A weft after its save: it holds no place in an active set, and its undo entry is gone (09_registers_history R223). -/
def Weft.saved (w : Weft) : Weft :=
  let c : Sched := { w.sched with inActive := false, waits := 0, issues := 0 }
  let h : Hist := { w.hist with undo := none }
  { w with sched := c, hist := h }

/-- The weft that its handler parked (KIND 0). -/
def Team.parkedWeft (x : Team) : Option Nat := if x.report.parked ∧ x.report.kind = 0 then some x.report.weft else none

/-- A team is placed again as soon as it is saved: a pre-emption parks no team, and CTXGO has ended the stop that saved it (R422). -/
def State.placedAgain (s : State) (t kind : Nat) : Bool := kind == 4 || (kind == 2 && !s.stopped.contains (s.team t).ctx)

/-- What the engines and the slots hold of the team, and the team, go to its image (steps 3 to 6). -/
def writeImage (s : State) (t kind : Nat) : Except Fault State :=
  let s := takeSlots (takeEngines s t) t
  writePieces s (teamPieces s t (kind != 4) (kind == 2) (s.team t).parkedWeft)

/-- The team is off its core: its slots and its places there are free, and its entry is written; `kind` is that of the entry, 4 for none. -/
def leaveCore (s : State) (t kind : Nat) : State :=
  let s := { (dropSlots s t) with freeTick := s.freeTick + imageTicks }
  let s := (s.weftsOf t).foldl (fun s k => s.modWeft k Weft.saved) s
  let status := if s.placedAgain t kind then .queued else .parked kind
  let s := s.modTeam t fun x => { x with lastCore := x.core, status := status }
  if kind = 4 then s else s.report (s.team t).report

/-- Everything of the team goes to its image, and it leaves its core (R423, R426). -/
def saveTeam (s : State) (t kind : Nat) : Except Fault State :=
  match saveMatrices s t with
  | .error f => .error f
  | .ok s => (writeImage s t kind).map fun s => leaveCore s t kind

/-- SAVE_COMPLETE: nothing of the team is in flight any more, and no release of its frames is under way (R426, R427). -/
def execSaveComplete (team : Nat) (s : State) : Host.Outcome State Fault Refusal :=
  match (s.team team).status with
  | .saving kind =>
    if (s.team team).release.isSome || !s.enginesDone team || !((s.weftsOf team).all fun k => (s.weft k).saveable) then .next s
    else taken s (outcomeOf (saveTeam s team kind))
  | _ => .next s

/-! ## Restore (R428) -/

/-- A register region as host software may have left it (R421). -/
def readRegion (bs : List Byte) (w : Weft) : Weft :=
  let ms := (List.range 8).map fun n => leDword ((bs.drop (0x200 + 8 * n)).take 8)
  let ff := (((bs.drop 0x280).take 64).take w.width).map fun b => b &&& 0x3F
  let vs := wordsOf (w.regs.alloc * w.width) (bs.drop 0x400)
  let r : Regs := { w.regs with
    s := SMap.write zeroWord [] 0 (wordsOf 128 bs)
    v := ((List.range vs.length).zip vs).filterMap fun x => if x.2 = 0 then none else some (64 * (x.1 / w.width) + x.1 % w.width, x.2)
    fflags := SMap.write zeroByte [] 0 ff }
  (List.range 8).foldl (fun w n => if n = 0 then w else w.setMaskReg n (ms.getD n 0)) { w with regs := r }

/-- The history area; words of opaque payloads are the hardware's own. -/
def readHistory (bs : List Byte) (h : Hist) : Hist :=
  let n := h.bytes / 4
  let old := SMap.read zeroH h.words 0 n
  { h with words := SMap.write zeroH [] 0 ((old.zip (wordsOf n bs)).map fun x => if x.1.opq then x.1 else { v := x.2 }) }

/-- A weft loaded from its image: registers, history, and the PC, TMASK and REJOIN of its table entry, in which TMASK bits can only
be withdrawn. A weft parked from its handler resumes as ERET does with REJOIN as the mask (R421, R428). -/
def restoreWeft (s : State) (t i : Nat) : State :=
  let x := s.team t
  let k := 16 * t + i
  let m := s.imageMap t
  let w := s.weft k
  if w.status ≠ .live then s
  else
    let here := x.parkedWeft == some i
    let at_ := x.image + 0x2400 + 256 * i
    let (entry, s) := s.homeRead at_ 256
    let (region, s) := s.homeRead (m.regs.getD i 0) (regionBytes w)
    let (hist, s) := s.homeRead (m.hist + m.histb * i) w.hist.bytes
    let at8 := fun (n : Nat) => leDword ((entry.drop n).take 8)
    let pc := at8 0
    let tm := at8 0x70 &&& w.trap.faulted
    let rj := at8 0xB8
    let w1 := readRegion region w
    let keep := fun (x : List LaneFault) => x.filter fun f => tm.getLsbD f.lane
    let tr : TrapRegs := { w1.trap with tmask := tm, rejoin := rj, lanes := keep w1.trap.lanes, old := keep w1.trap.old }
    let w2 : Weft := { w1 with trap := tr, hist := readHistory hist w1.hist }
    let w3 := if here then resumeTrap w2 rj pc
      else if pc = resumePc false w then w2
      else
        let f : Flow := { w2.flow with pc := pc, entry := .xfer }
        { w2 with flow := f, hold := none }
    settleEnd k (s.setWeft k w3)

/-- The scratchpad page table entries of pages that no core holds (06_core_memory R134). -/
def restoreSpt (s : State) (t : Nat) : State :=
  let n := (s.team t).size / 2048
  let (bs, s) := s.homeRead (s.imageMap t).sptb (8 * n)
  (List.range n).foldl (fun s P =>
    match s.findFrame t P with
    | some _ => s
    | none => s.modTeam t fun x => x.setSpte P (leDword ((bs.drop (8 * P)).take 8))) s

/-- VALID slot snapshots are to be fetched again, and the pins of the PINNED ones retaken (08_copy_engine R197, R465); a slot that the new
core lacks is left out. -/
def restoreSlots (s : State) (t : Nat) : State :=
  let x := s.team t
  let s := x.slots.foldl (fun s y =>
    let c := x.core + y.1
    let pinned := (y.2.2.getD 64 0).getLsbD 1
    match Iter.ofBytes true (y.2.2.take 64) with
    | some r => if y.2.1 < s.slotCount c then
        (s.releasePins c y.2.1).setSlot c y.2.1 { snap := some (t, r), rerun := true, unpin := !pinned }
      else s
    | none => s) s
  s.modTeam t fun x => { x with slots := [] }

/-- The engine table's operations run on, in its order (R428 step 4). -/
def restoreEngines (s : State) (t : Nat) : State :=
  let x := s.team t
  let s := x.copies.foldl (fun s y => s.modCore (x.core + y.1) fun c => { c with copies := c.copies ++ [{ y.2 with stopped := false }] }) s
  let s := x.ops.foldl (fun s y => s.modCore (x.core + y.1) fun c => { c with ops := c.ops ++ [{ y.2 with stopped := false }] }) s
  s.modTeam t fun x => { x with copies := [], ops := [] }

/-- A held weft evaluates its hold again (R427). -/
def wakeHold (s : State) (k : Nat) : State :=
  let t := teamOf k
  match (s.weft k).hold with
  | none => s
  | some h =>
    match h.kind with
    | .bar .. => wakeBar s k
    | .bbwait a _ =>
      -- an imprecise PROT of a copy that came while the team was saved is delivered first (08_copy_engine R189)
      match wakeFault s k with
      | some s => s
      | none => if s.spadBad t a then s else wakeBarrier s t a (BBar.ofBytes (s.spadRead t a 16))
    | .bbinval a => wakeInval s t a
    | .flushpt _ => wakeFlush s k
    | _ => s

/-- The team becomes resident on a core, with a release of its frames when they lie elsewhere (06_core_memory R141). -/
def restoreTeam (s : State) (t core : Nat) : State :=
  let x := s.team t
  let s := restoreSpt s t
  let s := (List.range x.nwefts).foldl (fun s i => restoreWeft s t i) s
  let old := x.coreList
  let left := core != x.core && old.any fun c => (s.core c).frames.any fun e => match e.2 with
    | some f => f.team == t
    | none => false
  let s := s.modTeam t fun y => { y with status := .resident, core := core, report := {}, release := if left then some x.core else none }
  let s := restoreEngines (restoreSlots s t) t
  (s.weftsOf t).foldl wakeHold s

/-- TEAM_RESTORE: the command processor places a saved team on a core of an eligible die; the members of a redundant pair are
restored together, on different clusters (R421, R428, 19_reliability R430). -/
def execTeamRestore (team core : Nat) (s : State) : Host.Outcome State Fault Refusal :=
  let x := s.team team
  let origin := x.task.origin.toNat
  if x.status ≠ .queued ∨ !s.placing x.ctx ∨ !s.eligible origin core ∨ !s.canAdmit core x.nwefts x.pair then .next s
  else if s.cap < (s.imageMap team).stop then .fault (.noMemory x.image)
  else if x.member = 0 then taken s (.next (restoreTeam s team core))
  else match s.otherCluster origin core x.nwefts x.pair with
  | none => .next s
  | some c => if (s.team x.partner).status ≠ .queued then .next s else taken s (.next (restoreTeam (restoreTeam s team core) x.partner c))

/-! ## The fault queue (R417, R418) -/

/-- CISTAT, and its bits. -/
def cistat : Nat := 0x3038
def cisCfgErr := 0
def cisCmdErr := 1
def cisNoRoom := 2
def cisFqErr := 3

def Report.toBytes (r : Report) : List Byte :=
  leBytes 2 r.kind ++ leBytes 2 r.code ++ le4 r.cause ++ le4 r.cause2 ++ wd r.tlane ++ dw r.image ++ dw r.tpc ++ dw r.tic
    ++ dw r.taddr ++ dw r.tmask ++ dw r.launch ++ dw r.record ++ dw r.tag ++ le4 r.team ++ leBytes 2 r.weft ++ leBytes 2 r.origin
    ++ wd r.preds ++ leBytes 36 0

/-- FQ of a context. -/
def State.fqOf (s : State) (ctx : Nat) : Option Dword :=
  if (s.rootOf ctx).isSome then some (s.cohDword (s.descBase ctx + 8)) else none

/-- Bytes at a virtual address of a context as the device reads and writes them, page by page; none where a page cannot be
translated for writing. -/
def State.ctxPieces (s : State) (ctx : Nat) (acc : Acc) (va : Dword) (n : Nat) : Option (List (Nat × Nat) × State) :=
  let first := min n (16384 - va.toNat % 16384)
  match s.hostXlate ctx acc va with
  | .error _ => none
  | .ok (pa, s) =>
    if first = n then some ([(pa, n)], s)
    else match s.hostXlate ctx acc (va + BitVec.ofNat 64 first) with
    | .error _ => none
    | .ok (pb, s) => some ([(pa, first), (pb, n - first)], s)

/-- Bytes of pieces of memory, read as the device reads. -/
def readPieces (s : State) : List (Nat × Nat) → List Byte × State
  | [] => ([], s)
  | p :: t =>
    let (bs, s) := s.hostRead p.1 p.2
    let (rest, s) := readPieces s t
    (bs ++ rest, s)

def State.ctxRead (s : State) (ctx : Nat) (va : Dword) (n : Nat) : Option (List Byte × State) :=
  (s.ctxPieces ctx .write va n).map fun x => readPieces x.2 x.1

def putPieces (s : State) : List (Nat × Nat) → List Byte → State
  | [], _ => s
  | p :: t, bs => putPieces (s.hostWrite p.1 (bs.take p.2)) t (bs.drop p.2)

def State.ctxWrite (s : State) (ctx : Nat) (va : Dword) (bs : List Byte) : Option State :=
  (s.ctxPieces ctx .write va bs.length).map fun x => putPieces x.2 x.1 bs

/-- The header of a context's fault queue: its address, LOG2N, HEAD, TAIL and LOST; none when it is malformed or cannot be reached. -/
def State.fqHeader (s : State) (ctx : Nat) : Option (Dword × Nat × Nat × Nat × Nat × State) :=
  match s.fqOf ctx with
  | none => none
  | some fq => match s.ctxRead ctx fq 64 with
  | none => none
  | some (bs, s) =>
    let n := fieldLe bs 0 4
    if n < 4 ∨ 16 < n ∨ !((bs.drop 16).all (· == 0)) then none
    else some (fq, n, fieldLe bs 4 4, fieldLe bs 8 4, fieldLe bs 12 4, s)

def fqFull (n head tail : Nat) : Bool := decide (2 ^ n ≤ (tail + 2 ^ 32 - head) % 2 ^ 32)

def State.dropReport (s : State) (j : Nat) : State := { s with reports := s.reports.eraseIdx j }

/-- A report that cannot be written is dropped, and CISTAT.FQERR is set. -/
def State.failReport (s : State) (j : Nat) : State := (s.dropReport j).setBit cistat cisFqErr

/-- Report j is written, or waits for the next reading of HEAD where the queue is full, or is dropped. -/
def writeReport (s : State) (j : Nat) (r : Report) : State :=
  match s.fqHeader r.ctx with
  | none => s.failReport j
  | some (fq, n, head, tail, _, s1) =>
    if fqFull n head tail then { s1 with reports := s1.reports.set j { r with polled := false } }
    else
      let done := (s1.ctxWrite r.ctx (fq + 64 + BitVec.ofNat 64 (128 * (tail % 2 ^ n))) r.toBytes).bind fun s => s.ctxWrite r.ctx (fq + 8) (le4 (tail + 1))
      match done with
      | none => s.failReport j
      | some s => (s.dropReport j).signal (ctxVector r.ctx)

/-- FAULT_ENTRY_WRITE: the entry is written, then TAIL advances, and the context's vector is signalled. A full queue leaves the
report waiting for the next reading of HEAD. -/
def execFaultEntryWrite (j : Nat) (s : State) : Host.Outcome State Fault Refusal :=
  match s.reports[j]? with
  | none => .next s
  | some r => if r.polled then taken s (.next (writeReport s j r)) else .next s

/-- FQ_HEAD_POLL: HEAD is read again for the entries of a context that wait. -/
def execFqHeadPoll (ctx : Nat) (s : State) : Host.Outcome State Fault Refusal :=
  .next { s with reports := s.reports.map fun r => if r.ctx = ctx then { r with polled := true } else r }

/-- FAULT_REPORT_DROP: a report of no parked team has found no room for 4,200,000 clocks: it is dropped and LOST counts it. -/
def execFaultReportDrop (j : Nat) (s : State) : Host.Outcome State Fault Refusal :=
  match s.reports[j]? with
  | none => .next s
  | some r =>
    if r.parked then .next s
    else match s.fqHeader r.ctx with
    | none => taken s (.next (s.failReport j))
    | some (fq, n, head, tail, lost, s1) =>
      if !fqFull n head tail then .next s
      else match s1.ctxWrite r.ctx (fq + 12) (le4 (lost + 1)) with
      | none => taken s (.next (s.failReport j))
      | some s2 => taken s (.next ((s2.dropReport j).signal (ctxVector r.ctx)))

/-! ## Commands on saved teams (R420 to R422) -/

def TeamStatus.isParked : TeamStatus → Bool
  | .parked _ => true
  | _ => false

/-- The parked or stopped team with this image. -/
def State.parkedAt (s : State) (image : Nat) : Option Nat :=
  (s.teams.find? fun x => x.2.status.isParked && x.2.image == image).map fun x => x.1

/-- A team and, when it is a member of a redundant pair, its partner. -/
def State.withPartner (s : State) (t : Nat) : List Nat := if (s.team t).member = 0 then [t] else [t, (s.team t).partner]

/-- FQRESUME (R421) -/
def execFqresume (v : Dword) (s : State) : Host.Outcome State Fault Refusal :=
  match s.parkedAt (bitsOf v 12 40 * 4096) with
  | none => .next (s.setBit cistat cisCmdErr)
  | some t =>
    let ts := s.withPartner t
    if ts.any fun t => (s.team t).noWayBack then .next (s.setBit cistat cisCmdErr)
    else .next (ts.foldl (fun s t => s.modTeam t fun x => if x.status.isParked then { x with status := .queued } else x) s)

/-- A team is gone: its frames return to the pools without write-back, its pins and operations go, and its image is freed
(06_core_memory R133, 08_copy_engine R195, R421). -/
def removeTeam (s : State) (t : Nat) : State :=
  let x := s.team t
  let s := s.cores.foldl (fun s e =>
    let c := e.1
    let y := e.2
    let frames : SMap (Option Frame) := y.frames.filter fun f => match f.2 with
      | some g => g.team != t
      | none => true
    let s := (y.slotsOf t).foldl (fun s z => (s.releasePins c z.1).setSlot c z.1 { ((s.releasePins c z.1).core c).slot z.1 with snap := none, rerun := false }) s
    let s := s.modCore c fun y =>
      let own := y.owner == some t
      { y with frames := frames, owner := if own then none else y.owner, tiles := if own then [] else y.tiles
               scales := if own then [] else y.scales, copies := y.copies.filter fun z => z.k / 16 != t
               ops := y.ops.filter fun z => z.k / 16 != t }
    if y.frames.length = frames.length then s else s.noteFree c) s
  let s := s.poolFree x.image
  let s := (List.range 16).foldl (fun s i => s.setWeft (16 * t + i) {}) s
  s.setTeam t {}

/-- The wefts of a discarded team that have not ended never will: their domain's flush points wait for them (16_scheduling R374,
17_determinism R396). -/
def loseWefts (s : State) (t : Nat) : State :=
  let live := (s.weftsOf t).filter fun k => (s.weft k).status == .live
  if (s.team t).member = 2 then s
  else s.modDomain (s.team t).domain fun d => { d with lost := d.lost ++ live.map fun k => (s.weft k).sched.epoch }

/-- FQDISCARD: the image is freed, and no join block is decremented (R421, R374). -/
def execFqdiscard (v : Dword) (s : State) : Host.Outcome State Fault Refusal :=
  match s.parkedAt (bitsOf v 12 40 * 4096) with
  | none => .next (s.setBit cistat cisCmdErr)
  | some t => .next ((s.withPartner t).foldl (fun s t => removeTeam (loseWefts s t) t) s)

/-- CTXSTOP stops this team: it is on its core, and neither it nor its partner is being parked already. -/
def State.stoppable (s : State) (t : Nat) : Bool :=
  let open_ := fun (x : Team) => x.status == .resident || x.status == .saving 4
  open_ (s.team t) && ((s.team t).member == 0 || open_ (s.team (s.team t).partner))

/-- CTXSTOP: placement of the context's tasks stops, and every resident team of it is pre-empted with an entry of KIND 2 (R422). -/
def execCtxstop (v : Dword) (s : State) : Host.Outcome State Fault Refusal :=
  let c := bitsOf v 0 12
  let ts := (s.teams.filter fun x => x.2.ctx == c && s.stoppable x.1).map fun x => x.1
  let s := if s.stopped.contains c then s else { s with stopped := s.stopped ++ [c] }
  .next (ts.foldl (fun s t => s.modTeam t fun x => { x with status := .saving 2, report := x.stamp 2 {} }) s)

/-- CTXGO: placement resumes, and the teams that the stop saved are placed again (R422). -/
def execCtxgo (v : Dword) (s : State) : Host.Outcome State Fault Refusal :=
  let c := bitsOf v 0 12
  let s := { s with stopped := s.stopped.filter fun x => x != c }
  let ts := (s.teams.filter fun x => x.2.ctx == c && x.2.status == .parked 2).map fun x => x.1
  .next (ts.foldl (fun s t => s.modTeam t fun x => { x with status := .queued }) s)

/-- IMAGE_POOL_WRITE: CIBASE and CILEN are written only while no task is resident or parked (R420). -/
def execImagePoolWrite (off : Nat) (v : Dword) (s : State) : Host.Outcome State Fault Refusal :=
  if off ≠ 0x3000 ∧ off ≠ 0x3008 then .next s
  else if s.teams.any fun x => x.2.status != .absent then .next (s.setBit cistat cisCfgErr)
  else .next (s.setField off 12 40 (bitsOf v 12 40)).notePool

end Sys2Proof.Machine
end

