-- ==== Sys2Proof/Machine/Schedule.lean ====
section
/-!
DEFINITION. Work queues as the host sees them, the command processors, local queues, the start and the end of tasks (16_scheduling
R357 to R377, 06_core_memory R133, 17_determinism R387, R399, 19_reliability R430).
-/

namespace Sys2Proof.Machine

/-! ## Queue registers and posts (R357, R358) -/

/-- QCFG_WRITE: while EN is 1 only a write of EN 0 is accepted; a value that may not be enabled leaves EN at 0. -/
def execQcfgWrite (q : Nat) (v : Dword) (s : State) : Host.Outcome State Fault Refusal :=
  if 16384 ≤ q then .next s
  else if s.qEn q ∧ v.getLsbD 0 then .next (s.qErr q)
  else
    let bad := bitsOf v 1 4 < 4 ∨ bitsOf v 8 4 = 0
    let v := BitVec.ofNat 64 (bitsOf v 0 25)
    .next (s.setReg (qcfg q) (if bad then v &&& ~~~(1 : Dword) else v))

/-- QBASE_WRITE -/
def execQbaseWrite (q : Nat) (v : Dword) (s : State) : Host.Outcome State Fault Refusal :=
  if 16384 ≤ q then .next s
  else if s.qEn q then .next (s.qErr q)
  else .next (s.setField (qbase q) 12 40 (bitsOf v 12 40))

/-- QPOST: a host's post of 64 bytes in one write; any other write, a full queue or a disabled one discards it (R358). -/
def execQpost (q bytes : Nat) (rec_ : BitVec 512) (s : State) : Host.Outcome State Fault Refusal :=
  if 16384 ≤ q then .next s
  else if bytes ≠ 64 then .next (s.qErr q)
  else outcomeOf (s.hostAccess (.post q rec_))

/-! ## Taking and expanding records (R359, R364) -/

/-- Some core on a die of the queue's DIES has room in its local queue. -/
def State.anyRoom (s : State) (q : Nat) : Bool :=
  (List.range 1024).any fun c => (s.qDies q).testBit (dieOf c) && s.localRoom c

/-- The queues that a command processor may take a record from now. -/
def State.takeable (s : State) (q : Nat) : Bool :=
  s.qEn q && s.qServe q && s.qLen q != 0 && s.placing (s.qCtx q) && s.anyRoom q

/-- The queue that a command processor serves next: the highest PRIO, and in turn among equals. Only queues whose QCFG has been
written can be enabled. -/
def State.nextQueue (s : State) (cp : Nat) : Option Nat :=
  let qs := (s.mgmt.filterMap fun e => if 0x200000 ≤ e.1 ∧ e.1 < 0x400000 ∧ e.1 % 128 = 0 then some ((e.1 - 0x200000) / 128) else none).filter
    fun q => q / 1024 == cp && s.takeable q
  let top := qs.foldl (fun m q => max m (s.qPrio q)) 0
  let qs := qs.filter fun q => s.qPrio q == top
  let from_ := SMap.get zeroNat s.lastServed cp
  ((qs.filter fun q => decide (from_ ≤ q)) ++ qs).head?

/-- A taken launch begins to expand; a deterministic one takes a domain, or is held until one is free (17_determinism R387). -/
def beginLaunch (s : State) (q : Nat) (r : TaskRec) (l : Launch) : State :=
  let id := s.nextId
  let run : LaunchRun := { id := id, task := r, blk := l, ctx := s.qCtx q, queue := q, next := 0, ended := 0 }
  let s1 := { s with nextId := id + 1 }
  if !l.det then { s1 with launches := s.launches ++ [run] }
  else if s.domainFree then
    let (d, s2) := s1.newDomain id
    { s2 with launches := s.launches ++ [{ run with domain := d }] }
  else { s1 with launches := s.launches ++ [{ run with held := id }] }

/-- The record at HEAD of queue q is taken by command processor `cp` and checked. -/
def takeRecord (s : State) (cp q : Nat) : Except Fault State :=
  match s.qTake q with
  | .error f => .error f
  | .ok (bs, at_, s) =>
    let s := { s with lastServed := SMap.set zeroNat s.lastServed cp (q + 1) }
    let r := { TaskRec.ofBytes bs with origin := BitVec.ofNat 16 q }
    let ctx := s.qCtx q
    match s.checkRec ctx (some q) r with
    | .error (code, s) => .ok (s.refuseRec (some q) ctx code (BitVec.ofNat 64 at_) r)
    | .ok (l, s) =>
      if r.isLaunch then .ok (beginLaunch s q r l)
      else
        let x : LocalRec := { task := r, ctx := ctx, prio := r.prio, taskp := BitVec.ofNat 64 at_, launch := l }
        .ok { s with deals := s.deals ++ [{ rec_ := x, queue := q }] }

/-- CP_TAKE_RECORD: a command processor takes the record at HEAD of the queue it serves next and checks it (R359, R362). -/
def execCpTakeRecord (cp : Nat) (s : State) : Host.Outcome State Fault Refusal :=
  match s.nextQueue cp with
  | none => .next s
  | some q => taken s (outcomeOf (takeRecord s cp q))

/-- Task i of a launch (R364). -/
def expanded (s : State) (l : LaunchRun) : TaskRec :=
  let (x, y, z) := l.blk.position l.next
  let b := fun (i n : Nat) => flagBit (l.blk.verfl.getLsbD i) n
  let flags := 1 + s.qPrio l.queue * 16 + 3 * 128 + b 4 10 + b 8 11 + b 6 12 + b 7 13
  { entry := l.blk.entry, arg := l.blk.arg, tilex := BitVec.ofNat 32 x, tiley := BitVec.ofNat 32 y, tilez := BitVec.ofNat 32 z
    flags := BitVec.ofNat 32 flags, launch := l.task.launch, origin := BitVec.ofNat 16 l.queue, tag := l.task.tag }

/-- LAUNCH_EXPAND: the next task of launch j is made and waits to be dealt. -/
def execLaunchExpand (j : Nat) (s : State) : Host.Outcome State Fault Refusal :=
  match s.launches[j]? with
  | none => .next s
  | some l =>
    if l.held ≠ 0 ∨ l.blk.teams ≤ l.next ∨ !s.placing l.ctx then .next s
    else
      let r := expanded s l
      let x : LocalRec := { task := r, ctx := l.ctx, prio := r.prio, launch := l.blk, launchId := l.id, domain := l.domain }
      .next { s with launches := s.launches.set j { l with next := l.next + 1 }, deals := s.deals ++ [{ rec_ := x, queue := l.queue }] }

/-! ## Dealing and stealing (R368, R369) -/

/-- The core that a record is dealt to: the first in placement order that has room. -/
def State.dealCore (s : State) (x : DealRec) : Option Nat :=
  let pair := pairRecord x.rec_.task x.rec_.launch
  let order := ((List.range 1024).drop s.dealFrom) ++ (List.range 1024).take s.dealFrom
  order.find? fun c => (s.qDies x.queue).testBit (dieOf c) && s.localRoom c && (!pair || c % 2 == 0)

/-- TASK_DEAL: the oldest record that its command processor has taken or expanded goes to a local queue. -/
def execTaskDeal (j : Nat) (s : State) : Host.Outcome State Fault Refusal :=
  match s.deals[j]? with
  | none => .next s
  | some x =>
    if !s.placing x.rec_.ctx ∨ (s.deals.take j).any (fun y => y.queue / 1024 == x.queue / 1024) then .next s
    else match s.dealCore x with
    | none => .next s
    | some c =>
      let s := s.modCore c fun y => { y with queue := y.queue ++ [x.rec_] }
      .next { s with deals := s.deals.eraseIdx j, dealFrom := (c + 1) % 1024 }

/-- The core can admit the record's team now; a redundant pair needs a core of another cluster as well (R367, 19_reliability R430). -/
def State.admits (s : State) (core : Nat) (r : LocalRec) : Bool :=
  s.placing r.ctx && r.held == 0 && s.canAdmit core r.count r.pair
    && (!r.task.red || (s.otherCluster r.task.origin.toNat core r.count r.pair).isSome)

/-- A thief's record in a victim's queue. -/
def State.stealFrom (s : State) (core victim : Nat) : Option Nat :=
  bestRecord (fun r => s.mayRunOn r (dieOf core) && s.admits core r && (!r.pair || core % 2 == 0)) (s.core victim).queue

/-- The victim: the fullest local queue with such a record in the thief's cluster, else in its die, else in the module; the lower core
among equals. -/
def State.victim (s : State) (core : Nat) : Option Nat :=
  let all := (s.cores.map fun x => x.1).filter fun c => c != core && (s.stealFrom core c).isSome
  let pick := fun (cs : List Nat) => cs.foldl (fun best c => match best with
    | none => some c
    | some b => if (s.core b).queue.length < (s.core c).queue.length then some c else some b) none
  ((pick (all.filter fun c => clusterOf c == clusterOf core)) <|> (pick (all.filter fun c => dieOf c == dieOf core))) <|> pick all

/-- CORE_STEAL: a core whose local queue is empty takes a record (R369). -/
def execCoreSteal (core : Nat) (s : State) : Host.Outcome State Fault Refusal :=
  if 1024 ≤ core ∨ !(s.core core).queue.isEmpty then .next s
  else match s.victim core with
  | none => .next s
  | some v =>
    match s.stealFrom core v with
    | none => .next s
    | some j =>
      match (s.core v).queue[j]? with
      | none => .next s
      | some r =>
        let s := s.modCore v fun y => { y with queue := y.queue.eraseIdx j }
        .next (countSteal (s.modCore core fun y => { y with queue := y.queue ++ [r] }) core)

/-! ## Task start (R367, 02_threads R35, R39, 09_registers_history R198, R199, 06_core_memory R133) -/

/-- The length of a team's image. -/
def LocalRec.imageLen (r : LocalRec) (det : Bool) : Nat :=
  let regions := (r.launch.weftRoles r.task.topRole).map fun x => up4k (0x400 + r.launch.width * roleAlloc x.2 * 4)
  (imageMapOf 0 r.count (if r.pair then 2 else 1) r.launch.histb.toNat r.launch.scr.toNat det regions).stop

/-- A weft at the start of its task: every register zero, FMODE from the launch block with DET, and its history area in the image. -/
def startWeft (r : LocalRec) (m : ImageMap) (i : Nat) (role : Nat × Dword) : Weft :=
  let base := BitVec.ofNat 64 (m.hist + m.histb * i)
  let bytes := r.launch.histb.toNat
  let h : Hist := { a0 := base, bytes := bytes, hsp := base, hbase := base, hlim := base + BitVec.ofNat 64 bytes, on := r.task.hist, mhist := r.task.mhist }
  let g : Regs := { alloc := roleAlloc role.2, fmode := withBits r.launch.fmode 17 1 r.task.det.toNat }
  let f : Flow := { pc := r.task.entry, active := fullMask r.launch.width, entry := .xfer }
  { status := .live, width := r.launch.width, role := role.1, prio := rolePrio role.2, flow := f, regs := g, hist := h
    sched := { uncommitted := r.task.opt } }

/-- The scratchpad page table at the start of a task. -/
def startSpt (backb size : Nat) : SMap Dword :=
  (List.range (size / 2048)).map fun P => (P, BitVec.ofNat 64 (9 + backb + 2048 * P))

/-- A team made resident on a core with its image at `base`, where its page table is written at SPTB. -/
def placeTeam (s : State) (t core base : Nat) (r : LocalRec) (domain member partner : Nat) : Except Fault State :=
  let roles := r.launch.weftRoles r.task.topRole
  let len := r.imageLen (domain != 0)
  let x : Team :=
    { status := .resident, task := r.task, launch := r.launch, taskp := r.taskp, sig := r.launch.sig r.task.det, ctx := r.ctx
      teamIx := r.launch.teamIx r.task, nwefts := r.count, pair := r.pair, core := core, lastCore := core, image := base
      imageLen := len, size := r.launch.scr.toNat, member := member, partner := partner, launchId := r.launchId, domain := domain }
  let regions := roles.map fun y => up4k (0x400 + r.launch.width * roleAlloc y.2 * 4)
  let m := imageMapOf base r.count x.cores r.launch.histb.toNat x.size (domain != 0) regions
  let spt := startSpt m.backb x.size
  let table := (List.range (x.size / 2048)).flatMap fun P => dw (SMap.get zeroD spt P)
  if !s.exists m.sptb table.length then .error (.noMemory m.sptb)
  else
    let s := ((s.setTeam t { x with spt := spt }).poolTake base len).homeWrite m.sptb table
    .ok (((List.range roles.length).zip roles).foldl (fun s y => s.setWeft (16 * t + y.1) (startWeft r m y.1 y.2)) s)

/-- The first team slot at or above `n` that is free. -/
def State.freeTeam (s : State) (n : Nat) : Nat :=
  ((List.range (s.teams.length + 1)).find? fun i => (s.team (n + i)).status == .absent).map (fun i => n + i) |>.getD (n + s.teams.length)

/-- A record that would form a domain of its own while none is free is held in its local queue (17_determinism R387). -/
def State.needsDomain (s : State) (r : LocalRec) : Bool := r.task.det && r.launchId == 0 && r.domain == 0 && !s.domainFree

/-- The team, or both members of a redundant pair, started from a record; none while the image pool lacks room. -/
def startTask (s : State) (core : Nat) (r : LocalRec) : Except Fault (Option State) :=
  let own := r.task.det && r.launchId == 0 && r.domain == 0
  let (d, s) := if own then s.newDomain 0 else (r.domain, s)
  let len := r.imageLen (d != 0)
  let t := s.freeTeam 0
  match s.poolPlace len with
  | none => .ok none
  | some base =>
    let note := fun (s : State) => if r.launchId = 0 then s.modDomain d fun x => { x with team := t } else s
    if !r.task.red then (placeTeam s t core base r d 0 0).map fun s => some (note s)
    else match s.otherCluster r.task.origin.toNat core r.count r.pair with
    | none => .ok none
    | some c =>
      let u := s.freeTeam (t + 1)
      match placeTeam s t core base r d 1 u with
      | .error f => .error f
      | .ok s => match s.poolPlace len with
        | none => .ok none
        | some base' => (placeTeam s u c base' r d 2 t).map fun s => some (note s)

/-- TASK_START: the core starts the record of the highest PRIO that it can admit, the oldest among equals (R367). -/
def execTaskStart (core : Nat) (s : State) : Host.Outcome State Fault Refusal :=
  let q := (s.core core).queue
  match bestRecord (s.admits core) q with
  | none => .next s
  | some j =>
    match q[j]? with
    | none => .next s
    | some r =>
      if s.needsDomain r then
        let s1 := s.modCore core fun y => { y with queue := q.set j { r with held := s.nextId } }
        .next { s1 with nextId := s.nextId + 1 }
      else match startTask s core r with
      | .error f => .fault f
      | .ok none => .next (s.setBit cistat cisNoRoom)
      | .ok (some s') => taken s (.next ((s'.modCore core fun y => { y with queue := q.eraseIdx j }).setField cistat cisNoRoom 1 0))

/-! ## Task end (R372, R399) -/

/-- Nothing of the team is left to do: every weft has ended, every store, copy and engine operation is done, and no turn is open. -/
def State.teamDone (s : State) (t : Nat) : Bool :=
  (s.team t).status == .resident
    && (s.weftsOf t).all (fun k => let w := s.weft k
        w.status == .ended && w.stores.isEmpty && w.flights.isEmpty && !w.sched.turn && w.seg.closed.isEmpty && w.seg.writes.isEmpty)
    && s.cores.all fun x => (x.2.copies.all fun y => y.k / 16 != t) && x.2.ops.all fun o => o.k / 16 != t

/-- Every unapplied entry of a domain, epoch after epoch. -/
def finalFlush (s : State) (d : Domain) : State :=
  let epochs := (((s.domainEntries d).map fun e => e.epoch).dedup).mergeSort
  epochs.foldl (fun s e => match s.domain? d.id with
    | some d => applyEpoch s d e
    | none => s) s

/-- The end of the last task of a domain. -/
def endDomain (s : State) (id : Nat) : State :=
  match s.domain? id with
  | none => s
  | some d => let s := finalFlush s d
    { s with domains := s.domains.filter fun x => x.id != id }

/-- The unapplied entries of a team that ends before its domain are kept with the domain. -/
def keepEntries (s : State) (t : Nat) : State :=
  let x := s.team t
  (s.modDomain x.domain fun d => { d with entries := d.entries ++ x.datoms }).modTeam t fun x => { x with datoms := [] }

/-- The tasks of launch j have one more ended; with the last one its domain ends, and its join block is decremented. -/
def endOfLaunchTask (s : State) (t : Nat) (remove : State → State) (l : LaunchRun) : Except Fault State :=
  let put := fun (s : State) (f : LaunchRun → List LaunchRun) =>
    { s with launches := s.launches.flatMap fun x => if x.id = l.id then f x else [x] }
  if l.ended + 1 < l.blk.teams then .ok (remove (put (keepEntries s t) fun x => [{ x with ended := x.ended + 1 }]))
  else
    let s := put (remove (endDomain s l.domain)) fun _ => []
    s.joinEnd l.ctx l.task.join l.task

/-- TASK_END: frames and pins are released, the domain's last entries are applied, and join blocks are decremented (R372, R399). -/
def execTaskEnd (team : Nat) (s : State) : Host.Outcome State Fault Refusal :=
  let x := s.team team
  let ts := s.withPartner team
  if !(ts.all s.teamDone) then .next s
  else
    let remove := fun (s : State) => ts.foldl removeTeam s
    let r : Except Fault State := match s.launches.find? fun l => l.id == x.launchId with
      | some l => endOfLaunchTask s (if x.member = 2 then x.partner else team) remove l
      | none => (remove (endDomain s x.domain)).joinEnd x.ctx x.task.join x.task
    taken s (outcomeOf r)

/-! ## Joins that wait (R373) -/

/-- JOIN_APPEND: the oldest append that waits for a queue is made once there is room. -/
def execJoinAppend (j : Nat) (s : State) : Host.Outcome State Fault Refusal :=
  match s.joins[j]? with
  | none => .next s
  | some x =>
    let rest := { s with joins := s.joins.eraseIdx j }
    if (s.joins.take j).any fun y => y.queue == x.queue then .next s
    else if !s.qUsable x.queue x.ctx then .next (rest.refuseRec (some x.queue) x.ctx 11 x.report.record x.task)
    else if s.qFull x.queue then .next s
    else taken s (outcomeOf (rest.qAppend x.queue x.task.toBytes))

/-- JOIN_APPEND_TIMEOUT: the queue is still full 4,200,000 clocks after the decrement: code 11. -/
def execJoinAppendTimeout (j : Nat) (s : State) : Host.Outcome State Fault Refusal :=
  match s.joins[j]? with
  | none => .next s
  | some x =>
    if !s.qFull x.queue then .next s
    else .next ({ s with joins := s.joins.eraseIdx j }.refuseRec (some x.queue) x.ctx 11 x.report.record x.task)

end Sys2Proof.Machine
end

