-- ==== Sys2Proof/Machine/Pairs.lean ====
section
/-!
DEFINITION. Redundant pairs and the recovery of clusters (19_reliability R430 to R439): the comparison and release of segments,
mismatches, cluster rebuild and the watchdog tree.
-/

namespace Sys2Proof.Machine

/-! ## Comparison and release (R432, R460) -/

/-- The leading and the trailing weft of a pair. -/
def State.pairOf (s : State) (k : Nat) : Nat × Nat := if s.member k = 2 then (s.partner k, k) else (k, s.partner k)

/-- What is compared of a segment: its signature with the contribution of its boundary, its last IC and the kind of boundary. -/
def ClosedSeg.shape (x : ClosedSeg) : Word × Dword × Nat := (crc32c ((inOrder x.writes).flatMap SegWrite.bytes ++ x.contrib), x.stop, x.kind)

/-- The store-queue entries of released writes, one for each instruction. -/
def releasedStores (ws : List SegWrite) : List StoreEntry :=
  (ws.map fun x => x.seq).dedup.map fun q =>
    let mine := ws.filter fun x => x.seq == q
    let first := mine.headD { ic := 0, va := 0, size := 0, data := [] }
    { seq := q, pc := first.pc, ic := first.ic, flag := none, hdrs := first.hdrs, pieces := mine.flatMap fun x => x.pieces }

/-- The DATOM entries among released writes. -/
def State.releasedDatoms (s : State) (k : Nat) (ws : List SegWrite) : List DEntry :=
  ws.filterMap fun x => x.datom.map fun d => s.datomEntry k d.1 x.seq x.pa d.2 x.ic (leDword x.data)

/-- A member buffers the DATOM entries of a segment that has matched; those of the leading member are the ones that a flush point applies
(17_determinism R398). -/
def State.bufferDatoms (s : State) (k : Nat) (ws : List SegWrite) : State :=
  let es := s.releasedDatoms k (inOrder ws)
  s.modTeam (teamOf k) fun t => { t with datoms := t.datoms ++ es }

/-- The weft goes on past its oldest closed segment: a held boundary instruction runs. -/
def Weft.passSeg (w : Weft) (kind : Nat) (kept : List SegWrite) : Weft :=
  let held := decide (2 ≤ kind)
  let g : Segment := { w.seg with closed := w.seg.closed.drop 1, retries := 0, softs := 0, passed := w.seg.passed || held, kept := w.seg.kept ++ kept }
  { w with seg := g, hold := if held then none else w.hold }

/-- A match: the leading member's writes enter its store queue, the DATOM entries of each the buffers, and the trailing member keeps its
copies until those writes have reached their order points. -/
def releaseSegment (s : State) (lead trail : Nat) (a b : ClosedSeg) : State :=
  let ws := inOrder a.writes
  let stores := releasedStores (ws.filter fun x => x.datom.isNone)
  let pending := !((s.weft lead).stores.isEmpty && stores.isEmpty)
  let s := s.bufferDatoms trail b.writes
  let s := (s.bufferDatoms lead ws).modWeft lead fun w => { (w.passSeg a.kind []) with stores := w.stores ++ stores }
  s.modWeft trail fun w =>
    let w := if pending then w else { w with seg := { w.seg with kept := [] } }
    w.passSeg b.kind (if pending then inOrder b.writes else [])

/-! ## Mismatch (R433) -/

/-- The address of the first write whose contribution differs; 0 when the segments differ in length or in their boundary. -/
def firstDiff (a b : ClosedSeg) : Dword :=
  let x := inOrder a.writes
  let y := inOrder b.writes
  if x.length ≠ y.length ∨ a.stop ≠ b.stop ∨ a.kind ≠ b.kind then 0
  else (((x.zip y).find? fun p => p.1.bytes != p.2.bytes).map fun p => p.1.va).getD 0

/-- Both members park with PAIRMIS; the leading member's team writes the entry. -/
def parkPair (s : State) (k : Nat) (start addr : Dword) (cause2 : Nat) (stuck : Bool) : State :=
  let (a, b) := s.pairOf k
  let clear := fun (w : Weft) =>
    let w := w.dropSegments start
    { w with seg := { w.seg with walk := none, mis := none, retries := 0 }, flow := { w.flow with dir := false } }
  let s := (s.modWeft a clear).modWeft b clear
  let s := if stuck then [teamOf a, teamOf b].foldl (fun s t => s.modTeam t fun x => { x with noWayBack := true }) s else s
  parkTeam s (teamOf a) 1 { cause := Cause.pairmis.code, cause2 := cause2, taddr := addr, tpc := (s.weft a).flow.pc, tic := start
                            weft := indexOf a }

/-- Why a weft cannot walk back to an IC: it records no history, or its floor lies above. -/
def State.noWay (s : State) (k : Nat) (start : Dword) : Option Nat :=
  let w := s.weft k
  if start = w.flow.ic then none
  else if !w.hist.on then (if (s.walkFloor k).toNat ≤ start.toNat then none else some 0)
  else if start.toNat < (s.walkFloor k).toNat then some Cause.irrev.code
  else none

/-- Both partners walk back to the start of the segment, which is a retry of it; after a second mismatch they park there (R433, R441). -/
def mismatch (s : State) (lead trail : Nat) (a b : ClosedSeg) : State :=
  let start := a.start
  let addr := firstDiff a b
  let second := 1 ≤ (s.weft lead).seg.retries
  match (s.noWay lead start) <|> (s.noWay trail start) with
  | some c2 => parkPair s lead start addr c2 true
  | none =>
    let s := if second then s else s.countSat 0xA018 16
    let note := Segment.mismatched addr second
    walkBack (walkBack s lead start note) trail start note

/-- SEGMENT_COMPARE: both partners have ended their oldest unmatched segment (R432, R433). -/
def execSegmentCompare (k : Nat) (s : State) : Host.Outcome State Fault Refusal :=
  if s.member k = 0 then .next s
  else
    let (lead, trail) := s.pairOf k
    if (s.teamOfWeft lead).status ≠ .resident ∨ (s.teamOfWeft trail).status ≠ .resident then .next s
    else match (s.weft lead).seg.closed, (s.weft trail).seg.closed with
    | a :: _, b :: _ => .next (if a.shape = b.shape then releaseSegment s lead trail a b else mismatch s lead trail a b)
    | _, _ => .next s

/-! ## Rebuild and watchdogs (R437, R438) -/

/-- The teams whose wefts stand on a cluster. -/
def State.clusterTeams (s : State) (cl : Nat) : List Nat :=
  (s.teams.filter fun x => x.2.status.onCore && clusterOf x.2.core == cl).map fun x => x.1

/-- A cluster stops issue and rebuilds: every resident team is saved. A second illegal state during the rebuild is fatal. -/
def rebuild (s : State) (cl : Nat) : State :=
  if 128 ≤ cl then s
  else if (s.cluster cl).rebuilding then s.goViral 6 (4096 * cl)
  else
    let s := (s.modCluster cl fun c => { c with rebuilding := true }).countSat 0xA018 0
    (s.clusterTeams cl).foldl preemptTeam s

/-- CLUSTER_REBUILD (R437) -/
def execClusterRebuild (cluster : Nat) (s : State) : Host.Outcome State Fault Refusal := .next (rebuild s cluster)

/-- REBUILD_COMPLETE: the cluster's teams have been saved, its state machines are reset, and its local queues stand again. -/
def execRebuildComplete (cluster : Nat) (s : State) : Host.Outcome State Fault Refusal :=
  if !(s.cluster cluster).rebuilding ∨ !(s.clusterTeams cluster).isEmpty then .next s
  else .next (s.modCluster cluster fun c => { c with rebuilding := false })

/-- WATCHDOG_WEFT: a ready weft of the active set has not issued in time: its cluster rebuilds. -/
def execWatchdogWeft (k : Nat) (s : State) : Host.Outcome State Fault Refusal :=
  if s.readyWeft k && (s.weft k).sched.inActive then .next (rebuild s (clusterOf (s.coreOf k))) else .next s

/-- The command processor of a cluster's die that watches it: the clusters of a die are shared among its four. -/
def cmdpOf (cl : Nat) : Nat := cl / 32 * 4 + cl % 4

/-- A command processor is reset and reloads its queue state from the rings, which changes nothing that programs see; a second
failure makes the module viral. Its turn among its queues starts again at the lowest. -/
def resetCmdp (s : State) (cp : Nat) : State :=
  if s.cmdpFailed.contains cp then s.goViral 7 (4096 * cp)
  else { s with cmdpFailed := s.cmdpFailed ++ [cp], lastServed := SMap.set zeroNat s.lastServed cp 0 }

/-- WATCHDOG_CLUSTER: no heartbeat of the cluster: it rebuilds, and while a rebuild has not brought the heartbeat back the command
processor's level acts. -/
def execWatchdogCluster (cluster : Nat) (s : State) : Host.Outcome State Fault Refusal :=
  if 128 ≤ cluster then .next s
  else if (s.cluster cluster).rebuilding then .next (resetCmdp s (cmdpOf cluster))
  else .next (rebuild s cluster)

/-- WATCHDOG_CMDP: no heartbeat of a command processor. -/
def execWatchdogCmdp (cp : Nat) (s : State) : Host.Outcome State Fault Refusal := if 16 ≤ cp then .next s else .next (resetCmdp s cp)

/-- WATCHDOG_HANG: a resident weft has retired nothing for WDCFG.HANG × 2^20 clocks: its team parks. -/
def execWatchdogHang (k : Nat) (s : State) : Host.Outcome State Fault Refusal :=
  if s.field 0xA000 24 8 = 0 ∨ (s.weft k).status ≠ .live ∨ (s.teamOfWeft k).status ≠ .resident then .next s
  else .next (parkCause s k .watchdog 0)

end Sys2Proof.Machine
end

