-- ==== Sys2Proof/Machine/Integer.lean ====
section
/-!
DEFINITION. The integer groups: opcodes 0x01 to 0x06, 0x08 to 0x13 and 0x18 to 0x1A (11_integer_lane R253 to R268).
-/

namespace Sys2Proof.Machine

/-! ## Results -/

/-- Shifts by the whole unsigned count (R253). -/
def shl32 (a b : Word) : Word := a <<< b.toNat
def shr32 (a b : Word) : Word := a >>> b.toNat
def sar32 (a b : Word) : Word := a.sshiftRight (min b.toNat 31)
def rol32 (a b : Word) : Word := a.rotateLeft (b.toNat % 32)
def ror32 (a b : Word) : Word := a.rotateRight (b.toNat % 32)

def minI32 (a b : Word) : Word := if a.toInt ≤ b.toInt then a else b
def maxI32 (a b : Word) : Word := if a.toInt ≤ b.toInt then b else a
def minN32 (a b : Word) : Word := if a.toNat ≤ b.toNat then a else b
def maxN32 (a b : Word) : Word := if a.toNat ≤ b.toNat then b else a
def adif32 (a b : Word) : Word := maxN32 a b - minN32 a b

def mulhI32 (a b : Word) : Word := BitVec.ofInt 32 (a.toInt * b.toInt / 2 ^ 32)
def mulhN32 (a b : Word) : Word := BitVec.ofNat 32 (a.toNat * b.toNat / 2 ^ 32)

/-- Division truncates toward zero; a zero divisor gives all ones, and the most negative number by −1 wraps (R254). -/
def divI32 (a b : Word) : Word := if b = 0 then 0xFFFFFFFF else BitVec.ofInt 32 (a.toInt.tdiv b.toInt)
def divN32 (a b : Word) : Word := if b = 0 then 0xFFFFFFFF else BitVec.ofNat 32 (a.toNat / b.toNat)
def remI32 (a b : Word) : Word := if b = 0 then a else BitVec.ofInt 32 (a.toInt.tmod b.toInt)
def remN32 (a b : Word) : Word := if b = 0 then a else BitVec.ofNat 32 (a.toNat % b.toNat)

/-- The exact result of operands read signed or unsigned, clamped to i32 or n32 when sat is set (R255). -/
def satArith (p : Option Prefix) (f : Int → Int → Int → Int) : LaneFn := fun x =>
  if prefixSat p then
    if (prefixExt p).getLsbD 0 then
      ret32 (BitVec.ofInt 32 (clampI 0 (2 ^ 32 - 1) (f (w32 x.a).toNat (w32 x.b).toNat (w32 x.c).toNat)))
    else
      ret32 (BitVec.ofInt 32 (clampI (-2 ^ 31) (2 ^ 31 - 1) (f (w32 x.a).toInt (w32 x.b).toInt (w32 x.c).toInt)))
  else ret32 (BitVec.ofInt 32 (f (w32 x.a).toInt (w32 x.b).toInt (w32 x.c).toInt))

/-- The inverse of an odd word modulo 2^32, by Newton's iteration (R257). -/
def inv32 (a : Word) : Word :=
  let step := fun (x : Word) => x * (2 - a * x)
  step (step (step (step (step a))))

def clz32 (a : Word) : Word := BitVec.ofNat 32 (((List.range 32).find? fun i => a.getLsbD (31 - i)).getD 32)
def brev32 (a : Word) : Word := a.reverse

/-- BFX: p = b[4:0], n = min(b[13:8], 32) (R261). -/
def bfx32 (a b : Word) : Word := BitVec.ofNat 32 ((a.toNat >>> bitsOf b 0 5) % 2 ^ (min (bitsOf b 8 6) 32))

/-- The conditions of CMP (R262). -/
def cmpCond (fn : Nat) (a b : Word) : Bool :=
  match fn with
  | 0 => a == b
  | 1 => a != b
  | 2 => a.slt b
  | 3 => a.sle b
  | 4 => a.ult b
  | 5 => a.ule b
  | _ => a &&& b != 0

def shl64 (a : Dword) (b : Word) : Dword := a <<< b.toNat
def shr64 (a : Dword) (b : Word) : Dword := a >>> b.toNat
def sar64 (a : Dword) (b : Word) : Dword := a.sshiftRight (min b.toNat 63)
def mulhI64 (a b : Dword) : Dword := BitVec.ofInt 64 (a.toInt * b.toInt / 2 ^ 64)
def mulhN64 (a b : Dword) : Dword := BitVec.ofNat 64 (a.toNat * b.toNat / 2 ^ 64)

/-- LEA: a + x × 2^k, with k and the extension of x from ext (R267). -/
def leaVal (ext : Byte) (a : Dword) (b : Word) : Dword :=
  let x : Dword := if ext.getLsbD 3 then b.setWidth 64 else b.signExtend 64
  a + x <<< bitsOf ext 0 3

/-! ## The in-place functions and their inverses (R257, R258) -/

/-- Opcode 0x04, forward and backward, by function code. MULX by an even value faults the lane. -/
def inplace (fn : Nat) (back : Bool) : LaneFn := fun x =>
  let d := w32 x.d
  let a := w32 x.a
  match fn with
  | 0 => ret32 (if back then d - a else d + a)
  | 1 => ret32 (if back then d + a else d - a)
  | 2 => ret32 (d ^^^ a)
  | 3 => ret32 (if back then ror32 d a else rol32 d a)
  | 4 => ret32 (if back then rol32 d a else ror32 d a)
  | 5 => ret32 (-d)
  | 6 => ret32 (~~~d)
  | _ => if a.getLsbD 0 then ret32 (if back then d * inv32 a else d * a) else { fault := some .noninv }

/-- ADDXI and XORXI. -/
def inplaceImm (op : Nat) (back : Bool) (imm : Int) : LaneFn := fun x =>
  let d := w32 x.d
  let v := BitVec.ofInt 32 imm
  if op = 0x10 then ret32 (if back then d - v else d + v) else ret32 (d ^^^ v)

/-- ADDX.i64, SUBX.i64 and XORX.i64 (R266). -/
def inplace64 (fn : Nat) (back : Bool) : LaneFn := fun x =>
  let d := w64 x.d
  let a := w64 x.a
  match fn with
  | 3 => ret64 (if back then d - a else d + a)
  | 4 => ret64 (if back then d + a else d - a)
  | _ => ret64 (d ^^^ a)

/-- The exchange of d and a in the lanes of ACTIVE; its own inverse (R259, R266). -/
def swapWeft (c : Ctx) (w : Weft) : Weft :=
  (c.computing w).foldl (fun acc L =>
    let ws := splitWords c.i.dk.words (c.valA w L)
    let wd := splitWords c.i.dk.words (c.valD w L)
    if c.i.u then { acc with regs := (acc.regs.setWordsS c.i.d.toNat ws).setWordsS c.i.a.toNat wd }
    else { acc with regs := (acc.regs.setWordsV (physReg w.regs c.i.d.toNat) L ws).setWordsV (physReg w.regs c.i.a.toNat) L wd }) w

def swapEffect (c : Ctx) (s : State) : Except Stop Eff := .ok { s := s.modWeft c.k (swapWeft c) }

/-! ## Opcode 0x01 -/

def a32 (op : Nat) (fn : Nat) (p : Option Prefix) (u : Bool) (d a b : Reg) : Info := formA p op fn u d a b

/-- ADD (R253, R255) -/
def execAdd (p : Option Prefix) (u : Bool) (d a b : Reg) (s : State) : Host.Outcome State Fault Refusal :=
  issueAlu (a32 0x01 0 p u d a b) (satArith p fun x y _ => x + y) s
/-- SUB (R253, R255) -/
def execSub (p : Option Prefix) (u : Bool) (d a b : Reg) (s : State) : Host.Outcome State Fault Refusal :=
  issueAlu (a32 0x01 1 p u d a b) (satArith p fun x y _ => x - y) s
/-- AND (R253) -/
def execAnd (p : Option Prefix) (u : Bool) (d a b : Reg) (s : State) : Host.Outcome State Fault Refusal :=
  issueAlu (a32 0x01 2 p u d a b) (fn2 fun x y => x &&& y) s
/-- OR (R253) -/
def execOr (p : Option Prefix) (u : Bool) (d a b : Reg) (s : State) : Host.Outcome State Fault Refusal :=
  issueAlu (a32 0x01 3 p u d a b) (fn2 fun x y => x ||| y) s
/-- XOR (R253) -/
def execXor (p : Option Prefix) (u : Bool) (d a b : Reg) (s : State) : Host.Outcome State Fault Refusal :=
  issueAlu (a32 0x01 4 p u d a b) (fn2 fun x y => x ^^^ y) s
/-- ANDN (R253) -/
def execAndn (p : Option Prefix) (u : Bool) (d a b : Reg) (s : State) : Host.Outcome State Fault Refusal :=
  issueAlu (a32 0x01 5 p u d a b) (fn2 fun x y => x &&& ~~~y) s
/-- MIN.i (R253) -/
def execMinI (p : Option Prefix) (u : Bool) (d a b : Reg) (s : State) : Host.Outcome State Fault Refusal :=
  issueAlu (a32 0x01 6 p u d a b) (fn2 minI32) s
/-- MAX.i (R253) -/
def execMaxI (p : Option Prefix) (u : Bool) (d a b : Reg) (s : State) : Host.Outcome State Fault Refusal :=
  issueAlu (a32 0x01 7 p u d a b) (fn2 maxI32) s

/-! ## Opcode 0x02 -/

/-- SHL (R253) -/
def execShl (p : Option Prefix) (u : Bool) (d a b : Reg) (s : State) : Host.Outcome State Fault Refusal :=
  issueAlu (a32 0x02 0 p u d a b) (fn2 shl32) s
/-- SHR (R253) -/
def execShr (p : Option Prefix) (u : Bool) (d a b : Reg) (s : State) : Host.Outcome State Fault Refusal :=
  issueAlu (a32 0x02 1 p u d a b) (fn2 shr32) s
/-- SAR (R253) -/
def execSar (p : Option Prefix) (u : Bool) (d a b : Reg) (s : State) : Host.Outcome State Fault Refusal :=
  issueAlu (a32 0x02 2 p u d a b) (fn2 sar32) s
/-- ROL (R253) -/
def execRol (p : Option Prefix) (u : Bool) (d a b : Reg) (s : State) : Host.Outcome State Fault Refusal :=
  issueAlu (a32 0x02 3 p u d a b) (fn2 rol32) s
/-- ROR (R253) -/
def execRor (p : Option Prefix) (u : Bool) (d a b : Reg) (s : State) : Host.Outcome State Fault Refusal :=
  issueAlu (a32 0x02 4 p u d a b) (fn2 ror32) s
/-- MIN.n (R253) -/
def execMinN (p : Option Prefix) (u : Bool) (d a b : Reg) (s : State) : Host.Outcome State Fault Refusal :=
  issueAlu (a32 0x02 5 p u d a b) (fn2 minN32) s
/-- MAX.n (R253) -/
def execMaxN (p : Option Prefix) (u : Bool) (d a b : Reg) (s : State) : Host.Outcome State Fault Refusal :=
  issueAlu (a32 0x02 6 p u d a b) (fn2 maxN32) s
/-- ADIF (R253) -/
def execAdif (p : Option Prefix) (u : Bool) (d a b : Reg) (s : State) : Host.Outcome State Fault Refusal :=
  issueAlu (a32 0x02 7 p u d a b) (fn2 adif32) s

/-! ## Opcode 0x03 -/

/-- MUL (R253, R255) -/
def execMul (p : Option Prefix) (u : Bool) (d a b : Reg) (s : State) : Host.Outcome State Fault Refusal :=
  issueAlu (a32 0x03 0 p u d a b) (satArith p fun x y _ => x * y) s
/-- MULH.i (R253) -/
def execMulhI (p : Option Prefix) (u : Bool) (d a b : Reg) (s : State) : Host.Outcome State Fault Refusal :=
  issueAlu (a32 0x03 1 p u d a b) (fn2 mulhI32) s
/-- MULH.n (R253) -/
def execMulhN (p : Option Prefix) (u : Bool) (d a b : Reg) (s : State) : Host.Outcome State Fault Refusal :=
  issueAlu (a32 0x03 2 p u d a b) (fn2 mulhN32) s
/-- DIV.i (R253, R254) -/
def execDivI (p : Option Prefix) (u : Bool) (d a b : Reg) (s : State) : Host.Outcome State Fault Refusal :=
  issueAlu (a32 0x03 3 p u d a b) (fn2 divI32) s
/-- DIV.n (R253, R254) -/
def execDivN (p : Option Prefix) (u : Bool) (d a b : Reg) (s : State) : Host.Outcome State Fault Refusal :=
  issueAlu (a32 0x03 4 p u d a b) (fn2 divN32) s
/-- REM.i (R253, R254) -/
def execRemI (p : Option Prefix) (u : Bool) (d a b : Reg) (s : State) : Host.Outcome State Fault Refusal :=
  issueAlu (a32 0x03 5 p u d a b) (fn2 remI32) s
/-- REM.n (R253, R254) -/
def execRemN (p : Option Prefix) (u : Bool) (d a b : Reg) (s : State) : Host.Outcome State Fault Refusal :=
  issueAlu (a32 0x03 6 p u d a b) (fn2 remN32) s
/-- MAD (R253, R255, R256) -/
def execMad (p : Option Prefix) (u : Bool) (d a b : Reg) (s : State) : Host.Outcome State Fault Refusal :=
  issueAlu (a32 0x03 7 p u d a b) (satArith p fun x y z => x * y + z) s

/-! ## Opcode 0x04, the invertible forms -/

/-- ADDX (R257, R258) -/
def execAddx (p : Option Prefix) (u : Bool) (d a : Reg) (s : State) : Host.Outcome State Fault Refusal :=
  issueInv (a32 0x04 0 p u d a 0) (inplace 0 false) s
/-- SUBX (R257, R258) -/
def execSubx (p : Option Prefix) (u : Bool) (d a : Reg) (s : State) : Host.Outcome State Fault Refusal :=
  issueInv (a32 0x04 1 p u d a 0) (inplace 1 false) s
/-- XORX (R257, R258) -/
def execXorx (p : Option Prefix) (u : Bool) (d a : Reg) (s : State) : Host.Outcome State Fault Refusal :=
  issueInv (a32 0x04 2 p u d a 0) (inplace 2 false) s
/-- ROLX (R257, R258) -/
def execRolx (p : Option Prefix) (u : Bool) (d a : Reg) (s : State) : Host.Outcome State Fault Refusal :=
  issueInv (a32 0x04 3 p u d a 0) (inplace 3 false) s
/-- RORX (R257, R258) -/
def execRorx (p : Option Prefix) (u : Bool) (d a : Reg) (s : State) : Host.Outcome State Fault Refusal :=
  issueInv (a32 0x04 4 p u d a 0) (inplace 4 false) s
/-- NEGX (R257) -/
def execNegx (p : Option Prefix) (u : Bool) (d : Reg) (s : State) : Host.Outcome State Fault Refusal :=
  issueInv (a32 0x04 5 p u d 0 0) (inplace 5 false) s
/-- NOTX (R257) -/
def execNotx (p : Option Prefix) (u : Bool) (d : Reg) (s : State) : Host.Outcome State Fault Refusal :=
  issueInv (a32 0x04 6 p u d 0 0) (inplace 6 false) s
/-- MULX (R257, R258) -/
def execMulx (p : Option Prefix) (u : Bool) (d a : Reg) (s : State) : Host.Outcome State Fault Refusal :=
  issueInv (a32 0x04 7 p u d a 0) (inplace 7 false) s

/-! ## Opcode 0x05 -/

/-- SWAP (R259) -/
def execSwap (p : Option Prefix) (u : Bool) (d a : Reg) (s : State) : Host.Outcome State Fault Refusal :=
  issue (a32 0x05 0 p u d a 0) swapEffect s
/-- CSWAP (R259) -/
def execCswap (p : Option Prefix) (u : Bool) (d a : Reg) (s : State) : Host.Outcome State Fault Refusal :=
  issue (a32 0x05 1 p u d a 0) swapEffect s
/-- CLZ (R259) -/
def execClz (p : Option Prefix) (u : Bool) (d a : Reg) (s : State) : Host.Outcome State Fault Refusal :=
  issueAlu (a32 0x05 2 p u d a 0) (fn1 clz32) s
/-- POPC (R259) -/
def execPopc (p : Option Prefix) (u : Bool) (d a : Reg) (s : State) : Host.Outcome State Fault Refusal :=
  issueAlu (a32 0x05 3 p u d a 0) (fn1 fun x => BitVec.ofNat 32 (popCount x)) s
/-- BREV (R259) -/
def execBrev (p : Option Prefix) (u : Bool) (d a : Reg) (s : State) : Host.Outcome State Fault Refusal :=
  issueAlu (a32 0x05 4 p u d a 0) (fn1 brev32) s

/-- SEL's choice: bit L of the condition mask, or for a uniform form whether it meets the active mask (R260). -/
def selFn (u : Bool) (cond active : Mask) : LaneFn := fun x =>
  let t := if u then cond &&& active != 0 else cond.getLsbD x.lane
  ret32 (if t then w32 x.a else w32 x.b)

/-- SEL (R260) -/
def execSel (p : Option Prefix) (u : Bool) (d a b : Reg) (s : State) : Host.Outcome State Fault Refusal :=
  let w := s.weft s.cur
  issueAlu (a32 0x05 5 p u d a b) (selFn u (w.maskReg (prefixC p).toNat) w.flow.active) s
/-- MOV (R259) -/
def execMov (p : Option Prefix) (u : Bool) (d a : Reg) (s : State) : Host.Outcome State Fault Refusal :=
  issueAlu (a32 0x05 6 p u d a 0) (fn1 fun x => x) s
/-- BFX (R261) -/
def execBfx (p : Option Prefix) (u : Bool) (d a b : Reg) (s : State) : Host.Outcome State Fault Refusal :=
  issueAlu (a32 0x05 7 p u d a b) (fn2 bfx32) s

/-! ## Opcode 0x06 -/

def cmpFn (fn : Nat) : LaneFn := fun x => retBool (cmpCond fn (w32 x.a) (w32 x.b))
def cmpForm (fn : Nat) (p : Option Prefix) (u : Bool) (d : BitVec 3) (a b : Reg) : Info := a32 0x06 fn p u (d.setWidth 7) a b

/-- CMP.EQ (R262) -/
def execCmpEq (p : Option Prefix) (u : Bool) (d : BitVec 3) (a b : Reg) (s : State) : Host.Outcome State Fault Refusal :=
  issueCmp (cmpForm 0 p u d a b) (cmpFn 0) s
/-- CMP.NE (R262) -/
def execCmpNe (p : Option Prefix) (u : Bool) (d : BitVec 3) (a b : Reg) (s : State) : Host.Outcome State Fault Refusal :=
  issueCmp (cmpForm 1 p u d a b) (cmpFn 1) s
/-- CMP.LT.i (R262) -/
def execCmpLtI (p : Option Prefix) (u : Bool) (d : BitVec 3) (a b : Reg) (s : State) : Host.Outcome State Fault Refusal :=
  issueCmp (cmpForm 2 p u d a b) (cmpFn 2) s
/-- CMP.LE.i (R262) -/
def execCmpLeI (p : Option Prefix) (u : Bool) (d : BitVec 3) (a b : Reg) (s : State) : Host.Outcome State Fault Refusal :=
  issueCmp (cmpForm 3 p u d a b) (cmpFn 3) s
/-- CMP.LT.n (R262) -/
def execCmpLtN (p : Option Prefix) (u : Bool) (d : BitVec 3) (a b : Reg) (s : State) : Host.Outcome State Fault Refusal :=
  issueCmp (cmpForm 4 p u d a b) (cmpFn 4) s
/-- CMP.LE.n (R262) -/
def execCmpLeN (p : Option Prefix) (u : Bool) (d : BitVec 3) (a b : Reg) (s : State) : Host.Outcome State Fault Refusal :=
  issueCmp (cmpForm 5 p u d a b) (cmpFn 5) s
/-- CMP.TST (R262) -/
def execCmpTst (p : Option Prefix) (u : Bool) (d : BitVec 3) (a b : Reg) (s : State) : Host.Outcome State Fault Refusal :=
  issueCmp (cmpForm 6 p u d a b) (cmpFn 6) s

/-! ## Opcodes 0x08 to 0x13: immediates (R263, R264) -/

def i32Form (op : BitVec 7) (p : Option Prefix) (u : Bool) (d a : Reg) : Info := formOf p (.fmtI op u d a 0)
def l32Form (op : BitVec 7) (p : Option Prefix) (u : Bool) (d : Reg) : Info := formOf p (.fmtL op u d 0)
/-- A function of a and the immediate. -/
def fnImm (p : Option Prefix) (i : BitVec 10) (f : Word → Word → Word) : LaneFn :=
  fn1 fun x => f x (BitVec.ofInt 32 (immI p i))

/-- ADDI (R263) -/
def execAddi (p : Option Prefix) (u : Bool) (d a : Reg) (i : BitVec 10) (s : State) : Host.Outcome State Fault Refusal :=
  issueAlu (i32Form 0x08 p u d a) (fnImm p i fun x y => x + y) s
/-- ANDI (R263) -/
def execAndi (p : Option Prefix) (u : Bool) (d a : Reg) (i : BitVec 10) (s : State) : Host.Outcome State Fault Refusal :=
  issueAlu (i32Form 0x09 p u d a) (fnImm p i fun x y => x &&& y) s
/-- ORI (R263) -/
def execOri (p : Option Prefix) (u : Bool) (d a : Reg) (i : BitVec 10) (s : State) : Host.Outcome State Fault Refusal :=
  issueAlu (i32Form 0x0A p u d a) (fnImm p i fun x y => x ||| y) s
/-- XORI (R263) -/
def execXori (p : Option Prefix) (u : Bool) (d a : Reg) (i : BitVec 10) (s : State) : Host.Outcome State Fault Refusal :=
  issueAlu (i32Form 0x0B p u d a) (fnImm p i fun x y => x ^^^ y) s
/-- SHLI (R263) -/
def execShli (p : Option Prefix) (u : Bool) (d a : Reg) (i : BitVec 5) (s : State) : Host.Outcome State Fault Refusal :=
  issueAlu (i32Form 0x0C p u d a) (fn1 fun x => shl32 x (i.setWidth 32)) s
/-- SHRI (R263) -/
def execShri (p : Option Prefix) (u : Bool) (d a : Reg) (i : BitVec 5) (s : State) : Host.Outcome State Fault Refusal :=
  issueAlu (i32Form 0x0D p u d a) (fn1 fun x => shr32 x (i.setWidth 32)) s
/-- SARI (R263) -/
def execSari (p : Option Prefix) (u : Bool) (d a : Reg) (i : BitVec 5) (s : State) : Host.Outcome State Fault Refusal :=
  issueAlu (i32Form 0x0E p u d a) (fn1 fun x => sar32 x (i.setWidth 32)) s
/-- ROLI (R263) -/
def execRoli (p : Option Prefix) (u : Bool) (d a : Reg) (i : BitVec 5) (s : State) : Host.Outcome State Fault Refusal :=
  issueAlu (i32Form 0x0F p u d a) (fn1 fun x => rol32 x (i.setWidth 32)) s
/-- ADDXI (R257) -/
def execAddxi (p : Option Prefix) (u : Bool) (d : Reg) (i : BitVec 17) (s : State) : Host.Outcome State Fault Refusal :=
  issueInv (l32Form 0x10 p u d) (inplaceImm 0x10 false (immL p i)) s
/-- XORXI (R257) -/
def execXorxi (p : Option Prefix) (u : Bool) (d : Reg) (i : BitVec 17) (s : State) : Host.Outcome State Fault Refusal :=
  issueInv (l32Form 0x11 p u d) (inplaceImm 0x11 false (immL p i)) s
/-- MOVI (R264) -/
def execMovi (p : Option Prefix) (u : Bool) (d : Reg) (i : BitVec 17) (s : State) : Host.Outcome State Fault Refusal :=
  issueAlu (l32Form 0x12 p u d) (fun _ => ret32 (BitVec.ofInt 32 (immL p i))) s
/-- MOVHI: the high 15 bits; the low 17 are kept (R264) -/
def execMovhi (p : Option Prefix) (u : Bool) (d : Reg) (i : BitVec 15) (s : State) : Host.Outcome State Fault Refusal :=
  issueAlu (l32Form 0x13 p u d) (fun x => ret32 (i ++ (w32 x.d).setWidth 17)) s

/-! ## Opcodes 0x18 to 0x1A: pairs (R265 to R268) -/

/-- ADD.i64 (R265) -/
def execAddI64 (p : Option Prefix) (u : Bool) (d a b : Reg) (s : State) : Host.Outcome State Fault Refusal :=
  issueAlu (a32 0x18 0 p u d a b) (fn2d fun x y => x + y) s
/-- SUB.i64 (R265) -/
def execSubI64 (p : Option Prefix) (u : Bool) (d a b : Reg) (s : State) : Host.Outcome State Fault Refusal :=
  issueAlu (a32 0x18 1 p u d a b) (fn2d fun x y => x - y) s
/-- AND.i64 (R265) -/
def execAndI64 (p : Option Prefix) (u : Bool) (d a b : Reg) (s : State) : Host.Outcome State Fault Refusal :=
  issueAlu (a32 0x18 2 p u d a b) (fn2d fun x y => x &&& y) s
/-- OR.i64 (R265) -/
def execOrI64 (p : Option Prefix) (u : Bool) (d a b : Reg) (s : State) : Host.Outcome State Fault Refusal :=
  issueAlu (a32 0x18 3 p u d a b) (fn2d fun x y => x ||| y) s
/-- XOR.i64 (R265) -/
def execXorI64 (p : Option Prefix) (u : Bool) (d a b : Reg) (s : State) : Host.Outcome State Fault Refusal :=
  issueAlu (a32 0x18 4 p u d a b) (fn2d fun x y => x ^^^ y) s
/-- SHL.i64 (R265) -/
def execShlI64 (p : Option Prefix) (u : Bool) (d a b : Reg) (s : State) : Host.Outcome State Fault Refusal :=
  issueAlu (a32 0x18 5 p u d a b) (fun x => ret64 (shl64 (w64 x.a) (w32 x.b))) s
/-- SHR.i64 (R265) -/
def execShrI64 (p : Option Prefix) (u : Bool) (d a b : Reg) (s : State) : Host.Outcome State Fault Refusal :=
  issueAlu (a32 0x18 6 p u d a b) (fun x => ret64 (shr64 (w64 x.a) (w32 x.b))) s
/-- SAR.i64 (R265) -/
def execSarI64 (p : Option Prefix) (u : Bool) (d a b : Reg) (s : State) : Host.Outcome State Fault Refusal :=
  issueAlu (a32 0x18 7 p u d a b) (fun x => ret64 (sar64 (w64 x.a) (w32 x.b))) s
/-- MUL.i64 (R266) -/
def execMulI64 (p : Option Prefix) (u : Bool) (d a b : Reg) (s : State) : Host.Outcome State Fault Refusal :=
  issueAlu (a32 0x19 0 p u d a b) (fn2d fun x y => x * y) s
/-- MULH.i64 (R266) -/
def execMulhI64 (p : Option Prefix) (u : Bool) (d a b : Reg) (s : State) : Host.Outcome State Fault Refusal :=
  issueAlu (a32 0x19 1 p u d a b) (fn2d mulhI64) s
/-- MULH.n64 (R266) -/
def execMulhN64 (p : Option Prefix) (u : Bool) (d a b : Reg) (s : State) : Host.Outcome State Fault Refusal :=
  issueAlu (a32 0x19 2 p u d a b) (fn2d mulhN64) s
/-- ADDX.i64 (R266) -/
def execAddxI64 (p : Option Prefix) (u : Bool) (d a : Reg) (s : State) : Host.Outcome State Fault Refusal :=
  issueInv (a32 0x19 3 p u d a 0) (inplace64 3 false) s
/-- SUBX.i64 (R266) -/
def execSubxI64 (p : Option Prefix) (u : Bool) (d a : Reg) (s : State) : Host.Outcome State Fault Refusal :=
  issueInv (a32 0x19 4 p u d a 0) (inplace64 4 false) s
/-- XORX.i64 (R266) -/
def execXorxI64 (p : Option Prefix) (u : Bool) (d a : Reg) (s : State) : Host.Outcome State Fault Refusal :=
  issueInv (a32 0x19 5 p u d a 0) (inplace64 5 false) s
/-- SWAP.i64 (R266) -/
def execSwapI64 (p : Option Prefix) (u : Bool) (d a : Reg) (s : State) : Host.Outcome State Fault Refusal :=
  issue (a32 0x19 6 p u d a 0) swapEffect s
/-- LEA (R267) -/
def execLea (p : Option Prefix) (u : Bool) (d a b : Reg) (s : State) : Host.Outcome State Fault Refusal :=
  issueAlu (a32 0x19 7 p u d a b) (fun x => ret64 (leaVal (prefixExt p) (w64 x.a) (w32 x.b))) s
/-- ADDI.i64 (R268) -/
def execAddiI64 (p : Option Prefix) (u : Bool) (d a : Reg) (i : BitVec 10) (s : State) : Host.Outcome State Fault Refusal :=
  issueAlu (i32Form 0x1A p u d a) (fun x => ret64 (w64 x.a + BitVec.ofInt 64 (immI p i))) s

end Sys2Proof.Machine
end

