-- ==== Sys2Proof/Machine/Lane.lean ====
section
/-!
DEFINITION. The lane, vote, reduction and mask-register groups: opcodes 0x20 to 0x23 (11_integer_lane R269 to R274).
-/

namespace Sys2Proof.Machine

/-! ## Source lanes (R269 to R271) -/

/-- k(L): the unsigned value of b in lane L. -/
def Ctx.kOf (c : Ctx) (w : Weft) (L : Nat) : Nat := (w32 (c.valB w L)).toNat

/-- σ(L), by function code. -/
def sigma (fn : Nat) (c : Ctx) (w : Weft) (L : Nat) : Nat :=
  let k := c.kOf w L
  let W := w.width
  match fn with
  | 2 => c.kOf w (lowestLane W c.active) % W
  | 3 => L ^^^ (k % W)
  | 4 => if L < k then L else L - k
  | 5 => if W ≤ L + k then L else L + k
  | 6 => (L + k) % W
  | _ => k % W

/-- A LANE form that reads a of another lane. -/
def pullLanes (fn : Nat) (c : Ctx) (s : State) : Except Stop Eff :=
  let w := s.weft c.k
  let w' := (c.lanes w).foldl (fun acc L => writeD acc c L (c.valA w (sigma fn c w L))) w
  .ok { s := s.setWeft c.k (zeroLanes w' c), recs := destRecs w c }

/-- The winning source of each target of LPUSH, in ascending sources: pairs (target, source). -/
def pushWinners (c : Ctx) (w : Weft) : List (Nat × Nat) :=
  (c.lanes w).foldl (fun acc L =>
    let t := c.kOf w L % w.width
    if c.active.getLsbD t && !(acc.any fun x => x.1 == t) then acc ++ [(t, L)] else acc) []

/-- LPUSH: targets in ACTIVE take the lowest source that names them; the loser mask is reported in the mask that c names
(R271). -/
def pushLanes (c : Ctx) (s : State) : Except Stop Eff :=
  let w := s.weft c.k
  let win := pushWinners c w
  let losers : Mask := c.active &&& ~~~(maskOf (win.map fun x => x.2))
  let cn := (prefixC c.i.p).toNat
  let w' := win.foldl (fun acc x => writeD acc c x.1 (c.valA w x.2)) w
  let w' := zeroLanes w' c
  let old := w.maskReg cn
  let mrec : Rec := { kind := kMask, mask := c.active, payload := plain [lowWord old, highWord old] }
  let recs := destRecs w { c with active := maskOf (win.map fun x => x.1) }
  if cn = 0 then .ok { s := s.setWeft c.k w', recs := recs }
  else .ok { s := s.setWeft c.k (w'.setMaskReg cn ((old &&& ~~~c.active) ||| losers)), recs := recs ++ [mrec] }

/-- σ is a bijection of ACTIVE onto itself. -/
def bijective (c : Ctx) (w : Weft) : Bool :=
  let ts := (c.lanes w).map fun L => c.kOf w L % w.width
  (ts.all fun t => c.active.getLsbD t) && decide ts.Nodup

/-- The exchange forms: LPULL.xch exchanges d(L) with a(σ(L)), LPUSH.xch d(σ(L)) with a(L); each is its own inverse
(R270). -/
def xchWeft (fn : Nat) (c : Ctx) (w : Weft) : Weft :=
  (c.lanes w).foldl (fun acc L =>
    let t := c.kOf w L % w.width
    let dl := if fn = 1 then t else L
    let al := if fn = 1 then L else t
    let acc := writeD acc c dl (c.valA w al)
    { acc with regs := acc.regs.setWordsV (physReg w.regs c.i.a.toNat) al (splitWords 1 (c.valD w dl)) }) w

def xchLanes (fn : Nat) (c : Ctx) (s : State) : Except Stop Eff :=
  let w := s.weft c.k
  if bijective c w then .ok { s := s.setWeft c.k (xchWeft fn c w) }
  else .ok { s := s.setWeft c.k ((c.lanes w).foldl (fun w L => w.laneFault L .noninv 0) w) }

/-! ## Votes, reductions and scans (R272, R273) -/

/-- The lanes of ACTIVE with their values of a, ascending. -/
def Ctx.votes (c : Ctx) (w : Weft) : List (Nat × Word) := (c.lanes w).map fun L => (L, w32 (c.valA w L))

/-- A vote whose result is a whole mask register; bits outside ACTIVE become 0. -/
def voteMask (f : List (Nat × Word) → Nat × Word → Bool) (c : Ctx) (s : State) : Except Stop Eff :=
  let w := s.weft c.k
  let vs := c.votes w
  let m := maskOf ((vs.filter fun x => f vs x).map fun x => x.1)
  .ok { s := s.setWeft c.k (w.setMaskReg c.i.d.toNat m), recs := destRecs w c }

/-- A vote, reduction or scan whose result goes to d in each lane of ACTIVE. -/
def voteReg (f : List (Nat × Word) → Nat × Word → BitVec 128) (c : Ctx) (s : State) : Except Stop Eff :=
  let w := s.weft c.k
  let vs := c.votes w
  let w' := vs.foldl (fun acc x => writeD acc c x.1 (f vs x)) w
  .ok { s := s.setWeft c.k (zeroLanes w' c), recs := destRecs w c }

def below (vs : List (Nat × Word)) (L : Nat) : List (Nat × Word) := vs.filter fun x => decide (x.1 < L)

def sumWords (vs : List (Nat × Word)) : Word := vs.foldl (fun t x => t + x.2) 0

/-- The combination of the lanes of ACTIVE in ascending order. -/
def reduce (f : Word → Word → Word) : List (Nat × Word) → Word
  | [] => 0
  | x :: t => t.foldl (fun r y => f r y.2) x.2

def redReg (f : Word → Word → Word) : Ctx → State → Except Stop Eff :=
  voteReg fun vs _ => (reduce f vs).setWidth 128

/-! ## Mask registers (R274) -/

def maskOp (f : Weft → Mask) (c : Ctx) (s : State) : Except Stop Eff :=
  let w := s.weft c.k
  .ok { s := s.setWeft c.k (w.setMaskReg c.i.d.toNat (f w)), recs := destRecs w c }

def maskNum (f : Mask → Word) (a : BitVec 3) (c : Ctx) (s : State) : Except Stop Eff :=
  let w := s.weft c.k
  .ok { s := s.setWeft c.k (writeD w c 0 ((f (w.maskReg a.toNat)).setWidth 128)), recs := destRecs w c }

def ffs64 (m : Mask) : Word := BitVec.ofNat 32 (((List.range 64).find? fun i => m.getLsbD i).getD 0xFFFFFFFF)

/-! ## Opcode 0x20 -/

/-- LPULL (R269) -/
def execLpull (p : Option Prefix) (d a b : Reg) (s : State) : Host.Outcome State Fault Refusal :=
  issue (formA p 0x20 0 false d a b) (pullLanes 0) s
/-- LPUSH (R271) -/
def execLpush (p : Option Prefix) (d a b : Reg) (s : State) : Host.Outcome State Fault Refusal :=
  issue (formA p 0x20 1 false d a b) pushLanes s
/-- LPULL.xch (R270) -/
def execLpullXch (p : Prefix) (d a b : Reg) (s : State) : Host.Outcome State Fault Refusal :=
  issue (formXch p 0 d a b) (xchLanes 0) s
/-- LPUSH.xch (R270) -/
def execLpushXch (p : Prefix) (d a b : Reg) (s : State) : Host.Outcome State Fault Refusal :=
  issue (formXch p 1 d a b) (xchLanes 1) s
/-- LBCAST (R269) -/
def execLbcast (p : Option Prefix) (d a b : Reg) (s : State) : Host.Outcome State Fault Refusal :=
  issue (formA p 0x20 2 false d a b) (pullLanes 2) s
/-- LXOR (R269) -/
def execLxor (p : Option Prefix) (d a b : Reg) (s : State) : Host.Outcome State Fault Refusal :=
  issue (formA p 0x20 3 false d a b) (pullLanes 3) s
/-- LUP (R269) -/
def execLup (p : Option Prefix) (d a b : Reg) (s : State) : Host.Outcome State Fault Refusal :=
  issue (formA p 0x20 4 false d a b) (pullLanes 4) s
/-- LDOWN (R269) -/
def execLdown (p : Option Prefix) (d a b : Reg) (s : State) : Host.Outcome State Fault Refusal :=
  issue (formA p 0x20 5 false d a b) (pullLanes 5) s
/-- LROT (R269) -/
def execLrot (p : Option Prefix) (d a b : Reg) (s : State) : Host.Outcome State Fault Refusal :=
  issue (formA p 0x20 6 false d a b) (pullLanes 6) s

/-! ## Opcode 0x21 -/

def formV (p : Option Prefix) (fn : Nat) (d a : Reg) : Info := formA p 0x21 fn false d a 0

/-- BALLOT (R272) -/
def execBallot (p : Option Prefix) (d : BitVec 3) (a : Reg) (s : State) : Host.Outcome State Fault Refusal :=
  issue (formV p 0 (d.setWidth 7) a) (voteMask fun _ x => x.2 != 0) s
/-- ANY (R272) -/
def execAny (p : Option Prefix) (d : BitVec 3) (a : Reg) (s : State) : Host.Outcome State Fault Refusal :=
  issue (formV p 1 (d.setWidth 7) a) (voteMask fun vs _ => vs.any fun y => y.2 != 0) s
/-- ALL (R272) -/
def execAll (p : Option Prefix) (d : BitVec 3) (a : Reg) (s : State) : Host.Outcome State Fault Refusal :=
  issue (formV p 2 (d.setWidth 7) a) (voteMask fun vs _ => vs.all fun y => y.2 != 0) s
/-- MATCH (R272) -/
def execMatchLanes (p : Option Prefix) (d a : Reg) (s : State) : Host.Outcome State Fault Refusal :=
  issue (formV p 3 d a)
    (voteReg fun vs x => (maskOf ((vs.filter fun y => y.2 == x.2).map fun y => y.1)).setWidth 128) s
/-- MRANK (R272) -/
def execMrank (p : Option Prefix) (d a : Reg) (s : State) : Host.Outcome State Fault Refusal :=
  issue (formV p 4 d a)
    (voteReg fun vs x => BitVec.ofNat 128 ((below vs x.1).filter fun y => y.2 == x.2).length) s
/-- MLEAD (R272) -/
def execMlead (p : Option Prefix) (d : BitVec 3) (a : Reg) (s : State) : Host.Outcome State Fault Refusal :=
  issue (formV p 5 (d.setWidth 7) a) (voteMask fun vs x => (below vs x.1).all fun y => y.2 != x.2) s
/-- PFXPOP (R272) -/
def execPfxpop (p : Option Prefix) (d a : Reg) (s : State) : Host.Outcome State Fault Refusal :=
  issue (formV p 6 d a)
    (voteReg fun vs x => BitVec.ofNat 128 ((below vs x.1).filter fun y => y.2 != 0).length) s

/-! ## Opcode 0x22 -/

def formR (p : Option Prefix) (fn : Nat) (d a : Reg) : Info := formA p 0x22 fn false d a 0

/-- ext[0] of RMIN and RMAX: unsigned (R273). -/
def unsignedRed (p : Option Prefix) : Bool := (prefixExt p).getLsbD 0

/-- RADD (R273) -/
def execRadd (p : Option Prefix) (d a : Reg) (s : State) : Host.Outcome State Fault Refusal :=
  issue (formR p 0 d a) (redReg fun x y => x + y) s
/-- RMIN (R273) -/
def execRmin (p : Option Prefix) (d a : Reg) (s : State) : Host.Outcome State Fault Refusal :=
  issue (formR p 1 d a) (redReg fun x y =>
    if unsignedRed p then (if x.toNat ≤ y.toNat then x else y) else (if x.toInt ≤ y.toInt then x else y)) s
/-- RMAX (R273) -/
def execRmax (p : Option Prefix) (d a : Reg) (s : State) : Host.Outcome State Fault Refusal :=
  issue (formR p 2 d a) (redReg fun x y =>
    if unsignedRed p then (if x.toNat ≤ y.toNat then y else x) else (if x.toInt ≤ y.toInt then y else x)) s
/-- RAND (R273) -/
def execRand (p : Option Prefix) (d a : Reg) (s : State) : Host.Outcome State Fault Refusal :=
  issue (formR p 3 d a) (redReg fun x y => x &&& y) s
/-- ROR.red (R273) -/
def execRorRed (p : Option Prefix) (d a : Reg) (s : State) : Host.Outcome State Fault Refusal :=
  issue (formR p 4 d a) (redReg fun x y => x ||| y) s
/-- RXOR (R273) -/
def execRxor (p : Option Prefix) (d a : Reg) (s : State) : Host.Outcome State Fault Refusal :=
  issue (formR p 5 d a) (redReg fun x y => x ^^^ y) s
/-- SCANI (R273) -/
def execScani (p : Option Prefix) (d a : Reg) (s : State) : Host.Outcome State Fault Refusal :=
  issue (formR p 6 d a) (voteReg fun vs x => (sumWords (below vs x.1) + x.2).setWidth 128) s
/-- SCANX (R273) -/
def execScanx (p : Option Prefix) (d a : Reg) (s : State) : Host.Outcome State Fault Refusal :=
  issue (formR p 7 d a) (voteReg fun vs x => (sumWords (below vs x.1)).setWidth 128) s

/-! ## Opcode 0x23 -/

def formM (p : Option Prefix) (fn : Nat) (d a b : Reg) : Info := formA p 0x23 fn true d a b

/-- MAND (R274) -/
def execMand (p : Option Prefix) (d a b : BitVec 3) (s : State) : Host.Outcome State Fault Refusal :=
  issue (formM p 0 (d.setWidth 7) (a.setWidth 7) (b.setWidth 7)) (maskOp fun w => w.maskReg a.toNat &&& w.maskReg b.toNat) s
/-- MOR (R274) -/
def execMor (p : Option Prefix) (d a b : BitVec 3) (s : State) : Host.Outcome State Fault Refusal :=
  issue (formM p 1 (d.setWidth 7) (a.setWidth 7) (b.setWidth 7)) (maskOp fun w => w.maskReg a.toNat ||| w.maskReg b.toNat) s
/-- MXOR (R274) -/
def execMxor (p : Option Prefix) (d a b : BitVec 3) (s : State) : Host.Outcome State Fault Refusal :=
  issue (formM p 2 (d.setWidth 7) (a.setWidth 7) (b.setWidth 7)) (maskOp fun w => w.maskReg a.toNat ^^^ w.maskReg b.toNat) s
/-- MNOT (R274) -/
def execMnot (p : Option Prefix) (d a : BitVec 3) (s : State) : Host.Outcome State Fault Refusal :=
  issue (formM p 3 (d.setWidth 7) (a.setWidth 7) 0) (maskOp fun w => ~~~(w.maskReg a.toNat)) s
/-- MMOV (R274) -/
def execMmov (p : Option Prefix) (d a : BitVec 3) (s : State) : Host.Outcome State Fault Refusal :=
  issue (formM p 4 (d.setWidth 7) (a.setWidth 7) 0) (maskOp fun w => w.maskReg a.toNat) s
/-- MPOPC (R274) -/
def execMpopc (p : Option Prefix) (d : Reg) (a : BitVec 3) (s : State) : Host.Outcome State Fault Refusal :=
  issue (formM p 5 d (a.setWidth 7) 0) (maskNum (fun m => BitVec.ofNat 32 (popCount m)) a) s
/-- MFFS (R274) -/
def execMffs (p : Option Prefix) (d : Reg) (a : BitVec 3) (s : State) : Host.Outcome State Fault Refusal :=
  issue (formM p 6 d (a.setWidth 7) 0) (maskNum ffs64 a) s
/-- MSET (R274) -/
def execMset (p : Option Prefix) (d : BitVec 3) (a : Reg) (s : State) : Host.Outcome State Fault Refusal :=
  issue (formM p 7 (d.setWidth 7) a 0) (maskOp fun w => spairOf w a) s

end Sys2Proof.Machine
end

