-- ==== Sys2Proof/Machine/Remote.lean ====
section
/-!
DEFINITION. RATOM and REMOTE (07_memory_instructions R168 to R173), and the completion of what counts on flag A (03_encoding
R56).
-/

namespace Sys2Proof.Machine

/-! ## Ids and tags (R171, R448) -/

/-- The next request id for a peer; an id that a saved request holds is skipped. A saved request lapses once 32,768 later ids
have been assigned (R172). -/
def State.takeId (s : State) (peer : Nat) : Nat × State :=
  let held := fun (i : Nat) => s.fabric.saved.any fun r => r.peer == peer && r.id == i
  let c := SMap.get zeroNat s.fabric.ids peer
  let n := s.fabric.saved.length + 1
  let id := (((List.range n).map fun i => (c + i) % 65536).find? fun i => !held i).getD (c % 65536)
  let count := SMap.get zeroNat s.fabric.assigned peer
  let fab := { s.fabric with ids := SMap.set zeroNat s.fabric.ids peer ((id + 1) % 65536), assigned := SMap.set zeroNat s.fabric.assigned peer (count + 1) }
  let s := { s with fabric := fab }
  (id, { s with fabric := { s.fabric with saved := s.fabric.saved.filter fun r => r.peer != peer || !s.lapsed peer r.at_ } })

def State.takeTag (s : State) (peer : Nat) : Nat × State :=
  let c := SMap.get zeroNat s.fabric.tags peer
  (c, { s with fabric := { s.fabric with tags := SMap.set zeroNat s.fabric.tags peer ((c + 1) % 65536) } })

/-! ## Issue -/

/-- What a remote lane asks for: a load or store of n bytes, an atomic by its flit type, or a saved request again. -/
inductive RemoteOp where
  | rld (n : Nat) | rst (n : Nat) | ratom (typ : Nat) | retry
  deriving DecidableEq, Repr

def RemoteOp.bytes : RemoteOp → Nat
  | .rld n => n
  | .rst n => n
  | _ => 8

def RemoteOp.flight : RemoteOp → FlightOp
  | .rld _ => .rld
  | .rst _ => .rst
  | .ratom t => .ratom t
  | .retry => .retry

/-- One lane's request: what it has been answered with at once, if anything. -/
def askPeer (op : RemoteOp) (k seq L : Nat) (addr : Dword) (d b cc : BitVec 128) (s : State) : LaneAcc × State :=
  let peer := bitsOf addr 48 12
  let l0 : LaneAcc := { lane := L, va := addr, pa := 0 }
  let prot : LaneAcc := { l0 with cause := some .prot }
  let sent := fun (s : State) (link : Nat) (f : Flit) =>
    let f := { f with dst := BitVec.ofNat 16 peer }
    let x : RemoteWait := { link := link, k := k, seq := seq, lane := L, peer := peer, flit := f
                            at_ := SMap.get zeroNat s.fabric.assigned peer - 1 }
    (l0, { s.send link f with fabric := { (s.send link f).fabric with waits := (s.send link f).fabric.waits ++ [x] } })
  let base := { Flit.blank with raddr := addr }
  match op with
  | .retry =>
    let id := bitsOf b 0 16
    match s.fabric.saved.find? fun r => r.peer == peer && r.id == id with
    | none => ({ l0 with val := some (lostValue id 0xFFFFFFFE), cause := some .atomic }, s)
    | some r =>
      match s.linkTo peer with
      | none => (prot, s)
      | some link => sent s link { r.flit with fl := 1 }
  | .ratom t =>
    match s.linkTo peer with
    | none => (prot, s)
    | some link =>
      let (id, s) := s.takeId peer
      sent s link { base with typ := BitVec.ofNat 8 t, id := BitVec.ofNat 16 id, op1 := (b.setWidth 64).setWidth 128
                              op2 := if t = 6 then cc.setWidth 64 else 0 }
  | .rld n =>
    match s.linkTo peer with
    | none => (prot, s)
    | some link =>
      if n = 16 ∧ s.field (plstat link) 4 4 < 2 then (prot, s)
      else
        let (tag, s) := s.takeTag peer
        sent s link { base with typ := if n = 16 then 2 else 1, fl := 2, id := BitVec.ofNat 16 tag }
  | .rst n =>
    match s.linkTo peer with
    | none => (prot, s)
    | some link =>
      if n = 16 ∧ s.field (plstat link) 4 4 < 2 then (prot, s)
      else
        let (tag, s) := s.takeTag peer
        sent s link { base with typ := if n = 16 then 4 else 3, fl := 2, id := BitVec.ofNat 16 tag
                                op1 := if n = 16 then d else (d.setWidth 64).setWidth 128 }

/-- The lanes that one request of a load or store stands for take its answer (R147). -/
def spreadAnswers (f : Flight) : Flight :=
  let known := f.lanes.filter fun l => l.cause.isSome
  { f with lanes := f.lanes.map fun l => (known.find? fun x => f.shares x.lane l).elim l fun x => { l with cause := x.cause } }

/-- What a lane of a remote access names: lane, address, and the registers d, b and c. -/
abbrev RemoteLane := Nat × Dword × BitVec 128 × BitVec 128 × BitVec 128

/-- The requests of the lanes, in ascending order (R170). Of the lanes of a load or store that name one address only the highest
sends one (R147); those of an atomic go out one behind the other, so that nothing of this module comes between (notes/assumptions 120). -/
def askAll (op : RemoteOp) (k seq : Nat) : List RemoteLane → State → List LaneAcc × State
  | [], s => ([], s)
  | (L, a, d, b, cc) :: rest, s =>
    let once := match op with
      | .rld _ => true
      | .rst _ => true
      | _ => false
    let (x, s) := if once && rest.any (fun y => y.2.1 == a) then ({ lane := L, va := a, pa := 0 }, s) else askPeer op k seq L a d b cc s
    let (xs, s) := askAll op k seq rest s
    (x :: xs, s)

def remoteBody (op : RemoteOp) (c : Ctx) (s : State) : Except Stop Eff :=
  let w := s.weft c.k
  let n := op.bytes
  let words := match op with
    | .rst _ => 0
    | _ => c.i.dk.words
  let all := (c.accessLanes w).map fun L => (L, c.addrG w 0 L)
  let bad := all.filter fun x => x.2.toNat % n != 0
  let good := all.filter fun x => x.2.toNat % n == 0
  let (c, s) := faultLanes c s .align bad
  if s.member c.k = 2 then .ok (mirrorLaunch c s true n words (good.map fun x => { lane := x.1, va := x.2, pa := 0 }))
  else
    let w := s.weft c.k
    let (lanes, s) := askAll op c.k w.seq (good.map fun x => (x.1, x.2, c.valD w x.1, c.valB w x.1, c.valC w x.1)) s
    let s := (launch c s op.flight n words false lanes).modWeft c.k fun w' =>
      { w' with flights := w'.flights.map fun f => if f.seq = w.seq ∧ f.op ≠ .func then spreadAnswers f else f }
    .ok { s := settleRst s c.k w.seq, noUndo := true }

def issueRatom (fn : Nat) (op : RemoteOp) (p : Option Prefix) (u : Bool) (d a b : Reg) (s : State) : Host.Outcome State Fault Refusal :=
  issue (formA p 0x4D fn u d a b) (remoteBody op) s

/-- RATOM.ADD64 (R169) -/
def execRatomAdd64 (p : Option Prefix) (u : Bool) (d a b : Reg) (s : State) : Host.Outcome State Fault Refusal :=
  issueRatom 0 (.ratom 5) p u d a b s
/-- RATOM.CAS64 (R169) -/
def execRatomCas64 (p : Option Prefix) (u : Bool) (d a b : Reg) (s : State) : Host.Outcome State Fault Refusal :=
  issueRatom 1 (.ratom 6) p u d a b s
/-- RATOM.XCH64 (R169) -/
def execRatomXch64 (p : Option Prefix) (u : Bool) (d a b : Reg) (s : State) : Host.Outcome State Fault Refusal :=
  issueRatom 2 (.ratom 7) p u d a b s
/-- RATOM.RETRY (R173) -/
def execRatomRetry (p : Option Prefix) (u : Bool) (d a b : Reg) (s : State) : Host.Outcome State Fault Refusal :=
  issueRatom 3 .retry p u d a b s
/-- RLD.b64 (R169) -/
def execRldB64 (p : Option Prefix) (u : Bool) (d a : Reg) (s : State) : Host.Outcome State Fault Refusal :=
  issue (formA p 0x4E 0 u d a 0) (remoteBody (.rld 8)) s
/-- RST.b64 (R169) -/
def execRstB64 (p : Option Prefix) (u : Bool) (d a : Reg) (s : State) : Host.Outcome State Fault Refusal :=
  issue (formA p 0x4E 1 u d a 0) (remoteBody (.rst 8)) s
/-- RLD.b128 (R169) -/
def execRldB128 (p : Option Prefix) (u : Bool) (d a : Reg) (s : State) : Host.Outcome State Fault Refusal :=
  issue (formA p 0x4E 2 u d a 0) (remoteBody (.rld 16)) s
/-- RST.b128 (R169) -/
def execRstB128 (p : Option Prefix) (u : Bool) (d a : Reg) (s : State) : Host.Outcome State Fault Refusal :=
  issue (formA p 0x4E 3 u d a 0) (remoteBody (.rst 16)) s

/-! ## FLAG_A_COMPLETION (R56) -/

def Flight.remote (f : Flight) : Bool :=
  match f.op with
  | .rld => true
  | .ratom _ => true
  | .retry => true
  | _ => false

/-- The access at place `j` of a weft completes, if it may: its values are bound, its destinations written, and its flag counts
down. A uniform instruction that had an empty ACTIVE completes without an effect (02_threads R27). -/
def execFlagACompletion (k j : Nat) (s : State) : Host.Outcome State Fault Refusal :=
  match (s.weft k).flights[j]? with
  | none => .next s
  | some f =>
    if f.op = .func then
      if f.words = 0 ∧ f.lanes = [] then .next (finishFlight s k j f) else .next s
    else if f.remote then
      if f.answered then .next (finishRemote s k j f) else .next s
    else event s (completeLocal s k j f)

end Sys2Proof.Machine
end

