-- ==== Sys2Proof/Machine/Run.lean ====
section
/-!
DEFINITION. The decoder of Decode with the meaning of the instruction in the place of its constructor: the form in which
compiled code runs a word (Decode says why). Machine/Words proves that it is `exec` after `decodeBase`.
-/

namespace Sys2Proof.Machine

/-- What an instruction does. -/
abbrev Meaning := State → Host.Outcome State Fault Refusal

def runA01 (p : Option Prefix) (fn : BitVec 3) (u : Bool) (d a b : Reg) : Except DecodeError Meaning :=
  match fn.toNat with
  | 0 => .ok (execAdd p u d a b)
  | 1 => .ok (execSub p u d a b)
  | 2 => .ok (execAnd p u d a b)
  | 3 => .ok (execOr p u d a b)
  | 4 => .ok (execXor p u d a b)
  | 5 => .ok (execAndn p u d a b)
  | 6 => .ok (execMinI p u d a b)
  | _ => .ok (execMaxI p u d a b)

def runA02 (p : Option Prefix) (fn : BitVec 3) (u : Bool) (d a b : Reg) : Except DecodeError Meaning :=
  match fn.toNat with
  | 0 => .ok (execShl p u d a b)
  | 1 => .ok (execShr p u d a b)
  | 2 => .ok (execSar p u d a b)
  | 3 => .ok (execRol p u d a b)
  | 4 => .ok (execRor p u d a b)
  | 5 => .ok (execMinN p u d a b)
  | 6 => .ok (execMaxN p u d a b)
  | _ => .ok (execAdif p u d a b)

def runA03 (p : Option Prefix) (fn : BitVec 3) (u : Bool) (d a b : Reg) : Except DecodeError Meaning :=
  match fn.toNat with
  | 0 => .ok (execMul p u d a b)
  | 1 => .ok (execMulhI p u d a b)
  | 2 => .ok (execMulhN p u d a b)
  | 3 => .ok (execDivI p u d a b)
  | 4 => .ok (execDivN p u d a b)
  | 5 => .ok (execRemI p u d a b)
  | 6 => .ok (execRemN p u d a b)
  | _ => .ok (execMad p u d a b)

def runA04 (p : Option Prefix) (fn : BitVec 3) (u : Bool) (d a b : Reg) : Except DecodeError Meaning :=
  match fn.toNat with
  | 0 => need (b == 0#7) .reservedField <| .ok (execAddx p u d a)
  | 1 => need (b == 0#7) .reservedField <| .ok (execSubx p u d a)
  | 2 => need (b == 0#7) .reservedField <| .ok (execXorx p u d a)
  | 3 => need (b == 0#7) .reservedField <| .ok (execRolx p u d a)
  | 4 => need (b == 0#7) .reservedField <| .ok (execRorx p u d a)
  | 5 => need (a == 0#7 && b == 0#7) .reservedField <| .ok (execNegx p u d)
  | 6 => need (a == 0#7 && b == 0#7) .reservedField <| .ok (execNotx p u d)
  | _ => need (b == 0#7) .reservedField <| .ok (execMulx p u d a)

def runA05 (p : Option Prefix) (fn : BitVec 3) (u : Bool) (d a b : Reg) : Except DecodeError Meaning :=
  match fn.toNat with
  | 0 => need (b == 0#7) .reservedField <| .ok (execSwap p u d a)
  | 1 => need (b == 0#7) .reservedField <| .ok (execCswap p u d a)
  | 2 => need (b == 0#7) .reservedField <| .ok (execClz p u d a)
  | 3 => need (b == 0#7) .reservedField <| .ok (execPopc p u d a)
  | 4 => need (b == 0#7) .reservedField <| .ok (execBrev p u d a)
  | 5 => .ok (execSel p u d a b)
  | 6 => need (b == 0#7) .reservedField <| .ok (execMov p u d a)
  | _ => .ok (execBfx p u d a b)

def runA06 (p : Option Prefix) (fn : BitVec 3) (u : Bool) (d a b : Reg) : Except DecodeError Meaning :=
  match fn.toNat with
  | 0 => need (d.extractLsb' 3 4 == 0#4) .reservedField <| .ok (execCmpEq p u (d.extractLsb' 0 3) a b)
  | 1 => need (d.extractLsb' 3 4 == 0#4) .reservedField <| .ok (execCmpNe p u (d.extractLsb' 0 3) a b)
  | 2 => need (d.extractLsb' 3 4 == 0#4) .reservedField <| .ok (execCmpLtI p u (d.extractLsb' 0 3) a b)
  | 3 => need (d.extractLsb' 3 4 == 0#4) .reservedField <| .ok (execCmpLeI p u (d.extractLsb' 0 3) a b)
  | 4 => need (d.extractLsb' 3 4 == 0#4) .reservedField <| .ok (execCmpLtN p u (d.extractLsb' 0 3) a b)
  | 5 => need (d.extractLsb' 3 4 == 0#4) .reservedField <| .ok (execCmpLeN p u (d.extractLsb' 0 3) a b)
  | 6 => need (d.extractLsb' 3 4 == 0#4) .reservedField <| .ok (execCmpTst p u (d.extractLsb' 0 3) a b)
  | _ => .error .badFn

def runA18 (p : Option Prefix) (fn : BitVec 3) (u : Bool) (d a b : Reg) : Except DecodeError Meaning :=
  match fn.toNat with
  | 0 => .ok (execAddI64 p u d a b)
  | 1 => .ok (execSubI64 p u d a b)
  | 2 => .ok (execAndI64 p u d a b)
  | 3 => .ok (execOrI64 p u d a b)
  | 4 => .ok (execXorI64 p u d a b)
  | 5 => .ok (execShlI64 p u d a b)
  | 6 => .ok (execShrI64 p u d a b)
  | _ => .ok (execSarI64 p u d a b)

def runA19 (p : Option Prefix) (fn : BitVec 3) (u : Bool) (d a b : Reg) : Except DecodeError Meaning :=
  match fn.toNat with
  | 0 => .ok (execMulI64 p u d a b)
  | 1 => .ok (execMulhI64 p u d a b)
  | 2 => .ok (execMulhN64 p u d a b)
  | 3 => need (b == 0#7) .reservedField <| .ok (execAddxI64 p u d a)
  | 4 => need (b == 0#7) .reservedField <| .ok (execSubxI64 p u d a)
  | 5 => need (b == 0#7) .reservedField <| .ok (execXorxI64 p u d a)
  | 6 => need (b == 0#7) .reservedField <| .ok (execSwapI64 p u d a)
  | _ => .ok (execLea p u d a b)

def runA20 (p : Option Prefix) (fn : BitVec 3) (u : Bool) (d a b : Reg) : Except DecodeError Meaning :=
  match fn.toNat with
  | 0 => need (!u) .badU <| (match p with
      | some x => if x.ext.getLsbD 0 then .ok (execLpullXch x d a b) else .ok (execLpull p d a b)
      | none => .ok (execLpull p d a b))
  | 1 => need (!u) .badU <| (match p with
      | some x => if x.ext.getLsbD 0 then .ok (execLpushXch x d a b) else .ok (execLpush p d a b)
      | none => .ok (execLpush p d a b))
  | 2 => need (!u) .badU <| .ok (execLbcast p d a b)
  | 3 => need (!u) .badU <| .ok (execLxor p d a b)
  | 4 => need (!u) .badU <| .ok (execLup p d a b)
  | 5 => need (!u) .badU <| .ok (execLdown p d a b)
  | 6 => need (!u) .badU <| .ok (execLrot p d a b)
  | _ => .error .badFn

def runA21 (p : Option Prefix) (fn : BitVec 3) (u : Bool) (d a b : Reg) : Except DecodeError Meaning :=
  match fn.toNat with
  | 0 => need (!u) .badU <| need (d.extractLsb' 3 4 == 0#4 && b == 0#7) .reservedField <| .ok (execBallot p (d.extractLsb' 0 3) a)
  | 1 => need (!u) .badU <| need (d.extractLsb' 3 4 == 0#4 && b == 0#7) .reservedField <| .ok (execAny p (d.extractLsb' 0 3) a)
  | 2 => need (!u) .badU <| need (d.extractLsb' 3 4 == 0#4 && b == 0#7) .reservedField <| .ok (execAll p (d.extractLsb' 0 3) a)
  | 3 => need (!u) .badU <| need (b == 0#7) .reservedField <| .ok (execMatchLanes p d a)
  | 4 => need (!u) .badU <| need (b == 0#7) .reservedField <| .ok (execMrank p d a)
  | 5 => need (!u) .badU <| need (d.extractLsb' 3 4 == 0#4 && b == 0#7) .reservedField <| .ok (execMlead p (d.extractLsb' 0 3) a)
  | 6 => need (!u) .badU <| need (b == 0#7) .reservedField <| .ok (execPfxpop p d a)
  | _ => .error .badFn

def runA22 (p : Option Prefix) (fn : BitVec 3) (u : Bool) (d a b : Reg) : Except DecodeError Meaning :=
  match fn.toNat with
  | 0 => need (!u) .badU <| need (b == 0#7) .reservedField <| .ok (execRadd p d a)
  | 1 => need (!u) .badU <| need (b == 0#7) .reservedField <| .ok (execRmin p d a)
  | 2 => need (!u) .badU <| need (b == 0#7) .reservedField <| .ok (execRmax p d a)
  | 3 => need (!u) .badU <| need (b == 0#7) .reservedField <| .ok (execRand p d a)
  | 4 => need (!u) .badU <| need (b == 0#7) .reservedField <| .ok (execRorRed p d a)
  | 5 => need (!u) .badU <| need (b == 0#7) .reservedField <| .ok (execRxor p d a)
  | 6 => need (!u) .badU <| need (b == 0#7) .reservedField <| .ok (execScani p d a)
  | _ => need (!u) .badU <| need (b == 0#7) .reservedField <| .ok (execScanx p d a)

def runA23 (p : Option Prefix) (fn : BitVec 3) (u : Bool) (d a b : Reg) : Except DecodeError Meaning :=
  match fn.toNat with
  | 0 => need (u) .badU <| need (d.extractLsb' 3 4 == 0#4 && a.extractLsb' 3 4 == 0#4 && b.extractLsb' 3 4 == 0#4) .reservedField <| .ok (execMand p (d.extractLsb' 0 3) (a.extractLsb' 0 3) (b.extractLsb' 0 3))
  | 1 => need (u) .badU <| need (d.extractLsb' 3 4 == 0#4 && a.extractLsb' 3 4 == 0#4 && b.extractLsb' 3 4 == 0#4) .reservedField <| .ok (execMor p (d.extractLsb' 0 3) (a.extractLsb' 0 3) (b.extractLsb' 0 3))
  | 2 => need (u) .badU <| need (d.extractLsb' 3 4 == 0#4 && a.extractLsb' 3 4 == 0#4 && b.extractLsb' 3 4 == 0#4) .reservedField <| .ok (execMxor p (d.extractLsb' 0 3) (a.extractLsb' 0 3) (b.extractLsb' 0 3))
  | 3 => need (u) .badU <| need (d.extractLsb' 3 4 == 0#4 && a.extractLsb' 3 4 == 0#4 && b == 0#7) .reservedField <| .ok (execMnot p (d.extractLsb' 0 3) (a.extractLsb' 0 3))
  | 4 => need (u) .badU <| need (d.extractLsb' 3 4 == 0#4 && a.extractLsb' 3 4 == 0#4 && b == 0#7) .reservedField <| .ok (execMmov p (d.extractLsb' 0 3) (a.extractLsb' 0 3))
  | 5 => need (u) .badU <| need (a.extractLsb' 3 4 == 0#4 && b == 0#7) .reservedField <| .ok (execMpopc p d (a.extractLsb' 0 3))
  | 6 => need (u) .badU <| need (a.extractLsb' 3 4 == 0#4 && b == 0#7) .reservedField <| .ok (execMffs p d (a.extractLsb' 0 3))
  | _ => need (u) .badU <| need (d.extractLsb' 3 4 == 0#4 && b == 0#7) .reservedField <| .ok (execMset p (d.extractLsb' 0 3) a)

def runA28 (p : Option Prefix) (t : Bool) (fn : BitVec 3) (u : Bool) (d a b : Reg) : Except DecodeError Meaning :=
  match fn.toNat with
  | 0 => .ok (execFadd p t u d a b)
  | 1 => .ok (execFsub p t u d a b)
  | 2 => .ok (execFmul p t u d a b)
  | 3 => .ok (execFdiv p t u d a b)
  | 4 => .ok (execFmin p t u d a b)
  | 5 => .ok (execFmax p t u d a b)
  | 6 => .ok (execFfma p t u d a b)
  | _ => .ok (execFcopysign p t u d a b)

def runA2A (p : Option Prefix) (t : Bool) (fn : BitVec 3) (u : Bool) (d a b : Reg) : Except DecodeError Meaning :=
  match fn.toNat with
  | 0 => need (b == 0#7) .reservedField <| .ok (execFsqrt p t u d a)
  | 1 => need (b == 0#7) .reservedField <| .ok (execFrsq p t u d a)
  | 2 => need (b == 0#7) .reservedField <| .ok (execFrec p t u d a)
  | 3 => need (b == 0#7) .reservedField <| .ok (execFabs p t u d a)
  | 4 => need (b == 0#7) .reservedField <| .ok (execFneg p t u d a)
  | 5 => need (b == 0#7) .reservedField <| .ok (execFrnd p t u d a)
  | 6 => need (b == 0#7) .reservedField <| .ok (execFclass p t u d a)
  | _ => .ok (execFscale p t u d a b)

def runA2C (p : Option Prefix) (t : Bool) (fn : BitVec 3) (u : Bool) (d a b : Reg) : Except DecodeError Meaning :=
  match fn.toNat with
  | 0 => need (b == 0#7) .reservedField <| .ok (execFexp p t u d a)
  | 1 => need (b == 0#7) .reservedField <| .ok (execFexp2 p t u d a)
  | 2 => need (b == 0#7) .reservedField <| .ok (execFlog p t u d a)
  | 3 => need (b == 0#7) .reservedField <| .ok (execFlog2 p t u d a)
  | 4 => need (b == 0#7) .reservedField <| .ok (execFerf p t u d a)
  | 5 => need (b == 0#7) .reservedField <| .ok (execFerfc p t u d a)
  | 6 => need (b == 0#7) .reservedField <| .ok (execFncdf p t u d a)
  | _ => need (b == 0#7) .reservedField <| .ok (execFtanh p t u d a)

def runA2E (p : Option Prefix) (t : Bool) (fn : BitVec 3) (u : Bool) (d a b : Reg) : Except DecodeError Meaning :=
  match fn.toNat with
  | 0 => need (d.extractLsb' 3 4 == 0#4) .reservedField <| .ok (execFcmpEq p t u (d.extractLsb' 0 3) a b)
  | 1 => need (d.extractLsb' 3 4 == 0#4) .reservedField <| .ok (execFcmpNe p t u (d.extractLsb' 0 3) a b)
  | 2 => need (d.extractLsb' 3 4 == 0#4) .reservedField <| .ok (execFcmpLt p t u (d.extractLsb' 0 3) a b)
  | 3 => need (d.extractLsb' 3 4 == 0#4) .reservedField <| .ok (execFcmpLe p t u (d.extractLsb' 0 3) a b)
  | 4 => need (d.extractLsb' 3 4 == 0#4) .reservedField <| .ok (execFcmpGt p t u (d.extractLsb' 0 3) a b)
  | 5 => need (d.extractLsb' 3 4 == 0#4) .reservedField <| .ok (execFcmpGe p t u (d.extractLsb' 0 3) a b)
  | 6 => need (d.extractLsb' 3 4 == 0#4) .reservedField <| .ok (execFcmpUn p t u (d.extractLsb' 0 3) a b)
  | _ => need (d.extractLsb' 3 4 == 0#4) .reservedField <| .ok (execFcmpOrd p t u (d.extractLsb' 0 3) a b)

def runA30 (p : Option Prefix) (t : Bool) (fn : BitVec 3) (u : Bool) (d a b : Reg) : Except DecodeError Meaning :=
  match fn.toNat with
  | 0 => .ok (execHadd p t u d a b)
  | 1 => .ok (execHsub p t u d a b)
  | 2 => .ok (execHmul p t u d a b)
  | 3 => .ok (execHfma p t u d a b)
  | 4 => .ok (execHmin p t u d a b)
  | 5 => .ok (execHmax p t u d a b)
  | _ => .error .badFn

def runA32 (p : Option Prefix) (fn : BitVec 3) (u : Bool) (d a b : Reg) : Except DecodeError Meaning :=
  match fn.toNat with
  | 0 => .ok (execCvt p u d a (b.extractLsb' 3 4) (b.extractLsb' 0 3))
  | 1 => .ok (execCvtPk2 p u d a (b.extractLsb' 3 4) (b.extractLsb' 0 3))
  | 2 => .ok (execCvtPk4 p u d a (b.extractLsb' 3 4) (b.extractLsb' 0 3))
  | 3 => .ok (execCvtPk8 p u d a (b.extractLsb' 3 4) (b.extractLsb' 0 3))
  | 4 => .ok (execUnpk2 p u d a (b.extractLsb' 3 4) (b.extractLsb' 0 3))
  | 5 => .ok (execUnpk4 p u d a (b.extractLsb' 3 4) (b.extractLsb' 0 3))
  | 6 => .ok (execUnpk8 p u d a (b.extractLsb' 3 4) (b.extractLsb' 0 3))
  | _ => .error .badFn

def runA38 (p : Option Prefix) (fn : BitVec 3) (u : Bool) (d a b : Reg) : Except DecodeError Meaning :=
  need (loadSizeOk fn) .badFn <| .ok (execLd p fn u d a b)

def runA39 (p : Option Prefix) (fn : BitVec 3) (u : Bool) (d a b : Reg) : Except DecodeError Meaning :=
  need (storeSizeOk fn) .badFn <| .ok (execSt p fn u d a b)

def runA3A (p : Option Prefix) (fn : BitVec 3) (u : Bool) (d a b : Reg) : Except DecodeError Meaning :=
  need (loadSizeOk fn) .badFn <| .ok (execLds p fn u d a b)

def runA3B (p : Option Prefix) (fn : BitVec 3) (u : Bool) (d a b : Reg) : Except DecodeError Meaning :=
  need (storeSizeOk fn) .badFn <| .ok (execSts p fn u d a b)

def runA3C (p : Option Prefix) (fn : BitVec 3) (u : Bool) (d a b : Reg) : Except DecodeError Meaning :=
  need (fn.extractLsb' 1 2 == 2#2) .badFn <| .ok (execXchg p (fn.getLsbD 0) u d a b)

def runA3D (p : Option Prefix) (fn : BitVec 3) (u : Bool) (d a b : Reg) : Except DecodeError Meaning :=
  need (fn.extractLsb' 1 2 == 2#2) .badFn <| .ok (execXchgs p (fn.getLsbD 0) u d a b)

def runA3E (p : Option Prefix) (fn : BitVec 3) (u : Bool) (d a b : Reg) : Except DecodeError Meaning :=
  .ok (execLda p (fn.extractLsb' 1 2) (fn.getLsbD 0) u d a b)

def runA3F (p : Option Prefix) (fn : BitVec 3) (u : Bool) (d a b : Reg) : Except DecodeError Meaning :=
  need (fn.extractLsb' 1 2 != 3#2) .badFn <| .ok (execStl p (fn.extractLsb' 1 2) (fn.getLsbD 0) u d a b)

def runA40 (p : Option Prefix) (fn : BitVec 3) (u : Bool) (d a b : Reg) : Except DecodeError Meaning :=
  match fn.toNat with
  | 0 => need (d == 0#7) .reservedField <| .ok (execCflush p u a b)
  | 1 => need (d == 0#7) .reservedField <| .ok (execCinv p u a b)
  | 2 => need (d == 0#7) .reservedField <| .ok (execCclean p u a b)
  | 3 => need (d == 0#7) .reservedField <| .ok (execPref p u a b)
  | 4 => need (d == 0#7) .reservedField <| .ok (execPref1 p u a b)
  | 5 => need (d == 0#7) .reservedField <| .ok (execIpref p u a b)
  | 6 => need (d == 0#7) .reservedField <| .ok (execSpevict p u a b)
  | _ => .error .badFn

def runA41 (p : Option Prefix) (fn : BitVec 3) (u : Bool) (d a b : Reg) : Except DecodeError Meaning :=
  match fn.toNat with
  | 0 => need (u) .badU <| need (d == 0#7 && a == 0#7 && b.extractLsb' 2 5 == 0#5) .reservedField <| .ok (execFenceAcq p (b.extractLsb' 0 2))
  | 1 => need (u) .badU <| need (d == 0#7 && a == 0#7 && b.extractLsb' 2 5 == 0#5) .reservedField <| .ok (execFenceRel p (b.extractLsb' 0 2))
  | 2 => need (u) .badU <| need (d == 0#7 && a == 0#7 && b.extractLsb' 2 5 == 0#5) .reservedField <| .ok (execFenceAr p (b.extractLsb' 0 2))
  | 3 => need (u) .badU <| need (d == 0#7 && a == 0#7 && b.extractLsb' 2 5 == 0#5) .reservedField <| .ok (execFenceSc p (b.extractLsb' 0 2))
  | _ => .error .badFn

def runA48 (p : Option Prefix) (t : Bool) (fn : BitVec 3) (u : Bool) (d a b : Reg) : Except DecodeError Meaning :=
  match fn.toNat with
  | 0 => .ok (execAaddI p t u d a b)
  | 1 => .ok (execAaddF p t u d a b)
  | 2 => .ok (execAminI p t u d a b)
  | 3 => .ok (execAmaxI p t u d a b)
  | 4 => .ok (execAand p t u d a b)
  | 5 => .ok (execAor p t u d a b)
  | 6 => .ok (execAxor p t u d a b)
  | _ => .ok (execAxch p t u d a b)

def runA4A (p : Option Prefix) (fn : BitVec 3) (u : Bool) (d a b : Reg) : Except DecodeError Meaning :=
  match fn.toNat with
  | 0 => .ok (execAcasB32 p u d a b)
  | 1 => .ok (execAcasB64 p u d a b)
  | _ => .error .badFn

def runA4B (p : Option Prefix) (fn : BitVec 3) (u : Bool) (d a b : Reg) : Except DecodeError Meaning :=
  match fn.toNat with
  | 0 => .ok (execAaddsI32 p u d a b)
  | 1 => .ok (execAaddsF32 p u d a b)
  | 2 => .ok (execAminsI p u d a b)
  | 3 => .ok (execAmaxsI p u d a b)
  | 4 => .ok (execAands p u d a b)
  | 5 => .ok (execAors p u d a b)
  | 6 => .ok (execAxors p u d a b)
  | _ => .ok (execAxchs p u d a b)

def runA4C (p : Option Prefix) (fn : BitVec 3) (u : Bool) (d a b : Reg) : Except DecodeError Meaning :=
  match fn.toNat with
  | 0 => need (d == 0#7) .reservedField <| .ok (execDaddI32 p u a b)
  | 1 => need (d == 0#7) .reservedField <| .ok (execDaddF32 p u a b)
  | 2 => need (d == 0#7) .reservedField <| .ok (execDaddF64 p u a b)
  | 3 => need (d == 0#7) .reservedField <| .ok (execDminI p u a b)
  | 4 => need (d == 0#7) .reservedField <| .ok (execDmaxI p u a b)
  | 5 => need (d == 0#7) .reservedField <| .ok (execDaddI64 p u a b)
  | _ => .error .badFn

def runA4D (p : Option Prefix) (fn : BitVec 3) (u : Bool) (d a b : Reg) : Except DecodeError Meaning :=
  match fn.toNat with
  | 0 => .ok (execRatomAdd64 p u d a b)
  | 1 => .ok (execRatomCas64 p u d a b)
  | 2 => .ok (execRatomXch64 p u d a b)
  | 3 => .ok (execRatomRetry p u d a b)
  | _ => .error .badFn

def runA4E (p : Option Prefix) (fn : BitVec 3) (u : Bool) (d a b : Reg) : Except DecodeError Meaning :=
  match fn.toNat with
  | 0 => need (b == 0#7) .reservedField <| .ok (execRldB64 p u d a)
  | 1 => need (b == 0#7) .reservedField <| .ok (execRstB64 p u d a)
  | 2 => need (b == 0#7) .reservedField <| .ok (execRldB128 p u d a)
  | 3 => need (b == 0#7) .reservedField <| .ok (execRstB128 p u d a)
  | _ => .error .badFn

def runA50 (p : Option Prefix) (fn : BitVec 3) (u : Bool) (d a b : Reg) : Except DecodeError Meaning :=
  match fn.toNat with
  | 0 => need (u) .badU <| .ok (execBcopyG2s p d a b)
  | 1 => need (u) .badU <| .ok (execBcopyS2g p d a b)
  | 2 => need (u) .badU <| .ok (execBcopyG2g p d a b)
  | 3 => need (u) .badU <| .ok (execBcopyS2s p d a b)
  | 4 => need (u) .badU <| .ok (execBcopyV2s p d a b)
  | 5 => need (u) .badU <| .ok (execBcopyS2v p d a b)
  | _ => .error .badFn

def runA51 (p : Option Prefix) (fn : BitVec 3) (u : Bool) (d a b : Reg) : Except DecodeError Meaning :=
  match fn.toNat with
  | 0 => need (u) .badU <| need (d == 0#7) .reservedField <| .ok (execBbInit p a b)
  | 1 => need (u) .badU <| need (d == 0#7) .reservedField <| .ok (execBbExpect p a b)
  | 2 => need (u) .badU <| need (d == 0#7) .reservedField <| .ok (execBbArrive p a b)
  | 3 => need (u) .badU <| need (d == 0#7) .reservedField <| .ok (execBbWait p a b)
  | 4 => need (u) .badU <| .ok (execBbTest p d a b)
  | 5 => need (u) .badU <| need (d == 0#7 && b == 0#7) .reservedField <| .ok (execBbInval p a)
  | _ => .error .badFn

def runA52 (p : Option Prefix) (fn : BitVec 3) (u : Bool) (d a b : Reg) : Except DecodeError Meaning :=
  match fn.toNat with
  | 0 => need (u) .badU <| .ok (execTadd p d a b)
  | 1 => need (u) .badU <| .ok (execTmul p d a b)
  | 2 => need (u) .badU <| .ok (execTfma p d a b)
  | 3 => need (u) .badU <| .ok (execTmax p d a b)
  | 4 => need (u) .badU <| need (b == 0#7) .reservedField <| .ok (execTcvt p d a)
  | 5 => need (u) .badU <| need (b == 0#7) .reservedField <| .ok (execTexp p d a)
  | 6 => need (u) .badU <| need (b == 0#7) .reservedField <| .ok (execTfill p d a)
  | _ => need (u) .badU <| need (b == 0#7) .reservedField <| .ok (execTcopy p d a)

def runA53 (p : Option Prefix) (fn : BitVec 3) (u : Bool) (d a b : Reg) : Except DecodeError Meaning :=
  match fn.toNat with
  | 0 => need (u) .badU <| need (b == 0#7) .reservedField <| .ok (execTfetch p d a)
  | 1 => need (u) .badU <| need (a == 0#7 && b == 0#7) .reservedField <| .ok (execTunpin p d)
  | _ => .error .badFn

def runA58 (p : Option Prefix) (fn : BitVec 3) (u : Bool) (d a b : Reg) : Except DecodeError Meaning :=
  need (u) .badU <| .ok (execMma p fn d a b)

def runA59 (p : Option Prefix) (fn : BitVec 3) (u : Bool) (d a b : Reg) : Except DecodeError Meaning :=
  need (u) .badU <| .ok (execMmaG p fn d a b)

def runA5A (p : Option Prefix) (fn : BitVec 3) (u : Bool) (d a b : Reg) : Except DecodeError Meaning :=
  match fn.toNat with
  | 0 => need (u) .badU <| need (d == 0#7 && b == 0#7) .reservedField <| .ok (execAccZero p a)
  | 1 => need (!u) .badU <| need (b == 0#7) .reservedField <| .ok (execAccRd p d a)
  | 2 => need (!u) .badU <| need (b == 0#7) .reservedField <| .ok (execAccWr p d a)
  | 3 => need (u) .badU <| need (b == 0#7) .reservedField <| .ok (execAccSt p d a)
  | 4 => need (u) .badU <| need (b == 0#7) .reservedField <| .ok (execAccLd p d a)
  | 5 => need (u) .badU <| need (b == 0#7) .reservedField <| .ok (execSclLd p d a)
  | 6 => need (!u) .badU <| need (b == 0#7) .reservedField <| .ok (execSclRd p d a)
  | _ => .error .badFn

def runA65 (p : Option Prefix) (fn : BitVec 3) (u : Bool) (d a b : Reg) : Except DecodeError Meaning :=
  match fn.toNat with
  | 0 => need (d == 0#7 && a == 0#7 && b == 0#7) .reservedField <| .ok (execNop p u)
  | 1 => need (d == 0#7 && a == 0#7 && b == 0#7) .reservedField <| .ok (execExit p u)
  | 2 => need (u) .badU <| need (d == 0#7 && b == 0#7) .reservedField <| .ok (execRet p a)
  | 3 => need (u) .badU <| need (d == 0#7 && a == 0#7 && b == 0#7) .reservedField <| .ok (execYield p)
  | 4 => need (u) .badU <| need (d == 0#7 && b == 0#7) .reservedField <| .ok (execWaitf p a)
  | 5 => need (u) .badU <| need (d == 0#7 && a == 0#7) .reservedField <| .ok (execBrk p b)
  | 6 => need (u) .badU <| need (d == 0#7 && b == 0#7) .reservedField <| .ok (execTrap p a)
  | _ => need (u) .badU <| need (d == 0#7) .reservedField <| .ok (execJmpr p a b)

def runA68 (p : Option Prefix) (fn : BitVec 3) (u : Bool) (d a b : Reg) : Except DecodeError Meaning :=
  match fn.toNat with
  | 0 => need (u) .badU <| need (d == 0#7 && b == 0#7) .reservedField <| .ok (execWin p a)
  | 1 => need (!u) .badU <| .ok (execRegld p d a b)
  | 2 => need (!u) .badU <| .ok (execRegst p d a b)
  | 3 => need (u) .badU <| need (d == 0#7 && b == 0#7) .reservedField <| .ok (execRev p a)
  | 4 => need (u) .badU <| need (d == 0#7 && a == 0#7 && b == 0#7) .reservedField <| .ok (execCommit p)
  | 5 => need (u) .badU <| need (d == 0#7 && a == 0#7 && b == 0#7) .reservedField <| .ok (execCkpt p)
  | 6 => need (u) .badU <| need (d == 0#7 && b == 0#7) .reservedField <| .ok (execHmode p a)
  | _ => need (u) .badU <| need (a == 0#7 && b == 0#7) .reservedField <| .ok (execCfrd p d)

def runA6C (p : Option Prefix) (fn : BitVec 3) (u : Bool) (d a b : Reg) : Except DecodeError Meaning :=
  match fn.toNat with
  | 0 => need (u) .badU <| need (b == 0#7) .reservedField <| .ok (execQput p d a)
  | 1 => need (u) .badU <| need (b.extractLsb' 3 4 == 0#4) .reservedField <| .ok (execQputNb p d a (b.extractLsb' 0 3))
  | 2 => need (u) .badU <| need (b == 0#7) .reservedField <| .ok (execQget p d a)
  | 3 => need (u) .badU <| need (b.extractLsb' 3 4 == 0#4) .reservedField <| .ok (execQgetNb p d a (b.extractLsb' 0 3))
  | 4 => need (u) .badU <| need (d == 0#7 && b == 0#7) .reservedField <| .ok (execSpawn p a)
  | 5 => need (u) .badU <| need (d == 0#7 && b == 0#7) .reservedField <| .ok (execTdone p a)
  | 6 => need (u) .badU <| .ok (execSteal p d a b)
  | _ => need (u) .badU <| need (b == 0#7) .reservedField <| .ok (execQstat p d a)

def runA70 (p : Option Prefix) (fn : BitVec 3) (u : Bool) (d a b : Reg) : Except DecodeError Meaning :=
  match fn.toNat with
  | 0 => need (u) .badU <| need (d == 0#7 && b == 0#7) .reservedField <| .ok (execBarT p a)
  | 1 => need (u) .badU <| need (d == 0#7 && b == 0#7) .reservedField <| .ok (execBarP p a)
  | 2 => need (u) .badU <| need (d == 0#7 && b == 0#7) .reservedField <| .ok (execBarArrive p a)
  | 3 => need (u) .badU <| need (d == 0#7 && b == 0#7) .reservedField <| .ok (execBarWait p a)
  | _ => .error .badFn

def runA71 (p : Option Prefix) (fn : BitVec 3) (u : Bool) (d a b : Reg) : Except DecodeError Meaning :=
  match fn.toNat with
  | 0 => need (u) .badU <| need (d == 0#7 && b == 0#7) .reservedField <| .ok (execDsync p a)
  | 1 => need (u) .badU <| need (d == 0#7 && b == 0#7) .reservedField <| .ok (execFlushpt p a)
  | 2 => need (u) .badU <| need (d == 0#7 && b == 0#7) .reservedField <| .ok (execDclk p a)
  | _ => .error .badFn

def runA78 (p : Option Prefix) (fn : BitVec 3) (u : Bool) (d a b : Reg) : Except DecodeError Meaning :=
  match fn.toNat with
  | 0 => need (a == 0#7) .reservedField <| .ok (execSrd p u d b)
  | 1 => need (d == 0#7) .reservedField <| .ok (execSwr p u a b)
  | 2 => need (u) .badU <| need (d.extractLsb' 3 4 == 0#4 && b.extractLsb' 1 6 == 0#6) .reservedField <| .ok (execEret p (d.extractLsb' 0 3) a (b.getLsbD 0))
  | 3 => need (u) .badU <| need (d == 0#7 && a == 0#7 && b == 0#7) .reservedField <| .ok (execFqpark p)
  | 4 => need (u) .badU <| need (d == 0#7 && b == 0#7) .reservedField <| .ok (execFlagsClr p a)
  | 5 => need (u) .badU <| need (d == 0#7 && a == 0#7 && b == 0#7) .reservedField <| .ok (execCtxsv p)
  | 6 => need (u) .badU <| need (a == 0#7 && b == 0#7) .reservedField <| .ok (execPairsig p d)
  | _ => .error .badFn

/-- The meaning of a base word's fields, under the prefix before it. -/
def runLayout (p : Option Prefix) : Layout → Except DecodeError Meaning
  | .fmtA op fn u d a b =>
    match op.toNat with
    | 1 => runA01 p fn u d a b
    | 2 => runA02 p fn u d a b
    | 3 => runA03 p fn u d a b
    | 4 => runA04 p fn u d a b
    | 5 => runA05 p fn u d a b
    | 6 => runA06 p fn u d a b
    | 24 => runA18 p fn u d a b
    | 25 => runA19 p fn u d a b
    | 32 => runA20 p fn u d a b
    | 33 => runA21 p fn u d a b
    | 34 => runA22 p fn u d a b
    | 35 => runA23 p fn u d a b
    | 40 => runA28 p false fn u d a b
    | 41 => runA28 p true fn u d a b
    | 42 => runA2A p false fn u d a b
    | 43 => runA2A p true fn u d a b
    | 44 => runA2C p false fn u d a b
    | 45 => runA2C p true fn u d a b
    | 46 => runA2E p false fn u d a b
    | 47 => runA2E p true fn u d a b
    | 48 => runA30 p false fn u d a b
    | 49 => runA30 p true fn u d a b
    | 50 => runA32 p fn u d a b
    | 56 => runA38 p fn u d a b
    | 57 => runA39 p fn u d a b
    | 58 => runA3A p fn u d a b
    | 59 => runA3B p fn u d a b
    | 60 => runA3C p fn u d a b
    | 61 => runA3D p fn u d a b
    | 62 => runA3E p fn u d a b
    | 63 => runA3F p fn u d a b
    | 64 => runA40 p fn u d a b
    | 65 => runA41 p fn u d a b
    | 72 => runA48 p false fn u d a b
    | 73 => runA48 p true fn u d a b
    | 74 => runA4A p fn u d a b
    | 75 => runA4B p fn u d a b
    | 76 => runA4C p fn u d a b
    | 77 => runA4D p fn u d a b
    | 78 => runA4E p fn u d a b
    | 80 => runA50 p fn u d a b
    | 81 => runA51 p fn u d a b
    | 82 => runA52 p fn u d a b
    | 83 => runA53 p fn u d a b
    | 88 => runA58 p fn u d a b
    | 89 => runA59 p fn u d a b
    | 90 => runA5A p fn u d a b
    | 101 => runA65 p fn u d a b
    | 104 => runA68 p fn u d a b
    | 108 => runA6C p fn u d a b
    | 112 => runA70 p fn u d a b
    | 113 => runA71 p fn u d a b
    | 120 => runA78 p fn u d a b
    | _ => .error .badOpcode
  | .fmtI op u d a i =>
    match op.toNat with
    | 8 => .ok (execAddi p u d a i)
    | 9 => .ok (execAndi p u d a i)
    | 10 => .ok (execOri p u d a i)
    | 11 => .ok (execXori p u d a i)
    | 12 => need (i.extractLsb' 5 5 == 0#5) .reservedField <| .ok (execShli p u d a (i.extractLsb' 0 5))
    | 13 => need (i.extractLsb' 5 5 == 0#5) .reservedField <| .ok (execShri p u d a (i.extractLsb' 0 5))
    | 14 => need (i.extractLsb' 5 5 == 0#5) .reservedField <| .ok (execSari p u d a (i.extractLsb' 0 5))
    | 15 => need (i.extractLsb' 5 5 == 0#5) .reservedField <| .ok (execRoli p u d a (i.extractLsb' 0 5))
    | 26 => .ok (execAddiI64 p u d a i)
    | _ => .error .badOpcode
  | .fmtL op u d i =>
    match op.toNat with
    | 16 => .ok (execAddxi p u d i)
    | 17 => .ok (execXorxi p u d i)
    | 18 => .ok (execMovi p u d i)
    | 19 => need (i.extractLsb' 15 2 == 0#2) .reservedField <| .ok (execMovhi p u d (i.extractLsb' 0 15))
    | _ => .error .badOpcode
  | .fmtB op fn m off =>
    match op.toNat, fn.toNat with
    | 96, 0 => need (m == 0#3) .reservedField <| .ok (execBrAlways p off)
    | 96, 1 => .ok (execBrAny p m off)
    | 96, 2 => .ok (execBrAll p m off)
    | 96, 3 => .ok (execBrNone p m off)
    | 96, 4 => .ok (execBrDiv p m off)
    | 97, 0 => need (m == 0#3) .reservedField <| .ok (execCall p off)
    | 98, 0 => need (m == 0#3) .reservedField <| .ok (execJoin p off)
    | _, _ => .error .badFn

/-- The meaning of a base word under an optional prefix. -/
def runBase (p : Option Prefix) (w : Word) : Except DecodeError Meaning :=
  if isHeader w then .error .header
  else if isPrefix w then .error .strayPrefix
  else runLayout p (Layout.ofWord w)

end Sys2Proof.Machine
end

