-- ==== Sys2Proof/Machine/Reverse.lean ====
section
/-!
DEFINITION. The reverse walk (09_registers_history R216 to R220, 22_programs R462, R466, R467): one step back, the restores of the
records (R207), the inverses of the invertible class, and the end of a walk.
-/

namespace Sys2Proof.Machine

/-- Why a reverse step does not take place: the walk stops, the team parks with the walk intact, the step waits, or the model stops. -/
inductive Back where
  | irrev
  | park (c : Cause) (addr : Dword) (lane : Nat := 0)
  | wait
  | reserve (core t : Nat) (Ps : List Nat)
  | fault (f : Fault)

def WalkStop.back : WalkStop → Back
  | .irrev => .irrev
  | .page va => .park .page va

def Stop.back : Stop → Back
  | .park c a L => .park c a L
  | .stay => .wait
  | .reserve c t Ps => .reserve c t Ps
  | .fault f => .fault f
  | _ => .irrev

def EngFault.back : EngFault → Back
  | .wait => .wait
  | .reserve c t Ps => .reserve c t Ps
  | .page a => .park .page a
  | .prot _ => .irrev
  | .spfault a => .park .spfault (BitVec.ofNat 64 a)
  | .stop f => .fault f

/-! ## What an instruction pushes -/

/-- The form of the words of a predecessor, with the exchange forms of LPULL and LPUSH apart; none when they do not decode as a
legal instruction (R467). -/
def legalInfo (p : Option Prefix) (b : Word) : Option Info :=
  match runBase p b with
  | .error _ => none
  | .ok _ =>
    let i := wordInfo p b
    let i := match p with
      | some x => if i.op = 0x20 ∧ i.fn ≤ 1 ∧ x.ext.getLsbD 0 then formXch x i.fn i.d i.a i.b else i
      | none => i
    if i.legal then some i else none

/-- The kinds of the records of the destination: SREG for a scalar run, REG32 for a register, REG64 for a pair or a quad (R207). -/
def Info.destKinds (i : Info) : List Nat :=
  match i.dk with
  | .none => []
  | .mask => [kMask]
  | .reg _ => [if i.u then kSreg else if i.parts.all fun x => x.2 == 1 then kReg32 else kReg64]

/-- The kinds of the old words of an ACC.ST (13_matrix R318): of scratchpad, or of global memory. -/
def Info.accStKinds (i : Info) : List Nat := if (prefixExt i.p).getLsbD 1 then [kMem32] else [kSpad32]

/-- The kinds of records that an instruction can push, its BARRIER apart (R207, R208). -/
def Info.pushes (i : Info) : List Nat :=
  let data := match i.op with
    | 0x20 => i.destKinds ++ if i.fn = 1 ∧ prefixC i.p ≠ 0 then [kMask] else []
    | 0x39 => storeKinds false i.fn
    | 0x3B => storeKinds true i.fn
    | 0x58 => [kAcct, kFlags]
    | 0x59 => [kAcct, kFlags]
    | 0x5A => if i.fn = 1 ∨ i.fn = 6 then i.destKinds else if i.fn = 3 then i.accStKinds else if i.fn = 5 then [] else [kAcct]
    | 0x61 => [kSreg]
    | 0x68 => if i.fn = 0 then [kWin] else if i.fn = 2 then [kReg32] else if i.fn = 5 then [kCkpt] else if i.fn = 4 ∨ i.fn = 6 then [] else i.destKinds
    | _ => if i.irrev then [] else i.destKinds
  data ++ (if i.fflags then [kFlags] else []) ++ [kDiv, kCtrl]

/-- The records on top of the stack with the IC bits of `n` − 1 and of kinds that the instruction can push, topmost first (R216). -/
def takeRecs (bits : Nat) (kinds : List Nat) : Nat → Hist → Hist × List Rec
  | 0, h => (h, [])
  | fuel + 1, h =>
    match h.topRec with
    | none => (h, [])
    | some (at_, r, i) =>
      if i = bits ∧ kinds.contains r.kind then
        let (h, rs) := takeRecs bits kinds fuel (h.popTo at_)
        (h, r :: rs)
      else (h, [])

/-! ## Restores (R207) -/

/-- Payload word j. -/
def Rec.word (r : Rec) (j : Nat) : Word := (r.payload.getD j { v := 0 }).v
def Rec.dword (r : Rec) (j : Nat) : Dword := pairOf (r.word j) (r.word (j + 1))

/-- The entries that a reconvergence removed, put back on the stack: `ws` holds four words for each, the lowest entry first (R356). A
path entry's RPC is that of the entry beneath it. -/
def putBack : Nat → List Word → List StackEntry → List StackEntry
  | 0, _, st => st
  | n + 1, ws, st =>
    let a := pairOf (ws.getD 0 0) (ws.getD 1 0)
    let m := pairOf (ws.getD 2 0) (ws.getD 3 0)
    let e : StackEntry := if a.getLsbD 0 then .path (a &&& ~~~(1 : Dword)) m ((st.head?.map StackEntry.rpc).getD 0) else .join a m
    putBack n (ws.drop 4) (e :: st)

def StackEntry.withMask (e : StackEntry) (m : Mask) : StackEntry :=
  match e with
  | .join r _ => .join r m
  | .path p _ r => .path p m r

/-- The stack before an EXIT: `ws` holds the old masks, the lowest entry first. -/
def oldMasks (ws : List Word) (st : List StackEntry) : List StackEntry :=
  let bottomUp := st.reverse
  ((List.range bottomUp.length).zip bottomUp).map (fun x => x.2.withMask (pairOf (ws.getD (2 * x.1) 0) (ws.getD (2 * x.1 + 1) 0))) |>.reverse

/-- The reconvergence state restored from a DIV record (R356). -/
def undoDiv (r : Rec) (f : Flow) : Flow :=
  let ws := r.payload.map fun x => x.v
  match ws with
  | [] => { f with stack := f.stack.drop 1 }
  | h :: rest =>
    let form := bitsOf h 0 8
    let n := bitsOf h 8 24
    if form = divSplit then { f with stack := f.stack.drop 1, active := r.mask }
    else if form = divReconv then { f with stack := putBack n (rest.drop 1) f.stack, active := r.mask }
    else
      let d := (rest.headD 0).toNat
      let st := putBack n (rest.drop (1 + 2 * d)) f.stack
      { f with stack := oldMasks (rest.drop 1) st, active := r.mask }

/-- A register record: `words` a lane or a scalar run, `off` from the destination's first register. -/
def undoReg (c : Ctx) (off : Nat) (r : Rec) (w : Weft) : Weft :=
  let ws := r.payload.map fun x => x.v
  if r.kind = kSreg then
    let d := if c.i.op = 0x61 then 126 else c.i.d.toNat
    { w with regs := w.regs.setWordsS (d + off) ws }
  else
    let n := if r.kind = kReg64 then 2 else 1
    let ls := lanesOf w.width r.mask
    ((List.range ls.length).zip ls).foldl (fun w x =>
      let p := if c.i.op = 0x68 ∧ c.i.fn = 2 then c.indexed w x.2 else physReg w.regs c.i.d.toNat
      { w with regs := w.regs.setWordsV (p + off) x.2 ((ws.drop (n * x.1)).take n) }) w

def undoFlags (r : Rec) (w : Weft) : Weft :=
  let ls := lanesOf w.width r.mask
  ((List.range ls.length).zip ls).foldl (fun w x => w.setFflag x.2 ((r.word x.1).setWidth 8)) w

/-- The offsets from the destination of an instruction's register records, in the order in which they were pushed. -/
def Info.regOffsets (i : Info) : List Nat := i.parts.map fun x => x.1

/-- Old bytes written back to global memory, through the weft's translation (R150). -/
def restoreGlobal (c : Ctx) (va : Dword) (bs : List Byte) (lane : Nat) (s : State) : Except Back State :=
  match s.xlate (s.coreOf c.k) (s.ctxOf c.k) .write va with
  | .error .page => .error (.park .page va lane)
  | .error .prot => .error .irrev
  | .ok (pa, gr, s) => .ok (s.coreWrite (s.coreOf c.k) (s.ctxOf c.k) va pa gr bs)

/-- Old bytes written back to scratchpad. -/
def restoreSpad (c : Ctx) (a : Nat) (bs : List Byte) (lane : Nat) (s : State) : Except Back State :=
  let t := teamOf c.k
  if s.spadBad t a then .error (.park .spfault (BitVec.ofNat 64 a) lane)
  else match s.bringPages t (s.coreOf c.k) [a / 2048] with
  | .ok s => .ok (s.spadPut t a bs)
  | .error e => .error e.back

def eachBack (f : Nat → State → Except Back State) : List Nat → State → Except Back State
  | [], s => .ok s
  | x :: rest, s =>
    match f x s with
    | .error e => .error e
    | .ok s => eachBack f rest s

/-- Half `h` of a store of n bytes: the bytes it wrote are written back in each lane of the record. `skip` says that the write was
never performed. -/
def undoStore (c : Ctx) (spad : Bool) (n : Nat) (off : Int) (h : Nat × Nat) (skip : Bool) (r : Rec) (s : State) : Except Back State :=
  let w := s.weft c.k
  let ls := if c.i.u then (if r.mask = 0 then [] else [lowestLane w.width r.mask]) else lanesOf w.width r.mask
  let words := if 8 ≤ n then 2 else 1
  eachBack (fun j s =>
    let L := ls.getD j 0
    let bs := ((r.payload.map fun x => x.v).drop (words * j)).take words |>.flatMap fun v => leBytes 4 v.toNat
    if spad then
      let a := c.addrS w off L + h.1
      restoreSpad c a (if 8 ≤ n then bs else (bs.drop (a % 4)).take n) L s
    else if skip then .ok s
    else
      let va := c.addrG w off L + BitVec.ofNat 64 h.1
      restoreGlobal c va (if 8 ≤ n then bs else (bs.drop (va.toNat % 4)).take n) L s) (List.range ls.length) s

/-- One record of an ACC.ST: the bytes of the elements of some columns of a row (13_matrix R318). -/
def undoAccSt (c : Ctx) (skip : Bool) (j : Nat) (r : Rec) (s : State) : Except Back State :=
  let e := prefixExt c.i.p
  match recordAt c s (e.getLsbD 1) (e.getLsbD 0) c.i.a with
  | .error x => .error x.back
  | .ok (it, s) =>
    let parts := ((List.range 128).flatMap fun row => (rowParts it row).map fun p => (row, p.1, p.2)).reverse
    let (row, lo, n) := parts.getD j (0, 0, 0)
    let ws := rowWords it row lo n
    let L := lowestLane (s.weft c.k).width c.active
    eachBack (fun i s =>
      let a := it.addr (128 * row + lo + i)
      let bs := (List.range it.esize).map fun b =>
        let x := a.toNat + b
        (r.word (ws.findIdx (· == x / 4 * 4))).extractLsb' (8 * (x % 4)) 8
      if !it.glob then restoreSpad c a.toNat bs L s else if skip then .ok s else restoreGlobal c a bs L s) (List.range n) s

/-- A row of a tile; the team's tiles come back first when another team owns them. -/
def undoRow (c : Ctx) (r : Rec) (s : State) : Except Back State :=
  match swapMatrix s (s.coreOf c.k) (teamOf c.k) with
  | .error f => .error (.fault f)
  | .ok none => .error .wait
  | .ok (some s) =>
    let h := r.word 0
    let row := (r.payload.drop 1).map fun x => x.v
    .ok (s.modCore (s.coreOf c.k) fun x => x.setTileRow (bitsOf h 0 2) (bitsOf h 2 7) row)

/-- Restore one record; j counts the data records of the step, topmost first. A record without payload, of an instruction in which no
lane took part (R208), restores nothing. -/
def restoreRec (c : Ctx) (skip : Bool) (j : Nat) (r : Rec) (s : State) : Except Back State :=
  let mod := fun (f : Weft → Weft) => (.ok (s.modWeft c.k f) : Except Back State)
  if r.kind = kCtrl then mod fun w => { w with flow := { w.flow with cf := r.dword 0, cfic := r.dword 2 } }
  else if r.kind = kDiv then mod fun w => { w with flow := undoDiv r w.flow }
  else if r.payload.isEmpty then .ok s
  else if r.kind = kFlags then mod (undoFlags r)
  else if r.kind = kWin then mod fun w => { w with regs := { w.regs with wb := (r.word 0).toNat } }
  else if r.kind = kMask then
    mod fun w => w.setMaskReg (if c.i.op = 0x20 then (prefixC c.i.p).toNat else c.i.d.toNat) (r.dword 0)
  else if r.kind = kAcct then undoRow c r s
  else if r.kind = kMem32 ∨ r.kind = kMem64 ∨ r.kind = kSpad32 then
    if c.i.op = 0x5A then undoAccSt c skip j r s
    else
      let n := szBytes c.i.fn
      undoStore c (c.i.op == 0x3B) n (offM c.i.p c.i.b n) ((storeHalves n).reverse.getD j (0, n)) skip r s
  else if r.kind = kCkpt then .ok s
  else mod (undoReg c (c.i.regOffsets.reverse.getD j 0) r)

/-- Restore the records of a step, topmost first. -/
def restoreAll (c : Ctx) (skip : Bool) : Nat → List Rec → State → Except Back State
  | _, [], s => .ok s
  | j, r :: rest, s =>
    match restoreRec c skip j r s with
    | .error e => .error e
    | .ok s => restoreAll c skip (if r.kind = kFlags ∨ r.kind = kDiv ∨ r.kind = kCtrl then j else j + 1) rest s

/-! ## Inverses (R209) -/

/-- The inverse of a lane function; lanes that the forward instruction faulted are left alone. -/
def invertLanes (f : LaneFn) (c : Ctx) (w : Weft) : Weft :=
  (laneResults f c w).foldl (fun w r => if r.2.fault.isSome then w else writeD w c r.1 r.2.val) w

/-- XCHG back: the lanes in descending order (07_memory R153). -/
def invertXchg (c : Ctx) (n : Nat) (off : Int) (s : State) : Except Back State :=
  let w := s.weft c.k
  let ls := ((c.accessLanes w).filter fun L => (c.addrG w off L).toNat % n == 0).reverse
  eachBack (fun L s =>
    let w := s.weft c.k
    let va := c.addrG w off L
    match s.xlate (s.coreOf c.k) (s.ctxOf c.k) .write va with
    | .error .page => .error (.park .page va L)
    | .error .prot => .error .irrev
    | .ok (pa, gr, s) =>
      let (bs, s) := s.coreSwap (s.coreOf c.k) (s.ctxOf c.k) va pa gr (leBytes n (c.valD w L).toNat)
      .ok (s.modWeft c.k fun w => writeD w c L (valOf bs))) ls s

def invertXchgs (c : Ctx) (n : Nat) (off : Int) (s : State) : Except Back State :=
  let w := s.weft c.k
  let S := (s.team (teamOf c.k)).size
  let ls := ((c.accessLanes w).filter fun L => c.addrS w off L % n == 0 && decide (c.addrS w off L < S)).reverse
  eachBack (fun L s =>
    let w := s.weft c.k
    let a := c.addrS w off L
    if s.spadBad (teamOf c.k) a then .error (.park .spfault (BitVec.ofNat 64 a) L)
    else match s.bringPages (teamOf c.k) (s.coreOf c.k) [a / 2048] with
    | .error e => .error e.back
    | .ok s =>
      let v := valOf (s.spadRead (teamOf c.k) a n)
      let s := s.spadPut (teamOf c.k) a (leBytes n (c.valD w L).toNat)
      .ok (s.modWeft c.k fun w => writeD w c L v)) ls s

/-- The inverse of an invertible instruction, which acts on the lanes of ACTIVE alone (R27, R209); none for those that change nothing a step restores (R462, R466). DATOM's entries are
removed with its other writes. -/
def invert (c : Ctx) (b : Word) (s : State) : Except Back State :=
  let mod := fun (f : Weft → Weft) => (.ok (s.modWeft c.k f) : Except Back State)
  if c.i.outOfBounds (s.weft c.k) ∨ (c.i.u ∧ c.active = 0) then .ok s
  else match c.i.op with
  | 0x04 => mod (invertLanes (inplace c.i.fn true) c)
  | 0x05 => mod (swapWeft c)
  | 0x19 => if c.i.fn = 6 then mod (swapWeft c) else mod (invertLanes (inplace64 c.i.fn true) c)
  | 0x20 => if bijective c (s.weft c.k) then mod (xchWeft c.i.fn c) else .ok s
  | 0x3C => let n := szBytes c.i.fn; invertXchg c n (offM c.i.p c.i.b n) s
  | 0x3D => let n := szBytes c.i.fn; invertXchgs c n (offM c.i.p c.i.b n) s
  | op =>
    if op = 0x10 ∨ op = 0x11 then
      match Layout.ofWord b with
      | .fmtL _ _ _ imm => mod (invertLanes (inplaceImm op true (immL c.i.p imm)) c)
      | _ => .ok s
    else .ok s

/-! ## Segments and buffered atomics (19_reliability R433, 17_determinism R398) -/

/-- A walk that goes back into a closed segment that has not been compared opens it again. -/
def reopen (n : Dword) : Nat → Segment → Segment
  | 0, g => g
  | fuel + 1, g =>
    match g.closed.getLast? with
    | none => g
    | some x =>
      if n.toNat < x.stop.toNat ∨ (x.kind = 0 ∧ n = x.stop) then
        reopen n fuel { g with closed := g.closed.dropLast, writes := x.writes ++ g.writes, start := x.start }
      else g

/-- The writes and the buffered atomics of the instruction at an IC are taken away. -/
def dropWrites (s : State) (k : Nat) (n : Dword) : State :=
  let away := fun (x : SegWrite) => x.ic != n
  let s := s.modTeam (teamOf k) fun t => { t with datoms := t.datoms.filter fun e => !(e.weft == indexOf k && e.ic == n) }
  if s.member k = 0 then s
  else s.modWeft k fun w =>
    let g := reopen n w.seg.closed.length w.seg
    { w with seg := { g with writes := g.writes.filter away, kept := g.kept.filter away
                             start := if n.toNat < g.start.toNat then n else g.start } }

/-- The instruction's global writes were never performed: its segment has not been released, or the member is the trailing one. -/
def State.unperformed (s : State) (k : Nat) (n : Dword) : Bool :=
  let w := s.weft k
  s.member k == 2 || w.seg.walk.isSome ||
    (w.seg.writes ++ w.seg.closed.flatMap fun x => x.writes).any fun x => x.ic == n

/-! ## One step, and the end of a walk -/

/-- The weft went on here by an ERET with no known predecessor: its BARRIER stands on top of the stack, but for the DIV records of the
re-arrival, and no transfer has been taken since (R214, R216). -/
def Weft.pastEret (w : Weft) (bits : Nat) : Bool :=
  let h := (takeRecs bits [kDiv] 300 w.hist).1
  w.flow.cfic == 0xFFFFFFFFFFFFFFFF && match h.topRec with
    | some (_, r, i) => r.kind == kBarrier && i == bits && r.word 0 == eretMark
    | none => false

/-- Undo the instruction at `P`, which retired at `n`; `viaCF` says that it took a transfer (R216). -/
def undoInstr (s : State) (k : Nat) (P : Dword) (viaCF : Bool) (n : Dword) : Except Back State :=
  match wordsAt s k P with
  | .error e => .error e.back
  | .ok (p, b) =>
    match legalInfo p b with
    | none => .error .irrev
    | some i =>
      if i.op = 0x68 ∧ i.fn = 6 then .error .irrev
      else
        let w := s.weft k
        let inv := i.invertible (s.inDomain k)
        let (h, recs) :=
          if !w.hist.on then
            (w.hist, match w.hist.undo with
              | some u => if u.ic = n then u.recs.reverse else []
              | none => [])
          else if inv && !viaCF then (w.hist, [])
          else takeRecs (bitsOf n 0 16) i.pushes 300 w.hist
        if w.hist.on ∧ ((!(inv && !viaCF) ∧ recs.isEmpty) ∨ w.pastEret (bitsOf n 0 16)) then .error .irrev
        else
          let skip := s.unperformed k n
          let s := s.setWeft k { w with hist := { h with undo := none } }
          let ctx := fun (s : State) =>
            ({ k := k, i := i, active := i.activeOf (s.weft k), zeroed := 0, pc := P, next := P + BitVec.ofNat 64 (4 * i.len) } : Ctx)
          match restoreAll (ctx s) skip 0 recs s with
          | .error e => .error e
          | .ok s =>
            -- ACC.ST gives its dither phase back (10_formats R240)
            let s := if i.op = 0x5A ∧ i.fn = 3 ∧ recs.any (fun r => r.mask != 0) then s.modWeft k fun w => w.stepPhase 63 else s
            match (if inv then invert (ctx s) b s else .ok s) with
            | .error e => .error e
            | .ok s => .ok (dropWrites s k n)

/-- The header of the clause that holds an address, found among the 63 words below it. -/
def headerOf (s : State) (k : Nat) (pc : Dword) : Nat → Except WalkStop (Option (Dword × Word))
  | 0 => .ok none
  | fuel + 1 =>
    match walkWord s k (pc - 4) with
    | .error e => .error e
    | .ok h => if isHeader h then .ok (some (pc - 4, h)) else headerOf s k (pc - 4) fuel

/-- LASTPC after a walk: the predecessor of the instruction at which execution resumes, 0 when none is known (R214). -/
def lastPcAfter (s : State) (k : Nat) : Except WalkStop Dword :=
  let f := (s.weft k).flow
  if f.ic = 0 then .ok 0
  else match predecessor s k f.pc f.ic with
  | .ok (p, _) => .ok p
  | .error (.page va) => .error (.page va)
  | .error .irrev => .ok 0

/-- The weft leaves the walk, and handler mode. -/
def Weft.leaveWalk (w : Weft) : Weft :=
  { w with flow := { w.flow with dir := false }, trap := { w.trap with handler := false, impr := w.trap.later ++ w.trap.impr, later := [] }, hist := { w.hist with undo := none } }

/-- The walk of a redundant pair has reached the start of the segment: a second mismatch parks both members once both are there. -/
def pairArrived (s : State) (k : Nat) : State :=
  let w := s.weft k
  match w.seg.walk with
  | none => s
  | some start =>
    let s := s.setWeft k { w with seg := { w.seg with walk := none } }
    match w.seg.mis with
    | none => s
    | some addr => if (s.weft (s.partner k)).seg.walk.isSome then s else parkPair s k start addr 0 false

/-- The weft stands inside the clause of its PC again, outside the walk and handler mode, with LASTPC known anew (R214, R217). -/
def standAt (s : State) (k : Nat) : Except Back State :=
  let w := s.weft k
  match headerOf s k w.flow.pc 63, lastPcAfter s k with
  | .error (.page va), _ => .error (.park .page va)
  | _, .error e => .error e.back
  | h, .ok last =>
    let (at_, word) : Dword × Word := match h with
      | .ok (some x) => x
      | _ => (0, 0xFF)
    let f : Flow := { w.flow with entry := .body, hdr := at_, flagA := headerFlagA word, flagB := headerFlagB word }
    .ok (s.setWeft k { w with flow := f, hist := { w.hist with lastPc := last } }.leaveWalk)

/-- REVERSE_WALK_END: forward execution resumes at PC, inside its clause (R217). -/
def endWalk (s : State) (k : Nat) : Except Back State :=
  match standAt s k with
  | .error e => .error e
  | .ok s => .ok (pairArrived s k)

/-- A walk that cannot go on stops with IRREV at the present IC (R218); a pair's parks the pair (19_reliability R433). -/
def stopWalk (s : State) (k : Nat) : Except Back State :=
  let w := s.weft k
  match standAt s k with
  | .error e => .error e
  | .ok s => .ok (match w.seg.walk with
    | some start => parkPair s k start w.seg.diff (if w.hist.on then Cause.irrev.code else 0) true
    | none => takeTrap s k .irrev w.flow.pc w.flow.ic w.hist.hsp 0 w.flow.pc .body)

/-- A walk's weft may take a step: its copies and flags have settled, and its stores have reached their order points (R216, R217). -/
def State.stepReady (s : State) (k : Nat) : Bool :=
  let w := s.weft k
  w.status == .live && (s.teamOfWeft k).status == .resident && w.flow.dir && w.hold.isNone && s.running && s.walkReady k && w.stores.isEmpty

/-- REVERSE_STEP: the instruction before PC is undone, or the walk ends (R216, R217). -/
def execReverseStep (k : Nat) (s : State) : Host.Outcome State Fault Refusal :=
  if !s.stepReady k then .next s
  else
    let f := (s.weft k).flow
    let target := (s.weft k).seg.walk.getD f.revT
    let r : Except Back State :=
      if f.ic.toNat ≤ target.toNat then endWalk s k
      else if f.ic.toNat ≤ (s.walkFloor k).toNat then .error .irrev
      else match predecessor s k f.pc f.ic with
      | .error e => .error e.back
      | .ok (P, viaCF) =>
        match undoInstr s k P viaCF (f.ic - 1) with
        | .error e => .error e
        | .ok s => .ok (s.modWeft k fun w => { w with flow := { w.flow with pc := P, ic := f.ic - 1, entry := .body } })
    taken s (match (match r with
      | .error .irrev => stopWalk s k
      | r => r) with
    | .ok s => .next s
    | .error .irrev => .next s
    | .error .wait => .next s
    | .error (.reserve c t Ps) => .next (s.queueReserve c t Ps)
    | .error (.fault x) => .fault x
    | .error (.park c addr L) => .next (parkCause s k c addr L))

end Sys2Proof.Machine
end

