-- ==== Sys2Proof/Machine/Upkeep.lean ====
section
/-!
DEFINITION. The core's own upkeep of its SRAM (06_core_memory R124 to R141, 09_registers_history R200, 16_scheduling R375) and the clock
sweeper with the translation registers (05_translation R121 to R123).
-/

namespace Sys2Proof.Machine

/-! ## Bank roles (R124 to R126) -/

/-- The cores of the module (01_module). -/
def coreCount : Nat := 1024

/-- A team stands on the core. -/
def State.coreInUse (s : State) (core : Nat) : Bool := s.teams.any fun x => x.2.status.onCore && x.2.coreList.contains core

/-- A CBROLE value that may not be written (R126). -/
def State.badRoles (s : State) (core : Nat) (v : Dword) : Bool :=
  !(banksOf v 3).isEmpty || decide ((banksOf v 0).length < 2) || decide ((banksOf v 1).length < 2)
    || (s.coreInUse core && banksOf v 2 != banksOf (s.roles core) 2) || (s.reg (cbstat core)).getLsbD 0

/-- CBROLE_WRITE: refused with CBERR, or the changed banks begin to drain (R126). -/
def execCbroleWrite (core : Nat) (v : Dword) (s : State) : Host.Outcome State Fault Refusal :=
  if coreCount ≤ core then .next s
  else if s.badRoles core v then .next (s.setBit (cbstat core) 1)
  else .next ((s.setBit (cbstat core) 0).modCore core fun c => { c with roles := some v })

/-- Evict the frames of a list that are not held. -/
def drainFrames (core : Nat) : List Nat → State → Except Stop State
  | [], s => .ok s
  | i :: rest, s =>
    match (s.core core).frame i with
    | none => drainFrames core rest s
    | some f =>
      if s.heldPage f.team f.page then drainFrames core rest s
      else match s.evict core i with
        | .error e => .error e
        | .ok s => drainFrames core rest s

/-- The core's L1 is written back and emptied. -/
def dropL1 (s : State) (core : Nat) : State := (s.shedLines fun l => l.core == core).ncFlush core (fun _ => true) true true

/-- The slots of a core under new roles: a bank that keeps the operand role keeps its slot under its new number, and one that takes the role
is empty (R126, R128). -/
def movedSlots (old new : Dword) (slots : SMap Slot) : SMap Slot :=
  let was := banksOf old 2
  ((List.range (banksOf new 2).length).zip (banksOf new 2)).filterMap fun x =>
    if was.contains x.2 then (slots.find? fun y => y.1 == was.findIdx (· == x.2)).map fun y => (x.1, y.2) else none

/-- BANK_DRAIN_DONE: frames of banks that leave the pool are evicted, those of an L1 bank written back; once all are empty the new
roles take effect together (R126). -/
def execBankDrainDone (core : Nat) (s : State) : Host.Outcome State Fault Refusal :=
  match (s.core core).roles with
  | none => .next s
  | some v =>
    let old := s.roles core
    let left := fun (code : Nat) => (banksOf old code).filter fun b => roleIn v b != code
    let frames := (left 1).flatMap fun b => (List.range 8).map fun k => 8 * b + k
    event s ((drainFrames core frames s).map fun s =>
      if frames.any fun i => ((s.core core).frame i).isSome then s
      else
        let s := if (left 0).isEmpty then s else dropL1 s core
        let s := s.modCore core fun c => { c with roles := none, slots := movedSlots old v c.slots }
        ((s.setReg (cbrole core) v).setField (cbstat core) 0 1 0).noteFree core)

/-! ## Frames (R137 to R139) -/

/-- The request at the head of a core's list is granted: all its frames are obtained in one step. One whose team has gone, or whose page may
not be accessed, is dropped. -/
def grantHead (core : Nat) (s : State) : Except Stop (Option State) :=
  match (s.core core).reserve with
  | [] => .ok none
  | (t, Ps) :: rest =>
    let drop := fun (s : State) => s.modCore core fun c => { c with reserve := rest }
    if (s.team t).status != .resident || Ps.any fun P => !speOk ((s.team t).spte P) then .ok (some (drop s))
    else match s.bringPages t core Ps with
    | .error (.reserve ..) => .ok none
    | .error e => .error e
    | .ok s => .ok (some (drop s))

def grantAll (core : Nat) : Nat → State → Except Stop State
  | 0, s => .ok s
  | n + 1, s =>
    match grantHead core s with
    | .error e => .error e
    | .ok none => .ok s
    | .ok (some s) => grantAll core n s

/-- The requests that wait at the cores of a list are granted as far as they can be. -/
def grantCores : List Nat → State → Except Stop State
  | [], s => .ok s
  | c :: rest, s =>
    match grantAll c (s.core c).reserve.length s with
    | .error e => .error e
    | .ok s => grantCores rest s

/-- FRAME_RESERVATION: at most 16 frames, granted all at once in the order of the requests (R138). -/
def execFrameReservation (team : Nat) (pages : List Nat) (s : State) : Host.Outcome State Fault Refusal :=
  let x := s.team team
  let Ps := pages.dedup
  let bad := Ps.any fun P => decide (x.size / 2048 ≤ P) || !speOk (x.spte P)
  let waits := x.ownCores.any fun c => (s.core c).reserve.contains (team, Ps)
  if !waits ∧ (x.status ≠ .resident ∨ 16 < Ps.length ∨ Ps.isEmpty ∨ bad) then .next s
  else
    let s' := if waits then s else s.queueReserve x.core team Ps
    event s (grantCores x.ownCores s')

/-- SPAD_PAGE_FILL: a page of a resident team is filled, a miss that gives a swap opportunity (R137, 02_threads R43). -/
def execSpadPageFill (team page : Nat) (s : State) : Host.Outcome State Fault Refusal :=
  let x := s.team team
  let ready := x.status == .resident && decide (page < x.size / 2048) && speOk (x.spte page) && (s.core x.core).reserve.isEmpty
  if !ready ∨ (s.findFrame team page).isSome then .next s
  else event s ((s.bringPage team x.core page).map fun s => s.swapOpportunity x.core)

/-- A damaged line of a page (19_reliability R434). -/
def State.pageUpset (s : State) (t P : Nat) : Option Nat :=
  (List.range 16).findSome? fun i => s.spadUpset t (2048 * P + 128 * i)

/-- SPAD_EVICTION: a frame that is not held leaves (R139, R141). -/
def execSpadEviction (team page : Nat) (s : State) : Host.Outcome State Fault Refusal :=
  match s.findFrame team page with
  | none => .next s
  | some (core, i, _) =>
    if s.heldPage team page then .next s
    else match s.pageUpset team page with
    | some off => .next (softError s team 2 off (16 * team))
    | none =>
      event s (s.evict core i)

/-! ## Register lines and code (R200, R375, 19_reliability R434) -/

/-- The errors that the fetch of line `line` of a weft's register region can meet. -/
def State.lineUpset (s : State) (k line : Nat) : Option (Nat × Nat) :=
  let t := teamOf k
  let off := (s.imageMap t).regs.getD (indexOf k) 0 + 128 * line - (s.team t).image
  s.upsets.findSome? fun u => match u with
    | .sram t' kind o _ => if t' = t ∧ kind ≠ 2 ∧ (kind ≠ 1 ∨ o = off) then some (kind, o) else none
    | _ => none

/-- REGISTER_LINE_FILL: the fetch of a line changes timing only, and when it misses L2 it gives a swap opportunity (02_threads R41); an
uncorrectable error is masked or parks the team. -/
def execRegisterLineFill (k line : Nat) (s : State) : Host.Outcome State Fault Refusal :=
  let pa := (s.imageMap (teamOf k)).regs.getD (indexOf k) 0 + 128 * line
  if (s.weft k).status ≠ .live ∨ (s.teamOfWeft k).status ≠ .resident ∨ regionBytes (s.weft k) ≤ 128 * line then .next s
  else match s.lineUpset k line with
  | some (kind, off) => .next (softError s (teamOf k) kind off k)
  | none => if s.exists pa 128 && s.l2Misses pa 128 then taken s (.next ((s.homeRead pa 128).2.swapOpportunity (s.coreOf k))) else .next s

def cslip (core : Nat) : Nat := 0x8000 + 8 * core

/-- A weft of the core waits for a line of code. -/
def State.missing (s : State) (core ctx line : Nat) : Bool :=
  (s.residents core).any fun k =>
    let pc := (s.weft k).flow.pc.toNat
    s.ctxOf k == ctx && (pc / 128 == line || (pc + 4) / 128 == line)

/-- ICACHE_MISS_FILL: the line is brought in; the miss counts one schedule slip and is a swap opportunity (R375, 02_threads R41). -/
def execIcacheMissFill (core ctx line : Nat) (s : State) : Host.Outcome State Fault Refusal :=
  let va := BitVec.ofNat 64 (128 * line)
  let had := (s.cluster (clusterOf core)).icache.any fun l => l.ctx == ctx && l.va == va
  if had ∨ !s.missing core ctx line then .next s
  else match s.fillCode core ctx va with
  | .error _ => .next s
  | .ok t => taken s (.next ((t.setField (cslip core) 0 32 (t.field (cslip core) 0 32 + 1)).swapOpportunity core))

/-! ## The clock sweeper (05_translation R121, R122) -/

def xstat : Nat := 0x2038

/-- WMARK, no more than the cold queue's size. -/
def State.wmark (s : State) : Nat := min (s.field 0x2018 8 24) (2 ^ s.field 0x2020 0 5)
def State.coldValid (s : State) : Bool := decide (4 ≤ s.field 0x2020 0 5) && decide (s.field 0x2020 0 5 ≤ 20)
/-- Entries in the cold queue. -/
def State.coldCount (s : State) : Nat := (s.field 0x2030 0 32 + 2 ^ 32 - s.field 0x2028 0 32) % 2 ^ 32

/-- The sweeper examines one frame. -/
def examine (f : Nat) (s : State) : Except Fault State :=
  let at_ := s.field 0x2010 14 38 * 16384 + 8 * f
  if !s.exists at_ 8 then .error (.noMemory at_)
  else
    let e := s.cohDword at_
    if e.getLsbD 2 || bitsOf e 4 4 != 0 then .ok s
    else if e.getLsbD 0 then .ok (s.homeWrite at_ [s.cohByte at_ &&& 0xFE])
    else if e.getLsbD 3 || !s.coldValid then .ok s
    else
      let tail := s.field 0x2030 0 32
      let q := s.field 0x2020 12 40 * 4096 + 8 * (tail % 2 ^ s.field 0x2020 0 5)
      if !s.exists q 8 then .error (.noMemory q)
      else
        let s := s.homeWrite q (leBytes 8 f)
        let s := s.setField 0x2030 0 32 (tail + 1)
        .ok (s.homeWrite at_ [s.cohByte at_ ||| 8])

/-- Frames examined until RATE of them are done or the sweeper pauses. -/
def sweepFrames : Nat → State → Except Fault State
  | 0, s => .ok s
  | n + 1, s =>
    if s.wmark ≤ s.coldCount then .ok s
    else match examine s.sweepNext s with
    | .error f => .error f
    | .ok s =>
      let last := s.cap / 16384
      if s.sweepNext + 1 < last then sweepFrames n { s with sweepNext := s.sweepNext + 1 }
      else sweepFrames n ({ s with sweepNext := 0 }.setField xstat 32 32 (s.field xstat 32 32 + 1))

/-- SWEEPER_TICK: RATE frames are examined while FTCTL.SWEEP is set. -/
def execSweeperTick (s : State) : Host.Outcome State Fault Refusal :=
  if !(s.reg 0x2018).getLsbD 0 then .next s
  else
    let s' := if !s.coldValid ∨ 2 ^ s.field 0x2020 0 5 < s.field 0x2018 8 24 then s.setBit xstat 1 else s
    if s.cap = 0 then .next s' else taken s (outcomeOf (sweepFrames (max 1 (s.field 0x2018 32 8)) s'))

/-! ## Translation registers (05_translation R123) -/

/-- A context has a running or parked task. -/
def State.anyTask (s : State) : Bool := s.teams.any fun x => x.2.status != .absent

/-- Write the fields of a register that a mask names. -/
def State.putMasked (s : State) (off : Nat) (m v : Dword) : State := s.setReg off ((s.reg off &&& ~~~m) ||| (v &&& m))
/-- Clear the bits of a W1C field at which the written value has ones. -/
def State.clearOnes (s : State) (off : Nat) (m v : Dword) : State := s.setReg off (s.reg off &&& ~~~(v &&& m))

/-- TRANSLATION_CONFIG_WRITE: XCTXB, XCTXN and FTBASE are ignored, with CFGERR, while a context has a task. The write drops no cached
translation (notes/assumptions 127). -/
def execTranslationConfigWrite (off : Nat) (v : Dword) (s : State) : Host.Outcome State Fault Refusal :=
  let guarded := fun (m : Dword) => if s.anyTask then s.setBit xstat 0 else s.putMasked off m v
  .next (match off with
    | 0x2000 => guarded 0x000FFFFFFFFFF000
    | 0x2008 => guarded 0x1FFF
    | 0x2010 => guarded 0x000FFFFFFFFFC000
    | 0x2018 => s.putMasked off 0xFFFFFFFF01 v
    | 0x2020 => s.putMasked off 0x000FFFFFFFFFF01F v
    | 0x2028 => s.putMasked off 0xFFFFFFFF v
    | 0x2038 => s.clearOnes off 3 v
    | _ => s)

end Sys2Proof.Machine
end

