-- ==== Sys2Proof/Machine/Repair.lean ====
section
/-!
DEFINITION. Error correction of DRAM, the patrol scrubber, and the repair that withdraws a pseudo-channel (04_dram_l2 R77 to R83).
-/

namespace Sys2Proof.Machine

def mrepair : Nat := 0x0008

/-- The pseudo-channel is out of service. -/
def State.dead (s : State) (n : Nat) : Bool := (s.reg (mpcstat n)).getLsbD 16

/-! ## The scrubber (R78) -/

/-- PATROL_SCRUB: the scrubber reads the next codeword; an HOURS of 0 stops it. -/
def execPatrolScrub (s : State) : Host.Outcome State Fault Refusal :=
  if s.field 0x0018 0 8 = 0 ∨ s.cap = 0 then .next s
  else
    let c := s.scrubNext % (s.cap / 64)
    let s := (readCodeword c s).2
    if c + 1 < s.cap / 64 then .next { s with scrubNext := c + 1 }
    else .next ({ s with scrubNext := 0 }.setField 0x0018 32 32 (s.field 0x0018 32 32 + 1))

/-- MPCSTAT_CLR: a write of MPCSTAT n clears CEHI, zeroes CECNT and sets CETH. A dead channel's CECNT is kept. -/
def execMpcstatClr (n : Nat) (v : Dword) (s : State) : Host.Outcome State Fault Refusal :=
  if 1024 ≤ n then .next s
  else
    let s := (s.putMasked (mpcstat n) 0xFF000000 v).clearOnes (mpcstat n) 0x20000 v
    .next (if v.getLsbD 18 && !s.dead n then s.setField (mpcstat n) 0 16 0 else s)

/-! ## Repair (R79 to R82) -/

/-- MREPAIR_PEND: the firmware asks for a repair. -/
def execMrepairPend (pcn : Nat) (s : State) : Host.Outcome State Fault Refusal :=
  if 1024 ≤ pcn ∨ s.repairing then .next s
  else .next (((s.setField mrepair 0 10 pcn).setBit mrepair 17).raise evRepPend)

/-- The request is refused with its code. -/
def refuseRepair (code : Nat) (s : State) : State :=
  ((((s.setBit mrepair 20).setField mrepair 21 3 code).setField mrepair 16 1 0).setField mrepair 17 1 0).raise evRepFail

/-- The granted repair begins: every running context is pre-empted to its image. -/
def beginRepair (s : State) : State :=
  let s := s.setBit mrepair 18
  s.teams.foldl (fun s x => preemptTeam s x.1) s

/-- MREPAIR_GRANT: a host's write of MREPAIR (R80 step 2, R82). -/
def execMrepairGrant (v : Dword) (s : State) : Host.Outcome State Fault Refusal :=
  let s := s.clearOnes mrepair 0x180000 v
  if s.repairing then .next s
  else
    let s := s.putMasked mrepair 0x103FF v
    if !v.getLsbD 16 then .next s
    else if s.dead (s.field mrepair 0 10) then .next (refuseRepair 1 s)
    else if s.field 0 0 11 ≤ 768 then .next (refuseRepair 2 s)
    else .next (beginRepair s)

/-! ## The end of a repair (R80 steps 4 to 8, R81) -/

/-- Every context stands in its images, and no coherence transaction is open. -/
def State.quiet (s : State) : Bool :=
  s.teams.all (fun x => !x.2.status.onCore) && s.coh.txns.isEmpty && s.coh.msgs.isEmpty && s.coh.waiting.isEmpty && s.coh.wbuf.isEmpty

/-- Every L1 line is written back and invalidated, and the write-backs reach their homes. -/
def dropAllL1 (s : State) : State :=
  let holders := (s.cores.map fun c => c.1) ++ s.coh.l1.map fun l => l.core
  drive (fun s => s.still && s.coh.waiting.isEmpty) (fun _ => true) driveFuel (holders.dedup.foldl dropL1 s)

/-- The caches are written back, and the directory, the snoop filters and what they cover are emptied; no slice holds a block of a home
that is about to move (R80 step 4). -/
def emptyCaches (s : State) : State :=
  let s := dropAllL1 s
  let s := (s.clusters.map fun x => x.1).foldl (fun s c => s.modCluster c fun x => { x with tlb := [], icache := [] }) s
  { s with coh := { s.coh with dir := [], l2 := [] } }

/-- The remap table leaves the channel out: LIVE falls, and what lies at or above the new CAP stops existing. -/
def withdraw (pcn : Nat) (s : State) : State :=
  let live := s.field 0 0 11
  let s := { s with repair := { s.repair with done := s.repair.done ++ [(pcn, live)] } }
  let s := (s.setField 0 0 11 (live - 1)).setField 0 32 20 (768 * (live - 1))
  let s := (s.setBit (mpcstat pcn) 16).setField 0x0010 0 32 (s.field 0x0010 0 32 + 1)
  let upsets := s.upsets.filter fun u => match u with
    | .dram pa _ => decide (pa < s.cap)
    | _ => true
  { s with mem := s.mem.filter (fun e => decide (e.1 < s.cap)), upsets := upsets
           sweepNext := if s.sweepNext < s.cap / 16384 then s.sweepNext else 0 }

/-- REPAIR_COPY_DONE: the channel's data has reached its new locations; the capacity changes, and placement resumes. -/
def execRepairCopyDone (s : State) : Host.Outcome State Fault Refusal :=
  if !s.repairing || !s.quiet then .next s
  else
    let s0 := s
    let s := withdraw (s.field mrepair 0 10) (emptyCaches s)
    let s := (if s.viral then s else { s with hostOut := s.hostOut ++ [.event (BitVec.ofNat 32 (s.field 0x0010 0 32)) (s.field 0 32 20)] }).raise evCapChg
    let s := ((s.setField mrepair 16 3 0).setField mrepair 18 1 0).setBit mrepair 19
    taken s0 (outcomeOf (s.raise evRepDone).serveHeld)

end Sys2Proof.Machine
end

