-- ==== Sys2Proof/Machine/Window.lean ====
section
/-!
DEFINITION. The management window and the aperture (20_host_fabric R443 to R446, 00_scope R6): reads by offset, writes by access code, and
MSI-X vectors.
-/

namespace Sys2Proof.Machine

/-! ## MSI-X (R444) -/

/-- A vector whose event waits sends its one message once it may. -/
def sendPending (port vec : Nat) (s : State) : State :=
  let off := msixPending port vec
  if s.viral || !(s.reg off).getLsbD (vec % 64) || s.msixMasked port vec || !(s.reg (msixControl port)).getLsbD 0 then s
  else
    let s := s.setField off (vec % 64) 1 0
    { s with hostOut := s.hostOut ++ [.msix port vec] }

/-- MSIX_VECTOR_UNMASK: the mask bit of a table entry is cleared. -/
def execMsixVectorUnmask (port vec : Nat) (s : State) : Host.Outcome State Fault Refusal :=
  if 2 ≤ port ∨ 2048 ≤ vec then .next s
  else .next (sendPending port vec (s.setField (msixEntry port vec + 8) 32 1 0))

/-! ## Reads (R446) -/

def bootstat : Nat := 0xB030
def portstat : Nat := 0xB008
def attctl : Nat := 0xE240

/-- Eight bytes of a byte string kept as a number, first byte most significant. -/
def stringWord (n v j : Nat) : Dword := leDword (((beBytes n v).drop (8 * j)).take 8)

/-- The public half of the identity key. -/
def identityPublic : Nat :=
  match ecTimes Config.identityKey (some ecG) with
  | some (x, y) => x * 2 ^ 384 + y
  | none => 0

/-- The value that a read of a 64-bit register of the window returns. Write-only registers read zero. -/
def State.windowRead (s : State) (off : Nat) : Dword :=
  if off = bootstat then BitVec.ofNat 64 (s.field bootstat 0 2 + 256 * s.ident.fwver.toNat)
  else if off = 0xB010 then withBits (s.reg off) 32 16 (Config.measuredDraw s.freeTick)
  else if 0xE000 ≤ off ∧ off < 0xE060 then stringWord 96 identityPublic ((off - 0xE000) / 8)
  else if 0xE100 ≤ off ∧ off < 0xE1C0 then stringWord 48 (s.ident.meas.getD ((off - 0xE100) / 48) 0).toNat ((off - 0xE100) % 48 / 8)
  else if 0xE280 ≤ off ∧ off < 0xE2E0 then stringWord 96 s.ident.sig.toNat ((off - 0xE280) / 8)
  else s.reg off

/-! ## Writes (R6) -/

/-- The port whose MSI-X structures lie at an offset, and the offset within them. -/
def msixPart (off : Nat) : Option (Nat × Nat) :=
  if 0x400000 ≤ off ∧ off < 0x408000 then some (0, off - 0x400000)
  else if 0x480000 ≤ off ∧ off < 0x488000 then some (1, off - 0x480000)
  else none

/-- MODID_WRITE: ignored while any plait link is up. -/
def execModidWrite (v : Dword) (s : State) : Host.Outcome State Fault Refusal :=
  if (List.range 16).any s.linkUp then .next s else .next (s.putMasked 0xB020 0xFFF v)

/-- Registers with no row of their own, by their access codes. -/
def State.plainWrite (s : State) (off : Nat) (v : Dword) : State :=
  let indexed := fun (base step n : Nat) => decide (base ≤ off) && decide (off < base + step * n)
  match off with
  | 0x0018 => s.putMasked off 0xFF v
  | 0x3038 => s.clearOnes off 0xB v
  | 0xA000 => s.putMasked off 0xFFFFFFFF v
  | 0xB008 => s.clearOnes off 4 v
  | 0xB010 => s.putMasked off 0xFFFF v
  | 0xB018 => s.putMasked off 0xFFFFF v
  | 0xB048 => s.putMasked off 0x000FFFFFFFFFF000 v
  | 0xB050 => (s.putMasked off 0xF v).clearOnes off 0x100 v
  | 0xB060 => s.clearOnes off 0x7F v
  | 0xE240 => s.clearOnes off 4 v
  | 0x1000000 => s.putMasked off 3 v
  | 0x1000008 => s.putMasked off 3 v
  | _ =>
    if indexed 0x10000 8 4096 && off % 8 == 0 then s.putMasked off 0xFFFFFFFFFFFFFFFD v
    else if indexed 0x4000 16 1024 && off % 16 == 8 then s.clearOnes off 2 v
    else if indexed 0xC000 64 16 && off % 64 == 0 then s.putMasked off 0xF7 v
    else if indexed 0xD000 32 16 then
      match off % 32 with
      | 0 => s.putMasked off 0xFFF003 v
      | 8 => s.putMasked off 0xFFFFFFFFFFFFC000 v
      | 16 => s.putMasked off 0x0000FFFFFFFFC000 v
      | _ => s
    else if indexed 0x18000 8 4096 && off % 8 == 0 then s.putMasked off 0xFFFF v
    else if indexed 0xE200 8 6 && off % 8 == 0 then if (s.reg attctl).getLsbD 1 then s else s.setReg off v
    else if indexed 0x200000 128 16384 && off % 128 == 16 then s.clearOnes off 0x100000000 v
    else match msixPart off with
      | some (port, o) =>
        if o % 16 = 0 then s.putMasked off 0xFFFFFFFFFFFFFFFC v
        else if o % 16 = 8 then sendPending port (o / 16) (s.putMasked off 0x1FFFFFFFF v)
        else s
      | none => s

/-- An enable or a function mask of MSI-X has changed: waiting vectors that may be sent now are. -/
def sendWaiting (port : Nat) (s : State) : State :=
  (s.mgmt.filter fun e => decide (msixPending port 0 ≤ e.1) && decide (e.1 < msixPending port 0 + 256)).foldl (fun s e =>
    (List.range 64).foldl (fun s j => if e.2.getLsbD j then sendPending port (8 * (e.1 - msixPending port 0) + j) s else s) s) s

/-- REGISTER_WRITE: a register with no row of its own; a write to one that has a row does what that row says, but for the commands that
need to know their port. -/
def execRegisterWrite (off : Nat) (v : Dword) (s : State) : Host.Outcome State Fault Refusal :=
  if 0x2000 ≤ off ∧ off ≤ 0x2038 then execTranslationConfigWrite off v s
  else if off = mrepair then execMrepairGrant v s
  else if 0x20000 ≤ off ∧ off < 0x22000 ∧ off % 8 = 0 then execMpcstatClr ((off - 0x20000) / 8) v s
  else if off = 0x3000 ∨ off = 0x3008 then execImagePoolWrite off v s
  else if off = 0x3018 then execFqresume v s
  else if off = 0x3020 then execFqdiscard v s
  else if off = 0x3028 then execCtxstop v s
  else if off = 0x3030 then execCtxgo v s
  else if off = 0xB020 then execModidWrite v s
  else if 0x4000 ≤ off ∧ off < 0x8000 ∧ off % 16 = 0 then execCbroleWrite ((off - 0x4000) / 16) v s
  else if 0x200000 ≤ off ∧ off < 0x400000 ∧ off % 128 = 0 then execQcfgWrite ((off - 0x200000) / 128) v s
  else if 0x200000 ≤ off ∧ off < 0x400000 ∧ off % 128 = 8 then execQbaseWrite ((off - 0x200000) / 128) v s
  else if 0x200000 ≤ off ∧ off < 0x400000 ∧ 64 ≤ off % 128 then execQpost ((off - 0x200000) / 128) 8 0 s  -- not one 64-byte write (R358)
  else if off = msixControl 0 ∨ off = msixControl 1 then .next (sendWaiting ((off - msixControl 0) / 8) (s.plainWrite off v))
  else .next (s.plainWrite off v)

/-! ## The aperture (R443) -/

/-- The module answers at its aperture: it has core power and has been brought up. -/
def State.apertureOpen (s : State) : Bool := s.powered && s.field bootstat 0 2 == 1

/-- An access of one to eight bytes inside the aperture. -/
def apertureFits (off bytes : Nat) : Bool := decide (1 ≤ bytes) && decide (bytes ≤ 8) && decide (off + bytes ≤ 2 ^ 32)

/-- APERTURE_READ: after the accesses that wait (14_consistency R330). -/
def execApertureRead (off bytes : Nat) (s : State) : Host.Outcome State Fault Refusal :=
  if !s.apertureOpen || !apertureFits off bytes || s.viral then .next s
  else outcomeOf (s.hostAccess (.read off bytes))

/-- APERTURE_WRITE: held during a repair pause (04_dram_l2 R80). -/
def execApertureWrite (off bytes : Nat) (v : Dword) (s : State) : Host.Outcome State Fault Refusal :=
  if !s.apertureOpen || !apertureFits off bytes then .next s
  else outcomeOf (s.hostAccess (.write off bytes v))

end Sys2Proof.Machine
end

