-- ==== Sys2Proof/Machine/Host.lean ====
section
/-!
DEFINITION. The commands of the management sequencer, ports, module reset and bring-up, firmware, attestation and power (20_host_fabric
R445, R446, R452 to R458).
-/

namespace Sys2Proof.Machine

/-! ## MSEM and the ports (R445, R446) -/

def msem : Nat := 0xB000

/-- The port's link is up. -/
def State.portUp (s : State) (port : Nat) : Bool := decide (port < 2) && (s.reg portstat).getLsbD port

/-- MSEM_TAKE: the writing port becomes the owner when there is none. -/
def execMsemTake (port : Nat) (s : State) : Host.Outcome State Fault Refusal :=
  if s.portUp port && s.field msem 0 2 == 0 then .next (s.setField msem 0 2 (port + 1)) else .next s

def freeMsem (port : Nat) (s : State) : State := if s.field msem 0 2 = port + 1 then s.setField msem 0 2 0 else s

/-- MSEM_GIVE: from the owner. -/
def execMsemGive (port : Nat) (s : State) : Host.Outcome State Fault Refusal := .next (if port < 2 then freeMsem port s else s)

/-- A command is accepted only from the port that holds MSEM; another port's is discarded with CMDERR. -/
def command (port : Nat) (act : State → State) (s : State) : Host.Outcome State Fault Refusal :=
  if !s.portUp port then .next s
  else if s.field msem 0 2 = port + 1 then .next (act s) else .next (s.setBit portstat 2)

/-- PORT_LINK_DOWN: MSEM is freed at once when the port holds it. -/
def execPortLinkDown (port : Nat) (s : State) : Host.Outcome State Fault Refusal :=
  if port < 2 then .next (freeMsem port (s.setField portstat port 1 0)) else .next s

/-! ## Reset and bring-up (R453, R454) -/

/-- A measurement register extended with a digest (R457). -/
def extend (m x : BitVec 384) : BitVec 384 := BitVec.ofNat 384 (beNat (sha384 (beBytes 48 m.toNat ++ beBytes 48 x.toNat)))

/-- The firmware in flash verifies: the factory's does, and another was checked when it was written (R455). -/
def Flash.verifies (f : Flash) : Bool :=
  !f.bad && match f.version with
    | none => true
    | some v => decide (Config.minFwVersion ≤ v)

/-- The version and the digest of the firmware in flash. -/
def Flash.fwver (f : Flash) : BitVec 16 := BitVec.ofNat 16 (f.version.getD Config.factoryVersion)
def Flash.fwdigest (f : Flash) : Nat := f.digest.getD Config.factoryDigest

/-- MEAS3's digest covers the versions to which the links have trained, none when bring-up extends it. -/
def trainedVersions (s : State) : Nat := (List.range 16).foldl (fun n l => n + s.field (plstat l) 4 4 * 16 ^ l) 0

def measured (s : State) : List (BitVec 384) :=
  [Config.romDigest, s.flash.fwdigest, Config.fuseSettings, Config.linkVersions (trainedVersions s)].map fun x =>
    extend 0 (BitVec.ofNat 384 x)

/-- An enabled plait link begins to train: it sends its offer (R447). -/
def trainLink (s : State) (l : Nat) : State :=
  if !(s.reg (plctl l)).getLsbD 0 then s
  else (s.setField (plstat l) 0 2 1).send l { Flit.blank with typ := 0x7E, op1 := BitVec.ofNat 128 (s.offers l + 256 * s.modid) }

/-- Every register at its reset value, and nothing in any queue, cache or memory. What is fused or in flash, and the order of what is to
happen, remain. -/
def clearModule (s : State) : State :=
  let t : State := { State.reset with agenda := s.agenda, cur := s.cur, freeTick := s.freeTick, flash := s.flash, repair := s.repair, upsets := s.upsets }
  let live := 1024 - s.repair.done.length
  let t := if s.repair.done.isEmpty then t else (t.setField 0 0 11 live).setField 0 32 20 (768 * live)
  s.repair.done.foldl (fun t x => t.setBit (mpcstat x.1) 16) t

/-- Bring-up. -/
def bringUp (s : State) : State :=
  if !s.flash.verifies then (s.setField bootstat 0 2 2).raise evBoot
  else
    let s := { s with ident := { s.ident with fwver := s.flash.fwver, meas := measured s } }
    let s := (List.range 16).foldl trainLink s
    (s.setField bootstat 0 2 1).raise evBoot

/-- MODULE_RESET: power-on, a fundamental reset of both ports, or MRESET. -/
def execModuleReset (s : State) : Host.Outcome State Fault Refusal := .next (bringUp (clearModule s))

/-- MRESET (R453): KEY 0x5A3C. -/
def execMreset (port : Nat) (v : Dword) (s : State) : Host.Outcome State Fault Refusal :=
  command port (fun s => if bitsOf v 0 16 = 0x5A3C then bringUp (clearModule s) else s) s

/-! ## Firmware (R455, R456) -/

def imageNat (h : List Byte) (off n : Nat) : Nat := leNat ((h.drop off).take n)
def zeroBytes (h : List Byte) (off n : Nat) : Bool := ((h.drop off).take n).all fun b => b == 0

/-- The header's own fields are right. -/
def headerOk (h : List Byte) : Bool :=
  imageNat h 0 4 == 0x4E4C5846 && imageNat h 4 4 == 1 && imageNat h 8 4 / 65536 == 0 && zeroBytes h 0x0C 4
    && imageNat h 0x10 8 % 4096 == 0 && decide (imageNat h 0x10 8 ≤ 64 * 2 ^ 20) && zeroBytes h 0x18 56 && zeroBytes h 0xE0 288

/-- The vendor key's hash is the fused one. -/
def vendorKeyOk : Bool := beNat (sha384 (beBytes 48 Config.vendorKeyX ++ beBytes 48 Config.vendorKeyY)) == Config.vendorKeyHash

/-- The image that stands at an address, none when its header is not right or it does not fit below CAP. -/
def readImage (s : State) (a : Nat) : List Byte × State :=
  if !s.exists a 512 then ([], s)
  else
    let (h, s) := s.homeRead a 512
    let len := imageNat h 0x10 8
    if !headerOk h || !s.exists (a + 512) len then ([], s)
    else
      let (b, s) := s.homeRead (a + 512) len
      (h ++ b, s)

/-- The digest and the version of an image that is accepted. -/
def verifyImage (img : List Byte) : Option (Nat × Nat) :=
  if img.isEmpty then none
  else
    let digest := sha384 (img.take 0x50 ++ img.drop 512)
    let z := beNat digest
    let sig := fun (o : Nat) => beNat ((img.drop o).take 48)
    let version := imageNat img 8 4
    if digest == (img.drop 0x50).take 48 && vendorKeyOk && ecdsaVerify Config.vendorKeyX Config.vendorKeyY z (sig 0x80) (sig 0xB0)
        && decide (Config.minFwVersion ≤ version) then some (z, version)
    else none

/-- FWUPD: an image that verifies is written to flash; it runs after the next reset. -/
def execFwupd (port : Nat) (v : Dword) (s : State) : Host.Outcome State Fault Refusal :=
  taken s (command port (fun s =>
    let (img, s) := readImage s (bitsOf v 12 40 * 4096)
    match verifyImage img with
    | some (z, version) => { s with flash := { digest := some z, version := some version } }
    | none => s) s)

/-! ## Attestation (R457) -/

/-- The digest that is signed. -/
def attestDigest (s : State) : BitVec 384 :=
  let nonce := (List.range 6).flatMap fun j => leBytes 8 (s.reg (0xE200 + 8 * j)).toNat
  let meas := s.ident.meas.flatMap fun m => beBytes 48 m.toNat
  BitVec.ofNat 384 (beNat (sha384 (nonce ++ meas ++ leBytes 2 s.modid ++ leBytes 4 (s.field 0x0010 0 32) ++ leBytes 8 (s.reg vstat).toNat)))

/-- ATTCTL_GO: signing begins. -/
def execAttctlGo (port : Nat) (s : State) : Host.Outcome State Fault Refusal :=
  command port (fun s =>
    if (s.reg attctl).getLsbD 1 then s else { (s.setBit attctl 1) with ident := { s.ident with digest := attestDigest s } }) s

/-- ATTEST_DONE: ATTSIG holds r then s. -/
def execAttestDone (s : State) : Host.Outcome State Fault Refusal :=
  if !(s.reg attctl).getLsbD 1 then .next s
  else
    let z := s.ident.digest.toNat
    let (r, t) := ecdsaSign Config.identityKey (Config.signNonce z) z
    let s := { s with ident := { s.ident with sig := BitVec.ofNat 768 (r * 2 ^ 384 + t) } }
    .next ((s.setField attctl 1 1 0).setBit attctl 2)

/-! ## A debugger's walk (R452) -/

/-- The team that CTXSTOP stopped whose image stands at an address. -/
def State.stoppedAt (s : State) (image : Nat) : Option Nat :=
  (s.teams.find? fun x => x.2.status == .parked 2 && x.2.image == image).map fun x => x.1

/-- The weft's entry takes REVT and DIR, and its PC where the walk begins; a target at the present IC takes no step. -/
def debugWalk (s : State) (t i : Nat) (target : Dword) : State :=
  let k := 16 * t + i
  let w := s.weft k
  let entry := (s.team t).image + 0x2400 + 256 * i
  if w.flow.dir then
    let f : Flow := { w.flow with revT := target }
    (s.setWeft k { w with flow := f }).homeWrite (entry + 0x48) (dw target)
  else if target = w.flow.ic then s
  else
    let pc0 := resumePc false w
    let w1 := if w.trap.handler then rejoinAll w else w
    let s := beginWalk (s.setWeft k { w1 with hold := none }) k (if w.trap.handler then w.trap.resume else pc0) target
    let w2 := s.weft k
    let s := if s.cohDword entry = pc0 then s.homeWrite entry (dw w2.flow.pc) else s
    (s.homeWrite (entry + 0x48) (dw target)).homeWrite (entry + 0x8C) (le4 (stateWord w2))

/-- DBGREV2: refused with ERR, or the walk is set up. -/
def debugReverse (v : Dword) (s : State) : State :=
  let i := s.field 0xB050 0 4
  match s.stoppedAt (s.field 0xB048 12 40 * 4096) with
  | none => s.setBit 0xB050 8
  | some t =>
    let k := 16 * t + i
    let w := s.weft k
    if (s.team t).nwefts ≤ i ∨ w.status ≠ .live ∨ w.flow.ic.toNat < v.toNat ∨ v.toNat < (s.walkFloor k).toNat then s.setBit 0xB050 8
    else debugWalk s t i v

/-- DBGREV2 (R452) -/
def execDbgrev2 (port : Nat) (v : Dword) (s : State) : Host.Outcome State Fault Refusal :=
  taken s (command port (debugReverse v) s)

/-! ## Power (R458), and the loss of the sequencer (19_reliability R440) -/

/-- POWER_CAP_EXCEEDED: the core clock is lowered; only timing changes. -/
def execPowerCapExceeded (s : State) : Host.Outcome State Fault Refusal := .next s

/-- THERMAL_TRIP: core power is removed until a module reset. -/
def execThermalTrip (s : State) : Host.Outcome State Fault Refusal := .next { s with powered := false }

/-- MANAGEMENT_SEQUENCER_LOSS: the module becomes viral. -/
def execManagementSequencerLoss (s : State) : Host.Outcome State Fault Refusal := .next (s.goViral 8 0)

end Sys2Proof.Machine
end

