-- ==== Sys2Proof/Machine/Dispatch.lean ====
section
/-!
DEFINITION. One arm for every constructor: the one call of its meaning.
-/

namespace Sys2Proof.Machine

def exec (i : Instr) (s : State) : Host.Outcome State Fault Refusal :=
  match i with
  | .clauseStart k => Sys2Proof.Machine.execClauseStart k s
  | .periodicSwapOpportunity core => Sys2Proof.Machine.execPeriodicSwapOpportunity core s
  | .flagACompletion k j => Sys2Proof.Machine.execFlagACompletion k j s
  | .storeEntry k => Sys2Proof.Machine.execStoreEntry k s
  | .storeOrderPoint k j l => Sys2Proof.Machine.execStoreOrderPoint k j l s
  | .fenceComplete k => Sys2Proof.Machine.execFenceComplete k s
  | .functionResult k j => Sys2Proof.Machine.execFunctionResult k j s
  | .waitfRelease k => Sys2Proof.Machine.execWaitfRelease k s
  | .matrixSwap core team => Sys2Proof.Machine.execMatrixSwap core team s
  | .mmaComplete core j => Sys2Proof.Machine.execMmaComplete core j s
  | .copyAccept core => Sys2Proof.Machine.execCopyAccept core s
  | .copyElementLand core j => Sys2Proof.Machine.execCopyElementLand core j s
  | .tsweepComplete core j => Sys2Proof.Machine.execTsweepComplete core j s
  | .tfetchComplete core j => Sys2Proof.Machine.execTfetchComplete core j s
  | .accStComplete core j => Sys2Proof.Machine.execAccStComplete core j s
  | .accLdComplete core j => Sys2Proof.Machine.execAccLdComplete core j s
  | .sclLdComplete core j => Sys2Proof.Machine.execSclLdComplete core j s
  | .tfetchRerunComplete core slot => Sys2Proof.Machine.execTfetchRerunComplete core slot s
  | .responseLost k j lane => Sys2Proof.Machine.execResponseLost k j lane s
  | .savedRequestLapse peer id => Sys2Proof.Machine.execSavedRequestLapse peer id s
  | .keptValueExpiry src id => Sys2Proof.Machine.execKeptValueExpiry src id s
  | .rds agent unit => Sys2Proof.Machine.execRds agent unit s
  | .rdx agent unit => Sys2Proof.Machine.execRdx agent unit s
  | .upg agent unit => Sys2Proof.Machine.execUpg agent unit s
  | .wbd agent unit => Sys2Proof.Machine.execWbd agent unit s
  | .fwds agent unit => Sys2Proof.Machine.execFwds agent unit s
  | .fwdx agent unit => Sys2Proof.Machine.execFwdx agent unit s
  | .inv agent unit => Sys2Proof.Machine.execInv agent unit s
  | .dataS agent unit => Sys2Proof.Machine.execDataS agent unit s
  | .dataE agent unit => Sys2Proof.Machine.execDataE agent unit s
  | .dataM agent unit => Sys2Proof.Machine.execDataM agent unit s
  | .ackM agent unit => Sys2Proof.Machine.execAckM agent unit s
  | .fwdack agent unit => Sys2Proof.Machine.execFwdack agent unit s
  | .nodata agent unit => Sys2Proof.Machine.execNodata agent unit s
  | .invack agent unit => Sys2Proof.Machine.execInvack agent unit s
  | .wback agent unit => Sys2Proof.Machine.execWback agent unit s
  | .sweeperTick => Sys2Proof.Machine.execSweeperTick s
  | .patrolScrub => Sys2Proof.Machine.execPatrolScrub s
  | .mrepairPend pcn => Sys2Proof.Machine.execMrepairPend pcn s
  | .mrepairGrant v => Sys2Proof.Machine.execMrepairGrant v s
  | .repairCopyDone => Sys2Proof.Machine.execRepairCopyDone s
  | .mpcstatClr n v => Sys2Proof.Machine.execMpcstatClr n v s
  | .cbroleWrite core v => Sys2Proof.Machine.execCbroleWrite core v s
  | .bankDrainDone core => Sys2Proof.Machine.execBankDrainDone core s
  | .frameReservation team pages => Sys2Proof.Machine.execFrameReservation team pages s
  | .spadPageFill team page => Sys2Proof.Machine.execSpadPageFill team page s
  | .spadEviction team page => Sys2Proof.Machine.execSpadEviction team page s
  | .registerLineFill k line => Sys2Proof.Machine.execRegisterLineFill k line s
  | .icacheMissFill core ctx line => Sys2Proof.Machine.execIcacheMissFill core ctx line s
  | .reverseStep k => Sys2Proof.Machine.execReverseStep k s
  | .preempt team => Sys2Proof.Machine.execPreempt team s
  | .copyStopTimeout core j => Sys2Proof.Machine.execCopyStopTimeout core j s
  | .saveComplete team => Sys2Proof.Machine.execSaveComplete team s
  | .teamRestore team core => Sys2Proof.Machine.execTeamRestore team core s
  | .cpTakeRecord cp => Sys2Proof.Machine.execCpTakeRecord cp s
  | .launchExpand j => Sys2Proof.Machine.execLaunchExpand j s
  | .taskDeal j => Sys2Proof.Machine.execTaskDeal j s
  | .taskStart core => Sys2Proof.Machine.execTaskStart core s
  | .coreSteal core => Sys2Proof.Machine.execCoreSteal core s
  | .taskEnd team => Sys2Proof.Machine.execTaskEnd team s
  | .joinAppend j => Sys2Proof.Machine.execJoinAppend j s
  | .joinAppendTimeout j => Sys2Proof.Machine.execJoinAppendTimeout j s
  | .queueHoldRelease k => Sys2Proof.Machine.execQueueHoldRelease k s
  | .qputTimeout k => Sys2Proof.Machine.execQputTimeout k s
  | .domainAdmit => Sys2Proof.Machine.execDomainAdmit s
  | .dsyncGrant k => Sys2Proof.Machine.execDsyncGrant k s
  | .turnClose dom => Sys2Proof.Machine.execTurnClose dom s
  | .dclkRelease k => Sys2Proof.Machine.execDclkRelease k s
  | .flushPoint dom => Sys2Proof.Machine.execFlushPoint dom s
  | .segmentCompare k => Sys2Proof.Machine.execSegmentCompare k s
  | .clusterRebuild cluster => Sys2Proof.Machine.execClusterRebuild cluster s
  | .rebuildComplete cluster => Sys2Proof.Machine.execRebuildComplete cluster s
  | .watchdogWeft k => Sys2Proof.Machine.execWatchdogWeft k s
  | .watchdogCluster cluster => Sys2Proof.Machine.execWatchdogCluster cluster s
  | .watchdogCmdp cp => Sys2Proof.Machine.execWatchdogCmdp cp s
  | .watchdogHang k => Sys2Proof.Machine.execWatchdogHang k s
  | .faultEntryWrite j => Sys2Proof.Machine.execFaultEntryWrite j s
  | .fqHeadPoll ctx => Sys2Proof.Machine.execFqHeadPoll ctx s
  | .faultReportDrop j => Sys2Proof.Machine.execFaultReportDrop j s
  | .fqresume v => Sys2Proof.Machine.execFqresume v s
  | .fqdiscard v => Sys2Proof.Machine.execFqdiscard v s
  | .ctxstop v => Sys2Proof.Machine.execCtxstop v s
  | .ctxgo v => Sys2Proof.Machine.execCtxgo v s
  | .translationConfigWrite off v => Sys2Proof.Machine.execTranslationConfigWrite off v s
  | .imagePoolWrite off v => Sys2Proof.Machine.execImagePoolWrite off v s
  | .qcfgWrite q v => Sys2Proof.Machine.execQcfgWrite q v s
  | .qbaseWrite q v => Sys2Proof.Machine.execQbaseWrite q v s
  | .qpost q bytes rec => Sys2Proof.Machine.execQpost q bytes rec s
  | .msemTake port => Sys2Proof.Machine.execMsemTake port s
  | .msemGive port => Sys2Proof.Machine.execMsemGive port s
  | .mreset port v => Sys2Proof.Machine.execMreset port v s
  | .fwupd port v => Sys2Proof.Machine.execFwupd port v s
  | .attctlGo port => Sys2Proof.Machine.execAttctlGo port s
  | .attestDone => Sys2Proof.Machine.execAttestDone s
  | .dbgrev2 port v => Sys2Proof.Machine.execDbgrev2 port v s
  | .modidWrite v => Sys2Proof.Machine.execModidWrite v s
  | .registerWrite off v => Sys2Proof.Machine.execRegisterWrite off v s
  | .apertureRead off bytes => Sys2Proof.Machine.execApertureRead off bytes s
  | .apertureWrite off bytes v => Sys2Proof.Machine.execApertureWrite off bytes v s
  | .portLinkDown port => Sys2Proof.Machine.execPortLinkDown port s
  | .moduleReset => Sys2Proof.Machine.execModuleReset s
  | .powerCapExceeded => Sys2Proof.Machine.execPowerCapExceeded s
  | .thermalTrip => Sys2Proof.Machine.execThermalTrip s
  | .rld8 link f => Sys2Proof.Machine.execRld8 link f s
  | .rld16 link f => Sys2Proof.Machine.execRld16 link f s
  | .rst8 link f => Sys2Proof.Machine.execRst8 link f s
  | .rst16 link f => Sys2Proof.Machine.execRst16 link f s
  | .raddFlit link f => Sys2Proof.Machine.execRaddFlit link f s
  | .rcas link f => Sys2Proof.Machine.execRcas link f s
  | .rxch link f => Sys2Proof.Machine.execRxch link f s
  | .rdata link f => Sys2Proof.Machine.execRdata link f s
  | .rack link f => Sys2Proof.Machine.execRack link f s
  | .rerr link f => Sys2Proof.Machine.execRerr link f s
  | .idle link f => Sys2Proof.Machine.execIdle link f s
  | .nak link f => Sys2Proof.Machine.execNak link f s
  | .train link f => Sys2Proof.Machine.execTrain link f s
  | .linkFail link => Sys2Proof.Machine.execLinkFail link s
  | .mmaOperandReadDone core j => Sys2Proof.Machine.execMmaOperandReadDone core j s
  | .illegalEncoding w => Sys2Proof.Machine.execIllegalEncoding w s
  | .flitCheckFailure link f => Sys2Proof.Machine.execFlitCheckFailure link f s
  | .unknownFlitType link f => Sys2Proof.Machine.execUnknownFlitType link f s
  | .msixVectorUnmask port vec => Sys2Proof.Machine.execMsixVectorUnmask port vec s
  | .managementSequencerLoss => Sys2Proof.Machine.execManagementSequencerLoss s
  | .add p u d a b => Sys2Proof.Machine.execAdd p u d a b s
  | .sub p u d a b => Sys2Proof.Machine.execSub p u d a b s
  | .and p u d a b => Sys2Proof.Machine.execAnd p u d a b s
  | .or p u d a b => Sys2Proof.Machine.execOr p u d a b s
  | .xor p u d a b => Sys2Proof.Machine.execXor p u d a b s
  | .andn p u d a b => Sys2Proof.Machine.execAndn p u d a b s
  | .minI p u d a b => Sys2Proof.Machine.execMinI p u d a b s
  | .maxI p u d a b => Sys2Proof.Machine.execMaxI p u d a b s
  | .shl p u d a b => Sys2Proof.Machine.execShl p u d a b s
  | .shr p u d a b => Sys2Proof.Machine.execShr p u d a b s
  | .sar p u d a b => Sys2Proof.Machine.execSar p u d a b s
  | .rol p u d a b => Sys2Proof.Machine.execRol p u d a b s
  | .ror p u d a b => Sys2Proof.Machine.execRor p u d a b s
  | .minN p u d a b => Sys2Proof.Machine.execMinN p u d a b s
  | .maxN p u d a b => Sys2Proof.Machine.execMaxN p u d a b s
  | .adif p u d a b => Sys2Proof.Machine.execAdif p u d a b s
  | .mul p u d a b => Sys2Proof.Machine.execMul p u d a b s
  | .mulhI p u d a b => Sys2Proof.Machine.execMulhI p u d a b s
  | .mulhN p u d a b => Sys2Proof.Machine.execMulhN p u d a b s
  | .divI p u d a b => Sys2Proof.Machine.execDivI p u d a b s
  | .divN p u d a b => Sys2Proof.Machine.execDivN p u d a b s
  | .remI p u d a b => Sys2Proof.Machine.execRemI p u d a b s
  | .remN p u d a b => Sys2Proof.Machine.execRemN p u d a b s
  | .mad p u d a b => Sys2Proof.Machine.execMad p u d a b s
  | .addx p u d a => Sys2Proof.Machine.execAddx p u d a s
  | .subx p u d a => Sys2Proof.Machine.execSubx p u d a s
  | .xorx p u d a => Sys2Proof.Machine.execXorx p u d a s
  | .rolx p u d a => Sys2Proof.Machine.execRolx p u d a s
  | .rorx p u d a => Sys2Proof.Machine.execRorx p u d a s
  | .negx p u d => Sys2Proof.Machine.execNegx p u d s
  | .notx p u d => Sys2Proof.Machine.execNotx p u d s
  | .mulx p u d a => Sys2Proof.Machine.execMulx p u d a s
  | .swap p u d a => Sys2Proof.Machine.execSwap p u d a s
  | .cswap p u d a => Sys2Proof.Machine.execCswap p u d a s
  | .clz p u d a => Sys2Proof.Machine.execClz p u d a s
  | .popc p u d a => Sys2Proof.Machine.execPopc p u d a s
  | .brev p u d a => Sys2Proof.Machine.execBrev p u d a s
  | .sel p u d a b => Sys2Proof.Machine.execSel p u d a b s
  | .mov p u d a => Sys2Proof.Machine.execMov p u d a s
  | .bfx p u d a b => Sys2Proof.Machine.execBfx p u d a b s
  | .cmpEq p u d a b => Sys2Proof.Machine.execCmpEq p u d a b s
  | .cmpNe p u d a b => Sys2Proof.Machine.execCmpNe p u d a b s
  | .cmpLtI p u d a b => Sys2Proof.Machine.execCmpLtI p u d a b s
  | .cmpLeI p u d a b => Sys2Proof.Machine.execCmpLeI p u d a b s
  | .cmpLtN p u d a b => Sys2Proof.Machine.execCmpLtN p u d a b s
  | .cmpLeN p u d a b => Sys2Proof.Machine.execCmpLeN p u d a b s
  | .cmpTst p u d a b => Sys2Proof.Machine.execCmpTst p u d a b s
  | .addi p u d a n => Sys2Proof.Machine.execAddi p u d a n s
  | .andi p u d a n => Sys2Proof.Machine.execAndi p u d a n s
  | .ori p u d a n => Sys2Proof.Machine.execOri p u d a n s
  | .xori p u d a n => Sys2Proof.Machine.execXori p u d a n s
  | .shli p u d a n => Sys2Proof.Machine.execShli p u d a n s
  | .shri p u d a n => Sys2Proof.Machine.execShri p u d a n s
  | .sari p u d a n => Sys2Proof.Machine.execSari p u d a n s
  | .roli p u d a n => Sys2Proof.Machine.execRoli p u d a n s
  | .addxi p u d n => Sys2Proof.Machine.execAddxi p u d n s
  | .xorxi p u d n => Sys2Proof.Machine.execXorxi p u d n s
  | .movi p u d n => Sys2Proof.Machine.execMovi p u d n s
  | .movhi p u d n => Sys2Proof.Machine.execMovhi p u d n s
  | .addI64 p u d a b => Sys2Proof.Machine.execAddI64 p u d a b s
  | .subI64 p u d a b => Sys2Proof.Machine.execSubI64 p u d a b s
  | .andI64 p u d a b => Sys2Proof.Machine.execAndI64 p u d a b s
  | .orI64 p u d a b => Sys2Proof.Machine.execOrI64 p u d a b s
  | .xorI64 p u d a b => Sys2Proof.Machine.execXorI64 p u d a b s
  | .shlI64 p u d a b => Sys2Proof.Machine.execShlI64 p u d a b s
  | .shrI64 p u d a b => Sys2Proof.Machine.execShrI64 p u d a b s
  | .sarI64 p u d a b => Sys2Proof.Machine.execSarI64 p u d a b s
  | .mulI64 p u d a b => Sys2Proof.Machine.execMulI64 p u d a b s
  | .mulhI64 p u d a b => Sys2Proof.Machine.execMulhI64 p u d a b s
  | .mulhN64 p u d a b => Sys2Proof.Machine.execMulhN64 p u d a b s
  | .addxI64 p u d a => Sys2Proof.Machine.execAddxI64 p u d a s
  | .subxI64 p u d a => Sys2Proof.Machine.execSubxI64 p u d a s
  | .xorxI64 p u d a => Sys2Proof.Machine.execXorxI64 p u d a s
  | .swapI64 p u d a => Sys2Proof.Machine.execSwapI64 p u d a s
  | .lea p u d a b => Sys2Proof.Machine.execLea p u d a b s
  | .addiI64 p u d a n => Sys2Proof.Machine.execAddiI64 p u d a n s
  | .lpull p d a b => Sys2Proof.Machine.execLpull p d a b s
  | .lpush p d a b => Sys2Proof.Machine.execLpush p d a b s
  | .lpullXch p d a b => Sys2Proof.Machine.execLpullXch p d a b s
  | .lpushXch p d a b => Sys2Proof.Machine.execLpushXch p d a b s
  | .lbcast p d a b => Sys2Proof.Machine.execLbcast p d a b s
  | .lxor p d a b => Sys2Proof.Machine.execLxor p d a b s
  | .lup p d a b => Sys2Proof.Machine.execLup p d a b s
  | .ldown p d a b => Sys2Proof.Machine.execLdown p d a b s
  | .lrot p d a b => Sys2Proof.Machine.execLrot p d a b s
  | .ballot p d a => Sys2Proof.Machine.execBallot p d a s
  | .any p d a => Sys2Proof.Machine.execAny p d a s
  | .all p d a => Sys2Proof.Machine.execAll p d a s
  | .matchLanes p d a => Sys2Proof.Machine.execMatchLanes p d a s
  | .mrank p d a => Sys2Proof.Machine.execMrank p d a s
  | .mlead p d a => Sys2Proof.Machine.execMlead p d a s
  | .pfxpop p d a => Sys2Proof.Machine.execPfxpop p d a s
  | .radd p d a => Sys2Proof.Machine.execRadd p d a s
  | .rmin p d a => Sys2Proof.Machine.execRmin p d a s
  | .rmax p d a => Sys2Proof.Machine.execRmax p d a s
  | .rand p d a => Sys2Proof.Machine.execRand p d a s
  | .rorRed p d a => Sys2Proof.Machine.execRorRed p d a s
  | .rxor p d a => Sys2Proof.Machine.execRxor p d a s
  | .scani p d a => Sys2Proof.Machine.execScani p d a s
  | .scanx p d a => Sys2Proof.Machine.execScanx p d a s
  | .mand p d a b => Sys2Proof.Machine.execMand p d a b s
  | .mor p d a b => Sys2Proof.Machine.execMor p d a b s
  | .mxor p d a b => Sys2Proof.Machine.execMxor p d a b s
  | .mnot p d a => Sys2Proof.Machine.execMnot p d a s
  | .mmov p d a => Sys2Proof.Machine.execMmov p d a s
  | .mpopc p d a => Sys2Proof.Machine.execMpopc p d a s
  | .mffs p d a => Sys2Proof.Machine.execMffs p d a s
  | .mset p d a => Sys2Proof.Machine.execMset p d a s
  | .fadd p t u d a b => Sys2Proof.Machine.execFadd p t u d a b s
  | .fsub p t u d a b => Sys2Proof.Machine.execFsub p t u d a b s
  | .fmul p t u d a b => Sys2Proof.Machine.execFmul p t u d a b s
  | .fdiv p t u d a b => Sys2Proof.Machine.execFdiv p t u d a b s
  | .fmin p t u d a b => Sys2Proof.Machine.execFmin p t u d a b s
  | .fmax p t u d a b => Sys2Proof.Machine.execFmax p t u d a b s
  | .ffma p t u d a b => Sys2Proof.Machine.execFfma p t u d a b s
  | .fcopysign p t u d a b => Sys2Proof.Machine.execFcopysign p t u d a b s
  | .fsqrt p t u d a => Sys2Proof.Machine.execFsqrt p t u d a s
  | .frsq p t u d a => Sys2Proof.Machine.execFrsq p t u d a s
  | .frec p t u d a => Sys2Proof.Machine.execFrec p t u d a s
  | .fabs p t u d a => Sys2Proof.Machine.execFabs p t u d a s
  | .fneg p t u d a => Sys2Proof.Machine.execFneg p t u d a s
  | .frnd p t u d a => Sys2Proof.Machine.execFrnd p t u d a s
  | .fclass p t u d a => Sys2Proof.Machine.execFclass p t u d a s
  | .fscale p t u d a b => Sys2Proof.Machine.execFscale p t u d a b s
  | .fexp p t u d a => Sys2Proof.Machine.execFexp p t u d a s
  | .fexp2 p t u d a => Sys2Proof.Machine.execFexp2 p t u d a s
  | .flog p t u d a => Sys2Proof.Machine.execFlog p t u d a s
  | .flog2 p t u d a => Sys2Proof.Machine.execFlog2 p t u d a s
  | .ferf p t u d a => Sys2Proof.Machine.execFerf p t u d a s
  | .ferfc p t u d a => Sys2Proof.Machine.execFerfc p t u d a s
  | .fncdf p t u d a => Sys2Proof.Machine.execFncdf p t u d a s
  | .ftanh p t u d a => Sys2Proof.Machine.execFtanh p t u d a s
  | .fcmpEq p t u d a b => Sys2Proof.Machine.execFcmpEq p t u d a b s
  | .fcmpNe p t u d a b => Sys2Proof.Machine.execFcmpNe p t u d a b s
  | .fcmpLt p t u d a b => Sys2Proof.Machine.execFcmpLt p t u d a b s
  | .fcmpLe p t u d a b => Sys2Proof.Machine.execFcmpLe p t u d a b s
  | .fcmpGt p t u d a b => Sys2Proof.Machine.execFcmpGt p t u d a b s
  | .fcmpGe p t u d a b => Sys2Proof.Machine.execFcmpGe p t u d a b s
  | .fcmpUn p t u d a b => Sys2Proof.Machine.execFcmpUn p t u d a b s
  | .fcmpOrd p t u d a b => Sys2Proof.Machine.execFcmpOrd p t u d a b s
  | .hadd p t u d a b => Sys2Proof.Machine.execHadd p t u d a b s
  | .hsub p t u d a b => Sys2Proof.Machine.execHsub p t u d a b s
  | .hmul p t u d a b => Sys2Proof.Machine.execHmul p t u d a b s
  | .hfma p t u d a b => Sys2Proof.Machine.execHfma p t u d a b s
  | .hmin p t u d a b => Sys2Proof.Machine.execHmin p t u d a b s
  | .hmax p t u d a b => Sys2Proof.Machine.execHmax p t u d a b s
  | .cvt p u d a pf qf => Sys2Proof.Machine.execCvt p u d a pf qf s
  | .cvtPk2 p u d a pf qf => Sys2Proof.Machine.execCvtPk2 p u d a pf qf s
  | .cvtPk4 p u d a pf qf => Sys2Proof.Machine.execCvtPk4 p u d a pf qf s
  | .cvtPk8 p u d a pf qf => Sys2Proof.Machine.execCvtPk8 p u d a pf qf s
  | .unpk2 p u d a pf qf => Sys2Proof.Machine.execUnpk2 p u d a pf qf s
  | .unpk4 p u d a pf qf => Sys2Proof.Machine.execUnpk4 p u d a pf qf s
  | .unpk8 p u d a pf qf => Sys2Proof.Machine.execUnpk8 p u d a pf qf s
  | .ld p sz u d a n => Sys2Proof.Machine.execLd p sz u d a n s
  | .st p sz u d a n => Sys2Proof.Machine.execSt p sz u d a n s
  | .lds p sz u d a n => Sys2Proof.Machine.execLds p sz u d a n s
  | .sts p sz u d a n => Sys2Proof.Machine.execSts p sz u d a n s
  | .xchg p sz u d a n => Sys2Proof.Machine.execXchg p sz u d a n s
  | .xchgs p sz u d a n => Sys2Proof.Machine.execXchgs p sz u d a n s
  | .lda p sc sz u d a n => Sys2Proof.Machine.execLda p sc sz u d a n s
  | .stl p sc sz u d a n => Sys2Proof.Machine.execStl p sc sz u d a n s
  | .cflush p u a b => Sys2Proof.Machine.execCflush p u a b s
  | .cinv p u a b => Sys2Proof.Machine.execCinv p u a b s
  | .cclean p u a b => Sys2Proof.Machine.execCclean p u a b s
  | .pref p u a b => Sys2Proof.Machine.execPref p u a b s
  | .pref1 p u a b => Sys2Proof.Machine.execPref1 p u a b s
  | .ipref p u a b => Sys2Proof.Machine.execIpref p u a b s
  | .spevict p u a b => Sys2Proof.Machine.execSpevict p u a b s
  | .fenceAcq p sc => Sys2Proof.Machine.execFenceAcq p sc s
  | .fenceRel p sc => Sys2Proof.Machine.execFenceRel p sc s
  | .fenceAr p sc => Sys2Proof.Machine.execFenceAr p sc s
  | .fenceSc p sc => Sys2Proof.Machine.execFenceSc p sc s
  | .aaddI p t u d a b => Sys2Proof.Machine.execAaddI p t u d a b s
  | .aaddF p t u d a b => Sys2Proof.Machine.execAaddF p t u d a b s
  | .aminI p t u d a b => Sys2Proof.Machine.execAminI p t u d a b s
  | .amaxI p t u d a b => Sys2Proof.Machine.execAmaxI p t u d a b s
  | .aand p t u d a b => Sys2Proof.Machine.execAand p t u d a b s
  | .aor p t u d a b => Sys2Proof.Machine.execAor p t u d a b s
  | .axor p t u d a b => Sys2Proof.Machine.execAxor p t u d a b s
  | .axch p t u d a b => Sys2Proof.Machine.execAxch p t u d a b s
  | .acasB32 p u d a b => Sys2Proof.Machine.execAcasB32 p u d a b s
  | .acasB64 p u d a b => Sys2Proof.Machine.execAcasB64 p u d a b s
  | .aaddsI32 p u d a b => Sys2Proof.Machine.execAaddsI32 p u d a b s
  | .aaddsF32 p u d a b => Sys2Proof.Machine.execAaddsF32 p u d a b s
  | .aminsI p u d a b => Sys2Proof.Machine.execAminsI p u d a b s
  | .amaxsI p u d a b => Sys2Proof.Machine.execAmaxsI p u d a b s
  | .aands p u d a b => Sys2Proof.Machine.execAands p u d a b s
  | .aors p u d a b => Sys2Proof.Machine.execAors p u d a b s
  | .axors p u d a b => Sys2Proof.Machine.execAxors p u d a b s
  | .axchs p u d a b => Sys2Proof.Machine.execAxchs p u d a b s
  | .daddI32 p u a b => Sys2Proof.Machine.execDaddI32 p u a b s
  | .daddF32 p u a b => Sys2Proof.Machine.execDaddF32 p u a b s
  | .daddF64 p u a b => Sys2Proof.Machine.execDaddF64 p u a b s
  | .dminI p u a b => Sys2Proof.Machine.execDminI p u a b s
  | .dmaxI p u a b => Sys2Proof.Machine.execDmaxI p u a b s
  | .daddI64 p u a b => Sys2Proof.Machine.execDaddI64 p u a b s
  | .ratomAdd64 p u d a b => Sys2Proof.Machine.execRatomAdd64 p u d a b s
  | .ratomCas64 p u d a b => Sys2Proof.Machine.execRatomCas64 p u d a b s
  | .ratomXch64 p u d a b => Sys2Proof.Machine.execRatomXch64 p u d a b s
  | .ratomRetry p u d a b => Sys2Proof.Machine.execRatomRetry p u d a b s
  | .rldB64 p u d a => Sys2Proof.Machine.execRldB64 p u d a s
  | .rstB64 p u d a => Sys2Proof.Machine.execRstB64 p u d a s
  | .rldB128 p u d a => Sys2Proof.Machine.execRldB128 p u d a s
  | .rstB128 p u d a => Sys2Proof.Machine.execRstB128 p u d a s
  | .bcopyG2s p d a b => Sys2Proof.Machine.execBcopyG2s p d a b s
  | .bcopyS2g p d a b => Sys2Proof.Machine.execBcopyS2g p d a b s
  | .bcopyG2g p d a b => Sys2Proof.Machine.execBcopyG2g p d a b s
  | .bcopyS2s p d a b => Sys2Proof.Machine.execBcopyS2s p d a b s
  | .bcopyV2s p d a b => Sys2Proof.Machine.execBcopyV2s p d a b s
  | .bcopyS2v p d a b => Sys2Proof.Machine.execBcopyS2v p d a b s
  | .bbInit p a b => Sys2Proof.Machine.execBbInit p a b s
  | .bbExpect p a b => Sys2Proof.Machine.execBbExpect p a b s
  | .bbArrive p a b => Sys2Proof.Machine.execBbArrive p a b s
  | .bbWait p a b => Sys2Proof.Machine.execBbWait p a b s
  | .bbTest p d a b => Sys2Proof.Machine.execBbTest p d a b s
  | .bbInval p a => Sys2Proof.Machine.execBbInval p a s
  | .tadd p d a b => Sys2Proof.Machine.execTadd p d a b s
  | .tmul p d a b => Sys2Proof.Machine.execTmul p d a b s
  | .tfma p d a b => Sys2Proof.Machine.execTfma p d a b s
  | .tmax p d a b => Sys2Proof.Machine.execTmax p d a b s
  | .tcvt p d a => Sys2Proof.Machine.execTcvt p d a s
  | .texp p d a => Sys2Proof.Machine.execTexp p d a s
  | .tfill p d a => Sys2Proof.Machine.execTfill p d a s
  | .tcopy p d a => Sys2Proof.Machine.execTcopy p d a s
  | .tfetch p d a => Sys2Proof.Machine.execTfetch p d a s
  | .tunpin p d => Sys2Proof.Machine.execTunpin p d s
  | .mma p fmt d a b => Sys2Proof.Machine.execMma p fmt d a b s
  | .mmaG p fmt d a b => Sys2Proof.Machine.execMmaG p fmt d a b s
  | .accZero p a => Sys2Proof.Machine.execAccZero p a s
  | .accRd p d a => Sys2Proof.Machine.execAccRd p d a s
  | .accWr p d a => Sys2Proof.Machine.execAccWr p d a s
  | .accSt p d a => Sys2Proof.Machine.execAccSt p d a s
  | .accLd p d a => Sys2Proof.Machine.execAccLd p d a s
  | .sclLd p d a => Sys2Proof.Machine.execSclLd p d a s
  | .sclRd p d a => Sys2Proof.Machine.execSclRd p d a s
  | .brAlways p off => Sys2Proof.Machine.execBrAlways p off s
  | .brAny p m off => Sys2Proof.Machine.execBrAny p m off s
  | .brAll p m off => Sys2Proof.Machine.execBrAll p m off s
  | .brNone p m off => Sys2Proof.Machine.execBrNone p m off s
  | .brDiv p m off => Sys2Proof.Machine.execBrDiv p m off s
  | .call p off => Sys2Proof.Machine.execCall p off s
  | .join p off => Sys2Proof.Machine.execJoin p off s
  | .nop p u => Sys2Proof.Machine.execNop p u s
  | .exit p u => Sys2Proof.Machine.execExit p u s
  | .ret p a => Sys2Proof.Machine.execRet p a s
  | .yield p => Sys2Proof.Machine.execYield p s
  | .waitf p a => Sys2Proof.Machine.execWaitf p a s
  | .brk p b => Sys2Proof.Machine.execBrk p b s
  | .trap p a => Sys2Proof.Machine.execTrap p a s
  | .jmpr p a b => Sys2Proof.Machine.execJmpr p a b s
  | .win p a => Sys2Proof.Machine.execWin p a s
  | .regld p d a k => Sys2Proof.Machine.execRegld p d a k s
  | .regst p d a k => Sys2Proof.Machine.execRegst p d a k s
  | .rev p a => Sys2Proof.Machine.execRev p a s
  | .commit p => Sys2Proof.Machine.execCommit p s
  | .ckpt p => Sys2Proof.Machine.execCkpt p s
  | .hmode p a => Sys2Proof.Machine.execHmode p a s
  | .cfrd p d => Sys2Proof.Machine.execCfrd p d s
  | .qput p d a => Sys2Proof.Machine.execQput p d a s
  | .qputNb p d a b => Sys2Proof.Machine.execQputNb p d a b s
  | .qget p d a => Sys2Proof.Machine.execQget p d a s
  | .qgetNb p d a b => Sys2Proof.Machine.execQgetNb p d a b s
  | .spawn p a => Sys2Proof.Machine.execSpawn p a s
  | .tdone p a => Sys2Proof.Machine.execTdone p a s
  | .steal p d a b => Sys2Proof.Machine.execSteal p d a b s
  | .qstat p d a => Sys2Proof.Machine.execQstat p d a s
  | .barT p a => Sys2Proof.Machine.execBarT p a s
  | .barP p a => Sys2Proof.Machine.execBarP p a s
  | .barArrive p a => Sys2Proof.Machine.execBarArrive p a s
  | .barWait p a => Sys2Proof.Machine.execBarWait p a s
  | .dsync p a => Sys2Proof.Machine.execDsync p a s
  | .flushpt p a => Sys2Proof.Machine.execFlushpt p a s
  | .dclk p a => Sys2Proof.Machine.execDclk p a s
  | .srd p u d b => Sys2Proof.Machine.execSrd p u d b s
  | .swr p u a b => Sys2Proof.Machine.execSwr p u a b s
  | .eret p d a b => Sys2Proof.Machine.execEret p d a b s
  | .fqpark p => Sys2Proof.Machine.execFqpark p s
  | .flagsClr p a => Sys2Proof.Machine.execFlagsClr p a s
  | .ctxsv p => Sys2Proof.Machine.execCtxsv p s
  | .pairsig p d => Sys2Proof.Machine.execPairsig p d s

end Sys2Proof.Machine
end

