-- ==== Sys2Proof/Machine/Words.lean ====
section
/-!
DEFINITION. What a word does: `exec` of the instruction that it decodes to, or of ILLEGAL_ENCODING (03_encoding R61); and the proof that
compiled code may run the word through Run.
-/

namespace Sys2Proof.Machine

/-- The word `b` is issued, under the prefix before it. -/
noncomputable def execWord (p : Option Prefix) (b : Word) (s : State) : Host.Outcome State Fault Refusal :=
  match decodeBase p b with
  | .ok i => exec i s
  | .error _ => exec (.illegalEncoding b) s

/-- The same, through Run. -/
def runWord (p : Option Prefix) (b : Word) (s : State) : Host.Outcome State Fault Refusal :=
  match runBase p b with
  | .ok f => f s
  | .error _ => execIllegalEncoding b s

/-- A decoder's answer with the meaning of its instruction. -/
def meant (x : Except DecodeError Instr) : Except DecodeError Meaning := x.map exec

theorem meant_need (c : Bool) (e : DecodeError) (x : Except DecodeError Instr) : meant (need c e x) = need c e (meant x) := by
  cases c <;> rfl

theorem runA01_eq (p : Option Prefix) (fn : BitVec 3) (u : Bool) (d a b : Reg) : runA01 p fn u d a b = meant (decodeA01 p fn u d a b) := by
  unfold runA01 decodeA01
  generalize fn.toNat = n
  split <;> first | rfl | (simp only; rfl)

theorem runA02_eq (p : Option Prefix) (fn : BitVec 3) (u : Bool) (d a b : Reg) : runA02 p fn u d a b = meant (decodeA02 p fn u d a b) := by
  unfold runA02 decodeA02
  generalize fn.toNat = n
  split <;> first | rfl | (simp only; rfl)

theorem runA03_eq (p : Option Prefix) (fn : BitVec 3) (u : Bool) (d a b : Reg) : runA03 p fn u d a b = meant (decodeA03 p fn u d a b) := by
  unfold runA03 decodeA03
  generalize fn.toNat = n
  split <;> first | rfl | (simp only; rfl)

theorem runA04_eq (p : Option Prefix) (fn : BitVec 3) (u : Bool) (d a b : Reg) : runA04 p fn u d a b = meant (decodeA04 p fn u d a b) := by
  unfold runA04 decodeA04
  generalize fn.toNat = n
  split <;> first | rfl | (simp only [meant_need]; rfl)

theorem runA05_eq (p : Option Prefix) (fn : BitVec 3) (u : Bool) (d a b : Reg) : runA05 p fn u d a b = meant (decodeA05 p fn u d a b) := by
  unfold runA05 decodeA05
  generalize fn.toNat = n
  split <;> first | rfl | (simp only [meant_need]; rfl)

theorem runA06_eq (p : Option Prefix) (fn : BitVec 3) (u : Bool) (d a b : Reg) : runA06 p fn u d a b = meant (decodeA06 p fn u d a b) := by
  unfold runA06 decodeA06
  generalize fn.toNat = n
  split <;> first | rfl | (simp only [meant_need]; rfl)

theorem runA18_eq (p : Option Prefix) (fn : BitVec 3) (u : Bool) (d a b : Reg) : runA18 p fn u d a b = meant (decodeA18 p fn u d a b) := by
  unfold runA18 decodeA18
  generalize fn.toNat = n
  split <;> first | rfl | (simp only; rfl)

theorem runA19_eq (p : Option Prefix) (fn : BitVec 3) (u : Bool) (d a b : Reg) : runA19 p fn u d a b = meant (decodeA19 p fn u d a b) := by
  unfold runA19 decodeA19
  generalize fn.toNat = n
  split <;> first | rfl | (simp only [meant_need]; rfl)

theorem runA20_eq (p : Option Prefix) (fn : BitVec 3) (u : Bool) (d a b : Reg) : runA20 p fn u d a b = meant (decodeA20 p fn u d a b) := by
  unfold runA20 decodeA20
  generalize fn.toNat = n
  split <;> first
    | rfl
    | (simp only [meant_need]; rfl)
    | (simp only [meant_need]; cases p with
        | none => rfl
        | some x => dsimp only; cases x.ext.getLsbD 0 <;> rfl)

theorem runA21_eq (p : Option Prefix) (fn : BitVec 3) (u : Bool) (d a b : Reg) : runA21 p fn u d a b = meant (decodeA21 p fn u d a b) := by
  unfold runA21 decodeA21
  generalize fn.toNat = n
  split <;> first | rfl | (simp only [meant_need]; rfl)

theorem runA22_eq (p : Option Prefix) (fn : BitVec 3) (u : Bool) (d a b : Reg) : runA22 p fn u d a b = meant (decodeA22 p fn u d a b) := by
  unfold runA22 decodeA22
  generalize fn.toNat = n
  split <;> first | rfl | (simp only [meant_need]; rfl)

theorem runA23_eq (p : Option Prefix) (fn : BitVec 3) (u : Bool) (d a b : Reg) : runA23 p fn u d a b = meant (decodeA23 p fn u d a b) := by
  unfold runA23 decodeA23
  generalize fn.toNat = n
  split <;> first | rfl | (simp only [meant_need]; rfl)

theorem runA28_eq (p : Option Prefix) (t : Bool) (fn : BitVec 3) (u : Bool) (d a b : Reg) : runA28 p t fn u d a b = meant (decodeA28 p t fn u d a b) := by
  unfold runA28 decodeA28
  generalize fn.toNat = n
  split <;> first | rfl | (simp only; rfl)

theorem runA2A_eq (p : Option Prefix) (t : Bool) (fn : BitVec 3) (u : Bool) (d a b : Reg) : runA2A p t fn u d a b = meant (decodeA2A p t fn u d a b) := by
  unfold runA2A decodeA2A
  generalize fn.toNat = n
  split <;> first | rfl | (simp only [meant_need]; rfl)

theorem runA2C_eq (p : Option Prefix) (t : Bool) (fn : BitVec 3) (u : Bool) (d a b : Reg) : runA2C p t fn u d a b = meant (decodeA2C p t fn u d a b) := by
  unfold runA2C decodeA2C
  generalize fn.toNat = n
  split <;> first | rfl | (simp only [meant_need]; rfl)

theorem runA2E_eq (p : Option Prefix) (t : Bool) (fn : BitVec 3) (u : Bool) (d a b : Reg) : runA2E p t fn u d a b = meant (decodeA2E p t fn u d a b) := by
  unfold runA2E decodeA2E
  generalize fn.toNat = n
  split <;> first | rfl | (simp only [meant_need]; rfl)

theorem runA30_eq (p : Option Prefix) (t : Bool) (fn : BitVec 3) (u : Bool) (d a b : Reg) : runA30 p t fn u d a b = meant (decodeA30 p t fn u d a b) := by
  unfold runA30 decodeA30
  generalize fn.toNat = n
  split <;> first | rfl | (simp only; rfl)

theorem runA32_eq (p : Option Prefix) (fn : BitVec 3) (u : Bool) (d a b : Reg) : runA32 p fn u d a b = meant (decodeA32 p fn u d a b) := by
  unfold runA32 decodeA32
  generalize fn.toNat = n
  split <;> first | rfl | (simp only; rfl)

theorem runA38_eq (p : Option Prefix) (fn : BitVec 3) (u : Bool) (d a b : Reg) : runA38 p fn u d a b = meant (decodeA38 p fn u d a b) := by
  unfold runA38 decodeA38
  first | rfl | (simp only [meant_need]; rfl)

theorem runA39_eq (p : Option Prefix) (fn : BitVec 3) (u : Bool) (d a b : Reg) : runA39 p fn u d a b = meant (decodeA39 p fn u d a b) := by
  unfold runA39 decodeA39
  first | rfl | (simp only [meant_need]; rfl)

theorem runA3A_eq (p : Option Prefix) (fn : BitVec 3) (u : Bool) (d a b : Reg) : runA3A p fn u d a b = meant (decodeA3A p fn u d a b) := by
  unfold runA3A decodeA3A
  first | rfl | (simp only [meant_need]; rfl)

theorem runA3B_eq (p : Option Prefix) (fn : BitVec 3) (u : Bool) (d a b : Reg) : runA3B p fn u d a b = meant (decodeA3B p fn u d a b) := by
  unfold runA3B decodeA3B
  first | rfl | (simp only [meant_need]; rfl)

theorem runA3C_eq (p : Option Prefix) (fn : BitVec 3) (u : Bool) (d a b : Reg) : runA3C p fn u d a b = meant (decodeA3C p fn u d a b) := by
  unfold runA3C decodeA3C
  first | rfl | (simp only [meant_need]; rfl)

theorem runA3D_eq (p : Option Prefix) (fn : BitVec 3) (u : Bool) (d a b : Reg) : runA3D p fn u d a b = meant (decodeA3D p fn u d a b) := by
  unfold runA3D decodeA3D
  first | rfl | (simp only [meant_need]; rfl)

theorem runA3E_eq (p : Option Prefix) (fn : BitVec 3) (u : Bool) (d a b : Reg) : runA3E p fn u d a b = meant (decodeA3E p fn u d a b) := by
  unfold runA3E decodeA3E
  rfl

theorem runA3F_eq (p : Option Prefix) (fn : BitVec 3) (u : Bool) (d a b : Reg) : runA3F p fn u d a b = meant (decodeA3F p fn u d a b) := by
  unfold runA3F decodeA3F
  first | rfl | (simp only [meant_need]; rfl)

theorem runA40_eq (p : Option Prefix) (fn : BitVec 3) (u : Bool) (d a b : Reg) : runA40 p fn u d a b = meant (decodeA40 p fn u d a b) := by
  unfold runA40 decodeA40
  generalize fn.toNat = n
  split <;> first | rfl | (simp only [meant_need]; rfl)

theorem runA41_eq (p : Option Prefix) (fn : BitVec 3) (u : Bool) (d a b : Reg) : runA41 p fn u d a b = meant (decodeA41 p fn u d a b) := by
  unfold runA41 decodeA41
  generalize fn.toNat = n
  split <;> first | rfl | (simp only [meant_need]; rfl)

theorem runA48_eq (p : Option Prefix) (t : Bool) (fn : BitVec 3) (u : Bool) (d a b : Reg) : runA48 p t fn u d a b = meant (decodeA48 p t fn u d a b) := by
  unfold runA48 decodeA48
  generalize fn.toNat = n
  split <;> first | rfl | (simp only; rfl)

theorem runA4A_eq (p : Option Prefix) (fn : BitVec 3) (u : Bool) (d a b : Reg) : runA4A p fn u d a b = meant (decodeA4A p fn u d a b) := by
  unfold runA4A decodeA4A
  generalize fn.toNat = n
  split <;> first | rfl | (simp only; rfl)

theorem runA4B_eq (p : Option Prefix) (fn : BitVec 3) (u : Bool) (d a b : Reg) : runA4B p fn u d a b = meant (decodeA4B p fn u d a b) := by
  unfold runA4B decodeA4B
  generalize fn.toNat = n
  split <;> first | rfl | (simp only; rfl)

theorem runA4C_eq (p : Option Prefix) (fn : BitVec 3) (u : Bool) (d a b : Reg) : runA4C p fn u d a b = meant (decodeA4C p fn u d a b) := by
  unfold runA4C decodeA4C
  generalize fn.toNat = n
  split <;> first | rfl | (simp only [meant_need]; rfl)

theorem runA4D_eq (p : Option Prefix) (fn : BitVec 3) (u : Bool) (d a b : Reg) : runA4D p fn u d a b = meant (decodeA4D p fn u d a b) := by
  unfold runA4D decodeA4D
  generalize fn.toNat = n
  split <;> first | rfl | (simp only; rfl)

theorem runA4E_eq (p : Option Prefix) (fn : BitVec 3) (u : Bool) (d a b : Reg) : runA4E p fn u d a b = meant (decodeA4E p fn u d a b) := by
  unfold runA4E decodeA4E
  generalize fn.toNat = n
  split <;> first | rfl | (simp only [meant_need]; rfl)

theorem runA50_eq (p : Option Prefix) (fn : BitVec 3) (u : Bool) (d a b : Reg) : runA50 p fn u d a b = meant (decodeA50 p fn u d a b) := by
  unfold runA50 decodeA50
  generalize fn.toNat = n
  split <;> first | rfl | (simp only [meant_need]; rfl)

theorem runA51_eq (p : Option Prefix) (fn : BitVec 3) (u : Bool) (d a b : Reg) : runA51 p fn u d a b = meant (decodeA51 p fn u d a b) := by
  unfold runA51 decodeA51
  generalize fn.toNat = n
  split <;> first | rfl | (simp only [meant_need]; rfl)

theorem runA52_eq (p : Option Prefix) (fn : BitVec 3) (u : Bool) (d a b : Reg) : runA52 p fn u d a b = meant (decodeA52 p fn u d a b) := by
  unfold runA52 decodeA52
  generalize fn.toNat = n
  split <;> first | rfl | (simp only [meant_need]; rfl)

theorem runA53_eq (p : Option Prefix) (fn : BitVec 3) (u : Bool) (d a b : Reg) : runA53 p fn u d a b = meant (decodeA53 p fn u d a b) := by
  unfold runA53 decodeA53
  generalize fn.toNat = n
  split <;> first | rfl | (simp only [meant_need]; rfl)

theorem runA58_eq (p : Option Prefix) (fn : BitVec 3) (u : Bool) (d a b : Reg) : runA58 p fn u d a b = meant (decodeA58 p fn u d a b) := by
  unfold runA58 decodeA58
  first | rfl | (simp only [meant_need]; rfl)

theorem runA59_eq (p : Option Prefix) (fn : BitVec 3) (u : Bool) (d a b : Reg) : runA59 p fn u d a b = meant (decodeA59 p fn u d a b) := by
  unfold runA59 decodeA59
  first | rfl | (simp only [meant_need]; rfl)

theorem runA5A_eq (p : Option Prefix) (fn : BitVec 3) (u : Bool) (d a b : Reg) : runA5A p fn u d a b = meant (decodeA5A p fn u d a b) := by
  unfold runA5A decodeA5A
  generalize fn.toNat = n
  split <;> first | rfl | (simp only [meant_need]; rfl)

theorem runA65_eq (p : Option Prefix) (fn : BitVec 3) (u : Bool) (d a b : Reg) : runA65 p fn u d a b = meant (decodeA65 p fn u d a b) := by
  unfold runA65 decodeA65
  generalize fn.toNat = n
  split <;> first | rfl | (simp only [meant_need]; rfl)

theorem runA68_eq (p : Option Prefix) (fn : BitVec 3) (u : Bool) (d a b : Reg) : runA68 p fn u d a b = meant (decodeA68 p fn u d a b) := by
  unfold runA68 decodeA68
  generalize fn.toNat = n
  split <;> first | rfl | (simp only [meant_need]; rfl)

theorem runA6C_eq (p : Option Prefix) (fn : BitVec 3) (u : Bool) (d a b : Reg) : runA6C p fn u d a b = meant (decodeA6C p fn u d a b) := by
  unfold runA6C decodeA6C
  generalize fn.toNat = n
  split <;> first | rfl | (simp only [meant_need]; rfl)

theorem runA70_eq (p : Option Prefix) (fn : BitVec 3) (u : Bool) (d a b : Reg) : runA70 p fn u d a b = meant (decodeA70 p fn u d a b) := by
  unfold runA70 decodeA70
  generalize fn.toNat = n
  split <;> first | rfl | (simp only [meant_need]; rfl)

theorem runA71_eq (p : Option Prefix) (fn : BitVec 3) (u : Bool) (d a b : Reg) : runA71 p fn u d a b = meant (decodeA71 p fn u d a b) := by
  unfold runA71 decodeA71
  generalize fn.toNat = n
  split <;> first | rfl | (simp only [meant_need]; rfl)

theorem runA78_eq (p : Option Prefix) (fn : BitVec 3) (u : Bool) (d a b : Reg) : runA78 p fn u d a b = meant (decodeA78 p fn u d a b) := by
  unfold runA78 decodeA78
  generalize fn.toNat = n
  split <;> first | rfl | (simp only [meant_need]; rfl)

theorem runLayout_eq (p : Option Prefix) (l : Layout) : runLayout p l = meant (l.instr p) := by
  cases l with
  | fmtA op fn u d a b =>
    unfold runLayout Layout.instr
    dsimp only
    generalize op.toNat = n
    split <;> first | rfl | (simp only [runA01_eq, runA02_eq, runA03_eq, runA04_eq, runA05_eq, runA06_eq, runA18_eq, runA19_eq, runA20_eq, runA21_eq, runA22_eq, runA23_eq, runA28_eq, runA2A_eq, runA2C_eq, runA2E_eq, runA30_eq, runA32_eq, runA38_eq, runA39_eq, runA3A_eq, runA3B_eq, runA3C_eq, runA3D_eq, runA3F_eq, runA40_eq, runA41_eq, runA48_eq, runA4A_eq, runA4B_eq, runA4C_eq, runA4D_eq, runA4E_eq, runA50_eq, runA51_eq, runA52_eq, runA53_eq, runA58_eq, runA59_eq, runA5A_eq, runA65_eq, runA68_eq, runA6C_eq, runA70_eq, runA71_eq, runA78_eq]; done) | (simp only; rfl)
  | fmtI op u d a i =>
    unfold runLayout Layout.instr
    dsimp only
    generalize op.toNat = n
    split <;> first | rfl | (simp only [meant_need]; rfl)
  | fmtL op u d i =>
    unfold runLayout Layout.instr
    dsimp only
    generalize op.toNat = n
    split <;> first | rfl | (simp only [meant_need]; rfl)
  | fmtB op fn m off =>
    unfold runLayout Layout.instr
    dsimp only
    generalize op.toNat = n
    generalize fn.toNat = g
    split <;> first | rfl | (simp only [meant_need]; rfl)

theorem runBase_eq (p : Option Prefix) (b : Word) : runBase p b = meant (decodeBase p b) := by
  unfold runBase decodeBase
  split
  · rfl
  · split
    · rfl
    · exact runLayout_eq p _

@[csimp] theorem execWord_eq : @execWord = @runWord := by
  funext p b s
  unfold execWord runWord
  rw [runBase_eq]
  cases decodeBase p b <;> rfl

end Sys2Proof.Machine
end

