-- ==== Sys2Proof/Machine/Policy.lean ====
section
/-!
DEFINITION. What a step does: an issue of a weft, with its fetch (02_threads R41 to R43, 03_encoding R53 to R55, 16_scheduling R375), or an
event. The agenda lays down the order of both; where it lays down nothing, the model completes what is due and then issues, which is
one of the orders that the manual allows (notes/assumptions 5).
-/

namespace Sys2Proof.Machine

/-! ## Fetch -/

/-- A fault of the fetch of the next word: due imprecise causes come first; PAGE parks the team, PROT is a precise trap. -/
def fetchFault (s : State) (k : Nat) (e : XFault) (va : Dword) : Host.Outcome State Fault Refusal :=
  let w := s.weft k
  if !s.canIssue k then .next s
  else match w.nextImprecise fun x => x.gate.isNone with
  | some x => .next (takeImprecise s k x w.flow.pc .body)
  | none => match e with
    | .page => .next (parkCause s k .page va)
    | .prot => .next (takeTrap s k .prot w.flow.pc w.flow.ic va 0 w.flow.pc .body)

/-- The line of code at an address is fetched. -/
def fetchLine (s : State) (k : Nat) (va : Dword) : Host.Outcome State Fault Refusal :=
  exec (.icacheMissFill (s.coreOf k) (s.ctxOf k) (va.toNat / 128)) s

/-- The word at an address and what to do with it, once its line is in the instruction cache. -/
def withWord (s : State) (k : Nat) (va : Dword) (f : Word → Host.Outcome State Fault Refusal) : Host.Outcome State Fault Refusal :=
  match s.codeWord k va with
  | .error e => fetchFault s k e va
  | .ok w => if s.codeCached k va then f w else fetchLine s k va

/-- The place of an address in its clause; the header's is 0. -/
def Weft.clausePlace (w : Weft) (va : Dword) : Nat := (va - w.flow.hdr).toNat / 4

/-! ## Issue -/

/-- A weft that falls through comes to the header at its PC (R54). -/
def fallThrough (s : State) (k : Nat) : Host.Outcome State Fault Refusal :=
  if !s.canIssue k then .next s
  else
    let w := s.weft k
    let f : Flow := { w.flow with entry := .fall }
    exec (.clauseStart k) (s.setWeft k { w with flow := f })

/-- The next word of a clause is issued: an instruction, or a word that may not stand there (R53). The prefix counts as a word. -/
def issueBody (s : State) (k : Nat) : Host.Outcome State Fault Refusal :=
  let w := s.weft k
  let pc := w.flow.pc
  withWord s k pc fun a =>
    if isHeader a then fallThrough s k
    else if 63 ≤ w.clausePlace pc then issueClause pc s
    else if isPrefix a then
      withWord s k (pc + 4) fun b =>
        if isHeader b || isPrefix b then issueClause pc s
        else if 63 ≤ w.clausePlace (pc + 4) then issueClause (pc + 4) s
        else execWord (some (Prefix.ofWord a)) b s
    else execWord none a s

/-- A weft moves: its clause starts, or its next word is issued. -/
def issueWord (s : State) (k : Nat) : Host.Outcome State Fault Refusal :=
  let w := s.weft k
  if w.flow.entry = .body then issueBody s k
  else match s.codeWord k w.flow.pc with
  | .error _ => exec (.clauseStart k) s
  | .ok _ => if s.codeCached k w.flow.pc then exec (.clauseStart k) s else fetchLine s k w.flow.pc

/-- The weft has gone on, and not merely waited. -/
def wentOn (w w' : Weft) : Bool :=
  w.flow.pc != w'.flow.pc || w.flow.ic != w'.flow.ic || w.flow.entry != w'.flow.entry || w'.hold.isSome || w'.status != .live

/-! ## Swap opportunities of an issue (02_threads R41, R43) -/

/-- The weft exits, or waits at a barrier, at a byte barrier, or in a form of Q, which counts as such a wait (R43, 16_scheduling R378). -/
def Weft.leavesIssue (w : Weft) : Bool :=
  w.status == .ended || match w.hold with
    | some h => (match h.kind with
      | .bar .. => true
      | .bbwait .. => true
      | .bbinval _ => true
      | .qput .. => true
      | .qget .. => true
      | _ => false)
    | none => false

/-- The records that an engine operation goes through. -/
def EngKind.iters : EngKind → List Iter
  | .mma .. => []
  | .tsweep _ d srcs _ => d :: srcs
  | .tfetch _ r => [r]
  | .accSt _ _ r => [r]
  | .accLd _ r => [r]
  | .sclLd .. => []

/-- Element `e` of a record lies in a block that its L2 slice lacks, or in a page that is not resident. -/
def State.elemMisses (s : State) (core k e : Nat) (r : Iter) : Bool :=
  let va := r.addr e
  if r.glob then
    match s.lookup (clusterOf core) (s.ctxOf k) .read va with
    | .ok x => s.l2Misses (x.pa va) r.esize
    | .error _ => false
  else (s.findFrame (teamOf k) (va.toNat / 2048)).isNone

/-- An effect of the weft that a flag of a mask counts is held by an L2 miss or a scratchpad page miss (R41). -/
def State.heldByMiss (s : State) (k : Nat) (m : BitVec 12) : Bool :=
  let w := s.weft k
  let ctx := s.ctxOf k
  let lacks := fun (va : Dword) (pa n : Nat) =>
    (s.lineAt (s.coreOf k) ctx va).isNone && (s.sectorAt (s.coreOf k) ctx va).isNone && s.l2Misses pa n
  (w.flights.any fun f => m.getLsbD f.flag && f.op.global && f.lanes.any fun l => l.val.isNone && lacks l.va l.pa f.bytes)
    || (w.stores.any fun e => e.flag.any m.getLsbD && e.entered && !e.spad && e.pieces.any fun p => !p.done && lacks p.va p.pa p.data.length)
    || (s.teamOfWeft k).coreList.any fun c =>
        let y := s.core c
        let waits := y.reserve.any fun r => r.1 == teamOf k
        (y.copies.any fun x => x.k == k && m.getLsbD x.flag
            && (waits || (x.fn != 4 && s.elemMisses c k x.next x.src) || (x.fn != 5 && s.elemMisses c k x.next x.dst)))
          || y.ops.any fun o => o.k == k && m.getLsbD o.flag && (waits || o.kind.iters.any (s.elemMisses c k o.next))

/-- The flags that a weft waits for, in WAITF or at a header. -/
def State.waitMask (s : State) (k : Nat) : BitVec 12 :=
  let w := s.weft k
  match w.hold with
  | some { kind := .waitf m, .. } => m
  | some _ => 0
  | none =>
    if w.flow.entry = .arrived ∨ w.flow.entry = .popped then
      match s.codeWord k w.flow.pc with
      | .ok h => h.extractLsb' 8 12
      | .error _ => 0
    else 0

/-- The weft waits for a flag whose effect a miss holds. -/
def State.longWait (s : State) (k : Nat) : Bool :=
  let m := s.waitMask k
  !(s.weft k).flagsClear m && s.heldByMiss k m

/-- The issue is a swap opportunity: the weft has met a miss or a hold that counts as a byte-barrier wait, or leaves issue, or it is a
partner too far ahead (19_reliability R432). -/
def State.givesSwap (s t : State) (k : Nat) : Bool :=
  (t.core (s.coreOf k)).misses != (s.core (s.coreOf k)).misses || t.tooFarAhead k || t.longWait k
    || wentOn (s.weft k) (t.weft k) && (t.weft k).leavesIssue

/-- An issue that had no effect but a count of misses: the weft is interlocked until something else happens. -/
def State.idleIssue (s t : State) (k : Nat) : Bool :=
  !wentOn (s.weft k) (t.weft k)
    && ((t.cluster (clusterOf (s.coreOf k))).icache == (s.cluster (clusterOf (s.coreOf k))).icache)
    && (s.teamOfWeft k).coreList.all fun c => (t.core c).stlb == (s.core c).stlb && (t.core c).reserve == (s.core c).reserve

/-- What the issue counts for, on its core (R42, R43). -/
def afterIssue (s : State) (k : Nat) (t : State) : State :=
  let t := if s.idleIssue t k then { t with stalled := k :: t.stalled } else { t with stalled := [] }
  let u := if wentOn (s.weft k) (t.weft k) then ((s.nextForm k).map fun x => t.noteIssue k x).getD t else t
  if s.givesSwap t k then u.swapOpportunity (s.coreOf k) else u

/-- The weft competes for issue only from the active set of its core, in which it takes a place that is free (R41). -/
def State.inPlace (s : State) (k : Nat) : Option State :=
  let core := s.coreOf k
  if (s.weft k).sched.inActive then some s
  else if (s.residents core).contains k && decide ((s.activeOn core).length < 8) then some (s.activate core k)
  else none

/-- The issue of a weft. -/
def issueStep (k : Nat) (s : State) : Host.Outcome State Fault Refusal :=
  match { s with cur := k }.inPlace k with
  | none => .next s
  | some s =>
    match issueWord s k with
    | .next t => .next (afterIssue s k t)
    | .fault f => .fault f
    | .refused r => .refused r

/-! ## The order where none is laid down -/

/-- What is in flight in a weft. -/
def weftEvents (k : Nat) (w : Weft) : List Instr :=
  let flights := (List.range w.flights.length).flatMap fun j => [.flagACompletion k j, .functionResult k j]
  let stores := (List.range w.stores.length).flatMap fun j =>
    match w.stores[j]? with
    | some e => e.pieces.map fun p => .storeOrderPoint k j p.lane
    | none => []
  let held := match w.hold with
    | none => []
    | some h => match h.kind with
      | .waitf _ => [.waitfRelease k]
      | .fence .. => [.fenceComplete k]
      | .qput .. => [.queueHoldRelease k]
      | .qget .. => [.queueHoldRelease k]
      | .dsync _ => [.dsyncGrant k]
      | .dclk _ => [.dclkRelease k]
      | _ => []
  let pair := if w.seg.closed.isEmpty then [] else [.segmentCompare k]
  let walk := if w.flow.dir then [.reverseStep k] else []
  let entry := if w.stores.isEmpty then [] else [.storeEntry k]
  flights ++ entry ++ stores ++ held ++ pair ++ walk

def opEvents (c j : Nat) (o : EngOp) : List Instr :=
  match o.kind with
  | .mma .. => [.mmaOperandReadDone c j, .mmaComplete c j]
  | .tsweep .. => [.tsweepComplete c j]
  | .tfetch .. => [.tfetchComplete c j]
  | .accSt .. => [.accStComplete c j]
  | .accLd .. => [.accLdComplete c j]
  | .sclLd .. => [.sclLdComplete c j]

/-- What a core's engines and queues have to do. -/
def coreEvents (c : Nat) (y : Core) : List Instr :=
  let copies := if y.copies.isEmpty then [] else .copyAccept c :: (List.range y.copies.length).map fun j => .copyElementLand c j
  let ops := ((List.range y.ops.length).zip y.ops).flatMap fun x => opEvents c x.1 x.2
  let slots := (y.slots.filter fun x => x.2.rerun).map fun x => .tfetchRerunComplete c x.1
  let drain := if y.roles.isSome then [.bankDrainDone c] else []
  let start := if y.queue.isEmpty then [] else [.taskStart c]
  let due := y.frames.filterMap fun x => match x.2 with
    | some f => if f.due then some (.spadEviction f.team f.page) else none
    | none => none
  let frames := match y.reserve with
    | (t, ps) :: _ => due ++ [.frameReservation t ps]
    | [] => due
  copies ++ ops ++ slots ++ drain ++ frames ++ start

/-- The frames that a team still has on the core it has left leave in ascending order of their pages (06_core_memory R141). -/
def releaseEvents (s : State) (t : Nat) (x : Team) : List Instr :=
  match x.release with
  | none => []
  | some old =>
    let frames := (if x.pair then [old, old + 1] else [old]).flatMap fun c => (s.core c).frames
    let pages := frames.filterMap fun y => match y.2 with
      | some f => if f.team = t then some f.page else none
      | none => none
    pages.mergeSort.map fun P => .spadEviction t P

/-- What the command processors have to do for a team. -/
def teamEvents (s : State) (t : Nat) (x : Team) : List Instr :=
  match x.status with
  | .resident => releaseEvents s t x ++ [.taskEnd t]
  | .saving _ => releaseEvents s t x ++ [.saveComplete t]
  | .queued =>
    match (List.range 1024).find? fun c => s.eligible x.task.origin.toNat c && s.canAdmit c x.nwefts x.pair with
    | some c => [.teamRestore t c]
    | none => []
  | _ => []

def msgEvent (m : Msg) : Instr :=
  match m.kind with
  | .rdS => .rds m.src m.unit
  | .rdX => .rdx m.src m.unit
  | .upg => .upg m.src m.unit
  | .wbD => .wbd m.src m.unit
  | .fwdS => .fwds m.dst m.unit
  | .fwdX => .fwdx m.dst m.unit
  | .inv => .inv m.dst m.unit
  | .dataS => .dataS m.dst m.unit
  | .dataE => .dataE m.dst m.unit
  | .dataM => .dataM m.dst m.unit
  | .ackM => .ackM m.dst m.unit
  | .fwdAck => .fwdack m.src m.unit
  | .noData => .nodata m.src m.unit
  | .invAck => .invack m.src m.unit
  | .wbAck => .wback m.dst m.unit

/-- What the module's own agents have to do beside. -/
def moduleEvents (s : State) : List Instr :=
  let each := fun (n : Nat) (f : Nat → Instr) => (List.range n).map f
  s.coh.msgs.map msgEvent ++ each s.reports.length .faultEntryWrite ++ each s.joins.length .joinAppend
    ++ [.domainAdmit] ++ s.domains.flatMap (fun d => [.turnClose d.id, .flushPoint d.id])
    ++ (s.clusters.filter fun x => x.2.rebuilding).map (fun x => .rebuildComplete x.1)
    ++ (if s.repairing then [.repairCopyDone] else [])
    ++ (if (s.reg attctl).getLsbD 1 then [.attestDone] else [])
    ++ each s.deals.length .taskDeal ++ each s.launches.length .launchExpand ++ each 16 .cpTakeRecord

/-- What may be due, in the order in which the model looks for it. -/
def candidates (s : State) : List Instr :=
  s.wefts.flatMap (fun x => weftEvents x.1 x.2) ++ s.cores.flatMap (fun x => coreEvents x.1 x.2)
    ++ s.teams.flatMap (fun x => teamEvents s x.1 x.2) ++ moduleEvents s

/-- The first event of a list that changes the state. -/
def firstDue (s : State) : List Instr → Option (Host.Outcome State Fault Refusal)
  | [] => none
  | i :: rest =>
    match exec i { s with stalled := [] } with
    | .next t => if { t with freeTick := s.freeTick, stalled := s.stalled } = s then firstDue s rest else some (.next t)
    | o => some o

/-- Accesses of the host and of peers that wait are performed, as far as they can be (04_dram_l2 R80, 05_translation R113). -/
def serveWaiting (s : State) : Option (Host.Outcome State Fault Refusal) :=
  if s.held.isEmpty then none
  else match s.serveHeld with
  | .ok t => if t.held.length < s.held.length then some (.next { t with stalled := [] }) else none
  | .error f => some (.fault f)

/-- The cores on which a weft stands, those after the core of the last issue first. -/
def coreOrder (s : State) : List Nat :=
  let cs := ((s.teams.filter fun x => x.2.status == .resident).flatMap fun x => x.2.coreList).dedup
  let last := s.coreOf s.cur
  (cs.filter fun c => decide (last < c)) ++ cs.filter fun c => decide (c ≤ last)

/-- The active set of a core that issue chooses from: its free places are filled, and while no active weft is ready the clocks pass until
the periodic opportunity of R43 makes room for a pending one that is. -/
def readySet (s : State) (core : Nat) : State :=
  let s := s.fillActive core
  if (s.activeOn core).any s.readyWeft then s else s.swapOpportunity core

/-- The issue choice of the first core that has a ready weft (R42). No pipe is busy for more than eight clocks. -/
def chooseIssue (s : State) : List Nat → Option (Nat × State)
  | [] => none
  | c :: rest =>
    match pickIssue c 10 (readySet s c) with
    | some x => some x
    | none => chooseIssue s rest

/-- Cores without work look for some to steal (16_scheduling R369). -/
def stealers (s : State) : List Instr :=
  if s.cores.all fun x => x.2.queue.isEmpty then []
  else ((List.range coreCount).filter fun c => (s.core c).queue.isEmpty).map .coreSteal

/-- The step that the model takes of itself: bring-up after power-on, what is due, an issue, or none. -/
def autoStep (s : State) : Host.Outcome State Fault Refusal :=
  if !s.powered then .next s
  else if s.field bootstat 0 2 = 0 then exec .moduleReset s
  else match (serveWaiting s).orElse fun _ => firstDue s (candidates s) with
  | some o => o
  | none => match chooseIssue s (coreOrder s) with
    | some (k, s) => issueStep k s
    | none => (firstDue s (stealers s)).getD (.next s)

/-! ## One step -/

/-- Rows that are instructions of a weft take place by issue alone. -/
def Instr.isEvent (i : Instr) : Bool :=
  match i with
  | .illegalEncoding _ => false
  | _ => i.layout.isNone

/-- The move at the head of the agenda, else one that the model chooses. -/
def moveOn (s : State) : Host.Outcome State Fault Refusal :=
  match s.agenda with
  | [] => autoStep s
  | .issue k :: rest => issueStep k { s with agenda := rest }
  | .event i :: rest => let s := { s with agenda := rest, stalled := [] }; if Instr.isEvent i then exec i s else .next s

/-! ## A word placed where the next step fetches (notes/assumptions 1) -/

/-- The words of an instruction given as the table numbers its bits. -/
def placedWords (nbits w : Nat) : List Word :=
  let v := w % 2 ^ nbits
  [BitVec.ofNat 32 v, BitVec.ofNat 32 (v / 2 ^ 32)]

/-- A header that waits for nothing, with flags A 0 and B 1. -/
def placedHeader : Word := 0xF8000001

/-- Weft 0 of team 0 on core 0 stands inside a clause at address 4, behind the header at address 0; the instruction cache holds the line. -/
def placeWord (s : State) (nbits w : Nat) : State :=
  let line : ICLine := { ctx := 0, va := 0, pa := 0, words := placedHeader :: placedWords nbits w }
  let x : Team := { (s.team 0) with status := .resident, nwefts := 1, ctx := 0, core := 0, pair := false, member := 0 }
  let v := s.weft 0
  let f : Flow := { v.flow with pc := 4, hdr := 0, entry := .body, flagA := 0, flagB := 1, dir := false, active := fullMask v.width }
  let g : Segment := {}
  let q : Sched := { v.sched with inActive := true }
  let v : Weft := { v with status := .live, hold := none, flow := f, seg := g, sched := q }
  let c := s.cluster 0
  let s := ((s.setTeam 0 x).setWeft 0 v).setCluster 0 { c with icache := line :: c.icache }
  let s := ((s.setField bootstat 0 2 1).setField vstat 0 1 0).setField 0x2008 0 13 (max 1 (s.field 0x2008 0 13))
  { s with powered := true, agenda := [.issue 0] }

end Sys2Proof.Machine
end

