-- ==== Sys2Proof/Machine/Step.lean ====
section
/-!
DEFINITION. One step of the module, and an instruction placed where the next step fetches.
-/

namespace Sys2Proof.Machine

/-- One step: the move that comes next. -/
def step (s : State) : Host.Outcome State Fault Refusal := moveOn s

/-- The state with an instruction placed so that the next step fetches and runs it: a program is loaded from outside the module, and this
stands for that load (notes/assumptions 1). -/
def State.withFetchWord (s : State) (nbits w : Nat) : State := placeWord s nbits w

end Sys2Proof.Machine
end

