-- ==== Sys2Proof/Safety.lean ====
section
/-!
DEFINITION. The terms in which claims are made: what a safe run is, when an instruction of a form takes effect, and what it leaves as it
was.
-/

namespace Sys2Proof

open Machine

/-! ## Runs -/

/-- The outcome is a next state. -/
def Goes (o : Host.Outcome State Fault Refusal) : Prop := ∃ t, o = .next t

/-- One step leads from one state to the next. -/
def StepsTo (s t : State) : Prop := step s = .next t

/-- A number of steps lead from one state to another. -/
inductive RunsTo : Nat → State → State → Prop where
  | here (s : State) : RunsTo 0 s s
  | there {n : Nat} {s t u : State} (h : RunsTo n s t) (h' : StepsTo t u) : RunsTo (n + 1) s u

/-- A state that a run meets is safe when memory is canonical there and the machine does not stop in it. -/
def SafeAt (s : State) : Prop := Memory.wf s.mem = true ∧ Goes (step s)

/-- Every state that a run from `s` meets is safe. -/
def SafeFrom (s : State) : Prop := ∀ n t, RunsTo n s t → SafeAt t

/-! ## When an instruction takes effect -/

namespace Machine

/-- The weft whose turn it is. -/
def State.me (s : State) : Weft := s.weft s.cur

/-- What an instruction of a form sees when it issues. -/
def Info.ctx (i : Info) (s : State) : Ctx := i.at s.cur s.me

/-- An instruction of a form takes effect where it stands: its weft may issue; no imprecise cause is due before it (18_traps R405); its
registers are not guarded, its flag counts, and its prefix and operands are legal (03_encoding R50, R57, R58); no load with acquire holds an
access that it makes at issue (07_memory_instructions R154); the flag has room (02_threads R37); a uniform form has a lane (R27); its registers lie below ALLOC (09_registers R203); its history records fit (R211); lanes that have
faulted leave one to go on (15_control_flow R344); and a form of the irreversible class meets no pending lane fault, no uncommitted task and
no open segment of a redundant pair (18_traps R407, 16_scheduling R377, 19_reliability R432). -/
def issues (i : Info) (s : State) : Bool :=
  let w := s.me
  s.canIssue s.cur
  && (w.nextImprecise fun x => x.gate.isNone).isNone
  && (!i.quiet || w.guarded.isEmpty)
  && (!i.touches || !w.acquiring)
  && (decodeStop i w).isNone
  && !(i.ctx s).flagFull w
  && (!i.u || i.activeOf w != 0 || i.selfEmpty)
  && (!i.irrev || (!w.lanesPending && !w.sched.uncommitted && (s.member s.cur == 0 || w.seg.passed || w.trap.handler)))
  && (!w.recording || w.hist.room ((i.ctx s).estimate s w))
  && !i.outOfBounds w
  && (w.flow.active != 0 || !w.lanesPending)

/-! ## Steps that access memory -/

/-- The accesses of a step that leads from `s` as far as `u` take place: none must wait for a translation in use (05_translation R113), and none
met an uncorrectable error of DRAM (04_dram_l2 R77). -/
def State.clear (s u : State) : Prop := u.viral = s.viral ∧ u.coh.blocked = false

/-- Nothing of earlier steps waits: no access is held up, and no bits of a frame are still to be set. -/
def State.calm (s : State) : Prop := s.coh.blocked = false ∧ s.coh.actor = none ∧ s.coh.ors = []

/-- The outcome of a step that accesses memory and whose effect leaves `u`: the bits of frames that wait are set at their homes as well
(05_translation R121), which changes no weft and no team; where none wait nothing else changes. -/
def Takes (o : Host.Outcome State Fault Refusal) (s u : State) : Prop :=
  ∃ t, o = .next t ∧ t = s.after u ∧ t.wefts = u.wefts ∧ t.teams = u.teams
    ∧ (u.coh.ors = [] → t = { u with coh := { u.coh with actor := none } })

/-! ## Operands and results -/

/-- The word of register `r` in a lane: a scalar, or a per-thread register through the window (09_registers R202). -/
def wordAt (w : Weft) (sc : Bool) (r : Reg) (L : Nat) : Word :=
  if sc then w.regs.getS r.toNat else w.regs.getV (physReg w.regs r.toNat) L

/-- The pair that begins at register `r`, the low word in the lower register (00_scope R4). -/
def pairAt (w : Weft) (sc : Bool) (r : Reg) (L : Nat) : Dword :=
  if sc then pairOf (w.regs.getS r.toNat) (w.regs.getS (r.toNat + 1))
  else pairOf (w.regs.getV (physReg w.regs r.toNat) L) (w.regs.getV (physReg w.regs r.toNat + 1) L)

/-- Operands a, b and c of a form, and its old d, in a lane. -/
def Info.a32 (i : Info) (s : State) (L : Nat) : Word := wordAt s.me i.aScalar i.a L
def Info.b32 (i : Info) (s : State) (L : Nat) : Word := wordAt s.me i.bScalar i.b L
def Info.c32 (i : Info) (s : State) (L : Nat) : Word := wordAt s.me i.u i.c L
def Info.d32 (i : Info) (s : State) (L : Nat) : Word := wordAt s.me i.u i.d L
def Info.a64 (i : Info) (s : State) (L : Nat) : Dword := pairAt s.me i.aScalar i.a L
def Info.b64 (i : Info) (s : State) (L : Nat) : Dword := pairAt s.me i.bScalar i.b L
def Info.c64 (i : Info) (s : State) (L : Nat) : Dword := pairAt s.me i.u i.c L
def Info.d64 (i : Info) (s : State) (L : Nat) : Dword := pairAt s.me i.u i.d L

/-- The lanes of ACTIVE; for a uniform form its lowest lane, which stands for the weft (02_threads R27). -/
def Info.lanes (i : Info) (s : State) : List Nat :=
  if i.u then [lowestLane s.me.width (i.activeOf s.me)] else lanesOf s.me.width (i.activeOf s.me)

/-- The lanes that z zeroes (03_encoding R50). -/
def Info.zlanes (i : Info) (s : State) : List Nat := lanesOf s.me.width (i.zeroedOf s.me)

/-! ## What stays as it was -/

/-- Nothing but weft `k` differs. -/
def OnlyWeft (k : Nat) (s t : State) : Prop := t = { s with wefts := t.wefts } ∧ ∀ j, j ≠ k → t.weft j = s.weft j

/-- The address of the next instruction and the instruction count of a weft that has retired one of a form (03_encoding R54, 09_registers
R214: IC does not count in handler mode). -/
def WentOn (i : Info) (w w' : Weft) : Prop :=
  w'.flow.pc = w.flow.pc + BitVec.ofNat 64 (4 * i.len) ∧ w'.flow.ic = (if w.trap.handler then w.flow.ic else w.flow.ic + 1)

/-- Between two states of a weft nothing differs but its registers, its history, its place in the code and what counts its turn and its
segment: not its lanes, its stack, its trap registers, its completion flags, its accesses in flight or its stores. -/
def SameControl (w w' : Weft) : Prop :=
  w' = { w with regs := w'.regs, hist := w'.hist, seg := w'.seg
                flow := { w.flow with pc := w'.flow.pc, ic := w'.flow.ic, entry := w'.flow.entry }
                sched := { w.sched with turnLeft := w'.sched.turnLeft } }

/-- Registers outside a run of per-thread registers, of scalars and of mask registers hold what they held; the window and the modes do too.
Keys of per-thread registers are those of lanes below 64. -/
def SameRegs (v s : Nat → Prop) (m : Nat → Prop) (w w' : Weft) : Prop :=
  (∀ p L, L < 64 → ¬ v p → w'.regs.getV p L = w.regs.getV p L)
  ∧ (∀ n, ¬ s n → w'.regs.getS n = w.regs.getS n)
  ∧ (∀ n, n ≠ 0 → ¬ m n → w'.maskReg n = w.maskReg n)
  ∧ w'.regs.wb = w.regs.wb ∧ w'.regs.alloc = w.regs.alloc ∧ w'.regs.fmode = w.regs.fmode

/-- The floating-point flags of every lane are as they were. -/
def SameFflags (w w' : Weft) : Prop := ∀ L, w'.fflag L = w.fflag L

/-- The history stack is as it was, where none is recorded; its bounds are in any case. -/
def SameHistory (w w' : Weft) : Prop :=
  (w.recording = false → w'.hist.words = w.hist.words ∧ w'.hist.hsp = w.hist.hsp)
  ∧ w'.hist.a0 = w.hist.a0 ∧ w'.hist.hbase = w.hist.hbase ∧ w'.hist.hlim = w.hist.hlim ∧ w'.hist.hcommit = w.hist.hcommit
  ∧ w'.hist.on = w.hist.on ∧ w'.hist.mhist = w.hist.mhist

/-- Register `p` is one of the `n` that field d names, for a per-thread and for a uniform form. -/
def Info.writesV (i : Info) (w : Weft) (n p : Nat) : Prop :=
  i.u = false ∧ physReg w.regs i.d.toNat ≤ p ∧ p < physReg w.regs i.d.toNat + n
def Info.writesS (i : Info) (n p : Nat) : Prop := i.u = true ∧ i.d.toNat ≤ p ∧ p < i.d.toNat + n

/-- The lanes of a per-thread form that take no part keep every register. -/
def OtherLanes (i : Info) (s : State) (w' : Weft) : Prop :=
  ∀ p L, L < 64 → i.u = false → L ∉ i.lanes s → L ∉ i.zlanes s → w'.regs.getV p L = s.me.regs.getV p L

/-- A register instruction has taken effect: the outcome is a next state, in which nothing but the weft that issued it differs; the weft
goes on; the `n` registers of d have changed in the lanes that take part, and nothing else that a program reads. -/
structure RegisterStep (i : Info) (n : Nat) (s t : State) : Prop where
  only    : OnlyWeft s.cur s t
  goes    : WentOn i s.me (t.weft s.cur)
  control : SameControl s.me (t.weft s.cur)
  regs    : SameRegs (i.writesV s.me n) (i.writesS n) (fun _ => False) s.me (t.weft s.cur)
  lanes   : OtherLanes i s (t.weft s.cur)
  history : SameHistory s.me (t.weft s.cur)

/-- The outcome is a register step that leaves `val` in a 32-bit destination, zero in the lanes of z, and no flags. -/
def Writes32 (i : Info) (s : State) (o : Host.Outcome State Fault Refusal) (val : Nat → Word) : Prop :=
  ∃ t, o = .next t ∧ RegisterStep i 1 s t ∧ SameFflags s.me (t.weft s.cur)
    ∧ (∀ L ∈ i.lanes s, wordAt (t.weft s.cur) i.u i.d L = val L)
    ∧ ∀ L ∈ i.zlanes s, wordAt (t.weft s.cur) i.u i.d L = 0

/-- The same for a pair. -/
def Writes64 (i : Info) (s : State) (o : Host.Outcome State Fault Refusal) (val : Nat → Dword) : Prop :=
  ∃ t, o = .next t ∧ RegisterStep i 2 s t ∧ SameFflags s.me (t.weft s.cur)
    ∧ (∀ L ∈ i.lanes s, pairAt (t.weft s.cur) i.u i.d L = val L)
    ∧ ∀ L ∈ i.zlanes s, pairAt (t.weft s.cur) i.u i.d L = 0

/-- Wherever it takes effect, the instruction leaves this function of its operands a, b, c and its old d, 32 bits. -/
def Gives32 (i : Info) (x : Instr) (s : State) (f : Word → Word → Word → Word → Word) : Prop :=
  issues i s = true → Writes32 i s (exec x s) fun L => f (i.a32 s L) (i.b32 s L) (i.c32 s L) (i.d32 s L)

/-- The same of pairs. -/
def Gives64 (i : Info) (x : Instr) (s : State) (f : Dword → Dword → Dword → Dword) : Prop :=
  issues i s = true → Writes64 i s (exec x s) fun L => f (i.a64 s L) (i.b64 s L) (i.d64 s L)

/-- An instruction has taken effect on registers: nothing but its weft differs, the weft goes on, and of its registers only per-thread
registers of `v`, scalars of `n` and mask registers of `m` have changed. -/
structure PlainStep (i : Info) (v n m : Nat → Prop) (s t : State) : Prop where
  only    : OnlyWeft s.cur s t
  goes    : WentOn i s.me (t.weft s.cur)
  control : SameControl s.me (t.weft s.cur)
  regs    : SameRegs v n m s.me (t.weft s.cur)
  history : SameHistory s.me (t.weft s.cur)

/-- The mask of the lanes that a property names. -/
def maskWhere (f : Nat → Bool) : Mask := BitVec.ofFnLE fun n => f n.val

/-- The outcome is a register step that leaves every register as it was but mask register `n`, which holds `v` below W and zero from W on
(02_threads R36), and no flags. -/
def WritesMask (i : Info) (n : Nat) (s : State) (o : Host.Outcome State Fault Refusal) (v : Mask) : Prop :=
  ∃ t, o = .next t ∧ PlainStep i (fun _ => False) (fun _ => False) (fun m => m = n) s t
    ∧ SameFflags s.me (t.weft s.cur) ∧ (t.weft s.cur).maskReg n = v &&& fullMask s.me.width

/-- Wherever it takes effect, the instruction leaves this value in mask register `n`. -/
def GivesMask (i : Info) (n : Nat) (x : Instr) (s : State) (v : Mask) : Prop := issues i s = true → WritesMask i n s (exec x s) v

/-- Wherever it takes effect, the instruction leaves these words, or these pairs, in its destination. -/
def Gives32At (i : Info) (x : Instr) (s : State) (f : Nat → Word) : Prop := issues i s = true → Writes32 i s (exec x s) f
def Gives64At (i : Info) (x : Instr) (s : State) (f : Nat → Dword) : Prop := issues i s = true → Writes64 i s (exec x s) f

/-! ## Floating instructions -/

/-- No shadow unit disagrees at this instruction (10_formats R249). -/
def State.noUpset (s : State) : Bool := (s.shadowAt s.cur s.me.flow.ic).isNone

/-- The lanes that compute raise no exception whose trap FMODE enables (12_float R277). -/
def noEnabled (i : Info) (s : State) (r : Nat → FRes) : Prop := ∀ L ∈ i.lanes s, (r L).flags &&& enables s.me.regs.fmode = 0

/-- Lanes that computed have their flags ORed in; no other lane's flags change (10_formats R244). -/
def FlagsOred (i : Info) (s : State) (w' : Weft) (r : Nat → FRes) : Prop :=
  ∀ L, w'.fflag L = if L ∈ i.lanes s then s.me.fflag L ||| (r L).flags else s.me.fflag L

/-- The rounding environment of an element at a dither position: FMODE and the effective mode (10_formats R237 to R241, R246). -/
def Info.envAt (i : Info) (s : State) (pos : Nat) : FEnv := fenv s.me.regs.fmode (rmOf i.p s.me.regs.fmode) pos

/-- The dither position that a lane's result starts from: 0 for a uniform form (10_formats R240). -/
def Info.pos (i : Info) (L : Nat) : Nat := if i.u then 0 else L

/-- The bits of operand a, b or c of a floating form in a lane: 64 with t, else 32. -/
def Info.fa (i : Info) (t : Bool) (s : State) (L : Nat) : Nat := if t then (i.a64 s L).toNat else (i.a32 s L).toNat
def Info.fb (i : Info) (t : Bool) (s : State) (L : Nat) : Nat := if t then (i.b64 s L).toNat else (i.b32 s L).toNat
def Info.fc (i : Info) (t : Bool) (s : State) (L : Nat) : Nat := if t then (i.c64 s L).toNat else (i.c32 s L).toNat

/-- A floating instruction has taken effect: each lane's result in a destination of 32 bits, or 64 with `wide`, zero in the lanes of z,
and its flags. -/
def WritesFloat (i : Info) (wide : Bool) (s : State) (o : Host.Outcome State Fault Refusal) (r : Nat → FRes) : Prop :=
  ∃ t, o = .next t ∧ RegisterStep i (if wide then 2 else 1) s t ∧ FlagsOred i s (t.weft s.cur) r
    ∧ (∀ L ∈ i.lanes s, if wide then pairAt (t.weft s.cur) i.u i.d L = BitVec.ofNat 64 (r L).bits
                        else wordAt (t.weft s.cur) i.u i.d L = BitVec.ofNat 32 (r L).bits)
    ∧ ∀ L ∈ i.zlanes s, if wide then pairAt (t.weft s.cur) i.u i.d L = 0 else wordAt (t.weft s.cur) i.u i.d L = 0

/-- Wherever it takes effect with no upset and no enabled exception, the instruction leaves these results. -/
def GivesFloat (i : Info) (wide : Bool) (x : Instr) (s : State) (r : Nat → FRes) : Prop :=
  issues i s = true → s.noUpset = true → noEnabled i s r → WritesFloat i wide s (exec x s) r

/-- A comparison that takes effect with no enabled exception writes its bits of ACTIVE and its flags. -/
def GivesFloatMask (i : Info) (n : Nat) (x : Instr) (s : State) (r : Nat → Bool × Byte) : Prop :=
  issues i s = true → noEnabled i s (fun L => { bits := 0, flags := (r L).2 }) →
  ∃ t, exec x s = .next t ∧ PlainStep i (fun _ => False) (fun _ => False) (fun m => m = n) s t
    ∧ FlagsOred i s (t.weft s.cur) (fun L => { bits := 0, flags := (r L).2 })
    ∧ (t.weft s.cur).maskReg n = (maskWhere fun L =>
        if (i.activeOf s.me).getLsbD L then (r (if i.u then lowestLane s.me.width (i.activeOf s.me) else L)).1
        else (s.me.maskReg n).getLsbD L) &&& fullMask s.me.width

/-! ## Accesses in flight -/

/-- An instruction counted on its clause's flag has put these accesses in flight (03_encoding R56): beyond the state `s'` that its checks leave,
nothing but its weft differs; of that, the flag counts one more, the weft goes on, and no register changes but FFLAGS. -/
structure Launches (i : Info) (fs : List Flight) (s s' t : State) : Prop where
  only    : OnlyWeft s.cur s' t
  goes    : WentOn i s.me (t.weft s.cur)
  flights : (t.weft s.cur).flights = s.me.flights ++ fs
  flags   : (t.weft s.cur).flags = (s.me.countFlag ((i.ctx s).flagNo s.me)).flags
  control : SameControl { s.me with flights := (t.weft s.cur).flights, flags := (t.weft s.cur).flags, seq := (t.weft s.cur).seq } (t.weft s.cur)
  regs    : SameRegs (fun _ => False) (fun _ => False) (fun _ => False) s.me (t.weft s.cur)
  history : SameHistory s.me (t.weft s.cur)

/-- A flight whose lanes are distinct lanes below 64 that z does not zero; a uniform one has one lane. -/
def Flight.proper (f : Flight) : Prop :=
  (f.lanes.map fun l => l.lane).Nodup ∧ (∀ l ∈ f.lanes, l.lane < 64 ∧ f.zlanes.getLsbD l.lane = false)
    ∧ (f.uni = true → ∃ l, f.lanes = [l] ∧ f.zlanes = 0)

/-- Flight `j` of weft `k` has completed: beyond the state `s` nothing but the weft differs; of that, the flight has left, its flag counts one
less, each lane that has a value has it in the destination's words, the lanes of z are zero, and no other register changes. -/
structure Lands (k j : Nat) (f : Flight) (vals : List (Nat × BitVec 128)) (s t : State) : Prop where
  only   : OnlyWeft k s t
  weft   : t.weft k = { s.weft k with regs := (t.weft k).regs, flights := (s.weft k).flights.eraseIdx j
                                      flags := ((s.weft k).dropFlag f.flag).flags }
  fflags : SameFflags (s.weft k) (t.weft k)
  regs   : SameRegs (fun q => f.uni = false ∧ f.d ≤ q ∧ q < f.d + f.words) (fun q => f.uni = true ∧ f.d ≤ q ∧ q < f.d + f.words)
             (fun _ => False) (s.weft k) (t.weft k)
  wrote  : ∀ x ∈ vals, (if f.uni then (t.weft k).regs.wordsS f.d f.words else (t.weft k).regs.wordsV f.d x.1 f.words) = splitWords f.words x.2
  zero   : ∀ L, L < (s.weft k).width → f.zlanes.getLsbD L = true → ∀ q < f.words, (t.weft k).regs.getV (f.d + q) L = 0
  others : ∀ q L, L < 64 → (∀ x ∈ vals, x.1 ≠ L) → f.zlanes.getLsbD L = false → (t.weft k).regs.getV q L = (s.weft k).regs.getV q L

/-- A store has entered the weft's store queue, counted on its clause's flag (07_memory_instructions R146, R150): nothing but its weft differs,
and of that no register; memory is as it was. -/
structure Queues (i : Info) (e : StoreEntry) (s t : State) : Prop where
  only    : OnlyWeft s.cur s t
  goes    : WentOn i s.me (t.weft s.cur)
  flags   : (t.weft s.cur).flags = (s.me.countFlag ((i.ctx s).flagNo s.me)).flags
  control : SameControl { s.me with stores := (t.weft s.cur).stores, flags := (t.weft s.cur).flags, seq := (t.weft s.cur).seq } (t.weft s.cur)
  regs    : (t.weft s.cur).regs = s.me.regs
  history : SameHistory s.me (t.weft s.cur)

/-- An instruction has taken effect on the state `s'` that its own effect leaves, and its weft goes on: of the weft nothing changes but its
place in the code, its turn and its history. -/
structure Retires (i : Info) (s s' t : State) : Prop where
  only    : OnlyWeft s.cur s' t
  goes    : WentOn i s.me (t.weft s.cur)
  control : SameControl (s'.weft s.cur) (t.weft s.cur)
  regs    : (t.weft s.cur).regs = (s'.weft s.cur).regs
  history : SameHistory (s'.weft s.cur) (t.weft s.cur)

/-- An instruction has given its core an operation counted on its clause's flag: beyond the state `s'` that its checks leave, nothing but its weft
and its core differ; of the weft, the flag counts one more, and no register changes. -/
structure Engages (i : Info) (s s' t : State) : Prop where
  only    : t = { s' with wefts := t.wefts, cores := t.cores } ∧ (∀ j, j ≠ s.cur → t.weft j = s'.weft j)
              ∧ ∀ c, c ≠ s.coreOf s.cur → t.core c = s'.core c
  goes    : WentOn i s.me (t.weft s.cur)
  flags   : (t.weft s.cur).flags = (s.me.countFlag ((i.ctx s).flagNo s.me)).flags
  control : SameControl { s.me with flags := (t.weft s.cur).flags, seq := s.me.seq + 1 } (t.weft s.cur)
  regs    : (t.weft s.cur).regs = s.me.regs
  history : SameHistory s.me (t.weft s.cur)

/-- The operation that an engine instruction gives its core, but for its kind and the places it patches (08_copy_engine R191, 10_formats
R240). -/
def Info.engOp (i : Info) (s s' : State) (kind : EngKind) : EngOp :=
  { k := s.cur, kind := kind, flag := (i.ctx s).flagNo s.me, pc := s.me.flow.pc, ic := s.me.flow.ic, lane := lowestLane s.me.width (i.activeOf s.me)
    rm := rmOf i.p s.me.regs.fmode, fmode := s.me.regs.fmode, sat := prefixSat i.p, seq := s.me.seq
    phase := if kind.sweepLike then s'.reservePhase s.cur else dphase s.me.regs.fmode }

/-- The address of a lane of a global, or a scratchpad, access: a plus the offset (07_memory_instructions R143, R148). -/
def Info.addr (i : Info) (s : State) (off : Int) (L : Nat) : Dword := addOff (i.a64 s L) off
def Info.saddr (i : Info) (s : State) (off : Int) (L : Nat) : Nat := (i.a32 s L + BitVec.ofInt 32 off).toNat

/-- Every lane that accesses has an address that is a multiple of the size. -/
def Info.allAligned (i : Info) (s : State) (off : Int) (n : Nat) : Prop := ∀ L ∈ i.lanes s, (i.addr s off L).toNat % n = 0

/-- The addresses of all lanes are translated: for each its lane, address, physical address and grain, and the state with the translations
installed (07_memory_instructions R145). -/
def Info.reaches (i : Info) (s : State) (off : Int) (acc : Acc) (accs : List (Nat × Dword × Nat × Nat)) (s' : State) : Prop :=
  s.xlateAll (s.coreOf s.cur) (s.ctxOf s.cur) acc ((i.lanes s).map fun L => (L, i.addr s off L)) = .ok (accs, s')

/-- The scratchpad addresses of all lanes pass the checks of 06_core_memory R136, and no earlier scratchpad lane of the weft is held. -/
def Info.spadOk (i : Info) (s : State) (off : Int) (n : Nat) : Prop :=
  s.me.spadHeld = false ∧ ∀ L ∈ i.lanes s, i.saddr s off L % n = 0 ∧ i.saddr s off L < (s.team (teamOf s.cur)).size
    ∧ s.spadBad (teamOf s.cur) (i.saddr s off L) = false ∧ s.spadUpset (teamOf s.cur) (i.saddr s off L) = none

/-- The lanes of a scratchpad access with their addresses. -/
def Info.spads (i : Info) (s : State) (off : Int) : List (Nat × Nat) := (i.lanes s).map fun L => (L, i.saddr s off L)

/-- A page of a team is in a frame of one of the team's own cores, and no two frames of those cores have one index. -/
def State.resident (s : State) (t P : Nat) : Prop :=
  (∃ c n f, s.findFrame t P = some (c, n, f) ∧ (c = (s.team t).core ∨ (s.team t).pair = true ∧ c = (s.team t).core + 1))
    ∧ ∀ c, SMap.wf (fun _ => (none : Option Frame)) (s.core c).frames = true

/-- The bytes of a lane's data register. -/
def Info.data (i : Info) (s : State) (n L : Nat) : List Byte := leBytes n (readOp s.me i.u i.dk i.d L).toNat

/-- The first physical register of d, or the scalar. -/
def Info.first (i : Info) (w : Weft) : Nat := if i.u then i.d.toNat else physReg w.regs i.d.toNat

/-! ## Control -/

/-- The word at an address is a clause header. -/
def State.headerAt (s : State) (k : Nat) (va : Dword) : Prop := ∃ h, s.codeWord k va = .ok h ∧ isHeader h = true

/-- A transfer may go to the address: it is canonical and aligned, and its word is a header that entry by transfer accepts
(03_encoding R53, 15_control_flow R350). -/
def State.goodTarget (s : State) (k : Nat) (va : Dword) : Prop :=
  canonical va = true ∧ va.toNat % 4 = 0 ∧ ∃ h, s.codeWord k va = .ok h ∧ isHeader h = true ∧ badHeader h = false

/-- A taken transfer: nothing but its weft differs. The weft arrives at the target with this stack and active mask, and goes on where the
arrival leads (15_control_flow R342); IC counts, and CF and CFIC name the transfer (09_registers R213); its trap registers, flags,
accesses and stores are as they were. -/
structure Transfers (i : Info) (s : State) (st : List StackEntry) (m : Mask) (target : Dword) (t : State) : Prop where
  only   : OnlyWeft s.cur s t
  stack  : (t.weft s.cur).flow.stack = (arrive st m target false).stack
  active : (t.weft s.cur).flow.active = (arrive st m target false).active
  pc     : (t.weft s.cur).flow.pc = (arrive st m target false).at_
  header : (t.weft s.cur).flow.entry ≠ .body
  ic     : (t.weft s.cur).flow.ic = if s.me.trap.handler then s.me.flow.ic else s.me.flow.ic + 1
  cf     : (t.weft s.cur).flow.cf = if s.me.trap.handler then s.me.flow.cf else s.me.flow.pc
  cfic   : (t.weft s.cur).flow.cfic = if s.me.trap.handler then s.me.flow.cfic else s.me.flow.ic
  rest   : t.weft s.cur = { s.me with flow := (t.weft s.cur).flow, regs := (t.weft s.cur).regs, hist := (t.weft s.cur).hist
                                      seg := (t.weft s.cur).seg, sched := { s.me.sched with turnLeft := (t.weft s.cur).sched.turnLeft } }

/-- A transfer that its target and the arrival there allow. -/
def State.mayTransfer (s : State) (stack : List StackEntry) (active : Mask) (target : Dword) : Prop :=
  s.goodTarget s.cur target ∧ s.me.lanesPending = false ∧ (Machine.arrive stack active target false).active ≠ 0

/-- The trap registers, place and mode of a weft that has entered a trap, and the registers, flags, accesses and stores that it keeps
(18_traps R405, R408). -/
structure EntersTrap (c : Cause) (tpc tic addr : Dword) (lane : Nat) (k : Nat) (s t : State) : Prop where
  tcause  : (t.weft k).trap.tcause = BitVec.ofNat 32 c.code
  tpc     : (t.weft k).trap.tpc = tpc
  tic     : (t.weft k).trap.tic = tic
  taddr   : (t.weft k).trap.taddr = addr
  tlane   : (t.weft k).trap.tlane = BitVec.ofNat 32 lane
  tamask  : (t.weft k).trap.tamask = (s.weft k).flow.active
  tmask   : (t.weft k).trap.tmask = (s.weft k).trap.tmask
  handler : (t.weft k).trap.handler = true
  active  : (t.weft k).flow.active = ((s.weft k).flow.active ||| (s.weft k).trap.tmask) &&& fullMask (s.weft k).width
  pc      : (t.weft k).flow.pc = s.reg (thvec (s.ctxOf k)) &&& ~~~3
  hold    : (t.weft k).hold = none
  stack   : (t.weft k).flow.stack = (s.weft k).flow.stack
  ic      : (t.weft k).flow.ic = (s.weft k).flow.ic
  regs    : (t.weft k).regs = (s.weft k).regs
  flags   : (t.weft k).flags = (s.weft k).flags
  flights : (t.weft k).flights = (s.weft k).flights
  stores  : (t.weft k).stores = (s.weft k).stores
  records : (t.weft k).hist.words = (s.weft k).hist.words ∧ (t.weft k).hist.hsp = (s.weft k).hist.hsp
  mem     : t.mem = s.mem
  others  : ∀ j, j ≠ k → t.weft j = s.weft j

/-! ## Waits -/

/-- The weft waits at its instruction in a hold of this kind: beyond the state `s'` nothing but the weft differs, and of that nothing but the
hold. -/
def KeepsWeft (i : Info) (kind : HoldKind) (s s' t : State) : Prop :=
  OnlyWeft s.cur s' t ∧ ∃ h, t.weft s.cur = { s'.weft s.cur with hold := some h } ∧ h.kind = kind ∧ h.pc = s.me.flow.pc
    ∧ h.next = s.me.flow.pc + BitVec.ofNat 64 (4 * i.len)

/-- The weft has no access in flight and no store queued, and neither have the wefts of its team a store queued: no release waits
(07_memory_instructions R157). -/
def State.storesDone (s : State) (k : Nat) : Prop :=
  (s.weft k).flights = [] ∧ (s.weft k).stores = [] ∧ ∀ x ∈ s.wefts, teamOf x.1 = teamOf k → x.2.stores = []

/-- A held weft may go on: it is live, its team is resident, and lanes are left or none has faulted. -/
def State.mayResume (s : State) (k : Nat) (h : Hold) : Prop :=
  (s.weft k).hold = some h ∧ s.canRelease k = true ∧ ((s.weft k).flow.active ≠ 0 ∨ (s.weft k).lanesPending = false)

/-- A held instruction has retired: beyond the state `s'` nothing but its weft differs; the weft goes on past the instruction, which counts, and
its registers are those of `s'`. -/
structure Resumes (k : Nat) (h : Hold) (s s' t : State) : Prop where
  only : OnlyWeft k s' t
  hold : (t.weft k).hold = none
  pc   : (t.weft k).flow.pc = h.next
  ic   : (t.weft k).flow.ic = if (s.weft k).trap.handler then (s.weft k).flow.ic else (s.weft k).flow.ic + 1
  regs : (t.weft k).regs = (s'.weft k).regs
  live : (t.weft k).status = .live

/-- The context of a weft that runs its program, not a handler, has a handler of traps (18_traps R420). -/
def State.armed (s : State) (k : Nat) : Prop := (s.weft k).trap.handler = false ∧ (s.reg (thvec (s.ctxOf k))).getLsbD 0 = true

end Machine

end Sys2Proof
end

