-- ==== Sys2Proof/Certificates/Slice0/Obligations.lean ====
section
/-!
DEFINITION. The statements for the provers.
-/

open Sys2Proof Sys2Proof.Machine

/-! ## Reset and memory -/

/-- Memory is canonical at reset. -/
def Obligations.ResetMemoryCanonical : Prop :=
  Memory.wf State.reset.mem = true

/-- Every step keeps memory in its canonical form: addresses rising, and no byte listed that equals what an unlisted one reads as. That unlisted
bytes read as zero is the model's choice (notes/assumptions 2). -/
def Obligations.MemoryStaysCanonical : Prop :=
  ∀ (s t : State), Memory.wf s.mem = true → step s = .next t → Memory.wf t.mem = true

/-- The registers of the management window hold at reset what the tables of the manual give, no team is resident, and the module is neither viral
nor repairing (04_dram_l2 R83, 05_translation R123, 06_core_memory R125, 16_scheduling R357, 19_reliability R441, 20_host_fabric R446). -/
def Obligations.ResetRegisters : Prop :=
  let s := State.reset
  let is := fun (off : Nat) (fs : List (Nat × Nat × Nat)) => ∀ x ∈ fs, s.field off x.1 x.2.1 = x.2.2
  is 0x0000 [(0, 11, 1024), (32, 20, 786432)] ∧ s.reg 0x0008 = 0 ∧ s.reg 0x0010 = 0 ∧ is 0x0018 [(0, 8, 12), (32, 32, 0)]
    ∧ (∀ n < 1024, is (0x20000 + 8 * n) [(0, 16, 0), (16, 1, 0), (17, 1, 0), (24, 8, 0x40)])
    ∧ (∀ off ∈ [0x2000, 0x2008, 0x2010, 0x2020, 0x2028, 0x2030, 0x2038], s.reg off = 0) ∧ is 0x2018 [(0, 1, 0), (8, 24, 0x1000), (32, 8, 64)]
    ∧ (∀ c < 1024, s.reg (0x4000 + 16 * c) = 0xAA55555555550000 ∧ is (0x4008 + 16 * c) [(0, 1, 0), (1, 1, 0), (10, 8, 160), (32, 32, 0)])
    ∧ (∀ q < 16384, is (0x200000 + 128 * q) [(0, 1, 0), (1, 4, 0), (5, 3, 0), (8, 4, 0xF), (12, 12, 0), (24, 1, 1)]
        ∧ s.reg (0x200008 + 128 * q) = 0 ∧ s.reg (0x200010 + 128 * q) = 0 ∧ s.reg (0x200018 + 128 * q) = 0)
    ∧ (∀ off ∈ [0x3000, 0x3008, 0x3010, 0x3038], s.reg off = 0)
    ∧ is 0xA000 [(0, 8, 16), (8, 8, 16), (16, 8, 64), (24, 8, 0)] ∧ (∀ off ∈ [0xA008, 0xA010, 0xA018], s.reg off = 0)
    ∧ is 0xB000 [(0, 2, 0)] ∧ is 0xB008 [(2, 1, 0)] ∧ is 0xB010 [(0, 16, 9600), (16, 16, 9600)] ∧ is 0xB018 [(0, 20, 0)] ∧ is 0xB020 [(0, 12, 0)]
    ∧ is 0xB028 [(0, 4, 2), (4, 4, 1), (8, 4, 1), (12, 4, 1)] ∧ is 0xB030 [(0, 2, 0)] ∧ s.ident.fwver = 0 ∧ s.ident.meas = [0, 0, 0, 0] ∧ s.ident.sig = 0
    ∧ (∀ l < 16, is (0xC000 + 64 * l) [(0, 1, 1), (1, 2, 0), (4, 4, 2)] ∧ s.reg (0xC008 + 64 * l) = 0)
    ∧ (∀ w < 16, s.reg (0xD000 + 32 * w) = 0 ∧ s.reg (0xD008 + 32 * w) = 0 ∧ s.reg (0xD010 + 32 * w) = 0)
    ∧ (∀ n < 4096, s.reg (0x18000 + 8 * n) = 0) ∧ (∀ T, (s.team T).status = .absent) ∧ s.viral = false ∧ s.repairing = false

/-! ## Words and steps -/

/-- Words written out from the encodings decode to what they stand for; a word of an unassigned opcode, or with a field that must be zero, to
nothing (03_encoding R45 to R61). -/
def Obligations.WrittenWordsDecode : Prop :=
  let one := fun (ws : List Word) (i : Instr) => decodeWords ws = .ok (i, [])
  one [0x02010286] (.add none false 4 5 6) ∧ one [0x02210286] (.add none true 4 5 6)
    ∧ one [0x0C808286] (.cmpLtI none false 2 5 6) ∧ one [0x18081403] (.shli none false 4 5 3) ∧ one [0x2009FFFD] (.addxi none false 4 0x1FFFD)
    ∧ one [0x26061234] (.movhi none false 3 0x1234) ∧ one [0x47628180] (.mpopc none 10 3)
    ∧ one [0xF000C00C] (.srd none false 3 12) ∧ one [0xF0208000] (.srd none true 2 0) ∧ one [0xF060020A] (.swr none true 4 10)
    ∧ one [0xF0A00000] (.eret none 0 0 false) ∧ one [0xF0E00000] (.fqpark none) ∧ one [0xF1200200] (.flagsClr none 4)
    ∧ one [0xF1A08000] (.pairsig none 2)
    ∧ decodeWords [0x00000000] = .error .badOpcode ∧ decodeWords [0xFE000000] = .error .badOpcode

/-- Decoding the words of a well-formed instruction, whatever follows them, gives it back with every operand (03_encoding R44 to R61). -/
def Obligations.EncodingsDecode : Prop :=
  ∀ (i : Instr) (rest : List Byte), i.layout.isSome = true → i.wf = true →
    decode ((encode i).flatMap bytesOfWord ++ rest) = .ok (i, rest)

/-- A word has one meaning, and no bit of it is dropped: the instruction that it decodes to has that word, and that prefix, as its encoding
(03_encoding R44 to R61). -/
def Obligations.WordsHaveOneMeaning : Prop :=
  ∀ (p : Option Prefix) (w : Word) (i : Instr), decodeBase p w = .ok i → i.wf = true ∧ ∃ l, i.layout = some (p, l) ∧ l.word = w

/-- When the agenda names a weft that has a place in the active set of its core, or takes a free one, and that stands inside a clause, and the word
at its PC, in the instruction cache and among the 63 of its clause, is no header, the step runs the instruction that the word decodes to, under its
prefix if one stands before it, or ILLEGAL_ENCODING; around it the step counts the issue, which changes nothing but the scheduling of wefts and the
clock of the core (02_threads R26, R41 to R43, 03_encoding R53 to R55, R61). A weft that waits outside a full active set does not issue. When the
agenda names an event, the step runs that. -/
def Obligations.StepsRunDecodedWords : Prop :=
  (∀ (s s1 : State) (k : Nat) (rest : List Move) (a : Word),
      let s0 := { s with agenda := rest, cur := k }
      let w := s1.weft k
      let around := fun (o : Host.Outcome State Fault Refusal) => match o with
        | .next t => .next (afterIssue s1 k t)
        | x => x
      s.agenda = .issue k :: rest → s0.inPlace k = some s1 → w.flow.entry = .body → s1.codeWord k w.flow.pc = .ok a →
      s1.codeCached k w.flow.pc = true → isHeader a = false → w.clausePlace w.flow.pc < 63 →
      (isPrefix a = false → (∀ i, decodeBase none a = .ok i → step s = around (exec i s1))
        ∧ ∀ e, decodeBase none a = .error e → step s = around (exec (.illegalEncoding a) s1))
      ∧ (isPrefix a = true → ∀ b, s1.codeWord k (w.flow.pc + 4) = .ok b → s1.codeCached k (w.flow.pc + 4) = true → isHeader b = false → isPrefix b = false →
          w.clausePlace (w.flow.pc + 4) < 63 →
          (∀ i, decodeBase (some (Prefix.ofWord a)) b = .ok i → step s = around (exec i s1))
            ∧ ∀ e, decodeBase (some (Prefix.ofWord a)) b = .error e → step s = around (exec (.illegalEncoding b) s1)))
  ∧ (∀ (s : State) (k : Nat) (rest : List Move), s.agenda = .issue k :: rest →
      let s0 := { s with agenda := rest, cur := k }
      ((s.weft k).sched.inActive = true → s0.inPlace k = some s0)
        ∧ (s0.inPlace k = none → step s = .next { s with agenda := rest })
        ∧ ∀ s1, s0.inPlace k = some s1 → s1 = { s0 with wefts := s1.wefts } ∧ ∀ j, s1.weft j = { s.weft j with sched := (s1.weft j).sched })
  ∧ (∀ (s t : State) (k : Nat),
      (∀ j, (afterIssue s k t).weft j = { t.weft j with sched := ((afterIssue s k t).weft j).sched })
      ∧ (∀ c, (afterIssue s k t).core c = { t.core c with round := ((afterIssue s k t).core c).round, busy := ((afterIssue s k t).core c).busy })
      ∧ afterIssue s k t = { t with wefts := (afterIssue s k t).wefts, cores := (afterIssue s k t).cores, stalled := (afterIssue s k t).stalled })
  ∧ ∀ (s : State) (i : Instr) (rest : List Move), s.agenda = .event i :: rest → Instr.isEvent i = true →
      step s = exec i { s with agenda := rest, stalled := [] }

/-! ## Integer registers -/

/-- The results of opcodes 0x01 to 0x03 (11_integer_lane R253, R254), saturating forms included (R255, R256): modulo 2^32 without sat, the exact
result clamped with it. Division by zero gives all ones, and the dividend as the remainder. -/
def Obligations.IntegerResults : Prop :=
  ∀ (p : Option Prefix) (u : Bool) (d a b : Reg) (s : State),
    let F := fun (op fn : Nat) => formA p op fn u d a b
    let sat := fun (f : Int → Int → Int → Int) (x y z : Word) =>
      if prefixExt p = 0 then BitVec.ofInt 32 (max (-2 ^ 31) (min (f x.toInt y.toInt z.toInt) (2 ^ 31 - 1)))
      else BitVec.ofInt 32 (max 0 (min (f x.toNat y.toNat z.toNat) (2 ^ 32 - 1)))
    Gives32 (F 0x01 0) (.add p u d a b) s (fun x y z _ => if prefixSat p then sat (fun x y _ => x + y) x y z else x + y)
    ∧ Gives32 (F 0x01 1) (.sub p u d a b) s (fun x y z _ => if prefixSat p then sat (fun x y _ => x - y) x y z else x - y)
    ∧ Gives32 (F 0x01 2) (.and p u d a b) s (fun x y _ _ => x &&& y)
    ∧ Gives32 (F 0x01 3) (.or p u d a b) s (fun x y _ _ => x ||| y)
    ∧ Gives32 (F 0x01 4) (.xor p u d a b) s (fun x y _ _ => x ^^^ y)
    ∧ Gives32 (F 0x01 5) (.andn p u d a b) s (fun x y _ _ => x &&& ~~~y)
    ∧ Gives32 (F 0x01 6) (.minI p u d a b) s (fun x y _ _ => if x.toInt < y.toInt then x else y)
    ∧ Gives32 (F 0x01 7) (.maxI p u d a b) s (fun x y _ _ => if x.toInt < y.toInt then y else x)
    ∧ Gives32 (F 0x02 0) (.shl p u d a b) s (fun x y _ _ => if 32 ≤ y.toNat then 0 else x <<< y.toNat)
    ∧ Gives32 (F 0x02 1) (.shr p u d a b) s (fun x y _ _ => if 32 ≤ y.toNat then 0 else x >>> y.toNat)
    ∧ Gives32 (F 0x02 2) (.sar p u d a b) s (fun x y _ _ => if 32 ≤ y.toNat then x.sshiftRight 31 else x.sshiftRight y.toNat)
    ∧ Gives32 (F 0x02 3) (.rol p u d a b) s (fun x y _ _ => x.rotateLeft (y.toNat % 32))
    ∧ Gives32 (F 0x02 4) (.ror p u d a b) s (fun x y _ _ => x.rotateRight (y.toNat % 32))
    ∧ Gives32 (F 0x02 5) (.minN p u d a b) s (fun x y _ _ => if x.toNat < y.toNat then x else y)
    ∧ Gives32 (F 0x02 6) (.maxN p u d a b) s (fun x y _ _ => if x.toNat < y.toNat then y else x)
    ∧ Gives32 (F 0x02 7) (.adif p u d a b) s (fun x y _ _ => if x.toNat < y.toNat then y - x else x - y)
    ∧ Gives32 (F 0x03 0) (.mul p u d a b) s (fun x y z _ => if prefixSat p then sat (fun x y _ => x * y) x y z else x * y)
    ∧ Gives32 (F 0x03 1) (.mulhI p u d a b) s (fun x y _ _ => ((x.signExtend 64 * y.signExtend 64) >>> 32).setWidth 32)
    ∧ Gives32 (F 0x03 2) (.mulhN p u d a b) s (fun x y _ _ => ((x.setWidth 64 * y.setWidth 64) >>> 32).setWidth 32)
    ∧ Gives32 (F 0x03 3) (.divI p u d a b) s (fun x y _ _ => if y = 0 then 0xFFFFFFFF else BitVec.ofInt 32 (x.toInt.tdiv y.toInt))
    ∧ Gives32 (F 0x03 4) (.divN p u d a b) s (fun x y _ _ => if y = 0 then 0xFFFFFFFF else BitVec.ofNat 32 (x.toNat / y.toNat))
    ∧ Gives32 (F 0x03 5) (.remI p u d a b) s (fun x y _ _ =>
        if y = 0 then x else x - y * BitVec.ofInt 32 (x.toInt.tdiv y.toInt))
    ∧ Gives32 (F 0x03 6) (.remN p u d a b) s (fun x y _ _ =>
        if y = 0 then x else x - y * BitVec.ofNat 32 (x.toNat / y.toNat))
    ∧ Gives32 (F 0x03 7) (.mad p u d a b) s (fun x y z _ =>
        if prefixSat p then sat (fun x y z => x * y + z) x y z else x * y + z)

/-- Division has no fault. A divisor of 0 gives a quotient of 0xFFFF_FFFF for DIV.i and DIV.n and a remainder equal to a for REM.i and REM.n.
DIV.i of −2^31 by −1 gives −2^31, and REM.i of the same operands gives 0 (11_integer_lane R254). -/
def Obligations.DivisionHasNoFault : Prop :=
  ∀ (p : Option Prefix) (u : Bool) (d a b : Reg) (s : State),
    let F := fun (fn : Nat) => formA p 0x03 fn u d a b
    let least : Word := 0x80000000
    let one := fun (fn : Nat) (x : Instr) (zero : Word → Word) (corner : Option Word) => issues (F fn) s = true →
      ∃ t, exec x s = .next t ∧ ∀ L ∈ (F fn).lanes s,
        ((F fn).b32 s L = 0 → wordAt (t.weft s.cur) u d L = zero ((F fn).a32 s L))
          ∧ ∀ v, corner = some v → (F fn).a32 s L = least → (F fn).b32 s L = 0xFFFFFFFF → wordAt (t.weft s.cur) u d L = v
    one 3 (.divI p u d a b) (fun _ => 0xFFFFFFFF) (some least) ∧ one 4 (.divN p u d a b) (fun _ => 0xFFFFFFFF) none
      ∧ one 5 (.remI p u d a b) id (some 0) ∧ one 6 (.remN p u d a b) id none

/-- The in-place forms add, subtract, exclusive-or, rotate, negate, complement and multiply their destination (11_integer_lane R257, R266); MULX
where no lane that takes part has an even a (R258). SWAP, CSWAP and SWAP.i64 exchange d and a in the lanes of ACTIVE and change nothing else
(11_integer_lane R259, R266). -/
def Obligations.InPlaceResults : Prop :=
  (∀ (p : Option Prefix) (u : Bool) (d a : Reg) (j : BitVec 17) (s : State),
      let F := fun (op fn : Nat) => formA p op fn u d a 0
      let N := fun (fn : Nat) => formA p 0x04 fn u d 0 0
      Gives32 (F 0x04 0) (.addx p u d a) s (fun x _ _ o => o + x)
      ∧ Gives32 (F 0x04 1) (.subx p u d a) s (fun x _ _ o => o - x)
      ∧ Gives32 (F 0x04 2) (.xorx p u d a) s (fun x _ _ o => o ^^^ x)
      ∧ Gives32 (F 0x04 3) (.rolx p u d a) s (fun x _ _ o => o.rotateLeft (x.toNat % 32))
      ∧ Gives32 (F 0x04 4) (.rorx p u d a) s (fun x _ _ o => o.rotateRight (x.toNat % 32))
      ∧ Gives32 (N 5) (.negx p u d) s (fun _ _ _ o => -o)
      ∧ Gives32 (N 6) (.notx p u d) s (fun _ _ _ o => ~~~o)
      ∧ ((∀ L ∈ (F 0x04 7).lanes s, ((F 0x04 7).a32 s L).getLsbD 0 = true) → Gives32 (F 0x04 7) (.mulx p u d a) s (fun x _ _ o => o * x))
      ∧ Gives32 (formOf p (.fmtL 0x10 u d j)) (.addxi p u d j) s (fun _ _ _ o => o + BitVec.ofInt 32 (immL p j))
      ∧ Gives32 (formOf p (.fmtL 0x11 u d j)) (.xorxi p u d j) s (fun _ _ _ o => o ^^^ BitVec.ofInt 32 (immL p j))
      ∧ Gives64 (F 0x19 3) (.addxI64 p u d a) s (fun x _ o => o + x)
      ∧ Gives64 (F 0x19 4) (.subxI64 p u d a) s (fun x _ o => o - x)
      ∧ Gives64 (F 0x19 5) (.xorxI64 p u d a) s (fun x _ o => o ^^^ x))
  ∧ (∀ (p : Option Prefix) (u : Bool) (d a : Reg) (s : State),
      let one := fun (i : Info) (x : Instr) => issues i s = true → ∃ t, exec x s = .next t
        ∧ PlainStep i (fun q => i.writesV s.me i.dk.words q ∨ (i.u = false ∧ physReg s.me.regs a.toNat ≤ q ∧ q < physReg s.me.regs a.toNat + i.dk.words))
            (fun q => i.writesS i.dk.words q ∨ (i.u = true ∧ a.toNat ≤ q ∧ q < a.toNat + i.dk.words)) (fun _ => False) s t
        ∧ OtherLanes i s (t.weft s.cur) ∧ SameFflags s.me (t.weft s.cur)
        ∧ ∀ L ∈ i.lanes s,
            (i.dk.words = 1 → wordAt (t.weft s.cur) u d L = i.a32 s L ∧ wordAt (t.weft s.cur) u a L = i.d32 s L)
            ∧ (i.dk.words = 2 → pairAt (t.weft s.cur) u d L = i.a64 s L ∧ pairAt (t.weft s.cur) u a L = i.d64 s L)
      one (formA p 0x05 0 u d a 0) (.swap p u d a) ∧ one (formA p 0x05 1 u d a 0) (.cswap p u d a)
        ∧ one (formA p 0x19 6 u d a 0) (.swapI64 p u d a))

/-- The results of the immediate forms (11_integer_lane R263, R264), of the 64-bit forms (R265 to R268), and of CLZ, POPC, BREV, SEL, MOV and BFX
(R259 to R261). -/
def Obligations.MoveAndPairResults : Prop :=
  ∀ (p : Option Prefix) (u : Bool) (d a b : Reg) (i : BitVec 10) (h : BitVec 5) (j : BitVec 17) (m : BitVec 15) (s : State),
    let F := fun (op fn : Nat) => formA p op fn u d a b
    let G := fun (fn : Nat) => formA p 0x05 fn u d a 0
    let I := fun (op : BitVec 7) => formOf p (.fmtI op u d a 0)
    let imm := BitVec.ofInt 32 (immI p i)
    Gives32 (I 0x08) (.addi p u d a i) s (fun x _ _ _ => x + imm)
    ∧ Gives32 (I 0x09) (.andi p u d a i) s (fun x _ _ _ => x &&& imm)
    ∧ Gives32 (I 0x0A) (.ori p u d a i) s (fun x _ _ _ => x ||| imm)
    ∧ Gives32 (I 0x0B) (.xori p u d a i) s (fun x _ _ _ => x ^^^ imm)
    ∧ Gives32 (I 0x0C) (.shli p u d a h) s (fun x _ _ _ => x <<< h.toNat)
    ∧ Gives32 (I 0x0D) (.shri p u d a h) s (fun x _ _ _ => x >>> h.toNat)
    ∧ Gives32 (I 0x0E) (.sari p u d a h) s (fun x _ _ _ => x.sshiftRight h.toNat)
    ∧ Gives32 (I 0x0F) (.roli p u d a h) s (fun x _ _ _ => x.rotateLeft h.toNat)
    ∧ Gives32 (formOf p (.fmtL 0x12 u d 0)) (.movi p u d j) s (fun _ _ _ _ => BitVec.ofInt 32 (immL p j))
    ∧ Gives32 (formOf p (.fmtL 0x13 u d 0)) (.movhi p u d m) s (fun _ _ _ o => m ++ o.setWidth 17)
    ∧ Gives64 (F 0x18 0) (.addI64 p u d a b) s (fun x y _ => x + y)
    ∧ Gives64 (F 0x18 1) (.subI64 p u d a b) s (fun x y _ => x - y)
    ∧ Gives64 (F 0x18 2) (.andI64 p u d a b) s (fun x y _ => x &&& y)
    ∧ Gives64 (F 0x18 3) (.orI64 p u d a b) s (fun x y _ => x ||| y)
    ∧ Gives64 (F 0x18 4) (.xorI64 p u d a b) s (fun x y _ => x ^^^ y)
    ∧ (issues (F 0x18 5) s = true → Writes64 (F 0x18 5) s (exec (.shlI64 p u d a b) s) fun L =>
        let n := ((F 0x18 5).b32 s L).toNat
        if 64 ≤ n then 0 else (F 0x18 5).a64 s L <<< n)
    ∧ (issues (F 0x18 6) s = true → Writes64 (F 0x18 6) s (exec (.shrI64 p u d a b) s) fun L =>
        let n := ((F 0x18 6).b32 s L).toNat
        if 64 ≤ n then 0 else (F 0x18 6).a64 s L >>> n)
    ∧ (issues (F 0x18 7) s = true → Writes64 (F 0x18 7) s (exec (.sarI64 p u d a b) s) fun L =>
        ((F 0x18 7).a64 s L).sshiftRight (min ((F 0x18 7).b32 s L).toNat 63))
    ∧ Gives64 (F 0x19 0) (.mulI64 p u d a b) s (fun x y _ => x * y)
    ∧ Gives64 (F 0x19 1) (.mulhI64 p u d a b) s (fun x y _ => ((x.signExtend 128 * y.signExtend 128) >>> 64).setWidth 64)
    ∧ Gives64 (F 0x19 2) (.mulhN64 p u d a b) s (fun x y _ => ((x.setWidth 128 * y.setWidth 128) >>> 64).setWidth 64)
    ∧ (issues (F 0x19 7) s = true → Writes64 (F 0x19 7) s (exec (.lea p u d a b) s) fun L =>
        let y := (F 0x19 7).b32 s L
        (F 0x19 7).a64 s L + (if (prefixExt p).getLsbD 3 then y.setWidth 64 else y.signExtend 64) <<< ((prefixExt p).toNat % 8))
    ∧ Gives64 (I 0x1A) (.addiI64 p u d a i) s (fun x _ _ => x + BitVec.ofInt 64 (immI p i))
    ∧ Gives32 (G 2) (.clz p u d a) s (fun x _ _ _ => if x = 0 then 32 else 31 - BitVec.ofNat 32 x.toNat.log2)
    ∧ Gives32 (G 3) (.popc p u d a) s (fun x _ _ _ => BitVec.ofNat 32 ((List.range 32).countP fun n => x.getLsbD n))
    ∧ Gives32 (G 4) (.brev p u d a) s (fun x _ _ _ => BitVec.ofFnLE fun n => x.getLsbD (31 - n.val))
    ∧ (issues (F 0x05 5) s = true → Writes32 (F 0x05 5) s (exec (.sel p u d a b) s) fun L =>
        let k := s.me.maskReg (prefixC p).toNat
        if (if u then k &&& s.me.flow.active != 0 else k.getLsbD L) then (F 0x05 5).a32 s L else (F 0x05 5).b32 s L)
    ∧ Gives32 (G 6) (.mov p u d a) s (fun x _ _ _ => x)
    ∧ Gives32 (F 0x05 7) (.bfx p u d a b) s (fun x y _ _ =>
        BitVec.ofNat 32 ((x.toNat / 2 ^ (y.toNat % 32)) % 2 ^ (min (y.toNat / 256 % 64) 32)))

/-! ## Masks and lanes -/

/-- CMP writes its condition into the bits of ACTIVE and keeps the other bits of the mask register (11_integer_lane R262). FCMP writes its
condition for the lanes of ACTIVE, NV by its kind, and keeps the other bits (12_float R290). -/
def Obligations.ComparisonResults : Prop :=
  (∀ (p : Option Prefix) (u : Bool) (d : BitVec 3) (a b : Reg) (s : State),
      let one := fun (fn : Nat) (x : Instr) (f : Word → Word → Bool) =>
        let i := formA p 0x06 fn u (d.setWidth 7) a b
        GivesMask i d.toNat x s (maskWhere fun L =>
          if (i.activeOf s.me).getLsbD L then f (i.a32 s L) (i.b32 s L) else (s.me.maskReg d.toNat).getLsbD L)
      one 0 (.cmpEq p u d a b) (fun x y => x = y) ∧ one 1 (.cmpNe p u d a b) (fun x y => x ≠ y)
        ∧ one 2 (.cmpLtI p u d a b) (fun x y => x.toInt < y.toInt) ∧ one 3 (.cmpLeI p u d a b) (fun x y => x.toInt ≤ y.toInt)
        ∧ one 4 (.cmpLtN p u d a b) (fun x y => x.toNat < y.toNat) ∧ one 5 (.cmpLeN p u d a b) (fun x y => x.toNat ≤ y.toNat)
        ∧ one 6 (.cmpTst p u d a b) (fun x y => x &&& y ≠ 0))
  ∧ (∀ (p : Option Prefix) (t u : Bool) (d : BitVec 3) (a b : Reg) (s : State),
      let T := fmt64 t
      let one := fun (fn : Nat) (x : Instr) (quiet : Bool) (f : FVal → FVal → Bool) =>
        let i := formA p (if t then 0x2F else 0x2E) fn u (d.setWidth 7) a b
        let v := fun (L x : Nat) => T.operand (i.envAt s (i.pos L)).ftzi x
        GivesFloatMask i d.toNat x s fun L =>
          let x := v L (i.fa t s L)
          let y := v L (i.fb t s L)
          (f x y, if (if quiet then x.isSig || y.isSig else x.isNan || y.isNan) then fNV else 0)
      let ordered := fun (x y : FVal) => !(x.isNan || y.isNan)
      one 0 (.fcmpEq p t u d a b) true (fun x y => ordered x y && decide (fOrder x y = 0))
        ∧ one 1 (.fcmpNe p t u d a b) true (fun x y => !(ordered x y && decide (fOrder x y = 0)))
        ∧ one 2 (.fcmpLt p t u d a b) false (fun x y => ordered x y && decide (fOrder x y < 0))
        ∧ one 3 (.fcmpLe p t u d a b) false (fun x y => ordered x y && decide (fOrder x y ≤ 0))
        ∧ one 4 (.fcmpGt p t u d a b) false (fun x y => ordered x y && decide (0 < fOrder x y))
        ∧ one 5 (.fcmpGe p t u d a b) false (fun x y => ordered x y && decide (0 ≤ fOrder x y))
        ∧ one 6 (.fcmpUn p t u d a b) true (fun x y => !ordered x y)
        ∧ one 7 (.fcmpOrd p t u d a b) true (fun x y => ordered x y))

/-- The LANE group: each lane of ACTIVE receives a of its source lane, inside ACTIVE or not (11_integer_lane R269). LPUSH: a target lane of ACTIVE
takes a of the lowest source lane that names it and keeps its value where none does; the mask that c names reports the losers (11_integer_lane
R271). The exchange forms, where the source lanes are a bijection of ACTIVE onto itself: LPULL.xch exchanges d of each lane with a of its source
lane, LPUSH.xch the other way round (11_integer_lane R270). -/
def Obligations.LaneGroupResults : Prop :=
  (∀ (p : Option Prefix) (d a b : Reg) (s : State),
      let F := fun (fn : Nat) => formA p 0x20 fn false d a b
      let W := s.me.width
      let one := fun (fn : Nat) (x : Instr) (src : Nat → Nat → Nat) =>
        Gives32At (F fn) x s fun L => (F fn).a32 s (src L ((F fn).b32 s L).toNat)
      one 0 (.lpull p d a b) (fun _ k => k % W)
        ∧ one 2 (.lbcast p d a b) (fun _ _ => ((F 2).b32 s (lowestLane W ((F 2).activeOf s.me))).toNat % W)
        ∧ one 3 (.lxor p d a b) (fun L k => L ^^^ (k % W))
        ∧ one 4 (.lup p d a b) (fun L k => if L < k then L else L - k)
        ∧ one 5 (.ldown p d a b) (fun L k => if W ≤ L + k then L else L + k)
        ∧ one 6 (.lrot p d a b) (fun L k => (L + k) % W))
  ∧ (∀ (p : Option Prefix) (d a b : Reg) (s : State),
      let i := formA p 0x20 1 false d a b
      let to_ := fun L => (i.b32 s L).toNat % s.me.width
      let from_ := fun T => (i.lanes s).find? fun L => to_ L = T
      let c := (prefixC p).toNat
      issues i s = true → ∃ t, exec (.lpush p d a b) s = .next t
        ∧ PlainStep i (i.writesV s.me 1) (fun _ => False) (fun m => m = c) s t ∧ OtherLanes i s (t.weft s.cur)
        ∧ SameFflags s.me (t.weft s.cur)
        ∧ (∀ T ∈ i.lanes s, wordAt (t.weft s.cur) false d T = match from_ T with
            | some L => i.a32 s L
            | none => i.d32 s T)
        ∧ (∀ T ∈ i.zlanes s, wordAt (t.weft s.cur) false d T = 0)
        ∧ (c ≠ 0 → (t.weft s.cur).maskReg c = (maskWhere fun L =>
            if (i.activeOf s.me).getLsbD L then decide (L ∈ i.lanes s ∧ ¬ (to_ L ∈ i.lanes s ∧ from_ (to_ L) = some L))
            else (s.me.maskReg c).getLsbD L) &&& fullMask s.me.width))
  ∧ (∀ (p : Prefix) (d a b : Reg) (s : State),
      let one := fun (fn : Nat) (x : Instr) (put get : Nat → Nat → Nat) =>
        let i := formXch p fn d a b
        let src := fun L => (i.b32 s L).toNat % s.me.width
        issues i s = true → ((i.lanes s).map src).Perm (i.lanes s) → ∃ t, exec x s = .next t
          ∧ PlainStep i (fun q => q = physReg s.me.regs d.toNat ∨ q = physReg s.me.regs a.toNat) (fun _ => False) (fun _ => False) s t
          ∧ OtherLanes i s (t.weft s.cur) ∧ SameFflags s.me (t.weft s.cur)
          ∧ ∀ L ∈ i.lanes s, wordAt (t.weft s.cur) false d (put L (src L)) = wordAt s.me false a (get L (src L))
              ∧ wordAt (t.weft s.cur) false a (get L (src L)) = wordAt s.me false d (put L (src L))
      one 0 (.lpullXch p d a b) (fun L _ => L) (fun _ K => K) ∧ one 1 (.lpushXch p d a b) (fun _ K => K) (fun L _ => L))

/-- Votes, reductions and scans consider the lanes of ACTIVE alone (11_integer_lane R272, R273). The mask forms clear every bit outside ACTIVE.
The MASK group acts on whole mask registers (11_integer_lane R274); results keep bits at and above W zero (02_threads R36). -/
def Obligations.VoteAndMaskResults : Prop :=
  (∀ (p : Option Prefix) (d a : Reg) (m : BitVec 3) (s : State),
      let V := fun (fn : Nat) => formA p 0x21 fn false d a 0
      let M := fun (fn : Nat) => formA p 0x21 fn false (m.setWidth 7) a 0
      let R := fun (fn : Nat) => formA p 0x22 fn false d a 0
      let ls := (V 0).lanes s
      let x := (V 0).a32 s
      GivesMask (M 0) m.toNat (.ballot p m a) s (maskWhere fun L => decide (L ∈ ls ∧ x L ≠ 0))
        ∧ GivesMask (M 1) m.toNat (.any p m a) s (maskWhere fun L => decide (L ∈ ls ∧ ∃ K ∈ ls, x K ≠ 0))
        ∧ GivesMask (M 2) m.toNat (.all p m a) s (maskWhere fun L => decide (L ∈ ls ∧ ∀ K ∈ ls, x K ≠ 0))
        ∧ GivesMask (M 5) m.toNat (.mlead p m a) s (maskWhere fun L => decide (L ∈ ls ∧ ∀ K ∈ ls, K < L → x K ≠ x L))
        ∧ Gives64At (V 3) (.matchLanes p d a) s (fun L => maskWhere fun K => decide (K ∈ ls ∧ x K = x L))
        ∧ Gives32At (V 4) (.mrank p d a) s (fun L => BitVec.ofNat 32 (ls.countP fun K => decide (K < L ∧ x K = x L)))
        ∧ Gives32At (V 6) (.pfxpop p d a) s (fun L => BitVec.ofNat 32 (ls.countP fun K => decide (K < L ∧ x K ≠ 0)))
        ∧ Gives32At (R 0) (.radd p d a) s (fun _ => (ls.map x).sum)
        ∧ (let key := fun (v : Word) => if (prefixExt p).getLsbD 0 then (v.toNat : Int) else v.toInt
           (∃ v, (∀ K ∈ ls, key v ≤ key (x K)) ∧ (ls ≠ [] → v ∈ ls.map x) ∧ Gives32At (R 1) (.rmin p d a) s fun _ => v)
           ∧ ∃ v, (∀ K ∈ ls, key (x K) ≤ key v) ∧ (ls ≠ [] → v ∈ ls.map x) ∧ Gives32At (R 2) (.rmax p d a) s fun _ => v)
        ∧ Gives32At (R 3) (.rand p d a) s (fun _ => (ls.map x).foldr (fun v r => v &&& r) (BitVec.allOnes 32))
        ∧ Gives32At (R 4) (.rorRed p d a) s (fun _ => (ls.map x).foldr (fun v r => v ||| r) 0)
        ∧ Gives32At (R 5) (.rxor p d a) s (fun _ => (ls.map x).foldr (fun v r => v ^^^ r) 0)
        ∧ Gives32At (R 6) (.scani p d a) s (fun L => ((ls.filter fun K => decide (K ≤ L)).map x).sum)
        ∧ Gives32At (R 7) (.scanx p d a) s (fun L => ((ls.filter fun K => decide (K < L)).map x).sum))
  ∧ (∀ (p : Option Prefix) (d a b : BitVec 3) (r : Reg) (s : State),
      let F := fun (fn : Nat) (d a b : Reg) => formA p 0x23 fn true d a b
      let x := s.me.maskReg a.toNat
      let y := s.me.maskReg b.toNat
      let w := fun (m : BitVec 3) => (m.setWidth 7 : Reg)
      GivesMask (F 0 (w d) (w a) (w b)) d.toNat (.mand p d a b) s (x &&& y)
        ∧ GivesMask (F 1 (w d) (w a) (w b)) d.toNat (.mor p d a b) s (x ||| y)
        ∧ GivesMask (F 2 (w d) (w a) (w b)) d.toNat (.mxor p d a b) s (x ^^^ y)
        ∧ GivesMask (F 3 (w d) (w a) 0) d.toNat (.mnot p d a) s (~~~x)
        ∧ GivesMask (F 4 (w d) (w a) 0) d.toNat (.mmov p d a) s x
        ∧ Gives32At (F 5 r (w a) 0) (.mpopc p r a) s (fun _ => BitVec.ofNat 32 ((List.range 64).countP fun n => x.getLsbD n))
        ∧ (∃ v : Word, (x = 0 → v = 0xFFFFFFFF) ∧ (x ≠ 0 → x.getLsbD v.toNat = true ∧ ∀ n < v.toNat, x.getLsbD n = false)
            ∧ Gives32At (F 6 r (w a) 0) (.mffs p r a) s fun _ => v)
        ∧ GivesMask (F 7 (w d) r 0) d.toNat (.mset p d r) s (pairAt s.me true r 0))

/-! ## Floating point -/

/-- The results and flags of opcodes 0x28 to 0x2B in both formats (12_float R279 to R285): operands under FTZI, the effective rounding mode and
the lane's dither position, and the flags ORed into the lane (R277), where no enabled exception is raised. -/
def Obligations.FloatResults : Prop :=
  ∀ (p : Option Prefix) (t u : Bool) (d a b : Reg) (s : State),
    let T := fmt64 t
    let F := fun (fn : Nat) => formA p (if t then 0x29 else 0x28) fn u d a b
    let G := fun (fn : Nat) => formA p (if t then 0x2B else 0x2A) fn u d a 0
    let E := fun (i : Info) (L : Nat) => i.envAt s (i.pos L)
    let v := fun (i : Info) (L x : Nat) => T.operand (E i L).ftzi x
    let f := fun (i : Info) (L x : Nat) => T.flush (E i L).ftzi x
    let two := fun (fn : Nat) (x : Instr) (g : FEnv → FVal → FVal → FRes) =>
      GivesFloat (F fn) t x s fun L => g (E (F fn) L) (v (F fn) L ((F fn).fa t s L)) (v (F fn) L ((F fn).fb t s L))
    let one := fun (fn : Nat) (x : Instr) (g : FEnv → FVal → FRes) =>
      GivesFloat (G fn) t x s fun L => g (E (G fn) L) (v (G fn) L ((G fn).fa t s L))
    let pick := fun (fn : Nat) (x : Instr) (m : Bool) => GivesFloat (F fn) t x s fun L =>
      let y := f (F fn) L ((F fn).fa t s L)
      let z := f (F fn) L ((F fn).fb t s L)
      fMinMax T m y z (T.decode y) (T.decode z)
    let h := 2 ^ (T.bits - 1)
    two 0 (.fadd p t u d a b) (fAdd T) ∧ two 1 (.fsub p t u d a b) (fun e x y => fAdd T e x y.negate)
      ∧ two 2 (.fmul p t u d a b) (fMul T) ∧ two 3 (.fdiv p t u d a b) (fDiv T)
      ∧ pick 4 (.fmin p t u d a b) false ∧ pick 5 (.fmax p t u d a b) true
      ∧ GivesFloat (F 6) t (.ffma p t u d a b) s (fun L => fFma T (E (F 6) L) (v (F 6) L ((F 6).fa t s L)) (v (F 6) L ((F 6).fb t s L))
          (v (F 6) L ((F 6).fc t s L)))
      ∧ GivesFloat (F 7) t (.fcopysign p t u d a b) s (fun L => { bits := (F 7).fa t s L % h + (F 7).fb t s L / h * h })
      ∧ one 0 (.fsqrt p t u d a) (fSqrt T) ∧ one 1 (.frsq p t u d a) (fRsq T) ∧ one 2 (.frec p t u d a) (fRec T)
      ∧ GivesFloat (G 3) t (.fabs p t u d a) s (fun L => { bits := (G 3).fa t s L % h })
      ∧ GivesFloat (G 4) t (.fneg p t u d a) s (fun L =>
          { bits := if (G 4).fa t s L < h then (G 4).fa t s L + h else (G 4).fa t s L - h })
      ∧ GivesFloat (G 5) t (.frnd p t u d a) s (fun L =>
          let y := f (G 5) L ((G 5).fa t s L)
          fRnd T (E (G 5) L) y (T.decode y))
      ∧ GivesFloat (G 6) false (.fclass p t u d a) s (fun L => { bits := fClass T ((G 6).fa t s L) })
      ∧ (let i := formA p (if t then 0x2B else 0x2A) 7 u d a b
         GivesFloat i t (.fscale p t u d a b) s fun L => fScale T (E i L) (v i L (i.fa t s L)) (i.b32 s L).toInt)

/-- Packed halves: both elements of a register, each at its own dither position, their flags ORed together (12_float R291). CVT converts one
element; PKn packs n elements of a register group, and UNPKn spreads n packed elements over one (12_float R292, R293). -/
def Obligations.HalfAndConversionResults : Prop :=
  (∀ (p : Option Prefix) (t u : Bool) (d a b : Reg) (s : State),
      let T := halfFmt t
      let one := fun (fn : Nat) (x : Instr) (g : FEnv → Nat → Nat → Nat → FRes) =>
        let i := formA p (if t then 0x31 else 0x30) fn u d a b
        let el := fun (v : Word) (k : Nat) => v.toNat / 2 ^ (16 * k) % 2 ^ 16
        let r := fun (L k : Nat) => g (i.envAt s (2 * i.pos L + k)) (el (i.a32 s L) k) (el (i.b32 s L) k) (el (i.c32 s L) k)
        GivesFloat i false x s fun L => { bits := (r L 0).bits % 2 ^ 16 + (r L 1).bits * 2 ^ 16, flags := (r L 0).flags ||| (r L 1).flags }
      let v := fun (e : FEnv) (x : Nat) => T.operand e.ftzi x
      let m := fun (max : Bool) (e : FEnv) (x y : Nat) =>
        fMinMax T max (T.flush e.ftzi x) (T.flush e.ftzi y) (T.decode (T.flush e.ftzi x)) (T.decode (T.flush e.ftzi y))
      one 0 (.hadd p t u d a b) (fun e x y _ => fAdd T e (v e x) (v e y))
        ∧ one 1 (.hsub p t u d a b) (fun e x y _ => fAdd T e (v e x) (v e y).negate)
        ∧ one 2 (.hmul p t u d a b) (fun e x y _ => fMul T e (v e x) (v e y))
        ∧ one 3 (.hfma p t u d a b) (fun e x y z => fFma T e (v e x) (v e y) (v e z))
        ∧ one 4 (.hmin p t u d a b) (fun e x y _ => m false e x y) ∧ one 5 (.hmax p t u d a b) (fun e x y _ => m true e x y))
  ∧ (∀ (p : Option Prefix) (u : Bool) (d a : Reg) (hi : BitVec 4) (lo : BitVec 3) (s : State),
      let F := fun (fn : Nat) => formA p 0x32 fn u d a (hi ++ lo)
      let cv := fun (src dst : Nat) (e : FEnv) (x : Nat) => convert src dst (prefixSat p) e (x % 2 ^ codeBits src)
      let wide := elemWords hi.toNat = 2
      GivesFloat (F 0) wide (.cvt p u d a hi lo) s
          (fun L => cv lo.toNat hi.toNat ((F 0).envAt s ((F 0).pos L)) ((F 0).fa (decide (elemWords lo.toNat = 2)) s L))
        ∧ (let pack := fun (fn n : Nat) (x : Instr) => GivesFloat (F fn) false x s fun L =>
             let src := fun (j : Nat) => if elemWords lo.toNat = 2
               then (pairAt s.me (F fn).aScalar (a + BitVec.ofNat 7 (2 * j)) L).toNat
               else (wordAt s.me (F fn).aScalar (a + BitVec.ofNat 7 j) L).toNat
             let rs := (List.range n).map fun j => cv lo.toNat hi.toNat ((F fn).envAt s ((F fn).pos L * n + j)) (src j)
             { bits := (rs.zipIdx.map fun x => x.1.bits % 2 ^ codeBits hi.toNat * 2 ^ (codeBits hi.toNat * x.2)).sum
               flags := rs.foldl (fun fl r => fl ||| r.flags) 0 }
           pack 1 2 (.cvtPk2 p u d a hi lo) ∧ pack 2 4 (.cvtPk4 p u d a hi lo) ∧ pack 3 8 (.cvtPk8 p u d a hi lo))
        ∧ (let unpack := fun (fn n : Nat) (x : Instr) =>
             let i := F fn
             let m := elemWords lo.toNat
             let el := fun (L j : Nat) => cv hi.toNat lo.toNat (i.envAt s (i.pos L)) ((i.a32 s L).toNat / 2 ^ (codeBits hi.toNat * j))
             let all := fun (L : Nat) => ({ bits := 0, flags := (List.range n).foldl (fun fl j => fl ||| (el L j).flags) 0 } : FRes)
             issues i s = true → s.noUpset = true → noEnabled i s all → ∃ t, exec x s = .next t
               ∧ RegisterStep i (n * m) s t ∧ FlagsOred i s (t.weft s.cur) all
               ∧ ∀ j < n, (∀ L ∈ i.lanes s,
                   if m = 2 then pairAt (t.weft s.cur) u (d + BitVec.ofNat 7 (2 * j)) L = BitVec.ofNat 64 (el L j).bits
                   else wordAt (t.weft s.cur) u (d + BitVec.ofNat 7 j) L = BitVec.ofNat 32 (el L j).bits)
                 ∧ ∀ L ∈ i.zlanes s, if m = 2 then pairAt (t.weft s.cur) u (d + BitVec.ofNat 7 (2 * j)) L = 0
                   else wordAt (t.weft s.cur) u (d + BitVec.ofNat 7 j) L = 0
           unpack 4 2 (.unpk2 p u d a hi lo) ∧ unpack 5 4 (.unpk4 p u d a hi lo) ∧ unpack 6 8 (.unpk8 p u d a hi lo)))

/-- A lane whose enabled exception is raised keeps its destination, has its flags, leaves the active mask and waits in TMASK with FPX; the others
have their results (10_formats R245, 12_float R277, 18_traps R407). Here for the per-thread forms of FADD, FSUB, FMUL and FDIV in FP32, where a
lane is left to go on. -/
def Obligations.EnabledExceptions : Prop :=
  ∀ (p : Option Prefix) (d a b : Reg) (s : State),
    let one := fun (fn : Nat) (x : Instr) (g : FEnv → FVal → FVal → FRes) =>
      let i := formA p 0x28 fn false d a b
      let e := fun (L : Nat) => i.envAt s L
      let r := fun (L : Nat) => g (e L) ((ffmt 4).operand (e L).ftzi (i.a32 s L).toNat) ((ffmt 4).operand (e L).ftzi (i.b32 s L).toNat)
      let bad := fun (L : Nat) => decide (L ∈ i.lanes s ∧ (r L).flags &&& enables s.me.regs.fmode ≠ 0)
      issues i s = true → s.noUpset = true → (∃ L, s.me.flow.active.getLsbD L = true ∧ bad L = false) →
      ∃ t, exec x s = .next t ∧ OnlyWeft s.cur s t ∧ WentOn i s.me (t.weft s.cur) ∧ FlagsOred i s (t.weft s.cur) r
        ∧ (∀ L ∈ i.lanes s, wordAt (t.weft s.cur) false d L = if bad L then i.d32 s L else BitVec.ofNat 32 (r L).bits)
        ∧ (t.weft s.cur).flow.active = s.me.flow.active &&& ~~~(maskWhere bad)
        ∧ (t.weft s.cur).trap.tmask = s.me.trap.tmask ||| maskWhere bad
        ∧ (t.weft s.cur).trap.handler = s.me.trap.handler
        ∧ (t.weft s.cur).trap.lanes = s.me.trap.lanes
            ++ ((i.lanes s).filter bad).map fun L => { lane := L, cause := .fpx, ic := s.me.flow.ic, addr := 0 }
    one 0 (.fadd p false false d a b) (fAdd (ffmt 4)) ∧ one 1 (.fsub p false false d a b) (fun e x y => fAdd (ffmt 4) e x y.negate)
      ∧ one 2 (.fmul p false false d a b) (fMul (ffmt 4)) ∧ one 3 (.fdiv p false false d a b) (fDiv (ffmt 4))

/-- A correctly rounded function raises its flags at issue and counts on flag B; its destination is guarded and waits for the result (12_float
R286, R288). The result of a function is written to its destination, in the lanes that issued it, and its flag counts down (12_float R288,
03_encoding R56); other registers and wefts stay as they were. -/
def Obligations.FunctionsRun : Prop :=
  (∀ (p : Option Prefix) (t u : Bool) (d a : Reg) (s : State),
      let T := fmt64 t
      let one := fun (fn : Nat) (x : Instr) =>
        let i := formA p (if t then 0x2D else 0x2C) fn u d a 0
        let e := fun (L : Nat) => i.envAt s (i.pos L)
        let r := fun (L : Nat) => fFn fn T (e L) (T.operand (e L).ftzi (i.fa t s L))
        let n := if t then 2 else 1
        issues i s = true → noEnabled i s r → ∃ t, exec x s = .next t ∧ FlagsOred i s (t.weft s.cur) r
          ∧ Launches i [{ op := .func, flag := s.me.flow.flagB, pc := s.me.flow.pc, ic := s.me.flow.ic, uni := u, d := i.first s.me, words := n
                          bytes := 4 * n, zlanes := i.zeroedOf s.me
                          lanes := (i.lanes s).map fun L => { lane := L, va := 0, pa := 0, x := BitVec.ofNat 128 (r L).bits } }] s s t
      one 0 (.fexp p t u d a) ∧ one 1 (.fexp2 p t u d a) ∧ one 2 (.flog p t u d a) ∧ one 3 (.flog2 p t u d a)
        ∧ one 4 (.ferf p t u d a) ∧ one 5 (.ferfc p t u d a) ∧ one 6 (.fncdf p t u d a) ∧ one 7 (.ftanh p t u d a))
  ∧ (∀ (k j : Nat) (f : Flight) (s : State),
      (s.weft k).flights[j]? = some f → f.op = .func → (s.shadowAt k f.ic).isNone = true → f.proper →
      ∃ t, exec (.functionResult k j) s = .next t ∧ Lands k j f (f.lanes.map fun l => (l.lane, l.x)) s t)

/-- Rounding an exact magnitude to a multiple of 2^q, by mode (10_formats R237, R239): the multiple n and whether the value was inexact. The
worked results of the chapters: 1.0 / 3.0 to nearest and toward zero, and 0/0 (12_float R281), ERF of 6.0 and ERFC of 30.0 (R287), and the
dithered conversion of 0x3F80_5A00 to bf16 in lanes 2, 3, 5 and 7, and in lane 5 with DPHASE 3 (10_formats R240). -/
def Obligations.RoundingExamples : Prop :=
  (∀ (v : FEnv) (neg : Bool) (m : Nat) (e q : Int), e ≤ q →
      let D := 2 ^ (q - e).toNat
      let n := (roundAt v { neg := neg, m := m, e := e } q).1
      ((roundAt v { neg := neg, m := m, e := e } q).2 = true ↔ ¬ D ∣ m)
        ∧ (v.rm = 1 → 2 * (n * D) ≤ 2 * m + D ∧ 2 * m ≤ 2 * (n * D) + D ∧ (2 * (n * D) = 2 * m + D ∨ 2 * m = 2 * (n * D) + D → n % 2 = 0))
        ∧ (v.rm = 2 → n * D ≤ m ∧ m < (n + 1) * D)
        ∧ (v.rm = 3 → if neg then n * D ≤ m ∧ m < (n + 1) * D else m ≤ n * D ∧ n * D < m + D)
        ∧ (v.rm = 4 → if neg then m ≤ n * D ∧ n * D < m + D else n * D ≤ m ∧ m < (n + 1) * D)
        ∧ (v.rm = 5 → 2 * (n * D) ≤ 2 * m + D ∧ 2 * m < 2 * (n * D) + D)
        ∧ (v.rm = 6 → n = m / D + if 64 ≤ m % D * 64 / D + v.dith then 1 else 0))
  ∧ (fDiv (ffmt 4) (fenv 0 1 0) ((ffmt 4).decode 0x3F800000) ((ffmt 4).decode 0x40400000) = { bits := 0x3EAAAAAB, flags := fNX }
    ∧ fDiv (ffmt 4) (fenv 0 2 0) ((ffmt 4).decode 0x3F800000) ((ffmt 4).decode 0x40400000) = { bits := 0x3EAAAAAA, flags := fNX }
    ∧ fDiv (ffmt 4) (fenv 0 1 0) ((ffmt 4).decode 0) ((ffmt 4).decode 0) = { bits := 0x7FC00000, flags := fNV }
    ∧ fFn 4 (ffmt 4) (fenv 0 1 0) ((ffmt 4).decode 0x40C00000) = { bits := 0x3F800000, flags := fNX }
    ∧ fFn 5 (ffmt 4) (fenv 0 1 0) ((ffmt 4).decode 0x41F00000) = { bits := 0, flags := fUF ||| fNX }
    ∧ fFn 5 (ffmt 4) (fenv 0 3 0) ((ffmt 4).decode 0x41F00000) = { bits := 1, flags := fUF ||| fNX }
    ∧ ([(2, 0), (3, 0), (5, 0), (7, 0), (5, 3)].map fun x => (convert 4 6 false (fenvAt 0 6 x.1 x.2) 0x3F805A00).bits)
        = [0x3F80, 0x3F81, 0x3F80, 0x3F81, 0x3F80])

/-! ## Memory accesses -/

/-- LD, LDA, XCHG, the atomics and ACAS, whose lanes are aligned and translated, put one access in flight on flag A: a lane for each address, with
its physical address and grain and its operands, and its place among the accesses of its core; ACAS compares with b and stores c, or the old d
without a prefix (07_memory_instructions R145, R146, R149, R153, R154, R163, R164). An atomic of the trailing member of a redundant pair waits for
its partner's result instead (19_reliability R432). LDS, XCHGS and the scratchpad atomics bind their lanes in ascending order at issue, beat by beat,
where no matrix operand read holds them, each beat after its pages have been made resident, and put one access in flight on flag A; XCHGS and the
atomics write each lane's new value before the next lane is read (02_threads R25, 06_core_memory R138, 07_memory_instructions R147, R149, R153,
R163, R165). -/
def Obligations.AccessesIssue : Prop :=
  (∀ (p : Option Prefix) (sz t u : Bool) (d a b : Reg) (z : BitVec 3) (m : BitVec 2) (k : BitVec 7) (s s' : State)
      (accs : List (Nat × Dword × Nat × Nat)),
      let one := fun (i : Info) (x : Instr) (op : FlightOp) (n : Nat) (sx : Bool) (off : Int) (acc : Acc) (X : Nat → BitVec 128) (Y : Nat → Dword) =>
        issues i s = true → i.allAligned s off n → i.reaches s off acc accs s' → s.clear s' →
        ∃ t, Takes (exec x s) s t ∧ Launches i [{ op := op, seq := s.me.seq, flag := s.me.flow.flagA, pc := s.me.flow.pc, ic := s.me.flow.ic, uni := i.u
                                                  d := i.first s.me, words := i.dk.words, bytes := n, sext := sx, zlanes := i.zeroedOf s.me
                                                  born := (s'.core (s.coreOf s.cur)).arrived
                                                  lanes := accs.map fun y => { lane := y.1, va := y.2.1, pa := y.2.2.1, gr := y.2.2.2
                                                                               x := X y.1, y := Y y.1 } }] s (s'.arrive (s.coreOf s.cur)).2 t
      let none_ := fun (_ : Nat) => (0 : BitVec 128)
      let noY := fun (_ : Nat) => (0 : Dword)
      let D := fun (i : Info) (L : Nat) => readOp s.me i.u i.dk i.d L
      let B := fun (i : Info) (L : Nat) => readOp s.me i.bScalar i.bk i.b L
      let C := fun (i : Info) (L : Nat) => if i.p.isSome then readOp s.me i.u i.ck i.c L else D i L
      let n2 : Nat := if sz then 8 else 4
      let code := if sz then 5 else 4
      let shared := fun (i : Info) (x : Instr) (op : FlightOp) (n : Nat) (X : Nat → BitVec 128) (Y : Nat → Dword) =>
        (s.member s.cur ≠ 2 → one i x op n false 0 .write X Y) ∧ (s.member s.cur = 2 → one i x (.mirror false) n false 0 .write none_ noY)
      let atom := fun (fn : Nat) (x : Instr) =>
        let i := formA p (if t then 0x49 else 0x48) fn u d a b
        shared i x (.atom fn) (if t then 8 else 4) (B i) noY
      let cas := fun (fn n : Nat) (x : Instr) =>
        let i := formA p 0x4A fn u d a b
        shared i x .acas n (C i) (fun L => (B i L).setWidth 64)
      one (formA p 0x38 z.toNat u d a k) (.ld p z u d a k) .load (szBytes z.toNat) (loadSext z) (immM p k * szBytes z.toNat) .read none_ noY
        ∧ one (formA p 0x3E (2 * m.toNat + sz.toNat) u d a k) (.lda p m sz u d a k) (.lda m.toNat) n2 false (immM p k * n2) .read none_ noY
        ∧ (let i := formA p 0x3C code u d a k
           one i (.xchg p sz u d a k) .xchg n2 false (immM p k * n2) .write (D i) noY)
        ∧ atom 0 (.aaddI p t u d a b) ∧ atom 1 (.aaddF p t u d a b) ∧ atom 2 (.aminI p t u d a b) ∧ atom 3 (.amaxI p t u d a b)
        ∧ atom 4 (.aand p t u d a b) ∧ atom 5 (.aor p t u d a b) ∧ atom 6 (.axor p t u d a b) ∧ atom 7 (.axch p t u d a b)
        ∧ cas 0 4 (.acasB32 p u d a b) ∧ cas 1 8 (.acasB64 p u d a b))
  ∧ (∀ (p : Option Prefix) (sz u : Bool) (d a b : Reg) (z : BitVec 3) (k : BitVec 7) (s s' : State) (ls : List LaneAcc),
      let T := teamOf s.cur
      let core := s.coreOf s.cur
      let flight := fun (i : Info) (op : FlightOp) (n words : Nat) (sx : Bool) (ls : List LaneAcc) =>
        ({ op := op, seq := s.me.seq, flag := s.me.flow.flagA, pc := s.me.flow.pc, ic := s.me.flow.ic, uni := i.u, d := i.first s.me
           words := words, bytes := n, sext := sx, zlanes := i.zeroedOf s.me, lanes := ls } : Flight)
      let load := fun (i : Info) (x : Instr) (n : Nat) (off : Int) =>
        issues i s = true → i.spadOk s off n →
        runBeats T core (fun L (y : Nat × Unit) s =>
          (({ lane := L, va := BitVec.ofNat 64 y.1, pa := y.1, val := some (valOf (s.spadRead T y.1 n)) } : LaneAcc), s))
          (beatsOf (bare (i.spads s off))) s = .ok (ls, s') → s.clear s' →
        (∃ t, Takes (exec x s) s t ∧ Launches i [flight i .lds n i.dk.words (loadSext z) ls] s s' t)
          ∧ ∀ L, L < 64 → i.lanes s = [L] → s.resident T (i.saddr s off L / 2048) → (T, i.saddr s off L / 2048) ∈ (s.core core).stlb →
              ls = [{ lane := L, va := BitVec.ofNat 64 (i.saddr s off L), pa := i.saddr s off L
                      val := some (valOf (s.spadRead T (i.saddr s off L) n)) }] ∧ s'.mem = s.mem
      let rmw := fun (i : Info) (x : Instr) (op : FlightOp) (n : Nat) (off : Int) (f : Nat → BitVec 128 → BitVec 128) (X : Nat → BitVec 128) =>
        issues i s = true → i.spadOk s off n → runBeats T core (spadRmw T n f) (beatsOf (bare (i.spads s off))) s = .ok (ls, s') →
        s.clear s' → s'.me = s.me →
        (∃ t, Takes (exec x s) s t ∧ Launches i [flight i op n i.dk.words false (ls.map fun l => { l with x := X l.lane })] s s' t)
          ∧ ∀ L, L < 64 → i.lanes s = [L] → s.resident T (i.saddr s off L / 2048) → (T, i.saddr s off L / 2048) ∈ (s.core core).stlb →
              s.mmasReading T (i.saddr s off L) n = [] → (∀ j ∈ s.weftsOf T, (s.weft j).hold = none) →
              let A := i.saddr s off L
              ls.map (fun l => l.val) = [some (valOf (s.spadRead T A n))] ∧ s'.mem = s.mem
                ∧ ∀ q, s'.spadByte T q = if A ≤ q ∧ q < A + n then (leBytes n (f L (valOf (s.spadRead T A n))).toNat).getD (q - A) 0
                                         else s.spadByte T q
      let n2 : Nat := if sz then 8 else 4
      let i2 := formA p 0x3D (if sz then 5 else 4) u d a k
      let old := fun (L : Nat) => readOp s.me i2.u i2.dk i2.d L
      let atom := fun (fn : Nat) (x : Instr) =>
        let i := formA p 0x4B fn u d a b
        let opnd := fun (L : Nat) => readOp s.me i.bScalar i.bk i.b L
        rmw i x (.atoms fn) 4 0 (fun L o => atomicNew fn 4 o (opnd L)) opnd
      load (formA p 0x3A z.toNat u d a k) (.lds p z u d a k) (szBytes z.toNat) (immM p k * szBytes z.toNat)
        ∧ rmw i2 (.xchgs p sz u d a k) .xchgs n2 (immM p k * n2) (fun L _ => old L) old
        ∧ atom 0 (.aaddsI32 p u d a b) ∧ atom 1 (.aaddsF32 p u d a b) ∧ atom 2 (.aminsI p u d a b) ∧ atom 3 (.amaxsI p u d a b)
        ∧ atom 4 (.aands p u d a b) ∧ atom 5 (.aors p u d a b) ∧ atom 6 (.axors p u d a b) ∧ atom 7 (.axchs p u d a b))

/-- The new value that an atomic writes from the old one and its operand, for 4 and 8 bytes: sum, signed minimum and maximum, and, or,
exclusive-or, exchange (07_memory_instructions R163). -/
def Obligations.AtomicValues : Prop :=
  ∀ (n : Nat) (o x : BitVec 128), n = 4 ∨ n = 8 → o.toNat < 2 ^ (8 * n) → x.toNat < 2 ^ (8 * n) →
    let sg := fun (v : BitVec 128) => if v.toNat < 2 ^ (8 * n - 1) then (v.toNat : Int) else (v.toNat : Int) - 2 ^ (8 * n)
    (atomicNew 0 n o x).toNat = (o.toNat + x.toNat) % 2 ^ (8 * n)
      ∧ atomicNew 2 n o x = (if sg x < sg o then x else o) ∧ atomicNew 3 n o x = (if sg o < sg x then x else o)
      ∧ atomicNew 4 n o x = o &&& x ∧ atomicNew 5 n o x = o ||| x ∧ atomicNew 6 n o x = o ^^^ x ∧ atomicNew 7 n o x = x

/-- ST and STL of a weft outside redundant pairs, whose lanes are aligned, enter the store queue on flag B with the bytes of each lane in
ascending order, a .b128 lane as two halves, the high one first; with no lane they are complete at once; memory does not change at issue
(07_memory_instructions R146, R150). STL waits until a release at its scope would complete (R155). STS writes its lanes in ascending order at
retirement, beat by beat, where no matrix operand read holds them, each beat after its pages have been made resident; a later lane overwrites an
earlier one, and no other byte of the scratchpad and no byte of memory changes (02_threads R25, 07_memory_instructions R147, R150, R152). -/
def Obligations.StoresQueue : Prop :=
  (∀ (p : Option Prefix) (sz u : Bool) (d a : Reg) (z : BitVec 3) (m : BitVec 2) (k : BitVec 7) (s : State),
      let pieces := fun (i : Info) (off : Int) (n : Nat) => (i.lanes s).flatMap fun L =>
        if n = 16 then [(L, i.addr s off L + 8, (i.data s 16 L).drop 8), (L, i.addr s off L, (i.data s 16 L).take 8)]
        else [(L, i.addr s off L, i.data s n L)]
      let one := fun (i : Info) (x : Instr) (off : Int) (n : Nat) (before : State) =>
        (i.lanes s ≠ [] → ∃ t e, exec x s = .next t ∧ Queues i e s t ∧ (t.weft s.cur).stores = before.me.stores ++ [e]
          ∧ e.seq = s.me.seq ∧ (t.weft s.cur).seq = s.me.seq + 1 ∧ e.pc = s.me.flow.pc ∧ e.ic = s.me.flow.ic
          ∧ e.flag = some s.me.flow.flagB ∧ e.entered = false ∧ e.spad = false
          ∧ e.pieces.map (fun q => (q.lane, q.va, q.data)) = pieces i off n ∧ ∀ q ∈ e.pieces, q.done = false)
        ∧ (i.lanes s = [] → ∃ t, exec x s = .next t ∧ Retires i s before t)
      let n := szBytes z.toNat
      let i := formA p 0x39 z.toNat u d a k
      let n2 : Nat := if sz then 8 else 4
      let j := formA p 0x3F (2 * m.toNat + sz.toNat) u d a k
      s.member s.cur = 0 → s.me.queueLen < 32 →
      (issues i s = true → i.allAligned s (immM p k * n) n → one i (.st p z u d a k) (immM p k * n) n s)
        ∧ (issues j s = true → j.allAligned s (immM p k * n2) n2 → fenceReady s s.cur 1 (m.toNat + 1) = true →
            one j (.stl p m sz u d a k) (immM p k * n2) n2
              (s.modWeft s.cur fun w => { w with stores := w.stores.map fun e => { e with released := e.released || m == 0 } })))
  ∧ (∀ (p : Option Prefix) (u : Bool) (d a : Reg) (z : BitVec 3) (k : BitVec 7) (s s1 s2 : State) (olds : List (List (List Word))) (r : List Unit),
      let T := teamOf s.cur
      let core := s.coreOf s.cur
      let n := szBytes z.toNat
      let off := immM p k * n
      let i := formA p 0x3B z.toNat u d a k
      issues i s = true → i.spadOk s off n →
      runBeats T core (fun _ (x : Nat × Unit) s => (oldWords (fun q m => s.spadRead T q m) n x.1, s)) (beatsOf (bare (i.spads s off))) s = .ok (olds, s1) →
      (∀ L ∈ i.lanes s, s1.mmasReading T (i.saddr s off L) n = []) →
      runBeats T core (fun _ (x : Nat × List Byte × List (Nat × Nat)) s => ((), s.spadPut T x.1 x.2.1))
        (beatsOf ((i.lanes s).map fun L => (L, i.saddr s off L, i.data s n L, []))) s1 = .ok (r, s2) →
      s.clear s2 → s2.me = s.me →
      (∃ t, Takes (exec (.sts p z u d a k) s) s t ∧ Retires i s s2 t)
        ∧ ∀ L, L < 64 → i.lanes s = [L] → s.resident T (i.saddr s off L / 2048) → (T, i.saddr s off L / 2048) ∈ (s.core core).stlb →
            (∀ j ∈ s.weftsOf T, (s.weft j).hold = none) →
            let A := i.saddr s off L
            s2.mem = s.mem ∧ ∀ q, s2.spadByte T q = if A ≤ q ∧ q < A + n then (i.data s n L).getD (q - A) 0 else s.spadByte T q)

/-- FLAG_A_COMPLETION: a global load, exchange or atomic that may be performed now is performed in ascending lanes; a scratchpad access whose held
lanes can all be performed, and an answered remote access, have their values; an atomic of a trailing member takes its partner's result. The
destinations are written and the flag counts down (03_encoding R56, 07_memory_instructions R147, R149, 14_consistency R328, 19_reliability R432).
Here of remote accesses and results without a lane fault. -/
def Obligations.AccessesComplete : Prop :=
  ∀ (k j : Nat) (f : Flight) (s s' : State) (ls : List LaneAcc),
    (s.weft k).flights[j]? = some f → f.proper →
    let vals := fun (ls : List LaneAcc) => ls.filterMap fun l => l.val.map fun v => (l.lane, extendVal f.bytes f.sext v)
    let done := fun (s' : State) (ls : List LaneAcc) => ∃ t, exec (.flagACompletion k j) s = .next t ∧ Lands k j f (vals ls) s' t
    let takes := fun (s' : State) (ls : List LaneAcc) => ∃ t, Takes (exec (.flagACompletion k j) s) s t ∧ Lands k j f (vals ls) s' t
    (f.globalLoad = true → f.op ≠ .mirror false → s.mayPerform k f = true →
        performAll k f (s.ownWrites k f.seq) f.lanes (s.acting k f.seq) = (ls, s') → s.clear s' →
        takes (s'.giveResult k f.ic (laneVals ls) []) ls)
      ∧ (f.op = .lds → s.coh.blocked = false → takes s f.lanes)
      ∧ ((f.op = .xchgs ∨ ∃ fn, f.op = .atoms fn) → performSpad k f s = .ok (ls, s') → (∀ l ∈ ls, l.val.isSome = true) → s.clear s' → takes s' ls)
      ∧ (∀ remote r, f.op = .mirror remote → (s.weft k).resultOf f.ic = some r → s.coh.blocked = false →
          (∀ l ∈ f.lanes, (r.faults.find? fun x => x.1 == l.lane) = none) →
          takes (s.modWeft k fun w => w.dropResult f.ic)
            (f.lanes.map fun l => { l with val := (r.vals.find? fun x => x.1 == l.lane).map fun x => x.2, cause := none }))
      ∧ ((f.op = .rld ∨ f.op = .retry ∨ ∃ fn, f.op = .ratom fn) → (∀ l ∈ f.lanes, l.val.isSome = true ∧ l.cause = none) →
          done (s.giveResult k f.ic (laneVals f.lanes) []) f.lanes)
      ∧ (f.op = .func → f.words = 0 → f.lanes = [] → done s [])

/-- STORE_ENTRY translates the oldest store that has not entered, in every lane, and marks it entered, in its place among the accesses of its core; a
lane without permission stops the whole store, which leaves the queue and waits as an imprecise PROT of the weft (07_memory_instructions R146, R150,
R157). STORE_ORDER_POINT: once every earlier load of the weft has its value and the earlier stores to the unit are done, its own and those that
entered the core's L1 before it, the pieces of a store in one unit are written by the core, their old bytes go to the store's records, and a store
with no piece left leaves the queue and counts its flag down (04_dram_l2 R96, 07_memory_instructions R147, R150, 14_consistency R328). A core's store
to an uncached range that misses its L1 changes exactly its bytes of memory (04_dram_l2 R98, R99), and a load from it reads them. -/
def Obligations.StoresReachMemory : Prop :=
  (∀ (k : Nat) (e : StoreEntry) (s s' : State) (accs : List (Nat × Dword × Nat × Nat)) (n : Nat) (va : Dword),
      (s.weft k).stores.find? (fun e => !e.entered) = some e →
      let vas := (List.range e.pieces.length).zip (e.pieces.map fun p => p.va)
      let r := s.xlateAll (s.coreOf k) (s.ctxOf k) .write vas
      (r = .ok (accs, s') → (s.weft k).stores.countP (fun x => x.seq = e.seq) = 1 → accs.length = e.pieces.length → s.clear s' →
          ∃ t, Takes (exec (.storeEntry k) s) s t ∧ OnlyWeft k (s'.arrive (s.coreOf k)).2 t
            ∧ t.weft k = { s.weft k with stores := (s.weft k).stores.map fun x => if x.seq = e.seq then
                { e with entered := true, born := (s'.core (s.coreOf k)).arrived
                         pieces := (e.pieces.zip accs).map fun y => { y.1 with pa := y.2.2.2.1, gr := y.2.2.2.2 } } else x })
        ∧ (r = .error (.prot, n, va) → (s.weft k).status = .live → (s.weft k).hold = none →
          ∃ t, exec (.storeEntry k) s = .next t ∧ OnlyWeft k s t
            ∧ (t.weft k).stores = (s.weft k).stores.filter (fun x => x.seq != e.seq) ∧ (t.weft k).regs = (s.weft k).regs
            ∧ (t.weft k).flow = (s.weft k).flow ∧ ∃ x, (t.weft k).trap = { (s.weft k).trap with impr := (s.weft k).trap.impr ++ [x] }
                ∧ x.cause = .prot ∧ x.pc = e.pc ∧ x.ic = e.ic ∧ x.addr = va ∧ x.gate = none))
  ∧ (∀ (k j l : Nat) (e : StoreEntry) (p : Piece) (s : State),
      (s.weft k).stores[j]? = some e → e.pieces.find? (fun q => !q.done && q.lane == l) = some p → e.spad = false → e.entered = true →
      (s.weft k).earlierLoads e.seq = [] → s.storeBefore k e.seq p.pa p.gr = false → s.otherBefore k p.pa p.gr e.born = false →
      let now := e.pieces.filter fun q => !q.done && sameUnit q.pa q.gr p.pa p.gr
      let s' := now.foldl (fun s q => s.coreWrite (s.coreOf k) (s.ctxOf k) q.va q.pa q.gr q.data) (s.acting k e.seq)
      let ps := e.pieces.map fun q => if now.contains q then { q with done := true } else q
      s.clear s' →
      ∃ t, Takes (exec (.storeOrderPoint k j l) s) s t ∧ OnlyWeft k s' t ∧ (t.weft k).regs = (s.weft k).regs ∧ (t.weft k).flow = (s.weft k).flow
        ∧ (if ps.all fun q => q.done then (t.weft k).stores = (s.weft k).stores.filter fun x => x.seq != e.seq
           else (t.weft k).stores = (s.weft k).stores.map fun x => if x.seq = e.seq then { x with pieces := ps } else x)
        ∧ (∀ n, (t.weft k).flagCount n =
            if (ps.all fun q => q.done) ∧ e.flag = some n then (s.weft k).flagCount n - 1 else (s.weft k).flagCount n)
        ∧ ((∀ q ∈ now, q.hist = none) → (t.weft k).hist.words = (s.weft k).hist.words))
  ∧ (∀ (s : State) (core ctx : Nat) (va : Dword) (pa gr n : Nat) (bs : List Byte), s.lineAt core ctx va = none → s.sectorAt core ctx va = none →
      let s1 := (s.noteWriter core pa bs.length).holdRanges core ctx
      let s2 := s.holdRanges core ctx
      (s1.rangeMode ctx pa = 2 →
        ∀ q, (s.coreWrite core ctx va pa gr bs).byte q = if pa ≤ q ∧ q < pa + bs.length then bs.getD (q - pa) 0 else s1.byte q)
      ∧ (s2.rangeMode ctx pa = 2 → (s.coreRead core ctx va pa gr n).1 = (List.range n).map fun i => s2.byte (pa + i)))

/-- The fences. A weft outside redundant pairs with no access in flight and no store of its team queued passes FENCE.acq, FENCE.rel, FENCE.ar and
FENCE.sc at once, and each changes no register, no record and no byte of memory. In general one whose condition holds retires; a release at .t marks
the queued stores. One whose condition does not hold keeps its weft, and FENCE_COMPLETE retires it when the condition holds, with no access in
flight and no store queued in any case (07_memory_instructions R156, R157). -/
def Obligations.FencesOrder : Prop :=
  (∀ (p : Option Prefix) (sc : BitVec 2) (s : State),
    let F := fun (fn : Nat) => formA p 0x41 fn true 0 0 (sc.setWidth 7)
    let quiet := s.member s.cur = 0 ∧ s.storesDone s.cur
    let passes := fun (fn : Nat) (o : Host.Outcome State Fault Refusal) =>
      ∃ t, o = .next t ∧ PlainStep (F fn) (fun _ => False) (fun _ => False) (fun _ => False) s t ∧ (t.weft s.cur).regs = s.me.regs
    (issues (F 0) s = true → quiet → passes 0 (exec (.fenceAcq p sc) s)) ∧ (issues (F 1) s = true → quiet → passes 1 (exec (.fenceRel p sc) s))
      ∧ (issues (F 2) s = true → quiet → passes 2 (exec (.fenceAr p sc) s)) ∧ (issues (F 3) s = true → quiet → passes 3 (exec (.fenceSc p sc) s)))
  ∧ (∀ (k fn scope : Nat) (h : Hold) (s : State), (s.weft k).hold = some h → h.kind = .fence fn scope → s.canRelease k = true →
      ((s.weft k).flow.active ≠ 0 ∨ (s.weft k).lanesPending = false) →
      (s.storesDone k ∨ fenceReady s k fn scope = true) →
      ∃ t, exec (.fenceComplete k) s = .next t ∧ OnlyWeft k s t ∧ (t.weft k).hold = none ∧ (t.weft k).flow.pc = h.next
        ∧ (t.weft k).flow.ic = (if (s.weft k).trap.handler then (s.weft k).flow.ic else (s.weft k).flow.ic + 1)
        ∧ (t.weft k).regs = (s.weft k).regs)
  ∧ ∀ (p : Option Prefix) (sc : BitVec 2) (s : State),
      let one := fun (fn : Nat) (x : Instr) =>
        let i := formA p 0x41 fn true 0 0 (sc.setWidth 7)
        issues i s = true → (s.member s.cur = 0 ∨ fn = 0 ∨ sc ≠ 1 ∨ (s.teamOfWeft s.cur).pair = false) →
        (fenceReady s s.cur fn sc.toNat = true → ∃ t, exec x s = .next t ∧ OnlyWeft s.cur s t ∧ WentOn i s.me (t.weft s.cur)
            ∧ SameControl { s.me with stores := (t.weft s.cur).stores } (t.weft s.cur) ∧ (t.weft s.cur).regs = s.me.regs
            ∧ (t.weft s.cur).stores = s.me.stores.map fun e => { e with released := e.released || (fn ≠ 0 ∧ sc = 1) })
          ∧ (fenceReady s s.cur fn sc.toNat = false → ∃ t h, exec x s = .next t ∧ OnlyWeft s.cur s t
              ∧ t.weft s.cur = { s.me with hold := some h } ∧ h.kind = .fence fn sc.toNat ∧ h.pc = s.me.flow.pc
              ∧ h.next = s.me.flow.pc + BitVec.ofNat 64 (4 * i.len))
      one 0 (.fenceAcq p sc) ∧ one 1 (.fenceRel p sc) ∧ one 2 (.fenceAr p sc) ∧ one 3 (.fenceSc p sc)

/-- Cache maintenance and prefetch retire and change no register: CFLUSH, CINV and CCLEAN where every page is translated and no store of the weft
in the ranges is still to be performed, whatever addresses it names them by; PREF, PREF1 and IPREF always, a part that may not be performed now
being dropped; SPEVICT where the evictions find their memory, a page that is held being marked to leave (06_core_memory R138,
07_memory_instructions R159 to R162). -/
def Obligations.CacheOperations : Prop :=
  ∀ (p : Option Prefix) (u : Bool) (a b : Reg) (s s1 s2 : State) (accs : List (Nat × Dword × Nat × Nat)),
    let i := fun (fn : Nat) => formA p 0x40 fn u 0 a b
    let core := s.coreOf s.cur
    let ranges := cmoRanges ((i 0).ctx s) s.me 32
    let maintain := fun (fn : Nat) (x : Instr) =>
      let pages := ranges.flatMap fun r => (pagesOf r.2.1 r.2.2).map fun q => (r.1, q)
      let runs := (pages.zip accs).map fun y => (y.2.2.2.1 + (y.1.2.2.1 - y.1.2.1), y.2.2.2.1 + (y.1.2.2.2 - y.1.2.1))
      let s' := runs.foldl (fun s r => s.maintain fn core r.1 r.2) s1
      issues (i fn) s = true →
      s.xlateAll core (s.ctxOf s.cur) .maint (pages.map fun q => (q.1, BitVec.ofNat 64 q.2.1)) = .ok (accs, s1) →
      (∀ r ∈ runs, s1.storesMeet s.cur r.1 r.2 = false ∧ (s.member s.cur = 0 ∨ s1.segMeets s.cur r.1 r.2 = false)) → s.clear s' →
      ∃ t, Takes (exec x s) s t ∧ Retires (i fn) s s' t
    let fetch := fun (fn : Nat) (x : Instr) =>
      let s' := (ranges.flatMap fun r => pagesOf r.2.1 r.2.2).foldl (fun s q => tryTo s fun s =>
        if fn = 5 then prefCode core (s.ctxOf s.cur) q.2.1 q.2.2 s else prefSectors fn core (s.ctxOf s.cur) q s) s
      issues (i fn) s = true → s.clear s' → ∃ t, Takes (exec x s) s t ∧ Retires (i fn) s s' t ∧ s'.wefts = s.wefts ∧ s'.teams = s.teams
    maintain 0 (.cflush p u a b) ∧ maintain 1 (.cinv p u a b) ∧ maintain 2 (.cclean p u a b)
      ∧ fetch 3 (.pref p u a b) ∧ fetch 4 (.pref1 p u a b) ∧ fetch 5 (.ipref p u a b)
      ∧ (let T := teamOf s.cur
         let pages := ((cmoRanges ((i 6).ctx s) s.me 2048).flatMap fun r =>
           (List.range (r.2.2 / 2048 - r.2.1 / 2048)).map fun n => r.2.1 / 2048 + n).filter fun P => decide (P * 2048 < (s.team T).size)
         issues (i 6) s = true →
         pages.foldl (fun (r : Except Stop State) P => match r with
           | .error e => .error e
           | .ok s => match s.findFrame T P with
             | some (c, n, f) => if s.heldPage T P then .ok (s.setFrame c n (some { f with due := true })) else s.evict c n
             | none => .ok s) (.ok s) = .ok s2 → s.clear s2 →
         ∃ t, Takes (exec (.spevict p u a b) s) s t ∧ Retires (i 6) s s2 t)

/-- RATOM, RLD and RST, whose lanes are aligned, ask their peers in ascending lanes and put one access in flight; RST while a lane waits for its
answer. Lanes of a load or store that name one address take one request, and its answer (07_memory_instructions R147). The request of a lane names
its address and operand, and goes out on the link to its peer with the next sequence number and a good CRC (07_memory_instructions R168 to R170,
20_host_fabric R448, R449). Those of the trailing member of a redundant pair wait for its partner's result instead (19_reliability R432). -/
def Obligations.RemoteRequests : Prop :=
  ∀ (p : Option Prefix) (u : Bool) (d a b : Reg) (s s' : State) (ls : List LaneAcc),
    let one := fun (i : Info) (x : Instr) (op : RemoteOp) (fop : FlightOp) (words n : Nat) =>
      let ask := (i.lanes s).map fun L => (L, i.addr s 0 L, readOp s.me i.u i.dk i.d L, readOp s.me i.bScalar i.bk i.b L, readOp s.me i.u i.ck i.c L)
      let flight := fun (fop : FlightOp) (ls : List LaneAcc) =>
        ({ op := fop, seq := s.me.seq, flag := (i.ctx s).flagNo s.me, pc := s.me.flow.pc, ic := s.me.flow.ic, uni := i.u, d := i.first s.me
           words := words, bytes := n, lanes := ls, zlanes := i.zeroedOf s.me } : Flight)
      issues i s = true → i.allAligned s 0 n →
      (s.member s.cur ≠ 2 → askAll op s.cur s.me.seq ask s = (ls, s') →
        (fop = .rst → (spreadAnswers (flight fop ls)).answered = false) →
        (∀ f ∈ s.me.flights, (f.op = .rst → f.answered = false) ∧ (f.op ≠ .func → f.seq ≠ s.me.seq)) →
        ∃ t, exec x s = .next t ∧ Launches i [spreadAnswers (flight fop ls)] s s' t)
      ∧ (s.member s.cur = 2 → ∃ t, exec x s = .next t
          ∧ Launches i [flight (.mirror true) ((i.lanes s).map fun L => { lane := L, va := i.addr s 0 L, pa := 0 })] s s t)
    let atom := fun (fn : Nat) (x : Instr) (op : RemoteOp) (fop : FlightOp) => one (formA p 0x4D fn u d a b) x op fop 2 8
    let mem := fun (fn : Nat) (x : Instr) (op : RemoteOp) (fop : FlightOp) (words n : Nat) => one (formA p 0x4E fn u d a 0) x op fop words n
    let asks := fun (op : RemoteOp) (typ : Nat) (X : BitVec 128 → BitVec 128 → BitVec 128) =>
      ∀ (k seq L link : Nat) (addr : Dword) (x y z : BitVec 128), s.viral = false → s.linkTo (bitsOf addr 48 12) = some link →
        2 ≤ s.field (plstat link) 4 4 →
        ∃ g : Flit, ((askPeer op k seq L addr x y z s).2.link link).out = (s.link link).out ++ [g] ∧ g.typ = BitVec.ofNat 8 typ
          ∧ g.dst = BitVec.ofNat 16 (bitsOf addr 48 12) ∧ g.raddr = addr ∧ g.op1 = X x y ∧ g.seq = (s.link link).sendSeq ∧ g.crcOk = true
          ∧ (askPeer op k seq L addr x y z s).1 = { lane := L, va := addr, pa := 0 }
    let low := fun (v : BitVec 128) => (v.setWidth 64).setWidth 128
    atom 0 (.ratomAdd64 p u d a b) (.ratom 5) (.ratom 5) ∧ atom 1 (.ratomCas64 p u d a b) (.ratom 6) (.ratom 6)
      ∧ atom 2 (.ratomXch64 p u d a b) (.ratom 7) (.ratom 7) ∧ atom 3 (.ratomRetry p u d a b) .retry .retry
      ∧ mem 0 (.rldB64 p u d a) (.rld 8) .rld 2 8 ∧ mem 2 (.rldB128 p u d a) (.rld 16) .rld 4 16
      ∧ mem 1 (.rstB64 p u d a) (.rst 8) .rst 0 8 ∧ mem 3 (.rstB128 p u d a) (.rst 16) .rst 0 16
      ∧ asks (.rld 8) 1 (fun _ _ => 0) ∧ asks (.rld 16) 2 (fun _ _ => 0) ∧ asks (.rst 8) 3 (fun x _ => low x) ∧ asks (.rst 16) 4 (fun x _ => x)
      ∧ asks (.ratom 5) 5 (fun _ y => low y) ∧ asks (.ratom 6) 6 (fun _ y => low y) ∧ asks (.ratom 7) 7 (fun _ y => low y)

/-! ## Engines -/

/-- BCOPY, whose operands pass their checks and whose barrier is valid, gives its core a copy that waits for acceptance, with the values of a
register source; COPY_ACCEPT takes the oldest waiting copy while fewer than 64 are accepted, and its flag counts down; COPY_ELEMENT_LAND moves the
next element and steps or ends the copy (08_copy_engine R184 to R187). -/
def Obligations.CopiesRun : Prop :=
  (∀ (p : Option Prefix) (d a b : Reg) (s s1 s2 : State) (src dst : Iter) (regs : List Nat) (bs : List Byte),
    let one := fun (fn : Nat) (x : Instr) =>
      let i : Info := { formA p 0x50 fn true d a b with more := runRegisters fn a b s.me }
      let bar := (sregOf s.me d).toNat
      issues i s = true → copyOperands fn (i.ctx s) s = .ok (src, dst, regs, s1) → bar % 16 = 0 → bar < (s.team (teamOf s.cur)).size →
      spadAt (i.ctx s) s1 bar 16 = .ok (bs, s2) → (BBar.ofBytes bs).valid = true → s.clear s2 →
      ∃ t, Takes (exec x s) s t ∧ Engages i s s2 t
        ∧ (t.core (s.coreOf s.cur)) = { s2.core (s.coreOf s.cur) with copies := (s2.core (s.coreOf s.cur)).copies ++
            [{ k := s.cur, fn := fn, bar := bar, flag := s.me.flow.flagB, pc := s.me.flow.pc, ic := s.me.flow.ic, src := src, dst := dst
               seq := s.me.seq, next := src.start
               regs := if fn = 4 then regs.flatMap fun q => (List.range s.me.width).map fun L => s.me.regs.getV q L else []
               run := if fn = 5 then regs else []
               arg := if fn = 4 then sregOf s.me a else if fn = 5 then sregOf s.me b else 0 }] }
    one 0 (.bcopyG2s p d a b) ∧ one 1 (.bcopyS2g p d a b) ∧ one 2 (.bcopyG2g p d a b) ∧ one 3 (.bcopyS2s p d a b)
      ∧ one 4 (.bcopyV2s p d a b) ∧ one 5 (.bcopyS2v p d a b))
  ∧ (∀ (core : Nat) (pre post : List Copy) (y : Copy) (s : State),
      (s.core core).copies = pre ++ y :: post → (∀ x ∈ pre, x.accepted = true) → y.accepted = false →
      (pre ++ post).countP (fun x => x.accepted) < 64 →
      ∃ t, exec (.copyAccept core) s = .next t ∧ t = { s with wefts := t.wefts, cores := t.cores }
        ∧ t.core core = { s.core core with copies := pre ++ { y with accepted := true } :: post }
        ∧ t.weft y.k = (s.weft y.k).dropFlag y.flag ∧ ∀ k, k ≠ y.k → t.weft k = s.weft k)
  ∧ ∀ (core j : Nat) (y : Copy) (s s1 s2 : State),
      (s.core core).copies[j]? = some y → y.accepted = true → y.stopped = false → s.spadBad (teamOf y.k) y.bar = false →
      (s.acting y.k y.seq).bringPages (teamOf y.k) core [y.bar / 2048] = .ok s1 → copyElem s1 core y = .ok s2 → s.clear s2 →
      ∃ t, Takes (exec (.copyElementLand core j) s) s t ∧ t.mem = s2.mem
        ∧ (t.core core).copies = if y.next + 1 < y.src.count then s.core core |>.copies.set j { y with next := y.next + 1 }
                                 else (s.core core).copies.eraseIdx j

/-- The byte-barrier instructions on a valid barrier whose page is resident: INIT makes a barrier, EXPECT and ARRIVE update it and complete its
phase when nothing is due, WAIT goes on when the phase is over and otherwise keeps its weft, TEST writes 1 or 0, and INVAL clears the barrier when
no copy names it (08_copy_engine R179 to R183). -/
def Obligations.ByteBarriers : Prop :=
  ∀ (p : Option Prefix) (d a b : Reg) (s s1 : State) (at_ : Nat) (bar : BBar),
    let T := teamOf s.cur
    let F := fun (fn : Nat) (d b : Reg) => formA p 0x51 fn true d a b
    let x := sregOf s.me b
    let now := fun (t : State) => BBar.ofBytes (t.spadRead T at_ 16)
    let start := fun (i : Info) => issues i s = true ∧ barrierAt (i.ctx s) s = .ok (at_, bar, s1) ∧ s.clear s1 ∧ s1.resident T (at_ / 2048)
    let went := fun (i : Info) (t : State) => WentOn i s.me (t.weft s.cur) ∧ (t.weft s.cur).hold = none ∧ t.mem = s1.mem
    (start (F 0 0 b) → bar.valid = false → 1 ≤ x.toNat → x.toNat ≤ 65536 →
        ∃ t, Takes (exec (.bbInit p a b) s) s t ∧ went (F 0 0 b) t ∧ (t.weft s.cur).regs = s.me.regs
          ∧ now t = { head := 2, count := x, arrive := x, bytes := 0 })
      ∧ (start (F 1 0 b) → bar.valid = true →
        ∃ t, Takes (exec (.bbExpect p a b) s) s t ∧ went (F 1 0 b) t ∧ (t.weft s.cur).regs = s.me.regs
          ∧ now t = BBar.test { bar with bytes := bar.bytes + x })
      ∧ (start (F 2 0 b) → bar.valid = true → bar.arrive ≠ 0 → relReady s1 s.cur 1 = true →
        ∃ t, Takes (exec (.bbArrive p a b) s) s t ∧ went (F 2 0 b) t ∧ (t.weft s.cur).regs = s.me.regs
          ∧ now t = BBar.test { bar with bytes := bar.bytes + x, arrive := bar.arrive - 1 })
      ∧ (start (F 3 0 b) → bar.valid = true → s.me.inTurn = false →
        (bar.phase ≠ x.getLsbD 0 → ∃ t, Takes (exec (.bbWait p a b) s) s t ∧ went (F 3 0 b) t ∧ (t.weft s.cur).regs = s.me.regs ∧ now t = bar)
          ∧ (bar.phase = x.getLsbD 0 → s.me.lanesPending = false → ∃ t h, Takes (exec (.bbWait p a b) s) s t
              ∧ (t.weft s.cur).hold = some h ∧ h.kind = .bbwait at_ (x.getLsbD 0) ∧ h.pc = s.me.flow.pc ∧ (t.weft s.cur).flow = s.me.flow))
      ∧ (start (F 4 d b) → bar.valid = true →
        ∃ t, Takes (exec (.bbTest p d a b) s) s t ∧ went (F 4 d b) t ∧ now t = bar
          ∧ (t.weft s.cur).regs.getS d.toNat = if bar.phase ≠ x.getLsbD 0 then 1 else 0)
      ∧ (start (F 5 0 0) → bar.valid = true → s1.copiesOn T at_ = false →
        ∃ t, Takes (exec (.bbInval p a) s) s t ∧ went (F 5 0 0) t ∧ (t.weft s.cur).regs = s.me.regs
          ∧ now t = { head := 0, count := 0, arrive := 0, bytes := 0 })

/-- A sweep whose records agree is given to the core with its phase; at its completion the elements have been performed in ascending order, its
flags are in the lowest lane, DPHASE has advanced and its flag counts down (08_copy_engine R191 to R193, 10_formats R240). TFETCH of a slot that
no matrix operation still has to read takes the record into the slot, whose pins go, and gives the core a fetch; its completion fills the slot from
its first byte and counts the flag down, and so does the fetch of a restored slot; TUNPIN releases the slot's pins, and those of the fetches to it
that are in flight when they complete (08_copy_engine R194 to R197, R464, R465). -/
def Obligations.SweepsAndFetchesRun : Prop :=
  ((∀ (p : Option Prefix) (d a b : Reg) (s s1 s2 : State) (dst : Iter) (srcs : List Iter),
      let one := fun (fn : Nat) (x : Instr) (b : Reg) =>
        let i := formA p 0x52 fn true d a b
        issues i s = true → recordAt (i.ctx s) s false false d = .ok (dst, s1) →
        recordsAt (i.ctx s) (sweepSources fn (i.ctx s)) s1 = .ok (srcs, s2) → s.clear s2 →
        (∀ r ∈ srcs, r.count = dst.count ∧ r.start = dst.start) → (fn = 3 → (srcs.map Iter.esize).dedup.length = 1) →
        (fn = 7 → srcs.map Iter.esize = [dst.esize]) → (fn = 6 → dst.esize = 8 → a.toNat % 2 = 0) →
        ∃ t, Takes (exec x s) s t ∧ Engages i s s2 t
          ∧ t.core (s.coreOf s.cur) = { s2.core (s.coreOf s.cur) with ops := (s2.core (s.coreOf s.cur)).ops ++
              [i.engOp s s2 (.tsweep fn dst srcs
                (if fn = 6 then (if dst.esize = 8 then pairAt s.me true a 0 else (wordAt s.me true a 0).setWidth 64) else 0))] }
      one 0 (.tadd p d a b) b ∧ one 1 (.tmul p d a b) b ∧ one 2 (.tfma p d a b) b ∧ one 3 (.tmax p d a b) b ∧ one 4 (.tcvt p d a) 0
        ∧ one 5 (.texp p d a) 0 ∧ one 6 (.tfill p d a) 0 ∧ one 7 (.tcopy p d a) 0)
    ∧ ∀ (core j fn : Nat) (o : EngOp) (dst : Iter) (srcs : List Iter) (fill : Dword) (s s1 : State) (fl : Byte),
        (s.core core).ops[j]? = some o → o.kind = .tsweep fn dst srcs fill → o.stopped = false →
        runElems (enables o.fmode) (sweepElem core o fn dst srcs fill) dst.elements (s.acting o.k o.seq) 0 none = .ok (s1, fl, none) → s.clear s1 →
        ∃ t, Takes (exec (.tsweepComplete core j) s) s t ∧ t = { s1 with wefts := t.wefts, cores := t.cores }
          ∧ (t.core core).ops = (s1.core core).ops.eraseIdx j
          ∧ (t.weft o.k).fflag o.lane = (s1.weft o.k).fflag o.lane ||| fl
          ∧ dphase (t.weft o.k).regs.fmode = (dphase (s1.weft o.k).regs.fmode + 1) % 64
          ∧ (t.weft o.k).flagCount o.flag = (s1.weft o.k).flagCount o.flag - 1
          ∧ (t.weft o.k).regs.v = (s1.weft o.k).regs.v ∧ (t.weft o.k).regs.s = (s1.weft o.k).regs.s
          ∧ ∀ k, k ≠ o.k → t.weft k = s1.weft k)
  ∧ ((∀ (p : Option Prefix) (d a : Reg) (s s1 : State) (r : Iter),
      let i := formA p 0x53 0 true d a 0
      let core := s.coreOf s.cur
      let n := (sregOf s.me d).toNat
      issues i s = true → recordAt (i.ctx s) s true false a = .ok (r, s1) → s.clear s1 → n < s1.slotCount core → (r.count - r.start) * r.esize ≤ 16384 →
      s1.slotToRead core n = false →
      ∃ t s', Takes (exec (.tfetch p d a) s) s t ∧ s' = { s1 with cores := s'.cores } ∧ Engages i s s' t
        ∧ (t.core core).ops.getLast? = some (i.engOp s s' (.tfetch n r))
        ∧ ((t.core core).slot n).snap = some (teamOf s.cur, r) ∧ ((t.core core).slot n).pins = [])
    ∧ (∀ (p : Option Prefix) (d : Reg) (s : State),
        let i := formA p 0x53 1 true d 0 0
        let core := s.coreOf s.cur
        let n := (sregOf s.me d).toNat
        issues i s = true → n < s.slotCount core →
        ∃ t s', exec (.tunpin p d) s = .next t ∧ s' = { s with cores := s'.cores } ∧ Retires i s s' t
          ∧ ((t.core core).slot n).pins = [] ∧ ((t.core core).slot n).data = ((s.core core).slot n).data
          ∧ ∀ o ∈ (t.core core).ops, o.fetches n = true → o.unpin = true)
    ∧ (∀ (core j n : Nat) (o : EngOp) (r : Iter) (s s1 : State) (bs : List Byte) (blocks : List Nat),
        (s.core core).ops[j]? = some o → o.kind = .tfetch n r → o.stopped = false →
        (∀ x ∈ (s.core core).ops.take j, x.fetches n = false) →
        fetchAll core (s.ctxOf o.k) (some (o.k, o.seq)) r r.elements (s.acting o.k o.seq) = .ok (bs, blocks, s1) → s.clear s1 →
        ∃ t, Takes (exec (.tfetchComplete core j) s) s t ∧ (t.core core).ops = (s1.core core).ops.eraseIdx j
          ∧ (t.weft o.k).flagCount o.flag = (s1.weft o.k).flagCount o.flag - 1
          ∧ ∀ q, SMap.get zeroByte ((t.core core).slot n).data q = if q < bs.length then bs.getD q 0 else 0)
    ∧ ∀ (core n T : Nat) (r : Iter) (s s1 : State) (bs : List Byte) (blocks : List Nat),
        ((s.core core).slot n).rerun = true → ((s.core core).slot n).snap = some (T, r) → (s.team T).status = .resident →
        fetchAll core (s.team T).ctx none r r.elements s = .ok (bs, blocks, s1) → s.clear s1 →
        ∃ t, Takes (exec (.tfetchRerunComplete core n) s) s t ∧ t.wefts = s1.wefts ∧ ((t.core core).slot n).rerun = false
          ∧ ∀ q, SMap.get zeroByte ((t.core core).slot n).data q = if q < bs.length then bs.getD q 0 else 0)

/-- Matrix instructions of the team that owns the core's matrix state. MMA and MMA.G with the full mask, whose control word, descriptors and
groups pass their checks, and whose slots are filled, give the core an operation while fewer than four are in flight, or with no row at all are
complete at once; ACC.ZERO, ACC.RD, ACC.WR and SCL.RD act on tile and scale elements at once; ACC.ST, ACC.LD and SCL.LD give the core an operation.
Each waits for the operations of its team in flight on its tile (13_matrix R304 to R319). -/
def Obligations.MatrixInstructionsIssue : Prop :=
  ∀ (p : Option Prefix) (fmt : BitVec 3) (d a b : Reg) (s s1 : State) (ctl : MCtl) (A : MDesc) (gs : List MGroup) (r : Iter),
    let T := teamOf s.cur
    let core := s.coreOf s.cur
    let F := fun (fn : Nat) (u : Bool) => formA p 0x5A fn u d a 0
    let D := sregOf s.me d
    let e := prefixExt p
    let isMma := fun (o : EngOp) => match o.kind with
      | .mma .. => true
      | _ => false
    let mma := fun (op : Nat) (grouped : Bool) (rows : Nat) (x : Instr) =>
      let i : Info := { formA p op fmt.toNat true d a b with irrev := !s.me.matrixHistory, est := fun _ => 133 * rows + 5 }
      let slots := mmaSlots A gs
      issues i s = true → i.activeOf s.me = fullMask s.me.width → (s.core core).owner = some T →
      mmaOperands fmt.toNat grouped (i.ctx s) s = .ok (ctl, A, gs, s1) → s.clear s1 →
      (rowsOf gs = 0 → ∃ t, Takes (exec x s) s t ∧ Retires i s s1 t)
      ∧ (rowsOf gs ≠ 0 → (∀ x ∈ A.lines (rowsOf gs) ++ gs.flatMap (fun g => g.b.lines 128), s1.spadBad T x = false) →
        (∀ n ∈ slots, s1.fetching core n = false ∧ ((s1.core core).slot n).rerun = false ∧ ((s1.core core).slot n).rerunProt = none) →
        (s1.core core).ops.countP isMma < 4 → (s.me.matrixHistory = true → s1.tileBusy core T ctl.tile = false) →
        ∃ t, Takes (exec x s) s t ∧ Engages i s s1 t
          ∧ t.core core = { s1.core core with ops := (s1.core core).ops ++
              [{ i.engOp s s1 (.mma fmt.toNat ctl.tile ctl.accum ctl.sca A gs) with eats := slots.filter fun n => !((s1.core core).slot n).used }] })
    let owned := fun (s : State) => (s.core core).owner = some T
    let free := fun (s : State) (tile : Nat) => s.tileBusy core T tile = false
    let sel := fun (L : Nat) => (F 1 false).a32 s L
    mma 0x58 false 128 (.mma p fmt d a b)
      ∧ mma 0x59 true (s.tableRows T (sregOf s.me b).toNat) (.mmaG p fmt d a b)
      ∧ (let i := formA p 0x5A 0 true 0 a 0
         let v := (sregOf s.me a).toNat
         issues i s = true → v < 4 → owned s → free s v → s.coh.blocked = false →
         ∃ t s', Takes (exec (.accZero p a) s) s t ∧ s' = { s with cores := s'.cores } ∧ Retires i s s' t
           ∧ (∀ c, c ≠ core → t.core c = s.core c)
           ∧ ∀ n, SMap.get zeroWord (t.core core).tiles n
               = if 16384 * v ≤ n ∧ n < 16384 * (v + 1) then 0 else SMap.get zeroWord (s.core core).tiles n)
      ∧ (owned s → (∀ L ∈ (F 1 false).lanes s, free s (selTile (sel L))) → s.calm →
         Gives32 (F 1 false) (.accRd p d a) s fun x _ _ _ => (s.core core).tile (selTile x) (selRow x) (selCol x))
      ∧ (let i := F 2 false
         let names := fun (n L : Nat) => tileKey (selTile (sel L)) (selRow (sel L)) (selCol (sel L)) = n
         issues i s = true → owned s → (∀ L ∈ i.lanes s, free s (selTile (sel L))) → s.coh.blocked = false →
         ∃ t s', Takes (exec (.accWr p d a) s) s t ∧ s' = { s with cores := s'.cores } ∧ Retires i s s' t
           ∧ ∀ n, SMap.get zeroWord (t.core core).tiles n = match ((i.lanes s).filter fun L => decide (names n L)).getLast? with
               | some L => i.d32 s L
               | none => SMap.get zeroWord (s.core core).tiles n)
      ∧ (let i := F 3 true
         issues i s = true → D.toNat < 8 → recordAt (i.ctx s) s (e.getLsbD 1) (e.getLsbD 0) a = .ok (r, s1) → s.clear s1 → wholeTile r = true →
         (prefixSat p = true → D.getLsbD 2 = true ∧ fmtInt r.fmt = true) → owned s1 → free s1 (bitsOf D 0 2) →
         ∃ t, Takes (exec (.accSt p d a) s) s t ∧ Engages i s s1 t
           ∧ t.core core = { s1.core core with ops := (s1.core core).ops ++
               [{ i.engOp s s1 (.accSt (bitsOf D 0 2) (D.getLsbD 2) r) with hist := if s.me.recording then some s.me.hist.top else none }] })
      ∧ (let i : Info := { F 4 true with ok := !prefixSat p }
         issues i s = true → D.toNat < 4 → recordAt (i.ctx s) s (e.getLsbD 1) (e.getLsbD 0) a = .ok (r, s1) → s.clear s1 → wholeTile r = true →
         r.fmt ≠ 2 → r.fmt ≠ 3 → owned s1 → free s1 D.toNat →
         ∃ t, Takes (exec (.accLd p d a) s) s t ∧ Engages i s s1 t
           ∧ t.core core = { s1.core core with ops := (s1.core core).ops ++ [i.engOp s s1 (.accLd D.toNat r)] })
      ∧ (let i := F 5 true
         let first := bitsOf D 0 7
         let count := bitsOf D 8 7 + 1
         let at_ := (sregOf s.me a).toNat
         issues i s = true → D.getLsbD 7 = false → bitsOf D 15 17 = 0 → at_ % 128 = 0 → first + count ≤ 128 →
         at_ + 128 * count ≤ (s.team T).size → owned s → s.coh.blocked = false →
         ∃ t, Takes (exec (.sclLd p d a) s) s t ∧ Engages i s s t
           ∧ t.core core = { s.core core with ops := (s.core core).ops ++ [i.engOp s s (.sclLd first count at_)] })
      ∧ (owned s → (∀ o ∈ (s.core core).ops, o.k / 16 = T → match o.kind with
           | .mma .. => o.latched.isSome = true
           | .sclLd .. => False
           | _ => True) → s.calm →
         Gives32 (F 6 false) (.sclRd p d a) s fun x _ _ _ => ((s.core core).scale (selRow x) (selCol x)).setWidth 32)

/-- ACC.ZERO sets every element of the tile to 0 (13_matrix R314). -/
def Obligations.TilesZeroed : Prop :=
  ∀ (p : Option Prefix) (a : Reg) (s : State),
    let i := formA p 0x5A 0 true 0 a 0
    let core := s.coreOf s.cur
    let v := (sregOf s.me a).toNat
    issues i s = true → v < 4 → (s.core core).owner = some (teamOf s.cur) → s.tileBusy core (teamOf s.cur) v = false → s.calm →
    ∃ t, exec (.accZero p a) s = .next t ∧ ∀ r c, r < 128 → c < 128 → (t.core core).tile v r c = 0

/-- An element of an MMA of INT8 by INT8 is its old value, or zero, plus the sum of the 128 products, modulo 2^32 without sat; of the sign-select
format, the sum over 512 elements of B, its negative or zero by the element of A (13_matrix R302, 10_formats R234). The steps of the engine. A
swap gives the core to a team with tiles and scales of zeros when nothing of its is saved; an operand set is read with all its frames, and with the
last set the engine latches the lines and the scale bytes; a completion writes its elements, and only those, ends its operation and counts its flag
down (06_core_memory R138, 13_matrix R296, R301, R307, R315 to R321). -/
def Obligations.MatrixEngineRuns : Prop :=
  (∀ (m : MElem) (v : FEnv) (old : Word), m.sat = false →
      let start : Int := if m.accum then old.toInt else 0
      let a8 := fun (k : Nat) => (BitVec.ofNat 8 (m.aLine / 2 ^ (8 * k))).toInt
      let b8 := fun (k : Nat) => (BitVec.ofNat 8 (m.bLine / 2 ^ (8 * k))).toInt
      let a2 := fun (k : Nat) => m.aLine / 2 ^ (2 * k) % 4
      (m.fn = 6 → mmaElem m v old = { bits := (BitVec.ofInt 32 (start + ((List.range 128).map fun k => a8 k * b8 k).sum)).toNat })
        ∧ (m.fn = 7 →
            (mmaElem m v old).bits = (BitVec.ofInt 32 (start + ((List.range 512).map fun k =>
              if a2 k = 1 then b8 k else if a2 k = 3 then -b8 k else 0).sum)).toNat
            ∧ (mmaElem m v old).flags = if (List.range 512).any fun k => a2 k == 2 then fNV else 0))
  ∧ ((∀ (core T : Nat) (s : State), (s.team T).status = .resident →
        ((s.core core).owner = some T → s.calm → exec (.matrixSwap core T) s = .next s)
        ∧ ((s.core core).owner = none → s.matrixIdle core = true → (s.team T).matrixSaved.getLsbD (matrixParity (s.team T) core) = false → s.calm →
            exec (.matrixSwap core T) s = .next ((s.noteMiss core).modCore core fun x => { x with owner := some T, tiles := [], scales := [] }))
        ∧ ∀ s1 s2 o, (s.core core).owner = some o → o ≠ T → s.matrixIdle core = true → saveMatrix s core = .ok s1 →
            loadMatrix (s1.noteMiss core) core T = .ok s2 → s.clear s2 →
            Takes (exec (.matrixSwap core T) s) s s2 ∧ (s2.core core).owner = some T)
    ∧ (∀ (core : Nat) (s : State), exec (.periodicSwapOpportunity core) s = .next (s.swapOpportunity core))
    ∧ ∀ (core j : Nat) (o : EngOp) (s : State), (s.core core).ops[j]? = some o → o.stopped = false → (s.core core).owner = some (teamOf o.k) →
        let s0 := s.acting o.k o.seq
        (∀ fn tile accum sca a gs, o.kind = .mma fn tile accum sca a gs →
          (∀ g s1, o.latched = none → gs[o.sets / 16]? = some g →
              (∀ x ∈ (s.core core).ops.take j, x.k / 16 = o.k / 16 → ∀ f c y, x.kind ≠ .sclLd f c y) →
              (∀ n ∈ mmaSlots a gs, ((s.core core).slot n).rerun = false) → (s.weft o.k).heldBefore o.seq = false →
              let ls := setLines o.sets (rowsOf gs)
              s0.bringPages (teamOf o.k) core (a.pages ls.1 ++ g.b.pages ls.2) = .ok s1 → s.clear s1 →
              let A := o.part.1 ++ a.read s1 core (teamOf o.k) 128 ls.1
              let B := o.part.2 ++ g.b.read s1 core (teamOf o.k) (mmaLineB fn) ls.2
              Takes (exec (.mmaOperandReadDone core j) s) s (setOp s1 core j
                (if o.sets + 1 < 16 * gs.length then { o with sets := o.sets + 1, part := (A, B) }
                 else { o with sets := o.sets + 1, part := ([], []), latched := some (A, B, SMap.read zeroByte (s1.core core).scales 0 16384) })))
          ∧ ∀ A B sc, o.latched = some (A, B, sc) → s.mustWait core j o = false → s.checksumAt o.k o.ic = none → s.coh.blocked = false →
              ∃ t, Takes (exec (.mmaComplete core j) s) s t ∧ (t.core core).ops = (s.core core).ops.eraseIdx j
                ∧ (∀ x ∈ groupRows gs, ∀ col < 128, (t.core core).tile tile x.1 col = BitVec.ofNat 32
                    ((mmaRow o fn accum sca A B sc (s.core core) tile x.1 x.2.1 x.2.2.scb).getD col { bits := 0 }).bits)
                ∧ (∀ n, n < 16384 * tile ∨ 16384 * tile + 128 * rowsOf gs ≤ n →
                    SMap.get zeroWord (t.core core).tiles n = SMap.get zeroWord (s.core core).tiles n)
                ∧ (t.core core).scales = (s.core core).scales ∧ (∀ n ∈ o.eats, ((t.core core).slot n).used = true)
                ∧ (t.weft o.k).flagCount o.flag = (s.weft o.k).flagCount o.flag - 1 ∧ (t.weft o.k).regs.v = (s.weft o.k).regs.v
                ∧ (t.weft o.k).regs.s = (s.weft o.k).regs.s ∧ t.mem = s.mem ∧ ∀ k, k ≠ o.k → t.weft k = s.weft k)
        ∧ (∀ tile int r s' o', o.kind = .accSt tile int r → s.mustWait core j o = false →
            accStRun core tile int r (16384 - o.next) o s0 = (o', s', none) → s.clear s' →
            ∃ t, Takes (exec (.accStComplete core j) s) s t ∧ (t.core core).ops = (s'.core core).ops.eraseIdx j ∧ t.mem = s'.mem
              ∧ (t.core core).tiles = (s'.core core).tiles
              ∧ (t.weft o'.k).flagCount o'.flag = (s'.weft o'.k).flagCount o'.flag - 1
              ∧ (t.weft o'.k).regs.v = (s'.weft o'.k).regs.v ∧ (t.weft o'.k).regs.s = (s'.weft o'.k).regs.s)
        ∧ (∀ tile r s' es, o.kind = .accLd tile r → s.mustWait core j o = false → accLdRead core o r r.elements s0 = .ok (es, s') → s.clear s' →
            ∃ t, Takes (exec (.accLdComplete core j) s) s t ∧ (t.core core).ops = (s'.core core).ops.eraseIdx j ∧ t.mem = s'.mem
              ∧ (∀ n, SMap.get zeroWord (t.core core).tiles n = if 16384 * tile ≤ n ∧ n < 16384 * tile + es.length
                  then BitVec.ofNat 32 (es.getD (n - 16384 * tile) { bits := 0 }).bits else SMap.get zeroWord (s'.core core).tiles n)
              ∧ (t.weft o.k).flagCount o.flag = (s'.weft o.k).flagCount o.flag - 1
              ∧ (t.weft o.k).regs.v = (s'.weft o.k).regs.v ∧ (t.weft o.k).regs.s = (s'.weft o.k).regs.s)
        ∧ ∀ first count a s' bs, o.kind = .sclLd first count a → s.mustWait core j o = false → (s.weft o.k).heldBefore o.seq = false →
            (∀ n < count, s.spadBad (teamOf o.k) (a + 128 * n) = false) →
            readRows core (teamOf o.k) { addr := a, slot := false, ldu := 1 } (List.range count) s0 = .ok (bs, s') → s.clear s' →
            ∃ t, Takes (exec (.sclLdComplete core j) s) s t ∧ (t.core core).ops = (s'.core core).ops.eraseIdx j ∧ t.mem = s'.mem
              ∧ (∀ n, SMap.get zeroByte (t.core core).scales n = if 128 * first ≤ n ∧ n < 128 * first + bs.length
                  then bs.getD (n - 128 * first) 0 else SMap.get zeroByte (s'.core core).scales n)
              ∧ (t.weft o.k).flagCount o.flag = (s'.weft o.k).flagCount o.flag - 1 ∧ (t.weft o.k).regs = (s'.weft o.k).regs)

/-! ## Control, history and traps -/

/-- BR reads its mask register ANDed with the active mask: ALWAYS is taken, ANY when a lane is set, ALL when every active lane is, NONE when none
is, and DIV when a lane is. Taken, the weft goes to PC + 4 × off19; not taken, it falls through into the next header and changes nothing. A BR.DIV
that splits pushes a path entry for the other lanes and goes on with its own (15_control_flow R346, R347). -/
def Obligations.BranchesTransfer : Prop :=
  ∀ (p : Option Prefix) (m : BitVec 3) (off : BitVec 19) (s : State),
    let act := s.me.flow.active
    let T := s.me.maskReg m.toNat &&& act
    let st := s.me.flow.stack
    let one := fun (b : BrKind) (fn : Nat) (m : Nat) (x : Instr) (taken : Prop) =>
      let i0 := formOf p (.fmtB 0x60 (BitVec.ofNat 3 fn) 0 0)
      let next := s.me.flow.pc + BitVec.ofNat 64 (4 * i0.len)
      let i : Info := { i0 with est := fun _ => 0, ctl := some (brWords b m off s.me next) }
      let target := next - 4 + 4 * off.signExtend 64
      issues i s = true →
      (taken → (b = .div → T = act) → s.mayTransfer st act target →
          ∃ t, exec x s = .next t ∧ Transfers i s st act target t ∧ (t.weft s.cur).regs = s.me.regs)
      ∧ (¬ taken → s.headerAt s.cur next → ∃ t, exec x s = .next t ∧ PlainStep i (fun _ => False) (fun _ => False) (fun _ => False) s t)
      ∧ (b = .div → T ≠ 0 → T ≠ act → s.me.trap.handler = false → st.length < 32 → s.goodTarget s.cur next →
          next = s.me.flow.hdr + BitVec.ofNat 64 (4 * headerBackLink ((s.codeWord s.cur next).toOption.getD 0)) → next ≠ s.me.flow.hdr →
          ∀ top rest, st = top :: rest → s.mayTransfer (.path next (act &&& ~~~T) top.rpc :: st) T target →
          ∃ t, exec x s = .next t ∧ Transfers i s (.path next (act &&& ~~~T) top.rpc :: st) T target t ∧ (t.weft s.cur).regs = s.me.regs)
    one .always 0 0 (.brAlways p off) True ∧ one .any 1 m.toNat (.brAny p m off) (T ≠ 0) ∧ one .all 2 m.toNat (.brAll p m off) (T = act)
      ∧ one .none 3 m.toNat (.brNone p m off) (T = 0) ∧ one .div 4 m.toNat (.brDiv p m off) (T ≠ 0)

/-- CALL writes the pair s126, s127 with the address after it and goes to its target; RET goes to the pair it names, JMPR to the pair plus four
times a signed word, and they change no register; JOIN pushes a join entry for the active mask and goes on (15_control_flow R349 to R351). NOP
changes nothing; YIELD gives its core a swap opportunity; WAITF goes on when the flags it names are clear, and otherwise keeps its weft until
WAITF_RELEASE finds them clear (15_control_flow R354, 02_threads R43). -/
def Obligations.CallsJumpsAndWaits : Prop :=
  (∀ (p : Option Prefix) (a b : Reg) (off : BitVec 19) (s : State),
      let w := s.me
      let act := w.flow.active
      let st := w.flow.stack
      (let i0 := formOf p (.fmtB 0x61 0 0 0)
       let next := w.flow.pc + BitVec.ofNat 64 (4 * i0.len)
       let target := next - 4 + 4 * off.signExtend 64
       let i : Info := { i0 with est := fun _ => 6, ctl := some (jumpWords w target), more := [(true, 126), (true, 127)] }
       issues i s = true → s.mayTransfer st act target →
       ∃ t, exec (.call p off) s = .next t ∧ Transfers i s st act target t
         ∧ pairAt (t.weft s.cur) true 126 0 = next ∧ (∀ n, n ≠ 126 → n ≠ 127 → (t.weft s.cur).regs.getS n = w.regs.getS n)
         ∧ (t.weft s.cur).regs = { w.regs with s := (t.weft s.cur).regs.s })
      ∧ (let jump := fun (i0 : Info) (x : Instr) (target : Dword) =>
           let i : Info := { i0 with est := fun _ => 0, ctl := some (jumpWords w target) }
           issues i s = true → s.mayTransfer st act target →
           ∃ t, exec x s = .next t ∧ Transfers i s st act target t ∧ (t.weft s.cur).regs = w.regs
         jump (formA p 0x65 2 true 0 a 0) (.ret p a) (pairAt w true a 0)
           ∧ jump (formA p 0x65 7 true 0 a b) (.jmpr p a b) (pairAt w true a 0 + 4 * (wordAt w true b 0).signExtend 64))
      ∧ (let i0 := formOf p (.fmtB 0x62 0 0 0)
         let next := w.flow.pc + BitVec.ofNat 64 (4 * i0.len)
         let target := next - 4 + 4 * off.signExtend 64
         let n := fallWords (.join target act :: st) act next
         let i : Info := { i0 with ctl := if isHeader ((s.codeWord s.cur next).toOption.getD 0) then some n else some 0 }
         issues i s = true → s.goodTarget s.cur target → w.trap.handler = false → st.length < 32 →
         ∃ t s', exec (.join p off) s = .next t ∧ Retires i s s' t
           ∧ s' = s.setWeft s.cur { w with flow := { w.flow with stack := .join target act :: st } }))
  ∧ ((∀ (p : Option Prefix) (u : Bool) (a : Reg) (s : State),
      let same := fun (i : Info) (x : Instr) => ∃ t, exec x s = .next t ∧ PlainStep i (fun _ => False) (fun _ => False) (fun _ => False) s t
      let N := formA p 0x65 0 u 0 0 0
      let Y := formA p 0x65 3 true 0 0 0
      let W := formA p 0x65 4 true 0 a 0
      let v := sregOf s.me a
      let m := v.extractLsb' 0 12
      (issues N s = true → same N (.nop p u))
        ∧ (issues Y s = true → ∃ t, exec (.yield p) s = .next t ∧ Retires Y s (s.swapOpportunity (s.coreOf s.cur)) t)
        ∧ (issues W s = true → v.toNat < 4096 → s.me.flagsClear m = true → s.me.waitDue m = none → same W (.waitf p a))
        ∧ (issues W s = true → v.toNat < 4096 → s.me.flagsClear m = false → s.me.lanesPending = false →
            ∃ t h, exec (.waitf p a) s = .next t ∧ OnlyWeft s.cur s t ∧ t.weft s.cur = { s.me with hold := some h }
              ∧ h.kind = .waitf m ∧ h.pc = s.me.flow.pc ∧ h.next = s.me.flow.pc + BitVec.ofNat 64 (4 * W.len)))
    ∧ ∀ (k : Nat) (h : Hold) (m : BitVec 12) (s : State),
        (s.weft k).hold = some h → h.kind = .waitf m → s.canRelease k = true → (s.weft k).flagsClear m = true → (s.weft k).waitDue m = none →
        ((s.weft k).flow.active ≠ 0 ∨ (s.weft k).lanesPending = false) →
        ∃ t, exec (.waitfRelease k) s = .next t ∧ OnlyWeft k s t ∧ (t.weft k).hold = none ∧ (t.weft k).flow.pc = h.next
          ∧ (t.weft k).flow.ic = (if (s.weft k).trap.handler then (s.weft k).flow.ic else (s.weft k).flow.ic + 1)
          ∧ (t.weft k).regs = (s.weft k).regs)

/-- A uniform EXIT, a per-thread EXIT of the whole active mask with an empty stack, and either in a handler end the weft. Any other removes its
lanes from the active mask and from every stack entry: with lanes left the weft falls through into the next header, and with none left it goes to
the RPC of the top entry (15_control_flow R353, R344). Here for wefts outside redundant pairs. -/
def Obligations.ExitsEndLanes : Prop :=
  ∀ (p : Option Prefix) (u : Bool) (s : State),
    let i0 := formA p 0x65 1 u 0 0 0
    let next := s.me.flow.pc + BitVec.ofNat 64 (4 * i0.len)
    let act := i0.activeOf s.me
    let i : Info := { i0 with est := fun _ => 0, ctl := some (exitWords u s.me act next) }
    let ends := u = true ∨ s.me.trap.handler = true ∨ (act = s.me.flow.active ∧ s.me.flow.stack = [])
    let left := s.me.flow.active &&& ~~~act
    let st := s.me.flow.stack.map (dropLanes act)
    issues i s = true → (s.member s.cur = 0 ∨ s.me.seg.passed = true ∨ s.me.trap.handler = true) →
    (ends → s.me.lanesPending = false → s.me.sched.uncommitted = false →
        ∃ t, exec (.exit p u) s = .next t ∧ (t.weft s.cur).status = .ended ∧ (t.weft s.cur).flow.active = 0
          ∧ (t.weft s.cur).regs = s.me.regs ∧ t.mem = s.mem)
      ∧ (¬ ends → left ≠ 0 → s.headerAt s.cur next →
        ∃ t, exec (.exit p u) s = .next t
          ∧ Retires i s (s.setWeft s.cur { s.me with flow := { s.me.flow with active := left, stack := st } }) t)
      ∧ (¬ ends → left = 0 → ∀ top rest, s.me.flow.stack = top :: rest → s.mayTransfer st 0 top.rpc →
        ∃ t, exec (.exit p u) s = .next t ∧ Transfers i s st 0 top.rpc t ∧ (t.weft s.cur).regs = s.me.regs)

/-- CLAUSE_START: a weft that has arrived at a header by a transfer, or falls into one whose back-link names the clause just left and where no
entry reconverges, starts the clause when its flags are clear, the header giving flags A and B; until then it waits (03_encoding R53, R55). -/
def Obligations.ClausesStart : Prop :=
  ∀ (k : Nat) (h : Word) (s : State),
    let w := s.weft k
    let fall := w.flow.entry = .fall ∧ headerBackLink h ≠ 0 ∧ w.flow.pc = w.flow.hdr + BitVec.ofNat 64 (4 * headerBackLink h)
      ∧ w.flow.active ≠ 0 ∧ w.flow.stack.head?.map StackEntry.rpc ≠ some w.flow.pc
    s.atClause k = true → s.codeWord k w.flow.pc = .ok h → isHeader h = true → badHeader h = false → w.lanesPending = false →
    (w.flow.entry = .arrived ∨ fall) →
    (w.flagsClear (h.extractLsb' 8 12) = true →
        (∀ x ∈ w.trap.impr, ∀ n, x.gate = some n → w.trap.handler = false → (h.extractLsb' 8 12).getLsbD n = false) →
        ∃ t, exec (.clauseStart k) s = .next t ∧ OnlyWeft k s t
          ∧ t.weft k = { w with hist := (t.weft k).hist
                                flow := { w.flow with entry := .body, hdr := w.flow.pc, flagA := headerFlagA h, flagB := headerFlagB h
                                                      pc := w.flow.pc + 4 } })
      ∧ (w.flow.entry = .arrived → w.flagsClear (h.extractLsb' 8 12) = false → exec (.clauseStart k) s = .next s)

/-- BRK and TRAP outside a handler retire and then enter the trap BREAK at the next word, with the code, or bit 32 and the scalar, in TADDR; in a
handler they only retire (15_control_flow R355, 18_traps R408). Here where the context has a handler. A word that is no instruction raises ILLEGAL
where its weft may issue, before any effect (03_encoding R61, 18_traps R408). -/
def Obligations.TrapsTaken : Prop :=
  (∀ (p : Option Prefix) (a b : Reg) (s : State),
      let one := fun (i : Info) (x : Instr) (addr : Dword) =>
        let next := s.me.flow.pc + BitVec.ofNat 64 (4 * i.len)
        issues i s = true →
        (s.me.trap.handler = true → ∃ t, exec x s = .next t ∧ PlainStep i (fun _ => False) (fun _ => False) (fun _ => False) s t)
        ∧ (s.me.trap.handler = false → (s.reg (thvec (s.ctxOf s.cur))).getLsbD 0 = true →
            ∃ t s', exec x s = .next t ∧ PlainStep i (fun _ => False) (fun _ => False) (fun _ => False) s s'
              ∧ EntersTrap .brk next (s.me.flow.ic + 1) addr 0 s.cur s' t ∧ (t.weft s.cur).trap.resume = next)
      one (formA p 0x65 5 true 0 0 b) (.brk p b) (b.setWidth 64)
        ∧ one (formA p 0x65 6 true 0 a 0) (.trap p a) (0x100000000 + (sregOf s.me a).setWidth 64))
  ∧ (∀ (v : Word) (s : State), s.canIssue s.cur = true → (∀ x ∈ s.me.trap.impr, x.gate.isSome = true) → s.armed s.cur →
      ∃ t, exec (.illegalEncoding v) s = .next t ∧ EntersTrap .illegal s.me.flow.pc s.me.flow.ic 0 0 s.cur s t ∧ (t.weft s.cur).trap.resume = s.me.flow.pc)

/-- WIN moves the window base; REGLD and REGST move a word between a windowed register and the physical register a(L) + k, where each lies below
ALLOC; CFRD writes CF and CFIC to a quad; COMMIT empties the history stack and raises its floor; CKPT pushes a record of the IC after it; HMODE
sets the history modes (09_registers_history R204, R221 to R227). -/
def Obligations.RegisterAndHistoryGroup : Prop :=
  ∀ (p : Option Prefix) (d a : Reg) (k : BitVec 7) (s : State),
    let w := s.me
    (let i := formA p 0x68 0 true 0 a 0
     let v := (sregOf w a).toNat
     issues i s = true → v % 16 = 0 → v ≤ 1008 →
     ∃ t, exec (.win p a) s = .next t ∧ Retires i s (s.setWeft s.cur { w with regs := { w.regs with wb := v } }) t)
    ∧ (let i := formA p 0x68 1 false d a k
       let at_ := fun (L : Nat) => (i.a32 s L).toNat + k.toNat
       issues i s = true → (∀ L ∈ i.lanes s, at_ L < w.regs.alloc) →
       Writes32 i s (exec (.regld p d a k) s) fun L => w.regs.getV (at_ L) L)
    ∧ (let i := formA p 0x68 2 false d a k
       let at_ := fun (L : Nat) => (i.a32 s L).toNat + k.toNat
       issues i s = true → (∀ L ∈ i.lanes s, at_ L < w.regs.alloc) →
       ∃ t, exec (.regst p d a k) s = .next t ∧ OnlyWeft s.cur s t ∧ WentOn i w (t.weft s.cur) ∧ SameControl w (t.weft s.cur)
         ∧ SameHistory w (t.weft s.cur) ∧ (t.weft s.cur).regs = { w.regs with v := (t.weft s.cur).regs.v }
         ∧ ∀ q L, L < 64 → (t.weft s.cur).regs.getV q L = if L ∈ i.lanes s ∧ q = at_ L then i.d32 s L else w.regs.getV q L)
    ∧ (let i := formA p 0x68 7 true d 0 0
       issues i s = true →
       ∃ t, exec (.cfrd p d) s = .next t
         ∧ PlainStep i (fun _ => False) (fun n => d.toNat ≤ n ∧ n < d.toNat + 4) (fun _ => False) s t
         ∧ pairAt (t.weft s.cur) true d 0 = w.flow.cf ∧ pairAt (t.weft s.cur) true (d + 2) 0 = w.flow.cfic)
    ∧ (let i := formA p 0x68 4 true 0 0 0
       issues i s = true →
       ∃ t, exec (.commit p) s = .next t ∧ WentOn i w (t.weft s.cur) ∧ (t.weft s.cur).hist.hsp = w.hist.hbase
         ∧ (t.weft s.cur).hist.hcommit = (if w.trap.handler then w.flow.ic else w.flow.ic + 1)
         ∧ (t.weft s.cur).sched.uncommitted = false ∧ (t.weft s.cur).regs = w.regs ∧ t.mem = s.mem
         ∧ ∀ j, j ≠ s.cur → t.weft j = s.weft j)
    ∧ (let i := formA p 0x68 5 true 0 0 0
       let ic := w.flow.ic + 1
       let r : Rec := { kind := 0x0E, mask := i.activeOf w, payload := plain [lowWord ic, highWord ic, 0] }
       issues i s = true → s.member s.cur = 0 →
       ∃ t, exec (.ckpt p) s = .next t ∧ OnlyWeft s.cur s t ∧ WentOn i w (t.weft s.cur) ∧ SameControl w (t.weft s.cur)
         ∧ (t.weft s.cur).regs = w.regs
         ∧ (t.weft s.cur).hist.words = (if w.recording then w.hist.push w.flow.ic r else w.hist).words
         ∧ (t.weft s.cur).hist.hsp = (if w.recording then w.hist.push w.flow.ic r else w.hist).hsp)
    ∧ (let i := formA p 0x68 6 true 0 a 0
       let v := sregOf w a
       issues i s = true → v.toNat < 4 →
       ∃ t, exec (.hmode p a) s = .next t ∧ WentOn i w (t.weft s.cur) ∧ (t.weft s.cur).hist.on = v.getLsbD 0
         ∧ (t.weft s.cur).hist.mhist = v.getLsbD 1
         ∧ (v.getLsbD 0 = true ∧ w.hist.on = false → (t.weft s.cur).hist.hsp = w.hist.hbase
             ∧ (t.weft s.cur).hist.hcommit = if w.trap.handler then w.flow.ic else w.flow.ic + 1)
         ∧ (¬ (v.getLsbD 0 = true ∧ w.hist.on = false) → (t.weft s.cur).hist.hsp = w.hist.hsp ∧ (t.weft s.cur).hist.hcommit = w.hist.hcommit
             ∧ (t.weft s.cur).hist.words = w.hist.words)
         ∧ (t.weft s.cur).regs = w.regs ∧ t.mem = s.mem ∧ ∀ j, j ≠ s.cur → t.weft j = s.weft j)

/-- The backward forms of opcode 0x04, of ADDXI and XORXI, and of the 64-bit in-place forms restore the old d from the new one, in every lane that
the forward form does not fault (11_integer_lane R257, R258, R266). -/
def Obligations.InPlaceFormsInvert : Prop :=
  (∀ (fn : Nat) (x : LaneIn), (inplace fn false x).fault = none →
      (inplace fn true { x with d := (inplace fn false x).val }).fault = none
      ∧ ((inplace fn true { x with d := (inplace fn false x).val }).val.setWidth 32 : Word) = x.d.setWidth 32)
  ∧ (∀ (op : Nat) (imm : Int) (x : LaneIn),
      ((inplaceImm op true imm { x with d := (inplaceImm op false imm x).val }).val.setWidth 32 : Word) = x.d.setWidth 32)
  ∧ ∀ (fn : Nat) (x : LaneIn),
      ((inplace64 fn true { x with d := (inplace64 fn false x).val }).val.setWidth 64 : Dword) = x.d.setWidth 64

/-- REV to an IC between the floor and IC begins a walk, in a handler on the trapped code with every lane of TMASK back; to IC itself it takes no
step; above IC it raises OPBOUND, and below the floor IRREV. A step undoes the instruction before PC and lowers IC by one; at the target forward
execution resumes; at the floor the weft takes IRREV (09_registers_history R216 to R218, R228). -/
def Obligations.ReverseWalks : Prop :=
  (∀ (p : Option Prefix) (a : Reg) (s : State),
    let w := s.me
    let T := pairAt w true a 0
    let i : Info := { formA p 0x68 3 true 0 a 0 with ctl := some 0 }
    let armed := w.trap.handler = false ∧ (s.reg (thvec (s.ctxOf s.cur))).getLsbD 0 = true
    issues i s = true → (w.trap.handler = true ∨ w.lanesPending = false) →
    (w.flow.ic.toNat < T.toNat → armed → ∃ t, exec (.rev p a) s = .next t ∧ EntersTrap .opbound w.flow.pc w.flow.ic 0 0 s.cur s t)
    ∧ (T.toNat ≤ w.flow.ic.toNat → T.toNat < (s.walkFloor s.cur).toNat → armed →
        ∃ t, exec (.rev p a) s = .next t ∧ EntersTrap .irrev w.flow.pc w.flow.ic 0 0 s.cur s t)
    ∧ (T = w.flow.ic → (s.walkFloor s.cur).toNat ≤ T.toNat → w.trap.handler = false →
        ∃ t, exec (.rev p a) s = .next t ∧ OnlyWeft s.cur s t
          ∧ t.weft s.cur = { w with flow := { w.flow with pc := w.flow.pc + BitVec.ofNat 64 (4 * i.len), entry := .body } })
    ∧ (T.toNat < w.flow.ic.toNat → (s.walkFloor s.cur).toNat ≤ T.toNat → s.walkReady s.cur = true →
        ∃ t, exec (.rev p a) s = .next t ∧ OnlyWeft s.cur s t ∧ (t.weft s.cur).flow.dir = true ∧ (t.weft s.cur).flow.revT = T
          ∧ (t.weft s.cur).flow.ic = w.flow.ic ∧ (t.weft s.cur).regs = w.regs ∧ (t.weft s.cur).hist = w.hist
          ∧ (w.trap.handler = false → (t.weft s.cur).flow.pc = walkStart s s.cur w.flow.pc ∧ (t.weft s.cur).flow.active = w.flow.active)
          ∧ (w.trap.handler = true → (t.weft s.cur).flow.active = (w.trap.tamask ||| w.trap.tmask) &&& fullMask w.width
              ∧ (t.weft s.cur).trap.tmask = 0)))
  ∧ ∀ (k : Nat) (s : State),
      let f := (s.weft k).flow
      s.stepReady k = true → (s.weft k).seg.walk = none →
      (∀ P via s', f.revT.toNat < f.ic.toNat → (s.walkFloor k).toNat < f.ic.toNat → predecessor s k f.pc f.ic = .ok (P, via) →
          undoInstr s k P via (f.ic - 1) = .ok s' → s.clear s' →
          ∃ t, Takes (exec (.reverseStep k) s) s t ∧ OnlyWeft k s' t ∧ (t.weft k).flow.pc = P ∧ (t.weft k).flow.ic = f.ic - 1
            ∧ (t.weft k).regs = (s'.weft k).regs ∧ (t.weft k).hist = (s'.weft k).hist)
      ∧ (s.calm → ∀ t, f.ic.toNat ≤ f.revT.toNat → endWalk s k = .ok t →
          exec (.reverseStep k) s = .next t ∧ OnlyWeft k s t ∧ (t.weft k).flow.dir = false ∧ (t.weft k).flow.pc = f.pc
            ∧ (t.weft k).flow.ic = f.ic ∧ (t.weft k).flow.entry = .body ∧ (t.weft k).trap.handler = false ∧ (t.weft k).regs = (s.weft k).regs)
      ∧ (s.calm → ∀ u, f.revT.toNat < f.ic.toNat → (f.ic.toNat ≤ (s.walkFloor k).toNat ∨ predecessor s k f.pc f.ic = .error .irrev) →
          standAt s k = .ok u → (s.reg (thvec (s.ctxOf k))).getLsbD 0 = true →
          OnlyWeft k s u ∧ ∃ t, exec (.reverseStep k) s = .next t ∧ (t.weft k).flow.dir = false
            ∧ EntersTrap .irrev f.pc f.ic (s.weft k).hist.hsp 0 k u t ∧ (t.weft k).trap.resume = f.pc)

/-- SRD writes the special register of its number as it stands at issue, the same to every lane but for FFLAGS and LANE; SRD DCLK writes 0 outside
a domain and otherwise some value that is not above the least clock of the domain (02_threads R39, R40, 17_determinism R390). SWR FFLAGS writes
bits [5:0] in its lanes in any mode. In a handler SWR writes FMODE but for DET, whose value must hold a defined rounding mode and no reserved bit,
while no phase is reserved; the trap registers; and HSP, HBASE and HLIM where they stay in order inside the history area. Outside a handler it
raises PRIV, and nothing else changes (02_threads R39, 18_traps R411, 09_registers_history R212). -/
def Obligations.SpecialRegisters : Prop :=
  (∀ (p : Option Prefix) (u : Bool) (d b : Reg) (s : State),
      let i := formA p 0x78 0 u d 0 b
      let w := s.me
      let x := s.teamOfWeft s.cur
      let z := fun (v : Word) => (v.setWidth 64 : Dword)
      let m := fun (v : Nat) => BitVec.ofNat 64 v
      let val := fun (L : Nat) => match b.toNat with
        | 0x00 => w.flow.ic
        | 0x01 => if w.flow.dir then 1 else 0
        | 0x02 => w.flow.cf
        | 0x03 => w.flow.cfic
        | 0x04 => w.hist.hsp
        | 0x05 => w.hist.hbase
        | 0x06 => w.hist.hlim
        | 0x07 => w.hist.hcommit
        | 0x08 => m w.regs.wb
        | 0x09 => m w.regs.alloc
        | 0x0A => z w.regs.fmode
        | 0x0B => (w.fflag L).setWidth 64
        | 0x0C => m L
        | 0x0D => m w.width
        | 0x0E => m (indexOf s.cur)
        | 0x0F => m x.teamIx
        | 0x10 => z x.task.tilex
        | 0x11 => z x.task.tiley
        | 0x12 => z x.task.tilez
        | 0x13 => x.taskp
        | 0x14 => x.task.arg
        | 0x15 => m (s.coreOf s.cur)
        | 0x16 => m (s.coreOf s.cur / 256)
        | 0x17 => m w.role
        | 0x18 => x.sig
        | 0x1A => z w.trap.tcause
        | 0x1B => w.trap.tpc
        | 0x1C => w.trap.tmask
        | 0x1D => w.trap.taddr
        | 0x1E => z w.trap.tlane
        | 0x1F => w.trap.tic
        | 0x20 => m (((List.range 12).map fun n => if w.flagCount n = 0 then 0 else 2 ^ n).sum)
        | _ => (0 : Dword)
      (b ≠ 0x19 → i.dk.words = 1 → Gives32At i (.srd p u d b) s fun L => (val L).setWidth 32)
        ∧ (b ≠ 0x19 → i.dk.words = 2 → Gives64At i (.srd p u d b) s val)
        ∧ (b = 0x19 → issues i s = true → ∃ t v, exec (.srd p u d b) s = .next t ∧ t = { s with wefts := t.wefts, freeTick := s.freeTick + 1 }
            ∧ WentOn i w (t.weft s.cur) ∧ SameControl w (t.weft s.cur) ∧ (∀ L ∈ i.lanes s, pairAt (t.weft s.cur) u d L = v)
            ∧ (s.inDomain s.cur = false → v = 0)
            ∧ (s.inDomain s.cur = true → v.toNat ≤ (s.minClock x.domain).toNat)))
  ∧ (∀ (p : Option Prefix) (u : Bool) (a b : Reg) (s : State),
      let i := formA p 0x78 1 u 0 a b
      let w := s.me
      let n := b.toNat
      let v := if specialWide n then pairAt w true a 0 else (wordAt w true a 0).setWidth 64
      let x : Instr := .swr p u a b
      let lo : Word := v.setWidth 32
      let writes := fun (w' : Weft) => ∃ t, exec x s = .next t ∧ Retires i s (s.setWeft s.cur w') t
      issues i s = true →
      (b = 0x0B → ∃ t, exec x s = .next t ∧ OnlyWeft s.cur s t ∧ WentOn i w (t.weft s.cur) ∧ SameControl w (t.weft s.cur)
          ∧ (t.weft s.cur).regs = { w.regs with fflags := (t.weft s.cur).regs.fflags }
          ∧ ∀ L, (t.weft s.cur).fflag L = if L ∈ i.lanes s then (i.a32 s L).setWidth 8 &&& 0x3F else w.fflag L)
        ∧ (w.trap.handler = true →
          (n = 0x0A → bitsOf lo 0 3 ≠ 7 → bitsOf lo 18 14 = 0 →
              (∀ y ∈ s.cores, ∀ o ∈ y.2.ops, o.k = s.cur → o.kind.sweepLike = false) →
              writes { w with regs := { w.regs with fmode := withBits lo 17 1 (bitsOf w.regs.fmode 17 1) } })
          ∧ (n = 0x1A → writes { w with trap := { w.trap with tcause := lo } })
          ∧ (n = 0x1B → writes { w with trap := { w.trap with tpc := v } })
          ∧ (n = 0x1C → writes { w with trap := { w.trap with tmask := v, lanes := w.trap.lanes.filter fun f => v.getLsbD f.lane } })
          ∧ (n = 0x1D → writes { w with trap := { w.trap with taddr := v } })
          ∧ (n = 0x1E → writes { w with trap := { w.trap with tlane := lo } })
          ∧ (n = 0x1F → writes { w with trap := { w.trap with tic := v } })
          ∧ (let hsp := if n = 4 then v else w.hist.hsp
             let hbase := if n = 5 then v else w.hist.hbase
             let hlim := if n = 6 then v else w.hist.hlim
             4 ≤ n → n ≤ 6 → v.toNat % 4 = 0 → w.hist.a0.toNat ≤ v.toNat → v.toNat ≤ w.hist.a0.toNat + w.hist.bytes →
             hbase.toNat ≤ hsp.toNat → hsp.toNat ≤ hlim.toNat → hsp.toNat ≤ w.hist.hsp.toNat →
             ∃ t, exec x s = .next t ∧ (t.weft s.cur).hist.hsp = hsp ∧ (t.weft s.cur).hist.hbase = hbase ∧ (t.weft s.cur).hist.hlim = hlim
               ∧ WentOn i w (t.weft s.cur) ∧ (t.weft s.cur).regs = w.regs ∧ (t.weft s.cur).trap = w.trap
               ∧ t.mem = s.mem ∧ ∀ j, j ≠ s.cur → t.weft j = s.weft j))
        ∧ (b ≠ 0x0B → s.armed s.cur → ∃ t, exec x s = .next t ∧ EntersTrap .priv w.flow.pc w.flow.ic 0 0 s.cur s t))

/-- ERET in a handler ends it: the lanes of TMASK that its mask names rejoin, the others leave every stack entry, TMASK is empty, and the weft
goes on at the resume point as it came to it, or by a transfer at an explicit target, which CF names as taken by the instruction that retired
last; with no lane left it goes on at the RPC of the top entry, or ends. Outside a handler ERET and FQPARK raise PRIV (18_traps R412, R413,
09_registers_history R214). FQPARK in a handler begins to save its team, and a redundant partner with it, with a report of KIND 0 that holds the trap
registers, and the lanes of TMASK are to rejoin; FLAGS.CLR clears the flags that its mask names in every lane of ACTIVE; CTXSV retires and then
writes the weft's blocks of the image; PAIRSIG writes the signature of the open segment, 0 outside a redundant pair (18_traps R413 to R416). -/
def Obligations.SystemGroup : Prop :=
  ∀ (p : Option Prefix) (m : BitVec 3) (d a : Reg) (e : Bool) (s : State),
    let w := s.me
    let T := teamOf s.cur
    let F := fun (fn : Nat) (d a b : Reg) => formA p 0x78 fn true d a b
    (let i : Info := { F 2 (m.setWidth 7) a (if e then 1 else 0) with ctl := some 0 }
     let target := if e then pairAt w true a 0 else w.trap.resume
     let R := if m = 0 then w.trap.tmask else w.trap.tmask &&& w.maskReg m.toNat
     let st := w.flow.stack.map (dropLanes (w.trap.tmask &&& ~~~R))
     let back := (w.trap.tamask ||| R) &&& fullMask w.width
     issues i s = true →
     (w.trap.handler = true → back ≠ 0 → (target = w.trap.resume ∨ s.goodTarget s.cur target) →
       ∃ t, exec (.eret p m a e) s = .next t ∧ OnlyWeft s.cur s t ∧ (t.weft s.cur).trap.handler = false ∧ (t.weft s.cur).trap.tmask = 0
         ∧ (t.weft s.cur).flow.active = back ∧ (t.weft s.cur).flow.stack = st
         ∧ (t.weft s.cur).flow.pc = target ∧ (t.weft s.cur).flow.ic = w.flow.ic ∧ (t.weft s.cur).regs = w.regs
         ∧ (t.weft s.cur).flow.hdr = w.trap.rHdr ∧ (t.weft s.cur).flow.flagA = w.trap.rFlagA ∧ (t.weft s.cur).flow.flagB = w.trap.rFlagB
         ∧ (target = w.trap.resume → (t.weft s.cur).flow.entry = w.trap.rEntry ∧ (t.weft s.cur).flow.cf = w.flow.cf
             ∧ (t.weft s.cur).flow.cfic = w.flow.cfic ∧ (t.weft s.cur).hist = w.hist)
         ∧ (target ≠ w.trap.resume → w.hist.lastPc ≠ 0 → (t.weft s.cur).flow.cf = w.hist.lastPc
             ∧ (t.weft s.cur).flow.cfic = w.flow.ic - 1))
     ∧ (w.trap.handler = true → back = 0 → (target = w.trap.resume ∨ s.goodTarget s.cur target) →
         (∀ top rest, st = top :: rest → ∃ t, exec (.eret p m a e) s = .next t ∧ OnlyWeft s.cur s t ∧ (t.weft s.cur).trap.handler = false
           ∧ (t.weft s.cur).flow.active = 0 ∧ (t.weft s.cur).flow.pc = top.rpc ∧ (t.weft s.cur).flow.stack = st ∧ (t.weft s.cur).regs = w.regs)
         ∧ (st = [] → ∃ t, exec (.eret p m a e) s = .next t ∧ (t.weft s.cur).status = .ended ∧ (t.weft s.cur).regs = w.regs ∧ t.mem = s.mem))
     ∧ (s.armed s.cur → (target = w.trap.resume ∨ s.goodTarget s.cur target) →
         ∃ t, exec (.eret p m a e) s = .next t ∧ EntersTrap .priv w.flow.pc w.flow.ic 0 0 s.cur s t))
    ∧ (issues (F 3 0 0 0) s = true →
       (w.trap.handler = true → ∃ t, exec (.fqpark p) s = .next t ∧ (t.team T).status = .saving 0
         ∧ (t.team T).report.kind = 0 ∧ (t.team T).report.cause = w.trap.tcause.toNat ∧ (t.team T).report.tpc = w.trap.tpc
         ∧ (t.team T).report.tic = w.trap.tic ∧ (t.team T).report.taddr = w.trap.taddr ∧ (t.team T).report.tmask = w.trap.tmask
         ∧ (t.team T).report.tlane = w.trap.tlane ∧ (t.team T).report.weft = indexOf s.cur
         ∧ (t.weft s.cur) = { w with trap := { w.trap with rejoin := w.trap.tmask } } ∧ (∀ j, j ≠ s.cur → t.weft j = s.weft j) ∧ t.mem = s.mem
         ∧ (s.member s.cur ≠ 0 → (s.team T).partner ≠ T → (s.team (s.team T).partner).status = .resident →
             (t.team (s.team T).partner).status = .saving 4)
         ∧ ∀ j, j ≠ T → (s.member s.cur = 0 ∨ j ≠ (s.team T).partner) → t.team j = s.team j)
       ∧ (s.armed s.cur → ∃ t, exec (.fqpark p) s = .next t ∧ EntersTrap .priv w.flow.pc w.flow.ic 0 0 s.cur s t))
    ∧ (let i := F 4 0 a 0
       let v := sregOf w a
       issues i s = true → v.toNat < 64 →
       ∃ t, exec (.flagsClr p a) s = .next t ∧ OnlyWeft s.cur s t ∧ WentOn i w (t.weft s.cur) ∧ SameControl w (t.weft s.cur)
         ∧ (t.weft s.cur).regs = { w.regs with fflags := (t.weft s.cur).regs.fflags }
         ∧ ∀ L, (t.weft s.cur).fflag L =
             if L < w.width ∧ w.flow.active.getLsbD L = true then w.fflag L &&& ~~~(v.setWidth 8) else w.fflag L)
    ∧ (let i := F 5 0 0 0
       let s' := retire (i.ctx s) w { s := s }
       ∀ u, issues i s = true → writePieces s' (weftPieces s' s.cur false) = .ok u → s.clear u →
         PlainStep i (fun _ => False) (fun _ => False) (fun _ => False) s s'
           ∧ ∃ t, Takes (exec (.ctxsv p) s) s t ∧ t = { u with freeTick := u.freeTick + imageTicks })
    ∧ (issues (F 6 d 0 0) s = true → ∃ t, exec (.pairsig p d) s = .next t ∧ RegisterStep (F 6 d 0 0) 1 s t ∧ SameFflags w (t.weft s.cur)
        ∧ wordAt (t.weft s.cur) true d 0 = if s.member s.cur = 0 then 0 else signature w.seg.writes)

/-! ## Queues, teams and domains -/

/-- QPUT, QGET and their non-blocking forms outside redundant pairs, on an enabled queue of the context. A post appends the record at the
scratchpad address, after a release at .d; a take puts the record at HEAD there; where the queue is full, or empty, a blocking form keeps its weft
and a non-blocking form clears its mask register, which it sets otherwise (16_scheduling R378, R380, R381). The append advances TAIL, and the take
HEAD, by one. A held QPUT, or SPAWN, or QGET goes on when its queue has room, or a record; a QPUT whose queue stays full to its time-out enters
the trap QUEUEFULL at the instruction (16_scheduling R380, R381). SPAWN puts its record, with the task's own origin queue, into the core's local
queue while that has room, and otherwise appends it to the origin queue; TDONE decrements the join block it names; STEAL takes the oldest record of
the highest priority of the victim's local queue that belongs to its context, may run on its die and fits its core, and writes 1, or 0 when there is
none; QSTAT writes a queue's length and capacity, or the local queue's length and 64 (16_scheduling R382 to R384). Here outside redundant pairs. -/
def Obligations.QueuesAndTasks : Prop :=
  ((∀ (p : Option Prefix) (d a : Reg) (b : BitVec 3) (s s1 s2 : State) (r : TaskRec) (bs : List Byte) (pa : Nat),
      let form := fun (fn : Nat) (b : Reg) => formA p 0x6C fn true d a b
      let at_ := (sregOf s.me a).toNat
      let q := (sregOf s.me d).toNat
      let mark := fun (s : State) (v : Bool) => s.modWeft s.cur fun w => w.setAll b v
      let named := fun (i : Info) => issues i s = true ∧ s.member s.cur = 0 ∧ at_ % 64 = 0 ∧ at_ < (s.team (teamOf s.cur)).size
        ∧ q < 16384 ∧ s.qUsable q (s.ctxOf s.cur) = true
      let goes := fun (x : Instr) (u : State) (done : State → Prop) => s.clear u → ∃ t, Takes (exec x s) s t ∧ done t
      let put := fun (i : Info) (x : Instr) (full done : State → Prop) =>
        named i → postRecord (i.ctx s) s at_ = .ok (r, s1) →
        (s1.qFull q = true → goes x s1 full)
          ∧ (s1.qFull q = false → relReady s1 s.cur 2 = true → s1.qAppend q r.toBytes = .ok s2 → goes x s2 done)
      let s3 := s2.spadPut (teamOf s.cur) at_ bs
      let get := fun (i : Info) (x : Instr) (empty done : State → Prop) =>
        named i → s.qServe q = false → recordPage (i.ctx s) s at_ = .ok s1 →
        (s1.qLen q = 0 → goes x s1 empty) ∧ (s1.qLen q ≠ 0 → s1.qTake q = .ok (bs, pa, s2) → goes x s3 done)
      let w := (b.setWidth 7 : Reg)
      put (form 0 0) (.qput p d a) (fun t => KeepsWeft (form 0 0) (.qput q (bytesBits r.toBytes)) s s1 t) (fun t => Retires (form 0 0) s s2 t)
        ∧ put (form 1 w) (.qputNb p d a b) (fun t => Retires (form 1 w) s (mark s1 false) t) (fun t => Retires (form 1 w) s (mark s2 true) t)
        ∧ get (form 2 0) (.qget p d a) (fun t => KeepsWeft (form 2 0) (.qget q at_) s s1 t) (fun t => Retires (form 2 0) s s3 t)
        ∧ get (form 3 w) (.qgetNb p d a b) (fun t => Retires (form 3 w) s (mark s1 false) t) (fun t => Retires (form 3 w) s (mark s3 true) t))
    ∧ ∀ (s s' : State) (q : Nat) (bs : List Byte) (pa : Nat), q < 16384 →
        let w := s.hostWrite (s.qSlot q (s.field (qtail q) 0 32)) bs
        let r := s.hostRead (s.qSlot q (s.field (qhead q) 0 32)) 64
        (s.qAppend q bs = .ok s' → s'.field (qtail q) 0 32 = (s.field (qtail q) 0 32 + 1) % 2 ^ 32 ∧ s'.mem = w.mem
            ∧ s'.field (qhead q) 0 32 = w.field (qhead q) 0 32)
        ∧ (s.qTake q = .ok (bs, pa, s') → s'.field (qhead q) 0 32 = (s.field (qhead q) 0 32 + 1) % 2 ^ 32 ∧ bs = r.1 ∧ s'.mem = r.2.mem
            ∧ s'.field (qtail q) 0 32 = r.2.field (qtail q) 0 32))
  ∧ (∀ (k q : Nat) (h : Hold) (s : State), (s.weft k).hold = some h → s.member k = 0 →
      (∀ r s', h.kind = .qput q r → s.mayResume k h → s.qUsable q (s.ctxOf k) = true → s.qFull q = false → relReady s k 2 = true →
          s.qAppend q (bitsBytes r) = .ok s' → s.clear s' → ∃ t, Takes (exec (.queueHoldRelease k) s) s t ∧ Resumes k h s s' t)
      ∧ (∀ at_ bs pa s0 s1, h.kind = .qget q at_ → s.mayResume k h → s.qUsable q (s.ctxOf k) = true → s.qServe q = false → s.qLen q ≠ 0 →
          s.spadBad (teamOf k) at_ = false → s.bringPages (teamOf k) (s.coreOf k) [at_ / 2048] = .ok s0 → s0.qTake q = .ok (bs, pa, s1) →
          let s2 := s1.spadPut (teamOf k) at_ bs
          s.clear s2 → s2.weft k = s.weft k → ∃ t, Takes (exec (.queueHoldRelease k) s) s t ∧ Resumes k h s s2 t)
      ∧ ∀ r, h.kind = .qput q r → s.canRelease k = true → s.qFull q = true → s.armed k →
          ∃ t, exec (.qputTimeout k) s = .next t ∧ EntersTrap .queuefull h.pc (s.weft k).flow.ic 0 0 k s t)
  ∧ (∀ (p : Option Prefix) (d a b : Reg) (s s1 s2 : State) (r : TaskRec) (l : Launch) (L pa gr : Nat) (va : Dword),
      let T := teamOf s.cur
      let ctx := s.ctxOf s.cur
      let core := s.coreOf s.cur
      let at_ := (sregOf s.me a).toNat
      let r' : TaskRec := { r with origin := (s.team T).task.origin }
      let i := fun (fn : Nat) (d b : Reg) => formA p 0x6C fn true d a b
      let record := at_ % 64 = 0 ∧ at_ < (s.team T).size
      let goes := fun (i : Info) (x : Instr) (u s' : State) => s.clear u → ∃ t, Takes (exec x s) s t ∧ Retires i s s' t
      s.member s.cur = 0 →
      (issues (i 4 0 0) s = true → record → postRecord ((i 4 0 0).ctx s) s at_ = .ok (r, s1) → s1.teams = s.teams → relReady s1 s.cur 2 = true →
          (s1.localRoom (s1.coreOf s.cur) = true → s1.checkRec ctx none r' = .ok (l, s2) →
            let c := queueCore (pairRecord r' l) (s2.coreOf s.cur)
            s2.localRoom c = true → goes (i 4 0 0) (.spawn p a) s2
              (s2.modCore c fun y => { y with queue := y.queue ++ [{ task := r', ctx := ctx, prio := r'.prio, launch := l, spawned := true }] }))
          ∧ (let q := r'.origin.toNat
             s1.localRoom (s1.coreOf s.cur) = false → s1.qUsable q ctx = true → s1.qFull q = false → s1.qAppend q r'.toBytes = .ok s2 →
             goes (i 4 0 0) (.spawn p a) s2 s2))
        ∧ (let i := formA p 0x6C 5 true 0 a 0
           issues i s = true → i.allAligned s 0 4 → i.reaches s 0 .write [(L, va, pa, gr)] s1 → relReady s1 s.cur 2 = true →
           s1.joinDecrement (s1.ctxOf s.cur) pa = .ok s2 → goes i (.tdone p a) s2 s2)
        ∧ (let victim := (sregOf s.me b).toNat
           let me := s1.coreOf s.cur
           let best := bestRecord (fun r => r.ctx == s1.ctxOf s.cur && s1.mayRunOn r (dieOf me) && r.held == 0
             && s1.canAdmit (queueCore r.pair me) r.count r.pair) (s1.core victim).queue
           let done := fun (s : State) (v : Word) => s.modWeft s.cur fun w => { w with regs := w.regs.setS d.toNat v }
           issues (i 6 d b) s = true → record → victim < 1024 → recordPage ((i 6 d b).ctx s) s at_ = .ok s1 →
           (best = none → goes (i 6 d b) (.steal p d a b) s1 (done s1 0))
             ∧ (∀ j x, best = some j → (s1.core victim).queue[j]? = some x →
                let s3 := (countSteal (s1.modCore victim fun y => { y with queue := y.queue.eraseIdx j }) me).spadPut T at_ x.task.toBytes
                goes (i 6 d b) (.steal p d a b) s3 (done s3 1)))
        ∧ (let v := sregOf s.me a
           (v = 0xFFFFFFFF ∨ v.toNat < 16384 ∧ s.qUsable v.toNat ctx = true) → issues (i 7 d 0) s = true →
           Writes64 (i 7 d 0) s (exec (.qstat p d a) s) fun _ =>
             if v = 0xFFFFFFFF then pairOf (BitVec.ofNat 32 (s.core core).queue.length) 64
             else pairOf (BitVec.ofNat 32 (s.qLen v.toNat)) (BitVec.ofNat 32 (s.qCap v.toNat))))

/-- An arrival at a team barrier sets the weft's pending bit, after a release at .t. BAR.T, BAR.P and BAR.ARRIVE of a weft whose stores are done
take effect at once: where every other participant has ended or arrived the phase flips, no arrival is pending, and the weft goes on with every one
that is held on the phase, in BAR.WAIT too; until then BAR.T and BAR.P keep the weft, and BAR.ARRIVE goes on. BAR.WAIT keeps a weft that has arrived
until then. An id above 7 or a turn, a second arrival, and a BAR.WAIT with none pending raise OPBOUND (16_scheduling R385, R386, 17_determinism
R392). -/
def Obligations.TeamBarriers : Prop :=
  ∀ (p : Option Prefix) (a : Reg) (s : State),
    let T := teamOf s.cur
    let w := s.me
    let ix := indexOf s.cur
    let v := (sregOf w a).toNat
    let F := fun (fn : Nat) => formA p 0x70 fn true 0 a 0
    let half := if (s.team T).pair = true then 1 + ix % 2 else 0
    let bar := fun (inst : Nat) => (s.team T).bar (3 * v + inst)
    let starts := fun (fn inst : Nat) =>
      issues (F fn) s = true ∧ v < 8 ∧ w.inTurn = false ∧ s.storesDone s.cur ∧ (bar inst).pending.getLsbD ix = false
    let last := fun (inst : Nat) => ∀ n < (s.team T).nwefts, (inst = 0 ∨ n % 16 % 2 + 1 = inst) → 16 * T + n ≠ s.cur →
      (s.weft (16 * T + n)).status = .ended ∨ (bar inst).pending.getLsbD (n % 16) = true
    let arrived := fun (inst : Nat) => s.modTeam T fun y =>
      y.setBar (3 * v + inst) { bar inst with pending := (bar inst).pending ||| BitVec.ofNat 16 (2 ^ ix), lc := maxD (bar inst).lc w.lc }
    let passed := fun (fn inst : Nat) (t : State) =>
      ((t.team T).bar (3 * v + inst)) = { pending := 0, phase := !(bar inst).phase, lc := 0 }
        ∧ WentOn (F fn) w (t.weft s.cur) ∧ (t.weft s.cur).hold = none ∧ (t.weft s.cur).regs = w.regs ∧ t.mem = s.mem
        ∧ ∀ n < (s.team T).nwefts, n < 16 → 16 * T + n ≠ s.cur → (inst = 0 ∨ n % 2 + 1 = inst) → ∀ h, s.mayResume (16 * T + n) h →
            h.kind = .bar v inst → (t.weft (16 * T + n)).hold = none ∧ (t.weft (16 * T + n)).flow.pc = h.next
              ∧ (t.weft (16 * T + n)).regs = (s.weft (16 * T + n)).regs
    let stops := fun (x : Instr) => s.armed s.cur → ∃ t, exec x s = .next t ∧ EntersTrap .opbound w.flow.pc w.flow.ic 0 0 s.cur s t
    let bad := fun (fn inst : Nat) (pend : Bool) (x : Instr) =>
      issues (F fn) s = true → (8 ≤ v ∨ w.inTurn = true ∨ (bar inst).pending.getLsbD ix = pend) → stops x
    (starts 0 half → (last half → ∃ t, exec (.barT p a) s = .next t ∧ passed 0 half t)
        ∧ (¬ last half → ∃ t, exec (.barT p a) s = .next t ∧ KeepsWeft (F 0) (.bar v half) s (arrived half) t))
    ∧ (starts 1 0 → (last 0 → ∃ t, exec (.barP p a) s = .next t ∧ passed 1 0 t)
        ∧ (¬ last 0 → ∃ t, exec (.barP p a) s = .next t ∧ KeepsWeft (F 1) (.bar v 0) s (arrived 0) t))
    ∧ (starts 2 0 → (last 0 → ∃ t, exec (.barArrive p a) s = .next t ∧ passed 2 0 t)
        ∧ (¬ last 0 → ∃ t, exec (.barArrive p a) s = .next t ∧ Retires (F 2) s (arrived 0) t))
    ∧ (issues (F 3) s = true → v < 8 → w.inTurn = false → (bar 0).pending.getLsbD ix = true →
        ∃ t, exec (.barWait p a) s = .next t ∧ KeepsWeft (F 3) (.bar v 0) s s t)
    ∧ bad 0 half true (.barT p a) ∧ bad 1 0 true (.barP p a) ∧ bad 2 0 true (.barArrive p a) ∧ bad 3 0 false (.barWait p a)

/-- A buffered atomic of a weft in a domain, whose lanes are aligned and translated and fit its share, appends an entry for each lane to the
team's buffer and changes neither memory nor a register (17_determinism R394, R395). Here outside redundant pairs. DSYNC, DCLK and FLUSHPT do
nothing outside a domain. In one, DSYNC opens a turn of n instructions when no turn is open and its weft's clock is the least, and DCLK goes on
when its clock is reached; FLUSHPT closes the weft's epoch after a release at .d, and with bit 0 set waits until the flush point is applied; what
does not go on keeps its weft (17_determinism R392, R393, R397). Here outside redundant pairs. -/
def Obligations.DomainInstructions : Prop :=
  (∀ (p : Option Prefix) (u : Bool) (a b : Reg) (s s' : State) (accs : List (Nat × Dword × Nat × Nat)),
      let T := teamOf s.cur
      let one := fun (fn : Nat) (x : Instr) =>
        let i := formA p 0x4C fn u 0 a b
        let n := if fn = 2 ∨ fn = 5 then 8 else 4
        issues i s = true → s.inDomain s.cur = true → s.member s.cur = 0 → i.allAligned s 0 n → i.reaches s 0 .write accs s' →
        s'.epochShare s.cur + accs.length ≤ 4096 / max 1 (s'.teamOfWeft s.cur).nwefts → s.clear s' →
        ∃ t, Takes (exec x s) s t ∧ t = { s' with wefts := t.wefts, teams := t.teams } ∧ (∀ j, j ≠ s.cur → t.weft j = s'.weft j)
          ∧ WentOn i s.me (t.weft s.cur) ∧ (t.weft s.cur).regs = s.me.regs ∧ SameHistory s.me (t.weft s.cur)
          ∧ SameControl { s.me with seq := s.me.seq + 1 } (t.weft s.cur) ∧ (∀ j, j ≠ T → t.team j = s'.team j)
          ∧ t.team T = { s'.team T with datoms := (s'.team T).datoms ++ accs.map fun y =>
              { pa := y.2.2.1, fn := fn, x := (readOp s.me i.bScalar i.bk i.b y.1).setWidth 64, teamIx := (s'.team T).teamIx
                weft := indexOf s.cur, lane := y.1, seq := s.me.seq, epoch := s.me.sched.epoch, ic := s.me.flow.ic, core := s'.coreOf s.cur } }
      one 0 (.daddI32 p u a b) ∧ one 1 (.daddF32 p u a b) ∧ one 2 (.daddF64 p u a b) ∧ one 3 (.dminI p u a b) ∧ one 4 (.dmaxI p u a b)
        ∧ one 5 (.daddI64 p u a b))
  ∧ (∀ (p : Option Prefix) (a : Reg) (s : State),
      let same := fun (i : Info) (x : Instr) => ∃ t, exec x s = .next t ∧ PlainStep i (fun _ => False) (fun _ => False) (fun _ => False) s t
      let dom := (s.teamOfWeft s.cur).domain
      s.member s.cur = 0 →
      (let i : Info := { formA p 0x71 0 true 0 a 0 with irrev := s.inDomain s.cur }
       let n := (sregOf s.me a).toNat
       issues i s = true → 1 ≤ n → n ≤ 64 → s.me.inTurn = false →
       (s.inDomain s.cur = false → same i (.dsync p a))
         ∧ (s.inDomain s.cur = true → s.mayTurn s.cur = true → ∃ t, exec (.dsync p a) s = .next t ∧ Retires i s (openTurn s s.cur n) t
             ∧ (t.weft s.cur).sched.turn = true ∧ (t.weft s.cur).sched.turnLeft = n ∧ ∀ d, s.domain? dom = some d → t.domain? dom = some { d with turn := some s.cur })
         ∧ (s.inDomain s.cur = true → s.mayTurn s.cur = false → ∃ t, exec (.dsync p a) s = .next t ∧ KeepsWeft i (.dsync n) s s t))
      ∧ (let i := formA p 0x71 2 true 0 a 0
         let T := pairAt s.me true a 0
         issues i s = true → a.toNat % 2 = 0 → s.me.inTurn = false →
         (s.inDomain s.cur = false ∨ T.toNat ≤ s.me.lc.toNat ∨ s.clockReached s.cur T = true → same i (.dclk p a))
           ∧ (s.inDomain s.cur = true → s.me.lc.toNat < T.toNat → s.clockReached s.cur T = false → s.me.lanesPending = false →
               ∃ t, exec (.dclk p a) s = .next t ∧ KeepsWeft i (.dclk T) s s t))
      ∧ (let i : Info := { formA p 0x71 1 true 0 a 0 with irrev := s.inDomain s.cur }
         let v := sregOf s.me a
         let e := s.me.sched.epoch
         let s' := s.modWeft s.cur fun w => { w with sched := { w.sched with epoch := e + 1 } }
         issues i s = true → v.toNat < 2 → (v = 0 ∨ s.me.inTurn = false) →
         (s.inDomain s.cur = false → same i (.flushpt p a))
           ∧ ∀ d, s.inDomain s.cur = true → s.domain? dom = some d → e < d.applied + 2 → relReady s s.cur 2 = true →
               (v = 0 ∨ e < d.applied → ∃ t, exec (.flushpt p a) s = .next t ∧ Retires i s s' t)
               ∧ (v = 1 → d.applied ≤ e → ∃ t, exec (.flushpt p a) s = .next t ∧ KeepsWeft i (.flushpt e) s s' t)))

/-- A held DSYNC whose weft's clock is the least opens its turn, and a turn that has run out closes; a held DCLK goes on when its clock is
reached; a flush point that every weft has reached applies the entries of its epoch in the order of their keys; the launch or record held longest
takes a domain when one is free (17_determinism R387, R392, R393, R396). -/
def Obligations.DomainEvents : Prop :=
  (∀ (k : Nat) (h : Hold) (s : State), s.mayResume k h → s.member k = 0 →
      (∀ n, h.kind = .dsync n → s.mayTurn k = true →
        ∃ t, exec (.dsyncGrant k) s = .next t ∧ Resumes k h s (openTurn s k n) t ∧ (t.weft k).sched.turn = true ∧ (t.weft k).sched.turnLeft = n)
      ∧ ∀ T, h.kind = .dclk T → s.clockReached k T = true → ∃ t, exec (.dclkRelease k) s = .next t ∧ Resumes k h s s t)
  ∧ (∀ (dom k : Nat) (d : Domain) (s : State), s.domain? dom = some d → d.turn = some k → s.turnDone k = true →
      (s.teamOfWeft k).member ≠ 2 →
      ∃ t, exec (.turnClose dom) s = .next t
        ∧ (∀ j, (s.teamOfWeft j).domain = dom → (s.teamOfWeft j).member = 2 → (s.weft j).turnOver = true → (t.weft j).sched.turn = false)
        ∧ t.domain? dom = some { d with turn := none } ∧ (t.weft k).sched.turn = false ∧ (t.weft k).regs = (s.weft k).regs ∧ t.mem = s.mem)
  ∧ (∀ (dom : Nat) (d : Domain) (s : State), s.domain? dom = some d → s.flushReached d d.applied = true →
      (∃ e ∈ s.domainEntries d, e.epoch = d.applied) → s.clear (applyEpoch s d d.applied) →
      ∃ t, Takes (exec (.flushPoint dom) s) s t ∧ t.mem = (applyEpoch s d d.applied).mem ∧ t.mem =
          (((s.domainEntries d).filter fun e => e.epoch == d.applied).mergeSort (fun a b => !keyLt b.key a.key)
            |>.foldl (applyEntry (s.domainCtx d)) s).mem
        ∧ ∀ d', t.domain? dom = some d' → d'.applied = d.applied + 1 ∧ ∀ e ∈ d'.entries, e.epoch ≠ d.applied)
  ∧ ∀ (n : Nat) (s : State), minCode s.heldOrders = some n → s.domains.length < 64 →
      (∀ l, s.launches.find? (fun l => l.held == n) = some l → exec .domainAdmit s = .next
        { s with domains := s.domains ++ [{ id := s.nextId, launchId := l.id }], nextId := s.nextId + 1
                 launches := s.launches.map fun x => if x.id == l.id then { x with held := 0, domain := s.nextId } else x })
      ∧ (s.launches.find? (fun l => l.held == n) = none → exec .domainAdmit s = .next
        { s with domains := s.domains ++ [{ id := s.nextId, launchId := 0 }], nextId := s.nextId + 1
                 cores := s.cores.map fun c => (c.1, { c.2 with queue := c.2.queue.map fun r =>
                   if r.held == n then { r with held := 0, domain := s.nextId } else r }) })

/-! ## Links and coherence -/

/-- A flit in order with a good check and zero fields is received: its ACK lets go of kept flits, and the next expected SEQ advances. A request is
served outside a repair pause: a read answers with the bytes, a write and an atomic change memory, and an atomic answers with the old value, which
is kept (20_host_fabric R448, R450, 07_memory_instructions R174). Here where no earlier access of a host or a peer waits and this one need not. -/
def Obligations.PeerRequestsServed : Prop :=
  ∀ (l : Nat) (f : Flit) (s : State),
    let s1 : State := { s.accept l f with held := [.flit l f] }
    let w := bitsOf f.raddr 60 4
    let off := bitsOf f.raddr 0 48
    let cfg := s.reg (rwcfg w)
    let va := (s.reg (rwbase w) &&& ~~~(16383 : Dword)) + BitVec.ofNat 64 off
    let answer := fun (s2 u : State) (typ : Byte) (v : BitVec 128) => ∃ g : Flit, (u.link l).out = (s2.link l).out ++ [g] ∧ g.typ = typ
      ∧ g.fl = f.fl &&& 2 ∧ g.dst = f.src ∧ g.id = f.id ∧ g.op1 = v ∧ g.seq = (s2.link l).sendSeq ∧ g.crcOk = true
      ∧ (u.link l).recvSeq = (s.link l).recvSeq + 1 ∧ u.mem = s2.mem
    let one := fun (typ n : Nat) (x : Instr) (wr : Bool) (after : State → Nat → State) (effect : State → Nat → State → Prop) =>
      f.typ = BitVec.ofNat 8 typ → s.powered = true → s.linkUp l = true → s.flitBad l f = false → f.zerosOk = true →
      s.viral = false → s.repairing = false → s.held = [] → (n = 16 → 2 ≤ s.field (plstat l) 4 4) →
      (f.fl.getLsbD 0 = true → 5 ≤ typ → s.keptFor f = none) →
      cfg.getLsbD 0 = true → (wr = true → cfg.getLsbD 1 = true) → off < s.field (rwlen w) 14 34 * 16384 → off % n = 0 →
      ∀ pa s2, s1.hostXlate (bitsOf cfg 12 12) (if wr then .write else .read) va = .ok (pa, s2) → s1.clear (after s2 pa) →
      ∃ t u, exec x s = .next t ∧ t = { s1.after u with held := [] } ∧ t.fabric = u.fabric ∧ effect s2 pa u
    let get := fun (n : Nat) (s2 : State) (pa : Nat) => (s2.hostRead pa n).2
    let put := fun (n : Nat) (s2 : State) (pa : Nat) => s2.hostWrite pa (leBytes n f.op1.toNat)
    let swap := fun (new : Dword → Dword) (s2 : State) (pa : Nat) =>
      (get 8 s2 pa).hostWrite pa (leBytes 8 (new (leDword (s2.hostRead pa 8).1)).toNat)
    let read := fun (n : Nat) (s2 : State) (pa : Nat) (u : State) =>
      answer (get n s2 pa) u 0x41 (BitVec.ofNat 128 (leNat (s2.hostRead pa n).1))
    let write := fun (n : Nat) (s2 : State) (pa : Nat) (u : State) => answer (put n s2 pa) u 0x42 0
    let atomic := fun (new : Dword → Dword) (s2 : State) (pa : Nat) (u : State) =>
      let o := leDword (s2.hostRead pa 8).1
      answer (swap new s2 pa) u 0x41 (o.setWidth 128) ∧ ∃ v, u.keptFor f = some v ∧ v.val = o
    let rmw := fun (typ : Nat) (x : Instr) (new : Dword → Dword) => one typ 8 x true (swap new) (atomic new)
    let X : Dword := f.op1.setWidth 64
    one 1 8 (.rld8 l f) false (get 8) (read 8) ∧ one 2 16 (.rld16 l f) false (get 16) (read 16) ∧ one 3 8 (.rst8 l f) true (put 8) (write 8)
      ∧ one 4 16 (.rst16 l f) true (put 16) (write 16) ∧ rmw 5 (.raddFlit l f) (fun o => o + X)
      ∧ rmw 6 (.rcas l f) (fun o => if o = X then f.op2 else o) ∧ rmw 7 (.rxch l f) (fun _ => X)

/-- The answer of a peer ends the wait of its lane with a value or a PROT fault; a lost response, with ATOMIC and, for an atomic, the id and a
code for a program, while the request is saved; saved requests and kept values lapse (07_memory_instructions R171 to R174). Here of accesses other
than RST, which complete with their last answer. IDLE carries an ACK alone; a NAK has every kept flit from its SEQ sent again and counted; TRAIN
brings an enabled link up at the lower version with fresh sequence numbers; a link that fails loses the requests that wait on it; a flit that
fails its check is answered with a NAK of the next expected SEQ; one of no known type or with a field that is not zero is discarded, and refused
if it could be a request (20_host_fabric R447, R448). -/
def Obligations.AnswersAndLinks : Prop :=
  (∀ (l : Nat) (f : Flit) (x : RemoteWait) (s : State),
      let ends := fun (val : Option (BitVec 128)) (cause : Option Cause) (t : State) =>
        t.weft x.k = (s.weft x.k).answer x.seq x.lane val cause ∧ (∀ k, k ≠ x.k → t.weft k = s.weft k)
          ∧ t.fabric.waits = s.fabric.waits.erase x ∧ t.mem = s.mem
      let one := fun (typ : Nat) (i : Instr) (val : Option (BitVec 128)) (cause : Option Cause) =>
        f.typ = BitVec.ofNat 8 typ → s.powered = true → s.linkUp l = true → s.flitBad l f = false → f.zerosOk = true →
        (s.fabric.waits.find? fun y => y.peer == f.src.toNat && y.flit.id == f.id && y.flit.fl.getLsbD 1 == f.fl.getLsbD 1) = some x →
        (∀ y ∈ (s.weft x.k).flights, y.op ≠ .rst) →
        ∃ t, exec i s = .next t ∧ ends val cause t ∧ (t.link l).recvSeq = (s.link l).recvSeq + 1
      one 0x41 (.rdata l f) (some f.op1) none ∧ one 0x42 (.rack l f) (some 0) none ∧ one 0x43 (.rerr l f) none (some .prot)
        ∧ (∀ (j : Nat) (y : Flight), (s.weft x.k).flights[j]? = some y →
            (s.fabric.waits.find? fun v => v.k == x.k && v.seq == y.seq && v.lane == x.lane) = some x →
            (∀ y ∈ (s.weft x.k).flights, y.op ≠ .rst) →
            ∃ t, exec (.responseLost x.k j x.lane) s = .next t
              ∧ (x.flit.fl.getLsbD 1 = true → ends none (some .atomic) t ∧ t.fabric.saved = s.fabric.saved)
              ∧ (x.flit.fl.getLsbD 1 = false → ends (some (BitVec.ofNat 128 (x.flit.id.toNat + 0xFFFFFFFF * 2 ^ 32))) (some .atomic) t
                  ∧ t.fabric.saved = if x.flit.fl.getLsbD 0 = true ∨ s.lapsed x.peer x.at_ = true then s.fabric.saved
                      else s.fabric.saved ++ [{ peer := x.peer, id := x.flit.id.toNat, flit := { x.flit with fl := 0 }, at_ := x.at_ }]))
        ∧ (∀ peer id, ∃ t, exec (.savedRequestLapse peer id) s = .next t ∧ t = { s with fabric := t.fabric }
            ∧ ∀ r, r ∈ t.fabric.saved ↔ r ∈ s.fabric.saved ∧ ¬ (r.peer = peer ∧ r.id = id))
        ∧ ∀ src id, s.repairing = false → ∃ t, exec (.keptValueExpiry src id) s = .next t ∧ t = { s with fabric := t.fabric }
            ∧ ∀ v, v ∈ t.fabric.kept ↔ v ∈ s.fabric.kept ∧ ¬ (v.src = src ∧ v.id = id))
  ∧ (∀ (l : Nat) (f : Flit) (s : State),
      let e := s.link l
      let good := s.powered = true ∧ s.linkUp l = true ∧ s.flitBad l f = false
      let kept := e.kept.filter fun g => !seqLe g.seq f.ack
      (f.typ = 0x70 → good → f.zerosOk = true → ∃ t, exec (.idle l f) s = .next t ∧ t.link l = { e with kept := kept } ∧ t.mem = s.mem ∧ t.wefts = s.wefts)
      ∧ (f.typ = 0x71 → good → f.zerosOk = true → ∃ t, exec (.nak l f) s = .next t
          ∧ t.link l = { e with kept := kept, out := e.out ++ kept.filter fun g => seqLe (f.op1.setWidth 32) g.seq }
          ∧ t.field (plstat l) 32 32 = (s.field (plstat l) 32 32 + (kept.filter fun g => seqLe (f.op1.setWidth 32) g.seq).length) % 2 ^ 32)
      ∧ (let theirs := bitsOf f.op1 0 8
         let mine := max 1 (s.field (plctl l) 4 4)
         f.typ = 0x7E → s.powered = true → s.linkUp l = false → (s.reg (plctl l)).getLsbD 0 = true → f.crcOk = true → f.zerosOk = true →
         s.viral = false → ∃ t g, exec (.train l f) s = .next t ∧ t.link l = { sendSeq := 0, recvSeq := 0, kept := [], out := e.out ++ [g] }
           ∧ g.typ = 0x7E ∧ g.op1 = BitVec.ofNat 128 (mine + 256 * s.modid)
           ∧ (theirs = 0 → t.linkState l = 3)
           ∧ (0 < theirs → t.linkState l = 2 ∧ t.field (plstat l) 4 4 = min mine theirs ∧ t.field (plstat l) 16 12 = bitsOf f.op1 8 12))
      ∧ (s.linkUp l = true → ∃ t, exec (.linkFail l) s = .next t ∧ t.linkState l = 3
          ∧ t.fabric.waits = s.fabric.waits.filter (fun x => x.link != l) ∧ t.mem = s.mem)
      ∧ (s.powered = true → s.linkUp l = true → s.flitBad l f = true → s.viral = false →
          ∃ t g, exec (.flitCheckFailure l f) s = .next t ∧ t.link l = { e with out := e.out ++ [g] } ∧ g.typ = 0x71
            ∧ g.op1 = e.recvSeq.setWidth 128 ∧ t.mem = s.mem ∧ t.wefts = s.wefts)
      ∧ (good → (knownType f.typ.toNat = false ∨ f.zerosOk = false) → s.viral = false →
          ∃ t gs, exec (.unknownFlitType l f) s = .next t ∧ (t.link l).out = e.out ++ gs ∧ (t.link l).recvSeq = (if f.numbered then e.recvSeq + 1 else e.recvSeq)
            ∧ t.mem = s.mem ∧ t.wefts = s.wefts
            ∧ (1 ≤ f.typ.toNat ∧ f.typ.toNat ≤ 0x3F → ∃ g, gs = [g] ∧ g.typ = 0x43 ∧ g.op1 = 1) ∧ (¬ (1 ≤ f.typ.toNat ∧ f.typ.toNat ≤ 0x3F) → gs = [])))

/-- The next message for its receiver on its unit is delivered, and no delivery changes a weft or a team. At a cluster, with no request waiting and no error pending:
an Inv drops the copies and what was translated through the unit, and answers with a dirty copy's data; a forward hands on the data and answers
with the state that it leaves, or NoData; a grant fills the line that the cluster asked for, or one of its first core; Ack(M) makes the one copy
owned; WbAck frees the buffer (04_dram_l2 R89 to R92, 05_translation R113). -/
def Obligations.MessagesDelivered : Prop :=
  ∀ (u : Nat) (m : Msg) (s : State),
    let next := fun (mine : Msg → Bool) => s.nextMsg (fun y => y.kind == m.kind && mine y) u = some m
    let rest := s.coh.msgs.erase m
    let mk := fun (kind : MsgKind) (dst : Nat) (data : List Byte) (other : Nat) =>
      ({ kind := kind, src := m.dst, dst := dst, unit := m.unit, gr := m.gr, data := data, other := other } : Msg)
    let ls := s.linesIn m.dst m.unit
    let dirty := ls.find? fun l => l.st.dirty
    let others := s.coh.l1.filter fun l => !(l.cluster == m.dst && l.base == m.unit)
    let step := fun (x : Instr) => exec x s = .next (applyOrs (deliver s m)) ∧ (applyOrs (deliver s m)).wefts = s.wefts
      ∧ (applyOrs (deliver s m)).teams = s.teams
    let to_ := fun (kind : MsgKind) (x : Instr) => m.kind = kind → next (fun y => y.dst == m.dst) → step x
    let from_ := fun (kind : MsgKind) (x : Instr) => m.kind = kind → next (fun y => y.src == m.src) → step x
    let near := fun (kind : MsgKind) => m.kind = kind ∧ m.dst < 128 ∧ s.coh.waiting = [] ∧ s.upsets = []
    let unread := m.mark = true ∨ (∀ e ∈ (s.cluster m.dst).tlb, e.walkedIn m.unit m.gr = false)
      ∧ ∀ l ∈ (s.cluster m.dst).icache, m.unit + m.gr ≤ l.pa ∨ l.pa + 128 ≤ m.unit
    let t := deliver s m
    let mine := fun (a : Ask) => a.cluster == m.dst && decide (m.unit ≤ a.pa) && decide (a.pa < m.unit + m.gr)
    let filled := fun (st : CohState) => match s.coh.asks.find? mine with
      | some a => ({ core := a.core, base := m.unit, gr := m.gr, st := st, data := m.data, ctx := a.ctx, w := a.w, used := s.coh.clock
                     va := a.va - BitVec.ofNat 64 (a.pa - m.unit) } : L1Line)
      | none => { core := 8 * m.dst, base := m.unit, gr := m.gr, st := st, data := m.data, va := BitVec.ofNat 64 m.unit }
    (to_ .fwdS (.fwds m.dst u) ∧ to_ .fwdX (.fwdx m.dst u) ∧ to_ .inv (.inv m.dst u) ∧ to_ .dataS (.dataS m.dst u) ∧ to_ .dataE (.dataE m.dst u)
      ∧ to_ .dataM (.dataM m.dst u) ∧ to_ .ackM (.ackM m.dst u) ∧ to_ .wbAck (.wback m.dst u)
      ∧ from_ .fwdAck (.fwdack m.src u) ∧ from_ .noData (.nodata m.src u) ∧ from_ .invAck (.invack m.src u)
      ∧ from_ .rdS (.rds m.src u) ∧ from_ .rdX (.rdx m.src u) ∧ from_ .upg (.upg m.src u) ∧ from_ .wbD (.wbd m.src u))
    ∧ (near .inv → unread → t.coh.l1 = others ∧ t.coh.msgs = rest ++ [mk .invAck m.src ((dirty.map fun l => l.data).getD []) 0])
    ∧ (near .inv ∨ near .fwdX → m.mark = false → ∀ e ∈ (t.cluster m.dst).tlb, e.walkedIn m.unit m.gr = false)
    ∧ (near .fwdX → unread → ∀ l, (dirty.orElse fun _ => ls.head?) = some l →
        t.coh.l1 = others ∧ t.coh.msgs = rest ++ [mk .dataM m.other l.data 0, mk .fwdAck m.src [] 0])
    ∧ (near .fwdS → ∀ l, (dirty.orElse fun _ => ls.head?) = some l →
        t.coh.msgs = rest ++ [mk .dataS m.other l.data 0, mk .fwdAck m.src [] (if l.st.dirty then 4 else 1)]
          ∧ ∀ l' ∈ t.linesIn m.dst m.unit, l'.st ≠ .M ∧ l'.st ≠ .E)
    ∧ (near .fwdS ∨ near .fwdX ∧ unread → ls = [] → s.buffered m.dst m.unit = none →
        t.coh.msgs = rest ++ [mk .noData m.src [] 0] ∧ t.coh.l1 = s.coh.l1)
    ∧ (near .dataS → t.coh.l1 = filled .S :: s.coh.l1)
    ∧ (near .dataE → t.coh.l1 = filled .E :: others)
    ∧ (near .dataM → t.coh.l1 = filled .M :: others)
    ∧ (near .ackM → ∀ l, ls.head? = some l → t.linesIn m.dst m.unit = [{ l with st := .M }])
    ∧ (near .wbAck → t.coh.wbuf = s.coh.wbuf.filter fun b => !(b.src == m.dst && b.unit == m.unit))

/-- Requests that a cluster of the home's die makes of an idle unit, with no other request waiting and no error pending: RdS of a unit in I
is granted in E with the bytes of home memory, RdX in M; Upg by the only sharer answers Ack(M); a write-back of the owner reaches memory. A
request served by its owner, one whose forward found nothing, and one whose last InvAck has come end with the requester as the owner (04_dram_l2
R85 to R92). The frame's bits follow (05_translation R121). -/
def Obligations.RequestsGranted : Prop :=
  (∀ (c u : Nat) (s : State),
    let gr := s.askGrain c u
    let q := c % 32
    let idle := fun (kind : MsgKind) => (∀ x ∈ s.coh.msgs, x.unit ≠ u) ∧ c < 128 ∧ c / 32 = s.homeDie u ∧ u % gr = 0 ∧ s.running = true ∧ s.exists u gr = true
      ∧ s.outstanding c u = false ∧ s.mayAsk kind c u = true ∧ s.nodeBusy 4 u = false ∧ s.coh.waiting = [] ∧ s.upsets = []
    let room := (s.dirFind 4 (u / 512)).isSome = true ∨ s.setFull 4 (u / 512) = false
    let sole := fun (st : CohState) => ({ state := st, owner := some q, presence := bitAt q } : UnitDir)
    let grant := fun (x : Instr) (kind : MsgKind) (data : List Byte) (st : CohState) (own : Bool) =>
      ∃ t : State, exec x s = .next (applyOrs (t.frameTouch u own)) ∧ t.unitDir 4 u = sole st ∧ t.mem = s.mem ∧ t.wefts = s.wefts
        ∧ t.coh.msgs = s.coh.msgs ++ [{ kind := kind, src := homeAgent, dst := c, unit := u, gr := gr, data := data }]
    (idle .rdS → room → s.unitDir 4 u = {} → grant (.rds c u) .dataE (s.readMem u gr) .E false)
      ∧ (idle .rdX → room → s.unitDir 4 u = {} → grant (.rdx c u) .dataM (s.readMem u gr) .M true)
      ∧ (idle .upg → s.unitDir 4 u = { state := .S, presence := bitAt q } → grant (.upg c u) .ackM [] .M true)
      ∧ (idle .wbD → s.unitDir 4 u = sole .M → ∀ l, ((s.linesIn c u).find? fun l => l.st.dirty) = some l →
          ∃ t, exec (.wbd c u) s = .next (applyOrs t) ∧ t.unitDir 4 u = {} ∧ t.linesIn c u = [] ∧ t.mem = (s.writeMem u l.data).mem ∧ t.wefts = s.wefts
            ∧ t.coh.msgs = s.coh.msgs ++ [{ kind := .wbAck, src := homeAgent, dst := c, unit := u, gr := l.gr }]))
  ∧ ∀ (m : Msg) (t : Txn) (s : State),
    let h := s.homeDie m.unit
    let q := numberAt 4 h t.from_
    let won := fun (x : Instr) (msgs : List Msg) => ∃ s' : State, exec x s = .next (applyOrs (s'.frameTouch m.unit true)) ∧ s'.coh.msgs = s.coh.msgs.erase m ++ msgs
      ∧ s'.unitDir 4 m.unit = { state := .M, owner := some q, presence := bitAt q } ∧ s'.mem = s.mem ∧ s'.wefts = s.wefts
    let next := s.nextMsg (fun y => y.kind == m.kind && y.src == m.src) m.unit = some m ∧ m.dst = homeAgent ∧ s.coh.waiting = [] ∧ s.upsets = []
    let data := [({ kind := .dataM, src := homeAgent, dst := t.from_, unit := m.unit, gr := t.gr, data := s.readMem m.unit t.gr } : Msg)]
    t.req = .rdX →
    (m.kind = .fwdAck → next → (s.findTxn fun t => t.node == 4 && t.unit == m.unit && t.fwd && t.fwdTo == some m.src) = some t →
        won (.fwdack m.src m.unit) [])
      ∧ (m.kind = .noData → next → (s.findTxn fun t => t.node == 4 && t.unit == m.unit && t.fwd && t.fwdTo == some m.src) = some t →
          won (.nodata m.src m.unit) data)
      ∧ (m.kind = .invAck → next → (s.findTxn fun t => t.node == 4 && t.unit == m.unit && t.acks.contains m.src) = some t →
          t.acks = [m.src] → t.fwdTo = none → won (.invack m.src m.unit) data)

/-! ## Upkeep and scheduling -/

/-- A page of a resident team is filled, RES is set, the frame keeps the page's BACK, and its core takes a swap opportunity; a reservation obtains
all its frames at once; a frame that is not held leaves, and the entry keeps V, BACK and ZF alone. The fill of a register line changes nothing
where its slice holds it, and gives a swap opportunity where not; that of a line of code counts one slip (06_core_memory R134 to R141,
09_registers_history R200, 16_scheduling R375, 02_threads R41). A write of CBROLE is refused with CBERR or begins a drain; when what leaves the pool
has left, the new roles are in force, banks that keep the operand role keep their slots, and the drain is over. The clock sweeper examines RATE
frames while SWEEP is set: of a frame that is not busy it clears A, or reports the frame as cold. The patrol scrubber reads one codeword and goes
on; a write of MPCSTAT clears what its ones name (06_core_memory R126, 05_translation R121, R122, 04_dram_l2 R78, R83). -/
def Obligations.FillsAndUpkeep : Prop :=
  (∀ (T page : Nat) (s s1 : State),
      let x := s.team T
      let may := fun (P : Nat) => P < x.size / 2048 ∧ speOk (x.spte P) = true
      (x.status = .resident → may page → s.findFrame T page = none → (s.core x.core).reserve = [] → s.bringPage T x.core page = .ok s1 → s.clear s1 →
          Takes (exec (.spadPageFill T page) s) s (s1.swapOpportunity x.core) ∧ speRes ((s1.team T).spte page) = true
            ∧ ∃ c i f, (s1.core c).frame i = some f ∧ f.team = T ∧ f.page = page ∧ f.dirty = false ∧ speBack f.back = speBack (x.spte page))
      ∧ (∀ (pages : List Nat),
          let Ps := pages.dedup
          let s0 := s.modCore x.core fun c => { c with reserve := [(T, Ps)] }
          x.status = .resident → Ps ≠ [] → Ps.length ≤ 16 → (∀ P ∈ Ps, may P) → (∀ c ∈ x.ownCores, (s.core c).reserve = []) →
          s0.bringPages T x.core Ps = .ok s1 → s.clear s1 →
          Takes (exec (.frameReservation T pages) s) s (s1.modCore x.core fun c => { c with reserve := [] }))
      ∧ (∀ core i f, s.findFrame T page = some (core, i, f) → s.heldPage T page = false → s.pageUpset T page = none → s.evict core i = .ok s1 →
          s.clear s1 → Takes (exec (.spadEviction T page) s) s s1 ∧ (s1.core core).frame i = none
            ∧ ∀ g, (s.core core).frame i = some g → (s1.team g.team).spte g.page = speBare g.back)
      ∧ (∀ k line, (s.weft k).status = .live → (s.teamOfWeft k).status = .resident → 128 * line < regionBytes (s.weft k) → s.lineUpset k line = none →
          let pa := (s.imageMap (teamOf k)).regs.getD (indexOf k) 0 + 128 * line
          ((s.exists pa 128 && s.l2Misses pa 128) = false → exec (.registerLineFill k line) s = .next s)
            ∧ ((s.exists pa 128 && s.l2Misses pa 128) = true → s.clear (s.homeRead pa 128).2 →
                Takes (exec (.registerLineFill k line) s) s ((s.homeRead pa 128).2.swapOpportunity (s.coreOf k))))
      ∧ ∀ core ctx line, (∀ l ∈ (s.cluster (clusterOf core)).icache, ¬ (l.ctx = ctx ∧ l.va = BitVec.ofNat 64 (128 * line))) →
          s.missing core ctx line = true → s.fillCode core ctx (BitVec.ofNat 64 (128 * line)) = .ok s1 → s.clear s1 →
          ∃ t, Takes (exec (.icacheMissFill core ctx line) s) s t ∧ t.field (cslip core) 0 32 = (s1.field (cslip core) 0 32 + 1) % 2 ^ 32
            ∧ t.clusters = s1.clusters ∧ t.mem = s1.mem)
  ∧ ((∀ (core : Nat) (v : Dword) (s : State), core < 1024 →
        (s.badRoles core v = true → ∃ t, exec (.cbroleWrite core v) s = .next t ∧ t = { s with mgmt := t.mgmt }
          ∧ (t.reg (cbstat core)).getLsbD 1 = true ∧ t.roles core = s.roles core)
        ∧ (s.badRoles core v = false → ∃ t, exec (.cbroleWrite core v) s = .next t ∧ t = { s with mgmt := t.mgmt, cores := t.cores }
          ∧ (t.reg (cbstat core)).getLsbD 0 = true ∧ (t.core core).roles = some v ∧ t.roles core = s.roles core))
    ∧ (∀ (core : Nat) (v : Dword) (s s1 : State),
        let frames := ((banksOf (s.roles core) 1).filter fun b => roleIn v b != 1).flatMap fun b => (List.range 8).map fun k => 8 * b + k
        let shed := if ((banksOf (s.roles core) 0).filter fun b => roleIn v b != 0).isEmpty then s1 else dropL1 s1 core
        core < 1024 → (s.core core).roles = some v → drainFrames core frames s = .ok s1 → (∀ i ∈ frames, (s1.core core).frame i = none) →
        s.clear shed → ∃ u, Takes (exec (.bankDrainDone core) s) s u ∧ u.roles core = v ∧ (u.core core).roles = none
          ∧ (u.reg (cbstat core)).getLsbD 0 = false ∧ u.wefts = s1.wefts
          ∧ ∀ n m, n < (banksOf v 2).length → (banksOf (s.roles core) 2)[m]? = (banksOf v 2)[n]? → (u.core core).slot n = (s1.core core).slot m)
    ∧ (∀ (s s1 : State),
        let s0 := if s.coldValid = false ∨ 2 ^ s.field 0x2020 0 5 < s.field 0x2018 8 24 then s.setBit xstat 1 else s
        (s.reg 0x2018).getLsbD 0 = true →
        (s.cap = 0 → exec .sweeperTick s = .next s0)
          ∧ (s.cap ≠ 0 → sweepFrames (max 1 (s.field 0x2018 32 8)) s0 = .ok s1 → s.clear s1 → Takes (exec .sweeperTick s) s s1))
    ∧ (∀ (f : Nat) (s : State),
        let at_ := s.field 0x2010 14 38 * 16384 + 8 * f
        let e := s.cohDword at_
        s.exists at_ 8 = true →
        (e.getLsbD 2 = true ∨ bitsOf e 4 4 ≠ 0 → examine f s = .ok s)
          ∧ (e.getLsbD 2 = false → bitsOf e 4 4 = 0 → e.getLsbD 0 = true → examine f s = .ok (s.homeWrite at_ [s.cohByte at_ &&& 0xFE]))
          ∧ (e.getLsbD 2 = false → bitsOf e 4 4 = 0 → e.getLsbD 0 = false → e.getLsbD 3 = true → examine f s = .ok s))
    ∧ (∀ (s : State),
        let c := s.scrubNext % (s.cap / 64)
        s.field 0x0018 0 8 ≠ 0 → s.cap ≠ 0 → ∃ t, exec .patrolScrub s = .next t ∧ t.mem = s.mem ∧ t.wefts = s.wefts ∧ t.teams = s.teams
          ∧ t.scrubNext = (c + 1) % (s.cap / 64)
          ∧ t.field 0x0018 32 32 = if c + 1 = s.cap / 64 then (s.field 0x0018 32 32 + 1) % 2 ^ 32 else s.field 0x0018 32 32)
    ∧ ∀ (n : Nat) (v : Dword) (s : State), n < 1024 → ∃ t, exec (.mpcstatClr n v) s = .next t ∧ t = { s with mgmt := t.mgmt }
        ∧ t.field (mpcstat n) 24 8 = bitsOf v 24 8
        ∧ (t.reg (mpcstat n)).getLsbD 17 = ((s.reg (mpcstat n)).getLsbD 17 && !v.getLsbD 17)
        ∧ t.dead n = s.dead n
        ∧ (t.field (mpcstat n) 0 16 = if v.getLsbD 18 = true ∧ s.dead n = false then 0 else s.field (mpcstat n) 0 16)
        ∧ ∀ off, off ≠ mpcstat n → t.reg off = s.reg off)

/-- The firmware asks for a repair with MREPAIR.PEND and a module event; the host's grant is refused for a dead channel, or when 768 are live, and
otherwise sets BUSY and pre-empts every resident team; when every context stands in its images the channel is out of service, CAP is lower, what
lay above it is gone, and DONE and the events are set (04_dram_l2 R79 to R83). -/
def Obligations.RepairsRun : Prop :=
  ∀ (s : State), let event := fun (t : State) (b : Nat) => (t.reg mevt).getLsbD b = true
    (∀ pcn, pcn < 1024 → s.repairing = false → ∃ t, exec (.mrepairPend pcn) s = .next t ∧ t.field mrepair 0 10 = pcn
        ∧ (t.reg mrepair).getLsbD 17 = true ∧ event t evRepPend ∧ t.mem = s.mem ∧ t.wefts = s.wefts ∧ t.teams = s.teams)
    ∧ (∀ v : Dword, s.repairing = false →
        let n := bitsOf v 0 10
        let refused := fun (code : Nat) => ∃ t, exec (.mrepairGrant v) s = .next t ∧ t.field mrepair 21 3 = code ∧ (t.reg mrepair).getLsbD 20 = true
          ∧ (t.reg mrepair).getLsbD 16 = false ∧ (t.reg mrepair).getLsbD 17 = false ∧ event t evRepFail ∧ t.mem = s.mem ∧ t.teams = s.teams
        (v.getLsbD 16 = false → ∃ t, exec (.mrepairGrant v) s = .next t ∧ t = { s with mgmt := t.mgmt } ∧ t.field mrepair 0 10 = n)
          ∧ (v.getLsbD 16 = true → s.dead n = true → refused 1)
          ∧ (v.getLsbD 16 = true → s.dead n = false → s.field 0 0 11 ≤ 768 → refused 2)
          ∧ (v.getLsbD 16 = true → s.dead n = false → 768 < s.field 0 0 11 → ∃ t, exec (.mrepairGrant v) s = .next t ∧ t.repairing = true
              ∧ (∀ T, (s.team T).status = .resident → (t.team T).status = .saving 4) ∧ t.wefts = s.wefts))
    ∧ (s.repairing = true → s.quiet = true → s.held = [] → s.upsets = [] → 0 < s.field 0 0 11 → s.clear (emptyCaches s) →
        let n := s.field mrepair 0 10
        ∃ t, Takes (exec .repairCopyDone s) s t ∧ t.field 0 0 11 = s.field 0 0 11 - 1 ∧ t.cap = s.cap - channelBytes ∧ t.dead n = true
          ∧ t.repair.done = s.repair.done ++ [(n, s.field 0 0 11)] ∧ t.repairing = false ∧ (t.reg mrepair).getLsbD 19 = true
          ∧ event t evCapChg ∧ event t evRepDone ∧ t.coh.dir = [] ∧ (∀ a, t.cap ≤ a → t.byte a = 0) ∧ t.wefts = s.wefts ∧ t.teams = s.teams)

/-- A repair is refused when LIVE would fall below 768, or when PCN names a pseudo-channel that is already dead: FAIL is set with the code of R83
(1 dead, 2 LIVE), nothing is pre-empted, and the capacity is unchanged (04_dram_l2 R82). -/
def Obligations.RepairRefused : Prop :=
  ∀ (v : Dword) (s : State), s.repairing = false → v.getLsbD 16 = true →
    s.dead (bitsOf v 0 10) = true ∨ s.field 0 0 11 - 1 < 768 →
    ∃ t, exec (.mrepairGrant v) s = .next t ∧ (t.reg mrepair).getLsbD 20 = true
      ∧ t.field mrepair 21 3 = (if s.dead (bitsOf v 0 10) then 1 else 2) ∧ t.repairing = false ∧ t.teams = s.teams ∧ t.wefts = s.wefts
      ∧ t.cores = s.cores ∧ t.mem = s.mem ∧ t.cap = s.cap ∧ t.field 0 0 11 = s.field 0 0 11

/-- The command processors' and the cores' own steps: a record is taken, checked and refused or made ready, a launch expands into its next task, a
task is dealt, stolen, started with its registers zero, ended and removed, and a join's record is appended or refused (16_scheduling R359 to R373,
02_threads R35, 09_registers_history R199). -/
def Obligations.TasksScheduled : Prop :=
  (∀ (cp q : Nat) (bs : List Byte) (at_ : Nat) (s s1 : State),
      let r := { TaskRec.ofBytes bs with origin := BitVec.ofNat 16 q }
      let s2 := { s1 with lastServed := SMap.set zeroNat s1.lastServed cp (q + 1) }
      s.nextQueue cp = some q → s.qTake q = .ok (bs, at_, s1) →
      (∀ code s3, s2.checkRec (s2.qCtx q) (some q) r = .error (code, s3) → s.clear s3 → ∃ t x, Takes (exec (.cpTakeRecord cp) s) s t
          ∧ t.reports.getLast? = some x ∧ x.kind = 3 ∧ x.code = code ∧ x.launch = r.launch ∧ x.ctx = s2.qCtx q ∧ t.deals = s3.deals)
        ∧ ∀ l s3, s2.checkRec (s2.qCtx q) (some q) r = .ok (l, s3) → s.clear s3 →
          (r.isLaunch = false → Takes (exec (.cpTakeRecord cp) s) s { s3 with deals := s3.deals ++
              [{ rec_ := { task := r, ctx := s2.qCtx q, prio := r.prio, taskp := BitVec.ofNat 64 at_, launch := l }, queue := q }] })
          ∧ (r.isLaunch = true → l.det = false → Takes (exec (.cpTakeRecord cp) s) s { s3 with nextId := s3.nextId + 1, launches := s3.launches ++
              [{ id := s3.nextId, task := r, blk := l, ctx := s3.qCtx q, queue := q, next := 0, ended := 0 }] }))
  ∧ (∀ (j : Nat) (l : LaunchRun) (s : State), s.launches[j]? = some l → l.held = 0 → l.next < l.blk.teams → s.placing l.ctx = true →
      ∃ t x, exec (.launchExpand j) s = .next t ∧ t = { s with launches := s.launches.set j { l with next := l.next + 1 }, deals := s.deals ++ [x] }
        ∧ x.queue = l.queue ∧ x.rec_.ctx = l.ctx ∧ x.rec_.launchId = l.id ∧ x.rec_.domain = l.domain ∧ x.rec_.task.entry = l.blk.entry
        ∧ x.rec_.task.arg = l.blk.arg ∧ x.rec_.task.launch = l.task.launch ∧ x.rec_.task.origin = BitVec.ofNat 16 l.queue)
  ∧ (∀ (j c : Nat) (x : DealRec) (s : State), s.deals[j]? = some x → s.placing x.rec_.ctx = true →
      (∀ y ∈ s.deals.take j, y.queue / 1024 ≠ x.queue / 1024) → s.dealCore x = some c →
      ∃ t, exec (.taskDeal j) s = .next t ∧ t = { s with deals := s.deals.eraseIdx j, dealFrom := (c + 1) % 1024, cores := t.cores }
        ∧ t.core c = { s.core c with queue := (s.core c).queue ++ [x.rec_] } ∧ ∀ d, d ≠ c → t.core d = s.core d)
  ∧ (∀ (core v j : Nat) (r : LocalRec) (s : State), core < 1024 → (s.core core).queue = [] → s.victim core = some v → v ≠ core →
      s.stealFrom core v = some j → (s.core v).queue[j]? = some r →
      ∃ t, exec (.coreSteal core) s = .next t ∧ (t.core core).queue = [r] ∧ (t.core v).queue = (s.core v).queue.eraseIdx j
        ∧ t.field (cslip core) 32 32 = (s.field (cslip core) 32 32 + 1) % 2 ^ 32 ∧ t.wefts = s.wefts ∧ t.teams = s.teams)
  ∧ (∀ (core j : Nat) (r : LocalRec) (s s1 : State),
      let T := s.freeTeam 0
      bestRecord (s.admits core) (s.core core).queue = some j → (s.core core).queue[j]? = some r → s.needsDomain r = false →
      startTask s core r = .ok (some s1) → s.clear s1 →
      ∃ t, Takes (exec (.taskStart core) s) s t ∧ (t.core core).queue = (s.core core).queue.eraseIdx j ∧ t.wefts = s1.wefts ∧ t.teams = s1.teams
        ∧ (r.task.red = false → (t.team T).status = .resident ∧ (t.team T).core = core ∧ (t.team T).task = r.task ∧ (t.team T).nwefts = r.count
          ∧ ∀ i < r.count, (t.weft (16 * T + i)).status = .live ∧ (t.weft (16 * T + i)).flow.pc = r.task.entry
              ∧ (t.weft (16 * T + i)).flow.active = fullMask r.launch.width ∧ (t.weft (16 * T + i)).flow.ic = 0
              ∧ (t.weft (16 * T + i)).regs.s = [] ∧ (t.weft (16 * T + i)).regs.v = []))
  ∧ (∀ (T : Nat) (s s1 : State),
      let ts := s.withPartner T
      let gone := fun (s : State) => ts.foldl removeTeam s
      (∀ u ∈ ts, s.teamDone u = true) →
      ((s.launches.find? fun l => l.id == (s.team T).launchId) = none →
          (gone (endDomain s (s.team T).domain)).joinEnd (s.team T).ctx (s.team T).task.join (s.team T).task = .ok s1 → s.clear s1 →
          Takes (exec (.taskEnd T) s) s s1 ∧ ∀ u ∈ ts, s1.team u = {})
        ∧ ∀ l, (s.launches.find? fun l => l.id == (s.team T).launchId) = some l → l.ended + 1 < l.blk.teams → s.calm →
          ∃ t, exec (.taskEnd T) s = .next t ∧ (∀ u ∈ ts, t.team u = {}) ∧ t.mem = s.mem
            ∧ t.launches = s.launches.map fun x => if x.id = l.id then { x with ended := x.ended + 1 } else x)
  ∧ ∀ (j : Nat) (x : JoinAppend) (s s1 : State), s.joins[j]? = some x →
      let rest := { s with joins := s.joins.eraseIdx j }
      ((∀ y ∈ s.joins.take j, y.queue ≠ x.queue) → s.qUsable x.queue x.ctx = true → s.qFull x.queue = false →
          rest.qAppend x.queue x.task.toBytes = .ok s1 → s.clear s1 → Takes (exec (.joinAppend j) s) s s1 ∧ s1.joins = s.joins.eraseIdx j)
        ∧ (s.qFull x.queue = true → ∃ t y, exec (.joinAppendTimeout j) s = .next t ∧ t.joins = s.joins.eraseIdx j ∧ t.mem = s.mem
            ∧ t.reports.getLast? = some y ∧ y.kind = 3 ∧ y.code = 11 ∧ y.record = x.report.record ∧ y.ctx = x.ctx)

/-- A resident team, and its partner, is pre-empted to be saved without an entry; a copy that outlasts its time stops at its lowest unlanded
element; a save whose work is done parks the team, or queues it, where no entry is to be written or CTXGO has ended the stop, with its images
written; a queued team is restored to a core that may take it (18_traps R422, R426 to R428, 19_reliability R430). -/
def Obligations.TeamsSavedAndRestored : Prop :=
  (∀ (T : Nat) (s : State), (s.team T).status = .resident →
      ∃ t, exec (.preempt T) s = .next t ∧ t = { s with teams := t.teams } ∧ t.team T = { s.team T with status := .saving 4 }
        ∧ ((s.team T).member ≠ 0 → (s.team (s.team T).partner).status = .resident → (t.team (s.team T).partner).status = .saving 4)
        ∧ ∀ u, u ≠ T → ((s.team T).member ≠ 0 → u ≠ (s.team T).partner) → t.team u = s.team u)
  ∧ (∀ (core j n : Nat) (y : Copy) (s : State), (s.core core).copies[j]? = some y → (s.team (teamOf y.k)).status = .saving n → y.accepted = true →
      ∃ t, exec (.copyStopTimeout core j) s = .next t ∧ (t.core core).copies = (s.core core).copies.set j { y with stopped := true })
  ∧ (∀ (T kind : Nat) (s s1 : State), (s.team T).status = .saving kind → (s.team T).release = none → s.enginesDone T = true →
      (∀ k ∈ s.weftsOf T, (s.weft k).saveable = true) → saveTeam s T kind = .ok s1 → s.clear s1 →
      Takes (exec (.saveComplete T) s) s s1 ∧ (s1.team T).status = (if kind = 4 ∨ kind = 2 ∧ (s.team T).ctx ∉ s.stopped then .queued else .parked kind)
        ∧ (s1.team T).lastCore = (s.team T).core ∧ (kind ≠ 4 → s1.reports.getLast? = some (s.team T).report))
  ∧ ∀ (T core : Nat) (s : State),
      let x := s.team T
      x.status = .queued → s.placing x.ctx = true → s.eligible x.task.origin.toNat core = true → s.canAdmit core x.nwefts x.pair = true →
      (s.imageMap T).stop ≤ s.cap →
      (x.member = 0 → s.clear (restoreTeam s T core) → Takes (exec (.teamRestore T core) s) s (restoreTeam s T core))
        ∧ (∀ c, x.member ≠ 0 → s.otherCluster x.task.origin.toNat core x.nwefts x.pair = some c → (s.team x.partner).status = .queued →
            s.clear (restoreTeam (restoreTeam s T core) x.partner c) →
            Takes (exec (.teamRestore T core) s) s (restoreTeam (restoreTeam s T core) x.partner c))

/-- Matching segments of a redundant pair are released: the leading member's writes enter its store queue, and both go on; a mismatch walks
both back to the segment's start where they can, and a first mismatch counts as a retry. A cluster that must rebuild counts it and has its teams
saved, and is viral on a second illegal state; the watchdogs act a level higher each time, and a weft that hangs parks its team (19_reliability
R432, R433, R437, R438, R441). -/
def Obligations.PairsAndWatchdogs : Prop :=
  (∀ (k : Nat) (a b : ClosedSeg) (as bs : List ClosedSeg) (s : State),
      let lead := (s.pairOf k).1
      let trail := (s.pairOf k).2
      s.member k ≠ 0 → lead ≠ trail → (s.teamOfWeft lead).status = .resident → (s.teamOfWeft trail).status = .resident →
      (s.weft lead).seg.closed = a :: as → (s.weft trail).seg.closed = b :: bs →
      (a.shape = b.shape → ∃ t, exec (.segmentCompare k) s = .next t ∧ (t.weft lead).seg.closed = as ∧ (t.weft trail).seg.closed = bs
          ∧ (t.weft lead).stores = (s.weft lead).stores ++ releasedStores ((inOrder a.writes).filter fun x => x.datom.isNone)
          ∧ (t.weft lead).seg.retries = 0 ∧ (t.weft trail).seg.retries = 0 ∧ t.mem = s.mem ∧ ∀ j, j ≠ lead → j ≠ trail → t.weft j = s.weft j)
        ∧ (a.shape ≠ b.shape → s.noWay lead a.start = none → s.noWay trail a.start = none → a.start ≠ (s.weft lead).flow.ic →
            a.start ≠ (s.weft trail).flow.ic → ∃ t, exec (.segmentCompare k) s = .next t
              ∧ t.field 0xA018 16 16 = (if (s.weft lead).seg.retries = 0 then min 0xFFFF (s.field 0xA018 16 16 + 1) else s.field 0xA018 16 16)
              ∧ t.mem = s.mem
              ∧ ∀ j, j = lead ∨ j = trail → (t.weft j).flow.dir = true ∧ (t.weft j).flow.revT = a.start
                  ∧ (t.weft j).seg.retries = (s.weft j).seg.retries + 1))
  ∧ (∀ (cl : Nat) (s : State), cl < 128 →
      ((s.cluster cl).rebuilding = false → ∃ t, exec (.clusterRebuild cl) s = .next t ∧ (t.cluster cl).rebuilding = true
          ∧ t.field 0xA018 0 16 = min 0xFFFF (s.field 0xA018 0 16 + 1) ∧ t.wefts = s.wefts ∧ t.mem = s.mem
          ∧ ∀ T, (s.team T).status = .resident → clusterOf (s.team T).core = cl → (t.team T).status = .saving 4)
        ∧ ((s.cluster cl).rebuilding = true → s.viral = false → ∃ t, exec (.clusterRebuild cl) s = .next t ∧ t = { s with mgmt := t.mgmt }
            ∧ t.viral = true ∧ t.field vstat 4 8 = 6)
        ∧ ((s.cluster cl).rebuilding = true → s.clusterTeams cl = [] → ∃ t, exec (.rebuildComplete cl) s = .next t
            ∧ t = { s with clusters := t.clusters } ∧ t.cluster cl = { s.cluster cl with rebuilding := false })
        ∧ ((s.cluster cl).rebuilding = false → exec (.watchdogCluster cl) s = exec (.clusterRebuild cl) s ∧ Goes (exec (.watchdogCluster cl) s))
        ∧ ((s.cluster cl).rebuilding = true → exec (.watchdogCluster cl) s = exec (.watchdogCmdp (cl / 32 * 4 + cl % 4)) s
            ∧ Goes (exec (.watchdogCluster cl) s)))
  ∧ (∀ (k : Nat) (s : State), s.readyWeft k = true → (s.weft k).sched.inActive = true →
      exec (.watchdogWeft k) s = exec (.clusterRebuild (clusterOf (s.coreOf k))) s ∧ Goes (exec (.watchdogWeft k) s))
  ∧ (∀ (cp : Nat) (s : State), cp < 16 →
      (cp ∉ s.cmdpFailed → ∃ t, exec (.watchdogCmdp cp) s = .next t ∧ t = { s with cmdpFailed := s.cmdpFailed ++ [cp], lastServed := t.lastServed })
        ∧ (cp ∈ s.cmdpFailed → s.viral = false → ∃ t, exec (.watchdogCmdp cp) s = .next t ∧ t = { s with mgmt := t.mgmt } ∧ t.viral = true
            ∧ t.field vstat 4 8 = 7))
  ∧ ∀ (k : Nat) (s : State), s.field 0xA000 24 8 ≠ 0 → (s.weft k).status = .live → (s.teamOfWeft k).status = .resident →
      ∃ t, exec (.watchdogHang k) s = .next t ∧ t = { s with teams := t.teams } ∧ (t.team (teamOf k)).status = .saving 1
        ∧ (t.team (teamOf k)).report.cause = Cause.watchdog.code ∧ (t.team (teamOf k)).report.tpc = (s.weft k).flow.pc
        ∧ (t.team (teamOf k)).report.tic = (s.weft k).flow.ic ∧ (t.team (teamOf k)).report.weft = indexOf k

/-! ## The host -/

/-- An entry goes into its context's fault queue when there is room, and waits otherwise; a poll of HEAD lets waiting entries try again, and a
report of no parked team that waited too long is dropped and counted. FQRESUME, FQDISCARD, CTXSTOP and CTXGO act on the teams they name, or set
CMDERR (18_traps R417 to R422). -/
def Obligations.FaultQueueRuns : Prop :=
  (∀ (j n head tail lost : Nat) (r : Report) (fq : Dword) (s s1 s2 s3 : State), s.reports[j]? = some r →
      (r.polled = true → s.fqHeader r.ctx = none → s.calm → ∃ t, exec (.faultEntryWrite j) s = .next t
          ∧ t = { s with reports := s.reports.eraseIdx j, mgmt := t.mgmt } ∧ (t.reg cistat).getLsbD 3 = true)
        ∧ (r.polled = true → s.fqHeader r.ctx = some (fq, n, head, tail, lost, s1) → fqFull n head tail = true → s.clear s1 →
            Takes (exec (.faultEntryWrite j) s) s { s1 with reports := s1.reports.set j { r with polled := false } })
        ∧ (r.polled = true → s.fqHeader r.ctx = some (fq, n, head, tail, lost, s1) → fqFull n head tail = false →
            s1.ctxWrite r.ctx (fq + 64 + BitVec.ofNat 64 (128 * (tail % 2 ^ n))) r.toBytes = some s2 →
            s2.ctxWrite r.ctx (fq + 8) (leBytes 4 (tail + 1)) = some s3 → s.clear s3 →
            ∃ t, Takes (exec (.faultEntryWrite j) s) s t ∧ t.reports = s.reports.eraseIdx j ∧ t.mem = s3.mem ∧ t.wefts = s.wefts)
        ∧ (r.parked = false → s.fqHeader r.ctx = some (fq, n, head, tail, lost, s1) → fqFull n head tail = true →
            s1.ctxWrite r.ctx (fq + 12) (leBytes 4 (lost + 1)) = some s2 → s.clear s2 →
            ∃ t, Takes (exec (.faultReportDrop j) s) s t ∧ t.reports = s.reports.eraseIdx j ∧ t.mem = s2.mem ∧ t.wefts = s.wefts))
  ∧ (∀ (ctx : Nat) (s : State), ∃ t, exec (.fqHeadPoll ctx) s = .next t ∧ t = { s with reports := t.reports }
      ∧ ∀ j : Nat, t.reports[j]? = (s.reports[j]?).map fun r => if r.ctx = ctx then { r with polled := true } else r)
  ∧ (∀ (v : Dword) (s : State),
      let at_ := s.parkedAt (bitsOf v 12 40 * 4096)
      let err := fun (x : Instr) => ∃ t, exec x s = .next t ∧ t = { s with mgmt := t.mgmt } ∧ (t.reg cistat).getLsbD 1 = true
      (at_ = none → err (.fqresume v) ∧ err (.fqdiscard v))
        ∧ ∀ T, at_ = some T →
          ((∃ u ∈ s.withPartner T, (s.team u).noWayBack = true) → err (.fqresume v))
          ∧ ((∀ u ∈ s.withPartner T, (s.team u).noWayBack = false) → ∃ t, exec (.fqresume v) s = .next t ∧ t = { s with teams := t.teams }
              ∧ ∀ u ∈ s.withPartner T, (s.team u).status.isParked = true → t.team u = { s.team u with status := .queued })
          ∧ ∃ t, exec (.fqdiscard v) s = .next t ∧ t.mem = s.mem ∧ ∀ u ∈ s.withPartner T, t.team u = {})
  ∧ ∀ (v : Dword) (s : State),
      let c := bitsOf v 0 12
      (∃ t, exec (.ctxstop v) s = .next t ∧ t = { s with stopped := t.stopped, teams := t.teams } ∧ c ∈ t.stopped
          ∧ (∀ x ∈ s.stopped, x ∈ t.stopped) ∧ ∀ T, (s.team T).ctx = c → s.stoppable T = true → (t.team T).status = .saving 2)
        ∧ ∃ t, exec (.ctxgo v) s = .next t ∧ t = { s with stopped := s.stopped.filter (fun x => x != c), teams := t.teams }
          ∧ ∀ T, (s.team T).ctx = c → (s.team T).status = .parked 2 → (t.team T).status = .queued

/-- Writes of the translation, image-pool and queue registers take effect where they are allowed and set an error bit where they are not; a post
of 64 bytes to an enabled queue with room appends a record, and waits during a repair pause (05_translation R123, 18_traps R420, 16_scheduling R357, R358). -/
def Obligations.ConfigurationWrites : Prop :=
  ∀ (q : Nat) (v : Dword) (rec_ : BitVec 512) (s s1 : State),
    let only := fun (off : Nat) (t : State) => t = { s with mgmt := t.mgmt } ∧ ∀ o, o ≠ off → t.reg o = s.reg o
    let writes := fun (x : Instr) (off lo n : Nat) => ∃ t, exec x s = .next t ∧ only off t ∧ t.field off lo n = bitsOf v lo n
    let refused := fun (x : Instr) (off i : Nat) => ∃ t, exec x s = .next t ∧ only off t ∧ (t.reg off).getLsbD i = true
    (s.anyTask = false → writes (.translationConfigWrite 0x2000 v) 0x2000 12 40 ∧ writes (.translationConfigWrite 0x2008 v) 0x2008 0 13
        ∧ writes (.translationConfigWrite 0x2010 v) 0x2010 14 38)
    ∧ (s.anyTask = true → ∀ off ∈ [0x2000, 0x2008, 0x2010], refused (.translationConfigWrite off v) xstat 0)
    ∧ writes (.translationConfigWrite 0x2018 v) 0x2018 32 8 ∧ writes (.translationConfigWrite 0x2020 v) 0x2020 0 5
    ∧ writes (.translationConfigWrite 0x2028 v) 0x2028 0 32
    ∧ (∃ t, exec (.translationConfigWrite 0x2038 v) s = .next t ∧ only 0x2038 t ∧ t.reg 0x2038 = s.reg 0x2038 &&& ~~~(v &&& 3))
    ∧ (∀ off, off = 0x3000 ∨ off = 0x3008 →
        ((∀ x ∈ s.teams, x.2.status = .absent) → ∃ t, exec (.imagePoolWrite off v) s = .next t ∧ t = { s with mgmt := t.mgmt }
            ∧ t.field off 12 40 = bitsOf v 12 40)
        ∧ ((∃ x ∈ s.teams, x.2.status ≠ .absent) → refused (.imagePoolWrite off v) cistat 0))
    ∧ (q < 16384 →
        (s.qEn q = true → v.getLsbD 0 = true → ∃ t, exec (.qcfgWrite q v) s = .next t ∧ t.reg (qcfg q) = s.reg (qcfg q)
            ∧ (t.reg (qhead q)).getLsbD 32 = true ∧ t.mem = s.mem ∧ t.wefts = s.wefts)
        ∧ (s.qEn q = false ∨ v.getLsbD 0 = false → ∃ t, exec (.qcfgWrite q v) s = .next t ∧ only (qcfg q) t
            ∧ t.field (qcfg q) 1 24 = bitsOf v 1 24 ∧ (t.qEn q = true ↔ v.getLsbD 0 = true ∧ 4 ≤ bitsOf v 1 4 ∧ bitsOf v 8 4 ≠ 0))
        ∧ (s.qEn q = false → writes (.qbaseWrite q v) (qbase q) 12 40)
        ∧ (s.qEn q = true → ∃ t, exec (.qbaseWrite q v) s = .next t ∧ t.reg (qbase q) = s.reg (qbase q) ∧ (t.reg (qhead q)).getLsbD 32 = true
            ∧ t.mem = s.mem ∧ t.wefts = s.wefts)
        ∧ (let s0 : State := { s with held := [.post q rec_] }
          s.qEn q = true → s.qFull q = false → s.held = [] → s.repairing = false → s0.qAppend q (leBytes 64 rec_.toNat) = .ok s1 → s0.clear s1 →
            exec (.qpost q 64 rec_) s = .next { s0.after s1 with held := [] }
              ∧ s1.field (qtail q) 0 32 = (s.field (qtail q) 0 32 + 1) % 2 ^ 32 ∧ s1.wefts = s.wefts)
        ∧ (s.repairing = true → s.viral = false → exec (.qpost q 64 rec_) s = .next { s with held := s.held ++ [.post q rec_] })
        ∧ ∀ bytes, (bytes ≠ 64 ∨ (s.qEn q = false ∨ s.qFull q = true) ∧ s.held = [] ∧ s.repairing = false ∧ s.calm) →
            ∃ t, exec (.qpost q bytes rec_) s = .next t ∧ (t.reg (qhead q)).getLsbD 32 = true ∧ t.mem = s.mem ∧ t.wefts = s.wefts)

/-- The management window: MSEM has one owner, and commands of another port are discarded with CMDERR; MRESET with its key and a module reset
bring the module up with nothing resident; firmware that verifies goes to flash; attestation signs; a debugger's walk is set up or refused;
identity, apertures, MSI-X, ports, power and the loss of the sequencer do what their rules say (20_host_fabric R443 to R446, R452 to R458,
19_reliability R440). -/
def Obligations.ManagementCommands : Prop :=
  ∀ (port : Nat) (v : Dword) (s : State),
    let up := port < 2 ∧ (s.reg portstat).getLsbD port = true
    let mine := up ∧ s.field msem 0 2 = port + 1
    let regs := fun (t : State) => t = { s with mgmt := t.mgmt }
    let fresh := fun (t : State) => t.wefts = [] ∧ t.teams = [] ∧ t.cores = [] ∧ t.clusters = [] ∧ t.mem = [] ∧ t.launches = [] ∧ t.deals = [] ∧ t.joins = []
      ∧ t.reports = [] ∧ t.domains = [] ∧ t.flash = s.flash ∧ t.repair = s.repair ∧ t.powered = true
      ∧ t.field bootstat 0 2 = (if s.flash.verifies then 1 else 2) ∧ (t.reg mevt).getLsbD evBoot = true
      ∧ (s.flash.verifies = true → t.ident.fwver = s.flash.fwver)
    (up → s.field msem 0 2 = 0 → ∃ t, exec (.msemTake port) s = .next t ∧ regs t ∧ t.field msem 0 2 = port + 1)
    ∧ (up → s.field msem 0 2 ≠ 0 → exec (.msemTake port) s = .next s)
    ∧ (mine → ∃ t, exec (.msemGive port) s = .next t ∧ regs t ∧ t.field msem 0 2 = 0)
    ∧ (port < 2 → s.field msem 0 2 ≠ port + 1 → exec (.msemGive port) s = .next s)
    ∧ (port < 2 → ∃ t, exec (.portLinkDown port) s = .next t ∧ regs t ∧ (t.reg portstat).getLsbD port = false
        ∧ t.field msem 0 2 = if s.field msem 0 2 = port + 1 then 0 else s.field msem 0 2)
    ∧ (up → s.field msem 0 2 ≠ port + 1 → s.calm → ∀ x ∈ [.mreset port v, .fwupd port v, .attctlGo port, .dbgrev2 port v],
        ∃ t, exec x s = .next t ∧ regs t ∧ (t.reg portstat).getLsbD 2 = true)
    ∧ (mine → bitsOf v 0 16 = 0x5A3C → ∃ t, exec (.mreset port v) s = .next t ∧ fresh t)
    ∧ (mine → bitsOf v 0 16 ≠ 0x5A3C → exec (.mreset port v) s = .next s)
    ∧ (∃ t, exec .moduleReset s = .next t ∧ fresh t)
    ∧ (let img := readImage s (bitsOf v 12 40 * 4096)
       mine → s.clear img.2 → Takes (exec (.fwupd port v) s) s (match verifyImage img.1 with
        | none => img.2
        | some (z, ver) => { img.2 with flash := { digest := some z, version := some ver } }))
    ∧ (mine → (s.reg attctl).getLsbD 1 = false → ∃ t, exec (.attctlGo port) s = .next t
        ∧ t = { s with mgmt := t.mgmt, ident := { s.ident with digest := attestDigest s } } ∧ (t.reg attctl).getLsbD 1 = true)
    ∧ ((s.reg attctl).getLsbD 1 = true → ∃ t, exec .attestDone s = .next t ∧ (t.reg attctl).getLsbD 1 = false ∧ (t.reg attctl).getLsbD 2 = true
        ∧ t.ident.sig.toNat = ((ecdsaSign Config.identityKey (Config.signNonce s.ident.digest.toNat) s.ident.digest.toNat).1 * 2 ^ 384
            + (ecdsaSign Config.identityKey (Config.signNonce s.ident.digest.toNat) s.ident.digest.toNat).2) % 2 ^ 768)
    ∧ (mine → (s.stoppedAt (s.field 0xB048 12 40 * 4096) = none → s.calm → ∃ t, exec (.dbgrev2 port v) s = .next t ∧ regs t ∧ (t.reg 0xB050).getLsbD 8 = true)
        ∧ ∀ T, s.stoppedAt (s.field 0xB048 12 40 * 4096) = some T →
            let i := s.field 0xB050 0 4
            let w := s.weft (16 * T + i)
            i < (s.team T).nwefts → w.status = .live → v.toNat ≤ w.flow.ic.toNat → (s.walkFloor (16 * T + i)).toNat ≤ v.toNat → v ≠ w.flow.ic →
            let t := debugReverse v s
            s.clear t → Takes (exec (.dbgrev2 port v) s) s t ∧ (t.weft (16 * T + i)).flow.dir = true ∧ (t.weft (16 * T + i)).flow.revT = v)
    ∧ ((∀ l < 16, s.linkUp l = false) → ∃ t, exec (.modidWrite v) s = .next t ∧ regs t ∧ t.modid = bitsOf v 0 12)
    ∧ ((∃ l < 16, s.linkUp l = true) → exec (.modidWrite v) s = .next s)
    ∧ (∀ x ∈ [(0x0018, 0, 8), (0xA000, 0, 32), (0xB010, 0, 16), (0xB018, 0, 20), (0xB048, 12, 40), (0xC000, 4, 4), (0xD008, 14, 50), (0x18000, 0, 16)],
        ∃ t, exec (.registerWrite x.1 v) s = .next t ∧ regs t ∧ t.field x.1 x.2.1 x.2.2 = bitsOf v x.2.1 x.2.2 ∧ ∀ o, o ≠ x.1 → t.reg o = s.reg o)
    ∧ (∃ t, exec (.registerWrite mevt v) s = .next t ∧ regs t ∧ t.reg mevt = s.reg mevt &&& ~~~(v &&& 0x7F))
    ∧ (∀ off bytes, s.powered = true → s.field bootstat 0 2 = 1 → 1 ≤ bytes → bytes ≤ 8 → off + bytes ≤ 2 ^ 32 →
        let pa := s.field 0xB018 0 20 * 2 ^ 32 + off
        let n := min bytes (s.cap - pa)
        let s0 : State := { s with held := [.read off bytes] }
        let s1 : State := { s with held := [.write off bytes v] }
        let r := if n = 0 then ([], s0) else s0.hostRead pa n
        let put := s1.hostWrite pa (leBytes n v.toNat)
        (s.viral = false → s.repairing = false → s.held = [] → s0.clear r.2 → ∃ t, exec (.apertureRead off bytes) s = .next t
            ∧ t.hostOut = s.hostOut ++ [.readData off bytes (leDword (r.1 ++ List.replicate (bytes - n) 0xFF))] ∧ t.wefts = s.wefts)
          ∧ (s.viral = true → exec (.apertureRead off bytes) s = .next s)
          ∧ (s.repairing = true → s.viral = false → exec (.apertureRead off bytes) s = .next { s with held := s.held ++ [.read off bytes] }
              ∧ exec (.apertureWrite off bytes v) s = .next { s with held := s.held ++ [.write off bytes v] })
          ∧ (s.repairing = false → s.held = [] → n ≠ 0 → s1.clear put → exec (.apertureWrite off bytes v) s = .next { s1.after put with held := [] })
          ∧ (s.repairing = false → s.held = [] → s.calm → n = 0 → exec (.apertureWrite off bytes v) s = .next s))
    ∧ exec .powerCapExceeded s = .next s
    ∧ exec .thermalTrip s = .next { s with powered := false }
    ∧ (∀ vec, port < 2 → vec < 2048 → s.viral = false → (s.reg (msixControl port)).getLsbD 0 = true → (s.reg (msixControl port)).getLsbD 1 = false →
        ∃ t, exec (.msixVectorUnmask port vec) s = .next t ∧ (t.reg (msixEntry port vec + 8)).getLsbD 32 = false
          ∧ (t.reg (msixPending port vec)).getLsbD (vec % 64) = false
          ∧ t.hostOut = if (s.reg (msixPending port vec)).getLsbD (vec % 64) = true then s.hostOut ++ [.msix port vec] else s.hostOut)
    ∧ (s.viral = false → ∃ t, exec .managementSequencerLoss s = .next t ∧ regs t ∧ t.viral = true ∧ t.field vstat 4 8 = 8)
end

