-- ==== Sys2Proof/Laws/SMap.lean ====
section
/-!
SUPPORT. The laws of the tables: what is read after a write, and that every table operation keeps the canonical form.
-/

namespace Sys2Proof.SMap

variable {β : Type}

/-! ## Reading after a write -/

theorem get_insert_same (d : Nat → β) (m : SMap β) (k : Nat) (v : β) : get d (insert m k v) k = v := by
  induction m with
  | nil => simp [insert, get]
  | cons e t ih =>
    obtain ⟨k', v'⟩ := e
    by_cases h1 : k < k'
    · simp [insert, get, h1]
    · by_cases h2 : k = k'
      · simp [insert, get, h2]
      · simp [insert, get, h1, h2, ih]

theorem get_insert_ne (d : Nat → β) (m : SMap β) {k j : Nat} (v : β) (h : j ≠ k) : get d (insert m k v) j = get d m j := by
  induction m with
  | nil => simp [insert, get, h]
  | cons e t ih =>
    obtain ⟨k', v'⟩ := e
    by_cases h1 : k < k'
    · simp [insert, get, h1, h]
    · by_cases h2 : k = k'
      · subst h2; simp [insert, get, h]
      · simp [insert, get, h1, h2, ih]

theorem get_erase_same (d : Nat → β) (m : SMap β) (k : Nat) : get d (erase m k) k = d k := by
  induction m with
  | nil => rfl
  | cons e t ih =>
    obtain ⟨k', v'⟩ := e
    by_cases h : k' = k
    · simpa [erase, h] using ih
    · have h' : k ≠ k' := fun x => h x.symm
      simpa [erase, h, get, h'] using ih

theorem get_erase_ne (d : Nat → β) (m : SMap β) {k j : Nat} (h : j ≠ k) : get d (erase m k) j = get d m j := by
  induction m with
  | nil => rfl
  | cons e t ih =>
    obtain ⟨k', v'⟩ := e
    by_cases hk : k' = k
    · subst hk; simpa [erase, get, h] using ih
    · by_cases hj : j = k'
      · simp [erase, hk, get, hj]
      · simpa [erase, hk, get, hj] using ih

variable [DecidableEq β]

/-- A key reads as what was written to it. -/
@[simp] theorem get_set_same (d : Nat → β) (m : SMap β) (k : Nat) (v : β) : get d (set d m k v) k = v := by
  unfold set
  split
  · next h => rw [get_erase_same, h]
  · exact get_insert_same d m k v

/-- Every other key reads as before. -/
theorem get_set_ne (d : Nat → β) (m : SMap β) {k j : Nat} (v : β) (h : j ≠ k) : get d (set d m k v) j = get d m j := by
  unfold set
  split
  · exact get_erase_ne d m h
  · exact get_insert_ne d m v h

theorem get_set (d : Nat → β) (m : SMap β) (k j : Nat) (v : β) : get d (set d m k v) j = if j = k then v else get d m j := by
  split
  · next h => subst h; exact get_set_same d m j v
  · next h => exact get_set_ne d m v h

/-! ## The canonical form -/

/-- The canonical form as a proposition: keys rise and no entry holds its default. -/
def Canonical (d : Nat → β) (m : SMap β) : Prop := m.Pairwise (fun a b => a.1 < b.1) ∧ ∀ e ∈ m, e.2 ≠ d e.1

theorem wf_iff (d : Nat → β) (m : SMap β) : wf d m = true ↔ Canonical d m := by
  induction m with
  | nil => simp [wf, Canonical]
  | cons e t ih =>
    obtain ⟨k, v⟩ := e
    simp only [wf, Bool.and_eq_true, ih, Canonical, List.pairwise_cons, List.mem_cons, forall_eq_or_imp, bne_iff_ne, ne_eq,
      List.all_eq_true, decide_eq_true_eq]
    tauto

omit [DecidableEq β] in
theorem canonical_filter {d : Nat → β} {m : SMap β} (p : Nat × β → Bool) (h : Canonical d m) : Canonical d (m.filter p) :=
  ⟨h.1.filter _, fun e he => h.2 e (List.mem_of_mem_filter he)⟩

omit [DecidableEq β] in
theorem insert_keys {m : SMap β} {k : Nat} {v : β} {e : Nat × β} (h : e ∈ insert m k v) : e = (k, v) ∨ e ∈ m := by
  induction m with
  | nil => simpa [insert] using h
  | cons x t ih =>
    obtain ⟨k', v'⟩ := x
    unfold insert at h
    split at h
    · simpa using h
    · split at h
      · simp only [List.mem_cons] at h ⊢; tauto
      · simp only [List.mem_cons] at h ⊢
        rcases h with h | h
        · exact .inr (.inl h)
        · rcases ih h with h | h
          · exact .inl h
          · exact .inr (.inr h)

omit [DecidableEq β] in
theorem canonical_insert {d : Nat → β} {m : SMap β} {k : Nat} {v : β} (hv : v ≠ d k) (h : Canonical d m) : Canonical d (insert m k v) := by
  refine ⟨?_, fun e he => ?_⟩
  · induction m with
    | nil => simp [insert]
    | cons x t ih =>
      obtain ⟨k', v'⟩ := x
      have ht : Canonical d t := ⟨(List.pairwise_cons.1 h.1).2, fun e he => h.2 e (List.mem_cons_of_mem _ he)⟩
      have hx := (List.pairwise_cons.1 h.1).1
      unfold insert
      split
      · next hk =>
        refine List.pairwise_cons.2 ⟨fun e he => ?_, h.1⟩
        rcases List.mem_cons.1 he with he | he
        · subst he; exact hk
        · exact Nat.lt_trans hk (hx e he)
      · split
        · next hk => subst hk; exact List.pairwise_cons.2 ⟨hx, (List.pairwise_cons.1 h.1).2⟩
        · next h1 h2 =>
          refine List.pairwise_cons.2 ⟨fun e he => ?_, ih ht⟩
          rcases insert_keys he with he | he
          · subst he; simp only; omega
          · exact hx e he
  · rcases insert_keys he with he | he
    · subst he; exact hv
    · exact h.2 e he

theorem canonical_set {d : Nat → β} {m : SMap β} (k : Nat) (v : β) (h : Canonical d m) : Canonical d (set d m k v) := by
  unfold set
  split
  · exact canonical_filter _ h
  · next hv => exact canonical_insert hv h

theorem enum_keys {d : Nat → β} {vs : List β} : ∀ {a : Nat} {e : Nat × β}, e ∈ enum d a vs → a ≤ e.1 ∧ e.1 < a + vs.length ∧ e.2 ≠ d e.1 := by
  induction vs with
  | nil => simp [enum]
  | cons v t ih =>
    intro a e h
    unfold enum at h
    split at h
    · have := ih h; simp only [List.length_cons]; exact ⟨by omega, by omega, this.2.2⟩
    · next hv =>
      rcases List.mem_cons.1 h with h | h
      · subst h; simp only [List.length_cons]; exact ⟨by omega, by omega, hv⟩
      · have := ih h; simp only [List.length_cons]; exact ⟨by omega, by omega, this.2.2⟩

theorem enum_pairwise {d : Nat → β} {vs : List β} : ∀ {a : Nat}, (enum d a vs).Pairwise (fun x y => x.1 < y.1) := by
  induction vs with
  | nil => simp [enum]
  | cons v t ih =>
    intro a
    unfold enum
    split
    · exact ih
    · exact List.pairwise_cons.2 ⟨fun e he => by have := enum_keys he; omega, ih⟩

theorem canonical_write {d : Nat → β} {m : SMap β} (lo : Nat) (vs : List β) (h : Canonical d m) : Canonical d (write d m lo vs) := by
  unfold write splice
  refine ⟨?_, fun e he => ?_⟩
  · rw [List.pairwise_append, List.pairwise_append]
    refine ⟨⟨h.1.filter _, enum_pairwise, fun a ha b hb => ?_⟩, h.1.filter _, fun a ha b hb => ?_⟩
    · have := enum_keys hb
      simp only [List.mem_filter, decide_eq_true_eq] at ha
      omega
    · simp only [List.mem_filter, decide_eq_true_eq] at hb
      rcases List.mem_append.1 ha with ha | ha
      · simp only [List.mem_filter, decide_eq_true_eq] at ha; omega
      · have := enum_keys ha; omega
  · rcases List.mem_append.1 he with he | he
    · rcases List.mem_append.1 he with he | he
      · exact h.2 e (List.mem_of_mem_filter he)
      · exact (enum_keys he).2.2
    · exact h.2 e (List.mem_of_mem_filter he)

theorem wf_set {d : Nat → β} {m : SMap β} (k : Nat) (v : β) (h : wf d m = true) : wf d (set d m k v) = true :=
  (wf_iff d _).2 (canonical_set k v ((wf_iff d m).1 h))

theorem wf_write {d : Nat → β} {m : SMap β} (lo : Nat) (vs : List β) (h : wf d m = true) : wf d (write d m lo vs) = true :=
  (wf_iff d _).2 (canonical_write lo vs ((wf_iff d m).1 h))

theorem wf_filter {d : Nat → β} {m : SMap β} (p : Nat × β → Bool) (h : wf d m = true) : wf d (m.filter p) = true :=
  (wf_iff d _).2 (canonical_filter p ((wf_iff d m).1 h))

/-! ## Reading after a block write -/

omit [DecidableEq β] in
theorem get_filter (d : Nat → β) (m : SMap β) (p : Nat → Bool) (k : Nat) :
    get d (m.filter fun e => p e.1) k = if p k then get d m k else d k := by
  induction m with
  | nil => simp [get]
  | cons e t ih =>
    obtain ⟨k', v⟩ := e
    by_cases hp : p k' = true
    · by_cases hk : k = k'
      · subst hk; simp [get, hp]
      · simp [get, hp, hk, ih]
    · by_cases hk : k = k'
      · subst hk; simp [hp, ih]
      · simp [get, hp, hk, ih]

omit [DecidableEq β] in
theorem get_append (d : Nat → β) (a b : SMap β) (k : Nat) :
    get d (a ++ b) k = if k ∈ a.map Prod.fst then get d a k else get d b k := by
  induction a with
  | nil => simp
  | cons e t ih =>
    obtain ⟨k', v⟩ := e
    by_cases hk : k = k'
    · simp [get, hk]
    · have hm : (k ∈ List.map Prod.fst ((k', v) :: t)) ↔ k ∈ List.map Prod.fst t := by
        rw [List.map_cons, List.mem_cons]; exact or_iff_right hk
      simp only [List.cons_append, get, hk, if_false, hm, ih]

theorem get_enum (d : Nat → β) : ∀ (vs : List β) (lo k : Nat),
    get d (enum d lo vs) k = if h : lo ≤ k ∧ k < lo + vs.length then vs[k - lo]'(by omega) else d k := by
  intro vs
  induction vs with
  | nil => intro lo k; simp [enum, get]
  | cons v t ih =>
    intro lo k
    unfold enum
    by_cases hk : k = lo
    · subst hk
      split
      · next hv => rw [ih]; simp [hv]
      · simp [get]
    · have key : get d (enum d (lo + 1) t) k = if h : lo ≤ k ∧ k < lo + (v :: t).length then (v :: t)[k - lo]'(by omega) else d k := by
        rw [ih]
        by_cases h1 : lo + 1 ≤ k ∧ k < lo + 1 + t.length
        · have h2 : lo ≤ k ∧ k < lo + (v :: t).length := by simp only [List.length_cons]; omega
          rw [dif_pos h1, dif_pos h2]
          have : k - lo = (k - (lo + 1)) + 1 := by omega
          simp [this]
        · have h2 : ¬ (lo ≤ k ∧ k < lo + (v :: t).length) := by simp only [List.length_cons]; omega
          rw [dif_neg h1, dif_neg h2]
      split
      · exact key
      · simpa [get, hk] using key

/-- A block write gives its keys their values and leaves every other key. -/
theorem get_write (d : Nat → β) (m : SMap β) (lo : Nat) (vs : List β) (k : Nat) :
    get d (write d m lo vs) k = if h : lo ≤ k ∧ k < lo + vs.length then vs[k - lo]'(by omega) else get d m k := by
  unfold write splice
  have f1 := get_filter d m (fun a => decide (a < lo)) k
  have f2 := get_filter d m (fun a => decide (lo + vs.length ≤ a)) k
  have e := get_enum d vs lo k
  by_cases h : lo ≤ k ∧ k < lo + vs.length
  · rw [dif_pos h]
    rw [dif_pos h] at e
    have n1 : k ∉ (m.filter fun e => decide (e.1 < lo)).map Prod.fst := by
      simp only [List.mem_map, List.mem_filter, decide_eq_true_eq, not_exists, not_and]
      rintro x ⟨-, hx⟩ rfl; omega
    have n2 : ¬ lo + vs.length ≤ k := by omega
    rw [List.append_assoc, get_append, if_neg n1, get_append]
    split
    · exact e
    · next hn =>
      rw [f2]
      have : get d (enum d lo vs) k = d k := by
        clear e f1 f2
        generalize enum d lo vs = q at hn
        induction q with
        | nil => rfl
        | cons x t ih =>
          simp only [List.map_cons, List.mem_cons, not_or] at hn
          obtain ⟨a, b⟩ := x
          simp only [get]
          rw [if_neg hn.1]
          exact ih hn.2
      rw [← e, this]; simp [n2]
  · rw [dif_neg h]
    have n2 : k ∉ (enum d lo vs).map Prod.fst := by
      simp only [List.mem_map, not_exists, not_and]
      rintro x hx rfl
      have := enum_keys hx; omega
    rw [List.append_assoc, get_append]
    split
    · next hm =>
      simp only [List.mem_map, List.mem_filter, decide_eq_true_eq] at hm
      obtain ⟨x, ⟨-, hx⟩, rfl⟩ := hm
      rw [f1]; simp [hx]
    · next hm =>
      rw [get_append, if_neg n2, f2]
      by_cases hk : lo + vs.length ≤ k
      · simp [hk]
      · have hlt : k < lo := by omega
        simp only [hk, decide_false, Bool.false_eq_true, if_false]
        have : get d (m.filter fun e => decide (e.1 < lo)) k = d k := by
          generalize (m.filter fun e => decide (e.1 < lo)) = q at hm
          clear f1
          induction q with
          | nil => rfl
          | cons x t ih =>
            simp only [List.map_cons, List.mem_cons, not_or] at hm
            obtain ⟨a, b⟩ := x
            simp only [get]
            rw [if_neg hm.1]
            exact ih hm.2
        rw [f1] at this
        simpa [hlt] using this.symm

end Sys2Proof.SMap
end

