-- ==== Sys2Proof/Laws/State.lean ====
section
/-!
SUPPORT. What each field of the state holds after each update, by name, so that no later proof unfolds a record update; and what the
accessors read after them.
-/

namespace Sys2Proof.Machine

variable (s : State)

/-! ## Fields after updates -/

@[simp] theorem State.setWeft_cur (k : Nat) (w : Weft) : (s.setWeft k w).cur = s.cur := rfl
@[simp] theorem State.setWeft_agenda (k : Nat) (w : Weft) : (s.setWeft k w).agenda = s.agenda := rfl
@[simp] theorem State.setWeft_freeTick (k : Nat) (w : Weft) : (s.setWeft k w).freeTick = s.freeTick := rfl
@[simp] theorem State.setWeft_teams (k : Nat) (w : Weft) : (s.setWeft k w).teams = s.teams := rfl
@[simp] theorem State.setWeft_cores (k : Nat) (w : Weft) : (s.setWeft k w).cores = s.cores := rfl
@[simp] theorem State.setWeft_clusters (k : Nat) (w : Weft) : (s.setWeft k w).clusters = s.clusters := rfl
@[simp] theorem State.setWeft_mem (k : Nat) (w : Weft) : (s.setWeft k w).mem = s.mem := rfl
@[simp] theorem State.setWeft_mgmt (k : Nat) (w : Weft) : (s.setWeft k w).mgmt = s.mgmt := rfl
@[simp] theorem State.setWeft_coh (k : Nat) (w : Weft) : (s.setWeft k w).coh = s.coh := rfl
@[simp] theorem State.setWeft_fabric (k : Nat) (w : Weft) : (s.setWeft k w).fabric = s.fabric := rfl
@[simp] theorem State.setWeft_launches (k : Nat) (w : Weft) : (s.setWeft k w).launches = s.launches := rfl
@[simp] theorem State.setWeft_deals (k : Nat) (w : Weft) : (s.setWeft k w).deals = s.deals := rfl
@[simp] theorem State.setWeft_joins (k : Nat) (w : Weft) : (s.setWeft k w).joins = s.joins := rfl
@[simp] theorem State.setWeft_reports (k : Nat) (w : Weft) : (s.setWeft k w).reports = s.reports := rfl
@[simp] theorem State.setWeft_domains (k : Nat) (w : Weft) : (s.setWeft k w).domains = s.domains := rfl
@[simp] theorem State.setWeft_stopped (k : Nat) (w : Weft) : (s.setWeft k w).stopped = s.stopped := rfl
@[simp] theorem State.setWeft_lastServed (k : Nat) (w : Weft) : (s.setWeft k w).lastServed = s.lastServed := rfl
@[simp] theorem State.setWeft_cmdpFailed (k : Nat) (w : Weft) : (s.setWeft k w).cmdpFailed = s.cmdpFailed := rfl
@[simp] theorem State.setWeft_dealFrom (k : Nat) (w : Weft) : (s.setWeft k w).dealFrom = s.dealFrom := rfl
@[simp] theorem State.setWeft_hostOut (k : Nat) (w : Weft) : (s.setWeft k w).hostOut = s.hostOut := rfl
@[simp] theorem State.setWeft_held (k : Nat) (w : Weft) : (s.setWeft k w).held = s.held := rfl
@[simp] theorem State.setWeft_repair (k : Nat) (w : Weft) : (s.setWeft k w).repair = s.repair := rfl
@[simp] theorem State.setWeft_upsets (k : Nat) (w : Weft) : (s.setWeft k w).upsets = s.upsets := rfl
@[simp] theorem State.setWeft_sweepNext (k : Nat) (w : Weft) : (s.setWeft k w).sweepNext = s.sweepNext := rfl
@[simp] theorem State.setWeft_scrubNext (k : Nat) (w : Weft) : (s.setWeft k w).scrubNext = s.scrubNext := rfl
@[simp] theorem State.setWeft_flash (k : Nat) (w : Weft) : (s.setWeft k w).flash = s.flash := rfl
@[simp] theorem State.setWeft_ident (k : Nat) (w : Weft) : (s.setWeft k w).ident = s.ident := rfl
@[simp] theorem State.setWeft_powered (k : Nat) (w : Weft) : (s.setWeft k w).powered = s.powered := rfl
@[simp] theorem State.setWeft_poolUsed (k : Nat) (w : Weft) : (s.setWeft k w).poolUsed = s.poolUsed := rfl
@[simp] theorem State.setWeft_stalled (k : Nat) (w : Weft) : (s.setWeft k w).stalled = s.stalled := rfl
@[simp] theorem State.setWeft_nextId (k : Nat) (w : Weft) : (s.setWeft k w).nextId = s.nextId := rfl

@[simp] theorem State.setTeam_cur (t : Nat) (x : Team) : (s.setTeam t x).cur = s.cur := rfl
@[simp] theorem State.setTeam_agenda (t : Nat) (x : Team) : (s.setTeam t x).agenda = s.agenda := rfl
@[simp] theorem State.setTeam_freeTick (t : Nat) (x : Team) : (s.setTeam t x).freeTick = s.freeTick := rfl
@[simp] theorem State.setTeam_wefts (t : Nat) (x : Team) : (s.setTeam t x).wefts = s.wefts := rfl
@[simp] theorem State.setTeam_cores (t : Nat) (x : Team) : (s.setTeam t x).cores = s.cores := rfl
@[simp] theorem State.setTeam_clusters (t : Nat) (x : Team) : (s.setTeam t x).clusters = s.clusters := rfl
@[simp] theorem State.setTeam_mem (t : Nat) (x : Team) : (s.setTeam t x).mem = s.mem := rfl
@[simp] theorem State.setTeam_mgmt (t : Nat) (x : Team) : (s.setTeam t x).mgmt = s.mgmt := rfl
@[simp] theorem State.setTeam_coh (t : Nat) (x : Team) : (s.setTeam t x).coh = s.coh := rfl
@[simp] theorem State.setTeam_fabric (t : Nat) (x : Team) : (s.setTeam t x).fabric = s.fabric := rfl
@[simp] theorem State.setTeam_launches (t : Nat) (x : Team) : (s.setTeam t x).launches = s.launches := rfl
@[simp] theorem State.setTeam_deals (t : Nat) (x : Team) : (s.setTeam t x).deals = s.deals := rfl
@[simp] theorem State.setTeam_joins (t : Nat) (x : Team) : (s.setTeam t x).joins = s.joins := rfl
@[simp] theorem State.setTeam_reports (t : Nat) (x : Team) : (s.setTeam t x).reports = s.reports := rfl
@[simp] theorem State.setTeam_domains (t : Nat) (x : Team) : (s.setTeam t x).domains = s.domains := rfl
@[simp] theorem State.setTeam_stopped (t : Nat) (x : Team) : (s.setTeam t x).stopped = s.stopped := rfl
@[simp] theorem State.setTeam_lastServed (t : Nat) (x : Team) : (s.setTeam t x).lastServed = s.lastServed := rfl
@[simp] theorem State.setTeam_cmdpFailed (t : Nat) (x : Team) : (s.setTeam t x).cmdpFailed = s.cmdpFailed := rfl
@[simp] theorem State.setTeam_dealFrom (t : Nat) (x : Team) : (s.setTeam t x).dealFrom = s.dealFrom := rfl
@[simp] theorem State.setTeam_hostOut (t : Nat) (x : Team) : (s.setTeam t x).hostOut = s.hostOut := rfl
@[simp] theorem State.setTeam_held (t : Nat) (x : Team) : (s.setTeam t x).held = s.held := rfl
@[simp] theorem State.setTeam_repair (t : Nat) (x : Team) : (s.setTeam t x).repair = s.repair := rfl
@[simp] theorem State.setTeam_upsets (t : Nat) (x : Team) : (s.setTeam t x).upsets = s.upsets := rfl
@[simp] theorem State.setTeam_sweepNext (t : Nat) (x : Team) : (s.setTeam t x).sweepNext = s.sweepNext := rfl
@[simp] theorem State.setTeam_scrubNext (t : Nat) (x : Team) : (s.setTeam t x).scrubNext = s.scrubNext := rfl
@[simp] theorem State.setTeam_flash (t : Nat) (x : Team) : (s.setTeam t x).flash = s.flash := rfl
@[simp] theorem State.setTeam_ident (t : Nat) (x : Team) : (s.setTeam t x).ident = s.ident := rfl
@[simp] theorem State.setTeam_powered (t : Nat) (x : Team) : (s.setTeam t x).powered = s.powered := rfl
@[simp] theorem State.setTeam_poolUsed (t : Nat) (x : Team) : (s.setTeam t x).poolUsed = s.poolUsed := rfl
@[simp] theorem State.setTeam_stalled (t : Nat) (x : Team) : (s.setTeam t x).stalled = s.stalled := rfl
@[simp] theorem State.setTeam_nextId (t : Nat) (x : Team) : (s.setTeam t x).nextId = s.nextId := rfl

@[simp] theorem State.setCore_cur (c : Nat) (x : Core) : (s.setCore c x).cur = s.cur := rfl
@[simp] theorem State.setCore_agenda (c : Nat) (x : Core) : (s.setCore c x).agenda = s.agenda := rfl
@[simp] theorem State.setCore_freeTick (c : Nat) (x : Core) : (s.setCore c x).freeTick = s.freeTick := rfl
@[simp] theorem State.setCore_wefts (c : Nat) (x : Core) : (s.setCore c x).wefts = s.wefts := rfl
@[simp] theorem State.setCore_teams (c : Nat) (x : Core) : (s.setCore c x).teams = s.teams := rfl
@[simp] theorem State.setCore_clusters (c : Nat) (x : Core) : (s.setCore c x).clusters = s.clusters := rfl
@[simp] theorem State.setCore_mem (c : Nat) (x : Core) : (s.setCore c x).mem = s.mem := rfl
@[simp] theorem State.setCore_mgmt (c : Nat) (x : Core) : (s.setCore c x).mgmt = s.mgmt := rfl
@[simp] theorem State.setCore_coh (c : Nat) (x : Core) : (s.setCore c x).coh = s.coh := rfl
@[simp] theorem State.setCore_fabric (c : Nat) (x : Core) : (s.setCore c x).fabric = s.fabric := rfl
@[simp] theorem State.setCore_launches (c : Nat) (x : Core) : (s.setCore c x).launches = s.launches := rfl
@[simp] theorem State.setCore_deals (c : Nat) (x : Core) : (s.setCore c x).deals = s.deals := rfl
@[simp] theorem State.setCore_joins (c : Nat) (x : Core) : (s.setCore c x).joins = s.joins := rfl
@[simp] theorem State.setCore_reports (c : Nat) (x : Core) : (s.setCore c x).reports = s.reports := rfl
@[simp] theorem State.setCore_domains (c : Nat) (x : Core) : (s.setCore c x).domains = s.domains := rfl
@[simp] theorem State.setCore_stopped (c : Nat) (x : Core) : (s.setCore c x).stopped = s.stopped := rfl
@[simp] theorem State.setCore_lastServed (c : Nat) (x : Core) : (s.setCore c x).lastServed = s.lastServed := rfl
@[simp] theorem State.setCore_cmdpFailed (c : Nat) (x : Core) : (s.setCore c x).cmdpFailed = s.cmdpFailed := rfl
@[simp] theorem State.setCore_dealFrom (c : Nat) (x : Core) : (s.setCore c x).dealFrom = s.dealFrom := rfl
@[simp] theorem State.setCore_hostOut (c : Nat) (x : Core) : (s.setCore c x).hostOut = s.hostOut := rfl
@[simp] theorem State.setCore_held (c : Nat) (x : Core) : (s.setCore c x).held = s.held := rfl
@[simp] theorem State.setCore_repair (c : Nat) (x : Core) : (s.setCore c x).repair = s.repair := rfl
@[simp] theorem State.setCore_upsets (c : Nat) (x : Core) : (s.setCore c x).upsets = s.upsets := rfl
@[simp] theorem State.setCore_sweepNext (c : Nat) (x : Core) : (s.setCore c x).sweepNext = s.sweepNext := rfl
@[simp] theorem State.setCore_scrubNext (c : Nat) (x : Core) : (s.setCore c x).scrubNext = s.scrubNext := rfl
@[simp] theorem State.setCore_flash (c : Nat) (x : Core) : (s.setCore c x).flash = s.flash := rfl
@[simp] theorem State.setCore_ident (c : Nat) (x : Core) : (s.setCore c x).ident = s.ident := rfl
@[simp] theorem State.setCore_powered (c : Nat) (x : Core) : (s.setCore c x).powered = s.powered := rfl
@[simp] theorem State.setCore_poolUsed (c : Nat) (x : Core) : (s.setCore c x).poolUsed = s.poolUsed := rfl
@[simp] theorem State.setCore_stalled (c : Nat) (x : Core) : (s.setCore c x).stalled = s.stalled := rfl
@[simp] theorem State.setCore_nextId (c : Nat) (x : Core) : (s.setCore c x).nextId = s.nextId := rfl

@[simp] theorem State.setCluster_cur (c : Nat) (x : Cluster) : (s.setCluster c x).cur = s.cur := rfl
@[simp] theorem State.setCluster_agenda (c : Nat) (x : Cluster) : (s.setCluster c x).agenda = s.agenda := rfl
@[simp] theorem State.setCluster_freeTick (c : Nat) (x : Cluster) : (s.setCluster c x).freeTick = s.freeTick := rfl
@[simp] theorem State.setCluster_wefts (c : Nat) (x : Cluster) : (s.setCluster c x).wefts = s.wefts := rfl
@[simp] theorem State.setCluster_teams (c : Nat) (x : Cluster) : (s.setCluster c x).teams = s.teams := rfl
@[simp] theorem State.setCluster_cores (c : Nat) (x : Cluster) : (s.setCluster c x).cores = s.cores := rfl
@[simp] theorem State.setCluster_mem (c : Nat) (x : Cluster) : (s.setCluster c x).mem = s.mem := rfl
@[simp] theorem State.setCluster_mgmt (c : Nat) (x : Cluster) : (s.setCluster c x).mgmt = s.mgmt := rfl
@[simp] theorem State.setCluster_coh (c : Nat) (x : Cluster) : (s.setCluster c x).coh = s.coh := rfl
@[simp] theorem State.setCluster_fabric (c : Nat) (x : Cluster) : (s.setCluster c x).fabric = s.fabric := rfl
@[simp] theorem State.setCluster_launches (c : Nat) (x : Cluster) : (s.setCluster c x).launches = s.launches := rfl
@[simp] theorem State.setCluster_deals (c : Nat) (x : Cluster) : (s.setCluster c x).deals = s.deals := rfl
@[simp] theorem State.setCluster_joins (c : Nat) (x : Cluster) : (s.setCluster c x).joins = s.joins := rfl
@[simp] theorem State.setCluster_reports (c : Nat) (x : Cluster) : (s.setCluster c x).reports = s.reports := rfl
@[simp] theorem State.setCluster_domains (c : Nat) (x : Cluster) : (s.setCluster c x).domains = s.domains := rfl
@[simp] theorem State.setCluster_stopped (c : Nat) (x : Cluster) : (s.setCluster c x).stopped = s.stopped := rfl
@[simp] theorem State.setCluster_lastServed (c : Nat) (x : Cluster) : (s.setCluster c x).lastServed = s.lastServed := rfl
@[simp] theorem State.setCluster_cmdpFailed (c : Nat) (x : Cluster) : (s.setCluster c x).cmdpFailed = s.cmdpFailed := rfl
@[simp] theorem State.setCluster_dealFrom (c : Nat) (x : Cluster) : (s.setCluster c x).dealFrom = s.dealFrom := rfl
@[simp] theorem State.setCluster_hostOut (c : Nat) (x : Cluster) : (s.setCluster c x).hostOut = s.hostOut := rfl
@[simp] theorem State.setCluster_held (c : Nat) (x : Cluster) : (s.setCluster c x).held = s.held := rfl
@[simp] theorem State.setCluster_repair (c : Nat) (x : Cluster) : (s.setCluster c x).repair = s.repair := rfl
@[simp] theorem State.setCluster_upsets (c : Nat) (x : Cluster) : (s.setCluster c x).upsets = s.upsets := rfl
@[simp] theorem State.setCluster_sweepNext (c : Nat) (x : Cluster) : (s.setCluster c x).sweepNext = s.sweepNext := rfl
@[simp] theorem State.setCluster_scrubNext (c : Nat) (x : Cluster) : (s.setCluster c x).scrubNext = s.scrubNext := rfl
@[simp] theorem State.setCluster_flash (c : Nat) (x : Cluster) : (s.setCluster c x).flash = s.flash := rfl
@[simp] theorem State.setCluster_ident (c : Nat) (x : Cluster) : (s.setCluster c x).ident = s.ident := rfl
@[simp] theorem State.setCluster_powered (c : Nat) (x : Cluster) : (s.setCluster c x).powered = s.powered := rfl
@[simp] theorem State.setCluster_poolUsed (c : Nat) (x : Cluster) : (s.setCluster c x).poolUsed = s.poolUsed := rfl
@[simp] theorem State.setCluster_stalled (c : Nat) (x : Cluster) : (s.setCluster c x).stalled = s.stalled := rfl
@[simp] theorem State.setCluster_nextId (c : Nat) (x : Cluster) : (s.setCluster c x).nextId = s.nextId := rfl

@[simp] theorem State.setReg_cur (off : Nat) (v : Dword) : (s.setReg off v).cur = s.cur := rfl
@[simp] theorem State.setReg_agenda (off : Nat) (v : Dword) : (s.setReg off v).agenda = s.agenda := rfl
@[simp] theorem State.setReg_freeTick (off : Nat) (v : Dword) : (s.setReg off v).freeTick = s.freeTick := rfl
@[simp] theorem State.setReg_wefts (off : Nat) (v : Dword) : (s.setReg off v).wefts = s.wefts := rfl
@[simp] theorem State.setReg_teams (off : Nat) (v : Dword) : (s.setReg off v).teams = s.teams := rfl
@[simp] theorem State.setReg_cores (off : Nat) (v : Dword) : (s.setReg off v).cores = s.cores := rfl
@[simp] theorem State.setReg_clusters (off : Nat) (v : Dword) : (s.setReg off v).clusters = s.clusters := rfl
@[simp] theorem State.setReg_mem (off : Nat) (v : Dword) : (s.setReg off v).mem = s.mem := rfl
@[simp] theorem State.setReg_coh (off : Nat) (v : Dword) : (s.setReg off v).coh = s.coh := rfl
@[simp] theorem State.setReg_fabric (off : Nat) (v : Dword) : (s.setReg off v).fabric = s.fabric := rfl
@[simp] theorem State.setReg_launches (off : Nat) (v : Dword) : (s.setReg off v).launches = s.launches := rfl
@[simp] theorem State.setReg_deals (off : Nat) (v : Dword) : (s.setReg off v).deals = s.deals := rfl
@[simp] theorem State.setReg_joins (off : Nat) (v : Dword) : (s.setReg off v).joins = s.joins := rfl
@[simp] theorem State.setReg_reports (off : Nat) (v : Dword) : (s.setReg off v).reports = s.reports := rfl
@[simp] theorem State.setReg_domains (off : Nat) (v : Dword) : (s.setReg off v).domains = s.domains := rfl
@[simp] theorem State.setReg_stopped (off : Nat) (v : Dword) : (s.setReg off v).stopped = s.stopped := rfl
@[simp] theorem State.setReg_lastServed (off : Nat) (v : Dword) : (s.setReg off v).lastServed = s.lastServed := rfl
@[simp] theorem State.setReg_cmdpFailed (off : Nat) (v : Dword) : (s.setReg off v).cmdpFailed = s.cmdpFailed := rfl
@[simp] theorem State.setReg_dealFrom (off : Nat) (v : Dword) : (s.setReg off v).dealFrom = s.dealFrom := rfl
@[simp] theorem State.setReg_hostOut (off : Nat) (v : Dword) : (s.setReg off v).hostOut = s.hostOut := rfl
@[simp] theorem State.setReg_held (off : Nat) (v : Dword) : (s.setReg off v).held = s.held := rfl
@[simp] theorem State.setReg_repair (off : Nat) (v : Dword) : (s.setReg off v).repair = s.repair := rfl
@[simp] theorem State.setReg_upsets (off : Nat) (v : Dword) : (s.setReg off v).upsets = s.upsets := rfl
@[simp] theorem State.setReg_sweepNext (off : Nat) (v : Dword) : (s.setReg off v).sweepNext = s.sweepNext := rfl
@[simp] theorem State.setReg_scrubNext (off : Nat) (v : Dword) : (s.setReg off v).scrubNext = s.scrubNext := rfl
@[simp] theorem State.setReg_flash (off : Nat) (v : Dword) : (s.setReg off v).flash = s.flash := rfl
@[simp] theorem State.setReg_ident (off : Nat) (v : Dword) : (s.setReg off v).ident = s.ident := rfl
@[simp] theorem State.setReg_powered (off : Nat) (v : Dword) : (s.setReg off v).powered = s.powered := rfl
@[simp] theorem State.setReg_poolUsed (off : Nat) (v : Dword) : (s.setReg off v).poolUsed = s.poolUsed := rfl
@[simp] theorem State.setReg_stalled (off : Nat) (v : Dword) : (s.setReg off v).stalled = s.stalled := rfl
@[simp] theorem State.setReg_nextId (off : Nat) (v : Dword) : (s.setReg off v).nextId = s.nextId := rfl

@[simp] theorem State.writeMem_cur (pa : Nat) (bs : List Byte) : (s.writeMem pa bs).cur = s.cur := rfl
@[simp] theorem State.writeMem_agenda (pa : Nat) (bs : List Byte) : (s.writeMem pa bs).agenda = s.agenda := rfl
@[simp] theorem State.writeMem_freeTick (pa : Nat) (bs : List Byte) : (s.writeMem pa bs).freeTick = s.freeTick := rfl
@[simp] theorem State.writeMem_wefts (pa : Nat) (bs : List Byte) : (s.writeMem pa bs).wefts = s.wefts := rfl
@[simp] theorem State.writeMem_teams (pa : Nat) (bs : List Byte) : (s.writeMem pa bs).teams = s.teams := rfl
@[simp] theorem State.writeMem_cores (pa : Nat) (bs : List Byte) : (s.writeMem pa bs).cores = s.cores := rfl
@[simp] theorem State.writeMem_clusters (pa : Nat) (bs : List Byte) : (s.writeMem pa bs).clusters = s.clusters := rfl
@[simp] theorem State.writeMem_mgmt (pa : Nat) (bs : List Byte) : (s.writeMem pa bs).mgmt = s.mgmt := rfl
@[simp] theorem State.writeMem_coh (pa : Nat) (bs : List Byte) : (s.writeMem pa bs).coh = s.coh := rfl
@[simp] theorem State.writeMem_fabric (pa : Nat) (bs : List Byte) : (s.writeMem pa bs).fabric = s.fabric := rfl
@[simp] theorem State.writeMem_launches (pa : Nat) (bs : List Byte) : (s.writeMem pa bs).launches = s.launches := rfl
@[simp] theorem State.writeMem_deals (pa : Nat) (bs : List Byte) : (s.writeMem pa bs).deals = s.deals := rfl
@[simp] theorem State.writeMem_joins (pa : Nat) (bs : List Byte) : (s.writeMem pa bs).joins = s.joins := rfl
@[simp] theorem State.writeMem_reports (pa : Nat) (bs : List Byte) : (s.writeMem pa bs).reports = s.reports := rfl
@[simp] theorem State.writeMem_domains (pa : Nat) (bs : List Byte) : (s.writeMem pa bs).domains = s.domains := rfl
@[simp] theorem State.writeMem_stopped (pa : Nat) (bs : List Byte) : (s.writeMem pa bs).stopped = s.stopped := rfl
@[simp] theorem State.writeMem_lastServed (pa : Nat) (bs : List Byte) : (s.writeMem pa bs).lastServed = s.lastServed := rfl
@[simp] theorem State.writeMem_cmdpFailed (pa : Nat) (bs : List Byte) : (s.writeMem pa bs).cmdpFailed = s.cmdpFailed := rfl
@[simp] theorem State.writeMem_dealFrom (pa : Nat) (bs : List Byte) : (s.writeMem pa bs).dealFrom = s.dealFrom := rfl
@[simp] theorem State.writeMem_hostOut (pa : Nat) (bs : List Byte) : (s.writeMem pa bs).hostOut = s.hostOut := rfl
@[simp] theorem State.writeMem_held (pa : Nat) (bs : List Byte) : (s.writeMem pa bs).held = s.held := rfl
@[simp] theorem State.writeMem_repair (pa : Nat) (bs : List Byte) : (s.writeMem pa bs).repair = s.repair := rfl
@[simp] theorem State.writeMem_upsets (pa : Nat) (bs : List Byte) : (s.writeMem pa bs).upsets = s.upsets := rfl
@[simp] theorem State.writeMem_sweepNext (pa : Nat) (bs : List Byte) : (s.writeMem pa bs).sweepNext = s.sweepNext := rfl
@[simp] theorem State.writeMem_scrubNext (pa : Nat) (bs : List Byte) : (s.writeMem pa bs).scrubNext = s.scrubNext := rfl
@[simp] theorem State.writeMem_flash (pa : Nat) (bs : List Byte) : (s.writeMem pa bs).flash = s.flash := rfl
@[simp] theorem State.writeMem_ident (pa : Nat) (bs : List Byte) : (s.writeMem pa bs).ident = s.ident := rfl
@[simp] theorem State.writeMem_powered (pa : Nat) (bs : List Byte) : (s.writeMem pa bs).powered = s.powered := rfl
@[simp] theorem State.writeMem_poolUsed (pa : Nat) (bs : List Byte) : (s.writeMem pa bs).poolUsed = s.poolUsed := rfl
@[simp] theorem State.writeMem_stalled (pa : Nat) (bs : List Byte) : (s.writeMem pa bs).stalled = s.stalled := rfl
@[simp] theorem State.writeMem_nextId (pa : Nat) (bs : List Byte) : (s.writeMem pa bs).nextId = s.nextId := rfl

@[simp] theorem State.tick_cur  : (s.tick ).cur = s.cur := rfl
@[simp] theorem State.tick_agenda  : (s.tick ).agenda = s.agenda := rfl
@[simp] theorem State.tick_wefts  : (s.tick ).wefts = s.wefts := rfl
@[simp] theorem State.tick_teams  : (s.tick ).teams = s.teams := rfl
@[simp] theorem State.tick_cores  : (s.tick ).cores = s.cores := rfl
@[simp] theorem State.tick_clusters  : (s.tick ).clusters = s.clusters := rfl
@[simp] theorem State.tick_mem  : (s.tick ).mem = s.mem := rfl
@[simp] theorem State.tick_mgmt  : (s.tick ).mgmt = s.mgmt := rfl
@[simp] theorem State.tick_coh  : (s.tick ).coh = s.coh := rfl
@[simp] theorem State.tick_fabric  : (s.tick ).fabric = s.fabric := rfl
@[simp] theorem State.tick_launches  : (s.tick ).launches = s.launches := rfl
@[simp] theorem State.tick_deals  : (s.tick ).deals = s.deals := rfl
@[simp] theorem State.tick_joins  : (s.tick ).joins = s.joins := rfl
@[simp] theorem State.tick_reports  : (s.tick ).reports = s.reports := rfl
@[simp] theorem State.tick_domains  : (s.tick ).domains = s.domains := rfl
@[simp] theorem State.tick_stopped  : (s.tick ).stopped = s.stopped := rfl
@[simp] theorem State.tick_lastServed  : (s.tick ).lastServed = s.lastServed := rfl
@[simp] theorem State.tick_cmdpFailed  : (s.tick ).cmdpFailed = s.cmdpFailed := rfl
@[simp] theorem State.tick_dealFrom  : (s.tick ).dealFrom = s.dealFrom := rfl
@[simp] theorem State.tick_hostOut  : (s.tick ).hostOut = s.hostOut := rfl
@[simp] theorem State.tick_held  : (s.tick ).held = s.held := rfl
@[simp] theorem State.tick_repair  : (s.tick ).repair = s.repair := rfl
@[simp] theorem State.tick_upsets  : (s.tick ).upsets = s.upsets := rfl
@[simp] theorem State.tick_sweepNext  : (s.tick ).sweepNext = s.sweepNext := rfl
@[simp] theorem State.tick_scrubNext  : (s.tick ).scrubNext = s.scrubNext := rfl
@[simp] theorem State.tick_flash  : (s.tick ).flash = s.flash := rfl
@[simp] theorem State.tick_ident  : (s.tick ).ident = s.ident := rfl
@[simp] theorem State.tick_powered  : (s.tick ).powered = s.powered := rfl
@[simp] theorem State.tick_poolUsed  : (s.tick ).poolUsed = s.poolUsed := rfl
@[simp] theorem State.tick_stalled  : (s.tick ).stalled = s.stalled := rfl
@[simp] theorem State.tick_nextId  : (s.tick ).nextId = s.nextId := rfl

@[simp] theorem State.sendMsg_cur (m : Msg) : (s.sendMsg m).cur = s.cur := rfl
@[simp] theorem State.sendMsg_agenda (m : Msg) : (s.sendMsg m).agenda = s.agenda := rfl
@[simp] theorem State.sendMsg_freeTick (m : Msg) : (s.sendMsg m).freeTick = s.freeTick := rfl
@[simp] theorem State.sendMsg_wefts (m : Msg) : (s.sendMsg m).wefts = s.wefts := rfl
@[simp] theorem State.sendMsg_teams (m : Msg) : (s.sendMsg m).teams = s.teams := rfl
@[simp] theorem State.sendMsg_cores (m : Msg) : (s.sendMsg m).cores = s.cores := rfl
@[simp] theorem State.sendMsg_clusters (m : Msg) : (s.sendMsg m).clusters = s.clusters := rfl
@[simp] theorem State.sendMsg_mem (m : Msg) : (s.sendMsg m).mem = s.mem := rfl
@[simp] theorem State.sendMsg_mgmt (m : Msg) : (s.sendMsg m).mgmt = s.mgmt := rfl
@[simp] theorem State.sendMsg_fabric (m : Msg) : (s.sendMsg m).fabric = s.fabric := rfl
@[simp] theorem State.sendMsg_launches (m : Msg) : (s.sendMsg m).launches = s.launches := rfl
@[simp] theorem State.sendMsg_deals (m : Msg) : (s.sendMsg m).deals = s.deals := rfl
@[simp] theorem State.sendMsg_joins (m : Msg) : (s.sendMsg m).joins = s.joins := rfl
@[simp] theorem State.sendMsg_reports (m : Msg) : (s.sendMsg m).reports = s.reports := rfl
@[simp] theorem State.sendMsg_domains (m : Msg) : (s.sendMsg m).domains = s.domains := rfl
@[simp] theorem State.sendMsg_stopped (m : Msg) : (s.sendMsg m).stopped = s.stopped := rfl
@[simp] theorem State.sendMsg_lastServed (m : Msg) : (s.sendMsg m).lastServed = s.lastServed := rfl
@[simp] theorem State.sendMsg_cmdpFailed (m : Msg) : (s.sendMsg m).cmdpFailed = s.cmdpFailed := rfl
@[simp] theorem State.sendMsg_dealFrom (m : Msg) : (s.sendMsg m).dealFrom = s.dealFrom := rfl
@[simp] theorem State.sendMsg_hostOut (m : Msg) : (s.sendMsg m).hostOut = s.hostOut := rfl
@[simp] theorem State.sendMsg_held (m : Msg) : (s.sendMsg m).held = s.held := rfl
@[simp] theorem State.sendMsg_repair (m : Msg) : (s.sendMsg m).repair = s.repair := rfl
@[simp] theorem State.sendMsg_upsets (m : Msg) : (s.sendMsg m).upsets = s.upsets := rfl
@[simp] theorem State.sendMsg_sweepNext (m : Msg) : (s.sendMsg m).sweepNext = s.sweepNext := rfl
@[simp] theorem State.sendMsg_scrubNext (m : Msg) : (s.sendMsg m).scrubNext = s.scrubNext := rfl
@[simp] theorem State.sendMsg_flash (m : Msg) : (s.sendMsg m).flash = s.flash := rfl
@[simp] theorem State.sendMsg_ident (m : Msg) : (s.sendMsg m).ident = s.ident := rfl
@[simp] theorem State.sendMsg_powered (m : Msg) : (s.sendMsg m).powered = s.powered := rfl
@[simp] theorem State.sendMsg_poolUsed (m : Msg) : (s.sendMsg m).poolUsed = s.poolUsed := rfl
@[simp] theorem State.sendMsg_stalled (m : Msg) : (s.sendMsg m).stalled = s.stalled := rfl
@[simp] theorem State.sendMsg_nextId (m : Msg) : (s.sendMsg m).nextId = s.nextId := rfl

@[simp] theorem State.useLine_cur (core ctx : Nat) (va : Dword) : (s.useLine core ctx va).cur = s.cur := rfl
@[simp] theorem State.useLine_agenda (core ctx : Nat) (va : Dword) : (s.useLine core ctx va).agenda = s.agenda := rfl
@[simp] theorem State.useLine_freeTick (core ctx : Nat) (va : Dword) : (s.useLine core ctx va).freeTick = s.freeTick := rfl
@[simp] theorem State.useLine_wefts (core ctx : Nat) (va : Dword) : (s.useLine core ctx va).wefts = s.wefts := rfl
@[simp] theorem State.useLine_teams (core ctx : Nat) (va : Dword) : (s.useLine core ctx va).teams = s.teams := rfl
@[simp] theorem State.useLine_cores (core ctx : Nat) (va : Dword) : (s.useLine core ctx va).cores = s.cores := rfl
@[simp] theorem State.useLine_clusters (core ctx : Nat) (va : Dword) : (s.useLine core ctx va).clusters = s.clusters := rfl
@[simp] theorem State.useLine_mem (core ctx : Nat) (va : Dword) : (s.useLine core ctx va).mem = s.mem := rfl
@[simp] theorem State.useLine_mgmt (core ctx : Nat) (va : Dword) : (s.useLine core ctx va).mgmt = s.mgmt := rfl
@[simp] theorem State.useLine_fabric (core ctx : Nat) (va : Dword) : (s.useLine core ctx va).fabric = s.fabric := rfl
@[simp] theorem State.useLine_launches (core ctx : Nat) (va : Dword) : (s.useLine core ctx va).launches = s.launches := rfl
@[simp] theorem State.useLine_deals (core ctx : Nat) (va : Dword) : (s.useLine core ctx va).deals = s.deals := rfl
@[simp] theorem State.useLine_joins (core ctx : Nat) (va : Dword) : (s.useLine core ctx va).joins = s.joins := rfl
@[simp] theorem State.useLine_reports (core ctx : Nat) (va : Dword) : (s.useLine core ctx va).reports = s.reports := rfl
@[simp] theorem State.useLine_domains (core ctx : Nat) (va : Dword) : (s.useLine core ctx va).domains = s.domains := rfl
@[simp] theorem State.useLine_stopped (core ctx : Nat) (va : Dword) : (s.useLine core ctx va).stopped = s.stopped := rfl
@[simp] theorem State.useLine_lastServed (core ctx : Nat) (va : Dword) : (s.useLine core ctx va).lastServed = s.lastServed := rfl
@[simp] theorem State.useLine_cmdpFailed (core ctx : Nat) (va : Dword) : (s.useLine core ctx va).cmdpFailed = s.cmdpFailed := rfl
@[simp] theorem State.useLine_dealFrom (core ctx : Nat) (va : Dword) : (s.useLine core ctx va).dealFrom = s.dealFrom := rfl
@[simp] theorem State.useLine_hostOut (core ctx : Nat) (va : Dword) : (s.useLine core ctx va).hostOut = s.hostOut := rfl
@[simp] theorem State.useLine_held (core ctx : Nat) (va : Dword) : (s.useLine core ctx va).held = s.held := rfl
@[simp] theorem State.useLine_repair (core ctx : Nat) (va : Dword) : (s.useLine core ctx va).repair = s.repair := rfl
@[simp] theorem State.useLine_upsets (core ctx : Nat) (va : Dword) : (s.useLine core ctx va).upsets = s.upsets := rfl
@[simp] theorem State.useLine_sweepNext (core ctx : Nat) (va : Dword) : (s.useLine core ctx va).sweepNext = s.sweepNext := rfl
@[simp] theorem State.useLine_scrubNext (core ctx : Nat) (va : Dword) : (s.useLine core ctx va).scrubNext = s.scrubNext := rfl
@[simp] theorem State.useLine_flash (core ctx : Nat) (va : Dword) : (s.useLine core ctx va).flash = s.flash := rfl
@[simp] theorem State.useLine_ident (core ctx : Nat) (va : Dword) : (s.useLine core ctx va).ident = s.ident := rfl
@[simp] theorem State.useLine_powered (core ctx : Nat) (va : Dword) : (s.useLine core ctx va).powered = s.powered := rfl
@[simp] theorem State.useLine_poolUsed (core ctx : Nat) (va : Dword) : (s.useLine core ctx va).poolUsed = s.poolUsed := rfl
@[simp] theorem State.useLine_stalled (core ctx : Nat) (va : Dword) : (s.useLine core ctx va).stalled = s.stalled := rfl
@[simp] theorem State.useLine_nextId (core ctx : Nat) (va : Dword) : (s.useLine core ctx va).nextId = s.nextId := rfl

/-! ## Accessors after updates -/

@[simp] theorem State.setTeam_weft (t : Nat) (x : Team) (i : Nat) : (s.setTeam t x).weft i = s.weft i := rfl
@[simp] theorem State.setCore_weft (c : Nat) (x : Core) (i : Nat) : (s.setCore c x).weft i = s.weft i := rfl
@[simp] theorem State.setCluster_weft (c : Nat) (x : Cluster) (i : Nat) : (s.setCluster c x).weft i = s.weft i := rfl
@[simp] theorem State.setReg_weft (off : Nat) (v : Dword) (i : Nat) : (s.setReg off v).weft i = s.weft i := rfl
@[simp] theorem State.writeMem_weft (pa : Nat) (bs : List Byte) (i : Nat) : (s.writeMem pa bs).weft i = s.weft i := rfl
@[simp] theorem State.tick_weft  (i : Nat) : (s.tick ).weft i = s.weft i := rfl
@[simp] theorem State.sendMsg_weft (m : Msg) (i : Nat) : (s.sendMsg m).weft i = s.weft i := rfl
@[simp] theorem State.useLine_weft (core ctx : Nat) (va : Dword) (i : Nat) : (s.useLine core ctx va).weft i = s.weft i := rfl
@[simp] theorem State.setWeft_team (k : Nat) (w : Weft) (i : Nat) : (s.setWeft k w).team i = s.team i := rfl
@[simp] theorem State.setCore_team (c : Nat) (x : Core) (i : Nat) : (s.setCore c x).team i = s.team i := rfl
@[simp] theorem State.setCluster_team (c : Nat) (x : Cluster) (i : Nat) : (s.setCluster c x).team i = s.team i := rfl
@[simp] theorem State.setReg_team (off : Nat) (v : Dword) (i : Nat) : (s.setReg off v).team i = s.team i := rfl
@[simp] theorem State.writeMem_team (pa : Nat) (bs : List Byte) (i : Nat) : (s.writeMem pa bs).team i = s.team i := rfl
@[simp] theorem State.tick_team  (i : Nat) : (s.tick ).team i = s.team i := rfl
@[simp] theorem State.sendMsg_team (m : Msg) (i : Nat) : (s.sendMsg m).team i = s.team i := rfl
@[simp] theorem State.useLine_team (core ctx : Nat) (va : Dword) (i : Nat) : (s.useLine core ctx va).team i = s.team i := rfl
@[simp] theorem State.setWeft_core (k : Nat) (w : Weft) (i : Nat) : (s.setWeft k w).core i = s.core i := rfl
@[simp] theorem State.setTeam_core (t : Nat) (x : Team) (i : Nat) : (s.setTeam t x).core i = s.core i := rfl
@[simp] theorem State.setCluster_core (c : Nat) (x : Cluster) (i : Nat) : (s.setCluster c x).core i = s.core i := rfl
@[simp] theorem State.setReg_core (off : Nat) (v : Dword) (i : Nat) : (s.setReg off v).core i = s.core i := rfl
@[simp] theorem State.writeMem_core (pa : Nat) (bs : List Byte) (i : Nat) : (s.writeMem pa bs).core i = s.core i := rfl
@[simp] theorem State.tick_core  (i : Nat) : (s.tick ).core i = s.core i := rfl
@[simp] theorem State.sendMsg_core (m : Msg) (i : Nat) : (s.sendMsg m).core i = s.core i := rfl
@[simp] theorem State.useLine_core (core ctx : Nat) (va : Dword) (i : Nat) : (s.useLine core ctx va).core i = s.core i := rfl
@[simp] theorem State.setWeft_cluster (k : Nat) (w : Weft) (i : Nat) : (s.setWeft k w).cluster i = s.cluster i := rfl
@[simp] theorem State.setTeam_cluster (t : Nat) (x : Team) (i : Nat) : (s.setTeam t x).cluster i = s.cluster i := rfl
@[simp] theorem State.setCore_cluster (c : Nat) (x : Core) (i : Nat) : (s.setCore c x).cluster i = s.cluster i := rfl
@[simp] theorem State.setReg_cluster (off : Nat) (v : Dword) (i : Nat) : (s.setReg off v).cluster i = s.cluster i := rfl
@[simp] theorem State.writeMem_cluster (pa : Nat) (bs : List Byte) (i : Nat) : (s.writeMem pa bs).cluster i = s.cluster i := rfl
@[simp] theorem State.tick_cluster  (i : Nat) : (s.tick ).cluster i = s.cluster i := rfl
@[simp] theorem State.sendMsg_cluster (m : Msg) (i : Nat) : (s.sendMsg m).cluster i = s.cluster i := rfl
@[simp] theorem State.useLine_cluster (core ctx : Nat) (va : Dword) (i : Nat) : (s.useLine core ctx va).cluster i = s.cluster i := rfl
@[simp] theorem State.setWeft_reg (k : Nat) (w : Weft) (i : Nat) : (s.setWeft k w).reg i = s.reg i := rfl
@[simp] theorem State.setTeam_reg (t : Nat) (x : Team) (i : Nat) : (s.setTeam t x).reg i = s.reg i := rfl
@[simp] theorem State.setCore_reg (c : Nat) (x : Core) (i : Nat) : (s.setCore c x).reg i = s.reg i := rfl
@[simp] theorem State.setCluster_reg (c : Nat) (x : Cluster) (i : Nat) : (s.setCluster c x).reg i = s.reg i := rfl
@[simp] theorem State.writeMem_reg (pa : Nat) (bs : List Byte) (i : Nat) : (s.writeMem pa bs).reg i = s.reg i := rfl
@[simp] theorem State.tick_reg  (i : Nat) : (s.tick ).reg i = s.reg i := rfl
@[simp] theorem State.sendMsg_reg (m : Msg) (i : Nat) : (s.sendMsg m).reg i = s.reg i := rfl
@[simp] theorem State.useLine_reg (core ctx : Nat) (va : Dword) (i : Nat) : (s.useLine core ctx va).reg i = s.reg i := rfl
@[simp] theorem State.setWeft_byte (k : Nat) (w : Weft) (i : Nat) : (s.setWeft k w).byte i = s.byte i := rfl
@[simp] theorem State.setTeam_byte (t : Nat) (x : Team) (i : Nat) : (s.setTeam t x).byte i = s.byte i := rfl
@[simp] theorem State.setCore_byte (c : Nat) (x : Core) (i : Nat) : (s.setCore c x).byte i = s.byte i := rfl
@[simp] theorem State.setCluster_byte (c : Nat) (x : Cluster) (i : Nat) : (s.setCluster c x).byte i = s.byte i := rfl
@[simp] theorem State.setReg_byte (off : Nat) (v : Dword) (i : Nat) : (s.setReg off v).byte i = s.byte i := rfl
@[simp] theorem State.tick_byte  (i : Nat) : (s.tick ).byte i = s.byte i := rfl
@[simp] theorem State.sendMsg_byte (m : Msg) (i : Nat) : (s.sendMsg m).byte i = s.byte i := rfl
@[simp] theorem State.useLine_byte (core ctx : Nat) (va : Dword) (i : Nat) : (s.useLine core ctx va).byte i = s.byte i := rfl

theorem State.weft_setWeft (k j : Nat) (w : Weft) : (s.setWeft k w).weft j = if j = k then w else s.weft j := SMap.get_set _ _ _ _ _
theorem State.team_setTeam (t j : Nat) (x : Team) : (s.setTeam t x).team j = if j = t then x else s.team j := SMap.get_set _ _ _ _ _
theorem State.core_setCore (c j : Nat) (x : Core) : (s.setCore c x).core j = if j = c then x else s.core j := SMap.get_set _ _ _ _ _
theorem State.cluster_setCluster (c j : Nat) (x : Cluster) : (s.setCluster c x).cluster j = if j = c then x else s.cluster j :=
  SMap.get_set _ _ _ _ _
theorem State.reg_setReg (o j : Nat) (v : Dword) : (s.setReg o v).reg j = if j = o then v else s.reg j := SMap.get_set _ _ _ _ _

@[simp] theorem State.weft_setWeft_same (k : Nat) (w : Weft) : (s.setWeft k w).weft k = w := SMap.get_set_same _ _ _ _
@[simp] theorem State.team_setTeam_same (t : Nat) (x : Team) : (s.setTeam t x).team t = x := SMap.get_set_same _ _ _ _
@[simp] theorem State.core_setCore_same (c : Nat) (x : Core) : (s.setCore c x).core c = x := SMap.get_set_same _ _ _ _
@[simp] theorem State.cluster_setCluster_same (c : Nat) (x : Cluster) : (s.setCluster c x).cluster c = x := SMap.get_set_same _ _ _ _
@[simp] theorem State.reg_setReg_same (o : Nat) (v : Dword) : (s.setReg o v).reg o = v := SMap.get_set_same _ _ _ _

theorem State.weft_setWeft_ne {k j : Nat} (w : Weft) (h : j ≠ k) : (s.setWeft k w).weft j = s.weft j := SMap.get_set_ne _ _ _ h
theorem State.team_setTeam_ne {t j : Nat} (x : Team) (h : j ≠ t) : (s.setTeam t x).team j = s.team j := SMap.get_set_ne _ _ _ h
theorem State.core_setCore_ne {c j : Nat} (x : Core) (h : j ≠ c) : (s.setCore c x).core j = s.core j := SMap.get_set_ne _ _ _ h
theorem State.reg_setReg_ne {o j : Nat} (v : Dword) (h : j ≠ o) : (s.setReg o v).reg j = s.reg j := SMap.get_set_ne _ _ _ h

/-- A byte of memory after a write. -/
theorem State.byte_writeMem (pa a : Nat) (bs : List Byte) :
    (s.writeMem pa bs).byte a = if h : pa ≤ a ∧ a < pa + bs.length then bs[a - pa]'(by omega) else s.byte a := SMap.get_write _ _ _ _ _

@[simp] theorem State.modWeft_eq (k : Nat) (f : Weft → Weft) : s.modWeft k f = s.setWeft k (f (s.weft k)) := rfl
@[simp] theorem State.modTeam_eq (t : Nat) (f : Team → Team) : s.modTeam t f = s.setTeam t (f (s.team t)) := rfl
@[simp] theorem State.modCore_eq (c : Nat) (f : Core → Core) : s.modCore c f = s.setCore c (f (s.core c)) := rfl
@[simp] theorem State.modCluster_eq (c : Nat) (f : Cluster → Cluster) : s.modCluster c f = s.setCluster c (f (s.cluster c)) := rfl

/-! ## Registers of a weft -/

variable (w : Weft)

@[simp] theorem Weft.setMaskReg_flow (n : Nat) (v : Mask) : (w.setMaskReg n v).flow = w.flow := rfl
@[simp] theorem Weft.setMaskReg_trap (n : Nat) (v : Mask) : (w.setMaskReg n v).trap = w.trap := rfl
@[simp] theorem Weft.setMaskReg_hist (n : Nat) (v : Mask) : (w.setMaskReg n v).hist = w.hist := rfl
@[simp] theorem Weft.setMaskReg_flags (n : Nat) (v : Mask) : (w.setMaskReg n v).flags = w.flags := rfl
@[simp] theorem Weft.setMaskReg_flights (n : Nat) (v : Mask) : (w.setMaskReg n v).flights = w.flights := rfl
@[simp] theorem Weft.setMaskReg_stores (n : Nat) (v : Mask) : (w.setMaskReg n v).stores = w.stores := rfl
@[simp] theorem Weft.setMaskReg_width (n : Nat) (v : Mask) : (w.setMaskReg n v).width = w.width := rfl
@[simp] theorem Weft.setFflag_flow (L : Nat) (b : Byte) : (w.setFflag L b).flow = w.flow := rfl
@[simp] theorem Weft.setFflag_trap (L : Nat) (b : Byte) : (w.setFflag L b).trap = w.trap := rfl
@[simp] theorem Weft.setFflag_hist (L : Nat) (b : Byte) : (w.setFflag L b).hist = w.hist := rfl
@[simp] theorem Weft.setFflag_width (L : Nat) (b : Byte) : (w.setFflag L b).width = w.width := rfl
@[simp] theorem Weft.countFlag_flow (n : Nat) : (w.countFlag n).flow = w.flow := rfl
@[simp] theorem Weft.countFlag_regs (n : Nat) : (w.countFlag n).regs = w.regs := rfl
@[simp] theorem Weft.countFlag_flights (n : Nat) : (w.countFlag n).flights = w.flights := rfl
@[simp] theorem Weft.countFlag_count (n : Nat) : (w.countFlag n).flagCount n = w.flagCount n + 1 := by
  simp [Weft.flagCount, Weft.countFlag]
@[simp] theorem Weft.dropFlag_flow (n : Nat) : (w.dropFlag n).flow = w.flow := rfl
@[simp] theorem Weft.dropFlag_regs (n : Nat) : (w.dropFlag n).regs = w.regs := rfl
@[simp] theorem Weft.dropFlag_count (n : Nat) : (w.dropFlag n).flagCount n = w.flagCount n - 1 := by
  simp [Weft.flagCount, Weft.dropFlag]

/-- A mask register after a write of m1 to m7 keeps the lanes below the width (02_threads R36). -/
theorem Weft.maskReg_setMaskReg (n : Nat) (v : Mask) (h : n ≠ 0) : (w.setMaskReg n v).maskReg n = v &&& fullMask w.width := by
  simp [Weft.maskReg, Weft.setMaskReg, h]

theorem Weft.maskReg_setMaskReg_ne {n j : Nat} (v : Mask) (h : j ≠ n) : (w.setMaskReg n v).maskReg j = w.maskReg j := by
  unfold Weft.maskReg Weft.setMaskReg
  split
  · rfl
  · exact SMap.get_set_ne _ _ _ h

end Sys2Proof.Machine
end

