-- ==== Sys2Proof/Laws/Issue.lean ====
section
/-!
SUPPORT. What issue and retirement can do: an instruction whose form takes effect does what its body does, and its weft goes on.
-/

namespace Sys2Proof.Machine

/-- The effect of a body as issue retires it: the irreversible class pushes one BARRIER record and has no undo entry. -/
def Info.finish (i : Info) (c : Ctx) (e : Eff) : Eff := if i.irrev then { e with recs := [barrierRec c], noUndo := true } else e

/-- An instruction that takes effect does what its body does. -/
theorem issue_of_issues {i : Info} {body : Ctx → State → Except Stop Eff} {s : State} (h : issues i s = true) :
    issue i body s = match body (i.ctx s) s with
      | .error st => finishStop (i.ctx s) s st
      | .ok e => .next (retire (i.ctx s) s.me (i.finish (i.ctx s) e)) := by
  unfold issues at h
  simp only [Bool.and_eq_true, Bool.or_eq_true, Bool.not_eq_true', Option.isNone_iff_eq_none, bne_iff_ne, ne_eq,
    List.isEmpty_iff, beq_iff_eq] at h
  obtain ⟨⟨⟨⟨⟨⟨⟨⟨⟨⟨h1, h2⟩, h3⟩, ha⟩, h4⟩, h5⟩, h6⟩, h7⟩, h8⟩, h9⟩, -⟩ := h
  have hq : ¬ ((i.quiet && !s.me.guarded.isEmpty || i.touches && s.me.acquiring) = true) := by
    rcases h3 with h3 | h3 <;> rcases ha with ha | ha <;> simp [h3, ha]
  have hu : ¬ (i.u = true ∧ (i.ctx s).active = 0 ∧ (!i.selfEmpty) = true) := by
    rintro ⟨a, b, c⟩
    rcases h6 with (h6 | h6) | h6
    · rw [a] at h6; cases h6
    · exact h6 b
    · rw [h6] at c; cases c
  have hl : ¬ (i.irrev = true ∧ s.me.lanesPending = true) := fun x => by
    rcases h7 with h7 | h7
    · rw [x.1] at h7; cases h7
    · rw [x.2] at h7; cases h7.1.1
  have hc : ¬ (i.irrev = true ∧ s.me.sched.uncommitted = true) := fun x => by
    rcases h7 with h7 | h7
    · rw [x.1] at h7; cases h7
    · rw [x.2] at h7; cases h7.1.2
  have hb : (if i.irrev then s.boundary s.cur 2 (contribution (i.ctx s) s.me) else none) = none := by
    by_cases hr : i.irrev = true
    · rw [if_pos hr]
      rcases h7 with h7 | ⟨-, h7⟩
      · rw [hr] at h7; cases h7
      · exact if_pos (or_assoc.mp h7)
    · exact if_neg hr
  have hroom : ¬ (s.me.recording = true ∧ (!s.me.hist.room ((i.ctx s).estimate s s.me)) = true) := fun x => by
    rcases h8 with h8 | h8
    · rw [x.1] at h8; cases h8
    · rw [h8] at x; cases x.2
  have ht : tryIssue (i.ctx s) body s.me s = match body (i.ctx s) s with
      | .error st => .error st
      | .ok e => .ok (retire (i.ctx s) s.me (i.finish (i.ctx s) e)) := by
    have hi : (i.ctx s).i = i := rfl
    unfold tryIssue runBody
    simp only [hi, if_neg hq, h4, h5, if_neg hl, if_neg hc, if_neg hroom, if_neg hu, Bool.false_eq_true, if_false, h9]
    simp only [show (i.ctx s).k = s.cur from rfl, hb]
    rfl
  have hat : i.at s.cur (s.weft s.cur) = i.ctx s := rfl
  have h2' : ((s.weft s.cur).nextImprecise fun x => x.gate.isNone) = none := h2
  have ht' : tryIssue (i.ctx s) body (s.weft s.cur) s = _ := ht
  unfold issue
  simp only [h1, Bool.not_true, Bool.false_eq_true, if_false, hat, h2', ht']
  cases body (i.ctx s) s <;> rfl

/-- An instruction that accesses memory has taken effect: what its body leaves, as a step leaves it. -/
theorem issueMem_of_issues {i : Info} {body : Ctx → State → Except Stop Eff} {s : State} {e : Eff} (h : issues i s = true)
    (hb : body (i.ctx s) s = .ok e) : issueMem i body s = .next (s.after (retire (i.ctx s) s.me (i.finish (i.ctx s) e))) := by
  unfold issueMem taken
  rw [issue_of_issues h, hb]

/-- A step that met no access that must wait, and no error of DRAM, leaves the state that it computed; frames' bits that wait are set. -/
theorem State.after_of_clear {s t : State} (hv : t.viral = s.viral) (hb : t.coh.blocked = false) :
    s.after t = applyOrs { t with coh := { t.coh with actor := none } } := by
  unfold State.after State.metError
  rw [hv, hb]
  cases s.viral <;> rfl

/-- The same where no bits wait. -/
theorem State.after_of_plain {s t : State} (hv : t.viral = s.viral) (hb : t.coh.blocked = false) (ho : t.coh.ors = []) :
    s.after t = { t with coh := { t.coh with actor := none } } := by
  rw [State.after_of_clear hv hb]
  unfold applyOrs
  simp only [ho, List.foldl_nil]

/-! ## Retirement -/

/-- Pushing records moves HSP and writes words; the stack's bounds and modes stay. -/
theorem pushAll_frame (ic : Dword) : ∀ (rs : List Rec) (h : Hist),
    h.pushAll ic rs = { h with words := (h.pushAll ic rs).words, hsp := (h.pushAll ic rs).hsp } := by
  intro rs
  induction rs with
  | nil => intro h; rfl
  | cons r t ih =>
    intro h
    have := ih (h.push ic r)
    show (h.push ic r).pushAll ic t = _
    rw [this]
    rfl

theorem pushIf_frame (w old : Weft) (rs : List Rec) :
    w.pushIf old rs = { w with hist := { w.hist with words := (w.pushIf old rs).hist.words, hsp := (w.pushIf old rs).hist.hsp } } := by
  unfold Weft.pushIf
  split
  · conv_lhs => rw [pushAll_frame]
  · rfl

theorem pushIf_silent {w old : Weft} (rs : List Rec) (h : old.recording = false) : w.pushIf old rs = w := by
  unfold Weft.pushIf
  rw [h]; rfl

theorem turnTick_frame (w : Weft) : w.turnTick = { w with sched := { w.sched with turnLeft := w.turnTick.sched.turnLeft } } := by
  unfold Weft.turnTick
  split <;> rfl

/-- Counting a retirement changes IC, the undo entry, LASTPC and the turn. -/
theorem counted_frame (w old : Weft) (pc : Dword) (undo : Option Undo) :
    w.counted old pc undo = { w with
      flow := { w.flow with ic := if old.trap.handler then w.flow.ic else old.flow.ic + 1 }
      hist := { w.hist with undo := (w.counted old pc undo).hist.undo, lastPc := (w.counted old pc undo).hist.lastPc }
      sched := { w.sched with turnLeft := (w.counted old pc undo).sched.turnLeft } } := by
  unfold Weft.counted
  split
  · rfl
  · rw [turnTick_frame]

theorem pastBoundary_frame (w old : Weft) : w.pastBoundary old = { w with seg := (w.pastBoundary old).seg } := by
  unfold Weft.pastBoundary
  split <;> rfl

/-- What a retirement that goes on to the next word makes of a weft `w`, that of its effect: nothing changes but its place in the code, the
history, the turn and the segment; without recording the history stack stays. -/
structure GoesOn (c : Ctx) (old w w' : Weft) : Prop where
  frame : w' = { w with
    hist := { w.hist with words := w'.hist.words, hsp := w'.hist.hsp, undo := w'.hist.undo, lastPc := w'.hist.lastPc }
    seg := w'.seg, sched := { w.sched with turnLeft := w'.sched.turnLeft }
    flow := { w.flow with
      pc := c.next, entry := .body, ic := if old.trap.handler then w.flow.ic else old.flow.ic + 1 } }
  silent : old.recording = false → w'.hist.words = w.hist.words ∧ w'.hist.hsp = w.hist.hsp

theorem retire_next {c : Ctx} {old : Weft} {e : Eff} (hf : e.fin = .next)
    (hl : ¬ ((e.s.weft c.k).flow.active = 0 ∧ (e.s.weft c.k).lanesPending = true)) :
    ∃ w', retire c old e = e.s.setWeft c.k w' ∧ GoesOn c old (e.s.weft c.k) w' := by
  unfold retire
  simp only [hf]
  generalize e.s.weft c.k = w at hl ⊢
  rw [if_neg (fun h => hl ⟨h.1.1, h.1.2⟩)]
  generalize (if e.noUndo = true then none else some ({ ic := old.flow.ic, recs := e.data old w } : Undo)) = undo
  generalize e.data old w ++ e.divs = rs
  refine ⟨_, rfl, ?_, ?_⟩
  · rw [pastBoundary_frame, counted_frame]
    unfold goNext
    rw [pushIf_frame]
  · intro hr
    rw [pastBoundary_frame, counted_frame]
    unfold goNext
    rw [pushIf_silent _ hr]
    exact ⟨rfl, rfl⟩

end Sys2Proof.Machine
end

