-- ==== Sys2Proof/Laws/Regs.lean ====
section
/-!
SUPPORT. Registers after writes of runs of words, and operands as words and pairs.
-/

namespace Sys2Proof.Machine

theorem lanesOf_lt {w : Nat} {m : Mask} {L : Nat} (h : L ∈ lanesOf w m) : L < 64 := by
  unfold lanesOf at h
  rw [List.mem_filter] at h
  by_contra hn
  have : m.getLsbD L = false := BitVec.getLsbD_of_ge m L (by omega)
  rw [this] at h; exact absurd h.2 (by simp)

theorem lowestLane_lt (w : Nat) (m : Mask) : lowestLane w m < 64 := by
  unfold lowestLane
  cases h : lanesOf w m with
  | nil => simp
  | cons a t => exact lanesOf_lt (w := w) (m := m) (by rw [h]; simp)

/-! ## One word -/

theorem getV_setV (r : Regs) (p q L M : Nat) (x : Word) (hL : L < 64) (hM : M < 64) :
    (r.setV p L x).getV q M = if q = p ∧ M = L then x else r.getV q M := by
  unfold Regs.getV Regs.setV
  rw [SMap.get_set]
  by_cases h : q = p ∧ M = L
  · rw [if_pos (by omega), if_pos h]
  · rw [if_neg (by omega), if_neg h]

@[simp] theorem getS_setV (r : Regs) (p L n : Nat) (x : Word) : (r.setV p L x).getS n = r.getS n := rfl
@[simp] theorem getV_setS (r : Regs) (p L n : Nat) (x : Word) : (r.setS n x).getV p L = r.getV p L := rfl

theorem getS_setS (r : Regs) (n j : Nat) (x : Word) : (r.setS n x).getS j = if j = n then x else r.getS j := SMap.get_set _ _ _ _ _

/-! ## Runs of words -/

theorem getV_setWordsV (L : Nat) (hL : L < 64) : ∀ (ws : List Word) (r : Regs) (p q M : Nat), M < 64 →
    (r.setWordsV p L ws).getV q M = if h : M = L ∧ p ≤ q ∧ q < p + ws.length then ws[q - p]'(by omega) else r.getV q M := by
  intro ws
  induction ws with
  | nil => intro r p q M hM; simp [Regs.setWordsV]
  | cons x t ih =>
    intro r p q M hM
    simp only [Regs.setWordsV]
    rw [ih _ _ _ _ hM]
    by_cases h : M = L ∧ p + 1 ≤ q ∧ q < p + 1 + t.length
    · have h' : M = L ∧ p ≤ q ∧ q < p + (x :: t).length := by simp only [List.length_cons]; omega
      rw [dif_pos h, dif_pos h']
      have e : q - p = (q - (p + 1)) + 1 := by omega
      simp [e]
    · rw [dif_neg h, getV_setV _ _ _ _ _ _ hL hM]
      by_cases h1 : q = p ∧ M = L
      · have h' : M = L ∧ p ≤ q ∧ q < p + (x :: t).length := by simp only [List.length_cons]; omega
        rw [if_pos h1, dif_pos h']
        simp [h1.1]
      · have h' : ¬ (M = L ∧ p ≤ q ∧ q < p + (x :: t).length) := by simp only [List.length_cons]; omega
        rw [if_neg h1, dif_neg h']

theorem getS_setWordsS : ∀ (ws : List Word) (r : Regs) (n j : Nat),
    (r.setWordsS n ws).getS j = if h : n ≤ j ∧ j < n + ws.length then ws[j - n]'(by omega) else r.getS j := by
  intro ws
  induction ws with
  | nil => intro r n j; simp [Regs.setWordsS]
  | cons x t ih =>
    intro r n j
    simp only [Regs.setWordsS]
    rw [ih]
    by_cases h : n + 1 ≤ j ∧ j < n + 1 + t.length
    · have h' : n ≤ j ∧ j < n + (x :: t).length := by simp only [List.length_cons]; omega
      rw [dif_pos h, dif_pos h']
      have e : j - n = (j - (n + 1)) + 1 := by omega
      simp [e]
    · rw [dif_neg h, getS_setS]
      by_cases h1 : j = n
      · have h' : n ≤ j ∧ j < n + (x :: t).length := by simp only [List.length_cons]; omega
        rw [if_pos h1, dif_pos h']
        simp [h1]
      · have h' : ¬ (n ≤ j ∧ j < n + (x :: t).length) := by simp only [List.length_cons]; omega
        rw [if_neg h1, dif_neg h']

theorem setWordsV_frame : ∀ (ws : List Word) (r : Regs) (p L : Nat), r.setWordsV p L ws = { r with v := (r.setWordsV p L ws).v } := by
  intro ws
  induction ws with
  | nil => intro r p L; rfl
  | cons x t ih =>
    intro r p L
    show (r.setV p L x).setWordsV (p + 1) L t = _
    rw [ih]
    rfl

theorem setWordsS_frame : ∀ (ws : List Word) (r : Regs) (n : Nat), r.setWordsS n ws = { r with s := (r.setWordsS n ws).s } := by
  intro ws
  induction ws with
  | nil => intro r n; rfl
  | cons x t ih =>
    intro r n
    show (r.setS n x).setWordsS (n + 1) t = _
    rw [ih]
    rfl

/-! ## Operands -/

@[simp] theorem w32_joinWords_one (x : Word) : w32 (joinWords [x]) = x := by simp [w32, joinWords]

theorem w64_joinWords_two (x y : Word) : w64 (joinWords [x, y]) = pairOf x y := by
  unfold w64 joinWords joinWords joinWords pairOf
  apply BitVec.eq_of_getLsbD_eq
  intro i hi
  simp only [BitVec.getLsbD_setWidth, BitVec.getLsbD_or, BitVec.getLsbD_shiftLeft, BitVec.getLsbD_append]
  by_cases h : i < 32
  · simp [h, show i < 128 by omega, hi]
  · have hx : x.getLsbD i = false := BitVec.getLsbD_of_ge x i (by omega)
    simp [h, hx, hi, show i < 128 by omega, show i - 32 < 128 by omega]

theorem w32_readOp (w : Weft) (sc : Bool) (r : Reg) (L : Nat) : w32 (readOp w sc (.reg 1) r L) = wordAt w sc r L := by
  unfold readOp wordAt
  cases sc <;> simp [RK.words, Regs.wordsS, Regs.wordsV, List.range_succ]

theorem w64_readOp (w : Weft) (sc : Bool) (r : Reg) (L : Nat) : w64 (readOp w sc (.reg 2) r L) = pairAt w sc r L := by
  unfold readOp pairAt
  cases sc <;> simp [RK.words, Regs.wordsS, Regs.wordsV, List.range_succ, w64_joinWords_two]

theorem splitWords_length : ∀ (n : Nat) (v : BitVec 128), (splitWords n v).length = n := by
  intro n
  induction n with
  | zero => intro v; rfl
  | succ n ih => intro v; simp [splitWords, ih]

/-! ## Writing a destination -/

/-- A per-thread register of any lane after the destination of one lane is written. -/
theorem getV_writeD (w : Weft) (c : Ctx) (L q M : Nat) (v : BitVec 128) (hL : L < 64) (hM : M < 64) (hu : c.i.u = false) :
    (writeD w c L v).regs.getV q M =
      if h : M = L ∧ physReg w.regs c.i.d.toNat ≤ q ∧ q < physReg w.regs c.i.d.toNat + c.i.dk.words
      then (splitWords c.i.dk.words v)[q - physReg w.regs c.i.d.toNat]'(by rw [splitWords_length]; omega)
      else w.regs.getV q M := by
  unfold writeD
  simp only [hu, Bool.false_eq_true, if_false]
  rw [getV_setWordsV L hL _ _ _ _ _ hM]
  simp only [splitWords_length]

theorem getS_writeD (w : Weft) (c : Ctx) (L j : Nat) (v : BitVec 128) (hu : c.i.u = true) :
    (writeD w c L v).regs.getS j =
      if h : c.i.d.toNat ≤ j ∧ j < c.i.d.toNat + c.i.dk.words
      then (splitWords c.i.dk.words v)[j - c.i.d.toNat]'(by rw [splitWords_length]; omega)
      else w.regs.getS j := by
  unfold writeD
  simp only [hu, if_true]
  rw [getS_setWordsS]
  simp only [splitWords_length]

/-- Two states of a weft differ in per-thread registers and scalars alone. -/
def SameButWords (w w' : Weft) : Prop := ∃ v s, w' = { w with regs := { w.regs with v := v, s := s } }

theorem SameButWords.trans {a b c : Weft} (h : SameButWords a b) (k : SameButWords b c) : SameButWords a c := by
  obtain ⟨v, s, rfl⟩ := h
  obtain ⟨v', s', rfl⟩ := k
  exact ⟨v', s', rfl⟩

theorem SameButWords.refl (w : Weft) : SameButWords w w := ⟨w.regs.v, w.regs.s, rfl⟩

theorem SameButWords.wb {w w' : Weft} (h : SameButWords w w') : w'.regs.wb = w.regs.wb := by obtain ⟨v, s, rfl⟩ := h; rfl

theorem SameButWords.phys {w w' : Weft} (h : SameButWords w w') (n : Nat) : physReg w'.regs n = physReg w.regs n := by
  unfold physReg; rw [h.wb]

theorem writeD_frame (w : Weft) (c : Ctx) (L : Nat) (v : BitVec 128) : SameButWords w (writeD w c L v) := by
  unfold writeD
  cases c.i.u
  · simp only [Bool.false_eq_true, if_false]
    exact ⟨(w.regs.setWordsV (physReg w.regs c.i.d.toNat) L (splitWords c.i.dk.words v)).v, w.regs.s,
      congrArg (fun r => { w with regs := r }) (setWordsV_frame _ _ _ _)⟩
  · simp only [if_true]
    exact ⟨w.regs.v, (w.regs.setWordsS c.i.d.toNat (splitWords c.i.dk.words v)).s,
      congrArg (fun r => { w with regs := r }) (setWordsS_frame _ _ _)⟩

theorem writeD_s (w : Weft) (c : Ctx) (L : Nat) (v : BitVec 128) (hu : c.i.u = false) : (writeD w c L v).regs.s = w.regs.s := by
  unfold writeD
  simp only [hu, Bool.false_eq_true, if_false]
  rw [setWordsV_frame]

theorem writeD_v (w : Weft) (c : Ctx) (L : Nat) (v : BitVec 128) (hu : c.i.u = true) : (writeD w c L v).regs.v = w.regs.v := by
  unfold writeD
  simp only [hu, if_true]
  rw [setWordsS_frame]

/-! ## Writing the destinations of several lanes -/

/-- Each lane of a list is written with its value. -/
def writeLanes (c : Ctx) (f : Nat → BitVec 128) (ls : List Nat) (w : Weft) : Weft := ls.foldl (fun w L => writeD w c L (f L)) w

theorem writeLanes_frame (c : Ctx) (f : Nat → BitVec 128) : ∀ (ls : List Nat) (w : Weft), SameButWords w (writeLanes c f ls w) := by
  intro ls
  induction ls with
  | nil => intro w; exact SameButWords.refl w
  | cons a t ih => intro w; exact (writeD_frame w c a (f a)).trans (ih _)

theorem getV_writeLanes (c : Ctx) (f : Nat → BitVec 128) (hu : c.i.u = false) : ∀ (ls : List Nat) (w : Weft) (q M : Nat),
    (∀ L ∈ ls, L < 64) → M < 64 →
    (writeLanes c f ls w).regs.getV q M =
      if h : M ∈ ls ∧ physReg w.regs c.i.d.toNat ≤ q ∧ q < physReg w.regs c.i.d.toNat + c.i.dk.words
      then (splitWords c.i.dk.words (f M))[q - physReg w.regs c.i.d.toNat]'(by rw [splitWords_length]; omega)
      else w.regs.getV q M := by
  intro ls
  induction ls with
  | nil => intro w q M _ _; simp [writeLanes]
  | cons a t ih =>
    intro w q M hl hM
    have ha : a < 64 := hl a (by simp)
    have hp : physReg (writeD w c a (f a)).regs c.i.d.toNat = physReg w.regs c.i.d.toNat := (writeD_frame w c a (f a)).phys _
    show (writeLanes c f t (writeD w c a (f a))).regs.getV q M = _
    rw [ih _ _ _ (fun L h => hl L (List.mem_cons_of_mem _ h)) hM]
    simp only [hp]
    by_cases h1 : M ∈ t ∧ physReg w.regs c.i.d.toNat ≤ q ∧ q < physReg w.regs c.i.d.toNat + c.i.dk.words
    · rw [dif_pos h1, dif_pos ⟨List.mem_cons_of_mem _ h1.1, h1.2⟩]
    · rw [dif_neg h1, getV_writeD _ _ _ _ _ _ ha hM hu]
      by_cases h2 : M = a ∧ physReg w.regs c.i.d.toNat ≤ q ∧ q < physReg w.regs c.i.d.toNat + c.i.dk.words
      · rw [dif_pos h2, dif_pos ⟨by simp [h2.1], h2.2⟩]
        simp only [h2.1]
      · have h3 : ¬ (M ∈ a :: t ∧ physReg w.regs c.i.d.toNat ≤ q ∧ q < physReg w.regs c.i.d.toNat + c.i.dk.words) := by
          rintro ⟨hm, hq⟩
          rcases List.mem_cons.1 hm with hm | hm
          · exact h2 ⟨hm, hq⟩
          · exact h1 ⟨hm, hq⟩
        rw [dif_neg h2, dif_neg h3]

theorem writeLanes_s (c : Ctx) (f : Nat → BitVec 128) (hu : c.i.u = false) : ∀ (ls : List Nat) (w : Weft),
    (writeLanes c f ls w).regs.s = w.regs.s := by
  intro ls
  induction ls with
  | nil => intro w; rfl
  | cons a t ih =>
    intro w
    show (writeLanes c f t (writeD w c a (f a))).regs.s = _
    rw [ih, writeD_s _ _ _ _ hu]

theorem writeLanes_v (c : Ctx) (f : Nat → BitVec 128) (hu : c.i.u = true) : ∀ (ls : List Nat) (w : Weft),
    (writeLanes c f ls w).regs.v = w.regs.v := by
  intro ls
  induction ls with
  | nil => intro w; rfl
  | cons a t ih =>
    intro w
    show (writeLanes c f t (writeD w c a (f a))).regs.v = _
    rw [ih, writeD_v _ _ _ _ hu]

end Sys2Proof.Machine
end

