-- ==== Sys2Proof/Laws/Alu.lean ====
section
/-!
SUPPORT. What the register instructions can do: a lane function whose lanes neither fault nor raise flags leaves its results in the
destination, and nothing else changes.
-/

namespace Sys2Proof.Machine

theorem lane_ctx (i : Info) (s : State) (L : Nat) :
    (i.ctx s).lane s.me L = { lane := L, a := readOp s.me i.aScalar i.ak i.a L, b := readOp s.me i.bScalar i.bk i.b L
                              c := readOp s.me i.u i.ck i.c L, d := readOp s.me i.u i.dk i.d L } := rfl

/-- The lane function's operands at an instruction of a form. -/
def Info.lane (i : Info) (s : State) (L : Nat) : LaneIn := (i.ctx s).lane s.me L

theorem computing_eq (i : Info) (s : State) : (i.ctx s).computing s.me = i.lanes s := rfl

theorem lanes_lt {i : Info} {s : State} {L : Nat} (h : L ∈ i.lanes s) : L < 64 := by
  unfold Info.lanes at h
  split at h
  · rw [List.mem_singleton] at h; rw [h]; exact lowestLane_lt _ _
  · exact lanesOf_lt h

theorem zlanes_lt {i : Info} {s : State} {L : Nat} (h : L ∈ i.zlanes s) : L < 64 := lanesOf_lt h

/-- A form that takes effect is legal. -/
theorem legal_of_issues {i : Info} {s : State} (h : issues i s = true) : i.legal = true := by
  unfold issues at h
  simp only [Bool.and_eq_true, Option.isNone_iff_eq_none] at h
  have hd := h.1.1.1.1.1.1.2
  by_contra hn
  have hn' : i.legal = false := by simpa using hn
  unfold decodeStop at hd
  rw [hn'] at hd
  split at hd
  · simp at hd
  · simp only [Bool.not_false, if_true] at hd
    repeat (split at hd <;> try simp at hd)

/-- z zeroes no lane of a uniform form. -/
theorem zlanes_uniform {i : Info} {s : State} (h : issues i s = true) (hu : i.u = true) : i.zlanes s = [] := by
  have hz : i.zeroedOf s.me = 0 := by
    have hl := legal_of_issues h
    unfold Info.legal at hl
    simp only [Bool.and_eq_true] at hl
    have hp := hl.1.1.1.1.1.1
    unfold Info.zeroedOf
    cases hx : i.p with
    | none => rfl
    | some x =>
      rw [hx] at hp
      have hp' : i.prefixOk x = true := by simpa using hp
      unfold Info.prefixOk at hp'
      simp only [Bool.and_eq_true, Bool.or_eq_true, Bool.not_eq_true'] at hp'
      have hzz := hp'.1.1.1.1.1.2
      rcases hzz with hzz | hzz
      · simp [hzz]
      · rw [hu] at hzz; simp at hzz
  unfold Info.zlanes
  rw [hz]
  unfold lanesOf
  simp

theorem filter_none {β : Type} (l : List β) (p : β → Bool) (h : ∀ x ∈ l, p x = false) : l.filter p = [] := by
  rw [List.filter_eq_nil_iff]
  intro x hx; simp [h x hx]

/-- Results without faults and flags are the results of the lanes, and change no weft but by their values. -/
theorem applyFaults_clean {rs : List (Nat × LaneOut)} (w : Weft) (h : ∀ r ∈ rs, r.2.fault = none ∧ r.2.flags = 0) :
    applyFaults rs w = w := by
  unfold applyFaults
  induction rs with
  | nil => rfl
  | cons r t ih =>
    obtain ⟨h1, h2⟩ := h r (by simp)
    simp only [List.foldl_cons, h1, h2, if_true]
    exact ih fun x hx => h x (List.mem_cons_of_mem _ hx)

theorem faultMask_clean {rs : List (Nat × LaneOut)} (h : ∀ r ∈ rs, r.2.fault = none) : faultMask rs = 0 := by
  unfold faultMask
  rw [filter_none _ _ (fun r hr => by simp [h r hr])]
  rfl

theorem writeResults_clean {rs : List (Nat × LaneOut)} {c : Ctx} {w : Weft} (ls : List Nat) (g : Nat → LaneOut)
    (hrs : rs = ls.map fun L => (L, g L)) (h : ∀ L ∈ ls, (g L).fault = none) :
    writeResults rs c w = zeroLanes (writeLanes c (fun L => (g L).val) ls w) c := by
  subst hrs
  unfold writeResults writeLanes
  congr 1
  induction ls generalizing w with
  | nil => rfl
  | cons a t ih =>
    simp only [List.map_cons, List.foldl_cons, h a (by simp), Option.isSome_none, Bool.false_eq_true, if_false]
    exact ih fun L hL => h L (List.mem_cons_of_mem _ hL)

theorem zeroLanes_eq (c : Ctx) (w w0 : Weft) (h : SameButWords w0 w) :
    zeroLanes w c = writeLanes c (fun _ => 0) (lanesOf w0.width c.zeroed) w := by
  have : w.width = w0.width := by obtain ⟨v, s, rfl⟩ := h; rfl
  unfold zeroLanes writeLanes
  rw [this]

/-- The weft after a clean lane function. -/
def laneWeft (i : Info) (s : State) (g : Nat → BitVec 128) : Weft :=
  writeLanes (i.ctx s) (fun _ => 0) (i.zlanes s) (writeLanes (i.ctx s) g (i.lanes s) s.me)

theorem laneWeft_frame (i : Info) (s : State) (g : Nat → BitVec 128) : SameButWords s.me (laneWeft i s g) :=
  (writeLanes_frame _ _ _ _).trans (writeLanes_frame _ _ _ _)

/-- A lane function whose lanes are clean writes their results. -/
theorem laneEffect_clean {push : Bool} {f : LaneFn} {i : Info} {s : State}
    (hf : ∀ L ∈ i.lanes s, (f (i.lane s L)).fault = none ∧ (f (i.lane s L)).flags = 0) :
    laneEffect push f (i.ctx s) s = .ok { s := s.setWeft s.cur (laneWeft i s fun L => (f (i.lane s L)).val)
                                          recs := if push then destRecs s.me (i.ctx s) else [] } := by
  have hrs : laneResults f (i.ctx s) s.me = (i.lanes s).map fun L => (L, f (i.lane s L)) := rfl
  have hfa : ∀ r ∈ laneResults f (i.ctx s) s.me, r.2.fault = none ∧ r.2.flags = 0 := by
    rw [hrs]; intro r hr
    rw [List.mem_map] at hr
    obtain ⟨L, hL, rfl⟩ := hr
    exact hf L hL
  unfold laneEffect
  have e1 : s.weft (i.ctx s).k = s.me := rfl
  simp only [e1]
  rw [applyFaults_clean _ hfa, writeResults_clean (i.lanes s) (fun L => f (i.lane s L)) hrs (fun L hL => (hf L hL).1)]
  have e2 : survivors (i.ctx s) (laneResults f (i.ctx s) s.me) = i.ctx s := by
    unfold survivors
    rw [faultMask_clean fun r hr => (hfa r hr).1]
    show { i.ctx s with active := (i.ctx s).active &&& ~~~(0 : Mask) } = i.ctx s
    have : (i.ctx s).active &&& ~~~(0 : Mask) = (i.ctx s).active := by
      rw [show ~~~(0 : Mask) = BitVec.allOnes 64 by decide, BitVec.and_allOnes]
    rw [this]
  rw [e2, zeroLanes_eq _ _ _ (writeLanes_frame _ _ _ _)]
  rfl

/-- The weft that a clean lane function leaves, after its retirement. -/
theorem lane_retires {push : Bool} {f : LaneFn} {i : Info} {s : State} (h : issues i s = true)
    (hf : ∀ L ∈ i.lanes s, (f (i.lane s L)).fault = none ∧ (f (i.lane s L)).flags = 0) :
    ∃ w', issue i (laneEffect push f) s = .next ((s.setWeft s.cur (laneWeft i s fun L => (f (i.lane s L)).val)).setWeft s.cur w')
      ∧ GoesOn (i.ctx s) s.me (laneWeft i s fun L => (f (i.lane s L)).val) w' := by
  rw [issue_of_issues h, laneEffect_clean hf]
  have hact : ¬ (s.me.flow.active = 0 ∧ s.me.lanesPending = true) := by
    unfold issues at h
    simp only [Bool.and_eq_true, Bool.or_eq_true, bne_iff_ne, Bool.not_eq_true'] at h
    rintro ⟨a, b⟩
    rcases h.2 with h2 | h2
    · exact h2 a
    · rw [b] at h2; cases h2
  generalize hw : laneWeft i s (fun L => (f (i.lane s L)).val) = w
  have hfr : SameButWords s.me w := hw ▸ laneWeft_frame _ _ _
  generalize hE : i.finish (i.ctx s) ({ s := s.setWeft s.cur w, recs := if push then destRecs s.me (i.ctx s) else [] } : Eff) = E
  have e1 : E.fin = .next := by rw [← hE]; unfold Info.finish; split <;> rfl
  have e2 : E.s = s.setWeft s.cur w := by rw [← hE]; unfold Info.finish; split <;> rfl
  have e3 : E.s.weft (i.ctx s).k = w := by rw [e2]; exact State.weft_setWeft_same _ _ _
  have hact' : ¬ ((E.s.weft (i.ctx s).k).flow.active = 0 ∧ (E.s.weft (i.ctx s).k).lanesPending = true) := by
    rw [e3]
    obtain ⟨v, x, rfl⟩ := hfr
    exact hact
  obtain ⟨w', hr, hg⟩ := retire_next (c := i.ctx s) (old := s.me) e1 hact'
  refine ⟨w', ?_, ?_⟩
  · show Host.Outcome.next (retire (i.ctx s) s.me (i.finish (i.ctx s) _)) = _
    rw [hE, hr, e2]; rfl
  · rw [e3] at hg; exact hg

/-! ## The weft after a clean lane function -/

theorem ctx_u (i : Info) (s : State) : (i.ctx s).i = i := rfl

/-- Words of the destination's registers that a lane of the form reads after it. -/
theorem laneWeft_getV {i : Info} {s : State} {g : Nat → BitVec 128} (hu : i.u = false) (q : Nat) {M : Nat} (hM : M < 64) :
    (laneWeft i s g).regs.getV q M =
      if h : M ∈ i.zlanes s ∧ physReg s.me.regs i.d.toNat ≤ q ∧ q < physReg s.me.regs i.d.toNat + i.dk.words
      then (splitWords i.dk.words 0)[q - physReg s.me.regs i.d.toNat]'(by rw [splitWords_length]; omega)
      else if h : M ∈ i.lanes s ∧ physReg s.me.regs i.d.toNat ≤ q ∧ q < physReg s.me.regs i.d.toNat + i.dk.words
      then (splitWords i.dk.words (g M))[q - physReg s.me.regs i.d.toNat]'(by rw [splitWords_length]; omega)
      else s.me.regs.getV q M := by
  unfold laneWeft
  rw [getV_writeLanes (i.ctx s) (fun _ => 0) hu (i.zlanes s) _ q M (fun L h => zlanes_lt h) hM]
  rw [getV_writeLanes (i.ctx s) g hu (i.lanes s) s.me q M (fun L h => lanes_lt h) hM]
  simp only [(writeLanes_frame (i.ctx s) g (i.lanes s) s.me).phys, ctx_u]
  rfl

theorem laneWeft_getS_vec {i : Info} {s : State} {g : Nat → BitVec 128} (hu : i.u = false) (n : Nat) :
    (laneWeft i s g).regs.getS n = s.me.regs.getS n := by
  unfold laneWeft Regs.getS
  rw [writeLanes_s (i.ctx s) _ hu, writeLanes_s (i.ctx s) _ hu]

theorem laneWeft_getV_uni {i : Info} {s : State} {g : Nat → BitVec 128} (hu : i.u = true) (p L : Nat) :
    (laneWeft i s g).regs.getV p L = s.me.regs.getV p L := by
  unfold laneWeft Regs.getV
  rw [writeLanes_v (i.ctx s) _ hu, writeLanes_v (i.ctx s) _ hu]

/-- The scalars after a uniform form, which has one lane and zeroes none. -/
theorem laneWeft_getS {i : Info} {s : State} {g : Nat → BitVec 128} (h : issues i s = true) (hu : i.u = true) (j : Nat) :
    (laneWeft i s g).regs.getS j =
      if h : i.d.toNat ≤ j ∧ j < i.d.toNat + i.dk.words
      then (splitWords i.dk.words (g (lowestLane s.me.width (i.activeOf s.me))))[j - i.d.toNat]'(by rw [splitWords_length]; omega)
      else s.me.regs.getS j := by
  have hl : i.lanes s = [lowestLane s.me.width (i.activeOf s.me)] := if_pos hu
  unfold laneWeft
  rw [zlanes_uniform h hu, hl]
  exact getS_writeD s.me (i.ctx s) _ j _ hu

theorem splitWords_zero : ∀ (n k : Nat) (h : k < (splitWords n 0).length), (splitWords n 0)[k] = 0 := by
  intro n
  induction n with
  | zero => intro k h; simp [splitWords] at h
  | succ n ih =>
    intro k h
    cases k with
    | zero => simp [splitWords]
    | succ k =>
      simp only [splitWords, List.getElem_cons_succ]
      exact ih k (by simpa [splitWords] using h)

/-! ## The step -/

/-- Setting the weft whose turn it is, twice, sets it once, and no other weft. -/
theorem onlyWeft_setWeft (k : Nat) (s : State) (w w' : Weft) : OnlyWeft k s ((s.setWeft k w).setWeft k w') := by
  refine ⟨rfl, fun j hj => ?_⟩
  rw [State.weft_setWeft_ne _ _ hj, State.weft_setWeft_ne _ _ hj]

theorem registerStep_of_lane {i : Info} {n : Nat} {s : State} {g : Nat → BitVec 128} {w' : Weft} (h : issues i s = true)
    (hd : i.dk = .reg n) (hg : GoesOn (i.ctx s) s.me (laneWeft i s g) w') :
    RegisterStep i n s ((s.setWeft s.cur (laneWeft i s g)).setWeft s.cur w') := by
  have hw : i.dk.words = n := by rw [hd]; rfl
  have hr : w'.regs = (laneWeft i s g).regs := by rw [hg.frame]
  have hcur : (((s.setWeft s.cur (laneWeft i s g)).setWeft s.cur w').weft s.cur) = w' := State.weft_setWeft_same _ _ _
  have hb := laneWeft_frame i s g
  obtain ⟨v, x, hb'⟩ := hb
  refine ⟨onlyWeft_setWeft _ _ _ _, ?_, ?_, ?_, ?_, ?_⟩
  · rw [hcur]
    have e := hg.frame
    rw [hb'] at e
    exact ⟨by rw [e]; rfl, by rw [e]⟩
  · rw [hcur]
    have e := hg.frame
    rw [hb'] at e
    unfold SameControl
    rw [e]
  · rw [hcur]
    refine ⟨fun p L hL hp => ?_, fun j hj => ?_, fun j h0 _ => ?_, ?_, ?_, ?_⟩
    · rw [hr]
      by_cases hu : i.u = true
      · exact laneWeft_getV_uni hu _ _
      · have hu : i.u = false := by simpa using hu
        rw [laneWeft_getV hu _ hL]
        have : ¬ (physReg s.me.regs i.d.toNat ≤ p ∧ p < physReg s.me.regs i.d.toNat + n) := fun hc => hp ⟨hu, hc⟩
        rw [dif_neg (fun hc => this (hw ▸ hc.2)), dif_neg (fun hc => this (hw ▸ hc.2))]
    · rw [hr]
      by_cases hu : i.u = true
      · rw [laneWeft_getS h hu, dif_neg (fun hc => hj ⟨hu, hw ▸ hc⟩)]
      · exact laneWeft_getS_vec (by simpa using hu) _
    · unfold Weft.maskReg
      have e := hg.frame
      rw [hb'] at e
      rw [e]
    all_goals
      rw [hg.frame, hb']
  · rw [hcur]
    intro p L hL hu hl hz
    rw [hr, laneWeft_getV hu _ hL, dif_neg (fun hc => hz hc.1), dif_neg (fun hc => hl hc.1)]
  · rw [hcur]
    have e := hg.frame
    rw [hb'] at e
    refine ⟨fun hs => ?_, ?_, ?_, ?_, ?_, ?_, ?_⟩
    · have := hg.silent hs
      rw [hb'] at this
      exact this
    all_goals rw [e]


/-- A destination of one word in a lane that takes part. -/
theorem wordAt_lane {i : Info} {s : State} {g : Nat → BitVec 128} {w' : Weft} (h : issues i s = true) (hd : i.dk = .reg 1)
    (hg : GoesOn (i.ctx s) s.me (laneWeft i s g) w') {L : Nat} (hL : L ∈ i.lanes s) (hz : L ∉ i.zlanes s) :
    wordAt w' i.u i.d L = w32 (g L) := by
  have hr : w'.regs = (laneWeft i s g).regs := by rw [hg.frame]
  have hw : i.dk.words = 1 := by rw [hd]; rfl
  unfold wordAt
  rw [hr]
  by_cases hu : i.u = true
  · rw [if_pos hu, laneWeft_getS h hu, dif_pos (by omega)]
    have : L = lowestLane s.me.width (i.activeOf s.me) := by
      unfold Info.lanes at hL
      rw [if_pos hu, List.mem_singleton] at hL
      exact hL
    subst this
    simp only [hw, Nat.sub_self]
    rfl
  · have hu' : i.u = false := by simpa using hu
    rw [if_neg hu, (laneWeft_frame i s g).phys, laneWeft_getV hu' _ (lanes_lt hL), dif_neg (fun hc => hz hc.1), dif_pos ⟨hL, by omega⟩]
    simp only [hw, Nat.sub_self]
    rfl

theorem wordAt_zlane {i : Info} {s : State} {g : Nat → BitVec 128} {w' : Weft} (h : issues i s = true) (hd : i.dk = .reg 1)
    (hg : GoesOn (i.ctx s) s.me (laneWeft i s g) w') {L : Nat} (hz : L ∈ i.zlanes s) : wordAt w' i.u i.d L = 0 := by
  have hr : w'.regs = (laneWeft i s g).regs := by rw [hg.frame]
  have hw : i.dk.words = 1 := by rw [hd]; rfl
  unfold wordAt
  rw [hr]
  by_cases hu : i.u = true
  · rw [zlanes_uniform h hu] at hz; simp at hz
  · have hu' : i.u = false := by simpa using hu
    rw [if_neg hu, (laneWeft_frame i s g).phys, laneWeft_getV hu' _ (zlanes_lt hz), dif_pos ⟨hz, by omega⟩]
    exact splitWords_zero _ _ _

theorem pairOf_split (v : BitVec 128) : pairOf (v.setWidth 32) ((v >>> 32).setWidth 32) = w64 v := by
  unfold w64 pairOf
  apply BitVec.eq_of_getLsbD_eq
  intro i hi
  simp only [BitVec.getLsbD_append, BitVec.getLsbD_setWidth, BitVec.getLsbD_ushiftRight]
  by_cases h : i < 32
  · simp [h, hi]
  · simp [h, hi, show i - 32 < 32 by omega, show 32 + (i - 32) = i by omega]

theorem pairAt_lane {i : Info} {s : State} {g : Nat → BitVec 128} {w' : Weft} (h : issues i s = true) (hd : i.dk = .reg 2)
    (hg : GoesOn (i.ctx s) s.me (laneWeft i s g) w') {L : Nat} (hL : L ∈ i.lanes s) (hz : L ∉ i.zlanes s) :
    pairAt w' i.u i.d L = w64 (g L) := by
  have hr : w'.regs = (laneWeft i s g).regs := by rw [hg.frame]
  have hw : i.dk.words = 2 := by rw [hd]; rfl
  unfold pairAt
  rw [hr]
  by_cases hu : i.u = true
  · have : L = lowestLane s.me.width (i.activeOf s.me) := by
      unfold Info.lanes at hL
      rw [if_pos hu, List.mem_singleton] at hL
      exact hL
    subst this
    rw [if_pos hu, laneWeft_getS h hu, laneWeft_getS h hu, dif_pos (by omega), dif_pos (by omega)]
    simp only [hw, Nat.sub_self, Nat.add_sub_cancel_left]
    exact pairOf_split _
  · have hu' : i.u = false := by simpa using hu
    rw [if_neg hu, (laneWeft_frame i s g).phys, laneWeft_getV hu' _ (lanes_lt hL), laneWeft_getV hu' _ (lanes_lt hL),
      dif_neg (fun hc => hz hc.1), dif_pos ⟨hL, by omega⟩, dif_neg (fun hc => hz hc.1), dif_pos ⟨hL, by omega⟩]
    simp only [hw, Nat.sub_self, Nat.add_sub_cancel_left]
    exact pairOf_split _

theorem pairAt_zlane {i : Info} {s : State} {g : Nat → BitVec 128} {w' : Weft} (h : issues i s = true) (hd : i.dk = .reg 2)
    (hg : GoesOn (i.ctx s) s.me (laneWeft i s g) w') {L : Nat} (hz : L ∈ i.zlanes s) : pairAt w' i.u i.d L = 0 := by
  have hr : w'.regs = (laneWeft i s g).regs := by rw [hg.frame]
  have hw : i.dk.words = 2 := by rw [hd]; rfl
  unfold pairAt
  rw [hr]
  by_cases hu : i.u = true
  · rw [zlanes_uniform h hu] at hz; simp at hz
  · have hu' : i.u = false := by simpa using hu
    rw [if_neg hu, (laneWeft_frame i s g).phys, laneWeft_getV hu' _ (zlanes_lt hz), laneWeft_getV hu' _ (zlanes_lt hz),
      dif_pos ⟨hz, by omega⟩, dif_pos ⟨hz, by omega⟩, splitWords_zero, splitWords_zero]
    rfl

/-- A lane takes part, or z zeroes it, but not both. -/
theorem lanes_disjoint {i : Info} {s : State} {L : Nat} (h : issues i s = true) (hL : L ∈ i.lanes s) : L ∉ i.zlanes s := by
  intro hz
  by_cases hu : i.u = true
  · rw [zlanes_uniform h hu] at hz; simp at hz
  · unfold Info.lanes at hL
    rw [if_neg hu] at hL
    unfold Info.zlanes lanesOf at hz
    unfold lanesOf at hL
    rw [List.mem_filter] at hL hz
    have h1 := hL.2
    have h2 := hz.2
    unfold Info.activeOf at h1
    unfold Info.zeroedOf at h2
    cases hp : i.p with
    | none => simp [hp] at h2
    | some x =>
      simp only [hp] at h1 h2
      split at h2
      · simp only [BitVec.getLsbD_and, BitVec.getLsbD_not, Bool.and_eq_true] at h1 h2
        rw [h1.2] at h2
        simp at h2
      · simp at h2

/-- A clean lane function with a 32-bit destination leaves its results. -/
theorem alu32 {push : Bool} {f : LaneFn} {i : Info} {s : State} (h : issues i s = true) (hd : i.dk = .reg 1)
    (hf : ∀ L ∈ i.lanes s, (f (i.lane s L)).fault = none ∧ (f (i.lane s L)).flags = 0) :
    Writes32 i s (issue i (laneEffect push f) s) fun L => w32 (f (i.lane s L)).val := by
  obtain ⟨w', hr, hg⟩ := lane_retires (push := push) h hf
  refine ⟨_, hr, registerStep_of_lane h hd hg, ?_, fun L hL => ?_, fun L hz => ?_⟩
  · rw [State.weft_setWeft_same]
    intro L
    unfold Weft.fflag
    rw [hg.frame]
    obtain ⟨v, x, hb⟩ := laneWeft_frame i s fun L => (f (i.lane s L)).val
    rw [hb]
  · rw [State.weft_setWeft_same]
    exact wordAt_lane h hd hg hL (lanes_disjoint h hL)
  · rw [State.weft_setWeft_same]
    exact wordAt_zlane h hd hg hz

/-- A clean lane function with a 64-bit destination leaves its results. -/
theorem alu64 {push : Bool} {f : LaneFn} {i : Info} {s : State} (h : issues i s = true) (hd : i.dk = .reg 2)
    (hf : ∀ L ∈ i.lanes s, (f (i.lane s L)).fault = none ∧ (f (i.lane s L)).flags = 0) :
    Writes64 i s (issue i (laneEffect push f) s) fun L => w64 (f (i.lane s L)).val := by
  obtain ⟨w', hr, hg⟩ := lane_retires (push := push) h hf
  refine ⟨_, hr, registerStep_of_lane h hd hg, ?_, fun L hL => ?_, fun L hz => ?_⟩
  · rw [State.weft_setWeft_same]
    intro L
    unfold Weft.fflag
    rw [hg.frame]
    obtain ⟨v, x, hb⟩ := laneWeft_frame i s fun L => (f (i.lane s L)).val
    rw [hb]
  · rw [State.weft_setWeft_same]
    exact pairAt_lane h hd hg hL (lanes_disjoint h hL)
  · rw [State.weft_setWeft_same]
    exact pairAt_zlane h hd hg hz

@[simp] theorem w32_ret32 (v : Word) : w32 (ret32 v).val = v := by simp [w32, ret32]
@[simp] theorem w64_ret64 (v : Dword) : w64 (ret64 v).val = v := by simp [w64, ret64]

end Sys2Proof.Machine
end

