-- ==== Sys2Proof/Laws/Decode.lean ====
section
/-!
SUPPORT. What decoding does with the word that a layout makes: its fields come back, and the decoder sees the layout.
-/

namespace Sys2Proof

/-! ## Fields -/

theorem extract_high {m n : Nat} (z : BitVec m) (x : BitVec n) (k j : Nat) : (z ++ x).extractLsb' (n + k) j = z.extractLsb' k j := by
  apply BitVec.eq_of_getLsbD_eq; intro i hi
  simp only [BitVec.getLsbD_extractLsb', BitVec.getLsbD_append, hi, decide_true, Bool.true_and]
  rw [if_neg (by omega)]; congr 1; omega

theorem extract_low {m n : Nat} (z : BitVec m) (x : BitVec n) {k j : Nat} (h : k + j ≤ n) : (z ++ x).extractLsb' k j = x.extractLsb' k j := by
  apply BitVec.eq_of_getLsbD_eq; intro i hi
  simp only [BitVec.getLsbD_extractLsb', BitVec.getLsbD_append, hi, decide_true, Bool.true_and]
  rw [if_pos (by omega)]

theorem extract_all {n : Nat} (x : BitVec n) : x.extractLsb' 0 n = x := by
  apply BitVec.eq_of_getLsbD_eq; intro i hi; simp [hi]

/-- The low and the high part of an appended word. -/
theorem low_field {m n : Nat} (z : BitVec m) (x : BitVec n) : (z ++ x).extractLsb' 0 n = x :=
  (extract_low z x (by omega)).trans (extract_all x)
theorem high_field {m n : Nat} (z : BitVec m) (x : BitVec n) : (z ++ x).extractLsb' n m = z := (extract_high z x 0 m).trans (extract_all z)

theorem bit_high {m n : Nat} (z : BitVec m) (x : BitVec n) (k : Nat) : (z ++ x).getLsbD (n + k) = z.getLsbD k := by
  rw [BitVec.getLsbD_append, if_neg (by omega)]; congr 1; omega

theorem bit_low {m n : Nat} (z : BitVec m) (x : BitVec n) {k : Nat} (h : k < n) : (z ++ x).getLsbD k = x.getLsbD k := by
  rw [BitVec.getLsbD_append, if_pos h]

theorem bit_bit (x : Bool) : (bit x).getLsbD 0 = x := by cases x <;> rfl
theorem low_bit {m : Nat} (z : BitVec m) (x : Bool) : (z ++ bit x).getLsbD 0 = x := (bit_low z (bit x) (by omega)).trans (bit_bit x)

/-! Fields of the map at their widths. -/

theorem mask_low (d : BitVec 3) : BitVec.extractLsb' 0 3 (0#4 ++ d : BitVec 7) = d := low_field _ _
theorem mask_high (d : BitVec 3) : BitVec.extractLsb' 3 4 (0#4 ++ d : BitVec 7) = 0#4 := high_field _ _
theorem shift_low (i : BitVec 5) : BitVec.extractLsb' 0 5 (0#5 ++ i : BitVec 10) = i := low_field _ _
theorem shift_high (i : BitVec 5) : BitVec.extractLsb' 5 5 (0#5 ++ i : BitVec 10) = 0#5 := high_field _ _
theorem upper_low (i : BitVec 15) : BitVec.extractLsb' 0 15 (0#2 ++ i : BitVec 17) = i := low_field _ _
theorem upper_high (i : BitVec 15) : BitVec.extractLsb' 15 2 (0#2 ++ i : BitVec 17) = 0#2 := high_field _ _
theorem format_low (x : BitVec 4) (y : BitVec 3) : BitVec.extractLsb' 0 3 (x ++ y : BitVec 7) = y := low_field _ _
theorem format_high (x : BitVec 4) (y : BitVec 3) : BitVec.extractLsb' 3 4 (x ++ y : BitVec 7) = x := high_field _ _
theorem size_low (x : BitVec 2) (y : Bool) : BitVec.getLsbD (x ++ bit y : BitVec 3) 0 = y := low_bit _ _
theorem size_high (x : BitVec 2) (y : Bool) : BitVec.extractLsb' 1 2 (x ++ bit y : BitVec 3) = x := high_field _ _
theorem scope_low (y : BitVec 2) : BitVec.extractLsb' 0 2 (0#5 ++ y : BitVec 7) = y := low_field _ _
theorem scope_high (y : BitVec 2) : BitVec.extractLsb' 2 5 (0#5 ++ y : BitVec 7) = 0#5 := high_field _ _
theorem flag_low (y : Bool) : BitVec.getLsbD (0#6 ++ bit y : BitVec 7) 0 = y := low_bit _ _
theorem flag_high (y : Bool) : BitVec.extractLsb' 1 6 (0#6 ++ bit y : BitVec 7) = 0#6 := high_field _ _

/-! ## Layouts -/

/-- The opcode of a layout. -/
def Layout.op : Layout → BitVec 7
  | .fmtA op .. => op
  | .fmtI op .. => op
  | .fmtL op .. => op
  | .fmtB op .. => op

/-- The layout's format is the one that its opcode selects, and its opcode is neither that of a header nor the prefix's. -/
def Layout.proper (l : Layout) : Bool :=
  l.op != 124#7 && l.op != 125#7 && l.op != 126#7 && match l with
    | .fmtA op .. => !isFormatI op && !isFormatL op && !isFormatB op
    | .fmtI op .. => isFormatI op
    | .fmtL op .. => !isFormatI op && isFormatL op
    | .fmtB op .. => !isFormatI op && !isFormatL op && isFormatB op

theorem Layout.op_word : ∀ l : Layout, l.word.extractLsb' 25 7 = l.op
  | .fmtA op fn u d a b => (extract_high _ b 18 7).trans <| (extract_high _ a 11 7).trans <| (extract_high _ d 4 7).trans <|
      (extract_high _ (bit u) 3 7).trans <| (extract_high op fn 0 7).trans (extract_all op)
  | .fmtI op u d a imm => (extract_high _ imm 15 7).trans <| (extract_high _ a 8 7).trans <| (extract_high _ d 1 7).trans <|
      (extract_high op (bit u) 0 7).trans (extract_all op)
  | .fmtL op u d imm => (extract_high _ imm 8 7).trans <| (extract_high _ d 1 7).trans <| (extract_high op (bit u) 0 7).trans (extract_all op)
  | .fmtB op fn m off => (extract_high _ off 6 7).trans <| (extract_high _ m 3 7).trans <| (extract_high op fn 0 7).trans (extract_all op)

theorem Layout.ofWord_word {l : Layout} (h : l.proper = true) : Layout.ofWord l.word = l := by
  have ho := l.op_word
  unfold Layout.ofWord
  simp only [ho]
  cases l with
  | fmtA op fn u d a b =>
    simp only [Layout.proper, Layout.op, Bool.and_eq_true, Bool.not_eq_true'] at h
    simp only [Layout.op, h.2.1.1, h.2.1.2, h.2.2, Bool.false_eq_true, if_false]
    have h1 : (Layout.fmtA op fn u d a b).word.extractLsb' 22 3 = fn := (extract_high _ b 15 3).trans <| (extract_high _ a 8 3).trans <|
      (extract_high _ d 1 3).trans <| (extract_high _ (bit u) 0 3).trans (low_field op fn)
    have h2 : (Layout.fmtA op fn u d a b).word.getLsbD 21 = u := (bit_high _ b 14).trans <| (bit_high _ a 7).trans <| (bit_high _ d 0).trans (low_bit _ u)
    have h3 : (Layout.fmtA op fn u d a b).word.extractLsb' 14 7 = d := (extract_high _ b 7 7).trans <| (extract_high _ a 0 7).trans (low_field _ d)
    have h4 : (Layout.fmtA op fn u d a b).word.extractLsb' 7 7 = a := (extract_high _ b 0 7).trans (low_field _ a)
    have h5 : (Layout.fmtA op fn u d a b).word.extractLsb' 0 7 = b := low_field _ b
    rw [h1, h2, h3, h4, h5]
  | fmtI op u d a imm =>
    simp only [Layout.proper, Layout.op, Bool.and_eq_true] at h
    simp only [Layout.op, h.2, if_true]
    have h2 : (Layout.fmtI op u d a imm).word.getLsbD 24 = u := (bit_high _ imm 14).trans <| (bit_high _ a 7).trans <| (bit_high _ d 0).trans (low_bit _ u)
    have h3 : (Layout.fmtI op u d a imm).word.extractLsb' 17 7 = d := (extract_high _ imm 7 7).trans <| (extract_high _ a 0 7).trans (low_field _ d)
    have h4 : (Layout.fmtI op u d a imm).word.extractLsb' 10 7 = a := (extract_high _ imm 0 7).trans (low_field _ a)
    have h5 : (Layout.fmtI op u d a imm).word.extractLsb' 0 10 = imm := low_field _ imm
    rw [h2, h3, h4, h5]
  | fmtL op u d imm =>
    simp only [Layout.proper, Layout.op, Bool.and_eq_true, Bool.not_eq_true'] at h
    simp only [Layout.op, h.2.1, h.2.2, Bool.false_eq_true, if_false, if_true]
    have h2 : (Layout.fmtL op u d imm).word.getLsbD 24 = u := (bit_high _ imm 7).trans <| (bit_high _ d 0).trans (low_bit _ u)
    have h3 : (Layout.fmtL op u d imm).word.extractLsb' 17 7 = d := (extract_high _ imm 0 7).trans (low_field _ d)
    have h5 : (Layout.fmtL op u d imm).word.extractLsb' 0 17 = imm := low_field _ imm
    rw [h2, h3, h5]
  | fmtB op fn m off =>
    simp only [Layout.proper, Layout.op, Bool.and_eq_true, Bool.not_eq_true'] at h
    simp only [Layout.op, h.2.1.1, h.2.1.2, h.2.2, Bool.false_eq_true, if_false, if_true]
    have h1 : (Layout.fmtB op fn m off).word.extractLsb' 22 3 = fn := (extract_high _ off 3 3).trans <| (extract_high _ m 0 3).trans (low_field op fn)
    have h3 : (Layout.fmtB op fn m off).word.extractLsb' 19 3 = m := (extract_high _ off 0 3).trans (low_field _ m)
    have h5 : (Layout.fmtB op fn m off).word.extractLsb' 0 19 = off := low_field _ off
    rw [h1, h3, h5]

theorem isHeader_word {l : Layout} (h : l.proper = true) : isHeader l.word = false := by
  have hx : l.word.extractLsb' 26 6 = l.op.extractLsb' 1 6 := by
    rw [← l.op_word]
    apply BitVec.eq_of_getLsbD_eq; intro i hi
    simp only [BitVec.getLsbD_extractLsb', hi, decide_true, Bool.true_and, show 1 + i < 7 by omega, show 25 + (1 + i) = 26 + i by omega]
  simp only [Layout.proper, Bool.and_eq_true, bne_iff_ne, ne_eq] at h
  simp only [isHeader, hx]
  obtain ⟨⟨⟨h1, h2⟩, -⟩, -⟩ := h
  generalize l.op = op at h1 h2
  revert op; decide

theorem isPrefix_word {l : Layout} (h : l.proper = true) : isPrefix l.word = false := by
  simp only [Layout.proper, Bool.and_eq_true, bne_iff_ne, ne_eq] at h
  simp [isPrefix, l.op_word, h.1.2]

/-- The decoder sees the layout whose word it is given. -/
theorem decodeBase_word {l : Layout} (p : Option Prefix) (h : l.proper = true) : decodeBase p l.word = l.instr p := by
  simp [decodeBase, isHeader_word h, isPrefix_word h, Layout.ofWord_word h]

end Sys2Proof
end

