-- ==== Sys2Proof/Laws/Memory.lean ====
section
/-!
SUPPORT. Every operation that writes memory keeps it in its canonical form: the write itself, the slices of L2, what the caches and the
messages of coherence bring home, accesses of the three kinds, and the repair that takes away what lies above the new CAP.
-/

namespace Sys2Proof.Machine

/-- Memory is in its canonical form. -/
abbrev State.Canon (s : State) : Prop := Memory.wf s.mem = true

theorem reset_canon : State.reset.Canon := rfl

theorem canon_of_mem {s t : State} (h : t.mem = s.mem) (hs : s.Canon) : t.Canon := by unfold State.Canon; rw [h]; exact hs

theorem writeMem_canon {s : State} (pa : Nat) (bs : List Byte) (h : s.Canon) : (s.writeMem pa bs).Canon := SMap.wf_write pa bs h
theorem writeWord_canon {s : State} (pa : Nat) (v : Word) (h : s.Canon) : (s.writeWord pa v).Canon := writeMem_canon _ _ h
theorem writeDword_canon {s : State} (pa : Nat) (v : Dword) (h : s.Canon) : (s.writeDword pa v).Canon := writeMem_canon _ _ h

theorem coh_mem (s : State) (c : Coherence) : ({ s with coh := c } : State).mem = s.mem := rfl
theorem coh_canon {s : State} (c : Coherence) (h : s.Canon) : ({ s with coh := c } : State).Canon := h

theorem foldl_canon {α : Type} {f : State → α → State} (hf : ∀ s x, s.Canon → (f s x).Canon) :
    ∀ (l : List α) {s : State}, s.Canon → (l.foldl f s).Canon
  | [], _, h => h
  | x :: l, _, h => foldl_canon hf l (hf _ x h)

theorem foldl_mem {α : Type} {f : State → α → State} (hf : ∀ s x, (f s x).mem = s.mem) :
    ∀ (l : List α) (s : State), (l.foldl f s).mem = s.mem
  | [], _ => rfl
  | x :: l, s => (foldl_mem hf l (f s x)).trans (hf s x)

theorem foldl_canon₂ {α β : Type} {f : β × State → α → β × State} (hf : ∀ r x, r.2.Canon → (f r x).2.Canon) :
    ∀ (l : List α) {r : β × State}, r.2.Canon → (l.foldl f r).2.Canon
  | [], _, h => h
  | x :: l, _, h => foldl_canon₂ hf l (hf _ x h)

/-! ## Registers and errors -/

theorem setReg_canon {s : State} (off : Nat) (v : Dword) (h : s.Canon) : (s.setReg off v).Canon := h

theorem signal_canon {s : State} (n : Nat) (h : s.Canon) : (s.signal n).Canon := by
  unfold State.signal; split
  · exact h
  · refine foldl_canon (fun s p h => ?_) _ h
    unfold signalPort
    repeat' split
    all_goals exact h

theorem raise_canon {s : State} (b : Nat) (h : s.Canon) : (s.raise b).Canon := by
  unfold State.raise; split
  · exact h
  · exact signal_canon _ (setReg_canon _ _ h)

theorem goViral_canon {s : State} (c a : Nat) (h : s.Canon) : (s.goViral c a).Canon := by
  unfold State.goViral; split <;> exact h

theorem countCorrected_canon {s : State} (n : Nat) (h : s.Canon) : (countCorrected n s).Canon := by
  simp only [countCorrected]; split
  · exact h
  · exact raise_canon _ h

theorem readCodeword_canon {s : State} (c : Nat) (h : s.Canon) : (readCodeword c s).2.Canon := by
  unfold readCodeword
  refine foldl_canon₂ (fun r u h => ?_) _ h
  split
  · split
    · exact h
    · split
      · exact goViral_canon _ _ h
      · exact countCorrected_canon _ h
  · exact h

theorem readSector_canon {s : State} (a : Nat) (h : s.Canon) : (readSector a s).2.Canon := by
  unfold readSector
  refine foldl_canon₂ (fun r u h => ?_) _ h
  split
  · split
    · exact h
    · split
      · exact goViral_canon _ _ h
      · exact h
  · exact h

/-! ## L2 -/

theorem l2Fill_mem (s : State) (b : Nat) (m : BitVec 16) : (s.l2Fill b m).mem = s.mem := rfl

theorem l2Write_mem (s : State) (pa n : Nat) : (s.l2Write pa n).mem = s.mem := foldl_mem (fun s b => l2Fill_mem s b _) _ s

theorem homePut_canon {s : State} (pa : Nat) (bs : List Byte) (h : s.Canon) : (s.homePut pa bs).Canon :=
  writeMem_canon _ _ (canon_of_mem (l2Write_mem s pa bs.length) h)

theorem l2Read_canon {s : State} (pa n : Nat) (h : s.Canon) : (s.l2Read pa n).2.Canon := by
  unfold State.l2Read
  refine foldl_canon₂ (r := (true, s)) (fun r b h => ?_) _ h
  extract_lets lacks x
  have hx : x.2.Canon := by
    show State.Canon (if _ then _ else _ : Bool × State).2
    split
    · exact h
    · refine foldl_canon₂ (r := (true, r.2)) (fun y i h => ?_) _ h
      show State.Canon (if _ then _ else _ : Bool × State).2
      split
      · exact readCodeword_canon _ h
      · exact readSector_canon _ h
  clear_value x
  split
  · exact canon_of_mem (l2Fill_mem x.2 b lacks) hx
  · exact hx

/-! ## Caches, the directory and what a store drops -/

@[simp] theorem sendMsg_mem (s : State) (m : Msg) : (s.sendMsg m).mem = s.mem := rfl
@[simp] theorem setUnitDir_mem (s : State) (die u gr : Nat) (d : UnitDir) : (s.setUnitDir die u gr d).mem = s.mem := rfl
@[simp] theorem dropTxn_mem (s : State) (t : Txn) : (s.dropTxn t).mem = s.mem := rfl
@[simp] theorem putTxn_mem (s : State) (t : Txn) : (s.putTxn t).mem = s.mem := rfl
@[simp] theorem consume_mem (s : State) (a u : Nat) : (s.consume a u).mem = s.mem := rfl
@[simp] theorem askHome_mem (s : State) (t : Txn) (k : MsgKind) : (askHome s t k).mem = s.mem := rfl
@[simp] theorem dropLines_mem (s : State) (c u : Nat) : (s.dropLines c u).mem = s.mem := rfl
@[simp] theorem sendWbD_mem (s : State) (l : L1Line) : (s.sendWbD l).mem = s.mem := rfl

theorem sendMsg_canon {s : State} (m : Msg) (h : s.Canon) : (s.sendMsg m).Canon := h
theorem setUnitDir_canon {s : State} (die u gr : Nat) (d : UnitDir) (h : s.Canon) : (s.setUnitDir die u gr d).Canon := h

theorem shedLines_mem (s : State) (p : L1Line → Bool) : (s.shedLines p).mem = s.mem := by
  unfold State.shedLines
  exact (foldl_mem (fun s l => sendWbD_mem s l) _ _).trans rfl

theorem flushSector_canon {s : State} (x : NcSector) (h : s.Canon) : (s.flushSector x).Canon :=
  foldl_canon (fun _ _ h => homePut_canon _ _ h) _ h

theorem ncFlush_canon {s : State} (core : Nat) (p : NcSector → Bool) (drop write : Bool) (h : s.Canon) :
    (s.ncFlush core p drop write).Canon := by
  unfold State.ncFlush
  extract_lets hit s1 clean
  have h1 : s1.Canon := by
    show State.Canon (if _ then _ else _)
    split
    · exact foldl_canon (fun _ x h => flushSector_canon x h) _ h
    · exact h
  clear_value s1
  split
  · exact h
  · exact canon_of_mem (State.setCore_mem _ _ _) h1

theorem dropClusterTranslations_canon {s : State} (ci base n : Nat) (h : s.Canon) : (s.dropClusterTranslations ci base n).Canon := by
  simp only [State.dropClusterTranslations]
  split
  · exact h
  · refine foldl_canon (fun s i h => ncFlush_canon _ _ _ _ h) _ ?_
    exact canon_of_mem (shedLines_mem _ _) (canon_of_mem (State.setCluster_mem _ _ _) h)

theorem frameTouch_mem (s : State) (pa : Nat) (own : Bool) : (s.frameTouch pa own).mem = s.mem := rfl

theorem frameTouch_canon {s : State} (pa : Nat) (own : Bool) (h : s.Canon) : (s.frameTouch pa own).Canon :=
  canon_of_mem (frameTouch_mem s pa own) h

/-! ## Messages -/

theorem sendInvs_mem (s : State) (t : Txn) (ds : List Nat) : (s.sendInvs t ds).mem = s.mem := by
  unfold State.sendInvs
  exact foldl_mem (fun s d => sendMsg_mem s _) _ s

theorem grantMemory_canon {s : State} (t : Txn) (k : MsgKind) (h : s.Canon) : (grantMemory s t k).Canon := by
  unfold grantMemory
  have h' := l2Read_canon t.unit t.gr h
  generalize s.l2Read t.unit t.gr = x at h'
  obtain ⟨ok, s'⟩ := x
  dsimp only
  split <;> exact h'

theorem completeHome_canon {s : State} (t : Txn) (h : s.Canon) : (completeHome s t).Canon := by
  unfold completeHome
  extract_lets hd q only d p
  split
  · split
    · exact frameTouch_canon _ _ (setUnitDir_canon _ _ _ _ (grantMemory_canon _ _ h))
    · exact frameTouch_canon _ _ (setUnitDir_canon _ _ _ _ (grantMemory_canon _ _ h))
  · exact frameTouch_canon _ _ (show State.Canon _ from h)
  · exact frameTouch_canon _ _ (setUnitDir_canon _ _ _ _ (grantMemory_canon _ _ h))
  · exact h

theorem completeGate_mem (s : State) (t : Txn) : (completeGate s t).mem = s.mem := by
  unfold completeGate
  split
  all_goals dsimp only
  · rfl
  · generalize hs : (if t.from_ < 128 then s.sendMsg (grantMsg t .wbAck []) else s) = s'
    have h : s'.mem = s.mem := by rw [← hs]; split <;> rfl
    split <;> exact h
  · rfl
  · split <;> rfl
  · rfl
  · split <;> rfl

theorem completeGate_canon {s : State} (t : Txn) (h : s.Canon) : (completeGate s t).Canon := canon_of_mem (completeGate_mem s t) h

theorem advance_canon {s : State} (t : Txn) (h : s.Canon) : (advance s t).Canon := by
  simp only [advance]
  repeat' split
  all_goals first
    | exact completeHome_canon _ h
    | exact completeGate_canon _ h
    | exact h

theorem openTxn_canon {s : State} (t : Txn) (l : List Nat) (x : Option Nat) (h : s.Canon) : (openTxn s t l x).Canon :=
  advance_canon _ (canon_of_mem (sendInvs_mem s t l) h)

theorem applyWbD_canon {s : State} (m : Msg) (h : s.Canon) : (applyWbD s m).Canon := by
  simp only [applyWbD]; split
  · exact h
  · exact setUnitDir_canon _ _ _ _ (homePut_canon _ _ (show State.Canon _ from h))

theorem acceptHome_canon {s : State} (m : Msg) (h : s.Canon) : (acceptHome s m).Canon := by
  unfold acceptHome
  extract_lets hd q d0 d s' t others x
  have hs : s'.Canon := by
    show State.Canon (if _ then _ else _)
    split <;> exact h
  clear_value s'
  repeat' split
  all_goals first
    | exact applyWbD_canon _ h
    | exact openTxn_canon _ _ _ hs

theorem askHome_canon {s : State} (t : Txn) (k : MsgKind) (h : s.Canon) : (askHome s t k).Canon := h

theorem acceptGate_canon {s : State} (n : Nat) (m : Msg) (h : s.Canon) : (acceptGate s n m).Canon := by
  have hu : ∀ (d d' : UnitDir), (if d = d' then s else s.setUnitDir n m.unit m.gr d).Canon := fun d d' => by
    split
    · exact h
    · exact setUnitDir_canon _ _ _ _ h
  unfold acceptGate
  split
  · dsimp only
    split
    · exact openTxn_canon _ _ _ (canon_of_mem (consume_mem _ _ _) h)
    · exact sendMsg_canon _ (canon_of_mem (consume_mem _ _ _) h)
  · extract_lets q d0 t d s' mine others x
    have hs : s'.Canon := hu d d0
    clear_value s'
    repeat' split
    all_goals first
      | exact openTxn_canon _ _ _ hs
      | exact askHome_canon _ _ hs

theorem acceptProbe_canon {s : State} (n : Nat) (m : Msg) (h : s.Canon) : (acceptProbe s n m).Canon := by
  simp only [acceptProbe]
  repeat' split
  all_goals exact openTxn_canon _ _ _ h

theorem recallUnit_canon {s : State} (n gr : Nat) (mark : Bool) (u : Nat) (h : s.Canon) : (recallUnit n gr mark s u).Canon :=
  openTxn_canon _ _ _ h

theorem recallEntry_canon {s : State} (n : Nat) (e : DirEntry) (h : s.Canon) : (recallEntry s n e).Canon :=
  foldl_canon (fun _ _ h => recallUnit_canon _ _ _ _ h) _ h

theorem takeUp_canon {s : State} (m : Msg) (h : s.Canon) : (takeUp s m).Canon := by
  simp only [takeUp]
  repeat' split
  all_goals first
    | exact goViral_canon _ _ h
    | exact acceptProbe_canon _ _ h
    | exact recallEntry_canon _ _ h
    | exact acceptHome_canon _ h
    | exact acceptGate_canon _ _ h
    | exact h

theorem arriveMsg_canon {s : State} (m : Msg) (h : s.Canon) : (arriveMsg s m).Canon := by
  unfold arriveMsg; split
  · exact takeUp_canon _ h
  · exact h

theorem pump_canon : ∀ (n : Nat) {s : State}, s.Canon → (pump n s).Canon
  | 0, _, h => h
  | n + 1, s, h => by
    unfold pump; split
    · exact h
    · exact pump_canon n (takeUp_canon _ h)

theorem pumpAll_canon {s : State} (h : s.Canon) : (pumpAll s).Canon := pump_canon _ h

theorem dropThrough_canon {s : State} (m : Msg) (h : s.Canon) : (s.dropThrough m).Canon := by
  unfold State.dropThrough; split
  · exact h
  · exact dropClusterTranslations_canon _ _ _ h

theorem clusterForward_canon {s : State} (m : Msg) (h : s.Canon) : (clusterForward s m).Canon := by
  unfold clusterForward
  extract_lets back give ls
  split
  · split
    · exact sendMsg_canon _ (sendMsg_canon _ (dropThrough_canon _ (show State.Canon _ from h)))
    · exact h
  · next s' _ _ =>
    have hs : s'.Canon := by
      show State.Canon (if _ then _ else _)
      split
      · exact dropThrough_canon _ h
      · exact h
    clear_value s'
    split <;> exact hs

theorem clusterInv_canon {s : State} (m : Msg) (h : s.Canon) : (clusterInv s m).Canon :=
  sendMsg_canon _ (dropThrough_canon _ (show State.Canon _ from h))

theorem clusterData_canon {s : State} (m : Msg) (h : s.Canon) : (clusterData s m).Canon := by
  show Memory.wf (State.mem _) = true
  simp only [clusterData]
  repeat' split
  all_goals exact h

theorem clusterAck_canon {s : State} (m : Msg) (h : s.Canon) : (clusterAck s m).Canon := by
  unfold clusterAck; split <;> exact h

theorem gateAnswer_canon {s : State} (n : Nat) (m : Msg) (h : s.Canon) : (gateAnswer s n m).Canon := by
  simp only [gateAnswer]
  repeat' split
  all_goals first
    | exact openTxn_canon _ _ _ h
    | exact h

theorem gateWbAck_canon {s : State} (n u : Nat) (h : s.Canon) : (gateWbAck s n u).Canon := by
  simp only [gateWbAck]; split <;> exact h

theorem nodeInvAck_canon {s : State} (n : Nat) (m : Msg) (h : s.Canon) : (nodeInvAck s n m).Canon := by
  simp only [nodeInvAck]; split
  · exact h
  · exact advance_canon _ h

theorem nodeFwdAck_canon {s : State} (n : Nat) (m : Msg) (h : s.Canon) : (nodeFwdAck s n m).Canon := by
  simp only [nodeFwdAck]
  repeat' split
  all_goals exact h

theorem nodeNoData_canon {s : State} (n : Nat) (m : Msg) (h : s.Canon) : (nodeNoData s n m).Canon := by
  simp only [nodeNoData]
  repeat' split
  all_goals first
    | exact h
    | exact completeHome_canon _ h
    | exact openTxn_canon _ _ _ h
    | exact completeGate_canon _ h

theorem handle_canon {s : State} (m : Msg) (h : s.Canon) : (handle s m).Canon := by
  simp only [handle]
  repeat' split
  all_goals first
    | exact clusterForward_canon _ h
    | exact clusterInv_canon _ h
    | exact clusterAck_canon _ h
    | exact clusterData_canon _ h
    | exact nodeInvAck_canon _ _ h
    | exact nodeFwdAck_canon _ _ h
    | exact nodeNoData_canon _ _ h
    | exact gateWbAck_canon _ _ h
    | exact homePut_canon _ _ h
    | exact gateAnswer_canon _ _ h
    | exact arriveMsg_canon _ h
    | exact h

theorem deliver_canon {s : State} (m : Msg) (h : s.Canon) : (deliver s m).Canon := by
  simp only [deliver]
  split
  · exact goViral_canon _ _ h
  · exact pumpAll_canon (handle_canon _ h)

theorem drive_canon (done : State → Bool) (near : Msg → Bool) : ∀ (f : Nat) {s : State}, s.Canon → (drive done near f s).Canon
  | 0, _, h => h
  | f + 1, s, h => by
    unfold drive; split
    · exact h
    · split
      · exact drive_canon done near f (deliver_canon _ h)
      · exact h

theorem settled_canon {s : State} (base n : Nat) (h : s.Canon) : (s.settled base n).Canon := by
  unfold State.settled; split
  · exact h
  · exact drive_canon _ _ _ h

/-! ## Accesses at the home -/

theorem gather_canon {s : State} (base n : Nat) (mark : Bool) (h : s.Canon) : (s.gather base n mark).Canon := by
  unfold State.gather
  extract_lets s1 us
  have h1 : s1.Canon := settled_canon _ _ h
  clear_value s1
  split
  · exact h1
  · exact settled_canon _ _ (foldl_canon (fun _ _ h => recallUnit_canon _ _ _ _ h) _ h1)

theorem homeWrite_canon {s : State} (pa : Nat) (bs : List Byte) (h : s.Canon) : (s.homeWrite pa bs).Canon :=
  homePut_canon _ _ (gather_canon _ _ _ h)

/-- The slices' ways are all that their writing changes. -/
theorem l2Write_l2 (s : State) (pa n : Nat) : ∃ l, s.l2Write pa n = { s with coh := { s.coh with l2 := l } } := by
  have h : ∀ (bs : List Nat) (f : Nat → BitVec 16) (s : State),
      ∃ l, bs.foldl (fun s b => s.l2Fill b (f b)) s = { s with coh := { s.coh with l2 := l } } := by
    intro bs f
    induction bs with
    | nil => exact fun s => ⟨s.coh.l2, rfl⟩
    | cons b bs ih =>
      intro s
      obtain ⟨l, hl⟩ := ih (s.l2Fill b (f b))
      exact ⟨l, hl⟩
  exact h (blocksOf pa n) _ s

/-- With nothing under way and no copy held, a write at the home leaves the machine so, and changes no team, core or management register. -/
theorem homeWrite_quiet {s : State} (pa : Nat) (bs : List Byte) (h : s.still = true) (hd : s.coh.dir = []) :
    (s.homeWrite pa bs).still = true ∧ (s.homeWrite pa bs).coh.dir = [] ∧ (s.homeWrite pa bs).coh.blocked = s.coh.blocked
      ∧ (s.homeWrite pa bs).mgmt = s.mgmt ∧ (s.homeWrite pa bs).teams = s.teams ∧ (s.homeWrite pa bs).cores = s.cores := by
  have hg : s.gather pa bs.length = s := by
    have h1 : s.settled pa bs.length = s := by simp [State.settled, State.idleAt, h]
    simp [State.gather, h1, State.heldUnits, hd]
  obtain ⟨l, hl⟩ := l2Write_l2 s pa bs.length
  unfold State.homeWrite State.homePut
  rw [hg, hl]
  exact ⟨h, hd, rfl, rfl, rfl, rfl⟩

theorem homeOr_canon {s : State} (pa : Nat) (v : Byte) (mark : Bool) (h : s.Canon) : (s.homeOr pa v mark).Canon :=
  homePut_canon _ _ (gather_canon _ _ _ h)

theorem applyOrs_canon {s : State} (h : s.Canon) : (applyOrs s).Canon := by
  unfold applyOrs
  refine foldl_canon (fun s x h => ?_) _ h
  dsimp only
  split
  · exact h
  · exact homeOr_canon _ _ _ (show State.Canon _ from h)

/-- What a step leaves is canonical when what it computed is. -/
theorem after_canon {s t : State} (hs : s.Canon) (ht : t.Canon) : (s.after t).Canon := by
  unfold State.after
  split
  · exact goViral_canon _ _ hs
  · split
    · exact hs
    · exact applyOrs_canon (show State.Canon _ from ht)

/-! ## Accesses of a core -/

theorem dropBlock_canon {s : State} (core : Nat) (b : Nat × Nat) (h : s.Canon) : (s.dropBlock core b).Canon :=
  ncFlush_canon _ _ _ _ (canon_of_mem (shedLines_mem s _) h)

theorem l1Room_canon {s : State} (core ctx : Nat) (va : Dword) (h : s.Canon) : (s.l1Room core ctx va).Canon := by
  simp only [State.l1Room]
  repeat' split
  all_goals first
    | exact h
    | exact dropBlock_canon _ _ h

theorem ask_canon {s : State} (kind : MsgKind) (core ctx : Nat) (va : Dword) (pa gr : Nat) (p : L1Line → Bool) (h : s.Canon) :
    (s.ask kind core ctx va pa gr p).Canon := drive_canon _ _ _ (pumpAll_canon (arriveMsg_canon _ (show State.Canon _ from h)))

theorem fetchShared_canon {s : State} (core ctx : Nat) (va : Dword) (pa gr : Nat) (h : s.Canon) : (s.fetchShared core ctx va pa gr).Canon := by
  unfold State.fetchShared
  split
  · exact h
  · extract_lets c s1 held s2 s3
    have h1 : s1.Canon := settled_canon _ _ (l1Room_canon _ _ _ h)
    have h3 : s3.Canon := ask_canon _ _ _ _ _ _ _ (settled_canon _ _ (canon_of_mem (shedLines_mem s1 _) h1))
    clear_value s3 held s1
    split
    · exact h3
    · split
      · exact h1
      · exact ask_canon _ _ _ _ _ _ _ h1

theorem fetchOwned_canon {s : State} (core ctx : Nat) (va : Dword) (pa gr : Nat) (h : s.Canon) : (s.fetchOwned core ctx va pa gr).Canon := by
  have h1 : ((s.l1Room core ctx va).settled pa 1).Canon := settled_canon _ _ (l1Room_canon _ _ _ h)
  simp only [State.fetchOwned]
  generalize (s.l1Room core ctx va).settled pa 1 = s1 at h1
  split
  · exact coh_canon _ h1
  · have h2 := dropClusterTranslations_canon (holderCluster core) (unitBase pa (s1.grainAt pa gr)) (s1.grainAt pa gr) h1
    generalize s1.dropClusterTranslations _ _ _ = s2 at h2
    split
    · exact ask_canon _ _ _ _ _ _ _ h2
    · split
      · exact coh_canon _ h2
      · exact ask_canon _ _ _ _ _ _ _ (coh_canon _ h2)

theorem walkLine_canon {s : State} (c pa : Nat) (h : s.Canon) : (s.walkLine c pa).Canon := fetchShared_canon _ _ _ _ _ h

theorem holdRanges_canon {s : State} (core ctx : Nat) (h : s.Canon) : (s.holdRanges core ctx).Canon := by
  simp only [State.holdRanges]; split
  · exact walkLine_canon _ _ (walkLine_canon _ _ h)
  · exact h

theorem ncFetch_canon {s : State} (core ctx : Nat) (va : Dword) (pa : Nat) (h : s.Canon) : (s.ncFetch core ctx va pa).Canon := by
  unfold State.ncFetch
  split
  · exact h
  · exact canon_of_mem (State.setCore_mem _ _ _) (l2Read_canon _ _ (l1Room_canon _ _ _ h))

theorem coreRead_canon {s : State} (core ctx : Nat) (va : Dword) (pa gr n : Nat) (h : s.Canon) : (s.coreRead core ctx va pa gr n).2.Canon := by
  have h1 := holdRanges_canon core ctx h
  simp only [State.coreRead]
  generalize s.holdRanges core ctx = s1 at h1
  split
  · exact coh_canon _ h
  · split
    · exact h
    · split
      · exact fetchShared_canon _ _ _ _ _ h1
      · split
        · exact ncFetch_canon _ _ _ _ h1
        · exact l2Read_canon _ _ h1

theorem storeLine_canon {s : State} (core ctx : Nat) (va : Dword) (pa gr : Nat) (bs : List Byte) (h : s.Canon) :
    (s.storeLine core ctx va pa gr bs).Canon := by
  simp only [State.storeLine]
  exact coh_canon _ (fetchOwned_canon core ctx va pa gr h)

theorem storeSector_canon {s : State} (core ctx : Nat) (va : Dword) (pa : Nat) (bs : List Byte) (h : s.Canon) :
    (s.storeSector core ctx va pa bs).Canon := canon_of_mem (State.setCore_mem _ _ _) (ncFetch_canon core ctx va pa h)

theorem noteWriter_canon {s : State} (core pa n : Nat) (h : s.Canon) : (s.noteWriter core pa n).Canon := coh_canon _ h

theorem coreWrite_canon {s : State} (core ctx : Nat) (va : Dword) (pa gr : Nat) (bs : List Byte) (h : s.Canon) :
    (s.coreWrite core ctx va pa gr bs).Canon := by
  have h1 := noteWriter_canon core pa bs.length h
  simp only [State.coreWrite]
  generalize s.noteWriter core pa bs.length = s1 at h1
  have h2 := holdRanges_canon core ctx h1
  generalize s1.holdRanges core ctx = s2 at h2
  split
  · exact storeSector_canon _ _ _ _ _ h1
  · split
    · exact storeLine_canon _ _ _ _ _ _ h1
    · split
      · exact storeLine_canon _ _ _ _ _ _ h2
      · split
        · exact storeSector_canon _ _ _ _ _ h2
        · exact homePut_canon _ _ h2

theorem coreSwap_canon {s : State} (core ctx : Nat) (va : Dword) (pa gr : Nat) (bs : List Byte) (h : s.Canon) :
    (s.coreSwap core ctx va pa gr bs).2.Canon := by
  unfold State.coreSwap
  extract_lets own s1
  have h1 : s1.Canon := by
    show State.Canon (if _ then _ else _)
    split
    · exact fetchOwned_canon _ _ _ _ _ h
    · exact h
  clear_value s1
  exact coreWrite_canon _ _ _ _ _ _ (coreRead_canon _ _ _ _ _ _ h1)

theorem homeRead_canon {s : State} (pa n : Nat) (h : s.Canon) : (s.homeRead pa n).2.Canon := by
  unfold State.homeRead
  extract_lets s1 s2
  have h1 : s1.Canon := settled_canon _ _ h
  refine foldl_canon (fun s a h => ?_) _ h1
  split
  · exact h
  · exact l2Read_canon _ _ h

theorem engRead_canon {s : State} (core ctx pa n : Nat) (h : s.Canon) : (s.engRead core ctx pa n).2.Canon := by
  have h1 := holdRanges_canon core ctx h
  simp only [State.engRead]
  generalize s.holdRanges core ctx = s1 at h1
  split
  · exact frameTouch_canon _ _ (homeRead_canon _ _ h1)
  · exact l2Read_canon _ _ h1

theorem engWrite_canon {s : State} (core ctx pa : Nat) (bs : List Byte) (h : s.Canon) : (s.engWrite core ctx pa bs).Canon := by
  have h1 := holdRanges_canon core ctx h
  simp only [State.engWrite]
  generalize s.holdRanges core ctx = s1 at h1
  refine noteWriter_canon _ _ _ ?_
  split
  · exact frameTouch_canon _ _ (homeWrite_canon _ _ h1)
  · exact homePut_canon _ _ h1

theorem orLeaf_canon {s : State} (leaf : Nat) (m : Byte) (h : s.Canon) : (s.orLeaf leaf m).Canon := by
  unfold State.orLeaf; split
  · exact h
  · exact homeOr_canon _ _ _ h

/-! ## Caches that are emptied, and repair -/

theorem dropL1_canon {s : State} (c : Nat) (h : s.Canon) : (dropL1 s c).Canon :=
  ncFlush_canon _ _ _ _ (canon_of_mem (shedLines_mem s _) h)

theorem dropAllL1_canon {s : State} (h : s.Canon) : (dropAllL1 s).Canon :=
  drive_canon _ _ _ (foldl_canon (fun _ c h => dropL1_canon c h) _ h)

theorem emptyCaches_canon {s : State} (h : s.Canon) : (emptyCaches s).Canon :=
  coh_canon _ (foldl_canon (fun _ _ h => canon_of_mem (State.setCluster_mem _ _ _) h) _ (dropAllL1_canon h))

theorem withdraw_canon {s : State} (n : Nat) (h : s.Canon) : (withdraw n s).Canon := SMap.wf_filter _ h

end Sys2Proof.Machine
end

