-- ==== Sys2Proof/Laws/PerInstr.lean ====
section
/-!
SUPPORT. For every constructor of the syntax: the word of a well-formed form decodes to it, under its prefix, with every operand.
-/

namespace Sys2Proof.Laws.Words

/-- The word of the form, under its prefix, decodes to the form. -/
def Statement (i : Instr) : Prop := ∀ p l, i.layout = some (p, l) → i.wf = true → decodeBase p l.word = .ok i

theorem of_instr {i : Instr} {p : Option Prefix} {l : Layout} (hl : i.layout = some (p, l)) (hp : l.proper = true)
    (h : i.wf = true → l.instr p = .ok i) : Statement i := by
  intro p' l' hl' hw
  rw [hl] at hl'
  cases hl'
  rw [decodeBase_word p hp, h hw]

theorem of_none {i : Instr} (hl : i.layout = none) : Statement i := fun p l h => by rw [hl] at h; cases h

theorem clauseStart (k : Nat) : Statement (.clauseStart k) := of_none rfl
theorem periodicSwapOpportunity (core : Nat) : Statement (.periodicSwapOpportunity core) := of_none rfl
theorem flagACompletion (k j : Nat) : Statement (.flagACompletion k j) := of_none rfl
theorem storeEntry (k : Nat) : Statement (.storeEntry k) := of_none rfl
theorem storeOrderPoint (k j l : Nat) : Statement (.storeOrderPoint k j l) := of_none rfl
theorem fenceComplete (k : Nat) : Statement (.fenceComplete k) := of_none rfl
theorem functionResult (k j : Nat) : Statement (.functionResult k j) := of_none rfl
theorem waitfRelease (k : Nat) : Statement (.waitfRelease k) := of_none rfl
theorem matrixSwap (core team : Nat) : Statement (.matrixSwap core team) := of_none rfl
theorem mmaComplete (core j : Nat) : Statement (.mmaComplete core j) := of_none rfl
theorem copyAccept (core : Nat) : Statement (.copyAccept core) := of_none rfl
theorem copyElementLand (core j : Nat) : Statement (.copyElementLand core j) := of_none rfl
theorem tsweepComplete (core j : Nat) : Statement (.tsweepComplete core j) := of_none rfl
theorem tfetchComplete (core j : Nat) : Statement (.tfetchComplete core j) := of_none rfl
theorem accStComplete (core j : Nat) : Statement (.accStComplete core j) := of_none rfl
theorem accLdComplete (core j : Nat) : Statement (.accLdComplete core j) := of_none rfl
theorem sclLdComplete (core j : Nat) : Statement (.sclLdComplete core j) := of_none rfl
theorem tfetchRerunComplete (core slot : Nat) : Statement (.tfetchRerunComplete core slot) := of_none rfl
theorem responseLost (k j lane : Nat) : Statement (.responseLost k j lane) := of_none rfl
theorem savedRequestLapse (peer id : Nat) : Statement (.savedRequestLapse peer id) := of_none rfl
theorem keptValueExpiry (src id : Nat) : Statement (.keptValueExpiry src id) := of_none rfl
theorem rds (agent unit : Nat) : Statement (.rds agent unit) := of_none rfl
theorem rdx (agent unit : Nat) : Statement (.rdx agent unit) := of_none rfl
theorem upg (agent unit : Nat) : Statement (.upg agent unit) := of_none rfl
theorem wbd (agent unit : Nat) : Statement (.wbd agent unit) := of_none rfl
theorem fwds (agent unit : Nat) : Statement (.fwds agent unit) := of_none rfl
theorem fwdx (agent unit : Nat) : Statement (.fwdx agent unit) := of_none rfl
theorem inv (agent unit : Nat) : Statement (.inv agent unit) := of_none rfl
theorem dataS (agent unit : Nat) : Statement (.dataS agent unit) := of_none rfl
theorem dataE (agent unit : Nat) : Statement (.dataE agent unit) := of_none rfl
theorem dataM (agent unit : Nat) : Statement (.dataM agent unit) := of_none rfl
theorem ackM (agent unit : Nat) : Statement (.ackM agent unit) := of_none rfl
theorem fwdack (agent unit : Nat) : Statement (.fwdack agent unit) := of_none rfl
theorem nodata (agent unit : Nat) : Statement (.nodata agent unit) := of_none rfl
theorem invack (agent unit : Nat) : Statement (.invack agent unit) := of_none rfl
theorem wback (agent unit : Nat) : Statement (.wback agent unit) := of_none rfl
theorem sweeperTick : Statement .sweeperTick := of_none rfl
theorem patrolScrub : Statement .patrolScrub := of_none rfl
theorem mrepairPend (pcn : Nat) : Statement (.mrepairPend pcn) := of_none rfl
theorem mrepairGrant (v : Dword) : Statement (.mrepairGrant v) := of_none rfl
theorem repairCopyDone : Statement .repairCopyDone := of_none rfl
theorem mpcstatClr (n : Nat) (v : Dword) : Statement (.mpcstatClr n v) := of_none rfl
theorem cbroleWrite (core : Nat) (v : Dword) : Statement (.cbroleWrite core v) := of_none rfl
theorem bankDrainDone (core : Nat) : Statement (.bankDrainDone core) := of_none rfl
theorem frameReservation (team : Nat) (pages : List Nat) : Statement (.frameReservation team pages) := of_none rfl
theorem spadPageFill (team page : Nat) : Statement (.spadPageFill team page) := of_none rfl
theorem spadEviction (team page : Nat) : Statement (.spadEviction team page) := of_none rfl
theorem registerLineFill (k line : Nat) : Statement (.registerLineFill k line) := of_none rfl
theorem icacheMissFill (core ctx line : Nat) : Statement (.icacheMissFill core ctx line) := of_none rfl
theorem reverseStep (k : Nat) : Statement (.reverseStep k) := of_none rfl
theorem preempt (team : Nat) : Statement (.preempt team) := of_none rfl
theorem copyStopTimeout (core j : Nat) : Statement (.copyStopTimeout core j) := of_none rfl
theorem saveComplete (team : Nat) : Statement (.saveComplete team) := of_none rfl
theorem teamRestore (team core : Nat) : Statement (.teamRestore team core) := of_none rfl
theorem cpTakeRecord (cp : Nat) : Statement (.cpTakeRecord cp) := of_none rfl
theorem launchExpand (j : Nat) : Statement (.launchExpand j) := of_none rfl
theorem taskDeal (j : Nat) : Statement (.taskDeal j) := of_none rfl
theorem taskStart (core : Nat) : Statement (.taskStart core) := of_none rfl
theorem coreSteal (core : Nat) : Statement (.coreSteal core) := of_none rfl
theorem taskEnd (team : Nat) : Statement (.taskEnd team) := of_none rfl
theorem joinAppend (j : Nat) : Statement (.joinAppend j) := of_none rfl
theorem joinAppendTimeout (j : Nat) : Statement (.joinAppendTimeout j) := of_none rfl
theorem queueHoldRelease (k : Nat) : Statement (.queueHoldRelease k) := of_none rfl
theorem qputTimeout (k : Nat) : Statement (.qputTimeout k) := of_none rfl
theorem domainAdmit : Statement .domainAdmit := of_none rfl
theorem dsyncGrant (k : Nat) : Statement (.dsyncGrant k) := of_none rfl
theorem turnClose (dom : Nat) : Statement (.turnClose dom) := of_none rfl
theorem dclkRelease (k : Nat) : Statement (.dclkRelease k) := of_none rfl
theorem flushPoint (dom : Nat) : Statement (.flushPoint dom) := of_none rfl
theorem segmentCompare (k : Nat) : Statement (.segmentCompare k) := of_none rfl
theorem clusterRebuild (cluster : Nat) : Statement (.clusterRebuild cluster) := of_none rfl
theorem rebuildComplete (cluster : Nat) : Statement (.rebuildComplete cluster) := of_none rfl
theorem watchdogWeft (k : Nat) : Statement (.watchdogWeft k) := of_none rfl
theorem watchdogCluster (cluster : Nat) : Statement (.watchdogCluster cluster) := of_none rfl
theorem watchdogCmdp (cp : Nat) : Statement (.watchdogCmdp cp) := of_none rfl
theorem watchdogHang (k : Nat) : Statement (.watchdogHang k) := of_none rfl
theorem faultEntryWrite (j : Nat) : Statement (.faultEntryWrite j) := of_none rfl
theorem fqHeadPoll (ctx : Nat) : Statement (.fqHeadPoll ctx) := of_none rfl
theorem faultReportDrop (j : Nat) : Statement (.faultReportDrop j) := of_none rfl
theorem fqresume (v : Dword) : Statement (.fqresume v) := of_none rfl
theorem fqdiscard (v : Dword) : Statement (.fqdiscard v) := of_none rfl
theorem ctxstop (v : Dword) : Statement (.ctxstop v) := of_none rfl
theorem ctxgo (v : Dword) : Statement (.ctxgo v) := of_none rfl
theorem translationConfigWrite (off : Nat) (v : Dword) : Statement (.translationConfigWrite off v) := of_none rfl
theorem imagePoolWrite (off : Nat) (v : Dword) : Statement (.imagePoolWrite off v) := of_none rfl
theorem qcfgWrite (q : Nat) (v : Dword) : Statement (.qcfgWrite q v) := of_none rfl
theorem qbaseWrite (q : Nat) (v : Dword) : Statement (.qbaseWrite q v) := of_none rfl
theorem qpost (q bytes : Nat) (rec : BitVec 512) : Statement (.qpost q bytes rec) := of_none rfl
theorem msemTake (port : Nat) : Statement (.msemTake port) := of_none rfl
theorem msemGive (port : Nat) : Statement (.msemGive port) := of_none rfl
theorem mreset (port : Nat) (v : Dword) : Statement (.mreset port v) := of_none rfl
theorem fwupd (port : Nat) (v : Dword) : Statement (.fwupd port v) := of_none rfl
theorem attctlGo (port : Nat) : Statement (.attctlGo port) := of_none rfl
theorem attestDone : Statement .attestDone := of_none rfl
theorem dbgrev2 (port : Nat) (v : Dword) : Statement (.dbgrev2 port v) := of_none rfl
theorem modidWrite (v : Dword) : Statement (.modidWrite v) := of_none rfl
theorem registerWrite (off : Nat) (v : Dword) : Statement (.registerWrite off v) := of_none rfl
theorem apertureRead (off bytes : Nat) : Statement (.apertureRead off bytes) := of_none rfl
theorem apertureWrite (off bytes : Nat) (v : Dword) : Statement (.apertureWrite off bytes v) := of_none rfl
theorem portLinkDown (port : Nat) : Statement (.portLinkDown port) := of_none rfl
theorem moduleReset : Statement .moduleReset := of_none rfl
theorem powerCapExceeded : Statement .powerCapExceeded := of_none rfl
theorem thermalTrip : Statement .thermalTrip := of_none rfl
theorem rld8 (link : Nat) (f : Flit) : Statement (.rld8 link f) := of_none rfl
theorem rld16 (link : Nat) (f : Flit) : Statement (.rld16 link f) := of_none rfl
theorem rst8 (link : Nat) (f : Flit) : Statement (.rst8 link f) := of_none rfl
theorem rst16 (link : Nat) (f : Flit) : Statement (.rst16 link f) := of_none rfl
theorem raddFlit (link : Nat) (f : Flit) : Statement (.raddFlit link f) := of_none rfl
theorem rcas (link : Nat) (f : Flit) : Statement (.rcas link f) := of_none rfl
theorem rxch (link : Nat) (f : Flit) : Statement (.rxch link f) := of_none rfl
theorem rdata (link : Nat) (f : Flit) : Statement (.rdata link f) := of_none rfl
theorem rack (link : Nat) (f : Flit) : Statement (.rack link f) := of_none rfl
theorem rerr (link : Nat) (f : Flit) : Statement (.rerr link f) := of_none rfl
theorem idle (link : Nat) (f : Flit) : Statement (.idle link f) := of_none rfl
theorem nak (link : Nat) (f : Flit) : Statement (.nak link f) := of_none rfl
theorem train (link : Nat) (f : Flit) : Statement (.train link f) := of_none rfl
theorem linkFail (link : Nat) : Statement (.linkFail link) := of_none rfl
theorem mmaOperandReadDone (core j : Nat) : Statement (.mmaOperandReadDone core j) := of_none rfl
theorem illegalEncoding (w : Word) : Statement (.illegalEncoding w) := of_none rfl
theorem flitCheckFailure (link : Nat) (f : Flit) : Statement (.flitCheckFailure link f) := of_none rfl
theorem unknownFlitType (link : Nat) (f : Flit) : Statement (.unknownFlitType link f) := of_none rfl
theorem msixVectorUnmask (port vec : Nat) : Statement (.msixVectorUnmask port vec) := of_none rfl
theorem managementSequencerLoss : Statement .managementSequencerLoss := of_none rfl
theorem add (p : Option Prefix) (u : Bool) (d : Reg) (a : Reg) (b : Reg) : Statement (.add p u d a b) := of_instr rfl rfl fun _ => rfl
theorem sub (p : Option Prefix) (u : Bool) (d : Reg) (a : Reg) (b : Reg) : Statement (.sub p u d a b) := of_instr rfl rfl fun _ => rfl
theorem and (p : Option Prefix) (u : Bool) (d : Reg) (a : Reg) (b : Reg) : Statement (.and p u d a b) := of_instr rfl rfl fun _ => rfl
theorem or (p : Option Prefix) (u : Bool) (d : Reg) (a : Reg) (b : Reg) : Statement (.or p u d a b) := of_instr rfl rfl fun _ => rfl
theorem xor (p : Option Prefix) (u : Bool) (d : Reg) (a : Reg) (b : Reg) : Statement (.xor p u d a b) := of_instr rfl rfl fun _ => rfl
theorem andn (p : Option Prefix) (u : Bool) (d : Reg) (a : Reg) (b : Reg) : Statement (.andn p u d a b) := of_instr rfl rfl fun _ => rfl
theorem minI (p : Option Prefix) (u : Bool) (d : Reg) (a : Reg) (b : Reg) : Statement (.minI p u d a b) := of_instr rfl rfl fun _ => rfl
theorem maxI (p : Option Prefix) (u : Bool) (d : Reg) (a : Reg) (b : Reg) : Statement (.maxI p u d a b) := of_instr rfl rfl fun _ => rfl
theorem shl (p : Option Prefix) (u : Bool) (d : Reg) (a : Reg) (b : Reg) : Statement (.shl p u d a b) := of_instr rfl rfl fun _ => rfl
theorem shr (p : Option Prefix) (u : Bool) (d : Reg) (a : Reg) (b : Reg) : Statement (.shr p u d a b) := of_instr rfl rfl fun _ => rfl
theorem sar (p : Option Prefix) (u : Bool) (d : Reg) (a : Reg) (b : Reg) : Statement (.sar p u d a b) := of_instr rfl rfl fun _ => rfl
theorem rol (p : Option Prefix) (u : Bool) (d : Reg) (a : Reg) (b : Reg) : Statement (.rol p u d a b) := of_instr rfl rfl fun _ => rfl
theorem ror (p : Option Prefix) (u : Bool) (d : Reg) (a : Reg) (b : Reg) : Statement (.ror p u d a b) := of_instr rfl rfl fun _ => rfl
theorem minN (p : Option Prefix) (u : Bool) (d : Reg) (a : Reg) (b : Reg) : Statement (.minN p u d a b) := of_instr rfl rfl fun _ => rfl
theorem maxN (p : Option Prefix) (u : Bool) (d : Reg) (a : Reg) (b : Reg) : Statement (.maxN p u d a b) := of_instr rfl rfl fun _ => rfl
theorem adif (p : Option Prefix) (u : Bool) (d : Reg) (a : Reg) (b : Reg) : Statement (.adif p u d a b) := of_instr rfl rfl fun _ => rfl
theorem mul (p : Option Prefix) (u : Bool) (d : Reg) (a : Reg) (b : Reg) : Statement (.mul p u d a b) := of_instr rfl rfl fun _ => rfl
theorem mulhI (p : Option Prefix) (u : Bool) (d : Reg) (a : Reg) (b : Reg) : Statement (.mulhI p u d a b) := of_instr rfl rfl fun _ => rfl
theorem mulhN (p : Option Prefix) (u : Bool) (d : Reg) (a : Reg) (b : Reg) : Statement (.mulhN p u d a b) := of_instr rfl rfl fun _ => rfl
theorem divI (p : Option Prefix) (u : Bool) (d : Reg) (a : Reg) (b : Reg) : Statement (.divI p u d a b) := of_instr rfl rfl fun _ => rfl
theorem divN (p : Option Prefix) (u : Bool) (d : Reg) (a : Reg) (b : Reg) : Statement (.divN p u d a b) := of_instr rfl rfl fun _ => rfl
theorem remI (p : Option Prefix) (u : Bool) (d : Reg) (a : Reg) (b : Reg) : Statement (.remI p u d a b) := of_instr rfl rfl fun _ => rfl
theorem remN (p : Option Prefix) (u : Bool) (d : Reg) (a : Reg) (b : Reg) : Statement (.remN p u d a b) := of_instr rfl rfl fun _ => rfl
theorem mad (p : Option Prefix) (u : Bool) (d : Reg) (a : Reg) (b : Reg) : Statement (.mad p u d a b) := of_instr rfl rfl fun _ => rfl
theorem addx (p : Option Prefix) (u : Bool) (d : Reg) (a : Reg) : Statement (.addx p u d a) := of_instr rfl rfl fun _ => rfl
theorem subx (p : Option Prefix) (u : Bool) (d : Reg) (a : Reg) : Statement (.subx p u d a) := of_instr rfl rfl fun _ => rfl
theorem xorx (p : Option Prefix) (u : Bool) (d : Reg) (a : Reg) : Statement (.xorx p u d a) := of_instr rfl rfl fun _ => rfl
theorem rolx (p : Option Prefix) (u : Bool) (d : Reg) (a : Reg) : Statement (.rolx p u d a) := of_instr rfl rfl fun _ => rfl
theorem rorx (p : Option Prefix) (u : Bool) (d : Reg) (a : Reg) : Statement (.rorx p u d a) := of_instr rfl rfl fun _ => rfl
theorem negx (p : Option Prefix) (u : Bool) (d : Reg) : Statement (.negx p u d) := of_instr rfl rfl fun _ => rfl
theorem notx (p : Option Prefix) (u : Bool) (d : Reg) : Statement (.notx p u d) := of_instr rfl rfl fun _ => rfl
theorem mulx (p : Option Prefix) (u : Bool) (d : Reg) (a : Reg) : Statement (.mulx p u d a) := of_instr rfl rfl fun _ => rfl
theorem swap (p : Option Prefix) (u : Bool) (d : Reg) (a : Reg) : Statement (.swap p u d a) := of_instr rfl rfl fun _ => rfl
theorem cswap (p : Option Prefix) (u : Bool) (d : Reg) (a : Reg) : Statement (.cswap p u d a) := of_instr rfl rfl fun _ => rfl
theorem clz (p : Option Prefix) (u : Bool) (d : Reg) (a : Reg) : Statement (.clz p u d a) := of_instr rfl rfl fun _ => rfl
theorem popc (p : Option Prefix) (u : Bool) (d : Reg) (a : Reg) : Statement (.popc p u d a) := of_instr rfl rfl fun _ => rfl
theorem brev (p : Option Prefix) (u : Bool) (d : Reg) (a : Reg) : Statement (.brev p u d a) := of_instr rfl rfl fun _ => rfl
theorem sel (p : Option Prefix) (u : Bool) (d : Reg) (a : Reg) (b : Reg) : Statement (.sel p u d a b) := of_instr rfl rfl fun _ => rfl
theorem mov (p : Option Prefix) (u : Bool) (d : Reg) (a : Reg) : Statement (.mov p u d a) := of_instr rfl rfl fun _ => rfl
theorem bfx (p : Option Prefix) (u : Bool) (d : Reg) (a : Reg) (b : Reg) : Statement (.bfx p u d a b) := of_instr rfl rfl fun _ => rfl
theorem cmpEq (p : Option Prefix) (u : Bool) (d : BitVec 3) (a : Reg) (b : Reg) : Statement (.cmpEq p u d a b) := of_instr rfl rfl fun _ => by
  show decodeA06 p 0 u (0#4 ++ d) a b = _
  simp only [decodeA06, mask_low, mask_high]; rfl
theorem cmpNe (p : Option Prefix) (u : Bool) (d : BitVec 3) (a : Reg) (b : Reg) : Statement (.cmpNe p u d a b) := of_instr rfl rfl fun _ => by
  show decodeA06 p 1 u (0#4 ++ d) a b = _
  simp only [decodeA06, mask_low, mask_high]; rfl
theorem cmpLtI (p : Option Prefix) (u : Bool) (d : BitVec 3) (a : Reg) (b : Reg) : Statement (.cmpLtI p u d a b) := of_instr rfl rfl fun _ => by
  show decodeA06 p 2 u (0#4 ++ d) a b = _
  simp only [decodeA06, mask_low, mask_high]; rfl
theorem cmpLeI (p : Option Prefix) (u : Bool) (d : BitVec 3) (a : Reg) (b : Reg) : Statement (.cmpLeI p u d a b) := of_instr rfl rfl fun _ => by
  show decodeA06 p 3 u (0#4 ++ d) a b = _
  simp only [decodeA06, mask_low, mask_high]; rfl
theorem cmpLtN (p : Option Prefix) (u : Bool) (d : BitVec 3) (a : Reg) (b : Reg) : Statement (.cmpLtN p u d a b) := of_instr rfl rfl fun _ => by
  show decodeA06 p 4 u (0#4 ++ d) a b = _
  simp only [decodeA06, mask_low, mask_high]; rfl
theorem cmpLeN (p : Option Prefix) (u : Bool) (d : BitVec 3) (a : Reg) (b : Reg) : Statement (.cmpLeN p u d a b) := of_instr rfl rfl fun _ => by
  show decodeA06 p 5 u (0#4 ++ d) a b = _
  simp only [decodeA06, mask_low, mask_high]; rfl
theorem cmpTst (p : Option Prefix) (u : Bool) (d : BitVec 3) (a : Reg) (b : Reg) : Statement (.cmpTst p u d a b) := of_instr rfl rfl fun _ => by
  show decodeA06 p 6 u (0#4 ++ d) a b = _
  simp only [decodeA06, mask_low, mask_high]; rfl
theorem addi (p : Option Prefix) (u : Bool) (d : Reg) (a : Reg) (i : BitVec 10) : Statement (.addi p u d a i) := of_instr rfl rfl fun _ => rfl
theorem andi (p : Option Prefix) (u : Bool) (d : Reg) (a : Reg) (i : BitVec 10) : Statement (.andi p u d a i) := of_instr rfl rfl fun _ => rfl
theorem ori (p : Option Prefix) (u : Bool) (d : Reg) (a : Reg) (i : BitVec 10) : Statement (.ori p u d a i) := of_instr rfl rfl fun _ => rfl
theorem xori (p : Option Prefix) (u : Bool) (d : Reg) (a : Reg) (i : BitVec 10) : Statement (.xori p u d a i) := of_instr rfl rfl fun _ => rfl
theorem shli (p : Option Prefix) (u : Bool) (d : Reg) (a : Reg) (i : BitVec 5) : Statement (.shli p u d a i) := of_instr rfl rfl fun _ => by
  simp only [Layout.instr, shift_low, shift_high]; rfl
theorem shri (p : Option Prefix) (u : Bool) (d : Reg) (a : Reg) (i : BitVec 5) : Statement (.shri p u d a i) := of_instr rfl rfl fun _ => by
  simp only [Layout.instr, shift_low, shift_high]; rfl
theorem sari (p : Option Prefix) (u : Bool) (d : Reg) (a : Reg) (i : BitVec 5) : Statement (.sari p u d a i) := of_instr rfl rfl fun _ => by
  simp only [Layout.instr, shift_low, shift_high]; rfl
theorem roli (p : Option Prefix) (u : Bool) (d : Reg) (a : Reg) (i : BitVec 5) : Statement (.roli p u d a i) := of_instr rfl rfl fun _ => by
  simp only [Layout.instr, shift_low, shift_high]; rfl
theorem addxi (p : Option Prefix) (u : Bool) (d : Reg) (i : BitVec 17) : Statement (.addxi p u d i) := of_instr rfl rfl fun _ => rfl
theorem xorxi (p : Option Prefix) (u : Bool) (d : Reg) (i : BitVec 17) : Statement (.xorxi p u d i) := of_instr rfl rfl fun _ => rfl
theorem movi (p : Option Prefix) (u : Bool) (d : Reg) (i : BitVec 17) : Statement (.movi p u d i) := of_instr rfl rfl fun _ => rfl
theorem movhi (p : Option Prefix) (u : Bool) (d : Reg) (i : BitVec 15) : Statement (.movhi p u d i) := of_instr rfl rfl fun _ => by
  simp only [Layout.instr, upper_low, upper_high]; rfl
theorem addI64 (p : Option Prefix) (u : Bool) (d : Reg) (a : Reg) (b : Reg) : Statement (.addI64 p u d a b) := of_instr rfl rfl fun _ => rfl
theorem subI64 (p : Option Prefix) (u : Bool) (d : Reg) (a : Reg) (b : Reg) : Statement (.subI64 p u d a b) := of_instr rfl rfl fun _ => rfl
theorem andI64 (p : Option Prefix) (u : Bool) (d : Reg) (a : Reg) (b : Reg) : Statement (.andI64 p u d a b) := of_instr rfl rfl fun _ => rfl
theorem orI64 (p : Option Prefix) (u : Bool) (d : Reg) (a : Reg) (b : Reg) : Statement (.orI64 p u d a b) := of_instr rfl rfl fun _ => rfl
theorem xorI64 (p : Option Prefix) (u : Bool) (d : Reg) (a : Reg) (b : Reg) : Statement (.xorI64 p u d a b) := of_instr rfl rfl fun _ => rfl
theorem shlI64 (p : Option Prefix) (u : Bool) (d : Reg) (a : Reg) (b : Reg) : Statement (.shlI64 p u d a b) := of_instr rfl rfl fun _ => rfl
theorem shrI64 (p : Option Prefix) (u : Bool) (d : Reg) (a : Reg) (b : Reg) : Statement (.shrI64 p u d a b) := of_instr rfl rfl fun _ => rfl
theorem sarI64 (p : Option Prefix) (u : Bool) (d : Reg) (a : Reg) (b : Reg) : Statement (.sarI64 p u d a b) := of_instr rfl rfl fun _ => rfl
theorem mulI64 (p : Option Prefix) (u : Bool) (d : Reg) (a : Reg) (b : Reg) : Statement (.mulI64 p u d a b) := of_instr rfl rfl fun _ => rfl
theorem mulhI64 (p : Option Prefix) (u : Bool) (d : Reg) (a : Reg) (b : Reg) : Statement (.mulhI64 p u d a b) := of_instr rfl rfl fun _ => rfl
theorem mulhN64 (p : Option Prefix) (u : Bool) (d : Reg) (a : Reg) (b : Reg) : Statement (.mulhN64 p u d a b) := of_instr rfl rfl fun _ => rfl
theorem addxI64 (p : Option Prefix) (u : Bool) (d : Reg) (a : Reg) : Statement (.addxI64 p u d a) := of_instr rfl rfl fun _ => rfl
theorem subxI64 (p : Option Prefix) (u : Bool) (d : Reg) (a : Reg) : Statement (.subxI64 p u d a) := of_instr rfl rfl fun _ => rfl
theorem xorxI64 (p : Option Prefix) (u : Bool) (d : Reg) (a : Reg) : Statement (.xorxI64 p u d a) := of_instr rfl rfl fun _ => rfl
theorem swapI64 (p : Option Prefix) (u : Bool) (d : Reg) (a : Reg) : Statement (.swapI64 p u d a) := of_instr rfl rfl fun _ => rfl
theorem lea (p : Option Prefix) (u : Bool) (d : Reg) (a : Reg) (b : Reg) : Statement (.lea p u d a b) := of_instr rfl rfl fun _ => rfl
theorem addiI64 (p : Option Prefix) (u : Bool) (d : Reg) (a : Reg) (i : BitVec 10) : Statement (.addiI64 p u d a i) := of_instr rfl rfl fun _ => rfl
theorem lpull (p : Option Prefix) (d : Reg) (a : Reg) (b : Reg) : Statement (.lpull p d a b) := of_instr rfl rfl fun h => by
  cases p with
  | none => rfl
  | some x => exact if_neg (by simpa [Instr.wf, notExchange] using h)
theorem lpush (p : Option Prefix) (d : Reg) (a : Reg) (b : Reg) : Statement (.lpush p d a b) := of_instr rfl rfl fun h => by
  cases p with
  | none => rfl
  | some x => exact if_neg (by simpa [Instr.wf, notExchange] using h)
theorem lpullXch (p : Prefix) (d : Reg) (a : Reg) (b : Reg) : Statement (.lpullXch p d a b) := of_instr rfl rfl fun h => if_pos h
theorem lpushXch (p : Prefix) (d : Reg) (a : Reg) (b : Reg) : Statement (.lpushXch p d a b) := of_instr rfl rfl fun h => if_pos h
theorem lbcast (p : Option Prefix) (d : Reg) (a : Reg) (b : Reg) : Statement (.lbcast p d a b) := of_instr rfl rfl fun _ => rfl
theorem lxor (p : Option Prefix) (d : Reg) (a : Reg) (b : Reg) : Statement (.lxor p d a b) := of_instr rfl rfl fun _ => rfl
theorem lup (p : Option Prefix) (d : Reg) (a : Reg) (b : Reg) : Statement (.lup p d a b) := of_instr rfl rfl fun _ => rfl
theorem ldown (p : Option Prefix) (d : Reg) (a : Reg) (b : Reg) : Statement (.ldown p d a b) := of_instr rfl rfl fun _ => by
  show decodeA20 p 5 false d a b = _
  simp only [decodeA20, ]; rfl
theorem lrot (p : Option Prefix) (d : Reg) (a : Reg) (b : Reg) : Statement (.lrot p d a b) := of_instr rfl rfl fun _ => rfl
theorem ballot (p : Option Prefix) (d : BitVec 3) (a : Reg) : Statement (.ballot p d a) := of_instr rfl rfl fun _ => by
  show decodeA21 p 0 false (0#4 ++ d) a 0 = _
  simp only [decodeA21, mask_low, mask_high]; rfl
theorem any (p : Option Prefix) (d : BitVec 3) (a : Reg) : Statement (.any p d a) := of_instr rfl rfl fun _ => by
  show decodeA21 p 1 false (0#4 ++ d) a 0 = _
  simp only [decodeA21, mask_low, mask_high]; rfl
theorem all (p : Option Prefix) (d : BitVec 3) (a : Reg) : Statement (.all p d a) := of_instr rfl rfl fun _ => by
  show decodeA21 p 2 false (0#4 ++ d) a 0 = _
  simp only [decodeA21, mask_low, mask_high]; rfl
theorem matchLanes (p : Option Prefix) (d : Reg) (a : Reg) : Statement (.matchLanes p d a) := of_instr rfl rfl fun _ => rfl
theorem mrank (p : Option Prefix) (d : Reg) (a : Reg) : Statement (.mrank p d a) := of_instr rfl rfl fun _ => rfl
theorem mlead (p : Option Prefix) (d : BitVec 3) (a : Reg) : Statement (.mlead p d a) := of_instr rfl rfl fun _ => by
  show decodeA21 p 5 false (0#4 ++ d) a 0 = _
  simp only [decodeA21, mask_low, mask_high]; rfl
theorem pfxpop (p : Option Prefix) (d : Reg) (a : Reg) : Statement (.pfxpop p d a) := of_instr rfl rfl fun _ => rfl
theorem radd (p : Option Prefix) (d : Reg) (a : Reg) : Statement (.radd p d a) := of_instr rfl rfl fun _ => rfl
theorem rmin (p : Option Prefix) (d : Reg) (a : Reg) : Statement (.rmin p d a) := of_instr rfl rfl fun _ => rfl
theorem rmax (p : Option Prefix) (d : Reg) (a : Reg) : Statement (.rmax p d a) := of_instr rfl rfl fun _ => rfl
theorem rand (p : Option Prefix) (d : Reg) (a : Reg) : Statement (.rand p d a) := of_instr rfl rfl fun _ => rfl
theorem rorRed (p : Option Prefix) (d : Reg) (a : Reg) : Statement (.rorRed p d a) := of_instr rfl rfl fun _ => rfl
theorem rxor (p : Option Prefix) (d : Reg) (a : Reg) : Statement (.rxor p d a) := of_instr rfl rfl fun _ => rfl
theorem scani (p : Option Prefix) (d : Reg) (a : Reg) : Statement (.scani p d a) := of_instr rfl rfl fun _ => rfl
theorem scanx (p : Option Prefix) (d : Reg) (a : Reg) : Statement (.scanx p d a) := of_instr rfl rfl fun _ => rfl
theorem mand (p : Option Prefix) (d : BitVec 3) (a : BitVec 3) (b : BitVec 3) : Statement (.mand p d a b) := of_instr rfl rfl fun _ => by
  show decodeA23 p 0 true (0#4 ++ d) (0#4 ++ a) (0#4 ++ b) = _
  simp only [decodeA23, mask_low, mask_high]; rfl
theorem mor (p : Option Prefix) (d : BitVec 3) (a : BitVec 3) (b : BitVec 3) : Statement (.mor p d a b) := of_instr rfl rfl fun _ => by
  show decodeA23 p 1 true (0#4 ++ d) (0#4 ++ a) (0#4 ++ b) = _
  simp only [decodeA23, mask_low, mask_high]; rfl
theorem mxor (p : Option Prefix) (d : BitVec 3) (a : BitVec 3) (b : BitVec 3) : Statement (.mxor p d a b) := of_instr rfl rfl fun _ => by
  show decodeA23 p 2 true (0#4 ++ d) (0#4 ++ a) (0#4 ++ b) = _
  simp only [decodeA23, mask_low, mask_high]; rfl
theorem mnot (p : Option Prefix) (d : BitVec 3) (a : BitVec 3) : Statement (.mnot p d a) := of_instr rfl rfl fun _ => by
  show decodeA23 p 3 true (0#4 ++ d) (0#4 ++ a) 0 = _
  simp only [decodeA23, mask_low, mask_high]; rfl
theorem mmov (p : Option Prefix) (d : BitVec 3) (a : BitVec 3) : Statement (.mmov p d a) := of_instr rfl rfl fun _ => by
  show decodeA23 p 4 true (0#4 ++ d) (0#4 ++ a) 0 = _
  simp only [decodeA23, mask_low, mask_high]; rfl
theorem mpopc (p : Option Prefix) (d : Reg) (a : BitVec 3) : Statement (.mpopc p d a) := of_instr rfl rfl fun _ => by
  show decodeA23 p 5 true d (0#4 ++ a) 0 = _
  simp only [decodeA23, mask_low, mask_high]; rfl
theorem mffs (p : Option Prefix) (d : Reg) (a : BitVec 3) : Statement (.mffs p d a) := of_instr rfl rfl fun _ => by
  show decodeA23 p 6 true d (0#4 ++ a) 0 = _
  simp only [decodeA23, mask_low, mask_high]; rfl
theorem mset (p : Option Prefix) (d : BitVec 3) (a : Reg) : Statement (.mset p d a) := of_instr rfl rfl fun _ => by
  show decodeA23 p 7 true (0#4 ++ d) a 0 = _
  simp only [decodeA23, mask_low, mask_high]; rfl
theorem fadd (p : Option Prefix) (t : Bool) (u : Bool) (d : Reg) (a : Reg) (b : Reg) : Statement (.fadd p t u d a b) := by cases t <;> exact of_instr rfl rfl fun _ => rfl
theorem fsub (p : Option Prefix) (t : Bool) (u : Bool) (d : Reg) (a : Reg) (b : Reg) : Statement (.fsub p t u d a b) := by cases t <;> exact of_instr rfl rfl fun _ => rfl
theorem fmul (p : Option Prefix) (t : Bool) (u : Bool) (d : Reg) (a : Reg) (b : Reg) : Statement (.fmul p t u d a b) := by cases t <;> exact of_instr rfl rfl fun _ => rfl
theorem fdiv (p : Option Prefix) (t : Bool) (u : Bool) (d : Reg) (a : Reg) (b : Reg) : Statement (.fdiv p t u d a b) := by cases t <;> exact of_instr rfl rfl fun _ => rfl
theorem fmin (p : Option Prefix) (t : Bool) (u : Bool) (d : Reg) (a : Reg) (b : Reg) : Statement (.fmin p t u d a b) := by cases t <;> exact of_instr rfl rfl fun _ => rfl
theorem fmax (p : Option Prefix) (t : Bool) (u : Bool) (d : Reg) (a : Reg) (b : Reg) : Statement (.fmax p t u d a b) := by cases t <;> exact of_instr rfl rfl fun _ => rfl
theorem ffma (p : Option Prefix) (t : Bool) (u : Bool) (d : Reg) (a : Reg) (b : Reg) : Statement (.ffma p t u d a b) := by cases t <;> exact of_instr rfl rfl fun _ => rfl
theorem fcopysign (p : Option Prefix) (t : Bool) (u : Bool) (d : Reg) (a : Reg) (b : Reg) : Statement (.fcopysign p t u d a b) := by cases t <;> exact of_instr rfl rfl fun _ => rfl
theorem fsqrt (p : Option Prefix) (t : Bool) (u : Bool) (d : Reg) (a : Reg) : Statement (.fsqrt p t u d a) := by cases t <;> exact of_instr rfl rfl fun _ => rfl
theorem frsq (p : Option Prefix) (t : Bool) (u : Bool) (d : Reg) (a : Reg) : Statement (.frsq p t u d a) := by cases t <;> exact of_instr rfl rfl fun _ => rfl
theorem frec (p : Option Prefix) (t : Bool) (u : Bool) (d : Reg) (a : Reg) : Statement (.frec p t u d a) := by cases t <;> exact of_instr rfl rfl fun _ => rfl
theorem fabs (p : Option Prefix) (t : Bool) (u : Bool) (d : Reg) (a : Reg) : Statement (.fabs p t u d a) := by cases t <;> exact of_instr rfl rfl fun _ => rfl
theorem fneg (p : Option Prefix) (t : Bool) (u : Bool) (d : Reg) (a : Reg) : Statement (.fneg p t u d a) := by cases t <;> exact of_instr rfl rfl fun _ => rfl
theorem frnd (p : Option Prefix) (t : Bool) (u : Bool) (d : Reg) (a : Reg) : Statement (.frnd p t u d a) := by cases t <;> exact of_instr rfl rfl fun _ => rfl
theorem fclass (p : Option Prefix) (t : Bool) (u : Bool) (d : Reg) (a : Reg) : Statement (.fclass p t u d a) := by cases t <;> exact of_instr rfl rfl fun _ => rfl
theorem fscale (p : Option Prefix) (t : Bool) (u : Bool) (d : Reg) (a : Reg) (b : Reg) : Statement (.fscale p t u d a b) := by cases t <;> exact of_instr rfl rfl fun _ => rfl
theorem fexp (p : Option Prefix) (t : Bool) (u : Bool) (d : Reg) (a : Reg) : Statement (.fexp p t u d a) := by cases t <;> exact of_instr rfl rfl fun _ => rfl
theorem fexp2 (p : Option Prefix) (t : Bool) (u : Bool) (d : Reg) (a : Reg) : Statement (.fexp2 p t u d a) := by cases t <;> exact of_instr rfl rfl fun _ => rfl
theorem flog (p : Option Prefix) (t : Bool) (u : Bool) (d : Reg) (a : Reg) : Statement (.flog p t u d a) := by cases t <;> exact of_instr rfl rfl fun _ => rfl
theorem flog2 (p : Option Prefix) (t : Bool) (u : Bool) (d : Reg) (a : Reg) : Statement (.flog2 p t u d a) := by cases t <;> exact of_instr rfl rfl fun _ => rfl
theorem ferf (p : Option Prefix) (t : Bool) (u : Bool) (d : Reg) (a : Reg) : Statement (.ferf p t u d a) := by cases t <;> exact of_instr rfl rfl fun _ => rfl
theorem ferfc (p : Option Prefix) (t : Bool) (u : Bool) (d : Reg) (a : Reg) : Statement (.ferfc p t u d a) := by cases t <;> exact of_instr rfl rfl fun _ => rfl
theorem fncdf (p : Option Prefix) (t : Bool) (u : Bool) (d : Reg) (a : Reg) : Statement (.fncdf p t u d a) := by cases t <;> exact of_instr rfl rfl fun _ => rfl
theorem ftanh (p : Option Prefix) (t : Bool) (u : Bool) (d : Reg) (a : Reg) : Statement (.ftanh p t u d a) := by cases t <;> exact of_instr rfl rfl fun _ => rfl
theorem fcmpEq (p : Option Prefix) (t : Bool) (u : Bool) (d : BitVec 3) (a : Reg) (b : Reg) : Statement (.fcmpEq p t u d a b) := by
  cases t
  · exact of_instr rfl rfl fun _ => by show decodeA2E p false 0 u (0#4 ++ d) a b = _; simp only [decodeA2E, mask_low, mask_high]; rfl
  · exact of_instr rfl rfl fun _ => by show decodeA2E p true 0 u (0#4 ++ d) a b = _; simp only [decodeA2E, mask_low, mask_high]; rfl
theorem fcmpNe (p : Option Prefix) (t : Bool) (u : Bool) (d : BitVec 3) (a : Reg) (b : Reg) : Statement (.fcmpNe p t u d a b) := by
  cases t
  · exact of_instr rfl rfl fun _ => by show decodeA2E p false 1 u (0#4 ++ d) a b = _; simp only [decodeA2E, mask_low, mask_high]; rfl
  · exact of_instr rfl rfl fun _ => by show decodeA2E p true 1 u (0#4 ++ d) a b = _; simp only [decodeA2E, mask_low, mask_high]; rfl
theorem fcmpLt (p : Option Prefix) (t : Bool) (u : Bool) (d : BitVec 3) (a : Reg) (b : Reg) : Statement (.fcmpLt p t u d a b) := by
  cases t
  · exact of_instr rfl rfl fun _ => by show decodeA2E p false 2 u (0#4 ++ d) a b = _; simp only [decodeA2E, mask_low, mask_high]; rfl
  · exact of_instr rfl rfl fun _ => by show decodeA2E p true 2 u (0#4 ++ d) a b = _; simp only [decodeA2E, mask_low, mask_high]; rfl
theorem fcmpLe (p : Option Prefix) (t : Bool) (u : Bool) (d : BitVec 3) (a : Reg) (b : Reg) : Statement (.fcmpLe p t u d a b) := by
  cases t
  · exact of_instr rfl rfl fun _ => by show decodeA2E p false 3 u (0#4 ++ d) a b = _; simp only [decodeA2E, mask_low, mask_high]; rfl
  · exact of_instr rfl rfl fun _ => by show decodeA2E p true 3 u (0#4 ++ d) a b = _; simp only [decodeA2E, mask_low, mask_high]; rfl
theorem fcmpGt (p : Option Prefix) (t : Bool) (u : Bool) (d : BitVec 3) (a : Reg) (b : Reg) : Statement (.fcmpGt p t u d a b) := by
  cases t
  · exact of_instr rfl rfl fun _ => by show decodeA2E p false 4 u (0#4 ++ d) a b = _; simp only [decodeA2E, mask_low, mask_high]; rfl
  · exact of_instr rfl rfl fun _ => by show decodeA2E p true 4 u (0#4 ++ d) a b = _; simp only [decodeA2E, mask_low, mask_high]; rfl
theorem fcmpGe (p : Option Prefix) (t : Bool) (u : Bool) (d : BitVec 3) (a : Reg) (b : Reg) : Statement (.fcmpGe p t u d a b) := by
  cases t
  · exact of_instr rfl rfl fun _ => by show decodeA2E p false 5 u (0#4 ++ d) a b = _; simp only [decodeA2E, mask_low, mask_high]; rfl
  · exact of_instr rfl rfl fun _ => by show decodeA2E p true 5 u (0#4 ++ d) a b = _; simp only [decodeA2E, mask_low, mask_high]; rfl
theorem fcmpUn (p : Option Prefix) (t : Bool) (u : Bool) (d : BitVec 3) (a : Reg) (b : Reg) : Statement (.fcmpUn p t u d a b) := by
  cases t
  · exact of_instr rfl rfl fun _ => by show decodeA2E p false 6 u (0#4 ++ d) a b = _; simp only [decodeA2E, mask_low, mask_high]; rfl
  · exact of_instr rfl rfl fun _ => by show decodeA2E p true 6 u (0#4 ++ d) a b = _; simp only [decodeA2E, mask_low, mask_high]; rfl
theorem fcmpOrd (p : Option Prefix) (t : Bool) (u : Bool) (d : BitVec 3) (a : Reg) (b : Reg) : Statement (.fcmpOrd p t u d a b) := by
  cases t
  · exact of_instr rfl rfl fun _ => by show decodeA2E p false 7 u (0#4 ++ d) a b = _; simp only [decodeA2E, mask_low, mask_high]; rfl
  · exact of_instr rfl rfl fun _ => by show decodeA2E p true 7 u (0#4 ++ d) a b = _; simp only [decodeA2E, mask_low, mask_high]; rfl
theorem hadd (p : Option Prefix) (t : Bool) (u : Bool) (d : Reg) (a : Reg) (b : Reg) : Statement (.hadd p t u d a b) := by cases t <;> exact of_instr rfl rfl fun _ => rfl
theorem hsub (p : Option Prefix) (t : Bool) (u : Bool) (d : Reg) (a : Reg) (b : Reg) : Statement (.hsub p t u d a b) := by cases t <;> exact of_instr rfl rfl fun _ => rfl
theorem hmul (p : Option Prefix) (t : Bool) (u : Bool) (d : Reg) (a : Reg) (b : Reg) : Statement (.hmul p t u d a b) := by cases t <;> exact of_instr rfl rfl fun _ => rfl
theorem hfma (p : Option Prefix) (t : Bool) (u : Bool) (d : Reg) (a : Reg) (b : Reg) : Statement (.hfma p t u d a b) := by cases t <;> exact of_instr rfl rfl fun _ => rfl
theorem hmin (p : Option Prefix) (t : Bool) (u : Bool) (d : Reg) (a : Reg) (b : Reg) : Statement (.hmin p t u d a b) := by cases t <;> exact of_instr rfl rfl fun _ => rfl
theorem hmax (p : Option Prefix) (t : Bool) (u : Bool) (d : Reg) (a : Reg) (b : Reg) : Statement (.hmax p t u d a b) := by cases t <;> exact of_instr rfl rfl fun _ => rfl
theorem cvt (p : Option Prefix) (u : Bool) (d : Reg) (a : Reg) (pf : BitVec 4) (qf : BitVec 3) : Statement (.cvt p u d a pf qf) := of_instr rfl rfl fun _ => by
  show decodeA32 p 0 u d a (pf ++ qf) = _
  simp only [decodeA32, format_low, format_high]; rfl
theorem cvtPk2 (p : Option Prefix) (u : Bool) (d : Reg) (a : Reg) (pf : BitVec 4) (qf : BitVec 3) : Statement (.cvtPk2 p u d a pf qf) := of_instr rfl rfl fun _ => by
  show decodeA32 p 1 u d a (pf ++ qf) = _
  simp only [decodeA32, format_low, format_high]; rfl
theorem cvtPk4 (p : Option Prefix) (u : Bool) (d : Reg) (a : Reg) (pf : BitVec 4) (qf : BitVec 3) : Statement (.cvtPk4 p u d a pf qf) := of_instr rfl rfl fun _ => by
  show decodeA32 p 2 u d a (pf ++ qf) = _
  simp only [decodeA32, format_low, format_high]; rfl
theorem cvtPk8 (p : Option Prefix) (u : Bool) (d : Reg) (a : Reg) (pf : BitVec 4) (qf : BitVec 3) : Statement (.cvtPk8 p u d a pf qf) := of_instr rfl rfl fun _ => by
  show decodeA32 p 3 u d a (pf ++ qf) = _
  simp only [decodeA32, format_low, format_high]; rfl
theorem unpk2 (p : Option Prefix) (u : Bool) (d : Reg) (a : Reg) (pf : BitVec 4) (qf : BitVec 3) : Statement (.unpk2 p u d a pf qf) := of_instr rfl rfl fun _ => by
  show decodeA32 p 4 u d a (pf ++ qf) = _
  simp only [decodeA32, format_low, format_high]; rfl
theorem unpk4 (p : Option Prefix) (u : Bool) (d : Reg) (a : Reg) (pf : BitVec 4) (qf : BitVec 3) : Statement (.unpk4 p u d a pf qf) := of_instr rfl rfl fun _ => by
  show decodeA32 p 5 u d a (pf ++ qf) = _
  simp only [decodeA32, format_low, format_high]; rfl
theorem unpk8 (p : Option Prefix) (u : Bool) (d : Reg) (a : Reg) (pf : BitVec 4) (qf : BitVec 3) : Statement (.unpk8 p u d a pf qf) := of_instr rfl rfl fun _ => by
  show decodeA32 p 6 u d a (pf ++ qf) = _
  simp only [decodeA32, format_low, format_high]; rfl
theorem ld (p : Option Prefix) (sz : BitVec 3) (u : Bool) (d : Reg) (a : Reg) (i : BitVec 7) : Statement (.ld p sz u d a i) := of_instr rfl rfl fun h => if_pos h
theorem st (p : Option Prefix) (sz : BitVec 3) (u : Bool) (d : Reg) (a : Reg) (i : BitVec 7) : Statement (.st p sz u d a i) := of_instr rfl rfl fun h => if_pos h
theorem lds (p : Option Prefix) (sz : BitVec 3) (u : Bool) (d : Reg) (a : Reg) (i : BitVec 7) : Statement (.lds p sz u d a i) := of_instr rfl rfl fun h => if_pos h
theorem sts (p : Option Prefix) (sz : BitVec 3) (u : Bool) (d : Reg) (a : Reg) (i : BitVec 7) : Statement (.sts p sz u d a i) := of_instr rfl rfl fun h => if_pos h
theorem xchg (p : Option Prefix) (sz : Bool) (u : Bool) (d : Reg) (a : Reg) (i : BitVec 7) : Statement (.xchg p sz u d a i) := of_instr rfl rfl fun _ => by
  show decodeA3C p (2#2 ++ bit sz) u d a i = _
  simp only [decodeA3C, size_low, size_high]; rfl
theorem xchgs (p : Option Prefix) (sz : Bool) (u : Bool) (d : Reg) (a : Reg) (i : BitVec 7) : Statement (.xchgs p sz u d a i) := of_instr rfl rfl fun _ => by
  show decodeA3D p (2#2 ++ bit sz) u d a i = _
  simp only [decodeA3D, size_low, size_high]; rfl
theorem lda (p : Option Prefix) (sc : BitVec 2) (sz : Bool) (u : Bool) (d : Reg) (a : Reg) (i : BitVec 7) : Statement (.lda p sc sz u d a i) := of_instr rfl rfl fun _ => by
  show decodeA3E p (sc ++ bit sz) u d a i = _
  simp only [decodeA3E, size_low, size_high]
theorem stl (p : Option Prefix) (sc : BitVec 2) (sz : Bool) (u : Bool) (d : Reg) (a : Reg) (i : BitVec 7) : Statement (.stl p sc sz u d a i) := of_instr rfl rfl fun h => by
  show decodeA3F p (sc ++ bit sz) u d a i = _
  simp only [decodeA3F, size_low, size_high]
  exact if_pos h
theorem cflush (p : Option Prefix) (u : Bool) (a : Reg) (b : Reg) : Statement (.cflush p u a b) := of_instr rfl rfl fun _ => rfl
theorem cinv (p : Option Prefix) (u : Bool) (a : Reg) (b : Reg) : Statement (.cinv p u a b) := of_instr rfl rfl fun _ => rfl
theorem cclean (p : Option Prefix) (u : Bool) (a : Reg) (b : Reg) : Statement (.cclean p u a b) := of_instr rfl rfl fun _ => rfl
theorem pref (p : Option Prefix) (u : Bool) (a : Reg) (b : Reg) : Statement (.pref p u a b) := of_instr rfl rfl fun _ => rfl
theorem pref1 (p : Option Prefix) (u : Bool) (a : Reg) (b : Reg) : Statement (.pref1 p u a b) := of_instr rfl rfl fun _ => rfl
theorem ipref (p : Option Prefix) (u : Bool) (a : Reg) (b : Reg) : Statement (.ipref p u a b) := of_instr rfl rfl fun _ => rfl
theorem spevict (p : Option Prefix) (u : Bool) (a : Reg) (b : Reg) : Statement (.spevict p u a b) := of_instr rfl rfl fun _ => rfl
theorem fenceAcq (p : Option Prefix) (sc : BitVec 2) : Statement (.fenceAcq p sc) := of_instr rfl rfl fun _ => by
  show decodeA41 p 0 true 0 0 (0#5 ++ sc) = _
  simp only [decodeA41, scope_low, scope_high]; rfl
theorem fenceRel (p : Option Prefix) (sc : BitVec 2) : Statement (.fenceRel p sc) := of_instr rfl rfl fun _ => by
  show decodeA41 p 1 true 0 0 (0#5 ++ sc) = _
  simp only [decodeA41, scope_low, scope_high]; rfl
theorem fenceAr (p : Option Prefix) (sc : BitVec 2) : Statement (.fenceAr p sc) := of_instr rfl rfl fun _ => by
  show decodeA41 p 2 true 0 0 (0#5 ++ sc) = _
  simp only [decodeA41, scope_low, scope_high]; rfl
theorem fenceSc (p : Option Prefix) (sc : BitVec 2) : Statement (.fenceSc p sc) := of_instr rfl rfl fun _ => by
  show decodeA41 p 3 true 0 0 (0#5 ++ sc) = _
  simp only [decodeA41, scope_low, scope_high]; rfl
theorem aaddI (p : Option Prefix) (t : Bool) (u : Bool) (d : Reg) (a : Reg) (b : Reg) : Statement (.aaddI p t u d a b) := by cases t <;> exact of_instr rfl rfl fun _ => rfl
theorem aaddF (p : Option Prefix) (t : Bool) (u : Bool) (d : Reg) (a : Reg) (b : Reg) : Statement (.aaddF p t u d a b) := by cases t <;> exact of_instr rfl rfl fun _ => rfl
theorem aminI (p : Option Prefix) (t : Bool) (u : Bool) (d : Reg) (a : Reg) (b : Reg) : Statement (.aminI p t u d a b) := by cases t <;> exact of_instr rfl rfl fun _ => rfl
theorem amaxI (p : Option Prefix) (t : Bool) (u : Bool) (d : Reg) (a : Reg) (b : Reg) : Statement (.amaxI p t u d a b) := by cases t <;> exact of_instr rfl rfl fun _ => rfl
theorem aand (p : Option Prefix) (t : Bool) (u : Bool) (d : Reg) (a : Reg) (b : Reg) : Statement (.aand p t u d a b) := by cases t <;> exact of_instr rfl rfl fun _ => rfl
theorem aor (p : Option Prefix) (t : Bool) (u : Bool) (d : Reg) (a : Reg) (b : Reg) : Statement (.aor p t u d a b) := by cases t <;> exact of_instr rfl rfl fun _ => rfl
theorem axor (p : Option Prefix) (t : Bool) (u : Bool) (d : Reg) (a : Reg) (b : Reg) : Statement (.axor p t u d a b) := by cases t <;> exact of_instr rfl rfl fun _ => rfl
theorem axch (p : Option Prefix) (t : Bool) (u : Bool) (d : Reg) (a : Reg) (b : Reg) : Statement (.axch p t u d a b) := by cases t <;> exact of_instr rfl rfl fun _ => rfl
theorem acasB32 (p : Option Prefix) (u : Bool) (d : Reg) (a : Reg) (b : Reg) : Statement (.acasB32 p u d a b) := of_instr rfl rfl fun _ => rfl
theorem acasB64 (p : Option Prefix) (u : Bool) (d : Reg) (a : Reg) (b : Reg) : Statement (.acasB64 p u d a b) := of_instr rfl rfl fun _ => rfl
theorem aaddsI32 (p : Option Prefix) (u : Bool) (d : Reg) (a : Reg) (b : Reg) : Statement (.aaddsI32 p u d a b) := of_instr rfl rfl fun _ => rfl
theorem aaddsF32 (p : Option Prefix) (u : Bool) (d : Reg) (a : Reg) (b : Reg) : Statement (.aaddsF32 p u d a b) := of_instr rfl rfl fun _ => rfl
theorem aminsI (p : Option Prefix) (u : Bool) (d : Reg) (a : Reg) (b : Reg) : Statement (.aminsI p u d a b) := of_instr rfl rfl fun _ => rfl
theorem amaxsI (p : Option Prefix) (u : Bool) (d : Reg) (a : Reg) (b : Reg) : Statement (.amaxsI p u d a b) := of_instr rfl rfl fun _ => rfl
theorem aands (p : Option Prefix) (u : Bool) (d : Reg) (a : Reg) (b : Reg) : Statement (.aands p u d a b) := of_instr rfl rfl fun _ => rfl
theorem aors (p : Option Prefix) (u : Bool) (d : Reg) (a : Reg) (b : Reg) : Statement (.aors p u d a b) := of_instr rfl rfl fun _ => rfl
theorem axors (p : Option Prefix) (u : Bool) (d : Reg) (a : Reg) (b : Reg) : Statement (.axors p u d a b) := of_instr rfl rfl fun _ => rfl
theorem axchs (p : Option Prefix) (u : Bool) (d : Reg) (a : Reg) (b : Reg) : Statement (.axchs p u d a b) := of_instr rfl rfl fun _ => rfl
theorem daddI32 (p : Option Prefix) (u : Bool) (a : Reg) (b : Reg) : Statement (.daddI32 p u a b) := of_instr rfl rfl fun _ => rfl
theorem daddF32 (p : Option Prefix) (u : Bool) (a : Reg) (b : Reg) : Statement (.daddF32 p u a b) := of_instr rfl rfl fun _ => rfl
theorem daddF64 (p : Option Prefix) (u : Bool) (a : Reg) (b : Reg) : Statement (.daddF64 p u a b) := of_instr rfl rfl fun _ => rfl
theorem dminI (p : Option Prefix) (u : Bool) (a : Reg) (b : Reg) : Statement (.dminI p u a b) := of_instr rfl rfl fun _ => rfl
theorem dmaxI (p : Option Prefix) (u : Bool) (a : Reg) (b : Reg) : Statement (.dmaxI p u a b) := of_instr rfl rfl fun _ => rfl
theorem daddI64 (p : Option Prefix) (u : Bool) (a : Reg) (b : Reg) : Statement (.daddI64 p u a b) := of_instr rfl rfl fun _ => rfl
theorem ratomAdd64 (p : Option Prefix) (u : Bool) (d : Reg) (a : Reg) (b : Reg) : Statement (.ratomAdd64 p u d a b) := of_instr rfl rfl fun _ => rfl
theorem ratomCas64 (p : Option Prefix) (u : Bool) (d : Reg) (a : Reg) (b : Reg) : Statement (.ratomCas64 p u d a b) := of_instr rfl rfl fun _ => rfl
theorem ratomXch64 (p : Option Prefix) (u : Bool) (d : Reg) (a : Reg) (b : Reg) : Statement (.ratomXch64 p u d a b) := of_instr rfl rfl fun _ => rfl
theorem ratomRetry (p : Option Prefix) (u : Bool) (d : Reg) (a : Reg) (b : Reg) : Statement (.ratomRetry p u d a b) := of_instr rfl rfl fun _ => rfl
theorem rldB64 (p : Option Prefix) (u : Bool) (d : Reg) (a : Reg) : Statement (.rldB64 p u d a) := of_instr rfl rfl fun _ => rfl
theorem rstB64 (p : Option Prefix) (u : Bool) (d : Reg) (a : Reg) : Statement (.rstB64 p u d a) := of_instr rfl rfl fun _ => rfl
theorem rldB128 (p : Option Prefix) (u : Bool) (d : Reg) (a : Reg) : Statement (.rldB128 p u d a) := of_instr rfl rfl fun _ => rfl
theorem rstB128 (p : Option Prefix) (u : Bool) (d : Reg) (a : Reg) : Statement (.rstB128 p u d a) := of_instr rfl rfl fun _ => rfl
theorem bcopyG2s (p : Option Prefix) (d : Reg) (a : Reg) (b : Reg) : Statement (.bcopyG2s p d a b) := of_instr rfl rfl fun _ => rfl
theorem bcopyS2g (p : Option Prefix) (d : Reg) (a : Reg) (b : Reg) : Statement (.bcopyS2g p d a b) := of_instr rfl rfl fun _ => rfl
theorem bcopyG2g (p : Option Prefix) (d : Reg) (a : Reg) (b : Reg) : Statement (.bcopyG2g p d a b) := of_instr rfl rfl fun _ => rfl
theorem bcopyS2s (p : Option Prefix) (d : Reg) (a : Reg) (b : Reg) : Statement (.bcopyS2s p d a b) := of_instr rfl rfl fun _ => rfl
theorem bcopyV2s (p : Option Prefix) (d : Reg) (a : Reg) (b : Reg) : Statement (.bcopyV2s p d a b) := of_instr rfl rfl fun _ => rfl
theorem bcopyS2v (p : Option Prefix) (d : Reg) (a : Reg) (b : Reg) : Statement (.bcopyS2v p d a b) := of_instr rfl rfl fun _ => rfl
theorem bbInit (p : Option Prefix) (a : Reg) (b : Reg) : Statement (.bbInit p a b) := of_instr rfl rfl fun _ => rfl
theorem bbExpect (p : Option Prefix) (a : Reg) (b : Reg) : Statement (.bbExpect p a b) := of_instr rfl rfl fun _ => rfl
theorem bbArrive (p : Option Prefix) (a : Reg) (b : Reg) : Statement (.bbArrive p a b) := of_instr rfl rfl fun _ => rfl
theorem bbWait (p : Option Prefix) (a : Reg) (b : Reg) : Statement (.bbWait p a b) := of_instr rfl rfl fun _ => rfl
theorem bbTest (p : Option Prefix) (d : Reg) (a : Reg) (b : Reg) : Statement (.bbTest p d a b) := of_instr rfl rfl fun _ => rfl
theorem bbInval (p : Option Prefix) (a : Reg) : Statement (.bbInval p a) := of_instr rfl rfl fun _ => rfl
theorem tadd (p : Option Prefix) (d : Reg) (a : Reg) (b : Reg) : Statement (.tadd p d a b) := of_instr rfl rfl fun _ => rfl
theorem tmul (p : Option Prefix) (d : Reg) (a : Reg) (b : Reg) : Statement (.tmul p d a b) := of_instr rfl rfl fun _ => rfl
theorem tfma (p : Option Prefix) (d : Reg) (a : Reg) (b : Reg) : Statement (.tfma p d a b) := of_instr rfl rfl fun _ => rfl
theorem tmax (p : Option Prefix) (d : Reg) (a : Reg) (b : Reg) : Statement (.tmax p d a b) := of_instr rfl rfl fun _ => rfl
theorem tcvt (p : Option Prefix) (d : Reg) (a : Reg) : Statement (.tcvt p d a) := of_instr rfl rfl fun _ => rfl
theorem texp (p : Option Prefix) (d : Reg) (a : Reg) : Statement (.texp p d a) := of_instr rfl rfl fun _ => rfl
theorem tfill (p : Option Prefix) (d : Reg) (a : Reg) : Statement (.tfill p d a) := of_instr rfl rfl fun _ => rfl
theorem tcopy (p : Option Prefix) (d : Reg) (a : Reg) : Statement (.tcopy p d a) := of_instr rfl rfl fun _ => rfl
theorem tfetch (p : Option Prefix) (d : Reg) (a : Reg) : Statement (.tfetch p d a) := of_instr rfl rfl fun _ => rfl
theorem tunpin (p : Option Prefix) (d : Reg) : Statement (.tunpin p d) := of_instr rfl rfl fun _ => rfl
theorem mma (p : Option Prefix) (fmt : BitVec 3) (d : Reg) (a : Reg) (b : Reg) : Statement (.mma p fmt d a b) := of_instr rfl rfl fun _ => rfl
theorem mmaG (p : Option Prefix) (fmt : BitVec 3) (d : Reg) (a : Reg) (b : Reg) : Statement (.mmaG p fmt d a b) := of_instr rfl rfl fun _ => rfl
theorem accZero (p : Option Prefix) (a : Reg) : Statement (.accZero p a) := of_instr rfl rfl fun _ => rfl
theorem accRd (p : Option Prefix) (d : Reg) (a : Reg) : Statement (.accRd p d a) := of_instr rfl rfl fun _ => rfl
theorem accWr (p : Option Prefix) (d : Reg) (a : Reg) : Statement (.accWr p d a) := of_instr rfl rfl fun _ => rfl
theorem accSt (p : Option Prefix) (d : Reg) (a : Reg) : Statement (.accSt p d a) := of_instr rfl rfl fun _ => rfl
theorem accLd (p : Option Prefix) (d : Reg) (a : Reg) : Statement (.accLd p d a) := of_instr rfl rfl fun _ => rfl
theorem sclLd (p : Option Prefix) (d : Reg) (a : Reg) : Statement (.sclLd p d a) := of_instr rfl rfl fun _ => rfl
theorem sclRd (p : Option Prefix) (d : Reg) (a : Reg) : Statement (.sclRd p d a) := of_instr rfl rfl fun _ => rfl
theorem brAlways (p : Option Prefix) (off : BitVec 19) : Statement (.brAlways p off) := of_instr rfl rfl fun _ => rfl
theorem brAny (p : Option Prefix) (m : BitVec 3) (off : BitVec 19) : Statement (.brAny p m off) := of_instr rfl rfl fun _ => rfl
theorem brAll (p : Option Prefix) (m : BitVec 3) (off : BitVec 19) : Statement (.brAll p m off) := of_instr rfl rfl fun _ => rfl
theorem brNone (p : Option Prefix) (m : BitVec 3) (off : BitVec 19) : Statement (.brNone p m off) := of_instr rfl rfl fun _ => rfl
theorem brDiv (p : Option Prefix) (m : BitVec 3) (off : BitVec 19) : Statement (.brDiv p m off) := of_instr rfl rfl fun _ => rfl
theorem call (p : Option Prefix) (off : BitVec 19) : Statement (.call p off) := of_instr rfl rfl fun _ => rfl
theorem join (p : Option Prefix) (off : BitVec 19) : Statement (.join p off) := of_instr rfl rfl fun _ => rfl
theorem nop (p : Option Prefix) (u : Bool) : Statement (.nop p u) := of_instr rfl rfl fun _ => rfl
theorem exit (p : Option Prefix) (u : Bool) : Statement (.exit p u) := of_instr rfl rfl fun _ => rfl
theorem ret (p : Option Prefix) (a : Reg) : Statement (.ret p a) := of_instr rfl rfl fun _ => rfl
theorem yield (p : Option Prefix) : Statement (.yield p) := of_instr rfl rfl fun _ => rfl
theorem waitf (p : Option Prefix) (a : Reg) : Statement (.waitf p a) := of_instr rfl rfl fun _ => rfl
theorem brk (p : Option Prefix) (b : Reg) : Statement (.brk p b) := of_instr rfl rfl fun _ => rfl
theorem trap (p : Option Prefix) (a : Reg) : Statement (.trap p a) := of_instr rfl rfl fun _ => rfl
theorem jmpr (p : Option Prefix) (a : Reg) (b : Reg) : Statement (.jmpr p a b) := of_instr rfl rfl fun _ => rfl
theorem win (p : Option Prefix) (a : Reg) : Statement (.win p a) := of_instr rfl rfl fun _ => rfl
theorem regld (p : Option Prefix) (d : Reg) (a : Reg) (k : BitVec 7) : Statement (.regld p d a k) := of_instr rfl rfl fun _ => rfl
theorem regst (p : Option Prefix) (d : Reg) (a : Reg) (k : BitVec 7) : Statement (.regst p d a k) := of_instr rfl rfl fun _ => rfl
theorem rev (p : Option Prefix) (a : Reg) : Statement (.rev p a) := of_instr rfl rfl fun _ => rfl
theorem commit (p : Option Prefix) : Statement (.commit p) := of_instr rfl rfl fun _ => rfl
theorem ckpt (p : Option Prefix) : Statement (.ckpt p) := of_instr rfl rfl fun _ => rfl
theorem hmode (p : Option Prefix) (a : Reg) : Statement (.hmode p a) := of_instr rfl rfl fun _ => rfl
theorem cfrd (p : Option Prefix) (d : Reg) : Statement (.cfrd p d) := of_instr rfl rfl fun _ => rfl
theorem qput (p : Option Prefix) (d : Reg) (a : Reg) : Statement (.qput p d a) := of_instr rfl rfl fun _ => rfl
theorem qputNb (p : Option Prefix) (d : Reg) (a : Reg) (b : BitVec 3) : Statement (.qputNb p d a b) := of_instr rfl rfl fun _ => by
  show decodeA6C p 1 true d a (0#4 ++ b) = _
  simp only [decodeA6C, mask_low, mask_high]; rfl
theorem qget (p : Option Prefix) (d : Reg) (a : Reg) : Statement (.qget p d a) := of_instr rfl rfl fun _ => rfl
theorem qgetNb (p : Option Prefix) (d : Reg) (a : Reg) (b : BitVec 3) : Statement (.qgetNb p d a b) := of_instr rfl rfl fun _ => by
  show decodeA6C p 3 true d a (0#4 ++ b) = _
  simp only [decodeA6C, mask_low, mask_high]; rfl
theorem spawn (p : Option Prefix) (a : Reg) : Statement (.spawn p a) := of_instr rfl rfl fun _ => rfl
theorem tdone (p : Option Prefix) (a : Reg) : Statement (.tdone p a) := of_instr rfl rfl fun _ => rfl
theorem steal (p : Option Prefix) (d : Reg) (a : Reg) (b : Reg) : Statement (.steal p d a b) := of_instr rfl rfl fun _ => by
  show decodeA6C p 6 true d a b = _
  simp only [decodeA6C, ]; rfl
theorem qstat (p : Option Prefix) (d : Reg) (a : Reg) : Statement (.qstat p d a) := of_instr rfl rfl fun _ => rfl
theorem barT (p : Option Prefix) (a : Reg) : Statement (.barT p a) := of_instr rfl rfl fun _ => rfl
theorem barP (p : Option Prefix) (a : Reg) : Statement (.barP p a) := of_instr rfl rfl fun _ => rfl
theorem barArrive (p : Option Prefix) (a : Reg) : Statement (.barArrive p a) := of_instr rfl rfl fun _ => rfl
theorem barWait (p : Option Prefix) (a : Reg) : Statement (.barWait p a) := of_instr rfl rfl fun _ => rfl
theorem dsync (p : Option Prefix) (a : Reg) : Statement (.dsync p a) := of_instr rfl rfl fun _ => rfl
theorem flushpt (p : Option Prefix) (a : Reg) : Statement (.flushpt p a) := of_instr rfl rfl fun _ => rfl
theorem dclk (p : Option Prefix) (a : Reg) : Statement (.dclk p a) := of_instr rfl rfl fun _ => rfl
theorem srd (p : Option Prefix) (u : Bool) (d : Reg) (b : Reg) : Statement (.srd p u d b) := of_instr rfl rfl fun _ => rfl
theorem swr (p : Option Prefix) (u : Bool) (a : Reg) (b : Reg) : Statement (.swr p u a b) := of_instr rfl rfl fun _ => rfl
theorem eret (p : Option Prefix) (d : BitVec 3) (a : Reg) (b : Bool) : Statement (.eret p d a b) := of_instr rfl rfl fun _ => by
  show decodeA78 p 2 true (0#4 ++ d) a (0#6 ++ bit b) = _
  simp only [decodeA78, mask_low, mask_high, flag_low, flag_high]; rfl
theorem fqpark (p : Option Prefix) : Statement (.fqpark p) := of_instr rfl rfl fun _ => rfl
theorem flagsClr (p : Option Prefix) (a : Reg) : Statement (.flagsClr p a) := of_instr rfl rfl fun _ => rfl
theorem ctxsv (p : Option Prefix) : Statement (.ctxsv p) := of_instr rfl rfl fun _ => rfl
theorem pairsig (p : Option Prefix) (d : Reg) : Statement (.pairsig p d) := of_instr rfl rfl fun _ => rfl

end Sys2Proof.Laws.Words
end

