-- ==== Sys2Proof/Tests/Slice0.lean ====
section
/-!
SUPPORT. Tests: terms that are ill-formed, words written out from the encodings of the manual, results of its worked examples, and for every
statement that has hypotheses a state and operands that meet them.
-/

open Sys2Proof Sys2Proof.Machine

namespace Sys2Proof.Tests

set_option Elab.async false

/-! ## Ill-formed terms (07_memory_instructions R148, R155, 11_integer_lane R270) -/

def exBit : Prefix := Prefix.ofWord 0xFC000001
def plainPrefix : Prefix := Prefix.ofWord 0xFC000000

theorem test_wf_load_size : (Instr.ld none 7 false 4 2 0).wf = false ∧ (Instr.lds none 7 false 4 2 0).wf = false
    ∧ (Instr.ld none 6 false 4 2 0).wf = true := by decide
theorem test_wf_store_size : ∀ z ∈ [(1 : BitVec 3), 3, 7], (Instr.st none z false 4 2 0).wf = false ∧ (Instr.sts none z false 4 2 0).wf = false := by decide
theorem test_wf_release_scope : (Instr.stl none 3 true false 4 2 0).wf = false ∧ (Instr.stl none 2 true false 4 2 0).wf = true := by decide
theorem test_wf_exchange_bit : (Instr.lpull (some exBit) 4 5 6).wf = false ∧ (Instr.lpush (some exBit) 4 5 6).wf = false
    ∧ (Instr.lpullXch plainPrefix 4 5 6).wf = false ∧ (Instr.lpushXch plainPrefix 4 5 6).wf = false
    ∧ (Instr.lpullXch exBit 4 5 6).wf = true ∧ (Instr.lpush none 4 5 6).wf = true := by decide

/-! ## Words (the words are those of the manual's listings and tables, but for those its text marks as written out from R45 to R60) -/

/-- These words are one instruction. -/
def Is (ws : List Word) (i : Instr) : Prop := decodeWords ws = .ok (i, [])

def prefixAs : Prefix := Prefix.ofWord 0xFC000400

/-- 22_programs_sort_reverse and 21_programs_pairs_window, listings; MUL, MAD and SUBX are of opcodes 0x03 and 0x04. -/
theorem test_decode_integer : Is [0x06028308] (.mul none false 10 6 8) ∧ Is [0x07C28389] (.mad none false 10 7 9)
    ∧ Is [0x08010280] (.addx none false 4 5) ∧ Is [0x0841C300] (.subx none false 7 6) ∧ Is [0x08814200] (.xorx none false 5 4)
    ∧ Is [0x09410000] (.negx none false 4) ∧ Is [0xFC000400, 0x09C18600] (.mulx (some prefixAs) false 6 12)
    ∧ Is [0x0A010300] (.swap none false 4 6) ∧ Is [0x0AC34500] (.popc none false 13 10) ∧ Is [0x0BA70C00] (.mov none true 28 24)
    ∧ Is [0x0C210280] (.cmpEq none true 4 5 0) ∧ Is [0x0C614F00] (.cmpNe none true 5 30 0) ∧ Is [0x0CA0800C] (.cmpLtI none true 2 0 12) := by
  and_intros <;> rfl

theorem test_decode_immediate : Is [0x121018FF] (.andi none false 8 6 255) ∧ Is [0x13203801] (.andi none true 16 14 1)
    ∧ Is [0x1934600E] (.shli none true 26 24 14) ∧ Is [0x1B2E1801] (.shri none true 23 6 1) ∧ Is [0x2119FFFE] (.addxi none true 12 0x1FFFE)
    ∧ Is [0x220E0055] (.xorxi none false 7 0x55) ∧ Is [0x252C4000] (.movi none true 22 0x4000) ∧ Is [0x27360300] (.movhi none true 27 0x300)
    ∧ Is [0xFC000002, 0x11346800] (.addi (some (Prefix.ofWord 0xFC000002)) true 26 26 0)
    ∧ Is [0xFC000001, 0x35080900] (.addiI64 (some (Prefix.ofWord 0xFC000001)) true 4 2 0x100)
    ∧ Is [0xFC000402, 0x33C10101] (.lea (some (Prefix.ofWord 0xFC000402)) false 4 2 1) := by
  and_intros <;> rfl

theorem test_decode_lanes : Is [0x42C28400] (.matchLanes none 10 8) ∧ Is [0x43030400] (.mrank none 12 8) ∧ Is [0x4340C400] (.mlead none 3 8)
    ∧ Is [0x47E0C400] (.mset none 3 8) ∧ Is [0xFC002800, 0x4042048A] (.lpush (some (Prefix.ofWord 0xFC002800)) 8 9 10)
    ∧ (Prefix.ofWord 0xFC002800).c = 5 := by
  and_intros <;> rfl

/-- FMUL is of a listing; the words of FEXP.f64 (op 0x2D, fn 0, d 4, a 6), FCMP.LT.f32 (op 0x2E, fn 2, d 2, a 5, b 6), HADD.bf (op 0x31, fn 0) and
CVT.PK4.f8e4.f32 (op 0x32, fn 2, d 4, a 8, b 8·8 + 4) are written out. -/
theorem test_decode_float : Is [0x5082448A] (.fmul none false false 9 9 10) ∧ Is [0x5A010300] (.fexp none true false 4 6)
    ∧ Is [0x5C808286] (.fcmpLt none false false 2 5 6) ∧ Is [0x62010306] (.hadd none true false 4 6 6)
    ∧ Is [0x64810444] (.cvtPk4 none false 4 8 8 4) := by
  and_intros <;> rfl

/-- LDA.sy.b64 (op 0x3E, scope field 1, size bit 1), STL and XCHG are written out. -/
theorem test_decode_memory : Is [0x71018200] (.ld none 4 false 6 4 0) ∧ Is [0xFC000001, 0x71024240] (.ld (some (Prefix.ofWord 0xFC000001)) 4 false 9 4 0x40)
    ∧ Is [0xFC000002, 0x73028200] (.st (some (Prefix.ofWord 0xFC000002)) 4 false 10 4 0) ∧ Is [0x75008082] (.lds none 4 false 2 1 2)
    ∧ Is [0x77010283] (.sts none 4 false 4 5 3) ∧ Is [0xFCC00000, 0x77034780] (.sts (some (Prefix.ofWord 0xFCC00000)) 4 false 13 15 0)
    ∧ Is [0x7CC10300] (.lda none 1 true false 4 6 0) ∧ Is [0x7E010300] (.stl none 0 false false 4 6 0) ∧ Is [0x79410300] (.xchg none true false 4 6 0)
    ∧ Is [0xFC000400, 0x9003020A] (.aaddI (some prefixAs) false false 12 4 10) ∧ Is [0x82E00001] (.fenceSc none 1)
    ∧ Is [0x98400106] (.daddF32 none false 2 6) ∧ Is [0xFC000400, 0x99400106] (.daddI64 (some prefixAs) false 2 6) := by
  and_intros <;> rfl

theorem test_decode_engines : Is [0xFC000003, 0xA0220104] (.bcopyG2s (some (Prefix.ofWord 0xFC000003)) 8 2 4) ∧ Is [0xA0244995] (.bcopyG2s none 17 19 21)
    ∧ Is [0xA2200409] (.bbInit none 8 9) ∧ Is [0xA2A00896] (.bbArrive none 17 22) ∧ Is [0xA2E00C97] (.bbWait none 25 23)
    ∧ Is [0xA6240A00] (.tfetch none 16 20) ∧ Is [0xB0234D1C] (.mma none 0 13 26 28)
    ∧ Is [0xFC000002, 0xB4E00F00] (.accSt (some (Prefix.ofWord 0xFC000002)) 0 30) := by
  and_intros <;> rfl

theorem test_decode_control : Is [0xC057FFF4] (.brAny none 2 0x7FFF4) ∧ Is [0xC0D0000C] (.brNone none 2 12) ∧ Is [0xC05FFFE4] (.brAny none 3 0x7FFE4)
    ∧ Is [0xCA000000] (.nop none false) ∧ Is [0xCA600000] (.exit none true) ∧ Is [0xCAA03F00] (.ret none 126) ∧ Is [0xCB200280] (.waitf none 5)
    ∧ Is [0xCB600007] (.brk none 7) ∧ Is [0xCBA00200] (.trap none 4) ∧ Is [0xCBE00308] (.jmpr none 6 8) := by
  and_intros <;> rfl

theorem test_decode_history : Is [0xD0200200] (.win none 4) ∧ Is [0xD0420185] (.regld none 8 3 5) ∧ Is [0xD0824185] (.regst none 9 3 5)
    ∧ Is [0xD0E00300] (.rev none 6) ∧ Is [0xD1200000] (.commit none) ∧ Is [0xD1600000] (.ckpt none) ∧ Is [0xD1A00100] (.hmode none 2)
    ∧ Is [0xD1E20000] (.cfrd none 8) := by
  and_intros <;> rfl

theorem test_decode_tasks : Is [0xD8210280] (.qput none 4 5) ∧ Is [0xD8610283] (.qputNb none 4 5 3) ∧ Is [0xD8A10280] (.qget none 4 5)
    ∧ Is [0xD9200280] (.spawn none 5) ∧ Is [0xD9600300] (.tdone none 6) ∧ Is [0xD9A08287] (.steal none 2 5 7) ∧ Is [0xD9E08200] (.qstat none 2 4)
    ∧ Is [0xE0200200] (.barT none 4) ∧ Is [0xE0E00200] (.barWait none 4) ∧ Is [0xE2200200] (.dsync none 4) ∧ Is [0xE2600200] (.flushpt none 4)
    ∧ Is [0xE2A00300] (.dclk none 6) := by
  and_intros <;> rfl

theorem test_decode_system : Is [0xF0208000] (.srd none true 2 0) ∧ Is [0xF000C00C] (.srd none false 3 0x0C) ∧ Is [0xF060020A] (.swr none true 4 0x0A)
    ∧ Is [0xF040020B] (.swr none false 4 0x0B) ∧ Is [0xF0A0C000] (.eret none 3 0 false) ∧ Is [0xF0A0C301] (.eret none 3 6 true)
    ∧ Is [0xF1200200] (.flagsClr none 4) := by
  and_intros <;> rfl

/-- 03_encoding R61: the words 0 and 0xFFFFFFFF, a header, a prefix before a header, a store of size 1, and SHLI of a count above 31. -/
theorem test_decode_refuses : decodeWords [0x00000000] = .error .badOpcode ∧ decodeWords [0xFFFFFFFF] = .error .badOpcode
    ∧ decodeWords [0xF800000F] = .error .header ∧ decodeWords [0xFC000000, 0xF800000F] = .error .strayPrefix
    ∧ decodeWords [0x72410300] = .error .badFn ∧ decodeWords [0x18081420] = .error .reservedField := by
  and_intros <;> rfl

/-! ## A small state -/

/-- The state in which a placed instruction runs: weft 0 of team 0 on core 0 stands inside a clause at PC 4, with 16 lanes; its team has a
scratchpad of two pages, backed at 0x100000; its cluster translates page 1, at address 0x4000, to the frame at 0x8000. -/
def lab (w : Weft → Weft) (x : Team → Team := id) (c : Core → Core := id) : State :=
  let page : TlbEntry :=
    { ctx := 0, vpn := 1, pages := 1, frame := 0x8000, w := true, x := true, d := true, grain := 128, leaf := 0x100, walked := [] }
  let s := (State.reset.withFetchWord 32 0xCA000000).modWeft 0 w
  ((s.modTeam 0 fun t => x { t with size := 4096, spt := [(0, 0x100001), (1, 0x100801)] }).modCore 0 c).modCluster 0 fun cl => { cl with tlb := [page] }

/-- Register `n` holds a word in every lane, or the scalar does. -/
def vreg (n : Nat) (f : Nat → Word) (w : Weft) : Weft :=
  { w with regs := (List.range 16).foldl (fun r L => r.setV n L (f L)) w.regs }
def sreg (n : Nat) (v : Word) (w : Weft) : Weft := { w with regs := w.regs.setS n v }
def mreg (n : Nat) (v : Mask) (w : Weft) : Weft := { w with regs := { w.regs with m := SMap.set (fun _ => 0) w.regs.m n v } }

/-- The state that an instruction leads to. -/
def after (i : Instr) (s : State) : State := match exec i s with
  | .next t => t
  | _ => State.reset

/-- The words of a register in all lanes, after an instruction. -/
def lanes (s : State) (n : Nat) : List Word := (List.range 16).map fun L => (s.weft 0).regs.getV n L

/-! ## Worked results of the manual -/

/-- 11_integer_lane R258, example: MULX. -/
def mulxLab : State := lab (vreg 4 (fun _ => 7) ∘ vreg 5 fun L => if L = 1 then 4 else 3)
theorem test_mulx_lane0 : (lanes (after (.mulx none false 4 5) mulxLab) 4).take 2 = [21, 7] := by decide +kernel
theorem test_mulx_lane1 : (((after (.mulx none false 4 5) mulxLab).weft 0).trap.lanes.map fun l => (l.lane, l.cause)) = [(1, .noninv)] := by
  decide +kernel

/-- 11_integer_lane R271, example: LPUSH. -/
def lpushLab : State := lab (vreg 9 (fun L => BitVec.ofNat 32 (100 + L)) ∘ vreg 10 fun L => BitVec.ofNat 32 (L / 4))
theorem test_lpush : (lanes (after (.lpush (some (Prefix.ofWord 0xFC002800)) 8 9 10) lpushLab) 8).take 5 = [100, 104, 108, 112, 0] := by decide +kernel
theorem test_lpush_losers : ((after (.lpush (some (Prefix.ofWord 0xFC002800)) 8 9 10) lpushLab).weft 0).maskReg 5 = 0xEEEE := by decide +kernel

/-- 11_integer_lane R272, example: MRANK and MATCH under m2. -/
def rankLab : State := lab (vreg 7 (fun L => BitVec.ofNat 32 (L % 3)) ∘ mreg 2 0xFFDF)
theorem test_mrank : (lanes (after (.mrank (some (Prefix.ofWord 0xFC800000)) 6 7) rankLab) 6) = [0, 0, 0, 1, 1, 0, 2, 2, 1, 3, 3, 2, 4, 4, 3, 5] := by
  decide +kernel
theorem test_match : (([0, 2, 8, 14].map fun L => wordAt ((after (.matchLanes (some (Prefix.ofWord 0xFC800000)) 8 7) rankLab).weft 0) false 8 L))
    = [0x9249, 0x4904, 0x4904, 0x4904] := by decide +kernel

/-- 12_float R281, example: FDIV with END, lane 2 dividing by zero and lane 3 zero by zero. -/
def fdivLab : State := lab fun w =>
  let w := vreg 5 (fun L => if L = 3 then 0 else 0x3F800000) (vreg 6 (fun L => if L = 2 ∨ L = 3 then 0 else 0x40400000) w)
  { w with regs := { w.regs with fmode := 0x80 } }
theorem test_fdiv : (lanes (after (.fdiv none false false 4 5 6) fdivLab) 4).take 5 = [0x3EAAAAAB, 0x3EAAAAAB, 0, 0x7FC00000, 0x3EAAAAAB]
    ∧ ([1, 2, 3].map fun L => ((after (.fdiv none false false 4 5 6) fdivLab).weft 0).fflag L) = [0x01, 0x08, 0x10] := by decide +kernel
theorem test_fdiv_trap : ((after (.fdiv none false false 4 5 6) fdivLab).weft 0).trap.tmask = 4
    ∧ ((after (.fdiv none false false 4 5 6) fdivLab).weft 0).flow.active = 0xFFFB := by decide +kernel

/-- 12_float R293, example: CVT.PK4.f8e4.f32. -/
def packLab : State := lab (vreg 8 (fun _ => 0x3F800000) ∘ vreg 9 (fun _ => 0x43FA0000) ∘ vreg 10 (fun _ => 0x80000000) ∘ vreg 11 fun _ => 0x40400000)
theorem test_pack : (lanes (after (.cvtPk4 none false 4 8 8 4) packLab) 4).head? = some 0x44807F38
    ∧ ((after (.cvtPk4 none false 4 8 8 4) packLab).weft 0).fflag 0 = 0x05 := by decide +kernel

/-- 09_registers_history R203, example: ALLOC 64, WB 48. -/
def windowLab : State := lab fun w => { w with regs := { w.regs with alloc := 64, wb := 48 } }
theorem test_window : issues (formA none 1 0 false 20 1 2) windowLab = false ∧ issues (formA none 1 0 false 15 1 2) windowLab = true
    ∧ physReg (windowLab.weft 0).regs 20 = 68 := by decide +kernel
theorem test_window_fault : ((after (.add none false 20 1 2) windowLab).team 0).report.cause = 0x03
    ∧ ((after (.add none false 20 1 2) windowLab).team 0).report.tmask = 0xFFFF := by decide +kernel

/-- 04_dram_l2 R76, example: physical address 0x20A80. -/
theorem test_placement : bucket 0x105 = 261 ∧ State.reset.placeOf 0x105 = (261, 0) ∧ State.reset.homeDie 0x20A80 = 1
    ∧ State.reset.homeSlice 0x20A80 = 522 := by decide +kernel

/-- 16_scheduling R366, example: the first ten teams of a plane of 4 by 3, on the Morton and the Hilbert curve. -/
def plane (t : Byte) : List (Nat × Nat) :=
  (List.range 12).map fun i => let p := Launch.position { gx := 4, gy := 3, gz := 1, trav := t } i; (p.1, p.2.1)
theorem test_morton : plane 2 = [(0, 0), (1, 0), (0, 1), (1, 1), (2, 0), (3, 0), (2, 1), (3, 1), (0, 2), (1, 2), (2, 2), (3, 2)] := by decide +kernel
theorem test_hilbert : plane 3 = [(0, 0), (1, 0), (1, 1), (0, 1), (0, 2), (1, 2), (2, 2), (3, 2), (3, 1), (2, 1), (2, 0), (3, 0)] := by decide +kernel
theorem test_bands : ((List.range 4).map fun i => let p := Launch.position { gx := 4, gy := 3, gz := 1, swz := 1 } i; (p.1, p.2.1))
    = [(0, 0), (0, 1), (1, 0), (1, 1)] := by decide +kernel

/-- 07_memory_instructions R164, example: AADD.i32 on a counter of 10; the completion performs the lanes in ascending order. -/
noncomputable def counterLab : State :=
  let s := (lab (sreg 2 0x4000 ∘ vreg 6 fun _ => 1)).writeMem 0x8000 [10, 0, 0, 0]
  after (.aaddI (some prefixAs) false false 4 2 6) s
theorem test_atomic_lanes : lanes (after (.flagACompletion 0 0) counterLab) 4 = (List.range 16).map fun L => BitVec.ofNat 32 (10 + L) := by decide +kernel
theorem test_atomic_counter : ((after (.flagACompletion 0 0) counterLab).cohRead 0x8000 4) = [26, 0, 0, 0] := by decide +kernel

/-- 11_integer_lane R260: the shifts of 64-bit values by 64 and more, and 02_threads R40: LANE. -/
theorem test_shift64 : (List.map (fun L => wordAt ((after (.sarI64 none false 4 6 8) (lab (vreg 7 (fun _ => 0x80000000) ∘ vreg 8 fun _ => 70))).weft 0) false 4 L)
    [0, 15]) = [0xFFFFFFFF, 0xFFFFFFFF] := by decide +kernel
theorem test_lane : lanes (after (.srd none false 3 0x0C) (lab id)) 3 = (List.range 16).map fun L => BitVec.ofNat 32 L := by decide +kernel

/-- 18_traps R408: a context without a handler parks its team; R411: SWR of FMODE outside a handler is PRIV. -/
def armedLab : State := (lab (sreg 4 0x40)).setReg (thvec 0) 0x2001
theorem test_priv : ((after (.swr none true 4 0x0A) armedLab).weft 0).trap.tcause = 0x17 ∧ ((after (.swr none true 4 0x0A) armedLab).weft 0).flow.pc = 0x2000
    ∧ ((after (.swr none true 4 0x0A) armedLab).weft 0).regs.fmode = 0 := by decide +kernel
theorem test_illegal : ((after (.illegalEncoding 0) armedLab).weft 0).trap.tcause = 0x01
    ∧ ((after (.illegalEncoding 0) armedLab).weft 0).trap.tpc = 4 := by decide +kernel

/-- 16_scheduling R357: the values of the queue registers at reset. -/
theorem test_queue_reset : State.reset.reg (qcfg 3) = 0x1000F00 ∧ State.reset.reg (qhead 3) = 0 := by decide +kernel

/-! ## States and operands that meet the hypotheses of the statements

A weft in `lab` may issue, and every register form takes effect there; what other hypotheses ask for is set up beside each theorem. -/

def plain : State := lab id

/-- Forms of an opcode, by function, on the registers named. -/
def forms (op : Nat) (fns : List Nat) (u : Bool) (d a b : Reg) : Bool := fns.all fun fn => issues (formA none op fn u d a b) plain

theorem witness_IntegerResults : forms 0x01 (List.range 8) false 4 5 6 ∧ forms 0x02 (List.range 8) true 4 5 6 ∧ forms 0x03 (List.range 8) false 4 4 4 := by
  decide +kernel
/-- Both corners of division: a divisor of zero, and −2^31 by −1, in a lane that takes part. -/
theorem witness_DivisionHasNoFault : (List.range 5).all (fun n =>
      let s := lab (vreg 5 (fun _ => 0x80000000) ∘ vreg 6 fun L => if L = 0 then 0 else 0xFFFFFFFF)
      let i := formA none 0x03 (n + 3) false 4 5 6
      issues i s && decide (0 ∈ i.lanes s ∧ i.b32 s 0 = 0 ∧ 1 ∈ i.lanes s ∧ i.a32 s 1 = 0x80000000 ∧ i.b32 s 1 = 0xFFFFFFFF)) := by decide +kernel
theorem witness_InPlaceResults : forms 0x04 (List.range 5) false 4 5 0 ∧ forms 0x04 [5, 6] false 4 0 0
    ∧ (let s := lab (vreg 5 fun _ => 3)
       issues (formA none 0x04 7 false 4 5 0) s = true ∧ ∀ L ∈ (formA none 0x04 7 false 4 5 0).lanes s, ((formA none 0x04 7 false 4 5 0).a32 s L).getLsbD 0 = true)
    ∧ issues (formOf none (.fmtL 0x10 false 4 7)) plain ∧ issues (formOf none (.fmtL 0x11 true 4 7)) plain ∧ forms 0x19 [3, 4, 5, 6] false 4 6 0
    ∧ forms 0x05 [0] false 4 5 0 ∧ issues (formA (some (Prefix.ofWord 0xFC800000)) 0x05 1 false 4 5 0) plain := by decide +kernel
theorem witness_MoveAndPairResults : ([0x08, 0x09, 0x0A, 0x0B, 0x0C, 0x0D, 0x0E, 0x0F, 0x1A] : List (BitVec 7)).all (fun op =>
      issues (formOf none (.fmtI op false 4 6 0)) plain)
    ∧ issues (formOf none (.fmtL 0x12 false 4 0)) plain ∧ issues (formOf none (.fmtL 0x13 false 4 0)) plain ∧ forms 0x18 (List.range 8) false 4 6 8
    ∧ forms 0x19 [0, 1, 2, 7] false 4 6 8 ∧ forms 0x05 [2, 3, 4, 6] false 4 5 0 ∧ forms 0x05 [7] false 4 5 6
    ∧ issues (formA (some (Prefix.ofWord 0xFC001000)) 0x05 5 false 4 5 6) plain := by decide +kernel
/-- FCMP of a NaN with nothing enabled. -/
theorem witness_ComparisonResults : forms 0x06 (List.range 7) false 2 5 6 ∧ forms 0x2E (List.range 8) false 2 5 6 ∧ forms 0x2F (List.range 8) false 2 6 8
    ∧ noEnabled (formA none 0x2E 2 false 2 5 6) plain (fun _ => { bits := 0, flags := fNV }) := by
  refine ⟨by decide +kernel, by decide +kernel, by decide +kernel, ?_⟩
  intro L _
  exact (by decide +kernel : fNV &&& enables plain.me.regs.fmode = 0)
def exchanged : State := lab (vreg 6 fun L => BitVec.ofNat 32 (15 - L))
theorem witness_LaneGroupResults : forms 0x20 (List.range 7) false 4 5 6
    ∧ (let i := formXch exBit 0 4 5 6
       issues i exchanged = true ∧ ((i.lanes exchanged).map fun L => (i.b32 exchanged L).toNat % exchanged.me.width).Perm (i.lanes exchanged))
    ∧ issues (formXch exBit 1 4 5 6) exchanged := by decide +kernel
theorem witness_VoteAndMaskResults : forms 0x21 [0, 1, 2, 5] false 2 5 0 ∧ forms 0x21 [3, 4, 6] false 4 5 0 ∧ forms 0x22 (List.range 8) false 4 5 0
    ∧ forms 0x23 [0, 1, 2] true 2 3 4 ∧ forms 0x23 [3, 4] true 2 3 0 ∧ forms 0x23 [5, 6] true 9 3 0 ∧ forms 0x23 [7] true 2 6 0 := by decide +kernel

/-! Floating point: no upset, and an operation of zeros with nothing enabled. -/

theorem witness_FloatResults : forms 0x28 (List.range 8) false 4 5 6 ∧ forms 0x29 (List.range 8) false 4 6 8 ∧ forms 0x2A (List.range 7) false 4 5 0
    ∧ forms 0x2B (List.range 7) false 4 6 0 ∧ forms 0x2A [7] false 4 5 6 ∧ forms 0x2B [7] false 4 6 8 ∧ plain.noUpset = true
    ∧ noEnabled (formA none 0x28 0 false 4 5 6) plain fun _ => { bits := 0, flags := 0 } := by
  refine ⟨by decide +kernel, by decide +kernel, by decide +kernel, by decide +kernel, by decide +kernel, by decide +kernel, by decide +kernel, ?_⟩
  intro L _; exact BitVec.zero_and
theorem witness_HalfAndConversionResults : forms 0x30 (List.range 6) false 4 5 6 ∧ forms 0x31 (List.range 6) false 4 5 6 ∧ forms 0x32 [0] false 4 8 (6 * 8 + 4)
    ∧ forms 0x32 [1] false 4 8 (6 * 8 + 4) ∧ forms 0x32 [2] false 4 8 (8 * 8 + 4) ∧ forms 0x32 [3] false 4 8 (10 * 8 + 4)
    ∧ forms 0x32 [4] false 8 4 (6 * 8 + 4) ∧ forms 0x32 [5] false 8 4 (8 * 8 + 4) ∧ forms 0x32 [6] false 8 4 (10 * 8 + 4) ∧ plain.noUpset = true := by
  decide +kernel
/-- FDIV in `fdivLab`: lane 2 raises DZ, which is enabled, and lane 0 goes on. -/
theorem witness_EnabledExceptions : forms 0x28 (List.range 4) false 4 5 6
    ∧ (let i := formA none 0x28 3 false 4 5 6
       let r := fun (L : Nat) => fDiv (ffmt 4) (i.envAt fdivLab L) ((ffmt 4).operand (i.envAt fdivLab L).ftzi (i.a32 fdivLab L).toNat)
         ((ffmt 4).operand (i.envAt fdivLab L).ftzi (i.b32 fdivLab L).toNat)
       issues i fdivLab = true ∧ fdivLab.noUpset = true ∧ (r 2).flags &&& enables fdivLab.me.regs.fmode ≠ 0
         ∧ fdivLab.me.flow.active.getLsbD 0 = true ∧ (r 0).flags &&& enables fdivLab.me.regs.fmode = 0) := by decide +kernel
noncomputable def functionLab : State := after (.fexp none false false 4 5) plain
theorem witness_FunctionsRun : forms 0x2C (List.range 8) false 4 5 0 ∧ forms 0x2D (List.range 8) false 4 6 0
    ∧ (∃ f, (functionLab.weft 0).flights[0]? = some f ∧ f.op = .func ∧ (functionLab.shadowAt 0 f.ic).isNone = true
        ∧ (f.lanes.map fun l => l.lane).Nodup ∧ (∀ l ∈ f.lanes, l.lane < 64 ∧ f.zlanes.getLsbD l.lane = false) ∧ f.uni = false) := by
  refine ⟨by decide +kernel, by decide +kernel, ?_⟩
  refine ⟨((functionLab.weft 0).flights[0]?).getD { op := .retry, flag := 0, pc := 0, ic := 0, uni := true, d := 0, words := 0, bytes := 0, lanes := [] }, ?_⟩
  decide +kernel
theorem witness_RoundingExamples : (0 : Int) ≤ 3 ∧ (roundAt (fenv 0 1 0) { neg := false, m := 12, e := 0 } 3).1 = 2 := by decide +kernel

/-! Memory. `page` is a scalar pair that holds 0x4000, the mapped page; `small` one that holds 64, in the scratchpad. -/

def paired (n : Nat) (v : Dword) : Weft → Weft := sreg n (v.setWidth 32) ∘ sreg (n + 1) (v.extractLsb' 32 32)
def memLab : State := lab (paired 2 0x4000 ∘ sreg 6 64)

/-- The accesses on the way to `u` take place. -/
def clear (s u : State) : Bool := u.viral == s.viral && !u.coh.blocked
/-- An access succeeds and takes place. -/
def isClear {ε α : Type} (s : State) : Except ε (α × State) → Bool
  | .ok x => clear s x.2
  | .error _ => false
def isClear' {ε : Type} (s : State) : Except ε State → Bool
  | .ok u => clear s u
  | .error _ => false

theorem reaches_of {i : Info} {s : State} {off : Int} {acc : Acc}
    (h : isClear s (s.xlateAll (s.coreOf s.cur) (s.ctxOf s.cur) acc ((i.lanes s).map fun L => (L, i.addr s off L))) = true) :
    ∃ accs s', i.reaches s off acc accs s' ∧ s.clear s' := by
  unfold Info.reaches
  generalize s.xlateAll _ _ _ _ = r at h ⊢
  cases r with
  | error e => cases h
  | ok y =>
    simp only [isClear, clear, Bool.and_eq_true, beq_iff_eq, Bool.not_eq_true'] at h
    exact ⟨y.1, y.2, rfl, h⟩

/-- An access of a form may be made. -/
def mayAccess (s : State) (x : Info × Nat × Acc) : Bool :=
  issues x.1 s && (x.1.lanes s).all (fun L => (x.1.addr s 0 L).toNat % x.2.1 == 0)
    && isClear s (s.xlateAll (s.coreOf s.cur) (s.ctxOf s.cur) x.2.2 ((x.1.lanes s).map fun L => (L, x.1.addr s 0 L)))

theorem mayAccess_all {s : State} {xs : List (Info × Nat × Acc)} (h : xs.all (mayAccess s) = true) :
    ∀ x ∈ xs, issues x.1 s = true ∧ x.1.allAligned s 0 x.2.1 ∧ ∃ accs s', x.1.reaches s 0 x.2.2 accs s' ∧ s.clear s' := by
  intro x hx
  have h := List.all_eq_true.mp h x hx
  simp only [mayAccess, Bool.and_eq_true, List.all_eq_true, beq_iff_eq] at h
  exact ⟨h.1.1, h.1.2, reaches_of h.2⟩

/-- A scratchpad access of a form may be made. -/
def maySpad (s : State) (x : Info × Nat) : Bool :=
  issues x.1 s && !s.me.spadHeld && (x.1.lanes s).all fun L => x.1.saddr s 0 L % x.2 == 0 && decide (x.1.saddr s 0 L < (s.team (teamOf s.cur)).size)
    && !s.spadBad (teamOf s.cur) (x.1.saddr s 0 L) && (s.spadUpset (teamOf s.cur) (x.1.saddr s 0 L)).isNone

theorem maySpad_all {s : State} {xs : List (Info × Nat)} (h : xs.all (maySpad s) = true) :
    ∀ x ∈ xs, issues x.1 s = true ∧ x.1.spadOk s 0 x.2 := by
  intro x hx
  have h := List.all_eq_true.mp h x hx
  simp only [maySpad, Bool.and_eq_true, List.all_eq_true, beq_iff_eq, Bool.not_eq_true', decide_eq_true_eq, Option.isNone_iff_eq_none] at h
  exact ⟨h.1.1, h.1.2, fun L hL => ⟨(h.2 L hL).1.1.1, (h.2 L hL).1.1.2, (h.2 L hL).1.2, (h.2 L hL).2⟩⟩

/-- Page 0 of the team stands in a frame of its core, and its scratchpad TLB holds it. -/
def resident (c : Core) : Core := { c with stlb := [(0, 0)], frames := [(72, some { team := 0, page := 0, back := 0x100003 })] }
def spadLab : State := lab (paired 2 0x4000 ∘ sreg 6 64) (fun t => { t with spt := [(0, 0x100003), (1, 0x100801)] }) resident

theorem witness_AccessesIssue : ∀ x ∈ [(formA none 0x38 4 true 4 2 0, 4, Acc.read), (formA none 0x38 5 true 4 2 0, 8, .read),
      (formA none 0x3E 1 true 4 2 0, 8, .read), (formA none 0x3C 4 true 4 2 0, 4, .write), (formA none 0x3C 5 true 4 2 0, 8, .write)]
      ++ ((List.range 8).map fun fn => (formA none 0x48 fn true 4 2 6, 4, Acc.write)) ++ ((List.range 8).map fun fn => (formA none 0x49 fn true 4 2 6, 8, Acc.write))
      ++ [(formA none 0x4A 0 true 4 2 6, 4, .write), (formA none 0x4A 1 true 4 2 6, 8, .write)],
    issues x.1 memLab = true ∧ x.1.allAligned memLab 0 x.2.1 ∧ ∃ accs s', x.1.reaches memLab 0 x.2.2 accs s' ∧ memLab.clear s' :=
  mayAccess_all (by decide +kernel)
theorem witness_AccessesIssue_member : memLab.member memLab.cur ≠ 2 := by decide +kernel
/-- The same weft as the trailing member of a redundant pair, past the compare of its segment. -/
def trailLab : State := lab (fun w => { (paired 2 0x4000 ∘ sreg 6 64) w with seg := { w.seg with passed := true } }) fun t => { t with member := 2, partner := 1 }
theorem witness_AccessesIssue_trailing : trailLab.member trailLab.cur = 2
    ∧ ∀ x ∈ ((List.range 8).map fun fn => (formA none 0x48 fn true 4 2 6, 4, Acc.write)) ++ [(formA none 0x4A 1 true 4 2 6, 8, Acc.write)],
      issues x.1 trailLab = true ∧ x.1.allAligned trailLab 0 x.2.1 ∧ ∃ accs s', x.1.reaches trailLab 0 x.2.2 accs s' ∧ trailLab.clear s' :=
  ⟨by decide +kernel, mayAccess_all (by decide +kernel)⟩
theorem witness_AccessesIssue_scratchpad : ∀ x ∈ [(formA none 0x3A 4 true 4 6 0, 4), (formA none 0x3D 4 true 4 6 0, 4), (formA none 0x3D 5 true 4 6 0, 8)]
      ++ (List.range 8).map (fun fn => (formA none 0x4B fn true 4 6 6, 4)), issues x.1 spadLab = true ∧ x.1.spadOk spadLab 0 x.2 :=
  maySpad_all (by decide +kernel)
/-- The lanes of an LDS and of an atomic, one lane in a resident page that no matrix operation reads. -/
theorem witness_AccessesIssue_lanes : (let i := formA none 0x3A 4 true 4 6 0
      isClear spadLab (runBeats 0 0 (fun L (y : Nat × Unit) s =>
        (({ lane := L, va := BitVec.ofNat 64 y.1, pa := y.1, val := some (valOf (s.spadRead 0 y.1 4)) } : LaneAcc), s)) (beatsOf (bare (i.spads spadLab 0))) spadLab)
        = true ∧ i.lanes spadLab = [0] ∧ i.saddr spadLab 0 0 / 2048 = 0 ∧ (spadLab.core 0).stlb = [(0, 0)])
    ∧ (let i := formA none 0x4B 0 true 4 6 6
       (match runBeats 0 0 (spadRmw 0 4 fun L o => atomicNew 0 4 o (readOp spadLab.me i.bScalar i.bk i.b L)) (beatsOf (bare (i.spads spadLab 0))) spadLab with
        | .ok (_, s') => clear spadLab s' && s'.me == spadLab.me
        | .error _ => false) = true
         ∧ spadLab.mmasReading 0 64 4 = [] ∧ (spadLab.weftsOf 0).all (fun j => (spadLab.weft j).hold.isNone) = true) := by decide +kernel
theorem resident_page {s : State} (h : ((s.findFrame 0 0).map fun x => x.1) = some (s.team 0).core) (hw : s.cores = [(0, s.core 0)])
    (hf : SMap.wf (fun _ => (none : Option Frame)) (s.core 0).frames = true) : s.resident 0 0 := by
  constructor
  · cases hx : s.findFrame 0 0 with
    | none => rw [hx] at h; cases h
    | some x =>
      rw [hx] at h
      exact ⟨x.1, x.2.1, x.2.2, rfl, .inl (by simpa using h)⟩
  · intro c
    by_cases hc : c = 0
    · rw [hc]; exact hf
    · have : s.core c = {} := by
        unfold State.core
        rw [hw]
        simp [SMap.get, hc]
      rw [this]; rfl
theorem witness_resident : spadLab.resident 0 0 := resident_page (by decide +kernel) (by decide +kernel) (by decide +kernel)
theorem witness_AtomicValues : ∀ n ∈ [4, 8], (0xFFFFFFFF : BitVec 128).toNat < 2 ^ (8 * n) := by decide

theorem witness_StoresQueue : memLab.member memLab.cur = 0 ∧ memLab.me.queueLen < 32
    ∧ ∀ m ∈ [0, 1, 2], fenceReady memLab memLab.cur 1 (m + 1) = true := by decide +kernel
theorem witness_StoresQueue_forms : ∀ x ∈ [(formA none 0x39 4 true 4 2 0, 4, Acc.write), (formA none 0x39 6 true 4 2 0, 16, .write),
      (formA none 0x3F 0 true 4 2 0, 4, .write), (formA none 0x3F 5 true 4 2 0, 8, .write)],
    issues x.1 memLab = true ∧ x.1.allAligned memLab 0 x.2.1 ∧ ∃ accs s', x.1.reaches memLab 0 x.2.2 accs s' ∧ memLab.clear s' :=
  mayAccess_all (by decide +kernel)
theorem witness_StoresQueue_scratchpad : (let i := formA none 0x3B 4 true 4 6 0
    issues i spadLab = true ∧ i.lanes spadLab = [0] ∧ (match runBeats 0 0 (fun _ (x : Nat × Unit) s => (oldWords (fun q m => s.spadRead 0 q m) 4 x.1, s))
        (beatsOf (bare (i.spads spadLab 0))) spadLab with
      | .ok (_, s1) => (s1.mmasReading 0 64 4).isEmpty
          && (match runBeats 0 0 (fun _ (x : Nat × List Byte × List (Nat × Nat)) s => ((), s.spadPut 0 x.1 x.2.1))
              (beatsOf ((i.lanes spadLab).map fun L => (L, i.saddr spadLab 0 L, i.data spadLab 4 L, []))) s1 with
            | .ok (_, s2) => clear spadLab s2 && s2.me == spadLab.me
            | .error _ => false)
      | .error _ => false) = true) ∧ (formA none 0x3B 4 true 4 6 0).spadOk spadLab 0 4 :=
  ⟨by decide +kernel, (maySpad_all (xs := [(formA none 0x3B 4 true 4 6 0, 4)]) (by decide +kernel) _ (List.mem_singleton.mpr rfl)).2⟩
/-- No lane is active, the others wait after a fault. -/
def emptyLab : State := lab fun w => { paired 2 0x4000 w with flow := { w.flow with active := 0 } }
theorem witness_StoresQueue_empty : (formA none 0x39 4 false 4 2 0).lanes emptyLab = [] ∧ issues (formA none 0x39 4 false 4 2 0) emptyLab = true := by
  decide +kernel

/-- One access in flight, after it has issued. -/
noncomputable def loadLab : State := after (.ld none 4 true 4 2 0) memLab
noncomputable def ldsLab : State := after (.lds none 4 true 4 6 0) spadLab
noncomputable def xchgsLab : State := after (.xchgs none false true 4 6 0) spadLab
/-- A remote access whose lane has its answer. -/
def answeredLab : State := lab fun w => { w with
  flights := [{ op := .rld, flag := 0, pc := 4, ic := 0, uni := true, d := 4, words := 2, bytes := 8, lanes := [{ lane := 0, va := 0, pa := 0, val := some 7 }] }] }

def oneLane (s : State) (op : FlightOp) : Bool := match (s.weft 0).flights[0]? with
  | some f => f.op == op && f.uni && f.zlanes == 0 && (f.lanes.map fun l => l.lane) == [0] && s.member 0 == 0
  | none => false

theorem witness_AccessesComplete : oneLane loadLab .load ∧ oneLane ldsLab .lds ∧ oneLane xchgsLab .xchgs ∧ oneLane answeredLab .rld
    ∧ loadLab.calm ∧ ldsLab.coh.blocked = false
    ∧ (match (loadLab.weft 0).flights[0]? with
       | some f => f.globalLoad && loadLab.mayPerform 0 f && clear loadLab (performAll 0 f (loadLab.ownWrites 0 f.seq) f.lanes (loadLab.acting 0 f.seq)).2
       | none => false) = true
    ∧ (match (xchgsLab.weft 0).flights[0]? with
       | some f => match performSpad 0 f xchgsLab with
         | .ok (ls, s') => clear xchgsLab s' && ls.all fun l => l.val.isSome
         | .error _ => false
       | none => false) = true
    ∧ (match (answeredLab.weft 0).flights[0]? with
       | some f => f.lanes.all fun l => l.val.isSome && l.cause.isNone
       | none => false) = true := by
  refine ⟨by decide +kernel, by decide +kernel, by decide +kernel, by decide +kernel, ⟨by decide +kernel, by decide +kernel, by decide +kernel⟩, ?_⟩
  decide +kernel
/-- An atomic of a trailing member, with its partner's result. -/
def mirroredLab : State := lab fun w => { w with
  flights := [{ op := .mirror false, flag := 0, pc := 4, ic := 0, uni := true, d := 4, words := 1, bytes := 4, lanes := [{ lane := 0, va := 0, pa := 0 }] }]
  seg := { w.seg with results := [{ ic := 0, vals := [(0, 7)], faults := [] }] } }
theorem witness_AccessesComplete_mirror : oneLane mirroredLab (.mirror false) = true ∧ ((mirroredLab.weft 0).resultOf 0).isSome = true := by decide +kernel

/-- A store in the queue, and one that has entered; the page read-only; and a range that is uncached. -/
noncomputable def queuedLab : State := after (.st none 4 true 4 2 0) memLab
noncomputable def enteredLab : State := after (.storeEntry 0) queuedLab
noncomputable def deniedLab : State := queuedLab.modCluster 0 fun cl => { cl with tlb := cl.tlb.map fun e => { e with w := false } }
def uncachedLab : State := ((lab id).writeDword 0x100 0x8002).writeDword 0x108 0x8000

theorem witness_StoresReachMemory_entry : (match (queuedLab.weft 0).stores.find? fun e => !e.entered with
      | some e => match queuedLab.xlateAll 0 0 .write (e.pieces.zipIdx.map fun x => (x.2, x.1.va)) with
        | .ok (accs, s') => accs.length == e.pieces.length && clear queuedLab s' && (queuedLab.weft 0).stores.countP (fun x => x.seq = e.seq) == 1
        | .error _ => false
      | none => false) = true
    ∧ (match (deniedLab.weft 0).stores.find? fun e => !e.entered with
      | some e => match deniedLab.xlateAll 0 0 .write (e.pieces.zipIdx.map fun x => (x.2, x.1.va)) with
        | .error (.prot, _, _) => (deniedLab.weft 0).status == .live && (deniedLab.weft 0).hold.isNone
        | _ => false
      | none => false) = true := by decide +kernel
theorem witness_StoresReachMemory_order : (match (enteredLab.weft 0).stores[0]? with
      | some e => match e.pieces.find? fun q => !q.done && q.lane == 0 with
        | some p => !e.spad && e.entered && ((enteredLab.weft 0).earlierLoads e.seq).isEmpty && !enteredLab.storeBefore 0 e.seq p.pa p.gr
            && !enteredLab.otherBefore 0 p.pa p.gr e.born && p.hist.isNone
            && clear enteredLab ((enteredLab.acting 0 e.seq).coreWrite 0 0 p.va p.pa p.gr p.data)
        | none => false
      | none => false) = true
    ∧ (uncachedLab.holdRanges 0 0).rangeMode 0 0x8000 = 2 ∧ ((uncachedLab.noteWriter 0 0x8000 4).holdRanges 0 0).rangeMode 0 0x8000 = 2
    ∧ uncachedLab.lineAt 0 0 0x4000 = none ∧ uncachedLab.sectorAt 0 0 0x4000 = none := by decide +kernel

/-! Fences, cache maintenance and remote access. -/

noncomputable def fencedLab : State := after (.fenceRel none 1) queuedLab
/-- Nothing is in flight or queued (State.storesDone). -/
def quiet (s : State) (k : Nat) : Bool :=
  (s.weft k).flights.isEmpty && (s.weft k).stores.isEmpty && s.wefts.all fun x => teamOf x.1 != teamOf k || x.2.stores.isEmpty
theorem quiet_done {s : State} {k : Nat} (h : quiet s k = true) : s.storesDone k := by
  simp only [quiet, Bool.and_eq_true, List.isEmpty_iff, List.all_eq_true, Bool.or_eq_true, bne_iff_ne, ne_eq] at h
  exact ⟨h.1.1, h.1.2, fun x hx hk => (h.2 x hx).resolve_left (not_not.mpr hk)⟩
theorem witness_FencesOrder_quiet : memLab.member memLab.cur = 0 ∧ memLab.storesDone memLab.cur ∧ ∀ fn < 4, issues (formA none 0x41 fn true 0 0 1) memLab = true :=
  ⟨by decide +kernel, quiet_done (by decide +kernel), by decide +kernel⟩
theorem witness_FencesOrder : memLab.member memLab.cur = 0 ∧ (List.range 4).all (fun fn => issues (formA none 0x41 fn true 0 0 1) memLab
      && fenceReady memLab memLab.cur fn 1)
    ∧ [1, 2, 3].all (fun fn => issues (formA none 0x41 fn true 0 0 1) queuedLab && !fenceReady queuedLab queuedLab.cur fn 1)
    ∧ issues (formA none 0x41 0 true 0 0 1) loadLab && !fenceReady loadLab loadLab.cur 0 1 := by decide +kernel
/-- A weft held at a fence whose store has been performed. -/
noncomputable def releasableLab : State := fencedLab.modWeft 0 fun w => { w with stores := [], flags := [] }
theorem witness_FencesOrder_held : ((releasableLab.weft 0).hold.map fun h => h.kind) = some (.fence 1 1) ∧ releasableLab.canRelease 0 = true
    ∧ fenceReady releasableLab 0 1 1 = true ∧ (releasableLab.weft 0).flow.active ≠ 0 ∧ quiet releasableLab 0 = true := by decide +kernel

def cacheLab : State := lab (paired 2 0x4000 ∘ sreg 6 64)
theorem witness_CacheOperations : (List.range 3).all (fun fn =>
      let i := formA none 0x40 fn true 0 2 6
      let pages := (cmoRanges (i.ctx cacheLab) cacheLab.me 32).flatMap fun r => (pagesOf r.2.1 r.2.2).map fun q => (r.1, q)
      issues i cacheLab && decide (pages.length = 1) && cacheLab.member cacheLab.cur == 0
        && match cacheLab.xlateAll 0 0 .maint (pages.map fun q => (q.1, BitVec.ofNat 64 q.2.1)) with
          | .ok (accs, s1) =>
            let runs := (pages.zip accs).map fun y => (y.2.2.2.1 + (y.1.2.2.1 - y.1.2.1), y.2.2.2.1 + (y.1.2.2.2 - y.1.2.1))
            runs.all (fun r => !s1.storesMeet 0 r.1 r.2) && clear cacheLab (runs.foldl (fun s r => s.maintain fn 0 r.1 r.2) s1)
          | .error _ => false)
    ∧ [3, 4, 5].all (fun fn => issues (formA none 0x40 fn true 0 2 6) cacheLab
        && clear cacheLab (((cmoRanges ((formA none 0x40 0 true 0 2 6).ctx cacheLab) cacheLab.me 32).flatMap fun r => pagesOf r.2.1 r.2.2).foldl (fun s q =>
          tryTo s fun s => if fn = 5 then prefCode 0 0 q.2.1 q.2.2 s else prefSectors fn 0 0 q s) cacheLab)) := by decide +kernel
/-- SPEVICT of the page that is resident and clean. -/
def evictLab : State := lab (sreg 9 2048) id resident
theorem witness_CacheOperations_evict : issues (formA none 0x40 6 true 0 8 9) evictLab = true
    ∧ (match evictLab.findFrame 0 0 with
       | some (c, n, _) => !evictLab.heldPage 0 0 && isClear' evictLab (evictLab.evict c n)
       | none => false) = true := by decide +kernel

/-- Link 3 is up at version 2 and carries what goes to module 5; `s2` holds a remote address on it. -/
def linkLab : State :=
  (((lab (paired 2 0x0005000000001000 ∘ paired 4 9)).setField (plstat 3) 0 2 2).setField (plstat 3) 4 4 2).setField (routeReg 5) 0 16 8
theorem witness_RemoteRequests : linkLab.viral = false ∧ linkLab.linkTo 5 = some 3 ∧ 2 ≤ linkLab.field (plstat 3) 4 4 ∧ linkLab.member linkLab.cur ≠ 2
    ∧ (List.range 4).all (fun fn => issues (formA none 0x4D fn true 8 2 4) linkLab && (linkLab.me.flights.isEmpty)
        && (formA none 0x4D fn true 8 2 4).lanes linkLab == [0] && ((formA none 0x4D fn true 8 2 4).addr linkLab 0 0).toNat % 8 == 0)
    ∧ (List.range 4).all (fun fn => issues (formA none 0x4E fn true 8 2 0) linkLab && ((formA none 0x4E fn true 8 2 0).addr linkLab 0 0).toNat % 16 == 0)
    ∧ ((askAll (.rst 8) 0 0 [(0, 0x0005000000001000, 0, 0, 0)] linkLab).1.all fun l => l.val.isNone && l.cause.isNone) = true := by decide +kernel

theorem witness_RemoteRequests_trailing : trailLab.member trailLab.cur = 2 ∧ (List.range 4).all (fun fn =>
      issues (formA none 0x4D fn true 8 2 4) trailLab && ((formA none 0x4D fn true 8 2 4).addr trailLab 0 0).toNat % 8 == 0
        && issues (formA none 0x4E fn true 8 2 0) trailLab && ((formA none 0x4E fn true 8 2 0).addr trailLab 0 0).toNat % 16 == 0) = true := by decide +kernel

/-! Engines. The scratchpad holds a valid barrier at 0 and records at 128 (two words of global memory at 0x4000), 192 and 256 (two words at 0x400 and at
0x500), and 320 (one register of 16 lanes at 0x600). -/

def record (base : Nat) (n : Nat) : List Byte :=
  leBytes 8 base ++ [4, 0, 0, 0, 0, 0, 0, 0] ++ ([n, 1, 1, 1, 4, 0, 0, 0, 0, 0, 0, 0].flatMap fun x => leBytes 4 x)
def pageWith (bs : List (Nat × List Byte)) (c : Core) : Core :=
  let data := bs.foldl (fun m x => SMap.write (fun _ => (0 : Byte)) m x.1 x.2) []
  { c with stlb := [(0, 0)], frames := [(72, some { team := 0, page := 0, back := 0x100003, data := data })] }
def enginePage : Core → Core :=
  pageWith [(0, [2, 0, 0, 0, 1, 0, 0, 0, 1, 0, 0, 0]), (128, record 0x4000 2), (192, record 0x400 2), (256, record 0x500 2), (320, record 0x600 16)]
def engineLab : State :=
  lab (sreg 9 128 ∘ sreg 10 192 ∘ sreg 11 256 ∘ sreg 12 320 ∘ sreg 13 4 ∘ sreg 16 1) (fun t => { t with spt := [(0, 0x100003), (1, 0x100801)] }) enginePage

/-- The operands of a copy pass their checks, and its barrier is valid. -/
def mayCopy (fn : Nat) (a b : Reg) : Bool :=
  let i : Info := { formA none 0x50 fn true 8 a b with more := runRegisters fn a b engineLab.me }
  issues i engineLab && match copyOperands fn (i.ctx engineLab) engineLab with
    | .ok (_, _, _, s1) => match spadAt (i.ctx engineLab) s1 0 16 with
      | .ok (bs, s2) => (BBar.ofBytes bs).valid && clear engineLab s2
      | .error _ => false
    | .error _ => false
theorem witness_CopiesRun : mayCopy 0 9 10 ∧ mayCopy 1 10 9 ∧ mayCopy 2 9 9 ∧ mayCopy 3 11 10 ∧ mayCopy 4 13 12 ∧ mayCopy 5 12 13 := by decide +kernel
noncomputable def waitingCopy : State := after (.bcopyS2s none 8 11 10) engineLab
noncomputable def acceptedCopy : State := after (.copyAccept 0) waitingCopy
theorem witness_CopiesRun_steps : ((waitingCopy.core 0).copies.map fun y => y.accepted) = [false]
    ∧ (match (acceptedCopy.core 0).copies[0]? with
       | some y => y.accepted && !y.stopped && !acceptedCopy.spadBad (teamOf y.k) y.bar && match (acceptedCopy.acting y.k y.seq).bringPages 0 0 [0] with
         | .ok s1 => isClear' acceptedCopy (copyElem s1 0 y)
         | .error _ => false
       | none => false) = true := by decide +kernel

/-- A barrier operation finds the barrier at 0 as given, in the page that stays resident. -/
def atBarrier (s : State) (fn : Nat) (d b : Reg) (p : BBar → Bool) : Bool :=
  let i := formA none 0x51 fn true d 8 b
  issues i s && match barrierAt (i.ctx s) s with
    | .ok (at_, bar, s1) => p bar && at_ == 0 && clear s s1 && ((s1.findFrame 0 0).map fun x => x.1) == some 0 && s1.cores == [(0, s1.core 0)]
    | .error _ => false
def emptyPage : State := lab (sreg 16 1) (fun t => { t with spt := [(0, 0x100003), (1, 0x100801)] }) resident
theorem witness_ByteBarriers : atBarrier emptyPage 0 0 16 (fun b => !b.valid) ∧ atBarrier engineLab 1 0 16 (fun b => b.valid)
    ∧ atBarrier engineLab 2 0 16 (fun b => b.valid && b.arrive != 0) ∧ relReady engineLab 0 1 = true
    ∧ atBarrier engineLab 3 0 16 (fun b => b.valid && b.phase != true) ∧ atBarrier engineLab 3 0 17 (fun b => b.valid && b.phase == false)
    ∧ engineLab.me.inTurn = false ∧ engineLab.me.lanesPending = false ∧ atBarrier engineLab 4 20 16 (fun b => b.valid)
    ∧ atBarrier engineLab 5 0 0 (fun b => b.valid) ∧ engineLab.copiesOn 0 0 = false := by decide +kernel

/-- The records of a sweep agree. -/
def maySweep (fn : Nat) (b : Reg) : Bool :=
  let i := formA (if fn = 2 then some (Prefix.ofWord 0xFC005800) else none) 0x52 fn true 10 11 b
  issues i engineLab && match recordAt (i.ctx engineLab) engineLab false false 10 with
    | .ok (dst, s1) => match recordsAt (i.ctx engineLab) (sweepSources fn (i.ctx engineLab)) s1 with
      | .ok (srcs, s2) => clear engineLab s2 && srcs.all fun r => r.count == dst.count && r.start == dst.start && r.esize == dst.esize
      | .error _ => false
    | .error _ => false
theorem witness_SweepsAndFetchesRun_issue : (List.range 4).all (fun fn => maySweep fn 10) ∧ [4, 5, 6, 7].all (fun fn => maySweep fn 0) := by decide +kernel
noncomputable def sweepLab : State := after (.tadd none 10 11 11) engineLab
theorem witness_SweepsAndFetchesRun_sweep : (match (sweepLab.core 0).ops[0]? with
    | some o => match o.kind with
      | .tsweep fn dst srcs fill => !o.stopped && match runElems (enables o.fmode) (sweepElem 0 o fn dst srcs fill) dst.elements (sweepLab.acting o.k o.seq) 0 none with
        | .ok (s1, _, none) => clear sweepLab s1
        | _ => false
      | _ => false
    | none => false) = true := by decide +kernel
theorem witness_SweepsAndFetchesRun_fetch : (let i := formA none 0x53 0 true 16 11 0
      issues i engineLab = true ∧ (sregOf engineLab.me 16).toNat = 1 ∧ (match recordAt (i.ctx engineLab) engineLab true false 11 with
        | .ok (r, s1) => clear engineLab s1 && decide (1 < s1.slotCount 0) && decide ((r.count - r.start) * r.esize ≤ 16384) && !s1.slotToRead 0 1
        | .error _ => false) = true)
    ∧ issues (formA none 0x53 1 true 16 0 0) engineLab = true ∧ 1 < engineLab.slotCount 0 := by decide +kernel
noncomputable def fetchLab : State := after (.tfetch none 16 9) engineLab
def rerunLab : State := (engineLab.modCore 0 fun c => { c with slots := SMap.set (fun _ => {}) [] 1 { snap := some (0, { base := 0x4000, fmt := 4, glob := true }), rerun := true } })
theorem witness_SweepsAndFetchesRun_complete : (match (fetchLab.core 0).ops[0]? with
    | some o => match o.kind with
      | .tfetch 1 r => !o.stopped && (match fetchAll 0 0 (some (o.k, o.seq)) r r.elements (fetchLab.acting o.k o.seq) with
        | .ok (_, _, s1) => clear fetchLab s1
        | .error _ => false)
      | _ => false
    | none => false) = true
    ∧ ((rerunLab.core 0).slot 1).rerun = true ∧ (rerunLab.team 0).status = .resident
    ∧ (match ((rerunLab.core 0).slot 1).snap with
       | some (_, r) => (match fetchAll 0 0 none r r.elements rerunLab with
         | .ok (_, _, s1) => clear rerunLab s1
         | .error _ => false)
       | none => false) = true := by decide +kernel

/-! The matrix engine: the core is the team's; s20:s21 and s22:s23 describe slots 0 and 1 in bf16, s24 a group table at 1024 with one group of 128
rows in slot 1, s26 a control word for tile 0, s27 a selector, s28:s29 a record of a whole tile. -/

def groupTable : List Byte := leBytes 4 1 ++ leBytes 12 0 ++ leBytes 8 128 ++ leBytes 8 0x0600010100000001
def tileRecord : List Byte := leBytes 8 0x4000 ++ [4, 0, 0, 0, 0, 0, 0, 0] ++ ([16384, 1, 1, 1, 0, 0, 0, 0, 0, 0, 0, 0].flatMap fun x => leBytes 4 x)
def matrixLab : State :=
  lab (paired 20 0x0600010100000000 ∘ paired 22 0x0600010100000001 ∘ sreg 24 1024 ∘ sreg 28 512 ∘ sreg 30 2048) (fun t => { t with spt := [(0, 0x100003), (1, 0x100801)] })
    fun c => { pageWith [(1024, groupTable), (512, tileRecord)] c with owner := some 0 }

def mayMma (grouped : Bool) (op : Nat) (b : Reg) : Bool :=
  let i : Info := { formA none op 0 true 26 20 b with irrev := !matrixLab.me.matrixHistory, est := fun _ => 133 * 128 + 5 }
  issues i matrixLab && i.activeOf matrixLab.me == fullMask matrixLab.me.width && (matrixLab.core 0).owner == some 0
    && match mmaOperands 0 grouped (i.ctx matrixLab) matrixLab with
      | .ok (_, A, gs, s1) => clear matrixLab s1 && (A.lines (rowsOf gs) ++ gs.flatMap (fun g => g.b.lines 128)).isEmpty && rowsOf gs == 128 && (s1.core 0).ops.isEmpty
          && (mmaSlots A gs).all fun n => !s1.fetching 0 n && !((s1.core 0).slot n).rerun && ((s1.core 0).slot n).rerunProt.isNone
      | .error _ => false
theorem witness_MatrixInstructionsIssue_mma : mayMma false 0x58 22 ∧ mayMma true 0x59 24 ∧ matrixLab.me.matrixHistory = false
    ∧ matrixLab.tableRows 0 1024 = 128 := by decide +kernel
theorem witness_MatrixInstructionsIssue_tiles : issues { formA none 0x5A 0 true 0 26 0 with d := 0 } matrixLab
    ∧ [0, 1, 2, 3].all (fun v => !matrixLab.tileBusy 0 0 v) ∧ matrixLab.coh.blocked = false ∧ matrixLab.coh.actor = none ∧ matrixLab.coh.ors = [] ∧ issues (formA none 0x5A 1 false 4 5 0) matrixLab
    ∧ issues (formA none 0x5A 2 false 4 5 0) matrixLab ∧ issues (formA none 0x5A 6 false 4 5 0) matrixLab ∧ (matrixLab.core 0).ops = [] := by decide +kernel
theorem witness_MatrixInstructionsIssue_copies :
    [(3, some (Prefix.ofWord 0xFC000002)), (4, some (Prefix.ofWord 0xFC000002))].all (fun x =>
      let i : Info := { formA x.2 0x5A x.1 true 26 28 0 with ok := (formA x.2 0x5A x.1 true 26 28 0).ok }
      issues i matrixLab && match recordAt (i.ctx matrixLab) matrixLab true false 28 with
        | .ok (r, s1) => clear matrixLab s1 && wholeTile r && r.fmt == 4 && (s1.core 0).owner == some 0 && !s1.tileBusy 0 0 0
        | .error _ => false)
    ∧ issues { formA (some (Prefix.ofWord 0xFC000002)) 0x5A 4 true 26 28 0 with ok := !prefixSat (some (Prefix.ofWord 0xFC000002)) } matrixLab
    ∧ issues (formA none 0x5A 5 true 26 30 0) matrixLab ∧ (sregOf matrixLab.me 26) = 0 ∧ (sregOf matrixLab.me 30).toNat + 128 ≤ (matrixLab.team 0).size := by
  decide +kernel
theorem witness_TilesZeroed : issues { formA none 0x5A 0 true 0 26 0 with d := 0 } matrixLab = true ∧ (sregOf matrixLab.me 26).toNat < 4
    ∧ (matrixLab.core 0).owner = some (teamOf matrixLab.cur) ∧ matrixLab.tileBusy 0 0 0 = false := by decide +kernel

noncomputable def mmaLab : State := after (.mma none 0 26 20 22) matrixLab
/-- The state before the last operand set is read, and after it. -/
noncomputable def lastSetLab : State := mmaLab.modCore 0 fun c => { c with ops := c.ops.map fun o => { o with sets := 15 } }
noncomputable def latchedLab : State := after (.mmaOperandReadDone 0 0) lastSetLab
/-- Nothing stands in the way of the next operand set of the MMA at the head. -/
def mayReadSet (s : State) (sets : Nat) : Bool := match (s.core 0).ops[0]? with
  | some o => match o.kind with
    | .mma _ _ _ _ a gs => !o.stopped && o.latched.isNone && o.sets == sets && (s.core 0).owner == some 0 && !(s.weft o.k).heldBefore o.seq
        && (mmaSlots a gs).all (fun n => !((s.core 0).slot n).rerun) && match gs[o.sets / 16]? with
          | some g => isClear' s ((s.acting o.k o.seq).bringPages 0 0 (a.pages (setLines o.sets (rowsOf gs)).1 ++ g.b.pages (setLines o.sets (rowsOf gs)).2))
          | none => false
    | _ => false
  | none => false
theorem witness_MatrixEngineRuns_first : mayReadSet mmaLab 0 = true := by decide +kernel
theorem witness_MatrixEngineRuns_last : mayReadSet lastSetLab 15 = true := by decide +kernel
theorem witness_MatrixEngineRuns_mma : (match (latchedLab.core 0).ops[0]? with
      | some o => match o.kind with
        | .mma .. => !o.stopped && o.latched.isSome && !latchedLab.mustWait 0 0 o && (latchedLab.checksumAt o.k o.ic).isNone && !latchedLab.coh.blocked
        | _ => false
      | none => false) = true := by decide +kernel
/-- Swaps: the team has the core; no team has it; team 1 has it. -/
def ownedBy (t : Option Nat) : State := matrixLab.modCore 0 fun c => { c with owner := t }
def bare (t : Option Nat) : State := (State.reset.modTeam 0 fun x => { x with status := .resident }).modCore 0 fun c => { c with owner := t }
theorem witness_MatrixEngineRuns_swap : (ownedBy none).coh.ors = [] ∧ (matrixLab.team 0).status = .resident ∧ (ownedBy none).matrixIdle 0 = true
    ∧ ((ownedBy none).team 0).matrixSaved.getLsbD (matrixParity ((ownedBy none).team 0) 0) = false ∧ (bare (some 1)).matrixIdle 0 = true
    ∧ ((bare (some 1)).team 0).status = .resident := by decide +kernel
/-- A team that has saved no tiles gets zeros. -/
theorem loads_unsaved (u : State) (core T : Nat) (h : (u.team T).matrixSaved.getLsbD (matrixParity (u.team T) core) = false) :
    ∃ v, loadMatrix u core T = .ok v ∧ v.viral = u.viral ∧ v.coh = u.coh := by
  unfold loadMatrix; rw [if_neg (by rw [h]; exact Bool.false_ne_true)]; exact ⟨_, rfl, rfl, rfl⟩

/-- Saving, with nothing under way and no copy held. -/
theorem saves_quiet (s : State) (core o : Nat) (ho : (s.core core).owner = some o) (he : s.exists (s.matrixImage o core) 278528 = true)
    (hst : s.still = true) (hd : s.coh.dir = []) : ∃ (u s1 : State), saveMatrix s core = .ok s1 ∧ u.teams = s.teams
      ∧ s1 = (u.modTeam o fun y => { y with matrixSaved := y.matrixSaved ||| BitVec.ofNat 2 (2 ^ matrixParity y core) }).modCore core
        (fun x => { x with owner := none, tiles := [], scales := [] }) ∧ u.mgmt = s.mgmt ∧ u.coh.blocked = s.coh.blocked := by
  unfold saveMatrix
  rw [ho]
  dsimp only
  rw [if_neg (by rw [he]; decide)]
  generalize ((SMap.read zeroWord (s.core core).tiles 0 65536).flatMap fun w => leBytes 4 w.toNat) = bs
  generalize (SMap.read zeroByte (s.core core).scales 0 16384) = cs
  generalize s.matrixImage o core = p
  obtain ⟨a1, a2, a3, a4, a5, -⟩ := homeWrite_quiet p bs hst hd
  generalize s.homeWrite p bs = t at *
  obtain ⟨-, -, b3, b4, b5, -⟩ := homeWrite_quiet (p + 262144) cs a1 a2
  generalize t.homeWrite (p + 262144) cs = u at *
  exact ⟨u, _, rfl, b5.trans a5, rfl, b4.trans a4, b3.trans a3⟩
/-- Team 0 has saved no tiles, whatever the two writes of team 1's image leave besides the teams. -/
theorem bare_unsaved (u : State) (f : Team → Team) (g : Core → Core) (h : u.teams = (bare (some 1)).teams) :
    ((((u.modTeam 1 f).modCore 0 g).noteMiss 0).team 0).matrixSaved.getLsbD (matrixParity ((((u.modTeam 1 f).modCore 0 g).noteMiss 0).team 0) 0) = false := by
  have e : (((u.modTeam 1 f).modCore 0 g).noteMiss 0).team 0 = u.team 0 := State.team_setTeam (s := u) 1 0 _
  rw [e, State.team, h]; decide +kernel
/-- Team 1's tiles are saved at its image by two writes at the home, and the core is then team 0's. -/
theorem witness_MatrixEngineRuns_saves : ∃ s1 s2, saveMatrix (bare (some 1)) 0 = .ok s1 ∧ loadMatrix (s1.noteMiss 0) 0 0 = .ok s2
    ∧ (bare (some 1)).clear s2 := by
  have hb : (bare (some 1)).coh.blocked = false := by decide +kernel
  obtain ⟨u, s1, e1, ht, rfl, hv, hc⟩ := saves_quiet (bare (some 1)) 0 1 (by decide +kernel) (by decide +kernel) (by decide +kernel) (by decide +kernel)
  obtain ⟨v, e, v1, v2⟩ := loads_unsaved _ 0 0 (bare_unsaved u _ _ ht)
  exact ⟨_, v, e1, e, v1.trans (congrArg (fun m => (SMap.get regReset m 0xA008).getLsbD 0) hv), (congrArg Coherence.blocked v2).trans (hc.trans hb)⟩
/-- Engine operations on two elements of tile 0, the last two of an ACC.ST, and on one line of scales. -/
def engineOp (kind : EngKind) (next : Nat) : EngOp :=
  { k := 0, kind := kind, flag := 1, pc := 4, ic := 0, lane := 0, rm := 1, phase := 0, fmode := 0, sat := false, next := next }
def twoWords : Iter := { base := 0x4000, fmt := 4, ext := [2, 1, 1, 1], str := [4, 0, 0, 0], glob := true }
def actingLab (o : EngOp) : State := (matrixLab.modCore 0 fun c => { c with ops := [o] }).acting o.k o.seq
def opLab (o : EngOp) : State := matrixLab.modCore 0 fun c => { c with ops := [o] }
theorem witness_MatrixEngineRuns_copies :
    (let o := engineOp (.accSt 0 false { twoWords with ext := [16384, 1, 1, 1], str := [0, 0, 0, 0], bcast := 1 }) 16383
     let r := accStRun 0 0 false { twoWords with ext := [16384, 1, 1, 1], str := [0, 0, 0, 0], bcast := 1 } 1 o (actingLab o)
     (opLab o).mustWait 0 0 o = false ∧ r.2.2.isNone = true ∧ clear (opLab o) r.2.1 = true)
    ∧ (let o := engineOp (.accLd 0 twoWords) 0
       (opLab o).mustWait 0 0 o = false ∧ isClear (opLab o) (accLdRead 0 o twoWords twoWords.elements (actingLab o)) = true)
    ∧ (let o := engineOp (.sclLd 0 1 2048) 0
       (opLab o).mustWait 0 0 o = false ∧ (opLab o).spadBad 0 2048 = false
         ∧ isClear (opLab o) (readRows 0 0 { addr := 2048, slot := false, ldu := 1 } (List.range 1) (actingLab o)) = true) := by
  decide +kernel
theorem witness_MatrixEngineRuns_element : ({ fn := 6, aLine := 0x01, bLine := 0xFF, accum := false, sat := false, sa := fun _ => 0, sb := fun _ => 0 } : MElem).sat = false := rfl

/-! Control. The code holds, from address 0: a header, the instruction at 4, a header of back-link 2 at 8, and headers of back-link 0 at 16 and 24. -/

def codeWords : List Word := [0xF8000001, 0xCA000000, 0xF8200001, 0xCA000000, 0xF8000001, 0xCA000000, 0xF8000001, 0xCA000000]
def codeLab (w : Weft → Weft) : State :=
  (lab w).modCluster 0 fun cl => { cl with icache := [{ ctx := 0, va := 0, pa := 0, words := codeWords ++ List.replicate 24 0xCA000000 }] }

/-- A transfer to the address is allowed. -/
def good (s : State) (st : List StackEntry) (m : Mask) (va : Dword) : Bool :=
  canonical va && va.toNat % 4 == 0 && (match s.codeWord s.cur va with
    | .ok h => isHeader h && !badHeader h
    | .error _ => false) && !s.me.lanesPending && (arrive st m va false).active != 0
theorem good_may {s : State} {st : List StackEntry} {m : Mask} {va : Dword} (h : good s st m va = true) : s.mayTransfer st m va := by
  unfold good at h
  simp only [Bool.and_eq_true, beq_iff_eq, Bool.not_eq_true', bne_iff_ne, ne_eq] at h
  obtain ⟨⟨⟨⟨h1, h2⟩, h3⟩, h4⟩, h5⟩ := h
  refine ⟨⟨h1, h2, ?_⟩, h4, h5⟩
  split at h3
  · next x hx => simp only [Bool.and_eq_true, Bool.not_eq_true'] at h3; exact ⟨x, hx, h3.1, h3.2⟩
  · cases h3

def branchLab : State := codeLab (mreg 2 0x00FF ∘ fun w => { w with flow := { w.flow with stack := [.join 24 0xFFFF] } })
/-- A BR of a kind may issue with its target at 16. -/
def mayBranch (b : BrKind) (fn m : Nat) : Bool :=
  issues { formOf none (.fmtB 0x60 (BitVec.ofNat 3 fn) 0 0) with est := fun _ => 0, ctl := some (brWords b m 3 branchLab.me 8) } branchLab
theorem witness_BranchesTransfer : mayBranch .always 0 0 ∧ mayBranch .any 1 2 ∧ mayBranch .all 2 2 ∧ mayBranch .none 3 2 ∧ mayBranch .div 4 2 ∧ mayBranch .div 4 0
    ∧ branchLab.me.maskReg 2 &&& branchLab.me.flow.active ≠ 0 ∧ branchLab.me.maskReg 2 &&& branchLab.me.flow.active ≠ branchLab.me.flow.active
    ∧ branchLab.me.maskReg 3 &&& branchLab.me.flow.active = 0 ∧ branchLab.me.maskReg 0 &&& branchLab.me.flow.active = branchLab.me.flow.active
    ∧ branchLab.me.trap.handler = false ∧ branchLab.me.flow.hdr = 0 := by decide +kernel
theorem witness_BranchesTransfer_target : branchLab.mayTransfer branchLab.me.flow.stack branchLab.me.flow.active 16 := good_may (by decide +kernel)
theorem witness_BranchesTransfer_split : branchLab.mayTransfer (.path 8 (branchLab.me.flow.active &&& ~~~0x00FF) 24 :: branchLab.me.flow.stack) 0x00FF 16 :=
  good_may (by decide +kernel)
theorem witness_BranchesTransfer_fall : branchLab.headerAt branchLab.cur 8 := ⟨0xF8200001, by decide +kernel, by decide +kernel⟩
theorem witness_BranchesTransfer_link : headerBackLink ((branchLab.codeWord branchLab.cur 8).toOption.getD 0) = 2 := by decide +kernel

def callLab : State := codeLab (paired 6 16 ∘ sreg 8 0)
theorem witness_CallsJumpsAndWaits : issues { formOf none (.fmtB 0x61 0 0 0) with est := fun _ => 6, ctl := some (jumpWords callLab.me 16), more := [(true, 126), (true, 127)] } callLab = true
    ∧ issues { formA none 0x65 2 true 0 6 0 with est := fun _ => 0, ctl := some (jumpWords callLab.me 16) } callLab = true
    ∧ issues { formA none 0x65 7 true 0 6 8 with est := fun _ => 0, ctl := some (jumpWords callLab.me 16) } callLab = true
    ∧ pairAt callLab.me true 6 0 = 16 ∧ wordAt callLab.me true 8 0 = 0
    ∧ isHeader ((callLab.codeWord callLab.cur 8).toOption.getD 0) = true
    ∧ issues { formOf none (.fmtB 0x62 0 0 0) with ctl := some (fallWords (.join 16 callLab.me.flow.active :: []) callLab.me.flow.active 8) } callLab = true
    ∧ callLab.me.flow.stack = [] := by decide +kernel
theorem witness_CallsJumpsAndWaits_target : callLab.mayTransfer [] callLab.me.flow.active 16 := good_may (by decide +kernel)
def waitLab (n : Word) : State := lab (sreg 5 n ∘ fun w => { w with flags := [(0, 1)] })
theorem witness_CallsJumpsAndWaits_waits : issues (formA none 0x65 0 true 0 0 0) plain ∧ issues (formA none 0x65 3 true 0 0 0) plain
    ∧ (let s := waitLab 2
       issues (formA none 0x65 4 true 0 5 0) s = true ∧ (sregOf s.me 5).toNat < 4096 ∧ s.me.flagsClear ((sregOf s.me 5).extractLsb' 0 12) = true
         ∧ s.me.waitDue ((sregOf s.me 5).extractLsb' 0 12) = none)
    ∧ (let s := waitLab 1
       issues (formA none 0x65 4 true 0 5 0) s = true ∧ s.me.flagsClear ((sregOf s.me 5).extractLsb' 0 12) = false ∧ s.me.lanesPending = false) := by
  decide +kernel
noncomputable def heldLab : State := (after (.waitf none 5) (waitLab 1)).modWeft 0 fun w => { w with flags := [] }
theorem witness_CallsJumpsAndWaits_release : ((heldLab.weft 0).hold.map fun h => h.kind) = some (.waitf 1) ∧ heldLab.canRelease 0 = true
    ∧ (heldLab.weft 0).flagsClear 1 = true ∧ (heldLab.weft 0).waitDue 1 = none ∧ (heldLab.weft 0).flow.active ≠ 0 := by decide +kernel

/-- EXIT ends the weft in three ways, leaves lanes behind, and leaves none before a stack entry. -/
def exitForm (u : Bool) (p : Option Prefix) (s : State) : Info :=
  { formA p 0x65 1 u 0 0 0 with est := fun _ => 0, ctl := some (exitWords u s.me ((formA p 0x65 1 u 0 0 0).activeOf s.me) (s.me.flow.pc + BitVec.ofNat 64 (4 * (formA p 0x65 1 u 0 0 0).len))) }
def prefixMask2 : Option Prefix := some (Prefix.ofWord 0xFC800000)
def longCode : State := (codeLab (mreg 2 0x00FF)).modCluster 0 fun cl =>
  { cl with icache := [{ ctx := 0, va := 0, pa := 0, words := [0xF8000001, 0xFC800000, 0xCA400000, 0xF8300001] ++ List.replicate 28 0xF8000001 }] }
theorem witness_ExitsEndLanes : issues (exitForm true none plain) plain ∧ issues (exitForm false none plain) plain ∧ plain.member plain.cur = 0
    ∧ (formA none 0x65 1 false 0 0 0).activeOf plain.me = plain.me.flow.active ∧ plain.me.flow.stack = [] ∧ plain.me.lanesPending = false
    ∧ plain.me.sched.uncommitted = false
    ∧ issues (exitForm false prefixMask2 longCode) longCode ∧ longCode.me.flow.active &&& ~~~(formA prefixMask2 0x65 1 false 0 0 0).activeOf longCode.me ≠ 0
    ∧ issues (exitForm false none branchLab) branchLab := by decide +kernel
theorem witness_ExitsEndLanes_fall : longCode.headerAt longCode.cur 12 := ⟨0xF8300001, by decide +kernel, by decide +kernel⟩
/-- With a join entry for other lanes, the exit of the whole active mask goes to its RPC. -/
def exitAll : State := codeLab fun w => { w with flow := { w.flow with active := 0x00FF, stack := [.join 24 0xFFFF] } }
theorem witness_ExitsEndLanes_pop : issues (exitForm false none exitAll) exitAll = true
    ∧ exitAll.me.flow.active &&& ~~~(formA none 0x65 1 false 0 0 0).activeOf exitAll.me = 0 := by decide +kernel
theorem witness_ExitsEndLanes_target :
    exitAll.mayTransfer (exitAll.me.flow.stack.map (dropLanes ((formA none 0x65 1 false 0 0 0).activeOf exitAll.me))) 0 24 := good_may (by decide +kernel)

/-! Clauses, traps, walks and special registers. -/

/-- At the header at 8: arrived by a transfer, or fallen into from the header at 0. -/
def atHeader (e : Entry) : State := codeLab fun w => { w with flow := { w.flow with pc := 8, hdr := 0, entry := e } }
/-- The header at 32 waits for flag 0, which is up. -/
def waitingHeader : State := (lab fun w => { w with flags := [(0, 1)], flow := { w.flow with pc := 32, entry := .arrived } }).modCluster 0 fun cl =>
  { cl with icache := [{ ctx := 0, va := 0, pa := 0, words := List.replicate 32 0xF8000101 }] }
def mayStart (s : State) : Bool := s.atClause 0 && !(s.weft 0).lanesPending && (s.weft 0).trap.impr.isEmpty && match s.codeWord 0 (s.weft 0).flow.pc with
  | .ok h => isHeader h && !badHeader h
  | .error _ => false
theorem witness_ClausesStart : mayStart (atHeader .arrived) = true ∧ mayStart (atHeader .fall) = true ∧ mayStart waitingHeader = true
    ∧ (atHeader .fall).me.flow.active ≠ 0 ∧ (atHeader .fall).me.flow.stack = []
    ∧ ((atHeader .fall).codeWord 0 8).toOption.map headerBackLink = some 2
    ∧ (atHeader .arrived).me.flagsClear 0 = true ∧ waitingHeader.me.flagsClear 1 = false
    ∧ (waitingHeader.codeWord 0 32).toOption.map (fun h => h.extractLsb' 8 12) = some 1 := by decide +kernel

/-- In a handler with two lanes in TMASK, which came from 8, the arrival at that header made. -/
def handlerLab (w : Weft → Weft) : State := codeLab fun x =>
  let t : TrapRegs := { x.trap with handler := true, tmask := 0x3, tamask := 0xFFFC, resume := 8, rEntry := .arrived, tcause := 0x1A, tpc := 8 }
  w { x with trap := t, flow := { x.flow with active := 0xFFFC, ic := 1 }, hist := { x.hist with lastPc := 4 } }
def armedWith (w : Weft → Weft) : State := (lab w).setReg (thvec 0) 0x2001
theorem witness_TrapsTaken : (let s := handlerLab (sreg 4 7)
      issues (formA none 0x65 5 true 0 0 9) s = true ∧ issues (formA none 0x65 6 true 0 4 0) s = true ∧ s.me.trap.handler = true)
    ∧ (let s := armedLab
       issues (formA none 0x65 5 true 0 0 9) s = true ∧ issues (formA none 0x65 6 true 0 4 0) s = true ∧ s.me.trap.handler = false
         ∧ (s.reg (thvec (s.ctxOf s.cur))).getLsbD 0 = true ∧ s.canIssue s.cur = true ∧ s.me.trap.impr = []) := by decide +kernel

def historyLab : State := lab fun w => sreg 4 48 (sreg 5 1 (vreg 6 (fun _ => 2) { w with regs := { w.regs with alloc := 64 } }))
theorem witness_RegisterAndHistoryGroup : issues (formA none 0x68 0 true 0 4 0) historyLab = true ∧ (sregOf historyLab.me 4).toNat = 48
    ∧ (∀ fn ∈ [1, 2], let i := formA none 0x68 fn false 8 6 3
       issues i historyLab = true ∧ ∀ L ∈ i.lanes historyLab, (i.a32 historyLab L).toNat + 3 < historyLab.me.regs.alloc)
    ∧ issues (formA none 0x68 7 true 8 0 0) historyLab = true ∧ issues (formA none 0x68 4 true 0 0 0) historyLab = true
    ∧ issues (formA none 0x68 5 true 0 0 0) historyLab = true ∧ historyLab.member historyLab.cur = 0
    ∧ issues (formA none 0x68 6 true 0 5 0) historyLab = true ∧ (sregOf historyLab.me 5).toNat < 4 ∧ historyLab.me.hist.on = false
    ∧ issues (formA none 0x68 6 true 0 9 0) historyLab = true ∧ (sregOf historyLab.me 9).toNat = 0 := by decide +kernel
theorem witness_InPlaceFormsInvert : (inplace 7 false { lane := 0, d := 5, a := 3, b := 0, c := 0 }).fault = none ∧ (inplace 7 false { lane := 0, d := 5, a := 2, b := 0, c := 0 }).fault ≠ none
    ∧ (inplace 0 false { lane := 0, d := 5, a := 2, b := 0, c := 0 }).fault = none := by decide

/-- History is on from IC 0, and the weft stands at IC `ic`; the pair s4 holds a target. -/
def walkLab (ic T : Dword) (w : Weft → Weft := id) : State := codeLab fun x =>
  w (paired 4 T { x with flow := { x.flow with ic := ic, pc := 8 }, hist := { x.hist with on := true, hcommit := 1, hlim := 4096, bytes := 4096 } })
def inWalk (x : Weft) : Weft := { x with flow := { x.flow with pc := 4, dir := true, revT := 0 } }
def mayRev (s : State) : Bool := issues { formA none 0x68 3 true 0 4 0 with ctl := some 0 } s && !s.me.lanesPending && decide (s.walkFloor s.cur = 1)
def revCode (s : State) : State := s.modCluster 0 fun cl => { cl with icache := [{ ctx := 0, va := 0, pa := 0, words := 0xF8000001 :: List.replicate 31 0xCA000000 }] }
theorem witness_ReverseWalks : ([3, 0, 2, 1].all fun T => mayRev (revCode (walkLab 2 T))) = true
    ∧ (revCode (walkLab 2 1)).walkReady 0 = true ∧ (revCode (walkLab 2 1)).me.trap.handler = false ∧ pairAt (revCode (walkLab 2 1)).me true 4 0 = 1
    := by decide +kernel
theorem witness_ReverseWalks_handled : (((revCode (walkLab 2 3)).setReg (thvec 0) 0x2001).reg (thvec ((revCode (walkLab 2 3)).ctxOf 0))).getLsbD 0 = true
    ∧ mayRev ((revCode (walkLab 2 3)).setReg (thvec 0) 0x2001) = true ∧ mayRev ((revCode (walkLab 2 0)).setReg (thvec 0) 0x2001) = true := by decide +kernel
theorem witness_ReverseWalks_handler : (let s := revCode (walkLab 2 1 fun x => { x with trap := { x.trap with handler := true, tmask := 1 } })
       issues { formA none 0x68 3 true 0 4 0 with ctl := some 0 } s = true ∧ s.me.trap.handler = true ∧ s.walkReady 0 = true) := by decide +kernel
/-- A step of a walk from IC 2 to IC 1; its end; and the floor. -/
def stepLab (ic revT : Dword) : State := revCode (walkLab ic revT fun x => { x with flow := { x.flow with dir := true, revT := revT } })
theorem witness_ReverseWalks_steps : (stepLab 2 1).stepReady 0 = true ∧ (stepLab 2 1).me.seg.walk = none
    ∧ (match predecessor (stepLab 2 1) 0 8 2 with
       | .ok (P, via) => isClear' (stepLab 2 1) (undoInstr (stepLab 2 1) 0 P via 1)
       | .error _ => false) = true
    ∧ (stepLab 1 1).stepReady 0 = true ∧ isClear' (stepLab 1 1) (endWalk (stepLab 1 1) 0) = true ∧ (stepLab 1 1).coh.ors = []
    ∧ (let s := (stepLab 1 0).setReg (thvec 0) 0x2001
       s.stepReady 0 = true ∧ (s.reg (thvec 0)).getLsbD 0 = true ∧ s.walkFloor 0 = 1 ∧ isClear' s (standAt s 0) = true) := by decide +kernel

def domainLab : State := { lab id (fun t => { t with domain := 1 }) with domains := [{ id := 1, launchId := 0 }] }
theorem witness_SpecialRegisters_reads : (List.range 0x21).all (fun b => let i := formA none 0x78 0 false 4 0 (BitVec.ofNat 7 b)
      issues i plain && (i.dk.words == 1 || i.dk.words == 2)) = true
    ∧ issues (formA none 0x78 0 true 4 0 0x19) domainLab = true ∧ domainLab.inDomain domainLab.cur = true ∧ plain.inDomain plain.cur = false := by decide +kernel
/-- In a handler, with the value in s4 and s5, each writable register takes it. -/
def swrLab (v : Dword) : State := handlerLab fun w => paired 4 v { w with hist := { w.hist with bytes := 4096, hsp := 64, hlim := 4096 } }
theorem witness_SpecialRegisters_writes :
    (∀ n ∈ [0x0A, 0x1A, 0x1B, 0x1C, 0x1D, 0x1E, 0x1F, 4, 5, 6], issues (formA none 0x78 1 true 0 4 (BitVec.ofNat 7 n)) (swrLab 64) = true)
    ∧ (swrLab 64).me.trap.handler = true ∧ bitsOf (64 : Word) 0 3 ≠ 7 ∧ bitsOf (64 : Word) 18 14 = 0
    ∧ ((swrLab 64).cores.all fun y => y.2.ops.isEmpty) = true ∧ pairAt (swrLab 64).me true 4 0 = 64 ∧ wordAt (swrLab 64).me true 4 0 = 64
    ∧ (swrLab 64).me.hist.a0 = 0 ∧ (swrLab 64).me.hist.hbase = 0
    ∧ issues (formA none 0x78 1 true 0 4 0x0A) (armedWith (sreg 4 64)) = true ∧ (armedWith (sreg 4 64)).me.trap.handler = false
    ∧ ((armedWith (sreg 4 64)).reg (thvec 0)).getLsbD 0 = true ∧ (armedWith (sreg 4 64)).ctxOf 0 = 0
    ∧ issues (formA none 0x78 1 false 0 4 0x0B) (armedWith (sreg 4 64)) = true := by decide +kernel

def eretForm (e : Bool) : Info := { formA none 0x78 2 true 0 (if e then 4 else 0) (if e then 1 else 0) with ctl := some 0 }
theorem witness_SystemGroup_eret : issues (eretForm false) (handlerLab id) = true ∧ issues (eretForm true) (handlerLab (paired 4 16)) = true
    ∧ (handlerLab id).me.trap.tamask ||| (handlerLab id).me.trap.tmask ≠ 0 ∧ pairAt (handlerLab (paired 4 16)).me true 4 0 = 16
    ∧ (handlerLab (paired 4 16)).me.trap.resume ≠ 16 ∧ (handlerLab (paired 4 16)).me.hist.lastPc ≠ 0
    ∧ issues (eretForm false) (armedWith id) = true := by decide +kernel
/-- In a handler that no lane is to leave: its mask names none of TMASK, and none was active; with a join entry of other lanes, and without. -/
def lostLab (st : List StackEntry) : State :=
  handlerLab fun w => { w with trap := { w.trap with tmask := 0x3, tamask := 0 }, flow := { w.flow with active := 0x3, stack := st } }
def eretNone : Info := { formA none 0x78 2 true 2 0 0 with ctl := some 0 }
theorem witness_SystemGroup_none : ([[], [.join 24 0xF0]].all fun st => let s := lostLab st
    issues eretNone s && s.me.trap.handler && (s.me.trap.tamask ||| (s.me.trap.tmask &&& s.me.maskReg 2)) &&& fullMask s.me.width == 0) = true := by
  decide +kernel
theorem witness_SystemGroup_target : (handlerLab (paired 4 16)).goodTarget (handlerLab (paired 4 16)).cur 16 :=
  (good_may (st := []) (m := 1) (by decide +kernel) : (handlerLab (paired 4 16)).mayTransfer [] 1 16).1
theorem witness_SystemGroup : issues (formA none 0x78 3 true 0 0 0) (handlerLab id) = true ∧ (handlerLab id).member (handlerLab id).cur = 0
    ∧ issues (formA none 0x78 3 true 0 0 0) (armedWith id) = true
    ∧ issues (formA none 0x78 4 true 0 4 0) (lab (sreg 4 0x3F)) = true ∧ (sregOf (lab (sreg 4 0x3F)).me 4).toNat < 64
    ∧ issues (formA none 0x78 5 true 0 0 0) plain = true ∧ issues (formA none 0x78 6 true 8 0 0) plain = true := by decide +kernel
/-- The blocks of the weft are written to its image as CTXSV leaves it. -/
theorem witness_SystemGroup_image : (let s' := retire ((formA none 0x78 5 true 0 0 0).ctx plain) plain.me { s := plain }
    isClear' plain (writePieces s' (weftPieces s' plain.cur false))) = true := by decide +kernel
/-- FQPARK in a member of a redundant pair whose partner, team 1, is resident. -/
def pairParkLab : State := (lab (fun _ => (handlerLab id).weft 0) fun t => { t with member := 1, partner := 1 }).modTeam 1 fun t =>
  { t with status := .resident, core := 8, member := 2, partner := 0 }
theorem witness_SystemGroup_pair : issues (formA none 0x78 3 true 0 0 0) pairParkLab = true ∧ pairParkLab.me.trap.handler = true
    ∧ pairParkLab.member pairParkLab.cur ≠ 0 ∧ (pairParkLab.team 0).partner ≠ 0 ∧ (pairParkLab.team (pairParkLab.team 0).partner).status = .resident := by
  decide +kernel

/-! Queues and tasks. Context 0 has tables that map page 1, at 0x4000, to the frame at 0x8000, where a launch block stands; queue 3 is enabled with
16 slots at 0x30000; the scratchpad holds a record at 64, and s4 its address, s5 the queue. -/

def mapped (s : State) : State :=
  (((((((s.setField 0x2000 12 40 0x10).setField 0x2008 0 13 1).writeDword 0x10000 0x14001).writeDword 0x14000 0x18001).writeDword 0x18000 0x1C001).writeDword
    0x1C000 0x20001).writeDword 0x20008 0x809F)
def taskRec : TaskRec := { entry := 8, flags := 1, launch := 0x4000, origin := 3 }
def launchBytes : List Byte :=
  leBytes 4 1 ++ [0, 1, 0, 0] ++ leBytes 4 1 ++ leBytes 4 1 ++ leBytes 4 1 ++ leBytes 4 0 ++ leBytes 8 8 ++ leBytes 8 0 ++ leBytes 4 0 ++ leBytes 2 3
    ++ leBytes 2 0 ++ leBytes 16 0 ++ leBytes 8 0x1000010 ++ leBytes 56 0
def queueLab (tail : Nat) : State :=
  let s := lab (sreg 4 64 ∘ sreg 5 3 ∘ sreg 6 0xFFFFFFFF ∘ paired 8 0x4080 ∘ sreg 10 1) (fun t => { t with spt := [(0, 0x100003), (1, 0x100801)], task := { t.task with origin := 3 } })
    (pageWith [(64, taskRec.toBytes)])
  (((mapped s).setReg (qcfg 3) 0xF09).setField (qbase 3) 12 40 0x30).setField (qtail 3) 0 32 tail |>.writeMem 0x8000 launchBytes

def named (s : State) (i : Info) : Bool :=
  issues i s && s.member s.cur == 0 && (sregOf s.me 4).toNat == 64 && decide (64 < (s.team (teamOf s.cur)).size) && (sregOf s.me 5).toNat == 3
    && s.qUsable 3 (s.ctxOf s.cur)
/-- A post finds the queue full, or not full and the append allowed. -/
def mayPut (full : Bool) (fn : Nat) (b : Reg) : Bool :=
  let s := queueLab (if full then 16 else 2)
  let i := formA none 0x6C fn true 5 4 b
  named s i && match postRecord (i.ctx s) s 64 with
    | .ok (r, s1) => s1.qFull 3 == full && clear s s1 && (full || relReady s1 s.cur 2 && isClear' s (s1.qAppend 3 r.toBytes))
    | .error _ => false
def mayGet (empty : Bool) (fn : Nat) (b : Reg) : Bool :=
  let s := queueLab (if empty then 0 else 2)
  let i := formA none 0x6C fn true 5 4 b
  named s i && !s.qServe 3 && match recordPage (i.ctx s) s 64 with
    | .ok s1 => (s1.qLen 3 == 0) == empty && clear s s1 && (empty || match s1.qTake 3 with
      | .ok (bs, _, s2) => clear s (s2.spadPut (teamOf s.cur) 64 bs)
      | .error _ => false)
    | .error _ => false
theorem witness_QueuesAndTasks_put : mayPut true 0 0 ∧ mayPut false 0 0 ∧ mayPut true 1 2 ∧ mayPut false 1 2 := by decide +kernel
theorem witness_QueuesAndTasks_get : mayGet true 2 0 ∧ mayGet false 2 0 ∧ mayGet true 3 2 ∧ mayGet false 3 2 := by decide +kernel
/-- A held QPUT whose queue has room again, or stays full; and a held QGET. -/
noncomputable def heldPut : State := after (.qput none 5 4) (queueLab 16)
noncomputable def heldGet : State := after (.qget none 5 4) (queueLab 0)
noncomputable def freedPut : State := heldPut.setField (qtail 3) 0 32 2
noncomputable def filledGet : State := heldGet.setField (qtail 3) 0 32 2
theorem witness_QueuesAndTasks_held : (match (freedPut.weft 0).hold with
      | some h => match h.kind with
        | .qput q r => q == 3 && freedPut.canRelease 0 && (freedPut.weft 0).flow.active != 0 && freedPut.qUsable 3 (freedPut.ctxOf 0) && !freedPut.qFull 3
            && relReady freedPut 0 2 && isClear' freedPut (freedPut.qAppend 3 (bitsBytes r)) && heldPut.qFull 3
        | _ => false
      | none => false) = true
    ∧ (match (filledGet.weft 0).hold with
      | some h => match h.kind with
        | .qget q a => q == 3 && filledGet.canRelease 0 && !filledGet.qServe 3 && filledGet.qLen 3 != 0 && !filledGet.spadBad 0 a
          && match filledGet.bringPages 0 0 [a / 2048] with
          | .ok s0 => match s0.qTake q with
            | .ok (bs, _, s1) => (s1.spadPut 0 a bs).weft 0 == filledGet.weft 0 && clear filledGet (s1.spadPut 0 a bs)
            | .error _ => false
          | .error _ => false
        | _ => false
      | none => false) = true
    ∧ (heldPut.setReg (thvec 0) 0x2001).canRelease 0 = true ∧ (heldPut.setReg (thvec 0) 0x2001).qFull 3 = true
    ∧ ((heldPut.setReg (thvec 0) 0x2001).weft 0).hold.isSome = true ∧ ((heldPut.setReg (thvec 0) 0x2001).reg (thvec 0)).getLsbD 0 = true := by decide +kernel

def stealLab : State := (queueLab 2).modCore 1 fun c => { c with queue := [{ task := taskRec, ctx := 0, prio := 0 }] }
/-- The local queue of the core is full. -/
def fullLocal : State := (queueLab 2).modCore 0 fun c => { c with queue := List.replicate 64 { task := taskRec, ctx := 0, prio := 0 } }
theorem witness_QueuesAndTasks_spawn : (let s := queueLab 2
      let i := formA none 0x6C 4 true 0 4 0
      issues i s && match postRecord (i.ctx s) s 64 with
        | .ok (r, s1) => s1.teams == s.teams && relReady s1 s.cur 2 && s1.localRoom 0 && match s1.checkRec (s.ctxOf s.cur) none { r with origin := 3 } with
          | .ok (l, s2) => clear s s2 && s2.localRoom (queueCore (pairRecord { r with origin := 3 } l) (s2.coreOf s.cur))
          | .error _ => false
        | .error _ => false) = true
    ∧ (let s := fullLocal
      let i := formA none 0x6C 4 true 0 4 0
      issues i s && match postRecord (i.ctx s) s 64 with
        | .ok (r, s1) => s1.teams == s.teams && relReady s1 s.cur 2 && !s1.localRoom 0 && s1.qUsable 3 0 && !s1.qFull 3
            && isClear' s (s1.qAppend 3 { r with origin := 3 }.toBytes)
        | .error _ => false) = true := by decide +kernel
theorem witness_QueuesAndTasks_tasks : (let s := queueLab 2
       let i := formA none 0x6C 5 true 0 8 0
       issues i s && (i.lanes s).all (fun L => (i.addr s 0 L).toNat % 4 == 0)
        && match s.xlateAll 0 0 .write ((i.lanes s).map fun L => (L, i.addr s 0 L)) with
        | .ok (accs, s1) => accs.length == 1 && relReady s1 s.cur 2 && accs.all fun x => isClear' s (s1.joinDecrement 0 x.2.2.1)
        | .error _ => false) = true
    ∧ (∀ s ∈ [queueLab 2, stealLab], (let i := formA none 0x6C 6 true 7 4 10
       issues i s && match recordPage (i.ctx s) s 64 with
        | .ok s1 => clear s s1 && match bestRecord (fun r => r.ctx == s1.ctxOf s.cur && s1.mayRunOn r 0 && r.held == 0
              && s1.canAdmit (queueCore r.pair 0) r.count r.pair) (s1.core 1).queue with
          | none => (s.core 1).queue.isEmpty
          | some j => match (s1.core 1).queue[j]? with
            | some x => clear s ((countSteal (s1.modCore 1 fun y => { y with queue := y.queue.eraseIdx j }) 0).spadPut 0 64 x.task.toBytes)
            | none => false
        | .error _ => false) = true)
    ∧ stealLab.member stealLab.cur = 0 ∧ issues (formA none 0x6C 7 true 12 5 0) (queueLab 2) ∧ issues (formA none 0x6C 7 true 12 6 0) (queueLab 2)
    ∧ (queueLab 2).qUsable 3 0 = true := by decide +kernel

/-! Barriers: weft 1 of the team has not arrived, or has ended. -/

def barLab (x : WeftStatus) (b : BarInst := {}) : State :=
  (lab (sreg 4 2) fun t => { t with nwefts := 2, bars := [(6, b)] }).modWeft 1 fun w => { w with status := x }
/-- A barrier operation of the weft starts: its stores are done, and it has no arrival pending. -/
def atBar (s : State) (fn : Nat) : Bool :=
  issues (formA none 0x70 fn true 0 4 0) s && !s.me.inTurn && quiet s s.cur && !((s.team 0).bar 6).pending.getLsbD 0
/-- Weft 1 has ended, or has arrived. -/
def lastIn (s : State) : Bool := (s.team 0).nwefts == 2 && ((s.weft 1).status == .ended || ((s.team 0).bar 6).pending.getLsbD 1)
def arrivedLab : State := (barLab .live { pending := 2 }).modWeft 1 fun w => { w with hold := some { pc := 4, next := 8, kind := .bar 2 0 } }
theorem witness_TeamBarriers : (List.range 3).all (atBar (barLab .live)) = true ∧ (List.range 3).all (atBar (barLab .ended)) = true
    ∧ (List.range 3).all (atBar arrivedLab) = true ∧ lastIn (barLab .live) = false ∧ lastIn (barLab .ended) = true ∧ lastIn arrivedLab = true
    ∧ (sregOf (barLab .live).me 4).toNat = 2 ∧ ((barLab .live).team 0).pair = false
    ∧ (arrivedLab.weft 1).hold.isSome = true ∧ arrivedLab.canRelease 1 = true := by decide +kernel
theorem witness_TeamBarriers_wait : (let s := barLab .live { pending := 1 }
    issues (formA none 0x70 3 true 0 4 0) s = true ∧ s.me.inTurn = false ∧ ((s.team 0).bar 6).pending.getLsbD 0 = true) := by decide +kernel
/-- A number above 7, a second arrival, and a wait with none pending, with a handler. -/
theorem witness_TeamBarriers_bad : ([(lab (sreg 4 8)).setReg (thvec 0) 0x2001, (barLab .live { pending := 1 }).setReg (thvec 0) 0x2001].all fun s =>
      [0, 1, 2].all (fun fn => issues (formA none 0x70 fn true 0 4 0) s) && !s.me.trap.handler && (s.reg (thvec (s.ctxOf s.cur))).getLsbD 0) = true
    ∧ issues (formA none 0x70 3 true 0 4 0) ((barLab .live).setReg (thvec 0) 0x2001) = true := by decide +kernel

/-! Domains: team 0 alone in domain 1, with one weft or two; the pair s4 holds a clock, s8 a number. -/

def domLab (T : Dword) (n : Word) (two : Bool := false) (w : Weft → Weft := id) : State :=
  { (lab (w ∘ paired 2 0x4000 ∘ paired 4 T ∘ sreg 8 n) fun t => { t with domain := 1, nwefts := if two then 2 else 1 }).modWeft 1
      (fun w => if two then { w with status := .live } else w) with domains := [{ id := 1, launchId := 0 }] }
theorem witness_DomainInstructions_atomics : (List.range 6).all (fun fn =>
      let s := domLab 0 0
      let i := formA none 0x4C fn true 0 2 6
      issues i s && s.inDomain s.cur && s.member s.cur == 0 && (i.lanes s).all (fun L => (i.addr s 0 L).toNat % 8 == 0)
        && match s.xlateAll 0 0 .write ((i.lanes s).map fun L => (L, i.addr s 0 L)) with
        | .ok (accs, s') => clear s s' && decide (s'.epochShare s.cur + accs.length ≤ 4096 / max 1 (s'.teamOfWeft s.cur).nwefts)
        | .error _ => false) = true := by decide +kernel
def outLab : State := lab (paired 4 9 ∘ sreg 8 1)
def dsyncForm (s : State) : Info := { formA none 0x71 0 true 0 8 0 with irrev := s.inDomain s.cur }
def flushForm (s : State) : Info := { formA none 0x71 1 true 0 8 0 with irrev := s.inDomain s.cur }
def mayClock (s : State) : Bool := issues (dsyncForm s) s && issues (formA none 0x71 2 true 0 4 0) s && issues (flushForm s) s && !s.me.inTurn && !s.me.lanesPending
def behind (w : Weft) : Weft := { w with flow := { w.flow with ic := 5 } }
theorem witness_DomainInstructions : mayClock outLab = true ∧ outLab.inDomain outLab.cur = false ∧ mayClock (domLab 9 1) = true
    ∧ (domLab 9 1).mayTurn (domLab 9 1).cur = true ∧ (domLab 9 1).clockReached (domLab 9 1).cur 9 = true
    ∧ mayClock (domLab 9 1 true behind) = true ∧ (domLab 9 1 true behind).mayTurn (domLab 9 1 true behind).cur = false
    ∧ (domLab 9 1 true behind).me.lc.toNat < 9 ∧ (domLab 9 1 true behind).clockReached (domLab 9 1 true behind).cur 9 = false
    ∧ ((domLab 9 1).domain? 1).map (fun d => d.applied) = some 0 ∧ (domLab 9 1).me.sched.epoch = 0 ∧ mayClock (domLab 9 0) = true
    ∧ relReady (domLab 9 1) 0 2 = true := by decide +kernel

noncomputable def heldTurn : State := (after (.dsync none 8) (domLab 9 1 true behind)).modWeft 0 fun w => { w with flow := { w.flow with ic := 0 } }
noncomputable def heldClock : State := (after (.dclk none 4) (domLab 9 1 true behind)).modWeft 1 fun w => { w with flow := { w.flow with ic := 9 } }
def openLab : State := { domLab 9 1 false (fun w => { w with sched := { w.sched with turn := true } }) with domains := [{ id := 1, launchId := 0, turn := some 0 }] }
noncomputable def flushLab : State := after (.flushpt none 8) (after (.daddI32 none true 2 6) (domLab 9 0))
theorem witness_DomainEvents : ((heldTurn.weft 0).hold.map fun h => h.kind) = some (.dsync 1) ∧ heldTurn.canRelease 0 = true ∧ heldTurn.member 0 = 0
    ∧ (heldTurn.weft 0).flow.active ≠ 0 ∧ heldTurn.mayTurn 0 = true
    ∧ ((heldClock.weft 0).hold.map fun h => h.kind) = some (.dclk 9) ∧ heldClock.canRelease 0 = true ∧ (heldClock.weft 0).flow.active ≠ 0
    ∧ heldClock.clockReached 0 9 = true ∧ ((openLab.domain? 1).bind fun d => d.turn) = some 0 ∧ openLab.turnDone 0 = true
    ∧ (openLab.teamOfWeft 0).member = 0 := by decide +kernel
theorem witness_DomainEvents_flush : (match flushLab.domain? 1 with
      | some d => flushLab.flushReached d d.applied && clear flushLab (applyEpoch flushLab d d.applied) && (flushLab.domainEntries d).any fun e => e.epoch == d.applied
      | none => false) = true := by decide +kernel
def heldLaunch : State := { lab id with launches := [{ id := 7, task := taskRec, blk := {}, ctx := 0, queue := 3, next := 0, ended := 0, held := 4 }] }
def heldRecord : State := (lab id).modCore 2 fun c => { c with queue := [{ task := taskRec, ctx := 0, prio := 0, held := 6 }] }
theorem witness_DomainEvents_admit : minCode heldLaunch.heldOrders = some 4 ∧ (heldLaunch.launches.find? fun l => l.held == 4).isSome = true
    ∧ minCode heldRecord.heldOrders = some 6 ∧ (heldRecord.launches.find? fun l => l.held == 6) = none ∧ heldRecord.domains.length < 64 := by decide +kernel

/-! Links: link 3 is up at version 2; window 0 opens page 1 of context 0 to its peers. -/

def peerLab : State := ((((mapped linkLab).setReg (rwcfg 0) 3).setReg (rwbase 0) 0x4000).setField (rwlen 0) 14 34 1)
def flit (typ : Byte) (op1 : BitVec 128) (fl : Byte := 0) (src : Nat := 5) (id : Nat := 9) : Flit :=
  { Flit.blank with typ := typ, fl := fl, src := BitVec.ofNat 16 src, id := BitVec.ofNat 16 id, op1 := op1, ack := 0xFFFFFFFF }.sealed
def comesIn (s : State) (f : Flit) : Bool := s.powered && s.linkUp 3 && !s.flitBad 3 f && f.zerosOk
def mayServe (typ n : Nat) (wr : Bool) (f : Flit) : Bool :=
  let cfg := peerLab.reg (rwcfg 0)
  let s1 : State := { peerLab.accept 3 f with held := [.flit 3 f] }
  comesIn peerLab f && f.typ == BitVec.ofNat 8 typ && !peerLab.viral && !peerLab.repairing && peerLab.held.isEmpty && decide (2 ≤ peerLab.field (plstat 3) 4 4)
    && (peerLab.keptFor f).isNone && cfg.getLsbD 0 && cfg.getLsbD 1 && bitsOf f.raddr 60 4 == 0
    && decide (bitsOf f.raddr 0 48 < peerLab.field (rwlen 0) 14 34 * 16384) && bitsOf f.raddr 0 48 % n == 0
    && match s1.hostXlate (bitsOf cfg 12 12) (if wr then .write else .read) 0x4000 with
      | .ok (pa, s2) => if typ < 3 then clear s1 (s2.hostRead pa n).2 else if typ < 5 then clear s1 (s2.hostWrite pa (leBytes n f.op1.toNat))
          else clear s1 ((s2.hostRead pa 8).2.hostWrite pa (leBytes 8 (reqNew f (leDword (s2.hostRead pa 8).1)).toNat))
      | .error _ => false
theorem witness_PeerRequestsServed_reads : mayServe 1 8 false (flit 1 0) ∧ mayServe 2 16 false (flit 2 0) ∧ mayServe 3 8 true (flit 3 7)
    ∧ mayServe 4 16 true (flit 4 7) := by decide +kernel
theorem witness_PeerRequestsServed_atomics : mayServe 5 8 true (flit 5 7) ∧ mayServe 6 8 true (flit 6 7) ∧ mayServe 7 8 true (flit 7 7 1) := by decide +kernel

/-- A lane waits for the answer of peer 5. -/
def awaited (s : State) : Bool := match s.fabric.waits.find? fun y => y.peer == 5 && y.flit.id == 9 && y.flit.fl.getLsbD 1 == false with
  | some x => (s.weft x.k).flights.all fun y => y.op != .rst
  | none => false
def waitingOn (fl : Byte) : State :=
  let s := (linkLab.modWeft 0 fun w => { w with flights := [{ op := .rld, flag := 0, pc := 4, ic := 0, uni := true, d := 4, words := 2, bytes := 8, lanes := [{ lane := 0, va := 0, pa := 0 }] }] })
  { s with fabric := { s.fabric with waits := [{ link := 3, k := 0, seq := 0, lane := 0, peer := 5, flit := flit 5 0 fl }]
                                     saved := [{ peer := 5, id := 4, flit := flit 5 0 }], kept := [{ src := 5, id := 4, val := 1 }] } }
theorem witness_AnswersAndLinks : awaited (waitingOn 0) = true ∧ comesIn (waitingOn 0) (flit 0x41 7) ∧ comesIn (waitingOn 0) (flit 0x42 0) ∧ comesIn (waitingOn 0) (flit 0x43 2)
    ∧ ([0, 1, 2].all fun fl => ((waitingOn fl).fabric.waits.find? fun v => v.k == 0 && v.seq == 0 && v.lane == 0) == (waitingOn fl).fabric.waits.head?) = true
    ∧ (waitingOn 0).repairing = false := by decide +kernel
def downLab : State := (linkLab.setField (plstat 3) 0 2 0).setField (plctl 3) 0 1 1
theorem witness_AnswersAndLinks_flits : comesIn linkLab (flit 0x70 0) = true ∧ comesIn linkLab (flit 0x71 0) = true
    ∧ linkLab.viral = false ∧ linkLab.powered = true ∧ linkLab.linkUp 3 = true := by decide +kernel
def mayTrain (v : BitVec 128) : Bool :=
  !downLab.linkUp 3 && (downLab.reg (plctl 3)).getLsbD 0 && (flit 0x7E v).crcOk && (flit 0x7E v).zerosOk && bitsOf (flit 0x7E v).op1 0 8 == v.toNat
theorem witness_AnswersAndLinks_train : mayTrain 0 = true ∧ mayTrain 2 = true := by decide +kernel
theorem witness_AnswersAndLinks_bad : linkLab.flitBad 3 { flit 1 0 with crc := 0 } = true := by decide +kernel
def discarded (f : Flit) : Bool := !linkLab.flitBad 3 f && (!knownType f.typ.toNat || !f.zerosOk)
theorem witness_AnswersAndLinks_discarded : discarded (flit 0x20 0) = true ∧ discarded { Flit.blank with typ := 1, zeros := 1, ack := 0xFFFFFFFF }.sealed = true
    ∧ discarded (flit 0x50 0) = true := by decide +kernel

/-! Coherence: `unit` of 128 bytes has its home on the die of cluster `near`. -/

def unit : Nat := 0x8000
def near : Nat := 32 * (lab id).homeDie unit
def zeros : List Byte := List.replicate 128 0
def line (st : CohState) : L1Line := { core := 8 * near, base := unit, gr := 128, st := st, data := List.replicate 128 5, va := 0x4000 }
def cohLab (msgs : List Msg) (l1 : List L1Line) (d : UnitDir := {}) (txns : List Txn := []) : State :=
  let e : DirEntry := { die := 4, block := unit / 512, grain := 128, units := SMap.set (fun _ => {}) [] unit d }
  { lab id with coh := { msgs := msgs, l1 := l1, dir := [e], txns := txns } }
def arriving (kind : MsgKind) (src dst : Nat) : Msg := { kind := kind, src := src, dst := dst, unit := unit, gr := 128, other := near + 1, data := zeros }
def comesNext (s : State) : Bool := match s.coh.msgs with
  | m :: _ => s.nextMsg (fun y => y.kind == m.kind && y.dst == m.dst) unit == some m && s.nextMsg (fun y => y.kind == m.kind && y.src == m.src) unit == some m && s.coh.waiting.isEmpty && s.upsets.isEmpty
  | [] => false
theorem witness_MessagesDelivered : ([.fwdS, .fwdX, .inv, .dataS, .dataE, .dataM, .ackM, .wbAck] : List MsgKind).all (fun k =>
      comesNext (cohLab [arriving k homeAgent near] [line .M]))
    ∧ ([.fwdAck, .noData, .invAck, .rdS, .rdX, .upg, .wbD] : List MsgKind).all (fun k => comesNext (cohLab [arriving k near homeAgent] []))
    ∧ ((lab id).cluster near).tlb.all (fun e => !e.walkedIn unit 128) = true
    ∧ ((lab id).cluster near).icache.all (fun l => decide (unit + 128 ≤ l.pa ∨ l.pa + 128 ≤ unit)) = true
    ∧ comesNext (cohLab [arriving .fwdS homeAgent near] []) ∧ (cohLab [arriving .fwdS homeAgent near] []).linesIn near unit = []
    ∧ (cohLab [arriving .fwdS homeAgent near] []).buffered near unit = none ∧ (cohLab [] [line .M]).linesIn near unit = [line .M] ∧ near < 128 := by
  decide +kernel
/-- An Inv to a cluster of another die that fails its check on the link is not delivered, and the module is viral by a die link (R435, R440). -/
theorem test_link_error :
    (let s := { cohLab [arriving .inv homeAgent ((near + 32) % 128)] [] with upsets := [.link unit] }
     match exec (.inv ((near + 32) % 128) unit) s with
     | .next t => t.viral && t.field vstat 4 4 == 3 && t.coh.msgs.isEmpty
     | _ => false) = true := by decide +kernel
def mayRequest (kind : MsgKind) (s : State) : Bool :=
  s.coh.msgs.isEmpty && decide (near < 128 ∧ near / 32 = s.homeDie unit ∧ unit % s.askGrain near unit = 0) && s.running && s.exists unit (s.askGrain near unit)
    && !s.outstanding near unit && s.mayAsk kind near unit && !s.nodeBusy 4 unit && s.coh.waiting.isEmpty && s.upsets.isEmpty && (s.dirFind 4 (unit / 512)).isSome
theorem witness_RequestsGranted : (∀ k ∈ [MsgKind.rdS, .rdX], mayRequest k (cohLab [] []) = true) ∧ (cohLab [] []).unitDir 4 unit = {}
    ∧ mayRequest .upg (cohLab [] [line .S] { state := .S, presence := bitAt (near % 32) })
    ∧ (cohLab [] [line .S] { state := .S, presence := bitAt (near % 32) }).unitDir 4 unit = { state := .S, presence := bitAt (near % 32) }
    ∧ mayRequest .wbD (cohLab [] [line .M] { state := .M, owner := some (near % 32), presence := bitAt (near % 32) })
    ∧ (((cohLab [] [line .M]).linesIn near unit).find? fun l => l.st.dirty) = some (line .M) := by decide +kernel
def txn (acks : List Nat) (to_ : Option Nat) : Txn :=
  { node := 4, unit := unit, gr := 128, req := .rdX, from_ := near + 1, acks := acks, fwdTo := to_, fwd := to_.isSome }
theorem witness_RequestsGranted_ends : (∀ k ∈ [MsgKind.fwdAck, .noData], (let s := cohLab [arriving k near homeAgent] [] {} [txn [] (some near)]
      comesNext s = true ∧ (s.findTxn fun t => t.node == 4 && t.unit == unit && t.fwd && t.fwdTo == some near) = some (txn [] (some near))))
    ∧ (let s := cohLab [arriving .invAck near homeAgent] [] {} [txn [near] none]
       comesNext s = true ∧ (s.findTxn fun t => t.node == 4 && t.unit == unit && t.acks.contains near) = some (txn [near] none)) := by decide +kernel

/-! Upkeep: team 0 with a page to fill, a frame to take away, or a line of code to fetch; a cold queue and a frame table. -/

def fillLab : State := lab id fun t => { t with spt := [(0, 0x100003), (1, 0x100801)] }
def fillsAndReserves : Bool :=
  let s0 := fillLab.modCore 0 fun c => { c with reserve := [(0, [0, 1])] }
  isClear' fillLab (fillLab.bringPage 0 0 (fillLab.team 0).core) && speOk ((fillLab.team 0).spte 1) && (fillLab.core 0).reserve.isEmpty
    && isClear' fillLab (s0.bringPages 0 0 [0, 1])
/-- Line 3 of the weft's region, held by the slice of its home and not. -/
def regLine : Nat := ((lab id).imageMap 0).regs.getD 0 0 + 384
def heldLine : State := ((lab id).homeRead regLine 128).2
theorem witness_FillsAndUpkeep_lines : (lab id).exists regLine 128 = true ∧ (lab id).l2Misses regLine 128 = true ∧ clear (lab id) heldLine = true
    ∧ heldLine.l2Misses regLine 128 = false := by decide +kernel
theorem witness_FillsAndUpkeep : fillsAndReserves = true ∧ (fillLab.team 0).status = .resident ∧ 1 < (fillLab.team 0).size / 2048 ∧ speOk ((fillLab.team 0).spte 0) = true
    ∧ fillLab.findFrame 0 0 = none
    ∧ (match spadLab.findFrame 0 0 with
       | some (core, i, _) => !spadLab.heldPage 0 0 && (spadLab.pageUpset 0 0).isNone && isClear' spadLab (spadLab.evict core i)
       | none => false) = true
    ∧ (plain.weft 0).status = .live ∧ 128 * 3 < regionBytes (plain.weft 0) ∧ plain.lineUpset 0 3 = none := by decide +kernel
def missLab : State := mapped (lab fun w => { w with flow := { w.flow with pc := 0x4004 } })
theorem witness_FillsAndUpkeep_code : ((missLab.cluster 0).icache.all fun l => !(l.ctx == 0 && l.va == 0x4000)) = true
    ∧ missLab.missing 0 0 128 = true ∧ isClear' missLab (missLab.fillCode 0 0 0x4000) = true := by decide +kernel

def drainLab (v : Dword) : State := spadLab.modCore 0 fun c => { c with roles := some v }
theorem witness_FillsAndUpkeep_roles : plain.badRoles 0 0xFFFFFFFFFFFFFFFF = true ∧ plain.badRoles 0 (plain.roles 0) = false
    ∧ ((drainLab 0xAA55555555540000).core 0).roles = some 0xAA55555555540000 ∧ (match drainFrames 0 (((banksOf ((drainLab 0xAA55555555540000).roles 0) 1).filter fun b =>
        roleIn 0xAA55555555540000 b != 1).flatMap fun b => (List.range 8).map fun k => 8 * b + k) (drainLab 0xAA55555555540000) with
      | .ok s1 => (((s1.core 0).frames).all fun x => x.2.isNone || decide (72 ≤ x.1)) && clear (drainLab 0xAA55555555540000) (dropL1 s1 0)
      | .error _ => false) = true := by decide +kernel
/-- The sweeper runs over a frame table at 0x40000 whose entry 2 is in use, 3 has A, and 4 is cold already. -/
def sweeperLab : State :=
  ((((((lab id).setField 0x2018 0 1 1).setField 0x2018 32 8 2).setField 0x2010 14 38 16).writeDword 0x40010 4).writeDword 0x40018 1).writeDword 0x40020 8
theorem witness_FillsAndUpkeep_sweeper : (sweeperLab.reg 0x2018).getLsbD 0 = true ∧ sweeperLab.cap ≠ 0
    ∧ sweeperLab.coldValid = false ∧ isClear' sweeperLab (sweepFrames (max 1 (sweeperLab.field 0x2018 32 8)) (sweeperLab.setBit xstat 1)) = true
    ∧ sweeperLab.exists 0x40010 8 = true ∧ (sweeperLab.cohDword 0x40010).getLsbD 2 = true ∧ sweeperLab.cohDword 0x40018 = 1 ∧ sweeperLab.cohDword 0x40020 = 8
    ∧ plain.field 0x0018 0 8 ≠ 0 ∧ plain.cap ≠ 0 ∧ plain.dead 3 = false := by decide +kernel

/-! Repair. -/

def grantLab (live : Nat) : State := (lab id).setField 0 0 11 live
def deadLab : State := (lab id).setBit (mpcstat 7) 16
def pausedLab : State := (State.reset.setBit mrepair 18).setField mrepair 0 10 7
theorem witness_RepairsRun : plain.repairing = false ∧ (7 : Dword).getLsbD 16 = false ∧ (0x10007 : Dword).getLsbD 16 = true ∧ bitsOf (0x10007 : Dword) 0 10 = 7
    ∧ deadLab.repairing = false ∧ deadLab.dead 7 = true ∧ (grantLab 768).repairing = false ∧ (grantLab 768).dead 7 = false ∧ (grantLab 768).field 0 0 11 = 768
    ∧ plain.dead 7 = false ∧ plain.field 0 0 11 = 1024 ∧ (plain.team 0).status = .resident
    ∧ pausedLab.repairing = true ∧ pausedLab.quiet = true ∧ pausedLab.held = [] ∧ pausedLab.upsets = [] ∧ clear pausedLab (emptyCaches pausedLab) = true ∧ 0 < pausedLab.field 0 0 11 := by decide +kernel
theorem witness_RepairRefused : deadLab.repairing = false ∧ (0x10007 : Dword).getLsbD 16 = true ∧ deadLab.dead (bitsOf (0x10007 : Dword) 0 10) = true
    ∧ (grantLab 768).repairing = false ∧ (grantLab 768).field 0 0 11 - 1 < 768 := by decide +kernel

/-! Scheduling: queue 3 holds a record at 0x30000; the image pool lies at 16 MiB. -/

def cpLab (r : TaskRec) : State := (((queueLab 1 |>.setBit (qcfg 3) 24).writeMem 0x30000 r.toBytes).setField 0x3000 12 40 0x1000).setField 0x3008 12 40 0x1000
def takes (r : TaskRec) (p : Launch → Bool) (code : Option Nat) : Bool :=
  let s := cpLab r
  s.nextQueue 0 == some 3 && match s.qTake 3 with
    | .error _ => false
    | .ok (bs, _, s1) =>
      let s2 := { s1 with lastServed := SMap.set zeroNat s1.lastServed 0 4 }
      match s2.checkRec (s2.qCtx 3) (some 3) { TaskRec.ofBytes bs with origin := 3 } with
      | .error e => code == some e.1 && clear s e.2
      | .ok x => code == none && p x.1 && clear s x.2
theorem witness_TasksScheduled_take : takes taskRec (fun _ => true) none = true ∧ takes { taskRec with launch := 0 } (fun _ => true) (some 3) = true
    ∧ takes { taskRec with entry := 0 } (fun l => !l.det) none = true := by decide +kernel
def run : LaunchRun := { id := 7, task := { taskRec with entry := 0 }, blk := Launch.ofBytes launchBytes, ctx := 0, queue := 3, next := 0, ended := 0 }
def localRec : LocalRec := { task := taskRec, ctx := 0, prio := 0, launch := Launch.ofBytes launchBytes }
def schedLab : State := { cpLab taskRec with launches := [run], deals := [{ rec_ := localRec, queue := 3 }] }
def startLab (core : Nat) : State := schedLab.modCore core fun c => { c with queue := [localRec] }
theorem witness_TasksScheduled : run.held = 0 ∧ run.next < run.blk.teams ∧ schedLab.placing run.ctx = true
    ∧ (schedLab.deals[0]?.bind fun x => schedLab.dealCore x) = some 0
    ∧ ((startLab 2).core 1).queue = [] ∧ (startLab 2).victim 1 = some 2 ∧ (startLab 2).stealFrom 1 2 = some 0 ∧ ((startLab 2).core 2).queue = [localRec]
    ∧ bestRecord ((startLab 0).admits 0) ((startLab 0).core 0).queue = some 0 ∧ (startLab 0).needsDomain localRec = false
    ∧ (match startTask (startLab 0) 0 localRec with
       | .ok (some s1) => clear (startLab 0) s1
       | _ => false) = true ∧ localRec.task.red = false := by decide +kernel
/-- The team's only weft has ended: alone, and as one of two teams of a launch. -/
def endedLab (ls : List LaunchRun) (id_ : Nat) : State :=
  { lab (fun w => { w with status := .ended }) fun t => { t with launchId := id_ } with launches := ls }
def twice : LaunchRun := { run with blk := { run.blk with gx := 2 } }
theorem witness_TasksScheduled_end : ((endedLab [] 0).withPartner 0).all (endedLab [] 0).teamDone = true ∧ (endedLab [] 0).launches = []
    ∧ isClear' (endedLab [] 0) (((removeTeam (endDomain (endedLab [] 0) 0) 0)).joinEnd 0 0 {}) = true ∧ ((endedLab [] 0).team 0).task.join = 0 ∧ ((endedLab [] 0).team 0).domain = 0
    ∧ ((endedLab [twice] 7).withPartner 0).all (endedLab [twice] 7).teamDone = true ∧ twice.ended + 1 < twice.blk.teams
    ∧ ((endedLab [twice] 7).team 0).launchId = twice.id := by decide +kernel
def joinLab (tail : Nat) : State := { queueLab tail with joins := [{ task := taskRec, queue := 3, ctx := 0, report := {} }] }
theorem witness_TasksScheduled_join : (joinLab 2).qUsable 3 0 = true ∧ (joinLab 2).qFull 3 = false
    ∧ isClear' (joinLab 2) (({ joinLab 2 with joins := [] } : State).qAppend 3 taskRec.toBytes) = true ∧ (joinLab 16).qFull 3 = true := by decide +kernel

/-! Saving and restoring. -/

def savingLab (kind : Nat) : State := lab id fun t => { t with status := .saving kind, size := 0, spt := [], image := 0x1000000 }
noncomputable def stoppableCopy : State := acceptedCopy.modTeam 0 fun t => { t with status := .saving 4 }
def restoreLab (m : Nat) : State :=
  ((cpLab taskRec).modTeam 0 fun t => { t with status := .queued, nwefts := 1, image := 0x1000000, member := m, partner := 1, task := taskRec }).modTeam 1
    fun t => { t with status := .queued, nwefts := 1, image := 0x1000000 }
theorem witness_TeamsSavedAndRestored : (plain.team 0).status = .resident ∧ (stoppableCopy.team 0).status = .saving 4
    ∧ ((stoppableCopy.core 0).copies.map fun y => (y.accepted, y.k)) = [(true, 0)]
    ∧ ((restoreLab 0).team 0).status = .queued ∧ (restoreLab 0).placing 0 = true ∧ (restoreLab 0).eligible 3 8 = true ∧ (restoreLab 0).canAdmit 8 1 false = true
    ∧ ((restoreLab 0).imageMap 0).stop ≤ (restoreLab 0).cap ∧ ((restoreLab 1).otherCluster 3 8 1 false).isSome = true
    ∧ ((restoreLab 1).team 1).status = .queued ∧ clear (restoreLab 0) (restoreTeam (restoreLab 0) 0 8) = true
    ∧ clear (restoreLab 1) (restoreTeam (restoreTeam (restoreLab 1) 0 8) 1 (((restoreLab 1).otherCluster 3 8 1 false).getD 0)) = true := by decide +kernel
/-- Pieces that exist are written, with nothing under way and no copy held. -/
theorem writes_quiet (ps : List Piece8) : ∀ (s : State), s.still = true → s.coh.dir = [] → (∀ x ∈ ps, s.exists x.1 x.2.length = true) →
    ∃ u, writePieces s ps = .ok u ∧ u.mgmt = s.mgmt ∧ u.coh.blocked = s.coh.blocked := by
  induction ps with
  | nil => exact fun s _ _ _ => ⟨s, rfl, rfl, rfl⟩
  | cons x ps ih =>
    intro s hst hd he
    obtain ⟨a1, a2, a3, a4, -⟩ := homeWrite_quiet x.1 x.2 hst hd
    have hc : ∀ a n, (s.homeWrite x.1 x.2).exists a n = s.exists a n := fun a n => by
      unfold State.exists State.cap State.field State.reg; rw [a4]
    obtain ⟨u, e, h1, h2⟩ := ih _ a1 a2 fun y hy => (hc _ _).trans (he y (List.mem_cons_of_mem _ hy))
    exact ⟨u, by rw [writePieces, if_pos (he x List.mem_cons_self), e], h1.trans a4, h2.trans a3⟩
theorem leBytes_length (n v : Nat) : (leBytes n v).length = n := by
  induction n generalizing v with
  | zero => rfl
  | succ n ih => exact congrArg (· + 1) (ih _)
theorem freeBytes_length (k n : Nat) : (freeBytes k n).length = n := by simp [freeBytes]
/-- The state of a team whose engines and slots have been taken; its pieces lie below CAP. -/
def takenLab : State := takeSlots (takeEngines (savingLab 4) 0) 0
theorem takenLab_quiet : takenLab.still = true ∧ takenLab.coh.dir = [] ∧ takenLab.coh.blocked = false ∧ takenLab.viral = (savingLab 4).viral := by
  decide +kernel
theorem takenLab_pieces : ∀ x ∈ teamPieces takenLab 0 (4 != 4) (4 == 2) (takenLab.team 0).parkedWeft, takenLab.exists x.1 x.2.length = true := by
  simp only [teamPieces, slotPieces, List.forall_mem_append, List.forall_mem_cons, List.forall_mem_map, leBytes_length, freeBytes_length]
  decide +kernel
theorem witness_TeamsSavedAndRestored_save : ((savingLab 4).team 0).status = .saving 4 ∧ ((savingLab 4).team 0).release.isNone = true
    ∧ (savingLab 4).enginesDone 0 = true ∧ ((savingLab 4).weftsOf 0).all (fun k => ((savingLab 4).weft k).saveable) = true := by decide +kernel
theorem foldl_keeps {α β : Type} (g : State → β) (f : State → α → State) (h : ∀ s x, g (f s x) = g s) (xs : List α) : ∀ s, g (xs.foldl f s) = g s := by
  induction xs with
  | nil => exact fun s => rfl
  | cons x xs ih => exact fun s => (ih (f s x)).trans (h s x)
theorem leaveCore_keeps {β : Type} (g : State → β) (hs : ∀ s c n y, g (s.setSlot c n y) = g s) (hw : ∀ s k, g (s.modWeft k Weft.saved) = g s)
    (ht : ∀ s t f, g (s.modTeam t f) = g s) (hn : ∀ (s : State) n, g { s with freeTick := n } = g s) (s : State) (t : Nat) : g (leaveCore s t 4) = g s := by
  unfold leaveCore
  rw [if_pos rfl, ht, foldl_keeps g _ hw, hn]
  exact foldl_keeps g _ (fun _ _ => foldl_keeps g _ (fun _ _ => (hs _ _ _ _).trans (hs _ _ _ _)) _ _) _ _
theorem witness_TeamsSavedAndRestored_saves : ∃ s1, saveTeam (savingLab 4) 0 4 = .ok s1 ∧ (savingLab 4).clear s1 := by
  obtain ⟨h1, h2, h3, hv⟩ := takenLab_quiet
  obtain ⟨u, e, m, b⟩ := writes_quiet _ takenLab h1 h2 takenLab_pieces
  have hm : saveMatrices (savingLab 4) 0 = .ok (savingLab 4) := by
    have hc : ((savingLab 4).team 0).coreList = [0] := by decide +kernel
    have ho : ((savingLab 4).core 0).owner ≠ some 0 := by decide +kernel
    unfold saveMatrices
    rw [hc, List.foldl_cons, List.foldl_nil]
    dsimp only
    rw [if_neg ho]
  have hi : writeImage (savingLab 4) 0 4 = .ok u := e
  refine ⟨leaveCore u 0 4, ?_, ?_, ?_⟩
  · unfold saveTeam; rw [hm]; dsimp only; rw [hi]; rfl
  · exact (leaveCore_keeps State.viral (fun _ _ _ _ => rfl) (fun _ _ => rfl) (fun _ _ _ => rfl) (fun _ _ => rfl) u 0).trans
      ((congrArg (fun m => (SMap.get regReset m 0xA008).getLsbD 0) m).trans hv)
  · exact (leaveCore_keeps (fun s => s.coh.blocked) (fun _ _ _ _ => rfl) (fun _ _ => rfl) (fun _ _ _ => rfl) (fun _ _ => rfl) u 0).trans (b.trans h3)

/-! Redundant pairs: team 0 leads, team 1 follows on another cluster, with one closed segment each. -/

def segA : ClosedSeg := { start := 0, stop := 5, kind := 0 }
def pairWeft (x : ClosedSeg) (w : Weft) : Weft :=
  { w with status := .live, seg := { w.seg with closed := [x] }, flow := { w.flow with ic := 5 }, hist := { w.hist with on := true } }
def pairLab (b : ClosedSeg) : State :=
  ((lab (pairWeft segA) fun t => { t with member := 1, partner := 1 }).modTeam 1 fun t =>
    { t with status := .resident, member := 2, partner := 0, nwefts := 1, core := 8 }).modWeft 16 (pairWeft b)
theorem witness_PairsAndWatchdogs : (pairLab segA).member 0 ≠ 0 ∧ (pairLab segA).pairOf 0 = (0, 16) ∧ ((pairLab segA).teamOfWeft 16).status = .resident
    ∧ ((pairLab segA).teamOfWeft 0).status = .resident ∧ ((pairLab segA).weft 0).seg.closed = [segA] ∧ ((pairLab segA).weft 16).seg.closed = [segA]
    ∧ (let b : ClosedSeg := { segA with stop := 6 }
       segA.shape ≠ b.shape ∧ (pairLab b).noWay 0 0 = none ∧ (pairLab b).noWay 16 0 = none ∧ ((pairLab b).weft 0).flow.ic = 5 ∧ ((pairLab b).weft 16).flow.ic = 5) := by
  decide +kernel
def rebuilding : State := State.reset.modCluster 5 fun c => { c with rebuilding := true }
theorem witness_PairsAndWatchdogs_clusters : (plain.cluster 5).rebuilding = false ∧ (rebuilding.cluster 5).rebuilding = true ∧ rebuilding.viral = false
    ∧ rebuilding.clusterTeams 5 = [] ∧ (lab fun w => { w with sched := { w.sched with inActive := true } }).readyWeft 0 = true
    ∧ plain.cmdpFailed = [] ∧ ({ plain with cmdpFailed := [3] } : State).viral = false
    ∧ (plain.setField 0xA000 24 8 1).field 0xA000 24 8 ≠ 0 ∧ ((plain.setField 0xA000 24 8 1).weft 0).status = .live
    ∧ ((plain.setField 0xA000 24 8 1).teamOfWeft 0).status = .resident := by decide +kernel

/-! The host. The fault queue of context 0 lies at 0x4000 and has 16 places. -/

def faultLab (tail : Nat) (r : Report) : State :=
  { (((mapped (lab id)).writeDword 0x10008 0x4000).writeMem 0x8000 (leBytes 4 4 ++ leBytes 4 0 ++ leBytes 4 tail)) with reports := [r] }
def entryWritten (s : State) (off : Nat) (v : Nat) : Bool := match s.reports[0]? with
  | some r => match s.fqHeader r.ctx with
    | some (fq, n, head, tail, _, s1) => fqFull n head tail == decide (off = 12) && clear s s1 && if off = 12 then (match s1.ctxWrite r.ctx (fq + 12) (leBytes 4 v) with
            | some s2 => clear s s2
            | none => false)
        else match s1.ctxWrite r.ctx (fq + 64 + BitVec.ofNat 64 (128 * (tail % 2 ^ n))) r.toBytes with
          | some s2 => match s2.ctxWrite r.ctx (fq + 8) (leBytes 4 v) with
            | some s3 => clear s s3
            | none => false
          | none => false
    | none => false
  | none => false
theorem witness_FaultQueueRuns : (({ lab id with reports := [{}] } : State).fqHeader 0).isNone = true ∧ ({} : Report).polled = true ∧ ({} : Report).parked = false
    ∧ entryWritten (faultLab 2 {}) 8 3 = true ∧ entryWritten (faultLab 16 {}) 12 1 = true := by decide +kernel
def parkedLab (kind : Nat) (no : Bool) : State := lab id fun t => { t with status := .parked kind, image := 0x1000000, noWayBack := no }
theorem witness_FaultQueueRuns_commands : plain.parkedAt (bitsOf (0x1000000 : Dword) 12 40 * 4096) = none
    ∧ (parkedLab 0 true).parkedAt (bitsOf (0x1000000 : Dword) 12 40 * 4096) = some 0 ∧ (parkedLab 0 false).withPartner 0 = [0]
    ∧ ((parkedLab 0 true).team 0).noWayBack = true ∧ ((parkedLab 0 false).team 0).noWayBack = false ∧ ((parkedLab 0 false).team 0).status.isParked = true
    ∧ plain.stoppable 0 = true ∧ (plain.team 0).ctx = bitsOf (0 : Dword) 0 12 ∧ ((parkedLab 2 false).team 0).status = .parked 2 := by decide +kernel
theorem witness_ConfigurationWrites : State.reset.anyTask = false ∧ plain.anyTask = true ∧ (State.reset.teams = []) ∧ (plain.teams.any fun x => x.2.status != .absent) = true
    ∧ (queueLab 2).qEn 3 = true ∧ (1 : Dword).getLsbD 0 = true ∧ plain.qEn 3 = false ∧ (queueLab 2).qFull 3 = false
    ∧ isClear' (queueLab 2) (({ queueLab 2 with held := [.post 3 0] } : State).qAppend 3 (leBytes 64 0)) = true ∧ (queueLab 16).qFull 3 = true
    ∧ (queueLab 2).held = [] ∧ (queueLab 2).repairing = false ∧ (queueLab 16).coh.blocked = false ∧ (queueLab 16).coh.ors = [] := by decide +kernel

/-! Port 0 owns the window. -/

def ownerLab : State := (lab id).setField msem 0 2 1
theorem witness_ManagementCommands : (plain.reg portstat).getLsbD 0 = true ∧ plain.field msem 0 2 = 0 ∧ (ownerLab.reg portstat).getLsbD 0 = true
    ∧ ownerLab.field msem 0 2 = 1 ∧ (ownerLab.reg portstat).getLsbD 1 = true ∧ bitsOf (0x5A3C : Dword) 0 16 = 0x5A3C ∧ (ownerLab.reg attctl).getLsbD 1 = false
    ∧ ((ownerLab.setBit attctl 1).reg attctl).getLsbD 1 = true ∧ ownerLab.stoppedAt (ownerLab.field 0xB048 12 40 * 4096) = none
    ∧ ownerLab.coh.blocked = false ∧ ownerLab.coh.actor = none ∧ ownerLab.coh.ors = [] ∧ clear ownerLab (readImage ownerLab 0x100000).2 = true
    ∧ ((List.range 16).all fun l => !plain.linkUp l) = true ∧ linkLab.linkUp 3 = true ∧ plain.viral = false := by decide +kernel
def debugLab : State := ((parkedLab 2 false).setField msem 0 2 1).setField 0xB048 12 40 0x1000 |>.modWeft 0 fun w => { w with flow := { w.flow with ic := 5 }, hist := { w.hist with on := true } }
theorem witness_ManagementCommands_walk : debugLab.stoppedAt (debugLab.field 0xB048 12 40 * 4096) = some 0 ∧ debugLab.field 0xB050 0 4 < (debugLab.team 0).nwefts
    ∧ (debugLab.weft 0).status = .live ∧ (debugLab.weft 0).flow.ic = 5 ∧ (debugLab.walkFloor 0).toNat ≤ 3
    ∧ clear debugLab (debugReverse 3 debugLab) = true := by decide +kernel
def bootedLab : State := (lab id).setField bootstat 0 2 1
theorem witness_ManagementCommands_aperture : bootedLab.powered = true ∧ bootedLab.field bootstat 0 2 = 1 ∧ bootedLab.viral = false ∧ bootedLab.held = []
    ∧ (bootedLab.setBit mrepair 18).repairing = true ∧ bootedLab.repairing = false ∧ min 8 (bootedLab.cap - (bootedLab.field 0xB018 0 20 * 2 ^ 32 + 8)) = 8
    ∧ clear bootedLab (({ bootedLab with held := [.read 8 8] } : State).hostRead 8 8).2 = true
    ∧ clear bootedLab (({ bootedLab with held := [.write 8 8 0] } : State).hostWrite 8 (leBytes 8 0)) = true
    ∧ bootedLab.cap ≤ (bootedLab.setField 0xB018 0 20 0xFFFFF).field 0xB018 0 20 * 2 ^ 32
    ∧ ((plain.setReg (msixControl 0) 1).reg (msixControl 0)).getLsbD 0 = true ∧ ((plain.setReg (msixControl 0) 1).reg (msixControl 0)).getLsbD 1 = false := by decide +kernel

/-! Words and steps -/

/-- The placed word stands where the next step fetches: under a prefix, too; and an event stands on the agenda. -/
def maySet (s : State) (a : Word) : Bool :=
  s.agenda == [.issue 0] && (s.weft 0).flow.entry == .body && (s.codeWord 0 (s.weft 0).flow.pc).toOption == some a && s.codeCached 0 (s.weft 0).flow.pc && !isHeader a
    && decide ((s.weft 0).clausePlace (s.weft 0).flow.pc < 63)
def prefixed : State := State.reset.withFetchWord 64 (0x02010286 * 2 ^ 32 + 0xFC800000)
theorem witness_StepsRunDecodedWords : maySet (State.reset.withFetchWord 32 0x02010286) 0x02010286 = true ∧ isPrefix 0x02010286 = false
    ∧ maySet prefixed 0xFC800000 = true ∧ isPrefix 0xFC800000 = true ∧ (prefixed.codeWord 0 8).toOption = some 0x02010286 ∧ prefixed.codeCached 0 8 = true
    ∧ isHeader 0x02010286 = false ∧ (prefixed.weft 0).clausePlace 8 < 63
    ∧ (decodeBase (some (Prefix.ofWord 0xFC800000)) 0x02010286).isOk = true := by decide +kernel
theorem witness_StepsRunDecodedWords_event : Instr.isEvent .moduleReset = true := rfl
theorem witness_MemoryStaysCanonical : Memory.wf State.reset.mem = true ∧ (match step State.reset with
      | .next _ => true
      | _ => false) = true := by decide +kernel
theorem witness_EncodingsDecode : ∀ i ∈ [Instr.add none false 4 5 6, .add (some (Prefix.ofWord 0xFC800000)) true 4 5 6, .ld none 4 true 4 2 7],
    i.layout.isSome = true ∧ i.wf = true := by decide
theorem witness_WordsHaveOneMeaning : (decodeBase none 0x02010286).isOk = true ∧ (decodeBase none 0xF1A08000).isOk = true := by decide +kernel
theorem test_table_word : decodeTableWord 32 0x02010286 = some (.add none false 4 5 6) := by decide +kernel
/-- 11_integer_lane R263: MOVI with the constant 7, by a step. -/
theorem test_step_movi : (match step (State.reset.withFetchWord 32 0x24080007) with
      | .next t => (lanes t 4, (t.weft 0).flow.pc)
      | _ => ([], 0)) = (List.replicate 16 7, 8) := by decide +kernel

end Sys2Proof.Tests
end

/-!
# Memory stays canonical

What O2 needs: for each function of the model that hands on a state, one lemma that its states are canonical (`State.Canon`) when the state
before it is, named after the function with `_canon` (`_stops` where only its stops could carry a state). The lemmas follow the model from the
updates of the tables to the bodies of instructions, the events, `exec` and the step. The predicates `Yields`, `Stops`, `EffCanon`,
`BodyCanon` and `NextCanon` say it of results, of bodies and of outcomes.

Where a proof begins with `∃ f, State.hostXlate = f ∧ …`, it replaces a function by a variable of which only its lemma is known. Lean would
otherwise compute that function while it compares the branches of the `match` on its result.
-/

namespace Sys2Proof.Machine

/-! ## Results that hand on states -/

theorem ite_canon {c : Prop} [Decidable c] {a b : State} (ha : a.Canon) (hb : b.Canon) : (if c then a else b).Canon := by
  split
  · exact ha
  · exact hb

theorem snd_canon {α : Type} {p : α × State} {a : α} {t : State} (h : p.2.Canon) (hp : p = (a, t)) : t.Canon := by subst hp; exact h

/-- A result whose error meets one predicate and whose value meets another. -/
def Ends {ε α : Type} (E : ε → Prop) (P : α → Prop) : Except ε α → Prop
  | .error e => E e
  | .ok a => P a

section
variable {ε α : Type} {E : ε → Prop} {P : α → Prop} {r : Except ε α}

theorem Ends.ok {a : α} (h : Ends E P r) (hr : r = .ok a) : P a := by subst hr; exact h

theorem Ends.error {e : ε} (h : Ends E P r) (hr : r = .error e) : E e := by subst hr; exact h

theorem Ends.ite {c : Prop} [Decidable c] {x y : Except ε α} (hx : Ends E P x) (hy : Ends E P y) : Ends E P (if c then x else y) := by
  split
  · exact hx
  · exact hy

theorem Ends.map {β : Type} {Q : β → Prop} {f : α → β} (h : Ends E P r) (hf : ∀ a, P a → Q (f a)) : Ends E Q (r.map f) := by
  cases r with
  | error e => exact h
  | ok a => exact hf a h

end

/-- The states that a stop carries are canonical. -/
def Stop.Canon : Stop → Prop
  | .hold s _ => s.Canon
  | .whole s => s.Canon
  | _ => True

/-- What a result yields meets the predicate; its errors carry no state. -/
abbrev Yields {ε α : Type} (P : α → Prop) : Except ε α → Prop := Ends (fun _ => True) P

/-- The states of a result that may stop are canonical, where the predicate says so of what it yields. -/
abbrev Stops {α : Type} (P : α → Prop) : Except Stop α → Prop := Ends Stop.Canon P

/-- What an instruction's body leaves is canonical. -/
abbrev EffCanon : Except Stop Eff → Prop := Stops fun e => e.s.Canon

theorem eff_canon {t recs divs fin noUndo noFlagsRec merge} (h : State.Canon t) :
    EffCanon (.ok { s := t, recs := recs, divs := divs, fin := fin, noUndo := noUndo, noFlagsRec := noFlagsRec, merge := merge }) := h

/-- A body keeps memory canonical. -/
def BodyCanon (body : Ctx → State → Except Stop Eff) : Prop := ∀ c s, s.Canon → EffCanon (body c s)

/-- The next state of an outcome, if it has one, is canonical. -/
def NextCanon : Host.Outcome State Fault Refusal → Prop
  | .next t => t.Canon
  | _ => True

theorem next_canon {t : State} (h : t.Canon) : NextCanon (.next t) := h

theorem NextCanon.ite {c : Prop} [Decidable c] {x y : Host.Outcome State Fault Refusal} (hx : NextCanon x) (hy : NextCanon y) :
    NextCanon (if c then x else y) := by
  split
  · exact hx
  · exact hy

theorem trap_stops {α : Type} {P : α → Prop} {c : Cause} {addr : Dword} {lane : Nat} : Stops P (trap (α := α) c addr lane) := trivial

theorem xlateStop_stops {α : Type} {P : α → Prop} {f : XFault × Nat × Dword} : Stops P (xlateStop (α := α) f) := by
  unfold xlateStop
  split <;> trivial

section
variable {s : State}

/-! ## Updates of the tables -/

theorem setWeft_canon {k w} (h : s.Canon) : (s.setWeft k w).Canon := h
theorem setTeam_canon {t x} (h : s.Canon) : (s.setTeam t x).Canon := h
theorem modWeft_canon {k f} (h : s.Canon) : (s.modWeft k f).Canon := h
theorem modTeam_canon {t f} (h : s.Canon) : (s.modTeam t f).Canon := h
theorem modCluster_canon {c f} (h : s.Canon) : (s.modCluster c f).Canon := h
theorem modCore_canon {c f} (h : s.Canon) : (s.modCore c f).Canon := h
theorem setBit_canon {off i} (h : s.Canon) : (s.setBit off i).Canon := h
theorem setField_canon {off lo n v} (h : s.Canon) : (s.setField off lo n v).Canon := h
theorem setFrame_canon {core i f} (h : s.Canon) : (s.setFrame core i f).Canon := h
theorem noteFree_canon {core} (h : s.Canon) : (s.noteFree core).Canon := h

/-! ## Parks and traps -/

theorem parkTeam_canon {t kind r} (h : s.Canon) : (parkTeam s t kind r).Canon := by
  simp only [parkTeam]
  split
  · exact ite_canon h h
  · exact h

theorem fqpark_canon {k cause2} (h : s.Canon) : (fqpark s k cause2).Canon := parkTeam_canon h

theorem parkCause_canon {k c addr lane} (h : s.Canon) : (parkCause s k c addr lane).Canon := parkTeam_canon h

theorem takeTrap_canon {k c tpc tic addr lane resume entry} (h : s.Canon) : (takeTrap s k c tpc tic addr lane resume entry).Canon :=
  ite_canon (fqpark_canon h) (ite_canon h (fqpark_canon h))

theorem takeLaneTrap_canon {k resume entry} (h : s.Canon) : (takeLaneTrap s k resume entry).Canon := by
  simp only [takeLaneTrap]
  split
  · exact takeTrap_canon h
  · exact h

theorem takeImprecise_canon {k x resume entry} (h : s.Canon) : (takeImprecise s k x resume entry).Canon := takeTrap_canon h

/-! ## Issue -/

theorem retire_canon {c old} {e : Eff} (h : e.s.Canon) : (retire c old e).Canon := ite_canon (takeLaneTrap_canon h) h

theorem boundary_canon {k kind contrib} (h : s.Canon) : ∀ st ∈ s.boundary k kind contrib, st.Canon := by
  intro st hst
  simp only [State.boundary] at hst
  split at hst
  · cases hst
  · split at hst
    · cases hst; trivial
    · cases hst; exact h

theorem finishStop_canon {c} {st : Stop} (h : s.Canon) (hst : st.Canon) : NextCanon (finishStop c s st) := by
  cases st with
  | trap cs addr lane => exact takeTrap_canon h
  | park cs addr lane => exact parkCause_canon h
  | lanes => exact takeLaneTrap_canon h
  | stay => exact h
  | give => exact h
  | reserve core t Ps => exact h
  | hold s' hk => exact hst
  | whole s' => exact hst
  | fault f => trivial

theorem retireEmpty_canon {c w} (h : s.Canon) : (retireEmpty c w s).Canon := by
  refine retire_canon ?_
  dsimp only
  split <;> exact h

section
variable {body : Ctx → State → Except Stop Eff} (hb : BodyCanon body)
include hb

theorem runBody_canon {c w} (h : s.Canon) : Stops State.Canon (runBody c body w s) := by
  simp only [runBody]
  split
  · next st hst =>
    split at hst
    · exact boundary_canon h st hst
    · cases hst
  · have hc := hb (if c.i.outOfBounds w then c.bounded w else c) _
      (ite_canon (c := c.i.outOfBounds w = true) (a := s.setWeft c.k (regbound w c.active)) h h)
    generalize (if c.i.outOfBounds w then c.bounded w else c) = c' at hc
    split
    · next hr => exact hc.error hr
    · next hr =>
      have he := hc.ok hr
      refine retire_canon ?_
      split <;> exact he

theorem tryIssue_canon {c w} (h : s.Canon) : Stops State.Canon (tryIssue c body w s) := by
  unfold tryIssue
  refine .ite trivial ?_
  split
  · exact trap_stops
  · exact .ite trivial (.ite trivial (.ite trap_stops (.ite trap_stops (.ite (retireEmpty_canon h) (runBody_canon hb h)))))

theorem issue_canon {i} (h : s.Canon) : NextCanon (issue i body s) := by
  have hr := tryIssue_canon hb (c := i.at s.cur (s.weft s.cur)) (w := s.weft s.cur) h
  unfold issue
  refine .ite h ?_
  dsimp only
  split
  · split
    · exact finishStop_canon h trivial
    · exact takeImprecise_canon h
  · split
    · next hst => exact finishStop_canon h (hr.error hst)
    · next ht => exact hr.ok ht

omit hb in
theorem taken_canon {o : Host.Outcome State Fault Refusal} (h : s.Canon) (ho : NextCanon o) : NextCanon (taken s o) := by
  cases o with
  | next t => exact after_canon h ho
  | fault f => trivial
  | refused r => trivial

theorem issueMem_canon {i} (h : s.Canon) : NextCanon (issueMem i body s) := taken_canon h (issue_canon hb h)

end

/-! ## Messages of coherence as steps -/

theorem delivered_canon {m} (h : s.Canon) : (applyOrs (deliver s m)).Canon := applyOrs_canon (deliver_canon m h)

theorem messageFrom_canon {kind agent u} (h : s.Canon) : NextCanon (messageFrom kind agent u s) := by
  unfold messageFrom
  split
  · exact delivered_canon h
  · exact h

theorem messageTo_canon {kind agent u} (h : s.Canon) : NextCanon (messageTo kind agent u s) := by
  unfold messageTo
  split
  · exact delivered_canon h
  · exact h

theorem request_canon {kind agent u} (h : s.Canon) : NextCanon (request kind agent u s) := by
  unfold request
  split
  · exact delivered_canon h
  · refine .ite h (.ite ?_ (applyOrs_canon (pumpAll_canon (arriveMsg_canon _ h))))
    split
    · exact h
    · dsimp only
      split
      · exact delivered_canon h
      · exact h

/-! ## Translation -/

theorem holdWalk_canon {cl e} (h : s.Canon) : (s.holdWalk cl e).Canon :=
  foldl_canon (fun _ _ h => ite_canon (walkLine_canon _ _ h) (walkLine_canon _ _ (walkLine_canon _ _ h))) _ h

theorem touch_canon {cl ctx acc va e} (h : s.Canon) : (s.touch cl ctx acc va e).Canon := by
  unfold State.touch
  extract_lets s1
  have h1 : s1.Canon := ite_canon h (orLeaf_canon _ _ (modCluster_canon (holdWalk_canon h)))
  exact ite_canon (modCluster_canon (orLeaf_canon _ _ h1)) h1

theorem through_canon {core ctx acc va e} (h : s.Canon) : (s.through core ctx acc va e).Canon := by
  cases e with
  | none => exact h
  | some e => exact touch_canon h

theorem xlate_canon {core ctx acc va} (h : s.Canon) : Yields (·.2.2.Canon) (s.xlate core ctx acc va) := by
  unfold State.xlate
  split
  · trivial
  · exact through_canon h

theorem engXlate_canon {core ctx acc va} (h : s.Canon) : Yields (·.2.2.Canon) (s.engXlate core ctx acc va) := by
  unfold State.engXlate
  split
  · trivial
  · exact touch_canon h

theorem xlateAll_canon {core ctx acc as} (h : s.Canon) : Yields (·.2.Canon) (s.xlateAll core ctx acc as) := by
  simp only [State.xlateAll]
  split
  · trivial
  · refine foldl_canon (fun s x h => ?_) _ h
    split
    · exact through_canon h
    · exact h

theorem fillCode_canon {core ctx va} (h : s.Canon) : Yields State.Canon (s.fillCode core ctx va) := by
  simp only [State.fillCode]
  split
  · trivial
  · next hx => exact modCluster_canon <| foldl_canon (fun _ _ h => fetchShared_canon _ _ _ _ _ h) _ ((xlate_canon h).ok hx)

theorem hostXlate_canon {ctx acc va} (h : s.Canon) : Yields (·.2.Canon) (s.hostXlate ctx acc va) := by
  obtain ⟨f, hf⟩ : ∃ f, walk s ctx va 3 = f := ⟨_, rfl⟩
  rw [State.hostXlate, hf]
  refine .ite trivial ?_
  split
  · trivial
  · split
    · trivial
    · next e _ =>
      have h1 := orLeaf_canon e.leaf 0x08 h
      exact .ite trivial (.ite trivial (ite_canon (orLeaf_canon _ _ h1) h1))

theorem hostRead_canon {pa n} (h : s.Canon) : (s.hostRead pa n).2.Canon := homeRead_canon _ _ h

theorem hostWrite_canon {pa bs} (h : s.Canon) : (s.hostWrite pa bs).Canon := homeWrite_canon _ _ h

/-! ## Scratchpad pages -/

theorem evict_canon {core i} (h : s.Canon) : Stops State.Canon (s.evict core i) := by
  unfold State.evict
  split
  · exact h
  · extract_lets back e x at_ inImage s1 s2 s3 s4
    have h1 : s1.Canon := ite_canon (homeWrite_canon _ _ h) h
    have h2 : s2.Canon := ite_canon (homeWrite_canon _ _ h1) h1
    refine .ite trivial (.ite trivial ?_)
    exact modTeam_canon (noteFree_canon (setFrame_canon (setTeam_canon h2)))

theorem clockVictim_canon {core} (h : s.Canon) : ∀ x ∈ s.clockVictim core, x.2.Canon := by
  intro x hx
  simp only [State.clockVictim] at hx
  split at hx
  · cases hx
  · cases hx
    refine foldl_canon (fun s i h => ?_) _ h
    split <;> exact h

theorem takeFrame_canon {core P} (h : s.Canon) : Stops (∀ x ∈ ·, x.2.Canon) (s.takeFrame core P) := by
  unfold State.takeFrame
  split
  · exact fun x hx => Option.mem_some.1 hx ▸ h
  · split
    · exact fun x hx => nomatch hx
    · next hv =>
      have hev := fun {c i} => evict_canon (core := c) (i := i) (clockVictim_canon h _ hv)
      split
      · next he => exact hev.error he
      · next hs =>
        intro x hx
        obtain ⟨i, -, rfl⟩ := Option.map_eq_some_iff.1 hx
        exact hev.ok hs

theorem teamFrame_canon {t P core} (h : s.Canon) : Stops (∀ x ∈ ·, x.2.2.Canon) (s.teamFrame t P core) := by
  have ht {c} := takeFrame_canon (core := c) (P := P) h
  unfold State.teamFrame
  dsimp only
  split
  · next he => exact ht.error he
  · next hr => exact fun x hx => Option.mem_some.1 hx ▸ ht.ok hr _ rfl
  · refine .ite ?_ fun x hx => nomatch hx
    split
    · next he => exact ht.error he
    · next hr =>
      intro x hx
      obtain ⟨y, hy, rfl⟩ := Option.map_eq_some_iff.1 hx
      exact ht.ok hr y hy

theorem fillPage_canon {t P core} (h : s.Canon) : Stops State.Canon (s.fillPage t P core) := by
  have ht := teamFrame_canon (t := t) (P := P) (core := core) h
  unfold State.fillPage
  extract_lets x e back
  refine .ite trivial ?_
  split
  · next he => exact ht.error he
  · trivial
  · next c i s1 hr =>
    have h1 : s1.Canon := ht.ok hr _ rfl
    have h2 : (if speZf e then ([], s1) else s1.homeRead back 2048).2.Canon := by
      split
      · exact h1
      · exact homeRead_canon _ _ h1
    generalize (if speZf e then ([], s1) else s1.homeRead back 2048) = r at h2 ⊢
    exact modCore_canon (setField_canon (noteFree_canon (setFrame_canon (setTeam_canon h2))))

theorem spadTlb_canon {core t P} (h : s.Canon) : (s.spadTlb core t P).Canon :=
  ite_canon h (modCore_canon (ite_canon (homeRead_canon _ _ h) h))

theorem bringPage_canon {t core P} (h : s.Canon) : Stops State.Canon (s.bringPage t core P) := by
  unfold State.bringPage
  extract_lets s1
  have h1 : s1.Canon := spadTlb_canon h
  split
  · refine .ite (ite_canon h1 h1) (.ite trivial ?_)
    split
    · next he => exact (evict_canon h1).error he
    · next hs => exact fillPage_canon ((evict_canon h1).ok hs)
  · exact fillPage_canon h1

theorem bringPages_canon {t core Ps} (h : s.Canon) : Stops State.Canon (s.bringPages t core Ps) := by
  unfold State.bringPages
  extract_lets Qs need waiting first r
  refine .ite trivial ?_
  have hr : Stops State.Canon r := by
    refine List.foldlRecOn Qs _ h fun r hr P _ => ?_
    cases r with
    | error e => exact hr
    | ok s => exact bringPage_canon hr
  clear_value r
  split
  · trivial
  · exact hr
  · exact ite_canon (modCore_canon hr) hr

theorem spadWrite_canon {t a bs} (h : s.Canon) : (s.spadWrite t a bs).Canon := by
  unfold State.spadWrite
  split <;> exact h

/-! ## Walks back and errors of a line -/

theorem walkBack_canon {k start note} (h : s.Canon) : (walkBack s k start note).Canon := ite_canon h h

theorem damage_canon {t kind off} (h : s.Canon) : (s.damage t kind off).Canon := by
  simp only [State.damage]
  repeat' split
  all_goals exact h

theorem softError_canon {t kind off k} (h : s.Canon) : (softError s t kind off k).Canon :=
  ite_canon h (ite_canon h (ite_canon (foldl_canon (fun _ _ h => walkBack_canon (walkBack_canon h)) _ h)
    (ite_canon (damage_canon h) (parkTeam_canon (damage_canon h)))))

/-! ## Holds and their release -/

theorem releaseHold_canon {k hd} (h : s.Canon) : (releaseHold s k hd).Canon := retire_canon h

theorem releaseWait_canon {k hd x} (h : s.Canon) : (releaseWait s k hd x).Canon := releaseHold_canon (ite_canon h h)

theorem wakeBarrier_canon {t a b} (h : s.Canon) : (wakeBarrier s t a b).Canon := by
  refine foldl_canon (fun s k h => ?_) _ h
  split
  · exact h
  · split
    · exact ite_canon h (ite_canon (releaseWait_canon h) (ite_canon h h))
    · exact h

theorem spadPut_canon {t a bs} (h : s.Canon) : (s.spadPut t a bs).Canon := by
  refine foldl_canon (fun s k h => ?_) _ (spadWrite_canon h)
  split
  · exact ite_canon (wakeBarrier_canon h) h
  · exact h

/-! ## Loads, stores and atomics at issue -/

theorem shedLines_canon {p} (h : s.Canon) : (s.shedLines p).Canon := canon_of_mem (shedLines_mem s p) h

theorem faultLanes_canon {c cs ls} (h : s.Canon) : (faultLanes c s cs ls).2.Canon := by
  unfold faultLanes
  split <;> exact h

theorem globalLanes_canon {c n off acc} (h : s.Canon) : Stops (·.2.2.Canon) (globalLanes c s n off acc) := by
  simp only [globalLanes]
  split
  · exact xlateStop_stops
  · next hx => exact faultLanes_canon ((xlateAll_canon h).ok hx)

theorem spadLanes_canon {c n off} (h : s.Canon) : Stops (·.2.2.Canon) (spadLanes c s n off) := by
  simp only [spadLanes]
  split
  · trivial
  · split
    · exact softError_canon h
    · exact faultLanes_canon (faultLanes_canon h)

theorem launch_canon {c op n words sx lanes} (h : s.Canon) : (launch c s op n words sx lanes).Canon := by
  have h1 : (if op.global then s.arrive (s.coreOf c.k) else (0, s)).2.Canon := by split <;> exact h
  exact setWeft_canon h1

theorem runBeats_canon {α β : Type} {t core : Nat} {f : Nat → Nat × α → State → β × State}
    (hf : ∀ L x s, s.Canon → (f L x s).2.Canon) :
    ∀ beats {s : State}, s.Canon → Stops (·.2.Canon) (runBeats t core f beats s)
  | [], _, h => h
  | beat :: rest, s, h => by
    unfold runBeats
    split
    · next he => exact (bringPages_canon h).error he
    · next s1 hs =>
      have hr {ys} := runBeats_canon (t := t) (core := core) hf rest
        (foldl_canon₂ (f := fun r x => (r.1 ++ [(f x.1 x.2 r.2).1], (f x.1 x.2 r.2).2)) (fun r x h => hf x.1 x.2 r.2 h) beat (r := (ys, s1))
          ((bringPages_canon h).ok hs))
      dsimp only
      split
      · next he => exact hr.error he
      · next hs =>
        have h1 := hr.ok hs
        exact h1

theorem spadRmw_canon {t n f} (L x) (s : State) (h : s.Canon) : (spadRmw t n f L x s).2.Canon := ite_canon (spadPut_canon h) h

theorem globalLoad_canon {op n sx off} : BodyCanon (globalLoad op n sx off) := fun _ _ h => by
  unfold globalLoad
  split
  · next he => exact (globalLanes_canon h).error he
  · next hs => exact launch_canon ((globalLanes_canon h).ok hs)

theorem spadLoad_canon {n sx off} : BodyCanon (spadLoad n sx off) := fun _ _ h => by
  unfold spadLoad
  refine .ite trivial ?_
  split
  · next he => exact (spadLanes_canon h).error he
  · next hs =>
    have hr := fun {t core n beats} => runBeats_canon (t := t) (core := core)
      (f := fun L x s => (({ lane := L, va := BitVec.ofNat 64 x.1, pa := x.1, val := some (valOf (s.spadRead t x.1 n)) } : LaneAcc), s))
      (fun (_ : Nat) (_ : Nat × Unit) _ h => h) beats ((spadLanes_canon h).ok hs)
    dsimp only
    split
    · next he => exact hr.error he
    · next hs => exact launch_canon (hr.ok hs)

theorem globalStore_canon {n off} : BodyCanon (globalStore n off) := fun c s h => by
  unfold globalStore
  extract_lets w all bad good member s1
  refine .ite trivial ?_
  have h1 : (faultLanes c s1 .align bad).2.Canon := faultLanes_canon (ite_canon h h)
  exact .ite (setWeft_canon h1) (.ite h1 (setWeft_canon h1))

theorem stlBody_canon {sc n off} : BodyCanon (stlBody sc n off) := fun c s h => by
  unfold stlBody
  refine .ite trivial ?_
  extract_lets s1 w member all bad good
  have h1 : s1.Canon := ite_canon h h
  refine .ite trivial ?_
  have h2 : (faultLanes c s1 .align bad).2.Canon := faultLanes_canon h1
  exact .ite (setWeft_canon h2) (.ite h2 (setWeft_canon h2))

theorem spadStore_canon {n off} : BodyCanon (spadStore n off) := fun c s h => by
  unfold spadStore
  refine .ite trivial ?_
  split
  · next he => exact (spadLanes_canon h).error he
  · next hs =>
    have h1 := (spadLanes_canon h).ok hs
    have hr := fun {t core n beats} => runBeats_canon (t := t) (core := core)
      (f := fun (_ : Nat) (x : Nat × Unit) s => (oldWords (fun a m => s.spadRead t a m) n x.1, s)) (fun _ _ _ h => h) beats h1
    dsimp only
    split
    · next he => exact hr.error he
    · next hs =>
      have hw := fun {t core beats} => runBeats_canon (t := t) (core := core)
        (f := fun _ (x : Nat × List Byte × List (Nat × Nat)) s => ((), s.spadPut t x.1 x.2.1)) (fun _ _ _ h => spadPut_canon h) beats (hr.ok hs)
      split
      · next he => exact hw.error he
      · next hs =>
        have h2 := hw.ok hs
        exact .ite h2 (setWeft_canon h2)

theorem globalXchg_canon {n off} : BodyCanon (globalXchg n off) := fun _ _ h => by
  unfold globalXchg
  split
  · next he => exact (globalLanes_canon h).error he
  · next hs => exact launch_canon ((globalLanes_canon h).ok hs)

theorem spadXchg_canon {n off} : BodyCanon (spadXchg n off) := fun _ _ h => by
  unfold spadXchg
  refine .ite trivial ?_
  split
  · next he => exact (spadLanes_canon h).error he
  · next hs =>
    have hr := fun {t core n f beats} => runBeats_canon (t := t) (core := core) (f := spadRmw t n f) spadRmw_canon beats ((spadLanes_canon h).ok hs)
    dsimp only
    split
    · next he => exact hr.error he
    · next hs => exact launch_canon (hr.ok hs)

theorem globalAtomic_canon {op n} : BodyCanon (globalAtomic op n) := fun _ _ h => by
  unfold globalAtomic
  split
  · next he => exact (globalLanes_canon h).error he
  · next hs =>
    have h1 := (globalLanes_canon h).ok hs
    exact .ite (launch_canon h1) (launch_canon h1)

theorem spadAtomic_canon {fn} : BodyCanon (spadAtomic fn) := fun _ _ h => by
  unfold spadAtomic
  refine .ite trivial ?_
  split
  · next he => exact (spadLanes_canon h).error he
  · next hs =>
    have hr := fun {t core n f beats} => runBeats_canon (t := t) (core := core) (f := spadRmw t n f) spadRmw_canon beats ((spadLanes_canon h).ok hs)
    dsimp only
    split
    · next he => exact hr.error he
    · next hs => exact launch_canon (hr.ok hs)

/-! ## Loads, stores and atomics at their completion -/

theorem homeRmw_canon {core ctx pa gr n f} (h : s.Canon) : (s.homeRmw core ctx pa gr n f).2.Canon := by
  unfold State.homeRmw
  extract_lets s1 s2 o bs
  have h1 : s1.Canon := ite_canon (gather_canon _ _ _ h) (ncFlush_canon _ _ _ _ (settled_canon _ _ (shedLines_canon h)))
  have h2 : s2.Canon := l2Read_canon _ _ h1
  exact ite_canon (frameTouch_canon _ _ (homeWrite_canon _ _ h2)) (homePut_canon _ _ h2)

theorem performLane_canon {k f own l} (h : s.Canon) : (performLane k f own l s).2.Canon := by
  unfold performLane
  extract_lets core ctx
  split
  · exact coreSwap_canon _ _ _ _ _ _ h
  · exact homeRmw_canon h
  · exact homeRmw_canon h
  · exact coreRead_canon _ _ _ _ _ _ h

theorem performAll_canon {k f own} : ∀ lanes {s : State}, s.Canon → (performAll k f own lanes s).2.Canon
  | [], _, h => h
  | _ :: rest, _, h => performAll_canon rest (performLane_canon h)

theorem performSpad_canon {k f} (h : s.Canon) : Stops (·.2.Canon) (performSpad k f s) := by
  unfold performSpad
  extract_lets held free t
  refine .ite trivial ?_
  have hr {beats} := runBeats_canon (t := t) (core := s.coreOf k) (f := fun _ (x : Nat × LaneAcc) s => heldLane t f x.2 s)
    (fun _ _ _ h => spadPut_canon h) beats h
  split
  · next he => exact hr.error he
  · next hs =>
    have h1 := hr.ok hs
    exact h1

theorem giveResult_canon {k ic vals bytes faults} (h : s.Canon) : (s.giveResult k ic vals bytes faults).Canon := ite_canon h h

theorem imprecise_canon {k x} (h : s.Canon) : (s.imprecise k x).Canon := ite_canon h h

theorem remoteFaults_canon {k f} (h : s.Canon) : (remoteFaults s k f).Canon := by
  simp only [remoteFaults]
  split
  · exact h
  · exact imprecise_canon h

theorem finishSpad_canon {k j f} (h : s.Canon) : Stops State.Canon (finishSpad k j f s) :=
  (performSpad_canon h).map fun _ h => ite_canon h h

theorem completeLocal_canon {k j f} (h : s.Canon) : Stops State.Canon (completeLocal s k j f) := by
  unfold completeLocal
  split
  · exact h
  · exact finishSpad_canon h
  · exact finishSpad_canon h
  · split
    · trivial
    · exact remoteFaults_canon h
  · exact .ite (giveResult_canon (performAll_canon _ (s := s.acting k f.seq) h)) trivial

theorem onStop_canon {st : Stop} (h : s.Canon) (hst : st.Canon) : NextCanon (onStop s st) := by
  cases st with
  | hold s' hk => exact h
  | whole s' => exact hst
  | fault f => trivial
  | _ => exact h

theorem event_canon {r : Except Stop State} (h : s.Canon) (hr : Stops State.Canon r) : NextCanon (event s r) := by
  cases r with
  | ok t => exact taken_canon (o := .next t) h hr
  | error st => exact taken_canon h (onStop_canon h hr)

theorem performPieces_canon {k e now read} {write : State → Piece → State} (hw : ∀ s p, s.Canon → (write s p).Canon) (h : s.Canon) :
    (performPieces s k e now read write).Canon :=
  foldl_canon hw _ h

theorem spadOrderPoint_canon {k e p0} (h : s.Canon) : Stops State.Canon (spadOrderPoint k e p0 s) := by
  unfold spadOrderPoint
  extract_lets t
  refine .ite trivial ?_
  split
  · next he => exact (bringPages_canon h).error he
  · next hs => exact performPieces_canon (fun _ _ h => spadPut_canon h) ((bringPages_canon h).ok hs)

theorem globalOrderPoint_canon {k e p0} (h : s.Canon) : Stops State.Canon (globalOrderPoint k e p0 s) :=
  .ite trivial (performPieces_canon (s := s.acting k e.seq) (fun _ _ h => coreWrite_canon _ _ _ _ _ _ h) h)

/-! ## Fences, cache maintenance and prefetches -/

theorem markReleased_canon {k fn scope} (h : s.Canon) : (markReleased s k fn scope).Canon := ite_canon h h

theorem releaseT_canon {k} (h : s.Canon) : (releaseT s k).Canon := markReleased_canon h

theorem fenceBody_canon {fn scope} : BodyCanon (fenceBody fn scope) := fun _ _ h => by
  unfold fenceBody
  split
  · next st hst =>
    split at hst
    · exact boundary_canon h st hst
    · cases hst
  · exact .ite (markReleased_canon h) h

theorem maintain_canon {fn core lo hi} (h : s.Canon) : (s.maintain fn core lo hi).Canon :=
  have h1 {p b b'} : (s.ncFlush core p b b').Canon := ncFlush_canon _ _ _ _ h
  ite_canon h1 (settled_canon _ _ (shedLines_canon h1))

theorem tryTo_canon {f : State → State} (h : s.Canon) (hf : (f s).Canon) : (tryTo s f).Canon := ite_canon h hf

theorem prefCode_canon {core ctx lo hi} (h : s.Canon) : (prefCode core ctx lo hi s).Canon := by
  refine foldl_canon (fun s i h => tryTo_canon h ?_) _ h
  split
  · next hs => exact (fillCode_canon h).ok hs
  · exact h

theorem prefSectors_canon {fn core ctx p} (h : s.Canon) : (prefSectors fn core ctx p s).Canon := by
  unfold prefSectors
  dsimp only
  split
  · exact h
  · next hx =>
    refine foldl_canon (fun s i h => tryTo_canon h ?_) _ ((xlate_canon h).ok hx)
    split
    · exact homeRead_canon _ _ h
    · exact coreRead_canon _ _ _ _ _ _ h

theorem evictPage_canon {t P} {r : Except Stop State} (hr : Stops State.Canon r) : Stops State.Canon (evictPage t r P) := by
  cases r with
  | error e => exact hr
  | ok s =>
    unfold evictPage
    dsimp only
    split
    · exact hr
    · exact .ite (setFrame_canon hr) (evict_canon hr)

theorem cmoBody_canon {fn} : BodyCanon (cmoBody fn) := fun _ _ h => by
  unfold cmoBody
  extract_lets w rs pages
  split
  · exact xlateStop_stops
  · next hx =>
    have h1 := (xlateAll_canon h).ok hx
    extract_lets runs segs
    split
    · next st hst =>
      split at hst
      · exact boundary_canon h1 st hst
      · cases hst
    · exact .ite trivial (foldl_canon (fun _ _ h => maintain_canon h) _ h1)

theorem prefBody_canon {fn} : BodyCanon (prefBody fn) := fun _ _ h =>
  foldl_canon (fun _ _ h => tryTo_canon h (by split; exacts [prefCode_canon h, prefSectors_canon h])) _ h

theorem spevictBody_canon : BodyCanon spevictBody := fun c s h => by
  unfold spevictBody
  extract_lets w t S pages
  have hr : Stops State.Canon (pages.foldl (evictPage t) (.ok s)) := List.foldlRecOn pages _ h fun _ hr _ _ => evictPage_canon hr
  exact hr.map fun _ h => h

/-! ## Records and barriers of the scratchpad -/

theorem spadAt_canon {c a n} (h : s.Canon) : Stops (·.2.Canon) (spadAt c s a n) := by
  unfold spadAt
  extract_lets t w
  refine .ite trivial (.ite trivial ?_)
  split
  · next he => exact (bringPages_canon h).error he
  · next hs => exact (bringPages_canon h).ok hs

theorem readRecord_canon {core ctx va pa gr} (h : s.Canon) : (s.readRecord core ctx va pa gr).2.Canon :=
  coreRead_canon _ _ _ _ _ _ (coreRead_canon _ _ _ _ _ _ h)

theorem recordAt_canon {c glob inGlobal r} (h : s.Canon) : Stops (·.2.Canon) (recordAt c s glob inGlobal r) := by
  unfold recordAt
  extract_lets w S judge va a
  have hj {bs s} (h : s.Canon) : Stops (·.2.Canon) (judge bs s) := by
    simp only [judge]
    split
    · exact .ite h trap_stops
    · exact trap_stops
  refine .ite (.ite trap_stops ?_) (.ite trap_stops ?_)
  · split
    · exact xlateStop_stops
    · next hx => exact .ite trivial (hj (readRecord_canon ((xlate_canon h).ok hx)))
  · split
    · next he => exact (spadAt_canon h).error he
    · next hs => exact hj ((spadAt_canon h).ok hs)

theorem barrierAt_canon {c} (h : s.Canon) : Stops (·.2.2.Canon) (barrierAt c s) := by
  unfold barrierAt
  extract_lets a
  refine .ite trap_stops ?_
  split
  · next he => exact (spadAt_canon h).error he
  · next hs =>
    have h1 := (spadAt_canon h).ok hs
    exact h1

theorem updateBarrier_canon {t a f} (h : s.Canon) : (updateBarrier s t a f).Canon :=
  wakeBarrier_canon (ite_canon (modTeam_canon (spadPut_canon h)) (spadPut_canon h))

theorem noteArrival_canon {k a phase} (h : s.Canon) : (noteArrival s k a phase).Canon := h

theorem wakeInvalOf_canon {t a k} (h : s.Canon) : (wakeInvalOf t a s k).Canon := by
  unfold wakeInvalOf
  split
  · exact ite_canon h (ite_canon (releaseHold_canon (spadPut_canon h)) (takeTrap_canon h))
  · exact h

theorem wakeInval_canon {t a} (h : s.Canon) : (wakeInval s t a).Canon := ite_canon h (foldl_canon (fun _ _ h => wakeInvalOf_canon h) _ h)

theorem bbBody_canon {fn} : BodyCanon (bbBody fn) := fun _ _ h => by
  unfold bbBody
  split
  · next he => exact (barrierAt_canon h).error he
  · next hs =>
    have h1 := (barrierAt_canon h).ok hs
    extract_lets t x
    split
    · exact .ite trap_stops (spadPut_canon (modTeam_canon h1))
    · refine .ite trap_stops ?_
      exact eff_canon <| updateBarrier_canon h1
    · refine .ite trap_stops (.ite trivial ?_)
      exact eff_canon <| updateBarrier_canon (noteArrival_canon (releaseT_canon h1))

theorem leaveWait_canon {k x} (h : s.Canon) : (s.leaveWait k x).Canon := ite_canon h h

theorem bbWaitBody_canon : BodyCanon bbWaitBody := fun _ _ h => by
  unfold bbWaitBody
  split
  · next he => exact (barrierAt_canon h).error he
  · next hs =>
    have h1 := (barrierAt_canon h).ok hs
    exact .ite trap_stops (.ite (leaveWait_canon h1) (.ite trivial (setWeft_canon h1)))

theorem bbTestBody_canon : BodyCanon bbTestBody := fun _ _ h => by
  unfold bbTestBody
  split
  · next he => exact (barrierAt_canon h).error he
  · next hs =>
    have h1 := (barrierAt_canon h).ok hs
    exact .ite trap_stops (setWeft_canon h1)

theorem bbInvalBody_canon : BodyCanon bbInvalBody := fun _ _ h => by
  unfold bbInvalBody
  split
  · next he => exact (barrierAt_canon h).error he
  · next hs =>
    have h1 := (barrierAt_canon h).ok hs
    exact .ite trap_stops (.ite h1 (spadPut_canon h1))

/-! ## Copies -/

theorem copyOperands_canon {fn c} (h : s.Canon) : Stops (·.2.2.2.Canon) (copyOperands fn c s) := by
  unfold copyOperands
  extract_lets ext w
  split
  · split
    · next he => exact (recordAt_canon h).error he
    · next hs =>
      have h1 := (recordAt_canon h).ok hs
      split
      · next he => exact (recordAt_canon h1).error he
      · next hs =>
        have h2 := (recordAt_canon h1).ok hs
        exact .ite trap_stops h2
  · split
    · next he => exact (recordAt_canon h).error he
    · next hs =>
      have h1 := (recordAt_canon h).ok hs
      split
      · exact h1
      · exact trap_stops
  · split
    · next he => exact (recordAt_canon h).error he
    · next hs =>
      have h1 := (recordAt_canon h).ok hs
      split
      · exact h1
      · exact trap_stops
  · exact trap_stops

theorem bcopyBody_canon {fn} : BodyCanon (bcopyBody fn) := fun _ _ h => by
  unfold bcopyBody
  extract_lets S bar
  split
  · next he => exact (copyOperands_canon h).error he
  · next hs =>
    have h1 := (copyOperands_canon h).ok hs
    refine .ite trap_stops ?_
    split
    · next he => exact (spadAt_canon h1).error he
    · next hs => exact .ite trap_stops (modCore_canon (setWeft_canon ((spadAt_canon h1).ok hs)))

theorem readElem_canon {core k seq r e} (h : s.Canon) : Yields (·.2.Canon) (readElem s core k seq r e) := by
  unfold readElem
  extract_lets a t
  refine .ite ?_ (.ite trivial (.ite trivial ?_))
  · split
    · trivial
    · trivial
    · next hx =>
      refine .ite trivial ?_
      split
      next hr => exact snd_canon (engRead_canon _ _ _ _ ((engXlate_canon h).ok hx)) hr
  · split
    · trivial
    · next hs => exact (bringPages_canon h).ok hs

theorem writeElem_canon {core k seq ic r e bs} (h : s.Canon) : Yields State.Canon (writeElem s core k seq ic r e bs) := by
  unfold writeElem
  extract_lets a t
  refine .ite ?_ (.ite trivial (.ite trivial ?_))
  · split
    · trivial
    · trivial
    · next hx =>
      have h1 := (engXlate_canon h).ok hx
      exact .ite trivial (.ite (modWeft_canon h1) (engWrite_canon _ _ _ _ h1))
  · split
    · trivial
    · next hs => exact spadPut_canon ((bringPages_canon h).ok hs)

theorem copyElem_canon {core y} (h : s.Canon) : Yields State.Canon (copyElem s core y) := by
  unfold copyElem
  extract_lets e w src
  have hsrc : Yields (·.2.Canon) src := .ite h (readElem_canon h)
  clear_value src
  split
  · trivial
  · exact .ite (modWeft_canon hsrc) (writeElem_canon hsrc)

theorem wakeFault_canon {k} (h : s.Canon) : ((wakeFault s k).getD s).Canon := by
  unfold wakeFault
  split
  · split
    · cases (s.weft k).nextImprecise fun x => x.gate.isNone with
      | none => exact h
      | some x => exact takeImprecise_canon h
    · exact h
  · exact h

theorem deliverCopyFault_canon {k x} (h : s.Canon) : (deliverCopyFault s k x).Canon := wakeFault_canon (imprecise_canon h)

theorem setCopy_canon {core j f} (h : s.Canon) : (setCopy s core j f).Canon := h

theorem copyFault_canon {core j y f} (h : s.Canon) : NextCanon (copyFault s core j y f) := by
  cases f with
  | wait => exact h
  | reserve c t Ps => exact h
  | stop f => trivial
  | page va => exact parkTeam_canon (setCopy_canon h)
  | spfault a => exact parkTeam_canon (setCopy_canon h)
  | prot va => exact wakeInval_canon (deliverCopyFault_canon (setCopy_canon h))

theorem copyBarrier_canon {core y} (h : s.Canon) : Yields State.Canon (copyBarrier s core y) := by
  unfold copyBarrier
  extract_lets t
  refine .ite trivial ?_
  split
  · trivial
  · next hs => exact (bringPages_canon h).ok hs

/-! ## Barriers of a team and the end of a weft -/

theorem releaseBar_canon {k key x} (h : s.Canon) : (releaseBar s k key x).Canon := by
  unfold releaseBar
  split
  · split
    · exact ite_canon h (ite_canon (releaseWait_canon h) h)
    · exact h
  · exact h

theorem completeBar_canon {t key} (h : s.Canon) : (completeBar s t key).Canon :=
  ite_canon h (foldl_canon (fun _ _ h => releaseBar_canon h) _ (modTeam_canon h))

theorem wakeBar_canon {k} (h : s.Canon) : (wakeBar s k).Canon := by
  unfold wakeBar
  split
  · split
    · exact ite_canon h (ite_canon (releaseWait_canon h) h)
    · exact h
  · exact h

theorem barBody_canon {fn} : BodyCanon (barBody fn) := fun c s h => by
  unfold barBody
  extract_lets w t v inst key b mine lc s1 s2 s3
  refine .ite trap_stops (.ite (.ite h trap_stops) (.ite trap_stops (.ite trivial ?_)))
  have h2 : s2.Canon := modTeam_canon (releaseT_canon h)
  have h3 : s3.Canon := completeBar_canon h2
  exact .ite (ite_canon h3 (leaveWait_canon h3)) (.ite h2 h2)

theorem settleEnd_canon {k} (h : s.Canon) : (settleEnd k s).Canon :=
  ite_canon h (foldl_canon (fun _ _ h => completeBar_canon h) _ (foldl_canon (fun _ _ h => imprecise_canon h) _ (setWeft_canon h)))


/-! ## Register instructions -/

theorem laneEffect_canon {push f} : BodyCanon (laneEffect push f) := fun _ _ h => eff_canon (setWeft_canon h)

theorem maskEffect_canon {f} : BodyCanon (maskEffect f) := fun _ _ h => eff_canon (setWeft_canon h)

/-! ## Control flow -/

theorem codeAt_stops {c va} : Stops (fun _ => True) (codeAt c s va) := by
  unfold codeAt
  split <;> trivial

theorem targetHeader_stops {c va} : Stops (fun _ => True) (targetHeader c s va) := by
  unfold targetHeader
  refine .ite trap_stops ?_
  split
  · next he => exact codeAt_stops.error he
  · exact .ite trivial trap_stops

theorem fallHeader_stops {c} : Stops (fun _ => True) (fallHeader c s) := by
  unfold fallHeader
  split
  · next he => exact codeAt_stops.error he
  · exact .ite trivial trap_stops

theorem fetchHeader_canon {k} (h : s.Canon) : Ends State.Canon (fun _ => True) (fetchHeader s k) := by
  have ht {cs addr} : (headerTrap s k cs addr).Canon := takeTrap_canon h
  unfold fetchHeader
  extract_lets w
  split
  · exact parkCause_canon h
  · exact ht
  · exact .ite ht (.ite trivial (.ite ht (.ite ht trivial)))

theorem startClause_canon {k} (h : s.Canon) : (startClause k s).Canon := by
  unfold startClause
  split
  · next he => exact (fetchHeader_canon h).error he
  · extract_lets w wait due
    refine ite_canon h ?_
    clear_value due
    cases due with
    | some x => exact takeImprecise_canon h
    | none => exact setWeft_canon h

theorem splitBody_canon {t target} : BodyCanon (splitBody t target) := fun _ _ h => by
  unfold splitBody
  extract_lets w
  split
  · next he => exact codeAt_stops.error he
  · refine .ite trap_stops ?_
    split
    · next he => exact targetHeader_stops.error he
    · refine .ite trap_stops ?_
      split
      · exact trap_stops
      · exact .ite trap_stops (eff_canon (setWeft_canon h))

theorem brBody_canon {b m off} : BodyCanon (brBody b m off) := fun _ _ h => by
  unfold brBody
  extract_lets w act t target
  refine .ite ?_ (.ite (splitBody_canon _ _ h) ?_)
  · split
    · next he => exact fallHeader_stops.error he
    · exact h
  · split
    · next he => exact targetHeader_stops.error he
    · exact h

theorem jumpTo_canon {target} : BodyCanon (jumpTo target) := fun _ _ h => by
  unfold jumpTo
  split
  · next he => exact targetHeader_stops.error he
  · exact h

theorem callBody_canon {off} : BodyCanon (callBody off) := fun _ _ h => by
  unfold callBody
  extract_lets w target
  split
  · next he => exact targetHeader_stops.error he
  · exact eff_canon (setWeft_canon h)

theorem joinBody_canon {off} : BodyCanon (joinBody off) := fun _ _ h => by
  unfold joinBody
  extract_lets w target
  split
  · next he => exact targetHeader_stops.error he
  · exact .ite trap_stops (.ite trap_stops (eff_canon (setWeft_canon h)))

theorem exitBody_canon {u} : BodyCanon (exitBody u) := fun _ _ h => by
  unfold exitBody
  refine .ite (.ite trivial (.ite trap_stops ?_)) (.ite (setWeft_canon h) ?_)
  · split
    · next hst => exact boundary_canon h _ hst
    · exact h
  · split
    · next he => exact fallHeader_stops.error he
    · exact setWeft_canon h

theorem waitfBody_canon : BodyCanon waitfBody := fun _ _ h => by
  unfold waitfBody
  extract_lets w v m
  refine .ite trap_stops (.ite (.ite trivial h) ?_)
  split
  · exact takeImprecise_canon h
  · exact h

theorem breakBody_canon {addr} : BodyCanon (breakBody addr) := fun _ s h => .ite h (takeTrap_canon (retire_canon (e := { s := s }) h))

theorem settled_next {k} {o : Host.Outcome State Fault Refusal} (ho : NextCanon o) : NextCanon (settled k o) := by
  cases o with
  | next s => exact settleEnd_canon ho
  | fault f => trivial
  | refused r => trivial

/-! ## Queues and join blocks -/

theorem qErr_canon {q} (h : s.Canon) : (s.qErr q).Canon := ite_canon (raise_canon _ (setBit_canon h)) h

theorem refuseRec_canon {queue ctx code record r} (h : s.Canon) : (s.refuseRec queue ctx code record r).Canon := by
  cases queue with
  | none => exact h
  | some q => exact qErr_canon h

theorem readLaunch_canon {ctx va} (h : s.Canon) : ∀ x ∈ s.readLaunch ctx va, x.2.Canon := by
  intro x hx
  unfold State.readLaunch at hx
  split at hx
  · cases hx
  · split at hx
    · cases hx
    · next ht =>
      cases hx
      exact hostRead_canon ((hostXlate_canon h).ok ht)

theorem checkRec_canon {ctx queue r} (h : s.Canon) : Ends (·.2.Canon) (·.2.Canon) (s.checkRec ctx queue r) := by
  unfold State.checkRec
  extract_lets own
  split
  · exact h
  · next hl =>
    have h1 := readLaunch_canon h _ hl
    extract_lets tq
    split
    · exact h1
    · exact h1

theorem qAppend_canon {q bs} (h : s.Canon) : Yields State.Canon (s.qAppend q bs) := .ite trivial (setField_canon (hostWrite_canon h))

theorem qTake_canon {q} (h : s.Canon) : Yields (·.2.2.Canon) (s.qTake q) := by
  unfold State.qTake
  refine .ite trivial ?_
  split
  next hr => exact setField_canon (snd_canon (hostRead_canon h) hr)

theorem joinPost_canon {ctx tq record r} (h : s.Canon) : Yields State.Canon (s.joinPost ctx tq record r) := by
  unfold State.joinPost
  refine .ite (refuseRec_canon h) ?_
  split
  · exact refuseRec_canon h
  · exact .ite h (qAppend_canon h)

theorem joinDecrement_canon {ctx pa} (h : s.Canon) : Yields State.Canon (s.joinDecrement ctx pa) := by
  unfold State.joinDecrement
  split
  next block s1 hr =>
  have h1 : s1.Canon := snd_canon (hostRead_canon h) hr
  extract_lets count tq rec_ task queue s2
  have h2 : s2.Canon := hostWrite_canon h1
  have ht {t : State} (h : t.Canon) : (task t).2.Canon := by
    simp only [task]
    split
    · next hx => exact hostRead_canon ((hostXlate_canon h).ok hx)
    · exact h
  clear_value task s2
  refine .ite ?_ (.ite h2 ?_)
  · split
    next hr => exact refuseRec_canon (snd_canon (ht h1) hr)
  · split
    · next hr => exact refuseRec_canon (snd_canon (ht h2) hr)
    · next hr => exact joinPost_canon (snd_canon (ht h2) hr)

theorem joinEnd_canon {ctx va r} (h : s.Canon) : Yields State.Canon (s.joinEnd ctx va r) := by
  unfold State.joinEnd
  refine .ite h ?_
  split
  · exact refuseRec_canon h
  · next hx => exact joinDecrement_canon ((hostXlate_canon h).ok hx)

theorem recordAddr_stops {c} : Stops (fun _ => True) (recordAddr c s) := .ite trap_stops trivial

theorem queueArg_stops {c v} : Stops (fun _ => True) (queueArg c s v) := .ite trap_stops (.ite trivial trap_stops)

theorem postRecord_canon {c a} (h : s.Canon) : Stops (·.2.Canon) (postRecord c s a) := by
  unfold postRecord
  split
  · next he => exact (spadAt_canon h).error he
  · next hs =>
    have h1 := (spadAt_canon h).ok hs
    exact .ite trap_stops h1

theorem recordPage_canon {c a} (h : s.Canon) : Stops State.Canon (recordPage c s a) := (spadAt_canon h).map fun _ h => h

theorem released_canon {c body} (hb : EffCanon body) : EffCanon (released c s body) := .ite hb trivial

theorem performedOnce_canon {c lead trail} (h : s.Canon) (hl : EffCanon lead) (ht : ∀ r s, s.Canon → EffCanon (trail r s)) :
    EffCanon (performedOnce c s lead trail) := by
  unfold performedOnce
  refine .ite hl ?_
  split
  · trivial
  · extract_lets s1
    have h1 : s1.Canon := modWeft_canon h
    split
    · exact takeTrap_canon h1
    · exact ht _ _ h1

theorem giveOne_canon {k v bytes} (h : s.Canon) : (giveOne s k v bytes).Canon := giveResult_canon h

theorem postTo_canon {nb c q r} (h : s.Canon) : EffCanon (postTo nb c q r s) := by
  unfold postTo
  extract_lets mark
  have hm {s b} (h : State.Canon s) : (mark s b).Canon := by
    simp only [mark]
    split <;> exact h
  clear_value mark
  refine performedOnce_canon h (.ite ?_ (released_canon ?_)) fun _ _ h => hm h
  · split
    · exact hm (giveOne_canon h)
    · exact h
  · split
    · trivial
    · next hs => exact hm (giveOne_canon ((qAppend_canon h).ok hs))

theorem qputBody_canon {nb} : BodyCanon (qputBody nb) := fun _ _ h => by
  unfold qputBody
  split
  · next he => exact recordAddr_stops.error he
  · split
    · next he => exact queueArg_stops.error he
    · split
      · next he => exact (postRecord_canon h).error he
      · next hs => exact postTo_canon ((postRecord_canon h).ok hs)

theorem qgetBody_canon {nb} : BodyCanon (qgetBody nb) := fun _ _ h => by
  unfold qgetBody
  split
  · next he => exact recordAddr_stops.error he
  · split
    · next he => exact queueArg_stops.error he
    · extract_lets mark
      have hm {s b} (h : State.Canon s) : (mark s b).Canon := by
        simp only [mark]
        split <;> exact h
      clear_value mark
      refine .ite trap_stops ?_
      split
      · next he => exact (recordPage_canon h).error he
      · next hs =>
        have h1 := (recordPage_canon h).ok hs
        refine performedOnce_canon h1 (.ite ?_ ?_) fun _ _ h => ite_canon (hm h) (hm (spadPut_canon h))
        · split
          · exact hm (giveOne_canon h1)
          · exact h1
        · split
          · trivial
          · next hs =>
            have h2 := (qTake_canon h1).ok hs
            exact eff_canon (hm (giveOne_canon (spadPut_canon h2)))

theorem parkEngine_canon {k pc ic cs addr} (h : s.Canon) : (parkEngine s k pc ic cs addr).Canon := parkTeam_canon h

theorem queueRelease_canon {k hd} (h : s.Canon) : NextCanon (queueRelease s k hd) := by
  obtain ⟨take, htake, hc⟩ : ∃ take, State.qTake = take ∧ ∀ {s q}, State.Canon s → Yields (·.2.2.Canon) (take s q) :=
    ⟨_, rfl, qTake_canon⟩
  rw [queueRelease, htake]
  split
  · refine .ite h ?_
    split
    · trivial
    · next hs =>
      have h1 := (qAppend_canon h).ok hs
      exact next_canon (releaseHold_canon (giveOne_canon h1))
  · refine .ite h (.ite (next_canon (parkEngine_canon h)) ?_)
    split
    · next he => exact onStop_canon h ((bringPages_canon h).error he)
    · next hs =>
      have h1 := (bringPages_canon h).ok hs
      split
      · trivial
      · next hs =>
        have h2 := (hc h1).ok hs
        exact next_canon (releaseHold_canon (giveOne_canon (spadPut_canon h2)))
  · exact h

theorem spawnBody_canon : BodyCanon spawnBody := fun _ _ h => by
  unfold spawnBody
  split
  · next he => exact recordAddr_stops.error he
  · split
    · next he => exact (postRecord_canon h).error he
    · next hs =>
      have h1 := (postRecord_canon h).ok hs
      extract_lets t origin r give full
      have hf {s} (h : State.Canon s) : EffCanon (full s) := .ite (postTo_canon h) trap_stops
      clear_value full
      refine .ite (performedOnce_canon h1 h1 fun _ _ h => h) (released_canon (.ite (hf h1) ?_))
      split
      · next he => exact giveOne_canon (refuseRec_canon ((checkRec_canon h1).error he))
      · next hl =>
        have h2 := (checkRec_canon h1).ok hl
        exact .ite (giveOne_canon (modCore_canon h2)) (hf h2)

theorem tdoneBody_canon : BodyCanon tdoneBody := fun _ _ h => by
  unfold tdoneBody
  split
  · next he => exact (globalLanes_canon h).error he
  · next hs =>
    have h1 := (globalLanes_canon h).ok hs
    refine performedOnce_canon h1 ?_ fun _ _ h => h
    split
    · exact h1
    · refine released_canon ?_
      split
      · trivial
      · next hs => exact giveOne_canon ((joinDecrement_canon h1).ok hs)

theorem stealBody_canon : BodyCanon stealBody := fun _ _ h => by
  unfold stealBody
  extract_lets victim put
  split
  · next he => exact recordAddr_stops.error he
  · refine .ite trap_stops ?_
    split
    · next he => exact (recordPage_canon h).error he
    · next hs =>
      have h1 := (recordPage_canon h).ok hs
      refine performedOnce_canon h1 ?_ fun _ _ h => ite_canon (modWeft_canon h) (modWeft_canon (spadPut_canon h))
      split
      · exact modWeft_canon (giveOne_canon h1)
      · exact modWeft_canon (giveOne_canon (spadPut_canon (setField_canon (modCore_canon h1))))

theorem qstatBody_canon : BodyCanon qstatBody := fun _ _ h => by
  unfold qstatBody
  extract_lets w v put
  refine .ite (setWeft_canon h) ?_
  split
  · next he => exact queueArg_stops.error he
  · exact setWeft_canon h

/-! ## Turns and determinism domains (11_determinism) -/

theorem modDomain_canon {id f} (h : s.Canon) : (s.modDomain id f).Canon := h

theorem openTurn_canon {k n} (h : s.Canon) : (openTurn s k n).Canon := modDomain_canon (modWeft_canon h)

theorem dsyncBody_canon : BodyCanon dsyncBody := fun _ _ h => by
  unfold dsyncBody
  extract_lets w n
  exact .ite trap_stops (.ite h (performedOnce_canon h (.ite (eff_canon (openTurn_canon (giveOne_canon h))) h) fun _ _ h => h))

theorem dclkBody_canon : BodyCanon dclkBody := fun _ _ h => by
  unfold dclkBody
  extract_lets w t
  exact .ite trap_stops (.ite h (.ite trivial h))

theorem datomBody_canon {fn} : BodyCanon (datomBody fn) := fun _ _ h => by
  unfold datomBody
  extract_lets n
  split
  · next he => exact (globalLanes_canon h).error he
  · next hs =>
    have h1 := (globalLanes_canon h).ok hs
    refine .ite trap_stops ?_
    extract_lets w ic x
    split
    refine .ite ?_ ?_
    · exact eff_canon (setWeft_canon h1)
    · exact eff_canon (modTeam_canon (setWeft_canon h1))

theorem applyEntry_canon {ctx e} (h : s.Canon) : (applyEntry ctx s e).Canon := homeRmw_canon h

theorem applyEpoch_canon {d epoch} (h : s.Canon) : (applyEpoch s d epoch).Canon := by
  unfold applyEpoch
  extract_lets es s1 keep s2
  have h1 : s1.Canon := foldl_canon (fun _ _ h => applyEntry_canon h) _ h
  exact foldl_canon (fun _ _ h => modTeam_canon h) _ (modDomain_canon h1)

theorem wakeFlush_canon {k} (h : s.Canon) : (wakeFlush s k).Canon := by
  unfold wakeFlush
  split
  · exact h
  · split
    · exact ite_canon (releaseHold_canon (giveOne_canon h)) h
    · exact h

theorem flushptBody_canon : BodyCanon flushptBody := fun _ _ h => by
  unfold flushptBody
  extract_lets w v e close applied
  have hc {s} (h : State.Canon s) : (close s).Canon := modWeft_canon h
  clear_value close
  refine .ite trap_stops (.ite h (performedOnce_canon h ?_ fun _ _ h => hc h))
  exact .ite trivial (released_canon (.ite (hc h) (eff_canon (hc (giveOne_canon h)))))

theorem newDomain_canon {id} (h : s.Canon) : (s.newDomain id).2.Canon := h

/-! ## Links and remote requests (05_fabric) -/

theorem setLink_canon {l e} (h : s.Canon) : (s.setLink l e).Canon := h

theorem tick_canon (h : s.Canon) : s.tick.Canon := h

theorem send_canon {l f} (h : s.Canon) : (s.send l f).Canon := by
  unfold State.send
  refine ite_canon h ?_
  extract_lets e f
  refine ite_canon ?_ ?_
  · exact setLink_canon h
  · exact tick_canon (setLink_canon h)

theorem respond_canon {l f typ op1} (h : s.Canon) : (s.respond l f typ op1).Canon := send_canon h

theorem refuse_canon {l f code} (h : s.Canon) : (s.refuse l f code).Canon := respond_canon h

theorem nak_canon {l f} (h : s.Canon) : (s.nak l f).Canon := send_canon h

theorem takeAck_canon {l a} (h : s.Canon) : (s.takeAck l a).Canon := setLink_canon h

theorem accept_canon {l f} (h : s.Canon) : (s.accept l f).Canon := ite_canon (setLink_canon (takeAck_canon h)) (takeAck_canon h)

theorem discardFlit_canon {l f} (h : s.Canon) : (s.discardFlit l f).Canon := ite_canon (refuse_canon h) h

theorem outcomeOf_canon {r : Except Fault State} (hr : Yields State.Canon r) : NextCanon (outcomeOf r) := by
  cases r with
  | error e => trivial
  | ok t => exact hr

theorem receive_canon {t l f act} (hact : ∀ s, s.Canon → Yields State.Canon (act s)) (h : s.Canon) : NextCanon (receive t l f act s) := by
  unfold receive
  have h1 : (s.accept l f).Canon := accept_canon h
  exact .ite h (.ite (next_canon (nak_canon h)) (outcomeOf_canon (.ite (hact _ h1) (discardFlit_canon h1))))

theorem keep_canon {f o} (h : s.Canon) : (s.keep f o).Canon := h

theorem serve_canon {l f} (h : s.Canon) : (s.serve l f).Canon := by
  obtain ⟨x, hx, hc⟩ : ∃ x, State.hostXlate = x ∧ ∀ {s ctx acc va}, State.Canon s → Yields (·.2.Canon) (x s ctx acc va) :=
    ⟨_, rfl, hostXlate_canon⟩
  unfold State.serve
  rw [hx]
  extract_lets t n w off cfg wr atomic va
  refine ite_canon (refuse_canon h) (ite_canon (refuse_canon h) ?_)
  split
  · exact respond_canon h
  · refine ite_canon (refuse_canon h) ?_
    split
    · exact refuse_canon h
    · next hs =>
      have h1 := (hc h).ok hs
      refine ite_canon ?_ (ite_canon ?_ (respond_canon (hostWrite_canon h1)))
      · split
        next hr => exact respond_canon (snd_canon (hostRead_canon h1) hr)
      · split
        next hr => exact respond_canon (keep_canon (hostWrite_canon (snd_canon (hostRead_canon h1) hr)))

theorem putAperture_canon {off bytes v} (h : s.Canon) : (s.putAperture off bytes v).Canon := ite_canon h (hostWrite_canon h)

theorem getAperture_canon {off bytes} (h : s.Canon) : (s.getAperture off bytes).Canon := by
  unfold State.getAperture
  refine ite_canon h ?_
  extract_lets pa n
  split
  next bs t hr =>
  have ht : t.Canon := by
    split at hr
    · exact snd_canon h hr
    · exact snd_canon (hostRead_canon h) hr
  exact ht

theorem post_canon {q r} (h : s.Canon) : Yields State.Canon (s.post q r) := .ite (qErr_canon h) (qAppend_canon h)

theorem performHeld_canon {x} (h : s.Canon) : Yields State.Canon (performHeld s x) := by
  cases x with
  | write off bytes v => exact putAperture_canon h
  | read off bytes => exact getAperture_canon h
  | post q r => exact post_canon h
  | flit l f => exact serve_canon h

theorem serveAll_canon : ∀ xs {s : State}, s.Canon → Yields State.Canon (serveAll xs s)
  | [], _, h => h
  | x :: xs, s, h => by
    unfold serveAll
    split
    · trivial
    · next hs =>
      have h1 := (performHeld_canon h).ok hs
      exact .ite h (serveAll_canon xs (after_canon h h1))

theorem serveHeld_canon (h : s.Canon) : Yields State.Canon s.serveHeld := .ite h (serveAll_canon _ h)

theorem hostAccess_canon {x} (h : s.Canon) : Yields State.Canon (s.hostAccess x) := serveHeld_canon h

theorem finishFlight_canon {k j f} (h : s.Canon) : (finishFlight s k j f).Canon := modWeft_canon h

theorem finishRemote_canon {k j f} (h : s.Canon) : (finishRemote s k j f).Canon := remoteFaults_canon (finishFlight_canon (giveResult_canon h))

theorem settleRst_canon {k seq} (h : s.Canon) : (settleRst s k seq).Canon := by
  unfold settleRst
  extract_lets w
  split
  · exact h
  · split
    · exact finishRemote_canon h
    · exact h

theorem dropSaved_canon {peer id} (h : s.Canon) : (dropSaved s peer id).Canon := h

theorem endWait_canon {x val cause} (h : s.Canon) : (s.endWait x val cause).Canon := settleRst_canon (modWeft_canon h)

theorem answered_canon {f val cause} (h : s.Canon) : (s.answered f val cause).Canon := by
  unfold State.answered
  split
  · exact h
  · exact endWait_canon (ite_canon (dropSaved_canon h) h)

theorem lose_canon {x} (h : s.Canon) : (s.lose x).Canon := by
  unfold State.lose
  exact ite_canon (endWait_canon h) (endWait_canon (ite_canon h h))

/-! ## Floating point (08_fp) -/

theorem shadowRetry_canon {k ic} (h : s.Canon) : (s.shadowRetry k ic).Canon := h

theorem shadowed_canon {t elems f run} (hrun : ∀ f, BodyCanon (run f)) : BodyCanon (shadowed t elems f run) := fun c s h => by
  unfold shadowed
  extract_lets w
  split
  · exact hrun _ _ _ h
  · have h1 {ic} : (s.shadowRetry c.k ic).Canon := shadowRetry_canon h
    exact .ite (hrun _ _ _ h) (.ite (takeTrap_canon h1) (hrun _ _ _ h1))

theorem issueAlu_canon {i f} (h : s.Canon) : NextCanon (issueAlu i f s) := issue_canon laneEffect_canon h

theorem issueInv_canon {i f} (h : s.Canon) : NextCanon (issueInv i f s) := issue_canon laneEffect_canon h

theorem issueCmp_canon {i f} (h : s.Canon) : NextCanon (issueCmp i f s) := issue_canon maskEffect_canon h

theorem issueF_canon {i shadow g} (h : s.Canon) : NextCanon (issueF i shadow g s) := by
  refine issue_canon (fun c s h => ?_) h
  dsimp only
  split
  · exact shadowed_canon (fun _ => laneEffect_canon) _ _ h
  · exact laneEffect_canon _ _ h

theorem issueFCmp_canon {i g} (h : s.Canon) : NextCanon (issueFCmp i g s) :=
  issue_canon (fun _ _ h => maskEffect_canon _ _ h) h

theorem functionEffect_canon {fn t} : BodyCanon (functionEffect fn t) := fun _ _ h => eff_canon (setWeft_canon h)

theorem issueFn_canon {fn p t u d a} (h : s.Canon) : NextCanon (issueFn fn p t u d a s) := issue_canon functionEffect_canon h

theorem packBody_canon {n src dst} : BodyCanon (packBody n src dst) := fun _ _ h =>
  .ite (shadowed_canon (fun _ => laneEffect_canon) _ _ h) (laneEffect_canon _ _ h)

theorem unpackBody_canon {n src dst} : BodyCanon (unpackBody n src dst) := fun c s h => by
  unfold unpackBody
  extract_lets w m flags one run elems
  have hrun {f} : BodyCanon (run f) := fun _ _ h => eff_canon (setWeft_canon h)
  clear_value run
  exact .ite (shadowed_canon (fun _ => hrun) _ _ h) (hrun _ _ h)

/-! ## Registers and history (02_registers, 06_reversal) -/

theorem winBody_canon : BodyCanon winBody := fun _ _ h => .ite trap_stops (eff_canon (setWeft_canon h))

theorem regldBody_canon : BodyCanon regldBody := fun _ _ h => eff_canon (setWeft_canon h)

theorem regstBody_canon : BodyCanon regstBody := fun _ _ h => eff_canon (setWeft_canon h)

theorem cfrdBody_canon : BodyCanon cfrdBody := fun _ _ h => eff_canon (setWeft_canon h)

theorem forgetRecords_canon {k top} (h : s.Canon) : (forgetRecords s k top).Canon := h

theorem freshHist_canon {k} (h : s.Canon) : (freshHist s k).Canon := modWeft_canon (forgetRecords_canon h)

theorem commitBody_canon : BodyCanon commitBody := fun _ _ h => eff_canon (setWeft_canon (freshHist_canon h))

theorem ckptBody_canon : BodyCanon ckptBody := fun _ _ h => .ite trivial (eff_canon (setWeft_canon h))

theorem hmodeBody_canon : BodyCanon hmodeBody := fun _ _ h =>
  .ite trap_stops (eff_canon (setWeft_canon (ite_canon (freshHist_canon h) h)))

theorem beginWalk_canon {k home target} (h : s.Canon) : (beginWalk s k home target).Canon := h

theorem revBody_canon : BodyCanon revBody := fun _ _ h => by
  unfold revBody
  extract_lets w t
  exact .ite trivial (.ite trap_stops (.ite trap_stops (.ite (.ite (setWeft_canon h) (setWeft_canon h))
    (.ite trivial (.ite (beginWalk_canon (setWeft_canon h)) (beginWalk_canon h))))))

/-! ## Engine operations (07_engines) -/

theorem launchOp_canon {c kind hist eats} (h : s.Canon) : (launchOp c s kind hist eats).Canon := modCore_canon (setWeft_canon h)

theorem setOp_canon {core j o} (h : s.Canon) : (setOp s core j o).Canon := modCore_canon h

theorem dropOp_canon {core j} (h : s.Canon) : (dropOp s core j).Canon := modCore_canon h

theorem finishOp_canon {core j o fl bad} (h : s.Canon) : (finishOp s core j o fl bad).Canon := by
  unfold finishOp
  extract_lets t
  have h1 : t.Canon := modWeft_canon (dropOp_canon h)
  split
  · exact h1
  · exact imprecise_canon h1

theorem protOp_canon {core j o va} (h : s.Canon) : (protOp s core j o va).Canon := imprecise_canon (modWeft_canon (dropOp_canon h))

theorem queueReserve_canon {c t Ps} (h : s.Canon) : (s.queueReserve c t Ps).Canon := h

theorem opFault_canon {core j o x} (h : s.Canon) : NextCanon (opFault s core j o x) := by
  cases x with
  | wait => exact h
  | reserve c t Ps => exact queueReserve_canon h
  | stop f => trivial
  | page va => exact next_canon (parkEngine_canon (setOp_canon h))
  | spfault a => exact next_canon (parkEngine_canon (setOp_canon h))
  | prot va => exact next_canon (protOp_canon h)

theorem runElems_canon {en f} (hf : ∀ e s, s.Canon → Yields (·.2.Canon) (f e s)) :
    ∀ {es s fl bad}, State.Canon s → Yields (·.1.Canon) (runElems en f es s fl bad)
  | [], _, _, _, h => h
  | e :: t, _, _, _, h => by
    unfold runElems
    split
    · trivial
    · next hs => exact runElems_canon hf ((hf _ _ h).ok hs)

theorem recordsAt_canon {c} : ∀ {rs s}, State.Canon s → Stops (·.2.Canon) (recordsAt c rs s)
  | [], _, h => h
  | r :: t, _, h => by
    unfold recordsAt
    split
    · next he => exact (recordAt_canon h).error he
    · next hs => exact (recordsAt_canon ((recordAt_canon h).ok hs)).map fun _ h => h

theorem sweepBody_canon {fn} : BodyCanon (sweepBody fn) := fun _ _ h => by
  unfold sweepBody
  split
  · next he => exact (recordAt_canon h).error he
  · next hs =>
    have h1 := (recordAt_canon h).ok hs
    split
    · next he => exact (recordsAt_canon h1).error he
    · next hs =>
      have h2 := (recordsAt_canon h1).ok hs
      extract_lets sizes w fill
      exact .ite trap_stops (.ite trap_stops (eff_canon (launchOp_canon h2)))

theorem issueSweep_canon {fn p d a b} (h : s.Canon) : NextCanon (issueSweep fn p d a b s) := issueMem_canon sweepBody_canon h

theorem readSources_canon {core o e} : ∀ {rs s}, State.Canon s → Yields (·.2.Canon) (readSources s core o e rs)
  | [], _, h => h
  | r :: t, _, h => by
    unfold readSources
    split
    · trivial
    · next hs => exact (readSources_canon ((readElem_canon h).ok hs)).map fun _ h => h

theorem sweepElem_canon {core o fn d srcs fill e} (h : s.Canon) : Yields (·.2.Canon) (sweepElem core o fn d srcs fill e s) := by
  unfold sweepElem
  split
  · trivial
  · next hs =>
    have h1 := (readSources_canon h).ok hs
    extract_lets v r
    clear_value r
    split
    next x t hr =>
    have ht : t.Canon := by
      split at hr
      · cases hr; exact h1
      · cases hr; exact tick_canon h1
    exact (writeElem_canon ht).map fun _ h => h

/-! ## Tensor slots -/

theorem setSlot_canon {core n x} (h : s.Canon) : (s.setSlot core n x).Canon := modCore_canon h

theorem releasePins_canon {core n} (h : s.Canon) : (s.releasePins core n).Canon := setSlot_canon h

theorem addPins_canon {core n bs} (h : s.Canon) : (s.addPins core n bs).Canon := foldl_canon (fun _ _ h => ite_canon (setSlot_canon h) h) _ h

theorem tfetchBody_canon : BodyCanon tfetchBody := fun _ _ h => by
  unfold tfetchBody
  extract_lets core n
  split
  · next he => exact (recordAt_canon h).error he
  · next hs =>
    have h1 := (recordAt_canon h).ok hs
    refine .ite trap_stops (.ite trivial ?_)
    exact eff_canon (launchOp_canon (modCore_canon (setSlot_canon (releasePins_canon h1))))

theorem tunpinBody_canon : BodyCanon tunpinBody := fun _ _ h => by
  unfold tunpinBody
  extract_lets core n s1 s2
  exact .ite trap_stops (eff_canon (modCore_canon (setSlot_canon (releasePins_canon h))))

theorem fetchElem_canon {core ctx who r e} (h : s.Canon) : Yields (·.2.2.Canon) (fetchElem core ctx who r e s) := by
  unfold fetchElem
  extract_lets a
  split
  · trivial
  · trivial
  · next hs =>
    have h1 := (engXlate_canon h).ok hs
    refine .ite trivial ?_
    split
    next hr => exact snd_canon (engRead_canon _ _ _ _ h1) hr

theorem fetchAll_canon {core ctx who r} : ∀ {es s}, State.Canon s → Yields (·.2.2.Canon) (fetchAll core ctx who r es s)
  | [], _, h => h
  | e :: t, _, h => by
    unfold fetchAll
    split
    · trivial
    · next hs => exact (fetchAll_canon ((fetchElem_canon h).ok hs)).map fun _ h => h

theorem fillSlot_canon {core n bs blocks} (h : s.Canon) : (fillSlot s core n bs blocks).Canon := addPins_canon (setSlot_canon h)

/-! ## The matrix unit -/

theorem noteMiss_canon {core} (h : s.Canon) : (s.noteMiss core).Canon := h

theorem saveMatrix_canon {core} (h : s.Canon) : Yields State.Canon (saveMatrix s core) := by
  unfold saveMatrix
  split
  · exact h
  · extract_lets at_ x bs s1 s2
    have h1 : s1.Canon := homeWrite_canon _ _ (homeWrite_canon _ _ h)
    exact .ite trivial (modCore_canon (modTeam_canon h1))

theorem loadMatrix_canon {core t} (h : s.Canon) : Yields State.Canon (loadMatrix s core t) := by
  unfold loadMatrix
  extract_lets x at_
  refine .ite (.ite trivial ?_) (modCore_canon h)
  split
  next hr =>
  have h1 := snd_canon (homeRead_canon _ _ h) hr
  split
  next hr =>
  have h2 := snd_canon (homeRead_canon _ _ h1) hr
  exact modCore_canon (modTeam_canon h2)

theorem swapMatrix_canon {core t} (h : s.Canon) : Yields (∀ x ∈ ·, x.Canon) (swapMatrix s core t) := by
  unfold swapMatrix
  refine .ite (fun _ hx => ?_) (.ite (fun _ hx => ?_) ?_)
  · cases hx; exact h
  · cases hx
  · split
    · trivial
    · next hs =>
      refine (loadMatrix_canon (noteMiss_canon ((saveMatrix_canon h).ok hs))).map fun t ht x hx => ?_
      cases hx; exact ht

theorem owning_canon {c body} (hb : ∀ s, s.Canon → EffCanon (body s)) (h : s.Canon) : EffCanon (owning c s body) := by
  unfold owning
  split
  · trivial
  · trivial
  · next hs => exact hb _ ((swapMatrix_canon h).ok hs _ rfl)

theorem withOwner_canon {core o f} (hf : ∀ s, s.Canon → NextCanon (f s)) (h : s.Canon) : NextCanon (withOwner s core o f) := by
  refine taken_canon h ?_
  have h1 : (s.acting o.k o.seq).Canon := h
  split
  · trivial
  · exact h
  · next hs => exact hf _ ((swapMatrix_canon h1).ok hs _ rfl)

theorem readGroups_canon {c fn S slots} : ∀ {n at_ room s}, State.Canon s → Stops (·.2.Canon) (readGroups c fn S slots at_ room n s)
  | 0, _, _, _, h => h
  | n + 1, _, _, _, h => by
    unfold readGroups
    refine .ite trap_stops ?_
    split
    · next he => exact (spadAt_canon h).error he
    · next hs =>
      have h1 := (spadAt_canon h).ok hs
      extract_lets w0 rows scb
      refine .ite (readGroups_canon h1) ?_
      split
      · exact trap_stops
      · exact .ite trap_stops ((readGroups_canon h1).map fun _ h => h)

theorem readTable_canon {c fn S slots a} (h : s.Canon) : Stops (·.2.Canon) (readTable c fn S slots a s) := by
  unfold readTable
  refine .ite trap_stops ?_
  split
  · next he => exact (spadAt_canon h).error he
  · next hs => exact .ite trap_stops (readGroups_canon ((spadAt_canon h).ok hs))

theorem mmaOperands_canon {fn grouped c} (h : s.Canon) : Stops (·.2.2.2.Canon) (mmaOperands fn grouped c s) := by
  unfold mmaOperands
  extract_lets w S slots descA
  split
  · extract_lets table
    have ht : Stops (·.2.Canon) table := by
      refine .ite (readTable_canon h) ?_
      split
      · exact trap_stops
      · exact h
    clear_value table
    split
    · next => exact ht
    · next =>
      split
      · exact trap_stops
      · exact ht
  · exact trap_stops

theorem mmaBody_canon {fn grouped} : BodyCanon (mmaBody fn grouped) := fun _ _ h => by
  unfold mmaBody
  extract_lets w core
  refine .ite trap_stops (owning_canon (fun s h => ?_) h)
  split
  · next he => exact (mmaOperands_canon h).error he
  · next hs =>
    have h1 := (mmaOperands_canon h).ok hs
    extract_lets rows
    refine .ite (eff_canon h1) ?_
    split
    · trivial
    · split
      · exact takeTrap_canon (setSlot_canon h1)
      · exact .ite trivial (.ite trivial (eff_canon (launchOp_canon h1)))

theorem issueMma_canon {op p fmt d a b} (h : s.Canon) : NextCanon (issueMma op p fmt d a b s) := issueMem_canon mmaBody_canon h

theorem setCore_canon {core x} (h : s.Canon) : (s.setCore core x).Canon := h

theorem readSet_canon {core fn a gs o} (h : s.Canon) : Stops (·.2.Canon) (readSet core fn a gs o s) := by
  unfold readSet
  extract_lets t
  split
  · exact h
  · split
    · next he => exact (bringPages_canon h).error he
    · next hs => exact (bringPages_canon h).ok hs

theorem checksumRetry_canon {k ic} (h : s.Canon) : (s.checksumRetry k ic).Canon := h

theorem eatSlots_canon {core ns} (h : s.Canon) : (s.eatSlots core ns).Canon :=
  foldl_canon (fun _ _ h => setSlot_canon (releasePins_canon h)) _ h

theorem tileFree_canon {c tile body} (hb : EffCanon body) : EffCanon (tileFree c s tile body) := .ite trivial hb

theorem tilesFree_canon {c body} (hb : EffCanon body) : EffCanon (tilesFree c s body) := .ite trivial hb

theorem accZeroBody_canon : BodyCanon accZeroBody := fun _ _ h => by
  unfold accZeroBody
  extract_lets v t
  exact .ite trap_stops (owning_canon (fun s h => tileFree_canon (eff_canon (modCore_canon h))) h)

theorem accRdBody_canon : BodyCanon accRdBody := fun _ _ h =>
  owning_canon (fun _ h => tilesFree_canon (laneEffect_canon _ _ h)) h

theorem accWrBody_canon : BodyCanon accWrBody := fun _ _ h =>
  owning_canon (fun _ h => tilesFree_canon (eff_canon (setCore_canon h))) h

theorem accStBody_canon : BodyCanon accStBody := fun _ _ h => by
  unfold accStBody
  extract_lets w v e hist
  refine .ite trap_stops ?_
  split
  · next he => exact (recordAt_canon h).error he
  · next hs =>
    have h1 := (recordAt_canon h).ok hs
    exact .ite trap_stops (.ite trap_stops (owning_canon (fun _ h => tileFree_canon (eff_canon (launchOp_canon h))) h1))

theorem accLdBody_canon : BodyCanon accLdBody := fun _ _ h => by
  unfold accLdBody
  extract_lets w v e
  refine .ite trap_stops (.ite trap_stops ?_)
  split
  · next he => exact (recordAt_canon h).error he
  · next hs =>
    have h1 := (recordAt_canon h).ok hs
    exact .ite trap_stops (owning_canon (fun _ h => tileFree_canon (eff_canon (launchOp_canon h))) h1)

theorem sclLdBody_canon : BodyCanon sclLdBody := fun _ _ h => by
  unfold sclLdBody
  extract_lets w v a first count
  exact .ite trap_stops (owning_canon (fun _ h => eff_canon (launchOp_canon h)) h)

theorem sclRdBody_canon : BodyCanon sclRdBody := fun _ _ h =>
  owning_canon (fun _ h => .ite trivial (laneEffect_canon _ _ h)) h

theorem readRows_canon {core t m} : ∀ {is s}, State.Canon s → Stops (·.2.Canon) (readRows core t m is s)
  | [], _, h => h
  | i :: rest, _, h => by
    unfold readRows
    split
    · next he => exact (bringPages_canon h).error he
    · next hs => exact (readRows_canon ((bringPages_canon h).ok hs)).map fun _ h => h

theorem accLdRead_canon {core o r} : ∀ {es s}, State.Canon s → Yields (·.2.Canon) (accLdRead core o r es s)
  | [], _, h => h
  | e :: t, _, h => by
    unfold accLdRead
    split
    · trivial
    · next hs => exact (accLdRead_canon ((readElem_canon h).ok hs)).map fun _ h => h

theorem accStElem_canon {core o tile int r e} (h : s.Canon) : Yields (·.2.Canon) (accStElem core o tile int r e s) := by
  unfold accStElem
  extract_lets v x olds
  split
  · trivial
  · next hs =>
    have h1 := (writeElem_canon h).ok hs
    extract_lets t
    have ht : t.Canon := by
      unfold t
      split
      · exact h1
      · exact foldl_canon (fun _ _ h => ite_canon h (modWeft_canon h)) _ h1
    exact ht

theorem accStRun_canon {core tile int r} : ∀ {n o s}, State.Canon s → (accStRun core tile int r n o s).2.1.Canon
  | 0, _, _, h => h
  | n + 1, _, _, h => by
    unfold accStRun
    split
    · exact h
    · next hs => exact accStRun_canon ((accStElem_canon h).ok hs)

/-! ## Special registers and handlers -/

theorem writePieces_canon : ∀ {ps s}, State.Canon s → Yields State.Canon (writePieces s ps)
  | [], _, h => h
  | (a, bs) :: rest, _, h => by
    unfold writePieces
    exact .ite (writePieces_canon (homeWrite_canon _ _ h)) trivial

theorem notePool_canon (h : s.Canon) : s.notePool.Canon := setField_canon h

theorem poolTake_canon {b len} (h : s.Canon) : (s.poolTake b len).Canon := notePool_canon h

theorem poolFree_canon {b} (h : s.Canon) : (s.poolFree b).Canon := notePool_canon h

theorem srdBody_canon {n} : BodyCanon (srdBody n) := fun _ _ h => .ite (laneEffect_canon _ _ (tick_canon h)) (laneEffect_canon _ _ h)

theorem swrHandler_canon {n v c} (h : s.Canon) : EffCanon (swrHandler n v c s) := by
  unfold swrHandler
  extract_lets w put
  have hp {t} : EffCanon (put t) := eff_canon (setWeft_canon h)
  clear_value put
  split
  · exact .ite trap_stops (.ite trivial (eff_canon (setWeft_canon h)))
  · exact hp
  · exact hp
  · exact hp
  · exact hp
  · exact hp
  · exact hp
  · split
    · exact eff_canon (modWeft_canon (forgetRecords_canon h))
    · exact trap_stops

theorem swrBody_canon {n} : BodyCanon (swrBody n) := fun _ _ h =>
  .ite (eff_canon (setWeft_canon h)) (.ite trap_stops (swrHandler_canon h))

theorem eretBody_canon {m explicit} : BodyCanon (eretBody m explicit) := fun _ _ h => by
  unfold eretBody
  extract_lets w target R go
  have hg : EffCanon go := settleEnd_canon (setWeft_canon h)
  clear_value go
  refine .ite trap_stops (.ite hg ?_)
  split
  · next he => exact targetHeader_stops.error he
  · exact hg

theorem fqparkBody_canon : BodyCanon fqparkBody := fun _ _ h => .ite trap_stops (fqpark_canon h)

theorem flagsClrBody_canon : BodyCanon flagsClrBody := fun _ _ h => .ite trap_stops (eff_canon (setWeft_canon h))

theorem setTick_canon {n} (h : s.Canon) : ({ s with freeTick := n } : State).Canon := h

theorem ctxsvBody_canon : BodyCanon ctxsvBody := by
  obtain ⟨f, hf, hc⟩ : ∃ f, writePieces = f ∧ ∀ {ps s}, State.Canon s → Yields State.Canon (f s ps) := ⟨_, rfl, @writePieces_canon⟩
  delta ctxsvBody
  rw [hf]
  intro c s h
  beta_reduce
  extract_lets s1
  have h1 : s1.Canon := retire_canon h
  clear_value s1
  split
  · trivial
  · next hs =>
    have h2 := (hc h1).ok hs
    exact setTick_canon h2

theorem pairsigBody_canon : BodyCanon pairsigBody := fun _ _ h => eff_canon (setWeft_canon h)

/-! ## Preemption and restore -/

theorem preemptTeam_canon {t} (h : s.Canon) : (preemptTeam s t).Canon := by
  unfold preemptTeam
  extract_lets x s1
  exact ite_canon h (ite_canon (modTeam_canon h) (modTeam_canon (modTeam_canon h)))

theorem takeEngines_canon {t} (h : s.Canon) : (takeEngines s t).Canon :=
  foldl_canon (fun _ _ h => modCore_canon (modTeam_canon h)) _ h

theorem takeSlots_canon {t} (h : s.Canon) : (takeSlots s t).Canon := modTeam_canon h

theorem dropSlots_canon {t} (h : s.Canon) : (dropSlots s t).Canon :=
  foldl_canon (fun _ _ h => foldl_canon (fun _ _ h => setSlot_canon (releasePins_canon h)) _ h) _ h

theorem saveMatrices_canon {t} (h : s.Canon) : Yields State.Canon (saveMatrices s t) := by
  refine List.foldlRecOn (motive := Yields State.Canon) _ _ h fun r hr c _ => ?_
  cases r with
  | error f => trivial
  | ok s => exact .ite (saveMatrix_canon hr) hr

theorem writeImage_canon : ∀ {s t kind}, State.Canon s → Yields State.Canon (writeImage s t kind) := by
  obtain ⟨f, hf, hc⟩ : ∃ f, writePieces = f ∧ ∀ {ps s}, State.Canon s → Yields State.Canon (f s ps) := ⟨_, rfl, @writePieces_canon⟩
  delta writeImage
  rw [hf]
  intro s t kind h
  exact hc (takeSlots_canon (takeEngines_canon h))

theorem report_canon {r} (h : s.Canon) : (s.report r).Canon := h

theorem leaveCore_canon {t kind} (h : s.Canon) : (leaveCore s t kind).Canon := by
  unfold leaveCore
  extract_lets s0 s1 s2 status s3
  have h0 : s0.Canon := dropSlots_canon h
  have h1 : s1.Canon := setTick_canon h0
  have h3 : s3.Canon := modTeam_canon (foldl_canon (fun _ _ h => modWeft_canon h) _ h1)
  exact ite_canon h3 (report_canon h3)

theorem saveTeam_canon : ∀ {s t kind}, State.Canon s → Yields State.Canon (saveTeam s t kind) := by
  obtain ⟨f, hf, hc⟩ : ∃ f, writeImage = f ∧ ∀ {s t kind}, State.Canon s → Yields State.Canon (f s t kind) :=
    ⟨_, rfl, @writeImage_canon⟩
  delta saveTeam
  rw [hf]
  intro s t kind h
  split
  · trivial
  · next hs =>
    have h1 := (saveMatrices_canon h).ok hs
    exact (hc h1).map fun _ h => leaveCore_canon h

theorem restoreWeft_canon {t i} (h : s.Canon) : (restoreWeft s t i).Canon := by
  unfold restoreWeft
  extract_lets x k m w here at_
  refine ite_canon h ?_
  split
  next hr =>
  have h1 := snd_canon (homeRead_canon _ _ h) hr
  split
  next hr =>
  have h2 := snd_canon (homeRead_canon _ _ h1) hr
  split
  next hr =>
  have h3 := snd_canon (homeRead_canon _ _ h2) hr
  exact settleEnd_canon (setWeft_canon h3)

theorem restoreSpt_canon {t} (h : s.Canon) : (restoreSpt s t).Canon := by
  unfold restoreSpt
  extract_lets n
  split
  next hr =>
  have h1 := snd_canon (homeRead_canon _ _ h) hr
  refine foldl_canon (fun s P h => ?_) _ h1
  split
  · exact h
  · exact modTeam_canon h

theorem restoreSlots_canon {t} (h : s.Canon) : (restoreSlots s t).Canon := by
  unfold restoreSlots
  refine modTeam_canon (foldl_canon (fun s y h => ?_) _ h)
  extract_lets c pinned
  split
  · exact ite_canon (setSlot_canon (releasePins_canon h)) h
  · exact h

theorem restoreEngines_canon {t} (h : s.Canon) : (restoreEngines s t).Canon :=
  modTeam_canon (foldl_canon (fun _ _ h => modCore_canon h) _ (foldl_canon (fun _ _ h => modCore_canon h) _ h))

theorem wakeHold_canon {k} (h : s.Canon) : (wakeHold s k).Canon := by
  unfold wakeHold
  extract_lets t
  split
  · exact h
  · split
    · exact wakeBar_canon h
    · have hf := wakeFault_canon (k := k) h
      split
      · next hw => rw [hw] at hf; exact hf
      · exact ite_canon h (wakeBarrier_canon h)
    · exact wakeInval_canon h
    · exact wakeFlush_canon h
    · exact h

theorem restoreTeam_canon {t core} (h : s.Canon) : (restoreTeam s t core).Canon := by
  unfold restoreTeam
  extract_lets x s1 s2 old left s3 s4
  have h1 : s1.Canon := restoreSpt_canon h
  have h2 : s2.Canon := foldl_canon (fun _ _ h => restoreWeft_canon h) _ h1
  exact foldl_canon (fun _ _ h => wakeHold_canon h) _ (restoreEngines_canon (restoreSlots_canon (modTeam_canon h2)))

/-! ## Reports to the fault queue of a context -/

theorem ctxPieces_canon {ctx acc va n} (h : s.Canon) : ∀ x ∈ s.ctxPieces ctx acc va n, x.2.Canon := by
  obtain ⟨f, hf, hc⟩ : ∃ f, State.hostXlate = f ∧ ∀ {s ctx acc va}, State.Canon s → Yields (·.2.Canon) (f s ctx acc va) :=
    ⟨_, rfl, hostXlate_canon⟩
  intro x hx
  rw [State.ctxPieces, hf] at hx
  split at hx
  · cases hx
  · next hs =>
    have h1 := (hc h).ok hs
    split at hx
    · cases hx; exact h1
    · split at hx
      · cases hx
      · next hs => cases hx; exact (hc h1).ok hs

theorem readPieces_canon : ∀ {ps s}, State.Canon s → (readPieces s ps).2.Canon
  | [], _, h => h
  | p :: t, _, h => by
    unfold readPieces
    split
    next hr =>
    have h1 := snd_canon (hostRead_canon h) hr
    split
    next hr => exact snd_canon (readPieces_canon h1) hr

theorem ctxRead_canon {ctx va n} (h : s.Canon) : ∀ x ∈ s.ctxRead ctx va n, x.2.Canon := by
  intro x hx
  obtain ⟨y, hy, rfl⟩ := Option.map_eq_some_iff.mp hx
  exact readPieces_canon (ctxPieces_canon h y hy)

theorem putPieces_canon : ∀ {ps bs s}, State.Canon s → (putPieces s ps bs).Canon
  | [], _, _, h => h
  | p :: t, bs, s, h => putPieces_canon (ps := t) (s := s.hostWrite p.1 (bs.take p.2)) (hostWrite_canon h)

theorem ctxWrite_canon {ctx va bs} (h : s.Canon) : ∀ x ∈ s.ctxWrite ctx va bs, x.Canon := by
  intro x hx
  obtain ⟨y, hy, rfl⟩ := Option.map_eq_some_iff.mp hx
  exact putPieces_canon (ctxPieces_canon h y hy)

theorem fqHeader_canon {ctx} (h : s.Canon) : ∀ x ∈ s.fqHeader ctx, x.2.2.2.2.2.Canon := by
  intro x hx
  unfold State.fqHeader at hx
  split at hx
  · cases hx
  · split at hx
    · cases hx
    · next hr =>
      have h1 := ctxRead_canon h _ hr
      extract_lets n at hx
      split at hx
      · cases hx
      · cases hx; exact h1

theorem dropReport_canon {j} (h : s.Canon) : (s.dropReport j).Canon := h

theorem failReport_canon {j} (h : s.Canon) : (s.failReport j).Canon := setBit_canon (dropReport_canon h)

theorem writeReport_canon {j r} (h : s.Canon) : (writeReport s j r).Canon := by
  unfold writeReport
  split
  · exact failReport_canon h
  · next hq =>
    have h1 := fqHeader_canon h _ hq
    refine ite_canon h1 ?_
    extract_lets done
    have hd : ∀ x ∈ done, x.Canon := by
      intro x hx
      obtain ⟨y, hy, hx⟩ := Option.bind_eq_some_iff.mp hx
      exact ctxWrite_canon (ctxWrite_canon h1 y hy) x hx
    clear_value done
    split
    · exact failReport_canon h
    · exact signal_canon _ (dropReport_canon (hd _ rfl))

/-! ## Teams: removal, launches and placement -/

theorem removeTeam_canon {t} (h : s.Canon) : (removeTeam s t).Canon := by
  unfold removeTeam
  extract_lets x s1 s2 s3
  have h1 : s1.Canon := by
    refine foldl_canon (fun s e h => ?_) _ h
    extract_lets c y frames s2 s3
    have h3 : s3.Canon := modCore_canon (foldl_canon (fun _ _ h => setSlot_canon (releasePins_canon h)) _ h)
    exact ite_canon h3 (noteFree_canon h3)
  exact setTeam_canon (foldl_canon (fun _ _ h => setWeft_canon h) _ (poolFree_canon h1))

theorem loseWefts_canon {t} (h : s.Canon) : (loseWefts s t).Canon := ite_canon h (modDomain_canon h)

theorem beginLaunch_canon {q r l} (h : s.Canon) : (beginLaunch s q r l).Canon := by
  unfold beginLaunch
  extract_lets id run s1
  have h1 : s1.Canon := h
  refine ite_canon h1 (ite_canon ?_ h1)
  split
  next hr =>
  have h2 := snd_canon (newDomain_canon h1) hr
  exact h2

/-- The definition is opened as a function, before it meets its arguments: applied, it would be computed through the `match` (see the head
of this file). -/
theorem takeRecord_canon : ∀ {s cp q}, State.Canon s → Yields State.Canon (takeRecord s cp q) := by
  obtain ⟨f, hf, hc⟩ : ∃ f, State.checkRec = f ∧ ∀ {s ctx q r}, State.Canon s → Ends (·.2.Canon) (·.2.Canon) (f s ctx q r) :=
    ⟨_, rfl, checkRec_canon⟩
  obtain ⟨g, hg, hq⟩ : ∃ g, State.qTake = g ∧ ∀ {s q}, State.Canon s → Yields (·.2.2.Canon) (g s q) := ⟨_, rfl, qTake_canon⟩
  obtain ⟨r, hr⟩ : ∃ r, takeRecord = r := ⟨_, rfl⟩
  rw [hr]
  delta takeRecord at hr
  rw [hf, hg] at hr
  subst hr
  intro s cp q h
  beta_reduce
  split
  · trivial
  · next hs =>
    have h1 := (hq h).ok hs
    extract_lets s1 r ctx
    have h2 : s1.Canon := canon_of_mem rfl h1
    clear_value s1
    split
    · next he => exact refuseRec_canon ((hc h2).error he)
    · next hs =>
      have h3 := (hc h2).ok hs
      refine .ite (beginLaunch_canon h3) ?_
      exact canon_of_mem rfl h3

theorem placeTeam_canon {t core base r domain member partner} (h : s.Canon) :
    Yields State.Canon (placeTeam s t core base r domain member partner) := by
  unfold placeTeam
  extract_lets roles len x regions m spt table s1
  have h1 : s1.Canon := homeWrite_canon _ _ (poolTake_canon (setTeam_canon h))
  refine .ite trivial ?_
  exact foldl_canon (fun _ _ h => setWeft_canon h) _ h1

theorem startTask_canon {core r} (h : s.Canon) : Yields (∀ x ∈ ·, x.Canon) (startTask s core r) := by
  obtain ⟨g, hg, hp⟩ : ∃ g, placeTeam = g ∧ ∀ {s t core base r domain member partner}, State.Canon s →
    Yields State.Canon (g s t core base r domain member partner) := ⟨_, rfl, @placeTeam_canon⟩
  unfold startTask
  rw [hg]
  extract_lets own
  split
  next d s1 hr =>
  have h1 : s1.Canon := by
    split at hr
    · exact snd_canon (newDomain_canon h) hr
    · cases hr; exact h
  extract_lets len t
  split
  · exact fun _ hx => nomatch hx
  · next note _ _ _ _ =>
    have hn {s} (h : State.Canon s) : (note s).Canon := ite_canon (modDomain_canon h) h
    have hm {r : Except Fault State} (hr : Yields State.Canon r) : Yields (∀ x ∈ ·, x.Canon) (r.map fun s => some (note s)) :=
      hr.map fun s hs x hx => by cases hx; exact hn hs
    clear_value note
    refine .ite (hm (hp h1)) ?_
    split
    · exact fun _ hx => nomatch hx
    · split
      · trivial
      · next hs =>
        have h2 := (hp h1).ok hs
        split
        · exact fun _ hx => nomatch hx
        · exact hm (hp h2)

theorem finalFlush_canon {d} (h : s.Canon) : (finalFlush s d).Canon := by
  refine foldl_canon (fun s e h => ?_) _ h
  split
  · exact applyEpoch_canon h
  · exact h

theorem endDomain_canon {id} (h : s.Canon) : (endDomain s id).Canon := by
  unfold endDomain
  split
  · exact h
  · next d _ =>
    have h1 : (finalFlush s d).Canon := finalFlush_canon h
    exact h1

theorem keepEntries_canon {t} (h : s.Canon) : (keepEntries s t).Canon := modTeam_canon (modDomain_canon h)

theorem endOfLaunchTask_canon {t remove l} (hr : ∀ s, s.Canon → (remove s).Canon) (h : s.Canon) :
    Yields State.Canon (endOfLaunchTask s t remove l) := by
  unfold endOfLaunchTask
  extract_lets put s1
  have hp {s f} (h : State.Canon s) : (put s f).Canon := h
  clear_value put
  exact .ite (hr _ (hp (keepEntries_canon h))) (joinEnd_canon (hp (hr _ (endDomain_canon h))))

/-! ## Redundant pairs and repair -/

theorem bufferDatoms_canon {k ws} (h : s.Canon) : (s.bufferDatoms k ws).Canon := modTeam_canon h

theorem releaseSegment_canon {lead trail a b} (h : s.Canon) : (releaseSegment s lead trail a b).Canon :=
  modWeft_canon (modWeft_canon (bufferDatoms_canon (bufferDatoms_canon h)))

theorem parkPair_canon {k start addr cause2 stuck} (h : s.Canon) : (parkPair s k start addr cause2 stuck).Canon := by
  unfold parkPair
  split
  extract_lets clear s1 s2
  have h1 : s1.Canon := modWeft_canon (modWeft_canon h)
  exact parkTeam_canon (ite_canon (foldl_canon (fun _ _ h => modTeam_canon h) _ h1) h1)

theorem countSat_canon {off lo} (h : s.Canon) : (s.countSat off lo).Canon := setField_canon h

theorem mismatch_canon {lead trail a b} (h : s.Canon) : (mismatch s lead trail a b).Canon := by
  unfold mismatch
  extract_lets start addr second s1 note
  split
  · exact parkPair_canon h
  · exact walkBack_canon (walkBack_canon (ite_canon h (countSat_canon h)))

theorem rebuild_canon {cl} (h : s.Canon) : (rebuild s cl).Canon := by
  unfold rebuild
  extract_lets s1
  have h1 : s1.Canon := countSat_canon (modCluster_canon h)
  exact ite_canon h (ite_canon (goViral_canon _ _ h) (foldl_canon (fun _ _ h => preemptTeam_canon h) _ h1))

theorem resetCmdp_canon {cp} (h : s.Canon) : (resetCmdp s cp).Canon := ite_canon (goViral_canon _ _ h) h

theorem swapEffect_canon : BodyCanon swapEffect := fun _ _ h => eff_canon (modWeft_canon h)

/-! ## Lanes and remote accesses -/

theorem pullLanes_canon {fn} : BodyCanon (pullLanes fn) := fun _ _ h => eff_canon (setWeft_canon h)

theorem pushLanes_canon : BodyCanon pushLanes := fun _ _ h => .ite (eff_canon (setWeft_canon h)) (eff_canon (setWeft_canon h))

theorem xchLanes_canon {fn} : BodyCanon (xchLanes fn) := fun _ _ h => .ite (eff_canon (setWeft_canon h)) (eff_canon (setWeft_canon h))

theorem voteMask_canon {f} : BodyCanon (voteMask f) := fun _ _ h => eff_canon (setWeft_canon h)

theorem voteReg_canon {f} : BodyCanon (voteReg f) := fun _ _ h => eff_canon (setWeft_canon h)

theorem redReg_canon {f} : BodyCanon (redReg f) := voteReg_canon

theorem maskOp_canon {f} : BodyCanon (maskOp f) := fun _ _ h => eff_canon (setWeft_canon h)

theorem maskNum_canon {f a} : BodyCanon (maskNum f a) := fun _ _ h => eff_canon (setWeft_canon h)

theorem takeId_canon {peer} (h : s.Canon) : (s.takeId peer).2.Canon := canon_of_mem rfl h

theorem takeTag_canon {peer} (h : s.Canon) : (s.takeTag peer).2.Canon := canon_of_mem rfl h

theorem setFabric_canon {x} (h : s.Canon) : ({ s with fabric := x } : State).Canon := canon_of_mem rfl h

theorem askPeer_canon {op k seq L addr d b cc} (h : s.Canon) : (askPeer op k seq L addr d b cc s).2.Canon := by
  unfold askPeer
  extract_lets peer l0 prot sent base
  have hs {s link f} (h : State.Canon s) : (sent s link f).2.Canon := setFabric_canon (send_canon h)
  clear_value sent
  split
  · split
    · exact h
    · split
      · exact h
      · exact hs h
  · split
    · exact h
    · split
      next hr => exact hs (snd_canon (takeId_canon h) hr)
  · split
    · exact h
    · split
      · exact h
      · split
        next hr => exact hs (snd_canon (takeTag_canon h) hr)
  · split
    · exact h
    · split
      · exact h
      · split
        next hr => exact hs (snd_canon (takeTag_canon h) hr)

theorem askAll_canon {op k seq} : ∀ {ls s}, State.Canon s → (askAll op k seq ls s).2.Canon
  | [], _, h => h
  | (L, a, d, b, cc) :: rest, s, h => by
    unfold askAll
    extract_lets once
    split
    next x t hr =>
    have ht : t.Canon := by
      split at hr
      · cases hr; exact h
      · exact snd_canon (askPeer_canon h) hr
    split
    next hr => exact snd_canon (askAll_canon ht) hr

theorem remoteBody_canon {op} : BodyCanon (remoteBody op) := fun c s h => by
  unfold remoteBody
  extract_lets w n words all bad good
  split
  next hr =>
  have h1 := snd_canon (faultLanes_canon h) hr
  refine .ite (launch_canon h1) ?_
  extract_lets w
  split
  next hr =>
  have h2 := snd_canon (askAll_canon h1) hr
  exact eff_canon (settleRst_canon (modWeft_canon (launch_canon h2)))

/-! ## Reversal of one instruction -/

theorem restoreGlobal_canon {c va bs lane} (h : s.Canon) : Yields State.Canon (restoreGlobal c va bs lane s) := by
  unfold restoreGlobal
  split
  · trivial
  · trivial
  · next hs => exact coreWrite_canon _ _ _ _ _ _ ((xlate_canon h).ok hs)

theorem restoreSpad_canon {c a bs lane} (h : s.Canon) : Yields State.Canon (restoreSpad c a bs lane s) := by
  unfold restoreSpad
  extract_lets t
  refine .ite trivial ?_
  split
  · next hs => exact spadPut_canon ((bringPages_canon h).ok hs)
  · trivial

theorem eachBack_canon {f} (hf : ∀ x s, s.Canon → Yields State.Canon (f x s)) : ∀ {xs s}, State.Canon s → Yields State.Canon (eachBack f xs s)
  | [], _, h => h
  | x :: rest, _, h => by
    unfold eachBack
    split
    · trivial
    · next hs => exact eachBack_canon hf ((hf _ _ h).ok hs)

theorem undoStore_canon {c spad n off x skip r} (h : s.Canon) : Yields State.Canon (undoStore c spad n off x skip r s) := by
  unfold undoStore
  extract_lets w ls words
  refine eachBack_canon (fun j s h => ?_) h
  exact .ite (restoreSpad_canon h) (.ite h (restoreGlobal_canon h))

theorem undoAccSt_canon {c skip j r} (h : s.Canon) : Yields State.Canon (undoAccSt c skip j r s) := by
  unfold undoAccSt
  extract_lets e
  split
  · trivial
  · next hs =>
    have h1 := (recordAt_canon h).ok hs
    extract_lets parts
    split
    extract_lets ws
    refine eachBack_canon (fun i s h => ?_) h1
    exact .ite (restoreSpad_canon h) (.ite h (restoreGlobal_canon h))

theorem undoRow_canon {c r} (h : s.Canon) : Yields State.Canon (undoRow c r s) := by
  unfold undoRow
  split
  · trivial
  · trivial
  · next hs => exact modCore_canon ((swapMatrix_canon h).ok hs _ rfl)

theorem restoreRec_canon {c skip j r} (h : s.Canon) : Yields State.Canon (restoreRec c skip j r s) := by
  unfold restoreRec
  extract_lets mod
  have hm {f} : Yields State.Canon (mod f) := modWeft_canon h
  clear_value mod
  exact .ite hm (.ite hm (.ite h (.ite hm (.ite hm (.ite hm (.ite (undoRow_canon h)
    (.ite (.ite (undoAccSt_canon h) (undoStore_canon h)) (.ite h hm))))))))

theorem restoreAll_canon {c skip} : ∀ {j rs s}, State.Canon s → Yields State.Canon (restoreAll c skip j rs s)
  | _, [], _, h => h
  | _, r :: rest, _, h => by
    unfold restoreAll
    split
    · trivial
    · next hs => exact restoreAll_canon ((restoreRec_canon h).ok hs)

theorem invertXchg_canon {c n off} (h : s.Canon) : Yields State.Canon (invertXchg c n off s) := by
  unfold invertXchg
  extract_lets w ls
  refine eachBack_canon (fun L s h => ?_) h
  extract_lets w va
  split
  · trivial
  · trivial
  · next hs =>
    have h1 := (xlate_canon h).ok hs
    split
    next hr => exact modWeft_canon (snd_canon (coreSwap_canon _ _ _ _ _ _ h1) hr)

theorem invertXchgs_canon {c n off} (h : s.Canon) : Yields State.Canon (invertXchgs c n off s) := by
  unfold invertXchgs
  extract_lets w S ls
  refine eachBack_canon (fun L s h => ?_) h
  extract_lets w a
  refine .ite trivial ?_
  split
  · trivial
  · next hs => exact modWeft_canon (spadPut_canon ((bringPages_canon h).ok hs))

theorem invert_canon {c b} (h : s.Canon) : Yields State.Canon (invert c b s) := by
  unfold invert
  extract_lets mod
  have hm {f} : Yields State.Canon (mod f) := modWeft_canon h
  clear_value mod
  refine .ite h ?_
  split
  · exact hm
  · exact hm
  · exact .ite hm hm
  · exact .ite hm h
  · exact invertXchg_canon h
  · exact invertXchgs_canon h
  · refine .ite ?_ h
    split
    · exact hm
    · exact h

theorem dropWrites_canon {k n} (h : s.Canon) : (dropWrites s k n).Canon := ite_canon (modTeam_canon h) (modWeft_canon (modTeam_canon h))

theorem undoInstr_canon {k P viaCF n} (h : s.Canon) : Yields State.Canon (undoInstr s k P viaCF n) := by
  unfold undoInstr
  split
  · trivial
  · split
    · trivial
    · refine .ite trivial ?_
      extract_lets w inv skip ctx
      split
      extract_lets s1
      refine .ite trivial ?_
      have h1 : s1.Canon := setWeft_canon h
      clear_value s1
      split
      · trivial
      · next hs =>
        have h2 := (restoreAll_canon h1).ok hs
        extract_lets s2
        have h3 : s2.Canon := ite_canon (modWeft_canon h2) h2
        clear_value s2
        have hi (b : Word) : Yields State.Canon (if inv = true then invert (ctx s2) b s2 else .ok s2) := .ite (invert_canon h3) h3
        split
        · trivial
        · next hs => exact dropWrites_canon ((hi _).ok hs)

theorem pairArrived_canon {k} (h : s.Canon) : (pairArrived s k).Canon := by
  unfold pairArrived
  extract_lets w src s1
  have h1 : s1.Canon := setWeft_canon h
  split
  · exact h
  · split
    · exact h1
    · exact ite_canon h1 (parkPair_canon h1)

theorem standAt_canon {k} (h : s.Canon) : Yields State.Canon (standAt s k) := by
  unfold standAt
  extract_lets w
  split
  · trivial
  · trivial
  · exact setWeft_canon h

theorem endWalk_canon {k} (h : s.Canon) : Yields State.Canon (endWalk s k) := by
  unfold endWalk
  split
  · trivial
  · next hs => exact pairArrived_canon ((standAt_canon h).ok hs)

theorem stopWalk_canon {k} (h : s.Canon) : Yields State.Canon (stopWalk s k) := by
  unfold stopWalk
  extract_lets w
  split
  · trivial
  · next hs =>
    have h1 := (standAt_canon h).ok hs
    show State.Canon _
    split
    · exact parkPair_canon h1
    · exact takeTrap_canon h1

/-! ## Scratchpad frames and their reserves -/

theorem drainFrames_canon {core} : ∀ {is s}, State.Canon s → Stops State.Canon (drainFrames core is s)
  | [], _, h => h
  | i :: rest, _, h => by
    unfold drainFrames
    split
    · exact drainFrames_canon h
    · refine .ite (drainFrames_canon h) ?_
      split
      · next he => exact (evict_canon h).error he
      · next hs => exact drainFrames_canon ((evict_canon h).ok hs)

theorem grantHead_canon {core} (h : s.Canon) : Stops (∀ x ∈ ·, x.Canon) (grantHead core s) := by
  unfold grantHead
  split
  · exact fun _ hx => nomatch hx
  · extract_lets drop
    have hd {s} (h : State.Canon s) : ∀ x ∈ some (drop s), x.Canon := fun x hx => by cases hx; exact modCore_canon h
    clear_value drop
    refine .ite (hd h) ?_
    split
    · exact fun _ hx => nomatch hx
    · next he => exact (bringPages_canon h).error he
    · next hs => exact hd ((bringPages_canon h).ok hs)

theorem grantAll_canon {core} : ∀ {n s}, State.Canon s → Stops State.Canon (grantAll core n s)
  | 0, _, h => h
  | n + 1, _, h => by
    unfold grantAll
    split
    · next he => exact (grantHead_canon h).error he
    · exact h
    · next hs => exact grantAll_canon ((grantHead_canon h).ok hs _ rfl)

theorem grantCores_canon : ∀ {cs s}, State.Canon s → Stops State.Canon (grantCores cs s)
  | [], _, h => h
  | c :: rest, _, h => by
    unfold grantCores
    split
    · next he => exact (grantAll_canon h).error he
    · next hs => exact grantCores_canon ((grantAll_canon h).ok hs)

/-! ## The frame sweep -/

theorem examine_canon {f} (h : s.Canon) : Yields State.Canon (examine f s) := by
  unfold examine
  extract_lets at_ e tail q s1 s2
  have h2 : s2.Canon := setField_canon (homeWrite_canon _ _ h)
  exact .ite trivial (.ite h (.ite (homeWrite_canon _ _ h) (.ite h (.ite trivial (homeWrite_canon _ _ h2)))))

/-- The sweep of `n` frames with a given examination of one frame. -/
def sweepWith (ex : Nat → State → Except Fault State) : Nat → State → Except Fault State
  | 0, s => .ok s
  | n + 1, s =>
    if s.wmark ≤ s.coldCount then .ok s
    else match ex s.sweepNext s with
    | .error f => .error f
    | .ok s =>
      let last := s.cap / 16384
      if s.sweepNext + 1 < last then sweepWith ex n { s with sweepNext := s.sweepNext + 1 }
      else sweepWith ex n ({ s with sweepNext := 0 }.setField xstat 32 32 (s.field xstat 32 32 + 1))

theorem sweepFrames_eq : sweepFrames = sweepWith examine := by
  delta sweepFrames sweepWith
  rfl

theorem sweepWith_canon {ex} (he : ∀ f s, s.Canon → Yields State.Canon (ex f s)) :
    ∀ {n s}, State.Canon s → Yields State.Canon (sweepWith ex n s)
  | 0, _, h => h
  | n + 1, _, h => by
    unfold sweepWith
    refine .ite h ?_
    split
    · trivial
    · next hs =>
      have h1 := (he _ _ h).ok hs
      exact .ite (sweepWith_canon he (canon_of_mem rfl h1)) (sweepWith_canon he (setField_canon (canon_of_mem rfl h1)))

theorem sweepFrames_canon {n} (h : s.Canon) : Yields State.Canon (sweepFrames n s) := by
  rw [sweepFrames_eq]
  exact sweepWith_canon (fun _ _ h => examine_canon h) h

/-! ## The management interface -/

theorem putMasked_canon {off m v} (h : s.Canon) : (s.putMasked off m v).Canon := setReg_canon _ _ h

theorem clearOnes_canon {off m v} (h : s.Canon) : (s.clearOnes off m v).Canon := setReg_canon _ _ h

theorem refuseRepair_canon {code} (h : s.Canon) : (refuseRepair code s).Canon :=
  raise_canon _ (setField_canon (setField_canon (setField_canon (setBit_canon h))))

theorem beginRepair_canon (h : s.Canon) : (beginRepair s).Canon := foldl_canon (fun _ _ h => preemptTeam_canon h) _ (setBit_canon h)

theorem sendPending_canon {port vec} (h : s.Canon) : (sendPending port vec s).Canon := by
  unfold sendPending
  extract_lets off s1
  have h1 : s1.Canon := setField_canon h
  exact ite_canon h (canon_of_mem rfl h1)

theorem plainWrite_canon {off v} (h : s.Canon) : (s.plainWrite off v).Canon := by
  unfold State.plainWrite
  extract_lets indexed
  have hp {off m} : (s.putMasked off m v).Canon := putMasked_canon h
  have hc {off m} : (s.clearOnes off m v).Canon := clearOnes_canon h
  split
  · exact hp
  · exact hc
  · exact hp
  · exact hc
  · exact hp
  · exact hp
  · exact hp
  · exact clearOnes_canon hp
  · exact hc
  · exact hc
  · exact hp
  · exact hp
  · refine ite_canon hp (ite_canon hc (ite_canon hp (ite_canon ?_ (ite_canon hp (ite_canon (ite_canon h (setReg_canon _ _ h))
      (ite_canon hc ?_))))))
    · split
      · exact hp
      · exact hp
      · exact hp
      · exact h
    · split
      · exact ite_canon hp (ite_canon (sendPending_canon hp) h)
      · exact h

theorem sendWaiting_canon {port} (h : s.Canon) : (sendWaiting port s).Canon :=
  foldl_canon (fun _ _ h => foldl_canon (fun _ _ h => ite_canon (sendPending_canon h) h) _ h) _ h

theorem freeMsem_canon {port} (h : s.Canon) : (freeMsem port s).Canon := ite_canon (setField_canon h) h

theorem command_canon {port act} (ha : ∀ s, s.Canon → (act s).Canon) (h : s.Canon) : NextCanon (command port act s) :=
  .ite h (.ite (next_canon (ha _ h)) (next_canon (setBit_canon h)))

theorem trainLink_canon {l} (h : s.Canon) : (trainLink s l).Canon := ite_canon h (send_canon (setField_canon h))

theorem clearModule_canon : (clearModule s).Canon := by
  unfold clearModule
  extract_lets t live t1
  have ht : t.Canon := canon_of_mem rfl reset_canon
  exact foldl_canon (fun _ _ h => setBit_canon h) _ (ite_canon ht (setField_canon (setField_canon ht)))

theorem bringUp_canon (h : s.Canon) : (bringUp s).Canon := by
  unfold bringUp
  refine ite_canon (raise_canon _ (setField_canon h)) ?_
  extract_lets ident s1 s2
  have h1 : s1.Canon := canon_of_mem rfl h
  exact raise_canon _ (setField_canon (foldl_canon (fun _ _ h => trainLink_canon h) _ h1))

theorem readImage_canon {a} (h : s.Canon) : (readImage s a).2.Canon := by
  unfold readImage
  split
  · exact h
  · split
    next hr =>
    have h1 := snd_canon (homeRead_canon _ _ h) hr
    extract_lets len
    split
    · exact h1
    · split
      next hr => exact snd_canon (homeRead_canon _ _ h1) hr

theorem debugWalk_canon {t i target} (h : s.Canon) : (debugWalk s t i target).Canon := by
  unfold debugWalk
  extract_lets k w entry src f pc0 w1 s1
  refine ite_canon (homeWrite_canon _ _ (setWeft_canon h)) (ite_canon h ?_)
  have h1 : s1.Canon := beginWalk_canon (setWeft_canon h)
  exact homeWrite_canon _ _ (homeWrite_canon _ _ (ite_canon (homeWrite_canon _ _ h1) h1))

theorem debugReverse_canon {v} (h : s.Canon) : (debugReverse v s).Canon := by
  unfold debugReverse
  extract_lets i
  split
  · exact setBit_canon h
  · extract_lets k w
    exact ite_canon (setBit_canon h) (debugWalk_canon h)

/-! ## Which wefts are in the active set -/

theorem activate_canon {core k} (h : s.Canon) : (s.activate core k).Canon := modWeft_canon h

theorem fillActive_canon {core} (h : s.Canon) : (s.fillActive core).Canon := foldl_canon (fun _ _ h => activate_canon h) _ h

theorem swapIn_canon {core p} (h : s.Canon) : (s.swapIn core p).Canon := by
  unfold State.swapIn
  extract_lets key
  split
  · exact h
  · exact activate_canon (modWeft_canon h)

theorem countPassed_canon {core} (h : s.Canon) : (s.countPassed core).Canon := foldl_canon (fun _ _ h => modWeft_canon h) _ h

theorem swapOpportunity_canon {core} (h : s.Canon) : (s.swapOpportunity core).Canon := by
  unfold State.swapOpportunity
  extract_lets s1 next due
  have h1 : s1.Canon := fillActive_canon h
  exact countPassed_canon (foldl_canon (fun _ _ h => swapIn_canon h) _ h1)

theorem nextClock_canon {core} (h : s.Canon) : (s.nextClock core).Canon := modCore_canon (foldl_canon (fun _ _ h => modWeft_canon h) _ h)

theorem takeUnit_canon {core k x} : ∀ {n s}, State.Canon s → (takeUnit core k x n s).2.Canon
  | 0, _, h => h
  | n + 1, _, h => by
    unfold takeUnit
    split
    · exact h
    · exact takeUnit_canon (nextClock_canon h)

theorem noteIssue_canon {k x} (h : s.Canon) : (s.noteIssue k x).Canon := by
  unfold State.noteIssue
  extract_lets core
  split
  next hr => exact modWeft_canon (modCore_canon (snd_canon (takeUnit_canon h) hr))

theorem pickIssue_canon {core} : ∀ {n s}, State.Canon s → ∀ x ∈ pickIssue core n s, x.2.Canon
  | 0, _, _ => fun _ hx => nomatch hx
  | n + 1, s, h => by
    unfold pickIssue
    extract_lets ready pick
    intro x hx
    split at hx
    · cases hx; exact h
    · split at hx
      · cases hx
      · exact pickIssue_canon (nextClock_canon h) x hx

/-! ## Memory events -/

theorem arrive_canon {core} (h : s.Canon) : (s.arrive core).2.Canon := modCore_canon h

theorem parkFor_canon {k c addr tpc tic lane} (h : s.Canon) : (parkFor s k c addr tpc tic lane).Canon := parkTeam_canon h

theorem execStoreOrderPoint_canon {k j l} (h : s.Canon) : NextCanon (execStoreOrderPoint k j l s) := by
  unfold execStoreOrderPoint
  split
  · exact h
  · split
    · exact h
    · exact event_canon h (.ite (spadOrderPoint_canon h) (globalOrderPoint_canon h))

theorem execStoreEntry_canon {k} (h : s.Canon) : NextCanon (execStoreEntry k s) := by
  unfold execStoreEntry
  extract_lets w
  split
  · exact h
  · extract_lets vas lane
    split
    · next hs =>
      have h1 := (xlateAll_canon h).ok hs
      split
      next hr =>
      have h2 := snd_canon (arrive_canon h1) hr
      exact taken_canon h (next_canon (modWeft_canon h2))
    · exact next_canon (parkFor_canon h)
    · exact next_canon (imprecise_canon (setWeft_canon h))

theorem execFenceComplete_canon {k} (h : s.Canon) : NextCanon (execFenceComplete k s) := by
  unfold execFenceComplete
  split
  · split
    · exact .ite (next_canon (releaseHold_canon (markReleased_canon h))) h
    · exact h
  · exact h

theorem execFlagACompletion_canon {k j} (h : s.Canon) : NextCanon (execFlagACompletion k j s) := by
  unfold execFlagACompletion
  split
  · exact h
  · exact .ite (.ite (next_canon (finishFlight_canon h)) h) (.ite (.ite (next_canon (finishRemote_canon h)) h)
      (event_canon h (completeLocal_canon h)))

theorem execCopyAccept_canon {core} (h : s.Canon) : NextCanon (execCopyAccept core s) := by
  unfold execCopyAccept
  extract_lets cs j
  split
  · exact h
  · exact .ite h (next_canon (modWeft_canon (modCore_canon h)))

theorem execCopyElementLand_canon {core j} (h : s.Canon) : NextCanon (execCopyElementLand core j s) := by
  unfold execCopyElementLand
  split
  · exact h
  · next y _ =>
    refine .ite h (taken_canon h ?_)
    have h1 : (s.acting y.k y.seq).Canon := h
    have hr : Yields State.Canon ((copyBarrier (s.acting y.k y.seq) core y).bind fun s => copyElem s core y) := by
      cases hb : copyBarrier (s.acting y.k y.seq) core y with
      | error e => trivial
      | ok u => exact copyElem_canon ((copyBarrier_canon h1).ok hb)
    split
    · exact copyFault_canon h
    · next hs =>
      have h2 := hr.ok hs
      exact next_canon (wakeInval_canon (setCopy_canon (updateBarrier_canon h2)))

theorem execCopyStopTimeout_canon {core j} (h : s.Canon) : NextCanon (execCopyStopTimeout core j s) := by
  unfold execCopyStopTimeout
  split
  · exact h
  · split
    · exact .ite (next_canon (wakeInval_canon (setCopy_canon h))) h
    · exact h

/-! ## Control flow, queues and turns -/

theorem execClauseStart_canon {k} (h : s.Canon) : NextCanon (execClauseStart k s) := by
  unfold execClauseStart
  extract_lets w made s1
  have h1 : s1.Canon := ite_canon h (setWeft_canon h)
  refine .ite h (.ite (next_canon (takeLaneTrap_canon h)) ?_)
  split
  · next he => exact (fetchHeader_canon h).error he
  · exact .ite (next_canon (settleEnd_canon h1)) (next_canon (startClause_canon h1))

theorem execWaitfRelease_canon {k} (h : s.Canon) : NextCanon (execWaitfRelease k s) := by
  unfold execWaitfRelease
  extract_lets w
  split
  · exact h
  · split
    · refine .ite h ?_
      split
      · exact next_canon (takeImprecise_canon h)
      · exact next_canon (releaseHold_canon h)
    · exact h

theorem execQueueHoldRelease_canon {k} (h : s.Canon) : NextCanon (execQueueHoldRelease k s) := by
  unfold execQueueHoldRelease
  split
  · exact h
  · exact .ite (taken_canon h (queueRelease_canon h)) h

theorem execQputTimeout_canon {k} (h : s.Canon) : NextCanon (execQputTimeout k s) := by
  unfold execQputTimeout
  split
  · exact h
  · split
    · exact .ite h (next_canon (takeTrap_canon (giveResult_canon h)))
    · exact h

theorem execDsyncGrant_canon {k} (h : s.Canon) : NextCanon (execDsyncGrant k s) := by
  unfold execDsyncGrant
  split
  · exact h
  · split
    · exact .ite (next_canon (releaseHold_canon (openTurn_canon (giveOne_canon h)))) h
    · exact h

theorem execTurnClose_canon {dom} (h : s.Canon) : NextCanon (execTurnClose dom s) := by
  unfold execTurnClose
  extract_lets mirrors s1
  have h1 : s1.Canon := foldl_canon (fun _ _ h => modWeft_canon h) _ h
  split
  · exact h1
  · split
    · exact h1
    · exact .ite (next_canon (modDomain_canon (modWeft_canon h1))) h1

theorem execDclkRelease_canon {k} (h : s.Canon) : NextCanon (execDclkRelease k s) := by
  unfold execDclkRelease
  split
  · exact h
  · split
    · exact .ite (next_canon (releaseHold_canon h)) h
    · exact h

theorem execFlushPoint_canon {dom} (h : s.Canon) : NextCanon (execFlushPoint dom s) := by
  unfold execFlushPoint
  split
  · exact h
  · extract_lets k due s1
    have h1 : s1.Canon := applyEpoch_canon h
    exact .ite h (taken_canon h (next_canon (foldl_canon (fun _ _ h => wakeFlush_canon h) _ h1)))

theorem execDomainAdmit_canon (h : s.Canon) : NextCanon (execDomainAdmit s) := by
  unfold execDomainAdmit
  split
  · exact h
  · refine .ite h ?_
    split
    · split
      next hr =>
      have h1 := snd_canon (newDomain_canon h) hr
      exact next_canon (canon_of_mem rfl h1)
    · split
      next hr =>
      have h1 := snd_canon (newDomain_canon h) hr
      exact next_canon (canon_of_mem rfl h1)

/-! ## Links -/

theorem receiveHost_canon {t l f} (h : s.Canon) : NextCanon (receive t l f (fun s => s.hostAccess (.flit l f)) s) :=
  receive_canon (fun _ h => hostAccess_canon h) h

theorem receiveAnswer_canon {t l f val cause} (h : s.Canon) : NextCanon (receive t l f (fun s => .ok (s.answered f val cause)) s) :=
  receive_canon (fun _ h => answered_canon h) h

theorem execIdle_canon {l f} (h : s.Canon) : NextCanon (execIdle l f s) := receive_canon (fun _ h => h) h

theorem execNak_canon {l f} (h : s.Canon) : NextCanon (execNak l f s) :=
  receive_canon (fun _ h => setField_canon (setLink_canon h)) h

theorem execTrain_canon {l f} (h : s.Canon) : NextCanon (execTrain l f s) := by
  unfold execTrain
  extract_lets theirs peer s1 mine flit s2 ver
  have h2 : s2.Canon := send_canon (setLink_canon h)
  exact .ite h (.ite h (.ite (next_canon (setField_canon h2)) (next_canon (setField_canon (setField_canon (setField_canon h2))))))

theorem execLinkFail_canon {l} (h : s.Canon) : NextCanon (execLinkFail l s) := by
  unfold execLinkFail
  extract_lets s1
  have h1 : s1.Canon := setField_canon h
  exact .ite h (next_canon (foldl_canon (fun _ _ h => lose_canon h) _ h1))

theorem execFlitCheckFailure_canon {l f} (h : s.Canon) : NextCanon (execFlitCheckFailure l f s) := .ite (next_canon (nak_canon h)) h

theorem execUnknownFlitType_canon {l f} (h : s.Canon) : NextCanon (execUnknownFlitType l f s) :=
  .ite (next_canon (discardFlit_canon (accept_canon h))) h

theorem execResponseLost_canon {k j lane} (h : s.Canon) : NextCanon (execResponseLost k j lane s) := by
  unfold execResponseLost
  split
  · exact h
  · split
    · exact next_canon (lose_canon h)
    · exact h

theorem execKeptValueExpiry_canon {src id} (h : s.Canon) : NextCanon (execKeptValueExpiry src id s) := .ite h (next_canon (setFabric_canon h))

/-! ## Completions of the engines -/

theorem execFunctionResult_canon {k j} (h : s.Canon) : NextCanon (execFunctionResult k j s) := by
  unfold execFunctionResult
  extract_lets w
  split
  · exact h
  · refine .ite h ?_
    extract_lets t lanes elems
    split
    next hr =>
    refine next_canon (setWeft_canon ?_)
    split at hr
    · cases hr; exact h
    · extract_lets first at hr
      clear_value first
      split at hr
      · cases hr; exact h
      · cases hr; exact shadowRetry_canon h

theorem execTsweepComplete_canon {core j} (h : s.Canon) : NextCanon (execTsweepComplete core j s) := by
  unfold execTsweepComplete
  split
  · exact h
  · next o _ =>
    split
    · refine .ite h (taken_canon h ?_)
      have h1 : (s.acting o.k o.seq).Canon := h
      split
      · exact opFault_canon h
      · next hs =>
        have h2 := (runElems_canon (fun _ _ h => sweepElem_canon h) h1).ok hs
        exact next_canon (finishOp_canon h2)
    · exact h

theorem execTfetchComplete_canon {core j} (h : s.Canon) : NextCanon (execTfetchComplete core j s) := by
  unfold execTfetchComplete
  extract_lets ops
  split
  · exact h
  · next o _ =>
    split
    · extract_lets pin
      refine .ite h (taken_canon h ?_)
      have h1 : (s.acting o.k o.seq).Canon := h
      split
      · exact next_canon (protOp_canon (fillSlot_canon h))
      · exact opFault_canon h
      · next hs =>
        have h2 := (fetchAll_canon h1).ok hs
        exact next_canon (finishOp_canon (fillSlot_canon h2))
    · exact h

theorem execTfetchRerunComplete_canon {core slot} (h : s.Canon) : NextCanon (execTfetchRerunComplete core slot s) := by
  unfold execTfetchRerunComplete
  extract_lets x
  split
  · refine .ite h (taken_canon h ?_)
    split
    · next hs =>
      have h2 := (fetchAll_canon h).ok hs
      exact next_canon (fillSlot_canon h2)
    · exact next_canon (parkTeam_canon (setSlot_canon h))
    · exact next_canon (setSlot_canon h)
    · trivial
    · exact h
  · exact h

theorem execMatrixSwap_canon {core team} (h : s.Canon) : NextCanon (execMatrixSwap core team s) := by
  unfold execMatrixSwap
  refine .ite h (taken_canon h ?_)
  split
  · trivial
  · exact h
  · next hs => exact next_canon ((swapMatrix_canon h).ok hs _ rfl)

theorem execMmaOperandReadDone_canon {core j} (h : s.Canon) : NextCanon (execMmaOperandReadDone core j s) := by
  unfold execMmaOperandReadDone
  split
  · exact h
  · split
    · refine .ite h (withOwner_canon (fun s h => ?_) h)
      split
      · next he => exact onStop_canon h ((readSet_canon h).error he)
      · next hs => exact next_canon (setOp_canon ((readSet_canon h).ok hs))
    · exact h

theorem execMmaComplete_canon {core j} (h : s.Canon) : NextCanon (execMmaComplete core j s) := by
  unfold execMmaComplete
  split
  · exact h
  · split
    · refine .ite h (withOwner_canon (fun s h => ?_) h)
      extract_lets upset s1 s2
      have h2 : s2.Canon := eatSlots_canon (ite_canon (checksumRetry_canon h) h)
      exact .ite (next_canon (imprecise_canon (finishOp_canon h2))) (next_canon (finishOp_canon (modCore_canon h2)))
    · exact h

theorem execSclLdComplete_canon {core j} (h : s.Canon) : NextCanon (execSclLdComplete core j s) := by
  unfold execSclLdComplete
  split
  · exact h
  · split
    · extract_lets t
      refine .ite h ?_
      split
      · exact opFault_canon h
      · refine withOwner_canon (fun s h => ?_) h
        split
        · next he => exact onStop_canon h ((readRows_canon h).error he)
        · next hs =>
          have h2 := (readRows_canon h).ok hs
          exact next_canon (finishOp_canon (modCore_canon h2))
    · exact h

theorem execAccLdComplete_canon {core j} (h : s.Canon) : NextCanon (execAccLdComplete core j s) := by
  unfold execAccLdComplete
  split
  · exact h
  · split
    · refine .ite h (withOwner_canon (fun s h => ?_) h)
      split
      · exact opFault_canon h
      · next hs =>
        have h2 := (accLdRead_canon h).ok hs
        exact next_canon (finishOp_canon (modCore_canon h2))
    · exact h

theorem execAccStComplete_canon {core j} (h : s.Canon) : NextCanon (execAccStComplete core j s) := by
  unfold execAccStComplete
  split
  · exact h
  · split
    · refine .ite h (withOwner_canon (fun s h => ?_) h)
      split
      next o1 s1 f hr =>
      have h1 : (o1, s1, f).2.1.Canon := hr ▸ accStRun_canon h
      split
      · exact next_canon (finishOp_canon h1)
      · exact next_canon (setOp_canon h1)
      · exact next_canon (queueReserve_canon (setOp_canon h1))
      · exact next_canon (deliverCopyFault_canon (modWeft_canon (dropOp_canon h1)))
      · exact opFault_canon h1
    · exact h

/-! ## Save, restore and the fault queue -/

theorem execSaveComplete_canon {team} (h : s.Canon) : NextCanon (execSaveComplete team s) := by
  unfold execSaveComplete
  split
  · exact .ite h (taken_canon h (outcomeOf_canon (saveTeam_canon h)))
  · exact h

theorem execTeamRestore_canon {team core} (h : s.Canon) : NextCanon (execTeamRestore team core s) := by
  unfold execTeamRestore
  extract_lets x origin
  refine .ite h (.ite trivial (.ite (taken_canon h (next_canon (restoreTeam_canon h))) ?_))
  split
  · exact h
  · exact .ite h (taken_canon h (next_canon (restoreTeam_canon (restoreTeam_canon h))))

theorem execFaultEntryWrite_canon {j} (h : s.Canon) : NextCanon (execFaultEntryWrite j s) := by
  unfold execFaultEntryWrite
  split
  · exact h
  · exact .ite (taken_canon h (next_canon (writeReport_canon h))) h

theorem execFqHeadPoll_canon {ctx} (h : s.Canon) : NextCanon (execFqHeadPoll ctx s) := next_canon (canon_of_mem rfl h)

theorem execFaultReportDrop_canon {j} (h : s.Canon) : NextCanon (execFaultReportDrop j s) := by
  unfold execFaultReportDrop
  split
  · exact h
  · refine .ite h ?_
    split
    · exact taken_canon h (next_canon (failReport_canon h))
    · next hq =>
      have h1 := fqHeader_canon h _ hq
      refine .ite h ?_
      split
      · exact taken_canon h (next_canon (failReport_canon h))
      · next hw => exact taken_canon h (next_canon (signal_canon _ (dropReport_canon (ctxWrite_canon h1 _ hw))))

theorem execFqresume_canon {v} (h : s.Canon) : NextCanon (execFqresume v s) := by
  unfold execFqresume
  split
  · exact next_canon (setBit_canon h)
  · extract_lets ts
    exact .ite (next_canon (setBit_canon h)) (next_canon (foldl_canon (fun _ _ h => modTeam_canon h) _ h))

theorem execFqdiscard_canon {v} (h : s.Canon) : NextCanon (execFqdiscard v s) := by
  unfold execFqdiscard
  split
  · exact next_canon (setBit_canon h)
  · exact next_canon (foldl_canon (fun _ _ h => removeTeam_canon (loseWefts_canon h)) _ h)

theorem setStopped_canon {x} (h : s.Canon) : ({ s with stopped := x } : State).Canon := canon_of_mem rfl h

theorem execCtxstop_canon {v} (h : s.Canon) : NextCanon (execCtxstop v s) :=
  next_canon (foldl_canon (fun _ _ h => modTeam_canon h) _ (ite_canon h (setStopped_canon h)))

theorem execCtxgo_canon {v} (h : s.Canon) : NextCanon (execCtxgo v s) :=
  next_canon (foldl_canon (fun _ _ h => modTeam_canon h) _ (setStopped_canon h))

theorem execImagePoolWrite_canon {off v} (h : s.Canon) : NextCanon (execImagePoolWrite off v s) :=
  .ite h (.ite (next_canon (setBit_canon h)) (next_canon (notePool_canon (setField_canon h))))

/-! ## Queues, launches and tasks -/

theorem execQcfgWrite_canon {q v} (h : s.Canon) : NextCanon (execQcfgWrite q v s) :=
  .ite h (.ite (next_canon (qErr_canon h)) (next_canon (setReg_canon _ _ h)))

theorem execQbaseWrite_canon {q v} (h : s.Canon) : NextCanon (execQbaseWrite q v s) :=
  .ite h (.ite (next_canon (qErr_canon h)) (next_canon (setField_canon h)))

theorem execQpost_canon {q bytes r} (h : s.Canon) : NextCanon (execQpost q bytes r s) :=
  .ite h (.ite (next_canon (qErr_canon h)) (outcomeOf_canon (hostAccess_canon h)))

theorem execCpTakeRecord_canon {cp} (h : s.Canon) : NextCanon (execCpTakeRecord cp s) := by
  unfold execCpTakeRecord
  split
  · exact h
  · exact taken_canon h (outcomeOf_canon (takeRecord_canon h))

theorem execLaunchExpand_canon {j} (h : s.Canon) : NextCanon (execLaunchExpand j s) := by
  unfold execLaunchExpand
  split
  · exact h
  · exact .ite h (next_canon (canon_of_mem rfl h))

theorem execTaskDeal_canon {j} (h : s.Canon) : NextCanon (execTaskDeal j s) := by
  unfold execTaskDeal
  split
  · exact h
  · refine .ite h ?_
    split
    · exact h
    · extract_lets s1
      have h1 : s1.Canon := modCore_canon h
      exact next_canon (canon_of_mem rfl h1)

theorem execTaskStart_canon {core} (h : s.Canon) : NextCanon (execTaskStart core s) := by
  unfold execTaskStart
  extract_lets q
  split
  · exact h
  · split
    · exact h
    · extract_lets s1
      have h1 : s1.Canon := modCore_canon h
      refine .ite (next_canon (canon_of_mem rfl h1)) ?_
      split
      · trivial
      · exact next_canon (setBit_canon h)
      · next hs =>
        have h2 := (startTask_canon h).ok hs _ rfl
        exact taken_canon h (next_canon (setField_canon (modCore_canon h2)))

theorem execTaskEnd_canon {team} (h : s.Canon) : NextCanon (execTaskEnd team s) := by
  unfold execTaskEnd
  extract_lets x ts remove r
  have hr {s} (h : State.Canon s) : (remove s).Canon := foldl_canon (fun _ _ h => removeTeam_canon h) _ h
  have h1 : Yields State.Canon r := by
    unfold r
    split
    · exact endOfLaunchTask_canon (fun _ h => hr h) h
    · exact joinEnd_canon (hr (endDomain_canon h))
  exact .ite h (taken_canon h (outcomeOf_canon h1))

theorem countSteal_canon {core} (h : s.Canon) : (countSteal s core).Canon := setField_canon h

theorem execCoreSteal_canon {core} (h : s.Canon) : NextCanon (execCoreSteal core s) := by
  unfold execCoreSteal
  refine .ite h ?_
  split
  · exact h
  · split
    · exact h
    · split
      · exact h
      · exact next_canon (countSteal_canon (modCore_canon (modCore_canon h)))

theorem setJoins_canon {x} (h : s.Canon) : ({ s with joins := x } : State).Canon := canon_of_mem rfl h

theorem execJoinAppend_canon {j} (h : s.Canon) : NextCanon (execJoinAppend j s) := by
  unfold execJoinAppend
  split
  · exact h
  · extract_lets rest
    have hr : rest.Canon := setJoins_canon h
    exact .ite h (.ite (next_canon (refuseRec_canon hr)) (.ite h (taken_canon h (outcomeOf_canon (qAppend_canon hr)))))

theorem execJoinAppendTimeout_canon {j} (h : s.Canon) : NextCanon (execJoinAppendTimeout j s) := by
  unfold execJoinAppendTimeout
  split
  · exact h
  · exact .ite h (next_canon (refuseRec_canon (setJoins_canon h)))

/-! ## Redundant pairs, watchdogs and reversal -/

theorem execSegmentCompare_canon {k} (h : s.Canon) : NextCanon (execSegmentCompare k s) := by
  unfold execSegmentCompare
  refine .ite h ?_
  split
  refine .ite h ?_
  split
  · exact next_canon (ite_canon (releaseSegment_canon h) (mismatch_canon h))
  · exact h

theorem execRebuildComplete_canon {cl} (h : s.Canon) : NextCanon (execRebuildComplete cl s) := .ite h (next_canon (modCluster_canon h))

theorem execWatchdogWeft_canon {k} (h : s.Canon) : NextCanon (execWatchdogWeft k s) := .ite (next_canon (rebuild_canon h)) h

theorem execWatchdogCluster_canon {cl} (h : s.Canon) : NextCanon (execWatchdogCluster cl s) :=
  .ite h (.ite (next_canon (resetCmdp_canon h)) (next_canon (rebuild_canon h)))

theorem execWatchdogCmdp_canon {cp} (h : s.Canon) : NextCanon (execWatchdogCmdp cp s) := .ite h (next_canon (resetCmdp_canon h))

theorem execWatchdogHang_canon {k} (h : s.Canon) : NextCanon (execWatchdogHang k s) := .ite h (next_canon (parkCause_canon h))

theorem execReverseStep_canon {k} (h : s.Canon) : NextCanon (execReverseStep k s) := by
  unfold execReverseStep
  extract_lets f target r
  have hr : Yields State.Canon r := by
    refine .ite (endWalk_canon h) (.ite trivial ?_)
    split
    · trivial
    · split
      · trivial
      · next hs => exact modWeft_canon ((undoInstr_canon h).ok hs)
  clear_value r
  have hw : Yields State.Canon (match r with | .error .irrev => stopWalk s k | r => r) := by
    split
    · exact stopWalk_canon h
    · exact hr
  refine .ite h (taken_canon h ?_)
  split
  · next hs => exact hw.ok hs
  · exact h
  · exact h
  · exact queueReserve_canon h
  · trivial
  · exact next_canon (parkCause_canon h)

/-! ## Caches, frames and registers -/

theorem execCbroleWrite_canon {core v} (h : s.Canon) : NextCanon (execCbroleWrite core v s) :=
  .ite h (.ite (next_canon (setBit_canon h)) (next_canon (modCore_canon (setBit_canon h))))

theorem execBankDrainDone_canon {core} (h : s.Canon) : NextCanon (execBankDrainDone core s) := by
  unfold execBankDrainDone
  split
  · exact h
  · extract_lets old left frames
    refine event_canon h ((drainFrames_canon h).map fun s h => ite_canon h ?_)
    exact noteFree_canon (setField_canon (setReg_canon _ _ (modCore_canon (ite_canon h (dropL1_canon _ h)))))

theorem execFrameReservation_canon {team pages} (h : s.Canon) : NextCanon (execFrameReservation team pages s) := by
  unfold execFrameReservation
  extract_lets x Ps bad waits s1
  have h1 : s1.Canon := ite_canon h (queueReserve_canon h)
  exact .ite h (event_canon h (grantCores_canon h1))

theorem execSpadPageFill_canon {team page} (h : s.Canon) : NextCanon (execSpadPageFill team page s) := by
  unfold execSpadPageFill
  extract_lets x ready
  exact .ite h (event_canon h ((bringPage_canon h).map fun _ h => swapOpportunity_canon h))

theorem execSpadEviction_canon {team page} (h : s.Canon) : NextCanon (execSpadEviction team page s) := by
  unfold execSpadEviction
  split
  · exact h
  · refine .ite h ?_
    split
    · exact next_canon (softError_canon h)
    · exact event_canon h (evict_canon h)

theorem execRegisterLineFill_canon {k line} (h : s.Canon) : NextCanon (execRegisterLineFill k line s) := by
  unfold execRegisterLineFill
  extract_lets pa
  refine .ite h ?_
  split
  · exact next_canon (softError_canon h)
  · exact .ite (taken_canon h (next_canon (swapOpportunity_canon (homeRead_canon _ _ h)))) h

theorem execIcacheMissFill_canon {core ctx line} (h : s.Canon) : NextCanon (execIcacheMissFill core ctx line s) := by
  unfold execIcacheMissFill
  extract_lets va had
  refine .ite h ?_
  split
  · exact h
  · next hs =>
    have h1 := (fillCode_canon h).ok hs
    exact taken_canon h (next_canon (swapOpportunity_canon (setField_canon h1)))

theorem execSweeperTick_canon (h : s.Canon) : NextCanon (execSweeperTick s) := by
  unfold execSweeperTick
  extract_lets s1
  have h1 : s1.Canon := ite_canon (setBit_canon h) h
  exact .ite h (.ite h1 (taken_canon h (outcomeOf_canon (sweepFrames_canon h1))))

theorem execPatrolScrub_canon (h : s.Canon) : NextCanon (execPatrolScrub s) := by
  unfold execPatrolScrub
  extract_lets c s1
  have h1 : s1.Canon := readCodeword_canon _ h
  exact .ite h (.ite (next_canon (canon_of_mem rfl h1)) (next_canon (setField_canon (canon_of_mem rfl h1))))

theorem execTranslationConfigWrite_canon {off v} (h : s.Canon) : NextCanon (execTranslationConfigWrite off v s) := by
  unfold execTranslationConfigWrite
  extract_lets guarded
  have hg {m} : (guarded m).Canon := ite_canon (setBit_canon h) (putMasked_canon h)
  clear_value guarded
  refine next_canon ?_
  split
  · exact hg
  · exact hg
  · exact hg
  · exact putMasked_canon h
  · exact putMasked_canon h
  · exact putMasked_canon h
  · exact clearOnes_canon h
  · exact h

/-! ## Repair -/

theorem execMpcstatClr_canon {n v} (h : s.Canon) : NextCanon (execMpcstatClr n v s) := by
  unfold execMpcstatClr
  extract_lets s1
  have h1 : s1.Canon := clearOnes_canon (putMasked_canon h)
  exact .ite h (next_canon (ite_canon (setField_canon h1) h1))

theorem execMrepairPend_canon {pcn} (h : s.Canon) : NextCanon (execMrepairPend pcn s) :=
  .ite h (next_canon (raise_canon _ (setBit_canon (setField_canon h))))

theorem execMrepairGrant_canon {v} (h : s.Canon) : NextCanon (execMrepairGrant v s) := by
  unfold execMrepairGrant
  extract_lets s1 s2
  have h1 : s1.Canon := clearOnes_canon h
  have h2 : s2.Canon := putMasked_canon h1
  exact .ite h1 (.ite h2 (.ite (next_canon (refuseRepair_canon h2)) (.ite (next_canon (refuseRepair_canon h2))
    (next_canon (beginRepair_canon h2)))))

theorem execRepairCopyDone_canon (h : s.Canon) : NextCanon (execRepairCopyDone s) := by
  unfold execRepairCopyDone
  extract_lets s0 s1 s2 s3
  have h1 : s1.Canon := withdraw_canon _ (emptyCaches_canon h)
  have h2 : s2.Canon := raise_canon _ (ite_canon h1 (canon_of_mem rfl h1))
  have h3 : s3.Canon := setBit_canon (setField_canon (setField_canon h2))
  exact .ite h (taken_canon h (outcomeOf_canon (serveHeld_canon (raise_canon _ h3))))

/-! ## The host and the module -/

theorem execMsixVectorUnmask_canon {port vec} (h : s.Canon) : NextCanon (execMsixVectorUnmask port vec s) :=
  .ite h (next_canon (sendPending_canon (setField_canon h)))

theorem execModidWrite_canon {v} (h : s.Canon) : NextCanon (execModidWrite v s) := .ite h (next_canon (putMasked_canon h))

theorem execRegisterWrite_canon {off v} (h : s.Canon) : NextCanon (execRegisterWrite off v s) :=
  .ite (execTranslationConfigWrite_canon h) <| .ite (execMrepairGrant_canon h) <| .ite (execMpcstatClr_canon h) <|
  .ite (execImagePoolWrite_canon h) <| .ite (execFqresume_canon h) <| .ite (execFqdiscard_canon h) <| .ite (execCtxstop_canon h) <|
  .ite (execCtxgo_canon h) <| .ite (execModidWrite_canon h) <| .ite (execCbroleWrite_canon h) <| .ite (execQcfgWrite_canon h) <|
  .ite (execQbaseWrite_canon h) <| .ite (execQpost_canon h) <| .ite (next_canon (sendWaiting_canon (plainWrite_canon h))) <|
  next_canon (plainWrite_canon h)

theorem execApertureRead_canon {off bytes} (h : s.Canon) : NextCanon (execApertureRead off bytes s) :=
  .ite h (outcomeOf_canon (hostAccess_canon h))

theorem execApertureWrite_canon {off bytes v} (h : s.Canon) : NextCanon (execApertureWrite off bytes v s) :=
  .ite h (outcomeOf_canon (hostAccess_canon h))

theorem execMsemTake_canon {port} (h : s.Canon) : NextCanon (execMsemTake port s) := .ite (next_canon (setField_canon h)) h

theorem execMsemGive_canon {port} (h : s.Canon) : NextCanon (execMsemGive port s) := next_canon (ite_canon (freeMsem_canon h) h)

theorem execPortLinkDown_canon {port} (h : s.Canon) : NextCanon (execPortLinkDown port s) :=
  .ite (next_canon (freeMsem_canon (setField_canon h))) h

theorem execModuleReset_canon : NextCanon (execModuleReset s) := next_canon (bringUp_canon clearModule_canon)

theorem execMreset_canon {port v} (h : s.Canon) : NextCanon (execMreset port v s) :=
  command_canon (fun _ h => ite_canon (bringUp_canon clearModule_canon) h) h

theorem execFwupd_canon {port v} (h : s.Canon) : NextCanon (execFwupd port v s) := by
  obtain ⟨f, hf, hc⟩ : ∃ f, readImage = f ∧ ∀ {s a}, State.Canon s → (f s a).2.Canon := ⟨_, rfl, readImage_canon⟩
  unfold execFwupd
  rw [hf]
  refine taken_canon h (command_canon (fun s h => ?_) h)
  split
  next img t hr =>
  have h1 := snd_canon (hc h) hr
  split
  · exact canon_of_mem rfl h1
  · exact h1

theorem execAttctlGo_canon {port} (h : s.Canon) : NextCanon (execAttctlGo port s) := by
  refine command_canon (fun s h => ?_) h
  have h1 : (s.setBit attctl 1).Canon := setBit_canon h
  exact ite_canon h (canon_of_mem rfl h1)

theorem setIdent_canon {x} (h : s.Canon) : ({ s with ident := x } : State).Canon := canon_of_mem rfl h

theorem execAttestDone_canon (h : s.Canon) : NextCanon (execAttestDone s) :=
  .ite h (next_canon (setBit_canon (setField_canon (setIdent_canon h))))

theorem execDbgrev2_canon {port v} (h : s.Canon) : NextCanon (execDbgrev2 port v s) :=
  taken_canon h (command_canon (fun _ h => debugReverse_canon h) h)

theorem execThermalTrip_canon (h : s.Canon) : NextCanon (execThermalTrip s) := next_canon (canon_of_mem rfl h)

theorem execManagementSequencerLoss_canon (h : s.Canon) : NextCanon (execManagementSequencerLoss s) := next_canon (goViral_canon _ _ h)

/-! ## Every instruction and event -/

theorem retBody_canon : BodyCanon retBody := fun _ _ h => jumpTo_canon _ _ h

theorem jmprBody_canon : BodyCanon jmprBody := fun _ _ h => jumpTo_canon _ _ h

theorem settledIssue_canon {k i body} (hb : BodyCanon body) (h : s.Canon) : NextCanon (settled k (issue i body s)) :=
  settled_next (issue_canon hb h)

theorem idleBody_canon : BodyCanon fun _ s => .ok { s := s } := fun _ _ h => eff_canon h

theorem yieldBody_canon : BodyCanon fun c s => .ok { s := s.swapOpportunity (s.coreOf c.k) } := fun _ _ h =>
  eff_canon (swapOpportunity_canon h)

theorem issueHalves_canon {fn p t u d a b f} (h : s.Canon) : NextCanon (issueHalves fn p t u d a b f s) := by
  unfold issueHalves
  extract_lets q
  exact issueF_canon h

theorem issueHMinMax_canon {fn p t u d a b} (h : s.Canon) : NextCanon (issueHMinMax fn p t u d a b s) := by
  unfold issueHMinMax
  extract_lets q
  exact issueF_canon h

theorem execFcopysign_canon {p t u d a b} (h : s.Canon) : NextCanon (execFcopysign p t u d a b s) := by
  unfold execFcopysign
  extract_lets m
  exact issueF_canon h

theorem execFabs_canon {p t u d a} (h : s.Canon) : NextCanon (execFabs p t u d a s) := by
  unfold execFabs
  extract_lets m
  exact issueF_canon h

theorem execFneg_canon {p t u d a} (h : s.Canon) : NextCanon (execFneg p t u d a s) := by
  unfold execFneg
  extract_lets m
  exact issueF_canon h

theorem execCtxsv_canon {p} (h : s.Canon) : NextCanon (execCtxsv p s) := by
  unfold execCtxsv
  with_reducible exact issueMem_canon ctxsvBody_canon h

theorem issueFence_canon {fn p sc} (h : s.Canon) : NextCanon (issueFence fn p sc s) := by
  unfold issueFence
  with_reducible exact issue_canon fenceBody_canon h

theorem issueBar_canon {fn p a} (h : s.Canon) : NextCanon (issueBar fn p a s) := by
  unfold issueBar
  with_reducible exact issue_canon barBody_canon h

theorem execPeriodicSwapOpportunity_canon {core} (h : s.Canon) : NextCanon (execPeriodicSwapOpportunity core s) :=
  next_canon (swapOpportunity_canon h)

theorem execSavedRequestLapse_canon {peer id} (h : s.Canon) : NextCanon (execSavedRequestLapse peer id s) := next_canon (dropSaved_canon h)

theorem execPreempt_canon {team} (h : s.Canon) : NextCanon (execPreempt team s) := next_canon (preemptTeam_canon h)

theorem execClusterRebuild_canon {cl} (h : s.Canon) : NextCanon (execClusterRebuild cl s) := next_canon (rebuild_canon h)

theorem execPowerCapExceeded_canon (h : s.Canon) : NextCanon (execPowerCapExceeded s) := next_canon h

/-- Every instruction and every event of the model keeps memory canonical. -/
theorem exec_canon (i : Instr) : s.Canon → NextCanon (exec i s) := by
  cases i
  all_goals unfold exec
  case illegalEncoding | nop => exact issue_canon idleBody_canon
  case add | sub | and | or | xor | andn | minI | maxI | shl | shr | sar | rol | ror | minN | maxN | adif | mul | mulhI | mulhN | divI |
    divN | remI | remN | mad | clz | popc | brev | sel | mov | bfx | addi | andi | ori | xori | shli | shri | sari | roli | movi | movhi |
    addI64 | subI64 | andI64 | orI64 | xorI64 | shlI64 | shrI64 | sarI64 | mulI64 | mulhI64 | mulhN64 | lea | addiI64 =>
    exact issueAlu_canon
  case addx | subx | xorx | rolx | rorx | negx | notx | mulx | addxi | xorxi | addxI64 | subxI64 | xorxI64 => exact issueInv_canon
  case swap | cswap | swapI64 => exact issue_canon swapEffect_canon
  case cmpEq | cmpNe | cmpLtI | cmpLeI | cmpLtN | cmpLeN | cmpTst => exact issueCmp_canon
  case lpull | lbcast | lxor | lup | ldown | lrot => exact issue_canon pullLanes_canon
  case lpush => exact issue_canon pushLanes_canon
  case lpullXch | lpushXch => exact issue_canon xchLanes_canon
  case ballot | any | all | mlead => exact issue_canon voteMask_canon
  case matchLanes | mrank | pfxpop | scani | scanx => exact issue_canon voteReg_canon
  case radd | rmin | rmax | rand | rorRed | rxor => exact issue_canon redReg_canon
  case mand | mor | mxor | mnot | mmov | mset => exact issue_canon maskOp_canon
  case mpopc | mffs => exact issue_canon maskNum_canon
  case fadd | fsub | fmul | fdiv | fmin | fmax | ffma | fsqrt | frsq | frec | frnd | fclass | fscale | cvt => exact issueF_canon
  case fexp | fexp2 | flog | flog2 | ferf | ferfc | fncdf | ftanh => exact issueFn_canon
  case fcmpEq | fcmpNe | fcmpLt | fcmpLe | fcmpGt | fcmpGe | fcmpUn | fcmpOrd => exact issueFCmp_canon
  case cvtPk2 | cvtPk4 | cvtPk8 => exact issue_canon packBody_canon
  case unpk2 | unpk4 | unpk8 => exact issue_canon unpackBody_canon
  case ld | lda => exact issueMem_canon globalLoad_canon
  case st => exact issue_canon globalStore_canon
  case lds => exact issueMem_canon spadLoad_canon
  case sts => exact issueMem_canon spadStore_canon
  case xchg => exact issueMem_canon globalXchg_canon
  case xchgs => exact issueMem_canon spadXchg_canon
  case stl => exact issue_canon stlBody_canon
  case cflush | cinv | cclean => exact issueMem_canon cmoBody_canon
  case pref | pref1 | ipref => exact issueMem_canon prefBody_canon
  case spevict => exact issueMem_canon spevictBody_canon
  case aaddI | aaddF | aminI | amaxI | aand | aor | axor | axch | acasB32 | acasB64 => exact issueMem_canon globalAtomic_canon
  case aaddsI32 | aaddsF32 | aminsI | amaxsI | aands | aors | axors | axchs => exact issueMem_canon spadAtomic_canon
  case daddI32 | daddF32 | daddF64 | dminI | dmaxI | daddI64 => exact issueMem_canon datomBody_canon
  case ratomAdd64 | ratomCas64 | ratomXch64 | ratomRetry | rldB64 | rstB64 | rldB128 | rstB128 => exact issue_canon remoteBody_canon
  case bcopyG2s | bcopyS2g | bcopyG2g | bcopyS2s | bcopyV2s | bcopyS2v => exact issueMem_canon bcopyBody_canon
  case bbInit | bbExpect | bbArrive => exact issueMem_canon bbBody_canon
  case bbWait => exact issueMem_canon bbWaitBody_canon
  case bbTest => exact issueMem_canon bbTestBody_canon
  case bbInval => exact issueMem_canon bbInvalBody_canon
  case tadd | tmul | tfma | tmax | tcvt | texp | tfill | tcopy => exact issueSweep_canon
  case tfetch => exact issueMem_canon tfetchBody_canon
  case tunpin => exact issue_canon tunpinBody_canon
  case mma | mmaG => exact issueMma_canon
  case accZero => exact issueMem_canon accZeroBody_canon
  case accRd => exact issueMem_canon accRdBody_canon
  case accWr => exact issueMem_canon accWrBody_canon
  case accSt => exact issueMem_canon accStBody_canon
  case accLd => exact issueMem_canon accLdBody_canon
  case sclLd => exact issueMem_canon sclLdBody_canon
  case sclRd => exact issueMem_canon sclRdBody_canon
  case join => exact issue_canon joinBody_canon
  case yield => exact issue_canon yieldBody_canon
  case waitf => exact issue_canon waitfBody_canon
  case brk | trap => exact issue_canon breakBody_canon
  case win => exact issue_canon winBody_canon
  case regld => exact issue_canon regldBody_canon
  case regst => exact issue_canon regstBody_canon
  case rev => exact issue_canon revBody_canon
  case commit => exact issue_canon commitBody_canon
  case ckpt => exact issue_canon ckptBody_canon
  case hmode => exact issue_canon hmodeBody_canon
  case cfrd => exact issue_canon cfrdBody_canon
  case qput | qputNb => exact issueMem_canon qputBody_canon
  case qget | qgetNb => exact issueMem_canon qgetBody_canon
  case spawn => exact issueMem_canon spawnBody_canon
  case tdone => exact issueMem_canon tdoneBody_canon
  case steal => exact issueMem_canon stealBody_canon
  case qstat => exact issue_canon qstatBody_canon
  case dsync => exact issue_canon dsyncBody_canon
  case flushpt => exact issue_canon flushptBody_canon
  case dclk => exact issue_canon dclkBody_canon
  case srd => exact issue_canon srdBody_canon
  case swr => exact issue_canon swrBody_canon
  case eret => exact issue_canon eretBody_canon
  case fqpark => exact issue_canon fqparkBody_canon
  case flagsClr => exact issue_canon flagsClrBody_canon
  case pairsig => exact issue_canon pairsigBody_canon
  case hadd | hsub | hmul | hfma => exact issueHalves_canon
  case hmin | hmax => exact issueHMinMax_canon
  case fenceAcq | fenceRel | fenceAr | fenceSc => exact issueFence_canon
  case barT | barP | barArrive | barWait => exact issueBar_canon
  case clauseStart => exact execClauseStart_canon
  case flagACompletion => exact execFlagACompletion_canon
  case storeEntry => exact execStoreEntry_canon
  case storeOrderPoint => exact execStoreOrderPoint_canon
  case fenceComplete => exact execFenceComplete_canon
  case functionResult => exact execFunctionResult_canon
  case waitfRelease => exact execWaitfRelease_canon
  case matrixSwap => exact execMatrixSwap_canon
  case mmaComplete => exact execMmaComplete_canon
  case copyAccept => exact execCopyAccept_canon
  case copyElementLand => exact execCopyElementLand_canon
  case tsweepComplete => exact execTsweepComplete_canon
  case tfetchComplete => exact execTfetchComplete_canon
  case accStComplete => exact execAccStComplete_canon
  case accLdComplete => exact execAccLdComplete_canon
  case sclLdComplete => exact execSclLdComplete_canon
  case tfetchRerunComplete => exact execTfetchRerunComplete_canon
  case responseLost => exact execResponseLost_canon
  case keptValueExpiry => exact execKeptValueExpiry_canon
  case rds | rdx | upg | wbd => exact request_canon
  case fwds | fwdx | inv | dataS | dataE | dataM | ackM | wback => exact messageTo_canon
  case fwdack | nodata | invack => exact messageFrom_canon
  case sweeperTick => exact execSweeperTick_canon
  case patrolScrub => exact execPatrolScrub_canon
  case mrepairPend => exact execMrepairPend_canon
  case mrepairGrant => exact execMrepairGrant_canon
  case repairCopyDone => exact execRepairCopyDone_canon
  case mpcstatClr => exact execMpcstatClr_canon
  case cbroleWrite => exact execCbroleWrite_canon
  case bankDrainDone => exact execBankDrainDone_canon
  case frameReservation => exact execFrameReservation_canon
  case spadPageFill => exact execSpadPageFill_canon
  case spadEviction => exact execSpadEviction_canon
  case registerLineFill => exact execRegisterLineFill_canon
  case icacheMissFill => exact execIcacheMissFill_canon
  case reverseStep => exact execReverseStep_canon
  case copyStopTimeout => exact execCopyStopTimeout_canon
  case saveComplete => exact execSaveComplete_canon
  case teamRestore => exact execTeamRestore_canon
  case cpTakeRecord => exact execCpTakeRecord_canon
  case launchExpand => exact execLaunchExpand_canon
  case taskDeal => exact execTaskDeal_canon
  case taskStart => exact execTaskStart_canon
  case coreSteal => exact execCoreSteal_canon
  case taskEnd => exact execTaskEnd_canon
  case joinAppend => exact execJoinAppend_canon
  case joinAppendTimeout => exact execJoinAppendTimeout_canon
  case queueHoldRelease => exact execQueueHoldRelease_canon
  case qputTimeout => exact execQputTimeout_canon
  case domainAdmit => exact execDomainAdmit_canon
  case dsyncGrant => exact execDsyncGrant_canon
  case turnClose => exact execTurnClose_canon
  case dclkRelease => exact execDclkRelease_canon
  case flushPoint => exact execFlushPoint_canon
  case segmentCompare => exact execSegmentCompare_canon
  case rebuildComplete => exact execRebuildComplete_canon
  case watchdogWeft => exact execWatchdogWeft_canon
  case watchdogCluster => exact execWatchdogCluster_canon
  case watchdogCmdp => exact execWatchdogCmdp_canon
  case watchdogHang => exact execWatchdogHang_canon
  case faultEntryWrite => exact execFaultEntryWrite_canon
  case fqHeadPoll => exact execFqHeadPoll_canon
  case faultReportDrop => exact execFaultReportDrop_canon
  case fqresume => exact execFqresume_canon
  case fqdiscard => exact execFqdiscard_canon
  case ctxstop => exact execCtxstop_canon
  case ctxgo => exact execCtxgo_canon
  case translationConfigWrite => exact execTranslationConfigWrite_canon
  case imagePoolWrite => exact execImagePoolWrite_canon
  case qcfgWrite => exact execQcfgWrite_canon
  case qbaseWrite => exact execQbaseWrite_canon
  case qpost => exact execQpost_canon
  case msemTake => exact execMsemTake_canon
  case msemGive => exact execMsemGive_canon
  case mreset => exact execMreset_canon
  case fwupd => exact execFwupd_canon
  case attctlGo => exact execAttctlGo_canon
  case attestDone => exact execAttestDone_canon
  case dbgrev2 => exact execDbgrev2_canon
  case modidWrite => exact execModidWrite_canon
  case registerWrite => exact execRegisterWrite_canon
  case apertureRead => exact execApertureRead_canon
  case apertureWrite => exact execApertureWrite_canon
  case portLinkDown => exact execPortLinkDown_canon
  case moduleReset => exact fun _ => execModuleReset_canon
  case thermalTrip => exact execThermalTrip_canon
  case rld8 | rld16 | rst8 | rst16 | raddFlit | rcas | rxch => exact receiveHost_canon
  case rdata | rack | rerr => exact receiveAnswer_canon
  case idle => exact execIdle_canon
  case nak => exact execNak_canon
  case train => exact execTrain_canon
  case linkFail => exact execLinkFail_canon
  case mmaOperandReadDone => exact execMmaOperandReadDone_canon
  case flitCheckFailure => exact execFlitCheckFailure_canon
  case unknownFlitType => exact execUnknownFlitType_canon
  case msixVectorUnmask => exact execMsixVectorUnmask_canon
  case managementSequencerLoss => exact execManagementSequencerLoss_canon
  case brAlways | brAny | brAll | brNone | brDiv => exact settledIssue_canon brBody_canon
  case call => exact settledIssue_canon callBody_canon
  case exit => exact settledIssue_canon exitBody_canon
  case ret => exact settledIssue_canon retBody_canon
  case jmpr => exact settledIssue_canon jmprBody_canon
  case periodicSwapOpportunity => exact execPeriodicSwapOpportunity_canon
  case savedRequestLapse => exact execSavedRequestLapse_canon
  case preempt => exact execPreempt_canon
  case clusterRebuild => exact execClusterRebuild_canon
  case powerCapExceeded => exact execPowerCapExceeded_canon
  case fcopysign => exact execFcopysign_canon
  case fabs => exact execFabs_canon
  case fneg => exact execFneg_canon
  case ctxsv => exact execCtxsv_canon

theorem execWord_canon {p b} (h : s.Canon) : NextCanon (execWord p b s) := by
  unfold execWord
  split
  · exact exec_canon _ h
  · exact exec_canon _ h

/-! ## What a step does (02_threads, 03_encoding, 16_scheduling) -/

theorem issueClause_canon {va} (h : s.Canon) : NextCanon (issueClause va s) := by
  unfold issueClause
  extract_lets k w
  refine .ite (next_canon h) ?_
  split
  · exact next_canon (takeImprecise_canon h)
  · exact next_canon (takeTrap_canon h)

theorem fetchFault_canon {k e va} (h : s.Canon) : NextCanon (fetchFault s k e va) := by
  unfold fetchFault
  extract_lets w
  refine .ite (next_canon h) ?_
  split
  · exact next_canon (takeImprecise_canon h)
  · split
    · exact next_canon (parkCause_canon h)
    · exact next_canon (takeTrap_canon h)

theorem withWord_canon {k va f} (hf : ∀ w, NextCanon (f w)) (h : s.Canon) : NextCanon (withWord s k va f) := by
  unfold withWord
  split
  · exact fetchFault_canon h
  · exact .ite (hf _) (exec_canon _ h)

theorem fallThrough_canon {k} (h : s.Canon) : NextCanon (fallThrough s k) := .ite (next_canon h) (exec_canon _ (setWeft_canon h))

theorem issueBody_canon {k} (h : s.Canon) : NextCanon (issueBody s k) := by
  unfold issueBody
  extract_lets w pc
  refine withWord_canon (fun a => ?_) h
  refine .ite (fallThrough_canon h) (.ite (issueClause_canon h) (.ite ?_ (execWord_canon h)))
  refine withWord_canon (fun b => ?_) h
  exact .ite (issueClause_canon h) (.ite (issueClause_canon h) (execWord_canon h))

theorem issueWord_canon {k} (h : s.Canon) : NextCanon (issueWord s k) := by
  unfold issueWord
  extract_lets w
  refine .ite (issueBody_canon h) ?_
  split
  · exact exec_canon _ h
  · exact .ite (exec_canon _ h) (exec_canon _ h)

theorem setStalled_canon {x} (h : s.Canon) : ({ s with stalled := x } : State).Canon := canon_of_mem rfl h

theorem afterIssue_canon {k t} (ht : State.Canon t) : (afterIssue s k t).Canon := by
  unfold afterIssue
  extract_lets t1 u
  have h1 : t1.Canon := ite_canon (setStalled_canon ht) (setStalled_canon ht)
  clear_value t1
  have hu : u.Canon := by
    refine ite_canon ?_ h1
    cases s.nextForm k with
    | none => exact h1
    | some x => exact noteIssue_canon h1
  clear_value u
  exact ite_canon (swapOpportunity_canon hu) hu

theorem inPlace_canon {k} (h : s.Canon) : ∀ t ∈ s.inPlace k, t.Canon := by
  intro t ht
  unfold State.inPlace at ht
  extract_lets core at ht
  split at ht
  · cases ht; exact h
  · split at ht
    · cases ht; exact activate_canon h
    · cases ht

theorem issueStep_canon {k} (h : s.Canon) : NextCanon (issueStep k s) := by
  have h1 : ({ s with cur := k } : State).Canon := canon_of_mem rfl h
  unfold issueStep
  split
  · exact next_canon h
  · next t ht =>
    have h2 : NextCanon (issueWord t k) := issueWord_canon (inPlace_canon h1 t ht)
    split
    · next u hu =>
      rw [hu] at h2
      exact next_canon (afterIssue_canon h2)
    · trivial
    · trivial

theorem firstDue_canon (h : s.Canon) : ∀ is, ∀ o ∈ firstDue s is, NextCanon o
  | [] => fun _ ho => nomatch ho
  | i :: rest => by
    have h1 : NextCanon (exec i { s with stalled := [] }) := exec_canon i (setStalled_canon h)
    intro o ho
    unfold firstDue at ho
    split at ho
    · next t ht =>
      rw [ht] at h1
      split at ho
      · exact firstDue_canon h rest o ho
      · cases ho; exact h1
    · cases ho; exact h1

theorem serveWaiting_canon (h : s.Canon) : ∀ o ∈ serveWaiting s, NextCanon o := by
  have h1 : Yields State.Canon s.serveHeld := serveHeld_canon h
  intro o ho
  unfold serveWaiting at ho
  split at ho
  · cases ho
  · split at ho
    · next hs =>
      have h2 := h1.ok hs
      split at ho
      · cases ho; exact next_canon (setStalled_canon h2)
      · cases ho
    · cases ho; trivial

theorem readySet_canon {core} (h : s.Canon) : (readySet s core).Canon := by
  unfold readySet
  extract_lets s1
  have h1 : s1.Canon := fillActive_canon h
  exact ite_canon h1 (swapOpportunity_canon h1)

theorem chooseIssue_canon (h : s.Canon) : ∀ cs, ∀ x ∈ chooseIssue s cs, x.2.Canon
  | [] => fun _ hx => nomatch hx
  | c :: rest => by
    intro x hx
    unfold chooseIssue at hx
    split at hx
    · next hp => cases hx; exact pickIssue_canon (readySet_canon h) _ hp
    · exact chooseIssue_canon h rest x hx

theorem autoStep_canon (h : s.Canon) : NextCanon (autoStep s) := by
  unfold autoStep
  refine .ite (next_canon h) (.ite (exec_canon _ h) ?_)
  split
  · next o ho =>
    cases hw : serveWaiting s with
    | some x =>
      rw [hw] at ho
      cases ho
      exact serveWaiting_canon h _ hw
    | none =>
      rw [hw] at ho
      exact firstDue_canon h _ _ ho
  · split
    · next hc => exact issueStep_canon (chooseIssue_canon h _ _ hc)
    · cases hd : firstDue s (stealers s) with
      | none => exact next_canon h
      | some o => exact firstDue_canon h _ _ hd

theorem moveOn_canon (h : s.Canon) : NextCanon (moveOn s) := by
  unfold moveOn
  split
  · exact autoStep_canon h
  · exact issueStep_canon (canon_of_mem rfl h)
  · extract_lets s1
    have h1 : s1.Canon := canon_of_mem rfl h
    exact .ite (exec_canon _ h1) (next_canon h1)

end

/-- Settles O2: a step is an issue, an event or a choice of the model among these, and each of them writes memory, if at all, only by
operations that keep the canonical form (`moveOn_canon`, which rests on `exec_canon`). -/
theorem memoryStaysCanonical : Obligations.MemoryStaysCanonical := by
  unfold Obligations.MemoryStaysCanonical
  intro s t h hst
  have hn : NextCanon (step s) := moveOn_canon h
  rw [hst] at hn
  exact hn

end Sys2Proof.Machine

/-!
# Threads

What O7, O14, O20, O22, O35 and O42 need, in the order of their definitions: a step and its issue, then the bodies of instructions.
-/

namespace Sys2Proof.Machine

/-- Between two states nothing differs but the scheduling of wefts, the clock of cores and the list of interlocked wefts
(02_threads R26, R41 to R43). -/
structure OnlySchedule (t u : State) : Prop where
  wefts : ∀ j, u.weft j = { t.weft j with sched := (u.weft j).sched }
  cores : ∀ c, u.core c = { t.core c with round := (u.core c).round, busy := (u.core c).busy }
  rest  : u = { t with wefts := u.wefts, cores := u.cores, stalled := u.stalled }

namespace OnlySchedule

variable {s t u : State}

theorem refl (s : State) : OnlySchedule s s := ⟨fun _ => rfl, fun _ => rfl, rfl⟩

theorem trans (h : OnlySchedule s t) (k : OnlySchedule t u) : OnlySchedule s u where
  wefts j := by rw [k.wefts j, h.wefts j]
  cores c := by rw [k.cores c, h.cores c]
  rest := by rw [k.rest, h.rest]

theorem ite {c : Prop} [Decidable c] (ht : OnlySchedule s t) (hu : OnlySchedule s u) : OnlySchedule s (if c then t else u) := by
  split
  · exact ht
  · exact hu

theorem foldl {α : Type} {f : State → α → State} (hf : ∀ s a, OnlySchedule s (f s a)) : ∀ (l : List α) (s : State), OnlySchedule s (l.foldl f s)
  | [], s => refl s
  | a :: l, s => (hf s a).trans (foldl hf l (f s a))

theorem setStalled (s : State) (x : List Nat) : OnlySchedule s { s with stalled := x } := ⟨fun _ => rfl, fun _ => rfl, rfl⟩

theorem setSched (s : State) (k : Nat) (x : Sched) : OnlySchedule s (s.setWeft k { s.weft k with sched := x }) where
  wefts j := by
    rw [State.weft_setWeft]
    split
    · next h => rw [h]
    · rfl
  cores _ := rfl
  rest := rfl

theorem setClock (s : State) (c : Nat) (r : List (Nat × Nat)) (b : Nat × Nat) :
    OnlySchedule s (s.setCore c { s.core c with round := r, busy := b }) where
  wefts _ := rfl
  cores j := by
    rw [State.core_setCore]
    split
    · next h => rw [h]
    · rfl
  rest := rfl

theorem activate (s : State) (core k : Nat) : OnlySchedule s (s.activate core k) := setSched s k _

theorem swapIn (s : State) (core p : Nat) : OnlySchedule s (s.swapIn core p) := by
  unfold State.swapIn
  dsimp only
  split
  · exact refl s
  · exact (setSched s _ _).trans (activate _ core p)

theorem swapOpportunity (s : State) (core : Nat) : OnlySchedule s (s.swapOpportunity core) :=
  ((foldl (fun s k => activate s core k) _ s).trans (foldl (fun s p => swapIn s core p) _ _)).trans
    (foldl (fun s k => setSched s k _) _ _)

theorem nextClock (s : State) (core : Nat) : OnlySchedule s (s.nextClock core) :=
  (foldl (fun s k => setSched s k _) _ s).trans (setClock _ core _ _)

theorem takeUnit (core k : Nat) (x : Layout) : ∀ (n : Nat) (s : State), OnlySchedule s (takeUnit core k x n s).2
  | 0, s => refl s
  | n + 1, s => by
    unfold Machine.takeUnit
    split
    · exact refl s
    · exact (nextClock s core).trans (takeUnit core k x n _)

theorem noteIssue (s : State) (k : Nat) (x : Layout) : OnlySchedule s (s.noteIssue k x) :=
  ((takeUnit (s.coreOf k) k x 10 s).trans (setClock _ _ _ _)).trans (setSched _ k _)

theorem afterIssue (s : State) (k : Nat) (t : State) : OnlySchedule t (afterIssue s k t) := by
  unfold Machine.afterIssue
  extract_lets t' u
  have ht : OnlySchedule t t' := ite (setStalled t _) (setStalled t _)
  have hu : OnlySchedule t u := by
    refine ht.trans (ite ?_ (refl t'))
    cases s.nextForm k with
    | none => exact refl t'
    | some x => exact noteIssue t' k x
  exact ite (hu.trans (swapOpportunity u _)) hu

end OnlySchedule

/-- A weft that takes a place changes no weft but for its scheduling. -/
theorem inPlace_frame {s s1 : State} {k : Nat} (h : s.inPlace k = some s1) :
    s1 = { s with wefts := s1.wefts } ∧ ∀ j, s1.weft j = { s.weft j with sched := (s1.weft j).sched } := by
  unfold State.inPlace at h
  dsimp only at h
  split at h
  · cases h; exact ⟨rfl, fun _ => rfl⟩
  · split at h
    · cases h; exact ⟨rfl, (OnlySchedule.activate s _ k).wefts⟩
    · cases h

theorem inPlace_active {s : State} {k : Nat} (h : (s.weft k).sched.inActive = true) : s.inPlace k = some s := if_pos h

theorem step_issue {s : State} {k : Nat} {rest : List Move} (h : s.agenda = .issue k :: rest) : step s = issueStep k { s with agenda := rest } := by
  unfold step moveOn
  rw [h]

theorem step_event {s : State} {i : Instr} {rest : List Move} (h : s.agenda = .event i :: rest) (hi : Instr.isEvent i = true) :
    step s = exec i { s with agenda := rest, stalled := [] } := by
  unfold step moveOn
  rw [h]
  exact if_pos hi

/-- A word in the instruction cache is issued. -/
theorem withWord_cached {s : State} {k : Nat} {va : Dword} {w : Word} {f : Word → Host.Outcome State Fault Refusal}
    (h : s.codeWord k va = .ok w) (hc : s.codeCached k va = true) : withWord s k va f = f w := by
  unfold withWord
  rw [h]
  exact if_pos hc

section
variable {s : State} {k : Nat} {a : Word} (he : (s.weft k).flow.entry = .body) (ha : s.codeWord k (s.weft k).flow.pc = .ok a)
  (hc : s.codeCached k (s.weft k).flow.pc = true) (hh : isHeader a = false) (hp : (s.weft k).clausePlace (s.weft k).flow.pc < 63)
include he ha hc hh hp

/-- Inside a clause a word of the base encoding runs by itself. -/
theorem issueWord_plain (hx : isPrefix a = false) : issueWord s k = execWord none a s := by
  unfold issueWord issueBody
  simp only [he, if_true, withWord_cached ha hc, hh, hx, Bool.false_eq_true, if_false, Nat.not_le.2 hp]

/-- A prefixed word runs under what stands before it. -/
theorem issueWord_prefixed {b : Word} (hx : isPrefix a = true) (hb : s.codeWord k ((s.weft k).flow.pc + 4) = .ok b)
    (hbc : s.codeCached k ((s.weft k).flow.pc + 4) = true) (hbh : isHeader b = false) (hbx : isPrefix b = false)
    (hbp : (s.weft k).clausePlace ((s.weft k).flow.pc + 4) < 63) : issueWord s k = execWord (some (Prefix.ofWord a)) b s := by
  unfold issueWord issueBody
  simp only [he, if_true, withWord_cached ha hc, withWord_cached hb hbc, hh, hx, hbh, hbx, Bool.or_self, Bool.false_eq_true, if_false,
    Nat.not_le.2 hp, Nat.not_le.2 hbp]

end

theorem execWord_ok {p : Option Prefix} {b : Word} {i : Instr} (h : decodeBase p b = .ok i) (s : State) : execWord p b s = exec i s := by
  unfold execWord
  rw [h]

theorem execWord_error {p : Option Prefix} {b : Word} {e : DecodeError} (h : decodeBase p b = .error e) (s : State) :
    execWord p b s = exec (.illegalEncoding b) s := by
  unfold execWord
  rw [h]

/-- The outcome of a weft's word, with what its issue counts for. -/
def countIssue (s : State) (k : Nat) (o : Host.Outcome State Fault Refusal) : Host.Outcome State Fault Refusal :=
  match o with
  | .next t => .next (afterIssue s k t)
  | x => x

/-- The issue of a weft that has its place runs its next word and counts for it. -/
theorem issueStep_inPlace {s s1 : State} {k : Nat} (h : { s with cur := k }.inPlace k = some s1) :
    issueStep k s = countIssue s1 k (issueWord s1 k) := by
  unfold issueStep countIssue
  rw [h]
  dsimp only
  cases issueWord s1 k <;> rfl

theorem issueStep_outside {s : State} {k : Nat} (h : { s with cur := k }.inPlace k = none) : issueStep k s = .next s := by
  unfold issueStep
  rw [h]

/-- Settles O7: the move at the head of the agenda, the fetch of the words in the instruction cache, and the frame of what the step counts. -/
theorem stepsRunDecodedWords : Obligations.StepsRunDecodedWords := by
  unfold Obligations.StepsRunDecodedWords
  refine ⟨fun s s1 k rest a hs hin he ha hc hh hp => ?_,
    fun s k rest hs => ⟨fun h => inPlace_active (s := { s with agenda := rest, cur := k }) h, fun h => ?_, fun s1 h => ?_⟩,
    fun s t k => ?_, fun s i rest hs hi => step_event hs hi⟩
  · have hstep : ∀ {o}, issueWord s1 k = o → step s = countIssue s1 k o := fun ho =>
      ho ▸ (step_issue hs).trans (issueStep_inPlace hin)
    refine ⟨fun hx => ?_, fun hx b hb hbc hbh hbx hbp => ?_⟩
    · have hw := issueWord_plain he ha hc hh hp hx
      exact ⟨fun i hi => hstep (hw.trans (execWord_ok hi s1)), fun e hi => hstep (hw.trans (execWord_error hi s1))⟩
    · have hw := issueWord_prefixed he ha hc hh hp hx hb hbc hbh hbx hbp
      exact ⟨fun i hi => hstep (hw.trans (execWord_ok hi s1)), fun e hi => hstep (hw.trans (execWord_error hi s1))⟩
  · exact (step_issue hs).trans (issueStep_outside h)
  · exact inPlace_frame h
  · obtain ⟨hw, hc, hr⟩ := OnlySchedule.afterIssue s k t
    exact ⟨hw, hc, hr⟩

end Sys2Proof.Machine

namespace Sys2Proof.Machine

/-! ## An instruction that goes on to the next word -/

variable {i : Info} {s : State} {body : Ctx → State → Except Stop Eff} {e : Eff}

@[simp] theorem finish_s (i : Info) (c : Ctx) (e : Eff) : (i.finish c e).s = e.s := by
  unfold Info.finish; split <;> rfl

@[simp] theorem finish_fin (i : Info) (c : Ctx) (e : Eff) : (i.finish c e).fin = e.fin := by
  unfold Info.finish; split <;> rfl

/-- Where an instruction takes effect, lanes that have faulted leave one to go on (15_control_flow R344). -/
theorem lanes_of_issues (h : issues i s = true) : ¬ (s.me.flow.active = 0 ∧ s.me.lanesPending = true) := by
  unfold issues at h
  simp only [Bool.and_eq_true, Bool.or_eq_true, bne_iff_ne, Bool.not_eq_true'] at h
  rintro ⟨ha, hl⟩
  rcases h.2 with h2 | h2
  · exact h2 ha
  · rw [hl] at h2; cases h2

/-- What the effect of a body may not touch if its weft is to go on as `GoesOn` says: its lanes, its count and what it records. -/
structure KeepsPace (w w' : Weft) : Prop where
  lanes     : ¬ (w.flow.active = 0 ∧ w.lanesPending = true) → ¬ (w'.flow.active = 0 ∧ w'.lanesPending = true)
  ic        : w'.flow.ic = w.flow.ic
  recording : w'.recording = w.recording

theorem KeepsPace.of_regs (w : Weft) (r : Regs) : KeepsPace w { w with regs := r } := ⟨id, rfl, rfl⟩

/-- The weft after the retirement of a body that goes on to the next word. -/
theorem issue_goesOn (h : issues i s = true) (hb : body (i.ctx s) s = .ok e) (hf : e.fin = .next)
    (hk : KeepsPace s.me (e.s.weft s.cur)) :
    ∃ w', issue i body s = .next (e.s.setWeft s.cur w') ∧ GoesOn (i.ctx s) s.me (e.s.weft s.cur) w' := by
  have hl := hk.lanes (lanes_of_issues h)
  obtain ⟨w', hr, hg⟩ := retire_next (c := i.ctx s) (old := s.me) (e := i.finish (i.ctx s) e) ((finish_fin ..).trans hf)
    (by rw [finish_s]; exact hl)
  rw [finish_s] at hr hg
  exact ⟨w', by rw [issue_of_issues h, hb]; exact congrArg _ hr, hg⟩

/-- A body whose effect goes on to the next word retires on the state that it leaves. -/
theorem retires_of_ok (h : issues i s = true) (hb : body (i.ctx s) s = .ok e) (hf : e.fin = .next)
    (hk : KeepsPace s.me (e.s.weft s.cur)) : ∃ t, issue i body s = .next t ∧ Retires i s e.s t := by
  obtain ⟨w', hi, hg⟩ := issue_goesOn h hb hf hk
  have hw : (e.s.setWeft s.cur w').weft s.cur = w' := State.weft_setWeft_same ..
  refine ⟨_, hi, ⟨rfl, fun j hj => State.weft_setWeft_ne _ _ hj⟩, ?_, ?_, ?_, ?_⟩ <;> rw [hw]
  · refine ⟨by rw [hg.frame]; rfl, ?_⟩
    rw [hg.frame]
    dsimp only
    rw [hk.ic]
  · unfold SameControl
    rw [hg.frame]
  · rw [hg.frame]
  · refine ⟨fun hr => hg.silent (hk.recording ▸ hr), ?_, ?_, ?_, ?_, ?_, ?_⟩ <;> rw [hg.frame]

/-- An instruction that changes registers of its weft alone. -/
theorem plainStep_of_retires {r : Regs} {t : State} {v n m : Nat → Prop} (h : Retires i s (s.setWeft s.cur { s.me with regs := r }) t)
    (hr : SameRegs v n m s.me { s.me with regs := r }) : PlainStep i v n m s t := by
  obtain ⟨⟨ht, ho⟩, hg, hc, hx, hh⟩ := h
  rw [State.weft_setWeft_same] at hc hx hh
  obtain ⟨hv, hs, hm, hwb, hal, hfm⟩ := hr
  refine ⟨⟨ht, fun j hj => (ho j hj).trans (State.weft_setWeft_ne _ _ hj)⟩, hg, ?_, ?_, hh⟩
  · unfold SameControl at hc ⊢
    exact hc
  · refine ⟨fun p L hL hp => by rw [hx]; exact hv p L hL hp, fun j hj => by rw [hx]; exact hs j hj, fun j h0 hj => ?_, by rw [hx]; exact hwb,
      by rw [hx]; exact hal, by rw [hx]; exact hfm⟩
    rw [← hm j h0 hj]
    unfold Weft.maskReg
    rw [if_neg h0, if_neg h0, hx]

/-- An instruction that changes nothing at all goes on. -/
theorem plainStep_of_unchanged (h : issues i s = true) {rs : List Rec} (hb : body (i.ctx s) s = .ok { s := s, recs := rs }) :
    ∃ t, issue i body s = .next t ∧ PlainStep i (fun _ => False) (fun _ => False) (fun _ => False) s t := by
  obtain ⟨t, ht, ⟨ho, hg, hc, hx, hh⟩⟩ := retires_of_ok h hb rfl (KeepsPace.of_regs s.me s.me.regs)
  refine ⟨t, ht, ho, hg, hc, ?_, hh⟩
  change (t.weft s.cur).regs = s.me.regs at hx
  refine ⟨fun _ _ _ _ => by rw [hx], fun _ _ => by rw [hx], fun j h0 _ => ?_, by rw [hx], by rw [hx], by rw [hx]⟩
  unfold Weft.maskReg
  rw [if_neg h0, if_neg h0, hx]

/-! ## Results in registers -/

/-- A body that leaves its lanes' results, whatever its records. -/
theorem goesOn_of_laneWeft {g : Nat → BitVec 128} {rs : List Rec} (h : issues i s = true)
    (hb : body (i.ctx s) s = .ok { s := s.setWeft s.cur (laneWeft i s g), recs := rs }) :
    ∃ w', issue i body s = .next ((s.setWeft s.cur (laneWeft i s g)).setWeft s.cur w') ∧ GoesOn (i.ctx s) s.me (laneWeft i s g) w' := by
  have hk : KeepsPace s.me ((s.setWeft s.cur (laneWeft i s g)).weft s.cur) := by
    rw [State.weft_setWeft_same]
    obtain ⟨v, x, hw⟩ := laneWeft_frame i s g
    rw [hw]
    exact KeepsPace.of_regs s.me _
  obtain ⟨w', hi, hg⟩ := issue_goesOn h hb rfl hk
  rw [State.weft_setWeft_same] at hg
  exact ⟨w', hi, hg⟩

theorem sameFflags_of_laneWeft {g : Nat → BitVec 128} {w' : Weft} (hg : GoesOn (i.ctx s) s.me (laneWeft i s g) w') : SameFflags s.me w' := by
  intro L
  obtain ⟨v, x, hw⟩ := laneWeft_frame i s g
  unfold Weft.fflag
  rw [hg.frame, hw]

/-- Results of lanes in a 32-bit destination. -/
theorem writes32_of_laneWeft {g : Nat → BitVec 128} {rs : List Rec} (h : issues i s = true) (hd : i.dk = .reg 1)
    (hb : body (i.ctx s) s = .ok { s := s.setWeft s.cur (laneWeft i s g), recs := rs }) :
    Writes32 i s (issue i body s) fun L => w32 (g L) := by
  obtain ⟨w', hi, hg⟩ := goesOn_of_laneWeft h hb
  refine ⟨_, hi, registerStep_of_lane h hd hg, ?_, fun L hL => ?_, fun L hz => ?_⟩ <;> rw [State.weft_setWeft_same]
  · exact sameFflags_of_laneWeft hg
  · exact wordAt_lane h hd hg hL (lanes_disjoint h hL)
  · exact wordAt_zlane h hd hg hz

/-- Results of lanes in a pair. -/
theorem writes64_of_laneWeft {g : Nat → BitVec 128} {rs : List Rec} (h : issues i s = true) (hd : i.dk = .reg 2)
    (hb : body (i.ctx s) s = .ok { s := s.setWeft s.cur (laneWeft i s g), recs := rs }) :
    Writes64 i s (issue i body s) fun L => w64 (g L) := by
  obtain ⟨w', hi, hg⟩ := goesOn_of_laneWeft h hb
  refine ⟨_, hi, registerStep_of_lane h hd hg, ?_, fun L hL => ?_, fun L hz => ?_⟩ <;> rw [State.weft_setWeft_same]
  · exact sameFflags_of_laneWeft hg
  · exact pairAt_lane h hd hg hL (lanes_disjoint h hL)
  · exact pairAt_zlane h hd hg hz

/-- A destination in a mask register is not m0 (02_threads R36). -/
theorem maskDest_ne_zero (h : issues i s = true) (hd : i.dk = .mask) : i.d ≠ 0 := by
  have hl := legal_of_issues h
  unfold Info.legal at hl
  simp only [Bool.and_eq_true] at hl
  obtain ⟨⟨-, hm⟩, -⟩ := hl
  rintro h0
  rw [hd, h0] at hm
  cases hm

/-- A body that writes a mask register. -/
theorem writesMask_of_setMaskReg {n : Nat} {v : Mask} {rs : List Rec} (h : issues i s = true) (hn : n ≠ 0)
    (hb : body (i.ctx s) s = .ok { s := s.setWeft s.cur (s.me.setMaskReg n v), recs := rs }) : WritesMask i n s (issue i body s) v := by
  have hk : KeepsPace s.me ((s.setWeft s.cur (s.me.setMaskReg n v)).weft s.cur) := by
    rw [State.weft_setWeft_same]
    exact KeepsPace.of_regs s.me _
  obtain ⟨t, ht, hr⟩ := retires_of_ok h hb rfl hk
  have hx : (t.weft s.cur).regs = (s.me.setMaskReg n v).regs := by
    have := hr.regs
    rwa [State.weft_setWeft_same] at this
  refine ⟨t, ht, plainStep_of_retires hr ⟨fun _ _ _ _ => rfl, fun _ _ => rfl, fun j _ hj => Weft.maskReg_setMaskReg_ne _ v hj, rfl, rfl, rfl⟩,
    fun L => ?_, ?_⟩
  · unfold Weft.fflag
    rw [hx]
    rfl
  · rw [← Weft.maskReg_setMaskReg s.me n v hn]
    unfold Weft.maskReg
    rw [if_neg hn, if_neg hn, hx]

end Sys2Proof.Machine

namespace Sys2Proof.Machine

/-! ## Votes, reductions and scans (11_integer_lane R272, R273) -/

theorem getLsbD_laneBit (L n : Nat) (hn : n < 64) : (laneBit L).getLsbD n = decide (n = L) := by
  unfold laneBit
  rw [BitVec.getLsbD_ofNat, Nat.testBit_two_pow]
  simp [hn, eq_comm]

theorem getLsbD_maskOf (ls : List Nat) (n : Nat) (hn : n < 64) : (maskOf ls).getLsbD n = decide (n ∈ ls) := by
  have key : ∀ (ls : List Nat) (m : Mask), (ls.foldl (fun m L => m ||| laneBit L) m).getLsbD n = (m.getLsbD n || decide (n ∈ ls)) := by
    intro ls
    induction ls with
    | nil => intro m; simp
    | cons a t ih =>
      intro m
      rw [List.foldl_cons, ih, BitVec.getLsbD_or, getLsbD_laneBit a n hn, Bool.or_assoc]
      simp
  unfold maskOf
  rw [key]
  simp

theorem getLsbD_maskWhere (f : Nat → Bool) (n : Nat) (hn : n < 64) : (maskWhere f).getLsbD n = f n := by
  unfold maskWhere
  rw [BitVec.getLsbD_ofFnLE, dif_pos hn]

/-- The lanes of a list that a test of their values picks. -/
theorem maskOf_filter (ls : List Nat) (x : Nat → Word) (f : Nat × Word → Bool) :
    maskOf (((ls.map fun L => (L, x L)).filter f).map fun y => y.1) = maskWhere fun L => decide (L ∈ ls) && f (L, x L) := by
  apply BitVec.eq_of_getLsbD_eq
  intro n hn
  rw [getLsbD_maskOf _ _ hn, getLsbD_maskWhere _ _ hn]
  rw [Bool.eq_iff_iff]
  simp only [List.filter_map, List.map_map, decide_eq_true_eq, Bool.and_eq_true, List.mem_map, List.mem_filter,
    Function.comp_apply]
  exact ⟨fun ⟨L, hL, hn⟩ => hn ▸ hL, fun h => ⟨n, h, rfl⟩⟩

variable {i : Info} {s : State}

/-- The lanes of a per-thread vote with their words of a. -/
theorem votes_eq (hu : i.u = false) (ha : i.ak = .reg 1) : (i.ctx s).votes s.me = (i.lanes s).map fun L => (L, i.a32 s L) := by
  have hl : (i.ctx s).lanes s.me = i.lanes s := by
    unfold Info.lanes
    rw [hu]
    rfl
  unfold Ctx.votes
  rw [hl]
  refine List.map_congr_left fun L _ => ?_
  have : (i.ctx s).valA s.me L = readOp s.me i.aScalar (.reg 1) i.a L := by rw [← ha]; rfl
  rw [this, w32_readOp]
  rfl

/-- A vote for a mask register leaves the lanes that its test picks. -/
theorem writesMask_voteMask {f : List (Nat × Word) → Nat × Word → Bool} {n : Nat} {ls : List Nat} {x : Nat → Word} {g : Nat → Prop}
    [DecidablePred g] (h : issues i s = true) (hu : i.u = false) (ha : i.ak = .reg 1) (hd : i.dk = .mask) (hn : i.d.toNat = n)
    (hl : i.lanes s = ls) (hx : i.a32 s = x) (hg : ∀ L, f (ls.map fun K => (K, x K)) (L, x L) = true ↔ g L) :
    WritesMask i n s (issue i (voteMask f) s) (maskWhere fun L => decide (L ∈ ls ∧ g L)) := by
  subst hn hl hx
  refine writesMask_of_setMaskReg (rs := destRecs s.me (i.ctx s)) h (fun h0 => maskDest_ne_zero h hd (BitVec.eq_of_toNat_eq h0)) ?_
  unfold voteMask
  have hw : s.weft (i.ctx s).k = s.me := rfl
  simp only [hw, votes_eq hu ha, maskOf_filter, Bool.decide_and, ← hg, Bool.decide_eq_true]
  rfl

/-- A vote for a register leaves each lane its own value. -/
theorem voteReg_eq {f : List (Nat × Word) → Nat × Word → BitVec 128} (hu : i.u = false) (ha : i.ak = .reg 1) :
    voteReg f (i.ctx s) s = .ok { s := s.setWeft s.cur (laneWeft i s fun L => f ((i.lanes s).map fun K => (K, i.a32 s K)) (L, i.a32 s L))
                                  recs := destRecs s.me (i.ctx s) } := by
  unfold voteReg
  have hw : s.weft (i.ctx s).k = s.me := rfl
  simp only [hw, votes_eq hu ha, List.foldl_map]
  exact congrArg (fun w => Except.ok ({ s := s.setWeft s.cur w, recs := destRecs s.me (i.ctx s) } : Eff))
    (zeroLanes_eq (i.ctx s) _ s.me (writeLanes_frame (i.ctx s) _ (i.lanes s) s.me))

theorem writes32_voteReg {f : List (Nat × Word) → Nat × Word → BitVec 128} {ls : List Nat} {x g : Nat → Word}
    (h : issues i s = true) (hu : i.u = false) (ha : i.ak = .reg 1) (hd : i.dk = .reg 1) (hl : i.lanes s = ls) (hx : i.a32 s = x)
    (hg : ∀ L ∈ ls, w32 (f (ls.map fun K => (K, x K)) (L, x L)) = g L) : Writes32 i s (issue i (voteReg f) s) g := by
  subst hl hx
  obtain ⟨t, ht, hr, hf, hv, hz⟩ := writes32_of_laneWeft h hd (voteReg_eq (f := f) hu ha)
  exact ⟨t, ht, hr, hf, fun L hL => (hv L hL).trans (hg L hL), hz⟩

theorem writes64_voteReg {f : List (Nat × Word) → Nat × Word → BitVec 128} {ls : List Nat} {x : Nat → Word} {g : Nat → Dword}
    (h : issues i s = true) (hu : i.u = false) (ha : i.ak = .reg 1) (hd : i.dk = .reg 2) (hl : i.lanes s = ls) (hx : i.a32 s = x)
    (hg : ∀ L ∈ ls, w64 (f (ls.map fun K => (K, x K)) (L, x L)) = g L) : Writes64 i s (issue i (voteReg f) s) g := by
  subst hl hx
  obtain ⟨t, ht, hr, hf, hv, hz⟩ := writes64_of_laneWeft h hd (voteReg_eq (f := f) hu ha)
  exact ⟨t, ht, hr, hf, fun L hL => (hv L hL).trans (hg L hL), hz⟩

/-- A reduction leaves the combination of the lanes' words in every lane that takes part. -/
theorem writes32_redReg {f : Word → Word → Word} {ls : List Nat} {x : Nat → Word} {v : Word}
    (h : issues i s = true) (hu : i.u = false) (ha : i.ak = .reg 1) (hd : i.dk = .reg 1) (hl : i.lanes s = ls) (hx : i.a32 s = x)
    (hv : ls ≠ [] → reduce f (ls.map fun K => (K, x K)) = v) : Writes32 i s (issue i (redReg f) s) fun _ => v :=
  writes32_voteReg h hu ha hd hl hx fun L hL => by
    rw [hv (List.ne_nil_of_mem hL)]
    simp [w32]

/-! ### Combinations of lanes -/

theorem foldl_assoc_foldr {α : Type} {f : α → α → α} {e : α} (hf : ∀ a b c, f (f a b) c = f a (f b c)) (he : ∀ a, f a e = a) :
    ∀ (l : List α) (x : α), l.foldl f x = f x (l.foldr f e)
  | [], x => (he x).symm
  | y :: l, x => by rw [List.foldl_cons, foldl_assoc_foldr hf he l, hf, List.foldr_cons]

/-- A reduction by an associative operation with a neutral element, over a list that is not empty. -/
theorem reduce_eq_foldr {f : Word → Word → Word} {e : Word} (hf : ∀ a b c, f (f a b) c = f a (f b c)) (he : ∀ a, f a e = a)
    {ls : List Nat} (x : Nat → Word) (hl : ls ≠ []) : reduce f (ls.map fun K => (K, x K)) = (ls.map x).foldr f e := by
  cases ls with
  | nil => exact absurd rfl hl
  | cons K t =>
    simp only [List.map_cons, List.foldr_cons, reduce, List.foldl_map]
    rw [← foldl_assoc_foldr hf he, List.foldl_map]

/-- A reduction that keeps the one of two values that comes first in an order. -/
theorem reduce_pick {f : Word → Word → Word} {le : Word → Word → Prop} (hr : ∀ a, le a a) (ht : ∀ a b c, le a b → le b c → le a c)
    (hf : ∀ a b, le (f a b) a ∧ le (f a b) b ∧ (f a b = a ∨ f a b = b)) (x : Nat → Word) (ls : List Nat) :
    (∀ K ∈ ls, le (reduce f (ls.map fun K => (K, x K))) (x K)) ∧ (ls ≠ [] → reduce f (ls.map fun K => (K, x K)) ∈ ls.map x) := by
  have key : ∀ (t : List Nat) (v : Word), let r := t.foldl (fun r K => f r (x K)) v
      le r v ∧ (∀ K ∈ t, le r (x K)) ∧ (r = v ∨ r ∈ t.map x) := by
    intro t
    induction t with
    | nil => intro v; exact ⟨hr v, by simp, .inl rfl⟩
    | cons K t ih =>
      intro v
      obtain ⟨h1, h2, h3⟩ := ih (f v (x K))
      obtain ⟨g1, g2, g3⟩ := hf v (x K)
      refine ⟨ht _ _ _ h1 g1, fun J hJ => ?_, ?_⟩
      · rcases List.mem_cons.1 hJ with rfl | hJ
        · exact ht _ _ _ h1 g2
        · exact h2 J hJ
      · rcases h3 with h3 | h3
        · rcases g3 with g3 | g3
          · exact .inl (h3.trans g3)
          · exact .inr (List.mem_cons.2 (.inl (h3.trans g3)))
        · exact .inr (List.mem_cons_of_mem _ h3)
  cases ls with
  | nil => exact ⟨by simp, fun h => absurd rfl h⟩
  | cons K t =>
    simp only [List.map_cons, reduce, List.foldl_map]
    obtain ⟨h1, h2, h3⟩ := key t (x K)
    exact ⟨fun J hJ => (List.mem_cons.1 hJ).elim (fun h => h ▸ h1) (h2 J), fun _ => List.mem_cons.2 h3⟩

theorem below_map (ls : List Nat) (x : Nat → Word) (L : Nat) :
    below (ls.map fun K => (K, x K)) L = (ls.filter fun K => decide (K < L)).map fun K => (K, x K) := by
  unfold below
  rw [List.filter_map]
  rfl

theorem countP_below (ls : List Nat) (x : Nat → Word) (L : Nat) (f : Nat × Word → Bool) :
    ((below (ls.map fun K => (K, x K)) L).filter f).length = ls.countP fun K => decide (K < L) && f (K, x K) := by
  rw [below_map, ← List.countP_eq_length_filter, List.countP_map, List.countP_filter]
  exact List.countP_congr fun K _ => by simp [and_comm]

theorem sumWords_map (ls : List Nat) (x : Nat → Word) : sumWords (ls.map fun K => (K, x K)) = (ls.map x).sum := by
  unfold sumWords
  rw [List.foldl_map, List.sum_eq_foldl, List.foldl_map]

/-- In an ascending list the elements up to one of them are those below it and itself. -/
theorem filter_le_of_mem {L : Nat} : ∀ {ls : List Nat}, ls.Pairwise (· < ·) → L ∈ ls →
    ls.filter (fun K => decide (K ≤ L)) = ls.filter (fun K => decide (K < L)) ++ [L]
  | a :: t, hp, hL => by
    obtain ⟨ha, hp⟩ := List.pairwise_cons.1 hp
    rcases List.mem_cons.1 hL with rfl | hL
    · have hle : t.filter (fun K => decide (K ≤ L)) = [] :=
        List.filter_eq_nil_iff.2 fun K hK => by have := ha K hK; simp only [decide_eq_true_eq]; omega
      have hlt : t.filter (fun K => decide (K < L)) = [] :=
        List.filter_eq_nil_iff.2 fun K hK => by have := ha K hK; simp only [decide_eq_true_eq]; omega
      simp [hle, hlt]
    · have := ha L hL
      rw [List.filter_cons_of_pos (by simpa using this.le), List.filter_cons_of_pos (by simpa using this), filter_le_of_mem hp hL]
      rfl

theorem lanesOf_pairwise (w : Nat) (m : Mask) : (lanesOf w m).Pairwise (· < ·) := List.pairwise_lt_range.filter _

theorem lanes_pairwise (hu : i.u = false) : (i.lanes s).Pairwise (· < ·) := by
  unfold Info.lanes
  rw [if_neg (by simp [hu])]
  exact lanesOf_pairwise _ _


theorem toNat_maskField (m : BitVec 3) : (m.setWidth 7 : Reg).toNat = m.toNat := by
  rw [BitVec.toNat_setWidth, Nat.mod_eq_of_lt (by omega)]

/-! ## Mask registers (11_integer_lane R274) -/

/-- An operation on whole mask registers. -/
theorem writesMask_maskOp {f : Weft → Mask} {n : Nat} {v : Mask} (h : issues i s = true) (hd : i.dk = .mask) (hn : i.d.toNat = n)
    (hv : f s.me = v) : WritesMask i n s (issue i (maskOp f) s) v := by
  subst hn hv
  exact writesMask_of_setMaskReg (rs := destRecs s.me (i.ctx s)) h (fun h0 => maskDest_ne_zero h hd (BitVec.eq_of_toNat_eq h0)) rfl

/-- A number of a mask register goes to the scalar d. -/
theorem writes32_maskNum {f : Mask → Word} {a : BitVec 3} {v : Word} (h : issues i s = true) (hu : i.u = true) (hd : i.dk = .reg 1)
    (hv : f (s.me.maskReg a.toNat) = v) : Writes32 i s (issue i (maskNum f a) s) fun _ => v := by
  subst hv
  have hl : i.lanes s = [lowestLane s.me.width (i.activeOf s.me)] := if_pos hu
  have hw : writeD s.me (i.ctx s) 0 ((f (s.me.maskReg a.toNat)).setWidth 128) = laneWeft i s fun _ => (f (s.me.maskReg a.toNat)).setWidth 128 := by
    unfold laneWeft
    rw [zlanes_uniform h hu, hl]
    unfold writeLanes writeD
    simp [ctx_u, hu]
  have hb : maskNum f a (i.ctx s) s = .ok { s := s.setWeft s.cur (laneWeft i s fun _ => (f (s.me.maskReg a.toNat)).setWidth 128)
                                            recs := destRecs s.me (i.ctx s) } := by
    rw [← hw]
    rfl
  have hval := writes32_of_laneWeft h hd hb
  simpa [w32] using hval

theorem ffs64_zero : ffs64 0 = 0xFFFFFFFF := by decide

/-- The lowest bit that is set. -/
theorem ffs64_spec {m : Mask} (hm : m ≠ 0) : m.getLsbD (ffs64 m).toNat = true ∧ ∀ n < (ffs64 m).toNat, m.getLsbD n = false := by
  unfold ffs64
  cases hf : (List.range 64).find? fun n => m.getLsbD n with
  | none =>
    refine absurd (BitVec.eq_of_getLsbD_eq fun n hn => ?_) hm
    have := List.find?_eq_none.1 hf n (List.mem_range.2 hn)
    simpa using this
  | some k =>
    have hk : k < 64 := List.mem_range.1 (List.mem_of_find?_eq_some hf)
    rw [Option.getD_some, BitVec.toNat_ofNat, Nat.mod_eq_of_lt (by omega)]
    refine ⟨List.find?_some hf, fun n hn => ?_⟩
    have := (List.find?_range_eq_some.1 hf).2.2 n hn
    simpa using this

theorem popCount_eq (m : Mask) : popCount m = (List.range 64).countP fun n => m.getLsbD n := List.countP_eq_length_filter.symm

/-! ## What the vote, reduction and mask instructions run -/

section
variable (s : State)

theorem exec_ballot (p : Option Prefix) (d : BitVec 3) (a : Reg) :
    exec (.ballot p d a) s =
      issue (formA p 0x21 0 false (d.setWidth 7) a 0) (voteMask fun _ x => x.2 != 0) s := rfl

theorem exec_any (p : Option Prefix) (d : BitVec 3) (a : Reg) :
    exec (.any p d a) s =
      issue (formA p 0x21 1 false (d.setWidth 7) a 0) (voteMask fun vs _ => vs.any fun y => y.2 != 0) s := rfl

theorem exec_all (p : Option Prefix) (d : BitVec 3) (a : Reg) :
    exec (.all p d a) s =
      issue (formA p 0x21 2 false (d.setWidth 7) a 0) (voteMask fun vs _ => vs.all fun y => y.2 != 0) s := rfl

theorem exec_mlead (p : Option Prefix) (d : BitVec 3) (a : Reg) :
    exec (.mlead p d a) s =
      issue (formA p 0x21 5 false (d.setWidth 7) a 0) (voteMask fun vs x => (below vs x.1).all fun y => y.2 != x.2) s := rfl

theorem exec_matchLanes (p : Option Prefix) (d a : Reg) :
    exec (.matchLanes p d a) s =
      issue (formA p 0x21 3 false d a 0)
        (voteReg fun vs x => (maskOf ((vs.filter fun y => y.2 == x.2).map fun y => y.1)).setWidth 128) s := rfl

theorem exec_mrank (p : Option Prefix) (d a : Reg) :
    exec (.mrank p d a) s =
      issue (formA p 0x21 4 false d a 0)
        (voteReg fun vs x => BitVec.ofNat 128 ((below vs x.1).filter fun y => y.2 == x.2).length) s := rfl

theorem exec_pfxpop (p : Option Prefix) (d a : Reg) :
    exec (.pfxpop p d a) s =
      issue (formA p 0x21 6 false d a 0) (voteReg fun vs x => BitVec.ofNat 128 ((below vs x.1).filter fun y => y.2 != 0).length) s := rfl

theorem exec_radd (p : Option Prefix) (d a : Reg) :
    exec (.radd p d a) s =
      issue (formA p 0x22 0 false d a 0) (redReg fun x y => x + y) s := rfl

theorem exec_rmin (p : Option Prefix) (d a : Reg) :
    exec (.rmin p d a) s =
      issue (formA p 0x22 1 false d a 0)
        (redReg fun x y => if unsignedRed p then (if x.toNat ≤ y.toNat then x else y) else (if x.toInt ≤ y.toInt then x else y)) s := rfl

theorem exec_rmax (p : Option Prefix) (d a : Reg) :
    exec (.rmax p d a) s =
      issue (formA p 0x22 2 false d a 0)
        (redReg fun x y => if unsignedRed p then (if x.toNat ≤ y.toNat then y else x) else (if x.toInt ≤ y.toInt then y else x)) s := rfl

theorem exec_rand (p : Option Prefix) (d a : Reg) :
    exec (.rand p d a) s =
      issue (formA p 0x22 3 false d a 0) (redReg fun x y => x &&& y) s := rfl

theorem exec_rorRed (p : Option Prefix) (d a : Reg) :
    exec (.rorRed p d a) s =
      issue (formA p 0x22 4 false d a 0) (redReg fun x y => x ||| y) s := rfl

theorem exec_rxor (p : Option Prefix) (d a : Reg) :
    exec (.rxor p d a) s =
      issue (formA p 0x22 5 false d a 0) (redReg fun x y => x ^^^ y) s := rfl

theorem exec_scani (p : Option Prefix) (d a : Reg) :
    exec (.scani p d a) s =
      issue (formA p 0x22 6 false d a 0) (voteReg fun vs x => (sumWords (below vs x.1) + x.2).setWidth 128) s := rfl

theorem exec_scanx (p : Option Prefix) (d a : Reg) :
    exec (.scanx p d a) s =
      issue (formA p 0x22 7 false d a 0) (voteReg fun vs x => (sumWords (below vs x.1)).setWidth 128) s := rfl

theorem exec_mand (p : Option Prefix) (d a b : BitVec 3) :
    exec (.mand p d a b) s =
      issue (formA p 0x23 0 true (d.setWidth 7) (a.setWidth 7) (b.setWidth 7))
        (maskOp fun w => w.maskReg a.toNat &&& w.maskReg b.toNat) s := rfl

theorem exec_mor (p : Option Prefix) (d a b : BitVec 3) :
    exec (.mor p d a b) s =
      issue (formA p 0x23 1 true (d.setWidth 7) (a.setWidth 7) (b.setWidth 7))
        (maskOp fun w => w.maskReg a.toNat ||| w.maskReg b.toNat) s := rfl

theorem exec_mxor (p : Option Prefix) (d a b : BitVec 3) :
    exec (.mxor p d a b) s =
      issue (formA p 0x23 2 true (d.setWidth 7) (a.setWidth 7) (b.setWidth 7))
        (maskOp fun w => w.maskReg a.toNat ^^^ w.maskReg b.toNat) s := rfl

theorem exec_mnot (p : Option Prefix) (d a : BitVec 3) :
    exec (.mnot p d a) s =
      issue (formA p 0x23 3 true (d.setWidth 7) (a.setWidth 7) 0) (maskOp fun w => ~~~(w.maskReg a.toNat)) s := rfl

theorem exec_mmov (p : Option Prefix) (d a : BitVec 3) :
    exec (.mmov p d a) s =
      issue (formA p 0x23 4 true (d.setWidth 7) (a.setWidth 7) 0) (maskOp fun w => w.maskReg a.toNat) s := rfl

theorem exec_mpopc (p : Option Prefix) (d : Reg) (a : BitVec 3) :
    exec (.mpopc p d a) s =
      issue (formA p 0x23 5 true d (a.setWidth 7) 0) (maskNum (fun m => BitVec.ofNat 32 (popCount m)) a) s := rfl

theorem exec_mffs (p : Option Prefix) (d : Reg) (a : BitVec 3) :
    exec (.mffs p d a) s =
      issue (formA p 0x23 6 true d (a.setWidth 7) 0) (maskNum ffs64 a) s := rfl

theorem exec_mset (p : Option Prefix) (d : BitVec 3) (a : Reg) :
    exec (.mset p d a) s =
      issue (formA p 0x23 7 true (d.setWidth 7) a 0) (maskOp fun w => spairOf w a) s := rfl

end

/-! ## O14 -/

/-- The order of RMIN and RMAX: unsigned with ext[0], else signed (11_integer_lane R273). -/
def redKey (p : Option Prefix) (v : Word) : Int := if unsignedRed p then (v.toNat : Int) else v.toInt

theorem rmin_pick (p : Option Prefix) (a b : Word) :
    let v := if unsignedRed p then (if a.toNat ≤ b.toNat then a else b) else (if a.toInt ≤ b.toInt then a else b)
    redKey p v ≤ redKey p a ∧ redKey p v ≤ redKey p b ∧ (v = a ∨ v = b) := by
  unfold redKey
  cases unsignedRed p <;> simp only [Bool.false_eq_true, if_true, if_false] <;> split <;> simp <;> omega

theorem rmax_pick (p : Option Prefix) (a b : Word) :
    let v := if unsignedRed p then (if a.toNat ≤ b.toNat then b else a) else (if a.toInt ≤ b.toInt then b else a)
    redKey p a ≤ redKey p v ∧ redKey p b ≤ redKey p v ∧ (v = a ∨ v = b) := by
  unfold redKey
  cases unsignedRed p <;> simp only [Bool.false_eq_true, if_true, if_false] <;> split <;> simp <;> omega

/-- Settles O14: each form's test, combination or scan over the words of its lanes. -/
theorem voteAndMaskResults : Obligations.VoteAndMaskResults := by
  unfold Obligations.VoteAndMaskResults
  refine ⟨fun p d a m s => ?_, fun p d a b r s => ?_⟩
  · intro V M R ls x
    have hm := toNat_maskField m
    refine ⟨fun h => ?_, fun h => ?_, fun h => ?_, fun h => ?_, fun h => ?_, fun h => ?_, fun h => ?_, fun h => ?_, ?_, fun h => ?_, fun h => ?_,
      fun h => ?_, fun h => ?_, fun h => ?_⟩
    · rw [exec_ballot]
      exact writesMask_voteMask (ls := ls) (x := x) h rfl rfl rfl hm rfl rfl fun L => by simp
    · rw [exec_any]
      exact writesMask_voteMask (ls := ls) (x := x) h rfl rfl rfl hm rfl rfl fun L => by simp
    · rw [exec_all]
      exact writesMask_voteMask (ls := ls) (x := x) h rfl rfl rfl hm rfl rfl fun L => by simp
    · rw [exec_mlead]
      exact writesMask_voteMask (ls := ls) (x := x) h rfl rfl rfl hm rfl rfl fun L => by simp [below_map, or_iff_not_imp_left]
    · rw [exec_matchLanes]
      exact writes64_voteReg (ls := ls) (x := x) h rfl rfl rfl rfl rfl fun L hL => by simp [maskOf_filter, w64, beq_eq_decide]
    · rw [exec_mrank]
      exact writes32_voteReg (ls := ls) (x := x) h rfl rfl rfl rfl rfl fun L hL => by simp [countP_below, w32, beq_eq_decide]
    · rw [exec_pfxpop]
      exact writes32_voteReg (ls := ls) (x := x) h rfl rfl rfl rfl rfl fun L hL => by simp [countP_below, w32, bne, beq_eq_decide]
    · rw [exec_radd]
      exact writes32_redReg (ls := ls) (x := x) h rfl rfl rfl rfl rfl (reduce_eq_foldr BitVec.add_assoc BitVec.add_zero x)
    · intro key
      have hmin := reduce_pick (le := fun a b => redKey p a ≤ redKey p b) (fun a => le_refl _) (fun a b c => le_trans) (rmin_pick p) x ls
      have hmax := reduce_pick (le := fun a b => redKey p b ≤ redKey p a) (fun a => le_refl _) (fun a b c h1 h2 => le_trans h2 h1)
        (rmax_pick p) x ls
      exact ⟨⟨_, hmin.1, hmin.2, fun h => exec_rmin s p d a ▸ writes32_redReg (ls := ls) (x := x) h rfl rfl rfl rfl rfl fun _ => rfl⟩,
        ⟨_, hmax.1, hmax.2, fun h => exec_rmax s p d a ▸ writes32_redReg (ls := ls) (x := x) h rfl rfl rfl rfl rfl fun _ => rfl⟩⟩
    · rw [exec_rand]
      exact writes32_redReg (ls := ls) (x := x) h rfl rfl rfl rfl rfl (reduce_eq_foldr BitVec.and_assoc (fun _ => BitVec.and_allOnes) x)
    · rw [exec_rorRed]
      exact writes32_redReg (ls := ls) (x := x) h rfl rfl rfl rfl rfl (reduce_eq_foldr BitVec.or_assoc (fun _ => BitVec.or_zero) x)
    · rw [exec_rxor]
      exact writes32_redReg (ls := ls) (x := x) h rfl rfl rfl rfl rfl (reduce_eq_foldr BitVec.xor_assoc (fun _ => BitVec.xor_zero) x)
    · rw [exec_scani]
      exact writes32_voteReg (ls := ls) (x := x) h rfl rfl rfl rfl rfl fun L hL => by
        have hle : ls.filter (fun K => decide (K ≤ L)) = _ := filter_le_of_mem (lanes_pairwise (i := V 0) rfl) hL
        simp [below_map, sumWords_map, w32, hle]
    · rw [exec_scanx]
      exact writes32_voteReg (ls := ls) (x := x) h rfl rfl rfl rfl rfl fun L hL => by simp [below_map, sumWords_map, w32]
  · intro F x y w
    have hd := toNat_maskField d
    refine ⟨fun h => ?_, fun h => ?_, fun h => ?_, fun h => ?_, fun h => ?_, fun h => ?_, ?_, fun h => ?_⟩
    · rw [exec_mand]
      exact writesMask_maskOp h rfl hd rfl
    · rw [exec_mor]
      exact writesMask_maskOp h rfl hd rfl
    · rw [exec_mxor]
      exact writesMask_maskOp h rfl hd rfl
    · rw [exec_mnot]
      exact writesMask_maskOp h rfl hd rfl
    · rw [exec_mmov]
      exact writesMask_maskOp h rfl hd rfl
    · rw [exec_mpopc]
      exact writes32_maskNum h rfl rfl (congrArg _ (popCount_eq x))
    · exact ⟨ffs64 x, fun h0 => h0 ▸ ffs64_zero, ffs64_spec, fun h => exec_mffs s p r a ▸ writes32_maskNum h rfl rfl rfl⟩
    · rw [exec_mset]
      exact writesMask_maskOp h rfl hd rfl

end Sys2Proof.Machine

namespace Sys2Proof.Machine

/-! ## Taken transfers (15_control_flow R342, 09_registers_history R213) -/

theorem noteTransfer_frame (w old : Weft) (pc : Dword) :
    w.noteTransfer old pc = { w with flow := { w.flow with cf := if old.trap.handler then w.flow.cf else pc
                                                           cfic := if old.trap.handler then w.flow.cfic else old.flow.ic } } := by
  unfold Weft.noteTransfer
  split <;> rfl

/-- The flow of a weft that has arrived at a clause with lanes left. -/
def arrivedFlow (f : Flow) (target : Dword) : Flow :=
  let r := arrive f.stack f.active target false
  { f with stack := r.stack, active := r.active, pc := r.at_, entry := if r.popped then .popped else .arrived }

theorem arrivedFlow_entry (f : Flow) (target : Dword) : (arrivedFlow f target).entry ≠ .body := by
  unfold arrivedFlow
  dsimp only
  split <;> simp

theorem land_arrives {w : Weft} {target : Dword} (hl : w.lanesPending = false) (ha : (arrivedFlow w.flow target).active ≠ 0) :
    (land w target false).1 = { w with flow := arrivedFlow w.flow target } := by
  unfold land
  rw [hl]
  exact if_neg ha

/-- What a retirement that transfers makes of a weft `w`, that of its effect: it arrives at the target, and CF and CFIC name the transfer. -/
def Arrives (c : Ctx) (old w : Weft) (target : Dword) (w' : Weft) : Prop :=
  w' = { w with
    hist := { w.hist with words := w'.hist.words, hsp := w'.hist.hsp, undo := w'.hist.undo, lastPc := w'.hist.lastPc }
    seg := w'.seg, sched := { w.sched with turnLeft := w'.sched.turnLeft }
    flow := { arrivedFlow w.flow target with
      ic := if old.trap.handler then w.flow.ic else old.flow.ic + 1
      cf := if old.trap.handler then w.flow.cf else c.pc, cfic := if old.trap.handler then w.flow.cfic else old.flow.ic } }

theorem retire_taken {c : Ctx} {old : Weft} {e : Eff} {target : Dword} {h : Word} (hf : e.fin = .taken target)
    (hl : (e.s.weft c.k).lanesPending = false) (hc : e.s.codeWord c.k target = .ok h) (hb : badHeader h = false)
    (ha : (arrivedFlow (e.s.weft c.k).flow target).active ≠ 0) :
    ∃ w', retire c old e = e.s.setWeft c.k w' ∧ Arrives c old (e.s.weft c.k) target w' := by
  unfold retire
  simp only [hf]
  generalize e.s.weft c.k = w at hl ha ⊢
  rw [if_neg (fun hx => by rw [hl] at hx; cases hx.1.2)]
  refine ⟨_, rfl, ?_⟩
  have hland : land w target false = ({ w with flow := arrivedFlow w.flow target }, (land w target false).2) :=
    Prod.ext (land_arrives hl ha) rfl
  unfold Arrives
  rw [pastBoundary_frame, counted_frame]
  unfold goTaken
  simp only [hc, hb]
  rw [hland]
  dsimp only
  rw [noteTransfer_frame, pushIf_frame]
  rfl

variable {i : Info} {s : State} {body : Ctx → State → Except Stop Eff} {e : Eff}

/-- A weft that issues is live. -/
theorem live_of_issues (h : issues i s = true) : s.me.status = .live := by
  unfold issues State.canIssue at h
  simp only [Bool.and_eq_true, beq_iff_eq] at h
  exact h.1.1.1.1.1.1.1.1.1.1.1.1.1.1.1.1.1

theorem settled_live {k : Nat} {t : State} (h : (t.weft k).status = .live) : settled k (.next t) = .next t := by
  unfold settled settleEnd
  simp [h]

/-- The code does not depend on the wefts. -/
theorem codeWord_of_onlyWeft {k j : Nat} {t : State} (h : OnlyWeft k s t) (va : Dword) : t.codeWord j va = s.codeWord j va := by
  rw [h.1]
  rfl

/-- A body whose effect transfers to a target that allows it, with the stack and the active mask that it leaves. -/
theorem transfers_of_taken {target : Dword} {st : List StackEntry} {m : Mask} {r : Regs} (h : issues i s = true)
    (hb : body (i.ctx s) s = .ok e) (hf : e.fin = .taken target) (ho : OnlyWeft s.cur s e.s)
    (hw : e.s.weft s.cur = { s.me with flow := { s.me.flow with stack := st, active := m }, regs := r }) (hm : s.mayTransfer st m target) :
    ∃ t, settled s.cur (issue i body s) = .next t ∧ Transfers i s st m target t ∧ (t.weft s.cur).regs = r := by
  obtain ⟨⟨-, -, hd, hc, -, hbad⟩, hl, ha⟩ := hm
  obtain ⟨w', hr, hg⟩ := retire_taken (c := i.ctx s) (old := s.me) (e := i.finish (i.ctx s) e) (target := target) ((finish_fin ..).trans hf)
    (by rw [finish_s]; exact hw ▸ hl) (by rw [finish_s]; exact (codeWord_of_onlyWeft ho target).trans hc) hbad
    (by rw [finish_s]; exact hw ▸ ha)
  rw [finish_s] at hr hg
  have hg : Arrives (i.ctx s) s.me (e.s.weft s.cur) target w' := hg
  rw [hw] at hg
  unfold Arrives at hg
  have hlive : ((e.s.setWeft s.cur w').weft s.cur).status = .live := by
    rw [State.weft_setWeft_same, hg]
    exact live_of_issues h
  have ht : issue i body s = .next (e.s.setWeft s.cur w') := by
    rw [issue_of_issues h, hb]
    exact congrArg _ hr
  refine ⟨e.s.setWeft s.cur w', by rw [ht, settled_live hlive], ⟨⟨?_, fun j hj => ?_⟩, ?_, ?_, ?_, ?_, ?_, ?_, ?_, ?_⟩, ?_⟩
  · rw [ho.1]
    rfl
  · rw [State.weft_setWeft_ne _ _ hj]
    exact ho.2 j hj
  all_goals rw [State.weft_setWeft_same]
  case refine_3 => rw [hg]; rfl
  case refine_4 => rw [hg]; rfl
  case refine_5 => rw [hg]; rfl
  case refine_6 => rw [hg]; exact arrivedFlow_entry _ _
  all_goals rw [hg]
  rfl

/-! ## Targets (03_encoding R53, 15_control_flow R350) -/

theorem targetHeader_good {c : Ctx} {va : Dword} (h : s.goodTarget c.k va) : ∃ w, targetHeader c s va = .ok w := by
  obtain ⟨hcan, hal, w, hw, hh, -⟩ := h
  refine ⟨w, ?_⟩
  unfold targetHeader codeAt
  simp [hcan, hal, hw, hh]

theorem targetClause_good {k : Nat} {va : Dword} (h : s.goodTarget k va) : targetClause s k va = none := by
  obtain ⟨hcan, hal, w, hw, hh, -⟩ := h
  unfold targetClause
  simp [hcan, hal, hw, hh]

theorem pairClause_good {a : Reg} {va : Dword} (h : s.goodTarget s.cur va) : pairClause s a va = none := by
  unfold pairClause
  rw [targetClause_good h, ite_self]

/-! ## What the instructions run -/

theorem exec_call (p : Option Prefix) (off : BitVec 19) (s : State) : exec (.call p off) s = execCall p off s := rfl
theorem exec_ret (p : Option Prefix) (a : Reg) (s : State) : exec (.ret p a) s = execRet p a s := rfl
theorem exec_jmpr (p : Option Prefix) (a b : Reg) (s : State) : exec (.jmpr p a b) s = execJmpr p a b s := rfl
theorem exec_join (p : Option Prefix) (off : BitVec 19) (s : State) : exec (.join p off) s = execJoin p off s := rfl
theorem exec_nop (p : Option Prefix) (u : Bool) (s : State) : exec (.nop p u) s = execNop p u s := rfl
theorem exec_yield (p : Option Prefix) (s : State) : exec (.yield p) s = execYield p s := rfl
theorem exec_waitf (p : Option Prefix) (a : Reg) (s : State) : exec (.waitf p a) s = execWaitf p a s := rfl
theorem exec_waitfRelease (k : Nat) (s : State) : exec (.waitfRelease k) s = execWaitfRelease k s := rfl

/-! ## Jumps -/

theorem onlyWeft_refl (k : Nat) (s : State) : OnlyWeft k s s := ⟨rfl, fun _ _ => rfl⟩

theorem onlyWeft_setWeft_once (k : Nat) (s : State) (w : Weft) : OnlyWeft k s (s.setWeft k w) :=
  ⟨rfl, fun _ hj => State.weft_setWeft_ne _ _ hj⟩

/-- A jump to a target that allows it changes no register. -/
theorem jumpTo_transfers {target : Dword} (h : issues i s = true) (hb : body (i.ctx s) s = jumpTo target (i.ctx s) s)
    (hm : s.mayTransfer s.me.flow.stack s.me.flow.active target) :
    ∃ t, settled s.cur (issue i body s) = .next t ∧ Transfers i s s.me.flow.stack s.me.flow.active target t
      ∧ (t.weft s.cur).regs = s.me.regs := by
  obtain ⟨w, hw⟩ := targetHeader_good (c := i.ctx s) hm.1
  refine transfers_of_taken (e := { s := s, fin := .taken target }) h ?_ rfl (onlyWeft_refl _ _) rfl hm
  rw [hb]
  unfold jumpTo
  rw [hw]

/-- The weft whose flow has a new reconvergence stack keeps its lanes, its count and its recording. -/
theorem KeepsPace.of_stack (w : Weft) (st : List StackEntry) : KeepsPace w { w with flow := { w.flow with stack := st } } := ⟨id, rfl, rfl⟩

/-- What changes only the scheduling of wefts keeps the weft that issues as it was otherwise. -/
theorem OnlySchedule.keepsPace {t : State} (h : OnlySchedule s t) : KeepsPace s.me (t.weft s.cur) := by
  rw [h.wefts s.cur]
  exact ⟨id, rfl, rfl⟩

/-! ## Waits -/

/-- A release of a hold whose weft has lanes left or no fault: the weft goes on past the instruction that held it. -/
theorem releaseHold_resumes {k : Nat} {h : Hold} (hl : (s.weft k).flow.active ≠ 0 ∨ (s.weft k).lanesPending = false) :
    OnlyWeft k s (releaseHold s k h) ∧ ((releaseHold s k h).weft k).hold = none ∧ ((releaseHold s k h).weft k).flow.pc = h.next
      ∧ ((releaseHold s k h).weft k).flow.ic = (if (s.weft k).trap.handler then (s.weft k).flow.ic else (s.weft k).flow.ic + 1)
      ∧ ((releaseHold s k h).weft k).regs = (s.weft k).regs := by
  unfold releaseHold
  extract_lets w0 w c
  have hw : (s.setWeft k w).weft k = w := State.weft_setWeft_same ..
  obtain ⟨w', hr, hg⟩ := retire_next (c := c) (old := w) (e := { s := s.setWeft k w, recs := h.recs, noUndo := true }) rfl (by
    rw [show ((s.setWeft k w).weft c.k) = w from hw]
    rintro ⟨ha, hp⟩
    rcases hl with hl | hl
    · exact hl ha
    · rw [show w.lanesPending = false from hl] at hp; cases hp)
  rw [show ((s.setWeft k w).weft c.k) = w from hw] at hg
  rw [hr]
  refine ⟨onlyWeft_setWeft _ _ _ _, ?_⟩
  rw [show (((s.setWeft k w).setWeft c.k w').weft k) = w' from State.weft_setWeft_same ..]
  rw [hg.frame]
  exact ⟨rfl, rfl, rfl, rfl⟩

/-- A wait that keeps its weft: nothing changes but its hold. -/
theorem issue_holds {hk : HoldKind} (h : issues i s = true) (hb : body (i.ctx s) s = .error (.hold s hk)) :
    ∃ t x, issue i body s = .next t ∧ OnlyWeft s.cur s t ∧ t.weft s.cur = { s.me with hold := some x } ∧ x.kind = hk
      ∧ x.pc = s.me.flow.pc ∧ x.next = s.me.flow.pc + BitVec.ofNat 64 (4 * i.len) := by
  rw [issue_of_issues h, hb]
  exact ⟨_, _, rfl, onlyWeft_setWeft_once _ _ _, State.weft_setWeft_same .., rfl, rfl, rfl⟩

section
variable {v : Word} (hv : sregOf s.me i.a = v) (hlt : v.toNat < 4096)
include hv hlt

/-- WAITF on flags that are clear, with no imprecise cause due, goes on. -/
theorem waitfBody_clear (hf : s.me.flagsClear (v.extractLsb' 0 12) = true) (hd : s.me.waitDue (v.extractLsb' 0 12) = none) :
    waitfBody (i.ctx s) s = .ok { s := s } := by
  subst hv
  have h2 : s.weft (i.ctx s).k = s.me := rfl
  unfold waitfBody
  simp [ctx_u, h2, hf, hd, hlt]

/-- WAITF on a flag that is not clear holds its weft. -/
theorem waitfBody_waits (hf : s.me.flagsClear (v.extractLsb' 0 12) = false) (hl : s.me.lanesPending = false) :
    waitfBody (i.ctx s) s = .error (.hold s (.waitf (v.extractLsb' 0 12))) := by
  subst hv
  have h2 : s.weft (i.ctx s).k = s.me := rfl
  unfold waitfBody
  simp [ctx_u, h2, hf, hl, hlt]

end

/-- CALL leaves the address after it in s126 and s127, and no other register. -/
theorem callBody_good {off : BitVec 19} (h : s.goodTarget s.cur (branchTarget (i.ctx s).next off)) :
    callBody off (i.ctx s) s =
      .ok { s := s.setWeft s.cur { s.me with regs := s.me.regs.setWordsS 126 [lowWord (i.ctx s).next, highWord (i.ctx s).next] }
            recs := [{ kind := kSreg, mask := (i.ctx s).active, payload := plain [s.me.regs.getS 126, s.me.regs.getS 127] }]
            fin := .taken (branchTarget (i.ctx s).next off) } := by
  obtain ⟨w, hw⟩ := targetHeader_good (c := i.ctx s) h
  unfold callBody
  simp only [hw]
  rfl

theorem pairOf_low_high (v : Dword) : pairOf (lowWord v) (highWord v) = v := by
  unfold pairOf lowWord highWord
  apply BitVec.eq_of_getLsbD_eq
  intro n hn
  simp only [BitVec.getLsbD_append, BitVec.getLsbD_setWidth, BitVec.getLsbD_ushiftRight]
  by_cases h : n < 32
  · simp [h]
  · simp [h, show n - 32 < 32 by omega, show 32 + (n - 32) = n by omega]

/-- JOIN outside a handler, with room on the stack. -/
theorem joinBody_good {off : BitVec 19} (h : s.goodTarget s.cur (branchTarget (i.ctx s).next off)) (hh : s.me.trap.handler = false)
    (hs : s.me.flow.stack.length < 32) :
    ∃ divs, joinBody off (i.ctx s) s =
      .ok { s := s.setWeft s.cur { s.me with flow := { s.me.flow with
                    stack := .join (branchTarget (i.ctx s).next off) s.me.flow.active :: s.me.flow.stack } }
            divs := divs, noUndo := true } := by
  obtain ⟨w, hw⟩ := targetHeader_good (c := i.ctx s) h
  have h2 : s.weft (i.ctx s).k = s.me := rfl
  unfold joinBody
  simp only [hw, h2, hh, Nat.not_le.2 hs, Bool.false_eq_true, if_false]
  exact ⟨_, rfl⟩

/-! ## O35 -/

/-- Settles O35: transfers by `transfers_of_taken`, the rest by what their bodies leave. -/
theorem callsJumpsAndWaits : Obligations.CallsJumpsAndWaits := by
  unfold Obligations.CallsJumpsAndWaits
  refine ⟨fun p a b off s => ?_, fun p u a s => ?_, fun k h m s hh hk hc hf hd hl => ?_⟩
  · intro w act st
    refine ⟨?_, ?_, ?_⟩
    · intro i0 next target i h hm
      have hx : execCall p off s = settled s.cur (issue { i with clause := targetClause s s.cur target } (callBody off) s) := rfl
      rw [exec_call, hx, targetClause_good hm.1]
      obtain ⟨t, ht, htr, hr⟩ := transfers_of_taken (i := i) h (callBody_good hm.1) rfl (onlyWeft_setWeft_once _ _ _)
        (State.weft_setWeft_same ..) hm
      refine ⟨t, ht, htr, ?_, fun n h1 h2 => ?_, ?_⟩
      · unfold pairAt
        rw [hr, if_pos rfl, getS_setWordsS, getS_setWordsS]
        exact pairOf_low_high next
      · rw [hr, getS_setWordsS, dif_neg (by simp; omega)]
      · rw [hr, setWordsS_frame]
    · intro jump
      refine ⟨fun h hm => ?_, fun h hm => ?_⟩
      · have hx : execRet p a s = settled s.cur (issue { formA p 0x65 2 true 0 a 0 with
            est := fun _ => 0, ctl := some (jumpWords w (pairAt w true a 0)), clause := pairClause s a (pairAt w true a 0) } retBody s) := rfl
        rw [exec_ret, hx, pairClause_good hm.1]
        exact jumpTo_transfers h rfl hm
      · have hx : execJmpr p a b s = settled s.cur (issue { formA p 0x65 7 true 0 a b with
            est := fun _ => 0, ctl := some (jumpWords w (pairAt w true a 0 + 4 * (wordAt w true b 0).signExtend 64))
            clause := pairClause s a (pairAt w true a 0 + 4 * (wordAt w true b 0).signExtend 64) } jmprBody s) := rfl
        rw [exec_jmpr, hx, pairClause_good hm.1]
        exact jumpTo_transfers h rfl hm
    · intro i0 next target n i h hg hh hs
      have hx : execJoin p off s = issue { i with clause := targetClause s s.cur target } (joinBody off) s := rfl
      rw [exec_join, hx, targetClause_good hg]
      obtain ⟨divs, hb⟩ := joinBody_good (i := i) hg hh hs
      obtain ⟨t, ht, hr⟩ := retires_of_ok (i := i) h hb rfl (by rw [State.weft_setWeft_same]; exact KeepsPace.of_stack _ _)
      exact ⟨t, _, ht, hr, rfl⟩
  · intro same N Y W v m
    refine ⟨fun h => ?_, fun h => ?_, fun h hv hf hd => ?_, fun h hv hf hl => ?_⟩
    · exact (plainStep_of_unchanged h rfl).imp fun t ht => ⟨(exec_nop p u s).trans ht.1, ht.2⟩
    · rw [exec_yield]
      exact retires_of_ok (e := { s := s.swapOpportunity (s.coreOf s.cur) }) h rfl rfl (OnlySchedule.swapOpportunity s _).keepsPace
    · exact (plainStep_of_unchanged h (waitfBody_clear rfl hv hf hd)).imp fun t ht => ⟨(exec_waitf p a s).trans ht.1, ht.2⟩
    · exact exec_waitf p a s ▸ issue_holds h (waitfBody_waits rfl hv hf hl)
  · have hr : execWaitfRelease k s = .next (releaseHold s k h) := by
      unfold execWaitfRelease
      simp [hh, hk, hc, hf, hd]
    exact ⟨_, (exec_waitfRelease k s).trans hr, releaseHold_resumes hl⟩

end Sys2Proof.Machine

namespace Sys2Proof.Machine

variable {p : Option Prefix} {u : Bool} {a b d : Reg} {s : State}

/-! ## SRD (02_threads R38 to R40) -/

theorem exec_srd (p : Option Prefix) (u : Bool) (d b : Reg) (s : State) :
    exec (.srd p u d b) s = issue (formA p 0x78 0 u d 0 b) (srdBody b.toNat) s := rfl

theorem flagBit_eq (c : Bool) (n : Nat) : flagBit c n = if c then 2 ^ n else 0 := rfl

/-- FLAGS as a sum over the flags that are not clear. -/
theorem flagsWord_eq (w : Weft) : flagsWord w = ((List.range 12).map fun n => if w.flagCount n = 0 then 0 else 2 ^ n).sum := by
  unfold flagsWord
  rw [List.sum_eq_foldl, List.foldl_map]
  congr
  funext t n
  rw [flagBit_eq]
  by_cases h : w.flagCount n = 0 <;> simp [h]

theorem srdBody_plain {n : Nat} {i : Info} (hn : n ≠ 0x19) :
    srdBody n (i.ctx s) s = .ok { s := s.setWeft s.cur (laneWeft i s fun L => (specialVal s s.cur n L).setWidth 128)
                                  recs := destRecs s.me (i.ctx s) } := by
  unfold srdBody
  rw [if_neg hn]
  exact laneEffect_clean (push := true) (f := fun x => { val := (specialVal s s.cur n x.lane).setWidth 128 }) fun _ _ => ⟨rfl, rfl⟩

theorem srdBody_dclk {i : Info} :
    srdBody 0x19 (i.ctx s) s = .ok { s := s.tick.setWeft s.cur (laneWeft i s fun _ => (dclkVal s s.cur).setWidth 128)
                                     recs := destRecs s.me (i.ctx s) } :=
  laneEffect_clean (push := true) (f := fun _ => ret64 (dclkVal s s.cur)) (s := s.tick) fun _ _ => ⟨rfl, rfl⟩

/-- DCLK outside a domain, and in one (17_determinism R390). -/
theorem dclkVal_outside {k : Nat} (h : s.inDomain k = false) : dclkVal s k = 0 := by
  unfold dclkVal
  rw [h]
  rfl

theorem dclkVal_le {k : Nat} (h : s.inDomain k = true) : (dclkVal s k).toNat ≤ (s.minClock (s.teamOfWeft k).domain).toNat := by
  unfold dclkVal
  rw [h]
  simp only [Bool.not_true, Bool.false_eq_true, if_false]
  split
  · assumption
  · exact le_refl _

/-! ## SWR (02_threads R39, 18_traps R411) -/

/-- Where no rule makes it privileged, SWR runs its body under its form. -/
theorem exec_swr_free (h : (b != 0x0B && (!handlerReg b.toNat || !s.me.trap.handler)) = false) :
    exec (.swr p u a b) s = issue (formA p 0x78 1 u 0 a b) (swrBody b.toNat) s := by
  show issue { formA p 0x78 1 u 0 a b with priv := b != 0x0B && (!handlerReg b.toNat || !s.me.trap.handler) } (swrBody b.toNat) s = _
  rw [h]
  rfl

/-- A per-thread register is written per thread, any other by the uniform form (02_threads R40). -/
theorem swr_u_of_issues (h : issues (formA p 0x78 1 u 0 a b) s = true) : (u != specialThread b.toNat) = true := by
  have hl := legal_of_issues h
  unfold Info.legal at hl
  simp only [Bool.and_eq_true] at hl
  obtain ⟨-, hok⟩ := hl
  have hok : (decide (b.toNat ≤ 0x20) && (u != specialThread b.toNat) && !(p.any fun x => x.asc)) = true := hok
  simp only [Bool.and_eq_true] at hok
  exact hok.1.2

theorem pairAt_scalar (w : Weft) (r : Reg) (L : Nat) : pairAt w true r L = pairAt w true r 0 := by
  unfold pairAt
  rw [if_pos rfl, if_pos rfl]

/-- The value that SWR gives a register that is no per-thread one. -/
theorem swr_value (L : Nat) :
    (((formA p 0x78 1 true 0 a b).ctx s).valA s.me L).setWidth 64 =
      if specialWide b.toNat then pairAt s.me true a 0 else (wordAt s.me true a 0).setWidth 64 := by
  show (readOp s.me true (.reg (if specialWide b.toNat then 2 else 1)) a L).setWidth 64 = _
  by_cases hw : specialWide b.toNat = true
  · rw [if_pos hw, if_pos hw, ← pairAt_scalar s.me a L, ← w64_readOp]
    rfl
  · rw [if_neg hw, if_neg hw]
    unfold readOp wordAt
    simp [RK.words, Regs.wordsS, joinWords]

/-- In a handler SWR of a register of the handler does what `swrHandler` does. -/
theorem swrBody_handler {n : Nat} (hb : b.toNat = n) (hn : handlerReg n = true) (hh : s.me.trap.handler = true) :
    swrBody n ((formA p 0x78 1 true 0 a b).ctx s) s =
      swrHandler n (if specialWide n then pairAt s.me true a 0 else (wordAt s.me true a 0).setWidth 64)
        ((formA p 0x78 1 true 0 a b).ctx s) s := by
  have hne : n ≠ 0x0B := by rintro rfl; cases hn
  have hw : s.weft ((formA p 0x78 1 true 0 a b).ctx s).k = s.me := rfl
  unfold swrBody
  simp only [hw, if_neg hne, hn, hh]
  rw [swr_value, hb]
  rfl

/-! ### FFLAGS -/

theorem fflag_setFflag (w : Weft) (L M : Nat) (v : Byte) : (w.setFflag L v).fflag M = if M = L then v else w.fflag M := SMap.get_set _ _ _ _ _

theorem foldl_setFflag_frame (f : Nat → Byte) : ∀ (ls : List Nat) (w : Weft),
    ls.foldl (fun w L => w.setFflag L (f L)) w
      = { w with regs := { w.regs with fflags := (ls.foldl (fun w L => w.setFflag L (f L)) w).regs.fflags } }
  | [], _ => rfl
  | L :: ls, w => by
    rw [List.foldl_cons, foldl_setFflag_frame f ls]
    rfl

theorem fflag_foldl_setFflag (f : Nat → Byte) (M : Nat) : ∀ (ls : List Nat) (w : Weft),
    (ls.foldl (fun w L => w.setFflag L (f L)) w).fflag M = if M ∈ ls then f M else w.fflag M
  | [], _ => by simp
  | L :: ls, w => by
    rw [List.foldl_cons, fflag_foldl_setFflag f M ls, fflag_setFflag]
    by_cases h1 : M ∈ ls <;> by_cases h2 : M = L <;> simp [h1, h2]

/-- What SWR FFLAGS leaves of its weft. -/
def swrFflags (i : Info) (s : State) : Weft := (i.lanes s).foldl (fun w L => w.setFflag L ((i.a32 s L).setWidth 8 &&& 0x3F)) s.me

theorem swrBody_fflags : ∃ recs, swrBody 0x0B ((formA p 0x78 1 false 0 a 0x0B).ctx s) s =
    .ok { s := s.setWeft s.cur (swrFflags (formA p 0x78 1 false 0 a 0x0B) s), recs := recs, noFlagsRec := true } := by
  have hval : ∀ L, (((formA p 0x78 1 false 0 a 0x0B).ctx s).valA s.me L).setWidth 8
      = ((formA p 0x78 1 false 0 a 0x0B).a32 s L).setWidth 8 := fun L => by
    have h : w32 (((formA p 0x78 1 false 0 a 0x0B).ctx s).valA s.me L) = (formA p 0x78 1 false 0 a 0x0B).a32 s L := w32_readOp ..
    rw [← h]
    unfold w32
    rw [BitVec.setWidth_setWidth_of_le _ (by omega)]
  unfold swrBody swrFflags
  simp only [← hval]
  exact ⟨_, rfl⟩

/-! ### Registers of a handler -/

/-- While no sweep of the weft is under way no phase is reserved. -/
theorem reservePhase_idle {k : Nat} (h : ∀ y ∈ s.cores, ∀ o ∈ y.2.ops, o.k = k → o.kind.sweepLike = false) :
    s.reservePhase k = dphase (s.weft k).regs.fmode := by
  have hz : ∀ cs : List (Nat × Core), (∀ y ∈ cs, ∀ o ∈ y.2.ops, o.k = k → o.kind.sweepLike = false) → ∀ n : Nat,
      cs.foldl (fun n x => n + (x.2.ops.filter fun o => o.k == k && o.kind.sweepLike).length) n = n := by
    intro cs
    induction cs with
    | nil => exact fun _ _ => rfl
    | cons y cs ih =>
      intro hy n
      have hf : (y.2.ops.filter fun o => o.k == k && o.kind.sweepLike) = [] := by
        refine List.filter_eq_nil_iff.2 fun o ho => ?_
        have := hy y (by simp) o ho
        simpa using this
      rw [List.foldl_cons, hf]
      exact ih (fun z hz => hy z (List.mem_cons_of_mem _ hz)) n
  unfold State.reservePhase
  simp only [hz s.cores h 0, Nat.add_zero]
  refine Nat.mod_eq_of_lt ?_
  unfold dphase bitsOf bitsN
  exact Nat.mod_lt _ (by decide)

/-- FMODE, but for DET. -/
theorem swrHandler_fmode {i : Info} {v : Dword} (h7 : bitsOf (v.setWidth 32 : Word) 0 3 ≠ 7) (h18 : bitsOf (v.setWidth 32 : Word) 18 14 = 0)
    (hops : ∀ y ∈ s.cores, ∀ o ∈ y.2.ops, o.k = s.cur → o.kind.sweepLike = false) :
    swrHandler 0x0A v (i.ctx s) s = .ok { s := s.setWeft s.cur { s.me with regs := { s.me.regs with
      fmode := withBits (v.setWidth 32 : Word) 17 1 (bitsOf s.me.regs.fmode 17 1) } } } := by
  have hp : s.reservePhase (i.ctx s).k = dphase s.me.regs.fmode := reservePhase_idle hops
  have ha : (s.cores.any fun x => x.2.ops.any fun o => o.k == (i.ctx s).k && o.kind.sweepLike) = false := by
    simp only [List.any_eq_false]
    intro y hy
    simp only [Bool.not_eq_true, List.any_eq_false]
    intro o ho
    have hk : (i.ctx s).k = s.cur := rfl
    have := hops y hy o ho
    simpa [hk] using this
  unfold swrHandler lowWord
  simp only [hp, ha]
  rw [if_neg (by simp [h7, h18]), if_neg (by simp [State.me, Info.ctx, Info.at])]
  rfl

/-- Records that are forgotten leave the stack's registers, the weft's place and every other weft as they were. -/
theorem forgetRecords_frame (s : State) (k top : Nat) :
    ((forgetRecords s k top).weft k = { s.weft k with seg := ((forgetRecords s k top).weft k).seg
                                                      stores := ((forgetRecords s k top).weft k).stores })
      ∧ (∀ j, j ≠ k → (forgetRecords s k top).weft j = s.weft j) ∧ (forgetRecords s k top).mem = s.mem := by
  unfold forgetRecords
  extract_lets keep piece write s1
  have hw : s1.weft k = { s.weft k with seg := (s1.weft k).seg, stores := (s1.weft k).stores } := by
    simp only [s1, State.modWeft_eq, State.weft_setWeft_same]
  exact ⟨hw, fun j hj => State.weft_setWeft_ne _ _ hj, rfl⟩

/-- HSP, HBASE and HLIM with one of them written. -/
def histWritten (h : Hist) (n : Nat) (v : Dword) : Hist :=
  { h with hsp := if n = 4 then v else h.hsp, hbase := if n = 5 then v else h.hbase, hlim := if n = 6 then v else h.hlim }

/-- A value in order inside the history area is taken (09_registers_history R212). -/
theorem writeHistReg_ok {h : Hist} {n : Nat} {v : Dword} (h4 : 4 ≤ n) (h6 : n ≤ 6) (hm : v.toNat % 4 = 0) (hlo : h.a0.toNat ≤ v.toNat)
    (hhi : v.toNat ≤ h.a0.toNat + h.bytes) (hb : (histWritten h n v).hbase.toNat ≤ (histWritten h n v).hsp.toNat)
    (hl : (histWritten h n v).hsp.toNat ≤ (histWritten h n v).hlim.toNat) (hs : (histWritten h n v).hsp.toNat ≤ h.hsp.toNat) :
    writeHistReg h n v = some (histWritten h n v) := by
  have hw : (if n = 4 then ({ h with hsp := v } : Hist) else if n = 5 then { h with hbase := v } else { h with hlim := v }) = histWritten h n v := by
    unfold histWritten
    obtain rfl | rfl | rfl : n = 4 ∨ n = 5 ∨ n = 6 := by omega
    all_goals rfl
  unfold writeHistReg
  simp only [hw]
  rw [if_pos ⟨hm, by simp [Hist.inArea, hlo, hhi], hb, hl, hs⟩]

theorem swrHandler_hist {i : Info} {n : Nat} {v : Dword} {h : Hist} (h4 : 4 ≤ n) (h6 : n ≤ 6) (hw : writeHistReg s.me.hist n v = some h) :
    swrHandler n v (i.ctx s) s =
      .ok { s := (forgetRecords s s.cur h.top).setWeft s.cur { (forgetRecords s s.cur h.top).weft s.cur with hist := h } } := by
  have hk : (i.ctx s).k = s.cur := rfl
  have hm : s.weft s.cur = s.me := rfl
  obtain rfl | rfl | rfl : n = 4 ∨ n = 5 ∨ n = 6 := by omega
  all_goals
    unfold swrHandler
    simp only [hk, hm, hw, State.modWeft_eq]

/-! ## A privileged instruction outside a handler (18_traps R411, R420) -/

/-- A trap enters the handler of its context (18_traps R405, R408). -/
theorem takeTrap_enters {k : Nat} {c : Cause} {tpc tic addr : Dword} {lane : Nat} {resume : Dword} {entry : Entry} (h : s.armed k) :
    EntersTrap c tpc tic addr lane k s (takeTrap s k c tpc tic addr lane resume entry) := by
  obtain ⟨hh, hv⟩ := h
  unfold takeTrap
  simp only [hh, hv, if_true, Bool.false_eq_true, if_false]
  constructor
  case mem => rfl
  case others => exact fun j hj => State.weft_setWeft_ne _ _ hj
  all_goals rw [State.weft_setWeft_same]
  case records => exact ⟨rfl, rfl⟩

theorem ite_some_eq_none {α : Type} {c : Prop} [Decidable c] {x : α} {y : Option α} (h : (if c then some x else y) = none) : ¬ c ∧ y = none := by
  split at h
  · cases h
  · next hc => exact ⟨hc, h⟩

/-- What would take effect, were it not privileged, raises PRIV. -/
theorem decodeStop_priv {i : Info} {w : Weft} (h : decodeStop i w = none) : decodeStop { i with priv := true } w = some (.priv, 0) := by
  unfold decodeStop at h ⊢
  obtain ⟨hguard, h⟩ := ite_some_eq_none h
  obtain ⟨hflag, h⟩ := ite_some_eq_none h
  refine (if_neg hguard).trans ((if_neg hflag).trans ?_)
  cases hc : i.clause with
  | some va => rw [hc] at h; cases h
  | none =>
    rw [hc] at h
    obtain ⟨hlegal, -⟩ := ite_some_eq_none h
    exact if_neg hlegal

/-- An instruction that decode stops takes its trap (03_encoding R58). -/
theorem issue_of_decodeStop {i : Info} {body : Ctx → State → Except Stop Eff} {cs : Cause} {addr : Dword} (hcan : s.canIssue s.cur = true)
    (himp : (s.me.nextImprecise fun x => x.gate.isNone) = none) (hq : (i.quiet && !s.me.guarded.isEmpty || i.touches && s.me.acquiring) = false)
    (hd : decodeStop i s.me = some (cs, addr)) :
    issue i body s = .next (takeTrap s s.cur cs s.me.flow.pc s.me.flow.ic addr 0 s.me.flow.pc .body) := by
  have ht : tryIssue (i.at s.cur (s.weft s.cur)) body (s.weft s.cur) s = .error (.trap cs addr 0) := by
    unfold tryIssue
    simp only [show ∀ w, (i.at s.cur w).i = i from fun _ => rfl, show s.weft s.cur = s.me from rfl, hq, hd]
    rfl
  have himp : ((s.weft s.cur).nextImprecise fun x => x.gate.isNone) = none := himp
  unfold issue
  simp only [hcan, Bool.not_true, Bool.false_eq_true, if_false, himp, ht]
  rfl

/-- A privileged form that would else take effect raises PRIV. -/
theorem issue_priv {i : Info} {body : Ctx → State → Except Stop Eff} (h : issues i s = true) :
    issue { i with priv := true } body s = .next (takeTrap s s.cur .priv s.me.flow.pc s.me.flow.ic 0 0 s.me.flow.pc .body) := by
  unfold issues at h
  simp only [Bool.and_eq_true, Bool.or_eq_true, Bool.not_eq_true', Option.isNone_iff_eq_none] at h
  obtain ⟨⟨⟨⟨⟨⟨⟨⟨⟨⟨hcan, himp⟩, hq⟩, ha⟩, hd⟩, -⟩, -⟩, -⟩, -⟩, -⟩, -⟩ := h
  have hq : (i.quiet && !s.me.guarded.isEmpty || i.touches && s.me.acquiring) = false := by
    rcases hq with hq | hq <;> rcases ha with ha | ha <;> simp [hq, ha]
  exact issue_of_decodeStop hcan himp hq (decodeStop_priv hd)

/-! ## O42 -/

theorem handlerReg_hist {n : Nat} (h4 : 4 ≤ n) (h6 : n ≤ 6) : handlerReg n = true := by
  obtain rfl | rfl | rfl : n = 4 ∨ n = 5 ∨ n = 6 := by omega
  all_goals rfl

/-- The registers of a handler are written by the uniform form. -/
theorem swr_uniform (hr : handlerReg b.toNat = true) (h : issues (formA p 0x78 1 u 0 a b) s = true) : u = true := by
  have hu := swr_u_of_issues h
  have ht : specialThread b.toNat = false := by
    unfold handlerReg at hr
    unfold specialThread
    simp only [Bool.or_eq_true, Bool.and_eq_true, decide_eq_true_eq, beq_iff_eq] at hr
    simp only [Bool.or_eq_false_iff, beq_eq_false_iff_ne]
    omega
  rw [ht] at hu
  simpa using hu

/-- A trap register, or another part of the trap state that leaves the handler mode and no more faulted lanes than before, is written. -/
theorem KeepsPace.of_trap {w : Weft} {t : TrapRegs} (hl : t.lanes = [] ∨ w.trap.lanes ≠ []) (hh : t.handler = w.trap.handler) :
    KeepsPace w { w with trap := t } := by
  refine ⟨fun h ⟨ha, hp⟩ => h ⟨ha, ?_⟩, rfl, ?_⟩
  · unfold Weft.lanesPending at hp ⊢
    rcases hl with hl | hl
    · rw [hl] at hp; cases hp
    · simpa using hl
  · unfold Weft.recording
    rw [hh]

/-- A register of the handler that SWR writes in its weft. -/
theorem swr_writes {n : Nat} {v : Dword} {w' : Weft} (hb : b.toNat = n) (hn : handlerReg n = true)
    (hv : (if specialWide n then pairAt s.me true a 0 else (wordAt s.me true a 0).setWidth 64) = v)
    (h : issues (formA p 0x78 1 true 0 a b) s = true) (hh : s.me.trap.handler = true) (hk : KeepsPace s.me w')
    (hs : swrHandler n v ((formA p 0x78 1 true 0 a b).ctx s) s = .ok { s := s.setWeft s.cur w' }) :
    ∃ t, exec (.swr p true a b) s = .next t ∧ Retires (formA p 0x78 1 true 0 a b) s (s.setWeft s.cur w') t := by
  subst hv
  rw [exec_swr_free (by simp [hb, hn, hh])]
  refine retires_of_ok (e := { s := s.setWeft s.cur w' }) h ?_ rfl (by rw [State.weft_setWeft_same]; exact hk)
  rw [hb, swrBody_handler hb hn hh]
  exact hs

theorem recording_handler {w : Weft} (h : w.trap.handler = true) : w.recording = false := by
  unfold Weft.recording
  rw [h, Bool.not_true, Bool.and_false]

/-- HSP, HBASE or HLIM takes a value that stays in order inside the history area. -/
theorem swr_hist {n : Nat} {v : Dword} (hb : b.toNat = n) (h4 : 4 ≤ n) (h6 : n ≤ 6)
    (hv : (if specialWide n then pairAt s.me true a 0 else (wordAt s.me true a 0).setWidth 64) = v)
    (h : issues (formA p 0x78 1 true 0 a b) s = true) (hh : s.me.trap.handler = true)
    (hw : writeHistReg s.me.hist n v = some (histWritten s.me.hist n v)) :
    ∃ t, exec (.swr p true a b) s = .next t ∧ (t.weft s.cur).hist.hsp = (histWritten s.me.hist n v).hsp
      ∧ (t.weft s.cur).hist.hbase = (histWritten s.me.hist n v).hbase ∧ (t.weft s.cur).hist.hlim = (histWritten s.me.hist n v).hlim
      ∧ WentOn (formA p 0x78 1 true 0 a b) s.me (t.weft s.cur) ∧ (t.weft s.cur).regs = s.me.regs ∧ (t.weft s.cur).trap = s.me.trap
      ∧ t.mem = s.mem ∧ ∀ j, j ≠ s.cur → t.weft j = s.weft j := by
  subst hv
  have hn : handlerReg n = true := handlerReg_hist h4 h6
  generalize histWritten s.me.hist n _ = H at hw ⊢
  obtain ⟨hf, ho, hm⟩ := forgetRecords_frame s s.cur H.top
  have hbody := (swrBody_handler (p := p) (a := a) hb hn hh).trans (swrHandler_hist (i := formA p 0x78 1 true 0 a b) h4 h6 hw)
  generalize forgetRecords s s.cur H.top = u at hf ho hm hbody
  have hrec : ({ u.weft s.cur with hist := H } : Weft).recording = false := by
    rw [hf]
    exact recording_handler hh
  obtain ⟨t, ht, ⟨hon, hg, hc, hr, hi⟩⟩ := retires_of_ok (e := { s := u.setWeft s.cur { u.weft s.cur with hist := H } }) h hbody rfl (by
    rw [State.weft_setWeft_same]
    exact ⟨by rw [hf]; exact id, by rw [hf]; rfl, hrec.trans (recording_handler hh).symm⟩)
  rw [State.weft_setWeft_same] at hc hr hi
  obtain ⟨hsilent, -, hbase, hlim, -⟩ := hi
  rw [exec_swr_free (by simp [hb, hn, hh]), hb]
  refine ⟨t, ht, (hsilent hrec).2, hbase, hlim, hg, by rw [hr, hf]; rfl, ?_, ?_, fun j hj => ?_⟩
  · have := congrArg Weft.trap hc
    rw [this, hf]
    rfl
  · rw [hon.1]
    exact hm
  · rw [hon.2 j hj]
    exact (State.weft_setWeft_ne _ _ hj).trans (ho j hj)

/-- Settles O42: SRD by the value of each register, SWR by what its body leaves, or by the trap that decode takes. -/
theorem specialRegisters : Obligations.SpecialRegisters := by
  unfold Obligations.SpecialRegisters
  refine ⟨fun p u d b s => ?_, fun p u a b s => ?_⟩
  · intro i w x z m val
    have hval : ∀ L, specialVal s s.cur b.toNat L = val L := by
      intro L
      have hdir : BitVec.ofNat 64 (flagBit w.flow.dir 0) = if w.flow.dir then 1 else 0 := by cases w.flow.dir <;> rfl
      simp only [specialVal, show s.weft s.cur = w from rfl, hdir, flagsWord_eq, val]
      generalize b.toNat = n
      by_cases hn : n < 0x21
      · interval_cases n <;> rfl
      · obtain ⟨k, rfl⟩ : ∃ k, n = k + 0x21 := ⟨n - 0x21, by omega⟩
        rfl
    have hdk : i.dk = .reg (if specialWide b.toNat then 2 else 1) := rfl
    refine ⟨fun hb hw h => ?_, fun hb hw h => ?_, fun hb h => ?_⟩
    · have hn : b.toNat ≠ 0x19 := fun h => hb (BitVec.eq_of_toNat_eq h)
      rw [exec_srd]
      obtain ⟨t, ht, hr, hf, hl, hz⟩ := writes32_of_laneWeft h (by rw [hdk]; exact congrArg RK.reg hw) (srdBody_plain hn)
      exact ⟨t, ht, hr, hf, fun L hL => (hl L hL).trans (by simp [w32, hval]), hz⟩
    · have hn : b.toNat ≠ 0x19 := fun h => hb (BitVec.eq_of_toNat_eq h)
      rw [exec_srd]
      obtain ⟨t, ht, hr, hf, hl, hz⟩ := writes64_of_laneWeft h (by rw [hdk]; exact congrArg RK.reg hw) (srdBody_plain hn)
      exact ⟨t, ht, hr, hf, fun L hL => (hl L hL).trans (by simp [w64, hval]), hz⟩
    · subst hb
      obtain ⟨w', ht, hg⟩ := issue_goesOn (e := { s := s.tick.setWeft s.cur (laneWeft i s fun _ => (dclkVal s s.cur).setWidth 128)
                                                  recs := destRecs s.me (i.ctx s) }) h srdBody_dclk rfl (by
        rw [State.weft_setWeft_same]
        obtain ⟨v, x, hw⟩ := laneWeft_frame i s fun _ => (dclkVal s s.cur).setWidth 128
        exact hw ▸ KeepsPace.of_regs s.me _)
      rw [State.weft_setWeft_same] at hg
      obtain ⟨-, hgo, hct, -, -, -⟩ := registerStep_of_lane (n := 2) h rfl hg
      rw [State.weft_setWeft_same] at hgo hct
      refine ⟨_, dclkVal s s.cur, (exec_srd p u d 0x19 s).trans ht, rfl, ?_, ?_, fun L hL => ?_, dclkVal_outside, dclkVal_le⟩ <;>
        rw [State.weft_setWeft_same]
      · exact hgo
      · exact hct
      · exact (pairAt_lane h rfl hg hL (lanes_disjoint h hL)).trans (by simp [w64])
  · intro i w n v x lo writes h
    refine ⟨fun hb => ?_, fun hh => ?_, fun hb ha => ?_⟩
    · subst hb
      obtain rfl : u = false := by simpa [specialThread] using swr_u_of_issues h
      obtain ⟨recs, hbody⟩ := swrBody_fflags (p := p) (a := a) (s := s)
      have hfr : swrFflags i s = { s.me with regs := { s.me.regs with fflags := (swrFflags i s).regs.fflags } } := foldl_setFflag_frame ..
      obtain ⟨t, ht, hr⟩ := retires_of_ok (i := i) (e := { s := s.setWeft s.cur (swrFflags i s), recs := recs, noFlagsRec := true }) h hbody rfl
        (by rw [State.weft_setWeft_same, hfr]; exact KeepsPace.of_regs s.me _)
      have hregs : (t.weft s.cur).regs = (swrFflags i s).regs := by rw [hr.regs, State.weft_setWeft_same]
      have hctl : SameControl (swrFflags i s) (t.weft s.cur) := by
        have := hr.control
        rwa [State.weft_setWeft_same] at this
      refine ⟨t, (exec_swr_free rfl).trans ht, ⟨hr.only.1, fun j hj => (hr.only.2 j hj).trans (State.weft_setWeft_ne _ _ hj)⟩, hr.goes, ?_, ?_,
        fun L => ?_⟩
      · rw [hfr] at hctl
        exact hctl
      · rw [hregs, hfr]
      · have hL : (t.weft s.cur).fflag L = (swrFflags i s).fflag L := by
          unfold Weft.fflag
          rw [hregs]
        exact hL.trans (fflag_foldl_setFflag _ L (i.lanes s) s.me)
    · have hwr : ∀ {k : Nat} {w' : Weft}, n = k → handlerReg k = true → KeepsPace w w' →
          swrHandler k v (i.ctx s) s = .ok { s := s.setWeft s.cur w' } → writes w' := by
        intro k w' hk hr hp hs
        subst hk
        obtain rfl : u = true := swr_uniform hr h
        exact swr_writes rfl hr rfl h hh hp hs
      refine ⟨fun hn h7 h18 hops => ?_, fun hn => ?_, fun hn => ?_, fun hn => ?_, fun hn => ?_, fun hn => ?_, fun hn => ?_, ?_⟩
      · exact hwr hn rfl (KeepsPace.of_regs _ _) (swrHandler_fmode h7 h18 hops)
      · exact hwr hn rfl (KeepsPace.of_trap (em _) rfl) rfl
      · exact hwr hn rfl (KeepsPace.of_trap (em _) rfl) rfl
      · refine hwr hn rfl (KeepsPace.of_trap ?_ rfl) rfl
        by_cases hl : w.trap.lanes = []
        · left
          rw [hl]
          rfl
        · exact .inr hl
      · exact hwr hn rfl (KeepsPace.of_trap (em _) rfl) rfl
      · exact hwr hn rfl (KeepsPace.of_trap (em _) rfl) rfl
      · exact hwr hn rfl (KeepsPace.of_trap (em _) rfl) rfl
      · intro hsp hbase hlim h4 h6 hm hlo hhi hb hl hs
        have hr : handlerReg n = true := handlerReg_hist h4 h6
        obtain rfl : u = true := swr_uniform hr h
        exact swr_hist rfl h4 h6 rfl h hh (writeHistReg_ok h4 h6 hm hlo hhi hb hl hs)
    · have hp : (b != 0x0B && (!handlerReg b.toNat || !s.me.trap.handler)) = true := by
        simp [show b ≠ 11#7 from hb, show s.me.trap.handler = false from ha.1]
      have hx : exec x s = issue { i with priv := b != 0x0B && (!handlerReg b.toNat || !s.me.trap.handler) } (swrBody b.toNat) s := rfl
      rw [hp] at hx
      exact ⟨_, hx.trans (issue_priv h), takeTrap_enters ha⟩

end Sys2Proof.Machine

namespace Sys2Proof.Machine

/-! ## What an access to memory leaves alone: the wefts, the teams and the weft that issues -/

/-- The wefts, the teams and the weft that issues are those of `o`. -/
abbrev State.Threads (o s : State) : Prop := s.wefts = o.wefts ∧ s.teams = o.teams ∧ s.cur = o.cur

variable {o s : State}

theorem threads_refl (s : State) : s.Threads s := ⟨rfl, rfl, rfl⟩

theorem State.Threads.weft (h : o.Threads s) (k : Nat) : s.weft k = o.weft k := by
  unfold State.weft
  rw [h.1]

theorem State.Threads.team (h : o.Threads s) (t : Nat) : s.team t = o.team t := by
  unfold State.team
  rw [h.2.1]

theorem foldl_threads {α : Type} {f : State → α → State} (hf : ∀ s x, o.Threads s → o.Threads (f s x)) :
    ∀ (l : List α) {s : State}, o.Threads s → o.Threads (l.foldl f s)
  | [], _, h => h
  | x :: l, _, h => foldl_threads hf l (hf _ x h)

theorem foldl_threads₂ {α β : Type} {f : β × State → α → β × State} (hf : ∀ r x, o.Threads r.2 → o.Threads (f r x).2) :
    ∀ (l : List α) {r : β × State}, o.Threads r.2 → o.Threads (l.foldl f r).2
  | [], _, h => h
  | x :: l, _, h => foldl_threads₂ hf l (hf _ x h)

theorem ite_threads {c : Prop} [Decidable c] {t : State} (hs : o.Threads s) (ht : o.Threads t) : o.Threads (if c then s else t) := by
  split
  · exact hs
  · exact ht

/-! ### Registers, errors and L2 -/

theorem signal_threads (n : Nat) (h : o.Threads s) : o.Threads (s.signal n) := by
  unfold State.signal
  refine ite_threads h (foldl_threads (fun s p h => ?_) _ h)
  unfold signalPort
  exact ite_threads h (ite_threads h h)

theorem raise_threads (b : Nat) (h : o.Threads s) : o.Threads (s.raise b) :=
  ite_threads h (signal_threads _ h)

theorem goViral_threads (c a : Nat) (h : o.Threads s) : o.Threads (s.goViral c a) := ite_threads h h

theorem countCorrected_threads (n : Nat) (h : o.Threads s) : o.Threads (countCorrected n s) := by
  simp only [countCorrected]
  exact ite_threads h (raise_threads _ h)

theorem readCodeword_threads (c : Nat) (h : o.Threads s) : o.Threads (readCodeword c s).2 := by
  refine foldl_threads₂ (fun r u h => ?_) _ h
  cases u with
  | dram pa unc =>
    dsimp only
    split
    · exact h
    · split
      · exact goViral_threads _ _ h
      · exact countCorrected_threads _ h
  | _ => exact h

theorem readSector_threads (a : Nat) (h : o.Threads s) : o.Threads (readSector a s).2 := by
  refine foldl_threads₂ (fun r u h => ?_) _ h
  cases u with
  | l2 pa unc =>
    dsimp only
    split
    · exact h
    · split
      · exact goViral_threads _ _ h
      · exact h
  | _ => exact h

theorem homePut_threads (pa : Nat) (bs : List Byte) (h : o.Threads s) : o.Threads (s.homePut pa bs) :=
  foldl_threads (f := fun s b => s.l2Fill b (sectorsOf b pa bs.length)) (fun _ _ h => h) _ h

theorem l2Read_threads (pa n : Nat) (h : o.Threads s) : o.Threads (s.l2Read pa n).2 := by
  unfold State.l2Read
  refine foldl_threads₂ (r := (true, s)) (fun r b h => ?_) _ h
  extract_lets lacks x
  have hx : o.Threads x.2 := by
    show o.Threads (if _ then _ else _ : Bool × State).2
    split
    · exact h
    · refine foldl_threads₂ (r := (true, r.2)) (fun y i h => ?_) _ h
      show o.Threads (if _ then _ else _ : Bool × State).2
      split
      · exact readCodeword_threads _ h
      · exact readSector_threads _ h
  clear_value x
  split <;> exact hx

/-! ### Caches -/

theorem shedLines_threads (p : L1Line → Bool) (h : o.Threads s) : o.Threads (s.shedLines p) :=
  foldl_threads (f := State.sendWbD) (fun _ _ h => h) _ h

theorem ncFlush_threads (core : Nat) (p : NcSector → Bool) (drop write : Bool) (h : o.Threads s) : o.Threads (s.ncFlush core p drop write) := by
  unfold State.ncFlush
  extract_lets hit s1 clean
  have h1 : o.Threads s1 :=
    ite_threads (foldl_threads (fun _ x h => foldl_threads (fun _ _ h => homePut_threads _ _ h) _ h) _ h) h
  clear_value s1
  exact ite_threads h h1

theorem dropClusterTranslations_threads (ci base n : Nat) (h : o.Threads s) : o.Threads (s.dropClusterTranslations ci base n) := by
  unfold State.dropClusterTranslations
  exact ite_threads h (foldl_threads (fun _ _ h => ncFlush_threads _ _ _ _ h) _ (shedLines_threads _ h))

theorem dropThrough_threads (m : Msg) (h : o.Threads s) : o.Threads (s.dropThrough m) :=
  ite_threads h (dropClusterTranslations_threads _ _ _ h)

/-! ### Messages (04_dram_l2 R89 to R95) -/

theorem grantMemory_threads (t : Txn) (k : MsgKind) (h : o.Threads s) : o.Threads (grantMemory s t k) := by
  have h' := l2Read_threads t.unit t.gr h
  unfold grantMemory
  generalize s.l2Read t.unit t.gr = x at h'
  obtain ⟨ok, s'⟩ := x
  exact ite_threads (c := ok = true) h' h'

/-- A unit's entry in the directory, with or without the bits of its frame. -/
theorem grant_threads (die u gr pa : Nat) (d : UnitDir) (own : Bool) (h : o.Threads s) :
    o.Threads ((s.setUnitDir die u gr d).frameTouch pa own) := h

theorem completeHome_threads (t : Txn) (h : o.Threads s) : o.Threads (completeHome s t) := by
  unfold completeHome
  extract_lets hd q only d p
  split
  · split
    · exact grant_threads _ _ _ _ _ _ (grantMemory_threads t .dataE h)
    · exact grant_threads _ _ _ _ _ _ (grantMemory_threads t .dataS h)
  · exact grant_threads _ _ _ _ _ _ (s := (s.dropTxn t).sendMsg (grantMsg t .ackM [])) h
  · exact grant_threads _ _ _ _ _ _ (grantMemory_threads t .dataM h)
  · exact h

theorem coh_threads (c : Coherence) (h : o.Threads s) : o.Threads { s with coh := c } := h

theorem sendMsg_threads (m : Msg) (h : o.Threads s) : o.Threads (s.sendMsg m) := h

theorem putTxn_threads (t : Txn) (h : o.Threads s) : o.Threads (s.putTxn t) := h

theorem setUnitDir_threads (die u gr : Nat) (d : UnitDir) (h : o.Threads s) : o.Threads (s.setUnitDir die u gr d) := h

theorem completeGate_threads (t : Txn) (h : o.Threads s) : o.Threads (completeGate s t) := by
  unfold completeGate
  split <;> dsimp only
  · exact h
  · have hs : o.Threads (if t.from_ < 128 then s.sendMsg (grantMsg t .wbAck []) else s) := ite_threads h h
    generalize (if t.from_ < 128 then s.sendMsg (grantMsg t .wbAck []) else s) = s' at hs ⊢
    split
    · exact sendMsg_threads _ (putTxn_threads _ (coh_threads _ (setUnitDir_threads t.node t.unit t.gr
        { s'.unitDir t.node t.unit with owner := none, presence := 0 } hs)))
    · exact setUnitDir_threads _ _ _ _ (s := s'.dropTxn t) hs
  · exact h
  · exact ite_threads h h
  · exact h
  · have hd : o.Threads ((s.dropTxn t).setUnitDir t.node t.unit t.gr {}) := h
    generalize (s.dropTxn t).setUnitDir t.node t.unit t.gr {} = s' at hd ⊢
    split
    · exact sendMsg_threads _ hd
    · exact sendMsg_threads _ (sendMsg_threads _ hd)

theorem advance_threads (t : Txn) (h : o.Threads s) : o.Threads (advance s t) := by
  unfold advance
  refine ite_threads h ?_
  split
  · exact h
  · exact ite_threads (completeHome_threads _ h) (completeGate_threads _ h)

theorem openTxn_threads (t : Txn) (l : List Nat) (x : Option Nat) (h : o.Threads s) : o.Threads (openTxn s t l x) :=
  advance_threads _ (foldl_threads (f := fun s d =>
    s.sendMsg { kind := .inv, src := nodeAgent t.node, dst := d, unit := t.unit, gr := t.gr, mark := t.mark }) (fun _ _ h => h) l h)

theorem applyWbD_threads (m : Msg) (h : o.Threads s) : o.Threads (applyWbD s m) :=
  ite_threads h (homePut_threads m.unit m.data (s := (s.consume m.src m.unit).sendMsg _) h)

theorem acceptHome_threads (m : Msg) (h : o.Threads s) : o.Threads (acceptHome s m) := by
  unfold acceptHome
  extract_lets hd q d0 d s' t others x
  have hs : o.Threads s' := ite_threads h h
  clear_value s'
  refine ite_threads (applyWbD_threads _ h) (ite_threads ?_ (ite_threads ?_ ?_)) <;> exact openTxn_threads _ _ _ hs

theorem acceptGate_threads (n : Nat) (m : Msg) (h : o.Threads s) : o.Threads (acceptGate s n m) := by
  unfold acceptGate
  extract_lets q d0 t s0 d s1 mine others x
  have h1 : o.Threads s1 := ite_threads h h
  clear_value s1
  refine ite_threads (ite_threads (openTxn_threads _ _ _ (s := s0) h) h)
    (ite_threads (ite_threads (openTxn_threads _ _ _ h1) h1) (ite_threads (ite_threads (openTxn_threads _ _ _ h1) h1)
      (ite_threads (openTxn_threads _ _ _ h1) h1)))

theorem acceptProbe_threads (n : Nat) (m : Msg) (h : o.Threads s) : o.Threads (acceptProbe s n m) :=
  ite_threads (openTxn_threads _ _ _ h) (openTxn_threads _ _ _ h)

theorem recallEntry_threads (n : Nat) (e : DirEntry) (h : o.Threads s) : o.Threads (recallEntry s n e) :=
  foldl_threads (fun _ _ h => openTxn_threads _ _ _ h) _ h

theorem takeUp_threads (m : Msg) (h : o.Threads s) : o.Threads (takeUp s m) := by
  unfold takeUp
  refine ite_threads (goViral_threads _ _ h) (ite_threads (acceptProbe_threads _ _ h) (ite_threads ?_
    (ite_threads (acceptHome_threads _ h) (acceptGate_threads _ _ h))))
  split
  · exact recallEntry_threads _ _ (s := s.wait m) h
  · exact h

theorem arriveMsg_threads (m : Msg) (h : o.Threads s) : o.Threads (arriveMsg s m) := ite_threads (takeUp_threads _ h) h

theorem pump_threads : ∀ (n : Nat) {s : State}, o.Threads s → o.Threads (pump n s)
  | 0, _, h => h
  | n + 1, s, h => by
    unfold pump
    split
    · exact h
    · exact pump_threads n (takeUp_threads _ (s := { s with coh := { s.coh with waiting := _ } }) h)

theorem clusterForward_threads (m : Msg) (h : o.Threads s) : o.Threads (clusterForward s m) := by
  unfold clusterForward
  extract_lets back give ls
  split
  · exact ite_threads (dropThrough_threads m (s := s.dropLines m.dst m.unit) h) h
  · next s' _ _ =>
    have hs : o.Threads s' := ite_threads (dropThrough_threads m h) h
    clear_value s'
    split <;> exact hs

theorem clusterInv_threads (m : Msg) (h : o.Threads s) : o.Threads (clusterInv s m) :=
  dropThrough_threads m (s := s.dropLines m.dst m.unit) h

theorem clusterData_threads (m : Msg) (h : o.Threads s) : o.Threads (clusterData s m) := by
  unfold clusterData
  extract_lets st s1 mine l
  have h1 : o.Threads s1 := ite_threads h h
  exact h1

theorem clusterAck_threads (m : Msg) (h : o.Threads s) : o.Threads (clusterAck s m) := by
  unfold clusterAck
  split <;> exact h

theorem gateAnswer_threads (n : Nat) (m : Msg) (h : o.Threads s) : o.Threads (gateAnswer s n m) := by
  unfold gateAnswer
  split
  · exact h
  · split
    · exact h
    · dsimp only
      split
      · exact h
      · exact ite_threads h h
      · exact openTxn_threads _ _ _ h
      · exact ite_threads (openTxn_threads _ _ _ h) (openTxn_threads _ _ _ h)

theorem gateWbAck_threads (n u : Nat) (h : o.Threads s) : o.Threads (gateWbAck s n u) := by
  simp only [gateWbAck]
  split <;> exact h

theorem nodeInvAck_threads (n : Nat) (m : Msg) (h : o.Threads s) : o.Threads (nodeInvAck s n m) := by
  simp only [nodeInvAck]
  split
  · exact h
  · exact advance_threads _ h

theorem nodeFwdAck_threads (n : Nat) (m : Msg) (h : o.Threads s) : o.Threads (nodeFwdAck s n m) := by
  simp only [nodeFwdAck]
  repeat' split
  all_goals exact h

theorem nodeNoData_threads (n : Nat) (m : Msg) (h : o.Threads s) : o.Threads (nodeNoData s n m) := by
  simp only [nodeNoData]
  split
  · exact h
  · exact ite_threads (completeHome_threads _ h) (ite_threads (openTxn_threads _ _ _ h)
      (ite_threads (openTxn_threads _ _ _ h) (completeGate_threads _ h)))

theorem handle_threads (m : Msg) (h : o.Threads s) : o.Threads (handle s m) := by
  unfold handle
  split
  · split
    · exact clusterForward_threads m h
    · exact clusterForward_threads m h
    · exact clusterInv_threads m h
    · exact clusterAck_threads m h
    · exact h
    · exact clusterData_threads m h
  · extract_lets n
    split
    · exact nodeInvAck_threads n m h
    · exact nodeFwdAck_threads n m h
    · exact nodeNoData_threads n m h
    · exact gateWbAck_threads n _ h
    · exact gateAnswer_threads n m h
    · exact ite_threads (homePut_threads _ _ h) (gateAnswer_threads n m h)
    · exact gateAnswer_threads n m h
    · exact ite_threads h (gateAnswer_threads n m h)
    · exact arriveMsg_threads m h

theorem deliver_threads (m : Msg) (h : o.Threads s) : o.Threads (deliver s m) :=
  ite_threads (goViral_threads _ _ (s := { s with coh := { s.coh with msgs := s.coh.msgs.erase m } }) h)
    (pump_threads _ (handle_threads m (s := { s with coh := { s.coh with msgs := s.coh.msgs.erase m } }) h))

theorem drive_threads (done : State → Bool) (near : Msg → Bool) : ∀ (f : Nat) {s : State}, o.Threads s → o.Threads (drive done near f s)
  | 0, _, h => h
  | f + 1, s, h => by
    unfold drive
    refine ite_threads h ?_
    split
    · exact drive_threads done near f (deliver_threads _ h)
    · exact h

theorem settled_threads (pa n : Nat) (h : o.Threads s) : o.Threads (s.settled pa n) := ite_threads h (drive_threads _ _ _ h)

/-! ### Accesses at the home -/

theorem gather_threads (pa n : Nat) (mark : Bool) (h : o.Threads s) : o.Threads (s.gather pa n mark) := by
  have h1 := settled_threads pa n h
  unfold State.gather
  exact ite_threads h1 (settled_threads _ _ (foldl_threads (fun _ _ h => openTxn_threads _ _ _ h) _ h1))

theorem homeWrite_threads (pa : Nat) (bs : List Byte) (h : o.Threads s) : o.Threads (s.homeWrite pa bs) :=
  homePut_threads pa bs (gather_threads pa bs.length false h)

theorem homeOr_threads (pa : Nat) (v : Byte) (mark : Bool) (h : o.Threads s) : o.Threads (s.homeOr pa v mark) :=
  homePut_threads _ _ (gather_threads pa 1 mark h)

theorem homeRead_threads (pa n : Nat) (h : o.Threads s) : o.Threads (s.homeRead pa n).2 :=
  foldl_threads (fun _ _ h => ite_threads h (l2Read_threads _ _ h)) _ (settled_threads pa n h)

/-- Setting the bits of frames that wait changes no weft and no team (05_translation R121). -/
theorem applyOrs_threads (h : o.Threads s) : o.Threads (applyOrs s) :=
  foldl_threads (fun s x h => ite_threads h
    (homeOr_threads x.1 x.2 false (s := { s with coh := { s.coh with ors := s.coh.ors.erase x } }) h)) _ h

/-! ### Translation -/

theorem l1Room_threads (core ctx : Nat) (va : Dword) (h : o.Threads s) : o.Threads (s.l1Room core ctx va) := by
  unfold State.l1Room
  refine ite_threads h (ite_threads h ?_)
  dsimp only
  split
  · exact ncFlush_threads _ _ _ _ (shedLines_threads _ h)
  · exact h

theorem ask_threads (kind : MsgKind) (core ctx : Nat) (va : Dword) (pa gr : Nat) (p : L1Line → Bool) (h : o.Threads s) :
    o.Threads (s.ask kind core ctx va pa gr p) :=
  drive_threads _ _ _ (pump_threads _ (arriveMsg_threads _ (s := { s with coh := { s.coh with asks := _ } }) h))

theorem fetchShared_threads (core ctx : Nat) (va : Dword) (pa gr : Nat) (h : o.Threads s) : o.Threads (s.fetchShared core ctx va pa gr) := by
  unfold State.fetchShared
  split
  · exact h
  · extract_lets c s1 held s2 s3
    have h1 : o.Threads s1 := settled_threads _ _ (l1Room_threads _ _ _ h)
    have h3 : o.Threads s3 := ask_threads _ _ _ _ _ _ _ (settled_threads _ _ (shedLines_threads _ h1))
    clear_value s3 held s1
    refine ite_threads h3 ?_
    split
    · exact h1
    · exact ask_threads _ _ _ _ _ _ _ h1

theorem orLeaf_threads (leaf : Nat) (m : Byte) (h : o.Threads s) : o.Threads (s.orLeaf leaf m) := ite_threads h (homeOr_threads _ _ _ h)

theorem holdWalk_threads (cl : Nat) (e : TlbEntry) (h : o.Threads s) : o.Threads (s.holdWalk cl e) :=
  foldl_threads (fun _ _ h => ite_threads (fetchShared_threads _ _ _ _ _ h) (fetchShared_threads _ _ _ _ _ (fetchShared_threads _ _ _ _ _ h))) _ h

theorem touch_threads (cl ctx : Nat) (acc : Acc) (va : Dword) (e : TlbEntry) (h : o.Threads s) : o.Threads (s.touch cl ctx acc va e) := by
  unfold State.touch
  extract_lets s1 s2
  have h1 : o.Threads s1 := ite_threads h (orLeaf_threads _ _ (s := (s.holdWalk cl e).modCluster cl _) (holdWalk_threads _ _ h))
  clear_value s1
  exact ite_threads (orLeaf_threads _ _ h1) h1

/-- Translating the addresses of an access installs translations and sets A and D, and touches no weft and no team (05_translation R109). -/
theorem xlateAll_threads {core ctx : Nat} {acc : Acc} {as : List (Nat × Dword)} {accs : List (Nat × Dword × Nat × Nat)} {s' : State}
    (h : s.xlateAll core ctx acc as = .ok (accs, s')) : s.Threads s' := by
  unfold State.xlateAll at h
  extract_lets looked at h
  split at h
  · cases h
  · cases h
    refine foldl_threads (fun s x h => ?_) _ (threads_refl s)
    split
    · unfold State.through
      split
      · exact touch_threads _ _ _ _ _ h
      · exact h
    · exact h

end Sys2Proof.Machine

namespace Sys2Proof.Machine

variable {i : Info} {s s' : State} {body : Ctx → State → Except Stop Eff} {e : Eff} {off : Int} {n : Nat} {acc : Acc}
  {accs : List (Nat × Dword × Nat × Nat)}

/-! ## A step that accesses memory and takes place -/

theorem State.Threads.coreOf (h : s.Threads s') (k : Nat) : s'.coreOf k = s.coreOf k := by
  unfold State.coreOf State.teamOfWeft
  rw [h.team]

theorem State.Threads.member (h : s.Threads s') (k : Nat) : s'.member k = s.member k := by
  unfold State.member State.teamOfWeft
  rw [h.team]

theorem State.Threads.me (h : s.Threads s') : s'.weft s.cur = s.me := h.weft s.cur

/-- What a body leaves that met no access that must wait takes place, and its weft goes on. -/
theorem takes_of_ok (h : issues i s = true) (hb : body (i.ctx s) s = .ok e) (hf : e.fin = .next)
    (hk : KeepsPace s.me (e.s.weft s.cur)) (hc : s.clear e.s) : ∃ t, Takes (issueMem i body s) s t ∧ Retires i s e.s t := by
  obtain ⟨t, hi, hr⟩ := retires_of_ok h hb hf hk
  have ht : retire (i.ctx s) s.me (i.finish (i.ctx s) e) = t := by
    rw [issue_of_issues h, hb] at hi
    exact Host.Outcome.next.inj hi
  obtain ⟨hv, hbl⟩ := hc
  have hframe := hr.only.1
  have hv' : t.viral = s.viral := by rw [hframe]; exact hv
  have hb' : t.coh.blocked = false := by rw [hframe]; exact hbl
  have ho := applyOrs_threads (threads_refl { t with coh := { t.coh with actor := none } })
  refine ⟨t, ⟨s.after t, ?_, rfl, ?_, ?_, fun hors => State.after_of_plain hv' hb' hors⟩, hr⟩
  · rw [issueMem_of_issues h hb, ht]
  · rw [State.after_of_clear hv' hb']
    exact ho.1
  · rw [State.after_of_clear hv' hb']
    exact ho.2.1

/-! ## Addresses of the lanes (07_memory_instructions R143, R145) -/

theorem addrG_ctx (ha : i.ak = .reg 2) (L : Nat) : (i.ctx s).addrG s.me off L = i.addr s off L := by
  unfold Ctx.addrG Info.addr Ctx.valA
  change addOff (w64 (readOp s.me i.aScalar i.ak i.a L)) off = _
  rw [ha, w64_readOp]
  rfl

theorem addrS_ctx (ha : i.ak = .reg 1) (L : Nat) : (i.ctx s).addrS s.me off L = i.saddr s off L := by
  unfold Ctx.addrS Info.saddr Ctx.valA
  change (w32 (readOp s.me i.aScalar i.ak i.a L) + _).toNat = _
  rw [ha, w32_readOp]
  rfl

/-- The lanes of a global access with their addresses. -/
theorem accessAddrs (ha : i.ak = .reg 2) :
    ((i.ctx s).accessLanes s.me).map (fun L => (L, (i.ctx s).addrG s.me off L)) = (i.lanes s).map fun L => (L, i.addr s off L) :=
  List.map_congr_left fun L _ => by rw [addrG_ctx ha]

theorem filter_misaligned (h : i.allAligned s off n) :
    ((i.lanes s).map fun L => (L, i.addr s off L)).filter (fun x => x.2.toNat % n != 0) = [] := by
  rw [List.filter_eq_nil_iff]
  intro x hx
  obtain ⟨L, hL, rfl⟩ := List.mem_map.1 hx
  simp [h L hL]

theorem filter_aligned (h : i.allAligned s off n) :
    ((i.lanes s).map fun L => (L, i.addr s off L)).filter (fun x => x.2.toNat % n == 0) = (i.lanes s).map fun L => (L, i.addr s off L) := by
  rw [List.filter_eq_self]
  intro x hx
  obtain ⟨L, hL, rfl⟩ := List.mem_map.1 hx
  simp [h L hL]

@[simp] theorem faultLanes_nil (c : Ctx) (s : State) (cs : Cause) : faultLanes c s cs [] = (c, s) := rfl

/-- Where every lane is aligned and translated no lane faults. -/
theorem globalLanes_ok (ha : i.ak = .reg 2) (hal : i.allAligned s off n) (hr : i.reaches s off acc accs s') :
    globalLanes (i.ctx s) s n off acc = .ok (accs, i.ctx s, s') := by
  have hw : s.weft (i.ctx s).k = s.me := rfl
  unfold globalLanes
  simp only [hw, accessAddrs ha, filter_misaligned hal, filter_aligned hal]
  rw [show s.xlateAll (s.coreOf (i.ctx s).k) (s.ctxOf (i.ctx s).k) acc _ = .ok (accs, s') from hr]
  rfl

/-! ## An access put in flight (03_encoding R56) -/

/-- The weft with one more access in flight, counted on its flag. -/
def Weft.withFlight (w : Weft) (c : Ctx) (f : Flight) : Weft :=
  { w with seq := w.seq + 1, flights := w.flights ++ [f] }.countFlag (c.flagNo w)

theorem launches_of_ok {f : Flight} (h : issues i s = true) (hb : body (i.ctx s) s = .ok e) (hf : e.fin = .next)
    (he : e.s = s'.setWeft s.cur (s.me.withFlight (i.ctx s) f)) (hc : s.clear s') :
    ∃ t, Takes (issueMem i body s) s t ∧ Launches i [f] s s' t := by
  have hw : e.s.weft s.cur = s.me.withFlight (i.ctx s) f := by rw [he, State.weft_setWeft_same]
  obtain ⟨t, ht, ⟨ho, hj⟩, hg, hctl, hx, hh⟩ := takes_of_ok h hb hf (by rw [hw]; exact ⟨id, rfl, rfl⟩) (by rw [he]; exact hc)
  rw [hw] at hctl hx hh
  have hfl : (t.weft s.cur).flights = s.me.flights ++ [f] := by rw [hctl]; rfl
  have hfg : (t.weft s.cur).flags = (s.me.countFlag ((i.ctx s).flagNo s.me)).flags := by rw [hctl]; rfl
  have hsq : (t.weft s.cur).seq = s.me.seq + 1 := by rw [hctl]; rfl
  refine ⟨t, ht, ⟨?_, fun j hne => ?_⟩, hg, hfl, hfg, ?_, ?_, hh⟩
  · rw [ho, he]
    rfl
  · rw [hj j hne, he, State.weft_setWeft_ne _ _ hne]
  · unfold SameControl at hctl ⊢
    rw [hfl, hfg, hsq]
    exact hctl
  · refine ⟨fun _ _ _ _ => by rw [hx]; rfl, fun _ _ => by rw [hx]; rfl, fun j h0 _ => ?_, by rw [hx]; rfl, by rw [hx]; rfl, by rw [hx]; rfl⟩
    unfold Weft.maskReg
    rw [if_neg h0, if_neg h0, hx]
    rfl

theorem flagNo_A (hi : i.flag = some false) : (i.ctx s).flagNo s.me = s.me.flow.flagA := by
  unfold Ctx.flagNo
  rw [show (i.ctx s).i.flag = some false from hi]
  rfl

theorem flagNo_B (hi : i.flag = some true) : (i.ctx s).flagNo s.me = s.me.flow.flagB := by
  unfold Ctx.flagNo
  rw [show (i.ctx s).i.flag = some true from hi]
  rfl

/-- The access that a global form of flag A puts in flight. -/
def Info.flight (i : Info) (s : State) (op : FlightOp) (bytes words : Nat) (sx : Bool) (born : Nat) (ls : List LaneAcc) : Flight :=
  { op := op, seq := s.me.seq, flag := s.me.flow.flagA, pc := s.me.flow.pc, ic := s.me.flow.ic, uni := i.u, d := i.first s.me, words := words
    bytes := bytes, sext := sx, zlanes := i.zeroedOf s.me, born := born, lanes := ls }

/-- A global access takes its place among the accesses of its core (07_memory_instructions R146). -/
theorem launch_global {op : FlightOp} {words : Nat} {sx : Bool} {ls : List LaneAcc} (hi : i.flag = some false) (hop : op.global = true)
    (ht : s.Threads s') :
    launch (i.ctx s) s' op n words sx ls = (s'.arrive (s.coreOf s.cur)).2.setWeft s.cur
      (s.me.withFlight (i.ctx s) (i.flight s op n words sx (s'.core (s.coreOf s.cur)).arrived ls)) := by
  have hw : ∀ x : State, x = (s'.arrive (s.coreOf s.cur)).2 → x.weft s.cur = s.me := fun x hx => by subst hx; exact ht.me
  have hk : (i.ctx s).k = s.cur := rfl
  unfold launch
  simp only [hop, if_true, hk, ht.coreOf]
  rw [hw _ rfl]
  unfold Weft.withFlight Info.flight
  rw [← flagNo_A (s := s) hi]
  rfl

/-- Any other access has no place among them. -/
theorem launch_local {op : FlightOp} {words : Nat} {sx : Bool} {ls : List LaneAcc} (hi : i.flag = some false) (hop : op.global = false)
    (hw : s'.weft s.cur = s.me) :
    launch (i.ctx s) s' op n words sx ls = s'.setWeft s.cur (s.me.withFlight (i.ctx s) (i.flight s op n words sx 0 ls)) := by
  have hk : (i.ctx s).k = s.cur := rfl
  unfold launch
  simp only [hop, if_false, hk, hw, Bool.false_eq_true]
  unfold Weft.withFlight Info.flight
  rw [← flagNo_A (s := s) hi]
  rfl

end Sys2Proof.Machine

namespace Sys2Proof.Machine

/-! ## Global loads, exchanges and atomics go in flight (07_memory_instructions R145, R149, R153, R154, R163, R164) -/

variable {i : Info} {s s' : State} {body : Ctx → State → Except Stop Eff} {e : Eff} {off : Int} {n : Nat} {acc : Acc}
  {accs : List (Nat × Dword × Nat × Nat)} {op : FlightOp} {sx : Bool}

/-- The lanes of a global access, with their operands. -/
def accLanes (accs : List (Nat × Dword × Nat × Nat)) (X : Nat → BitVec 128) (Y : Nat → Dword) : List LaneAcc :=
  accs.map fun y => { lane := y.1, va := y.2.1, pa := y.2.2.1, gr := y.2.2.2, x := X y.1, y := Y y.1 }

/-- What a global access of the form puts in flight, once its lanes are translated. -/
def Info.globalFlight (i : Info) (s s' : State) (op : FlightOp) (n : Nat) (sx : Bool) (accs : List (Nat × Dword × Nat × Nat))
    (X : Nat → BitVec 128) (Y : Nat → Dword) : Flight :=
  i.flight s op n i.dk.words sx (s'.core (s.coreOf s.cur)).arrived (accLanes accs X Y)

/-- The outcome is that the form's access is in flight, in its place among those of its core. -/
def Info.GoesInFlight (i : Info) (s s' : State) (o : Host.Outcome State Fault Refusal) (f : Flight) : Prop :=
  ∃ t, Takes o s t ∧ Launches i [f] s (s'.arrive (s.coreOf s.cur)).2 t

theorem goesInFlight_of_ok {X : Nat → BitVec 128} {Y : Nat → Dword} (h : issues i s = true) (hi : i.flag = some false)
    (hop : op.global = true) (ht : s.Threads s') (hc : s.clear s') (hb : body (i.ctx s) s = .ok e) (hf : e.fin = .next)
    (he : e.s = launch (i.ctx s) s' op n i.dk.words sx (accLanes accs X Y)) :
    i.GoesInFlight s s' (issueMem i body s) (i.globalFlight s s' op n sx accs X Y) :=
  launches_of_ok h hb hf (he.trans (launch_global hi hop ht)) hc

theorem reaches_threads (hr : i.reaches s off acc accs s') : s.Threads s' := xlateAll_threads hr

theorem globalLoad_inFlight (h : issues i s = true) (ha : i.ak = .reg 2) (hi : i.flag = some false) (hop : op.global = true)
    (hal : i.allAligned s off n) (hr : i.reaches s off .read accs s') (hc : s.clear s') :
    i.GoesInFlight s s' (issueMem i (globalLoad op n sx off) s) (i.globalFlight s s' op n sx accs (fun _ => 0) fun _ => 0) := by
  have hb : globalLoad op n sx off (i.ctx s) s
      = .ok { s := launch (i.ctx s) s' op n i.dk.words sx (accLanes accs (fun _ => 0) fun _ => 0)
              recs := destRecs (s'.weft s.cur) (i.ctx s) } := by
    unfold globalLoad
    rw [globalLanes_ok ha hal hr]
    rfl
  exact goesInFlight_of_ok h hi hop (reaches_threads hr) hc hb rfl rfl

theorem globalXchg_inFlight (h : issues i s = true) (ha : i.ak = .reg 2) (hi : i.flag = some false)
    (hal : i.allAligned s off n) (hr : i.reaches s off .write accs s') (hc : s.clear s') :
    i.GoesInFlight s s' (issueMem i (globalXchg n off) s)
      (i.globalFlight s s' .xchg n false accs (fun L => readOp s.me i.u i.dk i.d L) fun _ => 0) := by
  have hw : s'.weft (i.ctx s).k = s.me := (reaches_threads hr).me
  have hb : globalXchg n off (i.ctx s) s
      = .ok { s := launch (i.ctx s) s' .xchg n i.dk.words false (accLanes accs (fun L => readOp s.me i.u i.dk i.d L) fun _ => 0)
              noUndo := true } := by
    unfold globalXchg
    rw [globalLanes_ok ha hal hr]
    simp only [hw]
    rfl
  exact goesInFlight_of_ok h hi rfl (reaches_threads hr) hc hb rfl rfl

/-- The operand of an atomic in a lane, and the value that ACAS compares with. -/
def Info.atomicOperand (i : Info) (s : State) (op : FlightOp) (L : Nat) : BitVec 128 :=
  if op == .acas then (if i.p.isSome then readOp s.me i.u i.ck i.c L else readOp s.me i.u i.dk i.d L) else readOp s.me i.bScalar i.bk i.b L
def Info.atomicCompare (i : Info) (s : State) (op : FlightOp) (L : Nat) : Dword :=
  if op == .acas then (readOp s.me i.bScalar i.bk i.b L).setWidth 64 else 0

/-- An atomic outside the trailing member of a pair is performed by its own weft. -/
theorem globalAtomic_inFlight (h : issues i s = true) (ha : i.ak = .reg 2) (hi : i.flag = some false) (hop : op.global = true)
    (hm : s.member s.cur ≠ 2) (hal : i.allAligned s 0 n) (hr : i.reaches s 0 .write accs s') (hc : s.clear s') :
    i.GoesInFlight s s' (issueMem i (globalAtomic op n) s)
      (i.globalFlight s s' op n false accs (i.atomicOperand s op) (i.atomicCompare s op)) := by
  have ht := reaches_threads hr
  have hw : s'.weft (i.ctx s).k = s.me := ht.me
  have hb : globalAtomic op n (i.ctx s) s
      = .ok { s := launch (i.ctx s) s' op n i.dk.words false (accLanes accs (i.atomicOperand s op) (i.atomicCompare s op))
              noUndo := true } := by
    unfold globalAtomic
    rw [globalLanes_ok ha hal hr]
    simp only [hw, show s'.member (i.ctx s).k = s.member s.cur from ht.member _, if_neg hm]
    rfl
  exact goesInFlight_of_ok h hi hop ht hc hb rfl rfl

/-- An atomic of the trailing member waits for its partner's result (19_reliability R432). -/
theorem globalAtomic_mirrors (h : issues i s = true) (ha : i.ak = .reg 2) (hi : i.flag = some false)
    (hm : s.member s.cur = 2) (hal : i.allAligned s 0 n) (hr : i.reaches s 0 .write accs s') (hc : s.clear s') :
    i.GoesInFlight s s' (issueMem i (globalAtomic op n) s)
      (i.globalFlight s s' (.mirror false) n false accs (fun _ => 0) fun _ => 0) := by
  have ht := reaches_threads hr
  have hb : globalAtomic op n (i.ctx s) s
      = .ok { s := launch (i.ctx s) s' (.mirror false) n i.dk.words false (accLanes accs (fun _ => 0) fun _ => 0)
              noUndo := true } := by
    unfold globalAtomic
    rw [globalLanes_ok ha hal hr]
    simp only [show s'.member (i.ctx s).k = s.member s.cur from ht.member _, if_pos hm]
    rfl
  exact goesInFlight_of_ok h hi rfl ht hc hb rfl rfl

/-- What O20 says of an atomic whose arm is `globalAtomic`, in either member. -/
theorem atomic_inFlight {x : Instr} (hx : exec x s = issueMem i (globalAtomic op n) s) (h : issues i s = true) (ha : i.ak = .reg 2)
    (hi : i.flag = some false) (hop : op.global = true) (hal : i.allAligned s 0 n) (hr : i.reaches s 0 .write accs s') (hc : s.clear s') :
    (s.member s.cur ≠ 2 → i.GoesInFlight s s' (exec x s) (i.globalFlight s s' op n false accs (i.atomicOperand s op) (i.atomicCompare s op)))
      ∧ (s.member s.cur = 2 → i.GoesInFlight s s' (exec x s) (i.globalFlight s s' (.mirror false) n false accs (fun _ => 0) fun _ => 0)) := by
  rw [hx]
  exact ⟨fun hm => globalAtomic_inFlight h ha hi hop hm hal hr hc, fun hm => globalAtomic_mirrors h ha hi hm hal hr hc⟩

section Arms

variable (p : Option Prefix) (sz t u : Bool) (d a b : Reg) (z : BitVec 3) (m : BitVec 2) (k : BitVec 7) (s : State)

theorem exec_ld : exec (.ld p z u d a k) s = issueMem (formA p 0x38 z.toNat u d a k)
    (globalLoad .load (szBytes z.toNat) (loadSext z) (immM p k * szBytes z.toNat)) s := rfl

theorem exec_lda : exec (.lda p m sz u d a k) s = issueMem (formA p 0x3E (2 * m.toNat + sz.toNat) u d a k)
    (globalLoad (.lda m.toNat) (szBytes (szCode sz)) false (immM p k * szBytes (szCode sz))) s := rfl

theorem exec_xchg : exec (.xchg p sz u d a k) s = issueMem (formA p 0x3C (szCode sz) u d a k)
    (globalXchg (szBytes (szCode sz)) (immM p k * szBytes (szCode sz))) s := rfl

theorem exec_acasB32 : exec (.acasB32 p u d a b) s = issueMem (formA p 0x4A 0 u d a b) (globalAtomic .acas 4) s := rfl

theorem exec_acasB64 : exec (.acasB64 p u d a b) s = issueMem (formA p 0x4A 1 u d a b) (globalAtomic .acas 8) s := rfl

theorem szBytes_szCode : szBytes (szCode sz) = if sz then 8 else 4 := by
  cases sz <;> rfl

end Arms

/-- The atomics on global memory: function code and instruction (07_memory_instructions R163). -/
inductive IsAtom (p : Option Prefix) (t u : Bool) (d a b : Reg) : Nat → Instr → Prop
  | aaddI : IsAtom p t u d a b 0 (.aaddI p t u d a b)
  | aaddF : IsAtom p t u d a b 1 (.aaddF p t u d a b)
  | aminI : IsAtom p t u d a b 2 (.aminI p t u d a b)
  | amaxI : IsAtom p t u d a b 3 (.amaxI p t u d a b)
  | aand : IsAtom p t u d a b 4 (.aand p t u d a b)
  | aor : IsAtom p t u d a b 5 (.aor p t u d a b)
  | axor : IsAtom p t u d a b 6 (.axor p t u d a b)
  | axch : IsAtom p t u d a b 7 (.axch p t u d a b)

theorem exec_atom {p : Option Prefix} {t u : Bool} {d a b : Reg} {fn : Nat} {x : Instr} (hx : IsAtom p t u d a b fn x) (s : State) :
    exec x s = issueMem (formA p (if t then 0x49 else 0x48) fn u d a b) (globalAtomic (.atom fn) (if t then 8 else 4)) s := by
  cases hx <;> rfl

theorem atom_form (p : Option Prefix) (t u : Bool) (d a b : Reg) (fn : Nat) :
    (formA p (if t then 0x49 else 0x48) fn u d a b).ak = .reg 2 ∧ (formA p (if t then 0x49 else 0x48) fn u d a b).flag = some false := by
  cases t <;> exact ⟨rfl, rfl⟩

end Sys2Proof.Machine

namespace Sys2Proof.Machine

/-! ## What bringing in scratchpad pages leaves alone: the wefts and the weft that issues -/

/-- The wefts and the weft that issues are those of `o`. -/
abbrev State.Wefts (o s : State) : Prop := s.wefts = o.wefts ∧ s.cur = o.cur

variable {o s : State}

theorem wefts_refl (s : State) : s.Wefts s := ⟨rfl, rfl⟩

theorem State.Wefts.access {t : State} (h : o.Wefts s) (ht : s.Threads t) : o.Wefts t := ⟨ht.1.trans h.1, ht.2.2.trans h.2⟩

theorem State.Wefts.weft (h : o.Wefts s) (k : Nat) : s.weft k = o.weft k := by
  unfold State.weft
  rw [h.1]

theorem ite_wefts {c : Prop} [Decidable c] {t : State} (hs : o.Wefts s) (ht : o.Wefts t) : o.Wefts (if c then s else t) := by
  split
  · exact hs
  · exact ht

theorem modCore_wefts (c : Nat) (f : Core → Core) (h : o.Wefts s) : o.Wefts (s.modCore c f) := h

theorem evict_wefts {core i : Nat} (h : o.Wefts s) : Yields o.Wefts (s.evict core i) := by
  unfold State.evict
  split
  · exact h
  · extract_lets back e x at_ inImage s1 s2 s3 s4
    have h1 : o.Wefts s1 := ite_wefts (h.access (homeWrite_threads _ _ (threads_refl s))) h
    have h2 : o.Wefts s2 := ite_wefts (h1.access (homeWrite_threads _ _ (threads_refl s1))) h1
    exact .ite trivial (.ite trivial h2)

theorem clockVictim_wefts {core : Nat} (h : o.Wefts s) : ∀ x ∈ s.clockVictim core, o.Wefts x.2 := by
  intro x hx
  simp only [State.clockVictim] at hx
  split at hx
  · cases hx
  · cases hx
    refine List.foldlRecOn (motive := fun t : State => o.Wefts t) _ _ h fun s hs i _ => ?_
    split <;> exact hs

theorem takeFrame_wefts {core P : Nat} (h : o.Wefts s) : Yields (∀ x ∈ ·, o.Wefts x.2) (s.takeFrame core P) := by
  unfold State.takeFrame
  split
  · exact fun x hx => Option.mem_some.1 hx ▸ h
  · split
    · exact fun x hx => nomatch hx
    · next hv =>
      split
      · trivial
      · next hs =>
        intro x hx
        obtain ⟨i, -, rfl⟩ := Option.map_eq_some_iff.1 hx
        exact (evict_wefts (clockVictim_wefts h _ hv)).ok hs

theorem teamFrame_wefts {t P core : Nat} (h : o.Wefts s) : Yields (∀ x ∈ ·, o.Wefts x.2.2) (s.teamFrame t P core) := by
  have ht {c} := takeFrame_wefts (core := c) (P := P) h
  unfold State.teamFrame
  dsimp only
  split
  · trivial
  · next hr => exact fun x hx => Option.mem_some.1 hx ▸ ht.ok hr _ rfl
  · refine .ite ?_ fun x hx => nomatch hx
    split
    · trivial
    · next hr =>
      intro x hx
      obtain ⟨y, hy, rfl⟩ := Option.map_eq_some_iff.1 hx
      exact ht.ok hr y hy

theorem fillPage_wefts {t P core : Nat} (h : o.Wefts s) : Yields o.Wefts (s.fillPage t P core) := by
  have ht := teamFrame_wefts (t := t) (P := P) (core := core) h
  unfold State.fillPage
  extract_lets x e back
  refine .ite trivial ?_
  split
  · trivial
  · trivial
  · next c i s1 hr =>
    have h1 : o.Wefts s1 := ht.ok hr _ rfl
    have h2 : o.Wefts (if speZf e then ([], s1) else s1.homeRead back 2048).2 := by
      split
      · exact h1
      · exact h1.access (homeRead_threads _ _ (threads_refl s1))
    generalize (if speZf e then ([], s1) else s1.homeRead back 2048) = r at h2 ⊢
    exact h2

/-- Reading an entry of the table leaves the wefts, whether or not it lies in memory. -/
theorem entryRead_wefts (a : Nat) (h : o.Wefts s) : o.Wefts (if s.exists a 8 then (s.homeRead a 8).2 else s) :=
  ite_wefts (h.access (homeRead_threads _ _ (threads_refl s))) h

theorem spadTlb_wefts {core t P : Nat} (h : o.Wefts s) : o.Wefts (s.spadTlb core t P) := by
  unfold State.spadTlb
  split
  · exact h
  · exact modCore_wefts _ _ (entryRead_wefts _ h)

theorem bringPage_wefts {t core P : Nat} (h : o.Wefts s) : Yields o.Wefts (s.bringPage t core P) := by
  unfold State.bringPage
  extract_lets s1
  have h1 : o.Wefts s1 := spadTlb_wefts h
  split
  · refine .ite (ite_wefts h1 h1) (.ite trivial ?_)
    split
    · trivial
    · next hs => exact fillPage_wefts ((evict_wefts h1).ok hs)
  · exact fillPage_wefts h1

/-- Making pages resident moves frames, table entries and lines, and no weft (06_core_memory R137 to R139). -/
theorem bringPages_wefts {t core : Nat} {Ps : List Nat} (h : o.Wefts s) : Yields o.Wefts (s.bringPages t core Ps) := by
  unfold State.bringPages
  extract_lets Qs need waiting first r
  refine .ite trivial ?_
  have hr : Yields o.Wefts r := by
    refine List.foldlRecOn Qs _ h fun r hr P _ => ?_
    cases r with
    | error e => trivial
    | ok s => exact bringPage_wefts hr
  clear_value r
  split
  · trivial
  · trivial
  · exact ite_wefts hr hr

/-! ## What a write to the scratchpad leaves alone: the weft that issues -/

theorem foldl_cur {α : Type} {f : State → α → State} (hf : ∀ s x, (f s x).cur = s.cur) : ∀ (l : List α) (s : State), (l.foldl f s).cur = s.cur
  | [], _ => rfl
  | x :: l, s => (foldl_cur hf l (f s x)).trans (hf s x)

theorem parkTeam_cur (s : State) (t kind : Nat) (r : Report) : (parkTeam s t kind r).cur = s.cur := by
  simp only [parkTeam]
  split
  · split <;> rfl
  · rfl

theorem takeTrap_cur (s : State) (k : Nat) (c : Cause) (tpc tic addr : Dword) (lane : Nat) (resume : Dword) (entry : Entry) :
    (takeTrap s k c tpc tic addr lane resume entry).cur = s.cur := by
  simp only [takeTrap, fqpark]
  split
  · exact parkTeam_cur ..
  · split
    · rfl
    · exact parkTeam_cur ..

theorem takeLaneTrap_cur (s : State) (k : Nat) (resume : Dword) (entry : Entry) : (takeLaneTrap s k resume entry).cur = s.cur := by
  unfold takeLaneTrap
  dsimp only
  split
  · exact takeTrap_cur ..
  · rfl

theorem retire_cur (c : Ctx) (old : Weft) (e : Eff) : (retire c old e).cur = e.s.cur := by
  unfold retire
  extract_lets w data emptied w1 undo w3 s1
  have h1 : s1.cur = e.s.cur := rfl
  clear_value s1
  split
  · exact (takeLaneTrap_cur ..).trans h1
  · exact h1

theorem releaseWait_cur (s : State) (k : Nat) (h : Hold) (x : Dword) : (releaseWait s k h x).cur = s.cur := by
  refine (retire_cur ..).trans ?_
  unfold State.leaveWait
  dsimp only
  split <;> rfl

theorem wakeBarrier_cur (s : State) (t a : Nat) (b : BBar) : (wakeBarrier s t a b).cur = s.cur := by
  refine foldl_cur (fun s k => ?_) _ _
  split
  · rfl
  · split
    · split
      · rfl
      · split
        · exact releaseWait_cur ..
        · split <;> rfl
    · rfl

theorem spadWrite_cur (s : State) (t a : Nat) (bs : List Byte) : (s.spadWrite t a bs).cur = s.cur := by
  unfold State.spadWrite
  split <;> rfl

theorem spadPut_cur (s : State) (t a : Nat) (bs : List Byte) : (s.spadPut t a bs).cur = s.cur := by
  refine (foldl_cur (fun s k => ?_) _ _).trans (spadWrite_cur ..)
  split
  · split
    · exact wakeBarrier_cur ..
    · rfl
  · rfl

/-! ## Beats (02_threads R25) -/

/-- What bringing in pages and performing a lane keep, a whole access keeps. -/
theorem runBeats_keeps {α β : Type} {t core : Nat} {f : Nat → Nat × α → State → β × State} {Q : State → Prop}
    (hb : ∀ s Ps, Q s → Yields Q (s.bringPages t core Ps)) (hf : ∀ L x s, Q s → Q (f L x s).2) :
    ∀ (beats : List (List (Nat × Nat × α))) {s : State}, Q s → Yields (fun r => Q r.2) (runBeats t core f beats s)
  | [], _, h => h
  | beat :: rest, s, h => by
    unfold runBeats
    split
    · trivial
    · next s1 hs =>
      have h1 : Q s1 := (hb s _ h).ok hs
      have h2 : Q (beat.foldl (fun (r : List β × State) x => let y := f x.1 x.2 r.2; (r.1 ++ [y.1], y.2)) ([], s1)).2 :=
        List.foldlRecOn (motive := fun r : List β × State => Q r.2) beat _ h1 fun r hr x _ => hf x.1 x.2 r.2 hr
      dsimp only
      split
      · trivial
      · next hr =>
        have h3 := (runBeats_keeps hb hf rest h2).ok hr
        exact h3

/-- Lanes that only read leave every weft as it was. -/
theorem runBeats_wefts {α β : Type} {t core : Nat} {f : Nat → Nat × α → State → β × State} (hf : ∀ L x s, (f L x s).2 = s)
    {beats : List (List (Nat × Nat × α))} {s s' : State} {ys : List β} (h : runBeats t core f beats s = .ok (ys, s')) : s.Wefts s' :=
  (runBeats_keeps (Q := fun x => s.Wefts x) (fun _ _ => bringPages_wefts) (fun L x s h => by rw [hf]; exact h) beats (wefts_refl s)).ok h

/-- Lanes that write the scratchpad leave the turn where it was. -/
theorem runBeats_cur {α β : Type} {t core : Nat} {f : Nat → Nat × α → State → β × State} (hf : ∀ L x s, (f L x s).2.cur = s.cur)
    {beats : List (List (Nat × Nat × α))} {s s' : State} {ys : List β} (h : runBeats t core f beats s = .ok (ys, s')) : s'.cur = s.cur :=
  (runBeats_keeps (Q := fun x => x.cur = s.cur)
    (fun x Ps hx => by
      have hw := bringPages_wefts (t := t) (core := core) (Ps := Ps) (wefts_refl x)
      cases hp : x.bringPages t core Ps with
      | error e => trivial
      | ok y => exact (hw.ok hp).2.trans hx)
    (fun L x y h => (hf L x y).trans h) beats rfl).ok h

theorem spadRmw_cur (t n : Nat) (g : Nat → BitVec 128 → BitVec 128) (L : Nat) (x : Nat × Unit) (s : State) :
    (spadRmw t n g L x s).2.cur = s.cur := by
  unfold spadRmw
  dsimp only
  split
  · exact spadPut_cur ..
  · rfl

end Sys2Proof.Machine

namespace Sys2Proof

/-! ## Entries of a table in its canonical form -/

namespace SMap

variable {β : Type}

theorem mem_of_get_ne {d : Nat → β} {m : SMap β} {k : Nat} (h : get d m k ≠ d k) : (k, get d m k) ∈ m := by
  induction m with
  | nil => exact absurd rfl h
  | cons e t ih =>
    obtain ⟨k', v⟩ := e
    by_cases hk : k = k'
    · subst hk
      simp [get]
    · rw [get, if_neg hk] at h ⊢
      exact List.mem_cons_of_mem _ (ih h)

theorem get_of_mem {d : Nat → β} {m : SMap β} (h : Canonical d m) {e : Nat × β} (he : e ∈ m) : get d m e.1 = e.2 := by
  induction m with
  | nil => cases he
  | cons x t ih =>
    obtain ⟨k', v⟩ := x
    obtain ⟨hx, ht⟩ := List.pairwise_cons.1 h.1
    rcases List.mem_cons.1 he with rfl | he
    · exact if_pos rfl
    · have hlt : k' < e.1 := hx e he
      rw [get, if_neg (by omega)]
      exact ih ⟨ht, fun e he => h.2 e (List.mem_cons_of_mem _ he)⟩ he

theorem insert_eq_map {m : SMap β} (h : m.Pairwise fun a b => a.1 < b.1) {k : Nat} {v w : β} (hk : (k, w) ∈ m) :
    insert m k v = m.map fun e => if e.1 = k then (k, v) else e := by
  induction m with
  | nil => cases hk
  | cons x t ih =>
    obtain ⟨k', y⟩ := x
    obtain ⟨hx, ht⟩ := List.pairwise_cons.1 h
    have hid : ∀ j, (∀ e ∈ t, j < e.1) → t.map (fun e => if e.1 = j then (j, v) else e) = t := fun j hj =>
      (List.map_congr_left fun e he => if_neg (Nat.ne_of_gt (hj e he))).trans (List.map_id t)
    rcases List.mem_cons.1 hk with hk | hk
    · obtain ⟨rfl, -⟩ := Prod.mk.inj hk
      simp [insert, hid k hx]
    · have hlt : k' < k := hx _ hk
      rw [insert, if_neg (by omega), if_neg (by omega), ih ht hk, List.map_cons, if_neg (Nat.ne_of_lt hlt)]

theorem set_eq_map [DecidableEq β] {d : Nat → β} {m : SMap β} (h : Canonical d m) {k : Nat} {v w : β} (hk : (k, w) ∈ m) (hv : v ≠ d k) :
    set d m k v = m.map fun e => if e.1 = k then (k, v) else e := by
  unfold set
  rw [if_neg hv, insert_eq_map h.1 hk]

theorem mem_of_mem_set [DecidableEq β] {d : Nat → β} {m : SMap β} {k : Nat} {v : β} {e : Nat × β} (h : e ∈ set d m k v) :
    e = (k, v) ∨ e ∈ m := by
  unfold set at h
  split at h
  · exact .inr (List.mem_of_mem_filter h)
  · exact insert_keys h

end SMap

namespace Machine

variable {s : State} {T t P Q c j : Nat} {f g : Frame}

/-! ## Frames of the scratchpad (06_core_memory R125) -/

/-- An entry of a core's frames that holds page `P` of a team. -/
def holding (c t P : Nat) (e : Nat × Option Frame) : Option (Nat × Nat × Frame) :=
  match e.2 with
  | some f => if f.team = t ∧ f.page = P then some (c, e.1, f) else none
  | none => none

theorem findFrame_eq (s : State) (t P : Nat) :
    s.findFrame t P = (s.team t).frameCores.findSome? fun c => (s.core c).frames.findSome? (holding c t P) := rfl

/-- The frames of every core are in their canonical form. -/
def State.framesWf (s : State) : Prop := ∀ c, SMap.wf (fun _ => (none : Option Frame)) (s.core c).frames = true

/-- A frame that is found is that of its core and index, and holds the page. -/
theorem frame_of_findFrame (hw : s.framesWf) (h : s.findFrame t P = some (c, j, f)) :
    (s.core c).frame j = some f ∧ f.team = t ∧ f.page = P := by
  rw [findFrame_eq] at h
  obtain ⟨c', -, h⟩ := List.exists_of_findSome?_eq_some h
  obtain ⟨⟨j', o⟩, he, h⟩ := List.exists_of_findSome?_eq_some h
  unfold holding at h
  split at h
  · next g ho =>
    dsimp only at ho
    subst ho
    split at h
    · next hg =>
      cases h
      exact ⟨SMap.get_of_mem ((SMap.wf_iff _ _).1 (hw c)) he, hg⟩
    · cases h
  · cases h

/-- The contents of one frame replaced, in what a search has found. -/
def renewed (c j : Nat) (g : Frame) (x : Nat × Nat × Frame) : Nat × Nat × Frame := if x.1 = c ∧ x.2.1 = j then (c, j, g) else x

theorem findSome?_congr {α β : Type} {f g : α → Option β} : ∀ {l : List α}, (∀ x ∈ l, f x = g x) → l.findSome? f = l.findSome? g
  | [], _ => rfl
  | x :: l, h => by
    rw [List.findSome?_cons, List.findSome?_cons, h x (List.mem_cons_self ..), findSome?_congr fun y hy => h y (List.mem_cons_of_mem _ hy)]

/-- A frame written back with the same page is found wherever it was found before, and every other one too. -/
theorem findFrame_setFrame (hw : s.framesWf) (hf : (s.core c).frame j = some f) (ht : g.team = f.team) (hp : g.page = f.page) (t P : Nat) :
    (s.setFrame c j (some g)).findFrame t P = (s.findFrame t P).map (renewed c j g) := by
  have hcan := (SMap.wf_iff _ _).1 (hw c)
  have hmem : (j, some f) ∈ (s.core c).frames := by
    have h := SMap.mem_of_get_ne (d := fun _ => none) (m := (s.core c).frames) (k := j) (by
      rw [show SMap.get _ _ _ = some f from hf]
      exact Option.some_ne_none f)
    rwa [show SMap.get _ _ _ = some f from hf] at h
  rw [findFrame_eq, findFrame_eq, List.map_findSome?]
  refine findSome?_congr fun c' _ => ?_
  change ((s.setFrame c j (some g)).core c').frames.findSome? _ = Option.map _ ((s.core c').frames.findSome? (holding c' t P))
  rw [List.map_findSome?]
  by_cases hc : c' = c
  · subst hc
    have hfr : ((s.setFrame c' j (some g)).core c').frames = (s.core c').frames.map fun e => if e.1 = j then (j, some g) else e := by
      unfold State.setFrame State.modCore
      rw [State.core_setCore_same]
      exact SMap.set_eq_map hcan hmem (Option.some_ne_none g)
    rw [hfr, List.findSome?_map]
    refine findSome?_congr fun e he => ?_
    rw [Function.comp_apply, Function.comp_apply]
    split
    · next hj =>
      have hv : e.2 = some f := by rw [← SMap.get_of_mem hcan he, hj]; exact hf
      unfold holding
      simp only [hv, ht, hp]
      split
      · simp [renewed, hj]
      · rfl
    · next hj =>
      unfold holding
      split
      · split
        · simp [renewed, hj]
        · rfl
      · rfl
  · have hfr : (s.setFrame c j (some g)).core c' = s.core c' := State.core_setCore_ne _ _ hc
    rw [hfr]
    refine findSome?_congr fun e _ => ?_
    rw [Function.comp_apply]
    unfold holding
    split
    · split
      · simp [renewed, hc]
      · rfl
    · rfl

theorem framesWf_setFrame (hw : s.framesWf) : (s.setFrame c j (some g)).framesWf := by
  intro c'
  unfold State.setFrame State.modCore
  rw [State.core_setCore]
  split
  · show SMap.wf (fun _ => none) (SMap.set (fun _ => none) (s.core c).frames j (some g)) = true
    exact SMap.wf_set j (some g) (hw c)
  · exact hw c'

/-- Only the page of the frame that is written is found with other contents. -/
theorem findFrame_setFrame_same (hw : s.framesWf) (h : s.findFrame t P = some (c, j, f)) (ht : g.team = f.team) (hp : g.page = f.page) :
    (s.setFrame c j (some g)).findFrame t P = some (c, j, g) := by
  rw [findFrame_setFrame hw (frame_of_findFrame hw h).1 ht hp, h]
  simp [renewed]

theorem findFrame_setFrame_ne (hw : s.framesWf) (h : s.findFrame t P = some (c, j, f)) (ht : g.team = f.team) (hp : g.page = f.page)
    (hQ : Q ≠ P) : (s.setFrame c j (some g)).findFrame t Q = s.findFrame t Q := by
  obtain ⟨hf, -, hfp⟩ := frame_of_findFrame hw h
  rw [findFrame_setFrame hw hf ht hp]
  cases hx : s.findFrame t Q with
  | none => rfl
  | some x =>
    obtain ⟨c', j', f'⟩ := x
    obtain ⟨hf', -, hfp'⟩ := frame_of_findFrame hw hx
    have hne : ¬ (c' = c ∧ j' = j) := by
      rintro ⟨rfl, rfl⟩
      rw [hf] at hf'
      cases hf'
      exact hQ (hfp'.symm.trans hfp)
    simp [renewed, hne]

end Machine

end Sys2Proof

namespace Sys2Proof.Machine

variable {s : State} {T P Q c j n A : Nat} {f g : Frame}

/-! ## Bytes of the scratchpad after a page is referred to, and after a write (06_core_memory R132, R139) -/

theorem leBytes_length (n v : Nat) : (leBytes n v).length = n := by
  induction n generalizing v with
  | zero => rfl
  | succ n ih => exact congrArg (· + 1) (ih _)

theorem spadByte_found {q : Nat} (h : s.findFrame T (q / 2048) = some (c, j, f)) : s.spadByte T q = SMap.get zeroByte f.data (q % 2048) := by
  unfold State.spadByte
  rw [h]

theorem spadRead_found {a : Nat} (h : s.findFrame T (a / 2048) = some (c, j, f)) :
    s.spadRead T a n = SMap.read zeroByte f.data (a % 2048) n := by
  unfold State.spadRead
  rw [h]

/-- A byte depends on the frame that holds it, else on its entry of the table and on memory as the home gives it. -/
theorem spadByte_congr {s' : State} {q : Nat} (hf : s'.findFrame T (q / 2048) = s.findFrame T (q / 2048))
    (he : (s'.team T).spte (q / 2048) = (s.team T).spte (q / 2048)) (hc : s'.cohByte = s.cohByte) : s'.spadByte T q = s.spadByte T q := by
  unfold State.spadByte
  rw [hf, he, hc]

/-- The frame's reference bit is set (06_core_memory R139). -/
def State.referred (s : State) (c j : Nat) (f : Frame) : State := if f.ref then s else s.setFrame c j (some { f with ref := true })

theorem findFrame_referred (hw : s.framesWf) (h : s.findFrame T P = some (c, j, f)) :
    (s.referred c j f).findFrame T P = some (c, j, { f with ref := true }) := by
  unfold State.referred
  split
  · next hr => rw [h, ← hr]
  · exact findFrame_setFrame_same hw h rfl rfl

theorem findFrame_referred_ne (hw : s.framesWf) (h : s.findFrame T P = some (c, j, f)) (hQ : Q ≠ P) :
    (s.referred c j f).findFrame T Q = s.findFrame T Q := by
  unfold State.referred
  split
  · rfl
  · exact findFrame_setFrame_ne hw h rfl rfl hQ

theorem spadByte_referred (hw : s.framesWf) (h : s.findFrame T P = some (c, j, f)) (q : Nat) :
    (s.referred c j f).spadByte T q = s.spadByte T q := by
  by_cases hq : q / 2048 = P
  · subst hq
    rw [spadByte_found h, spadByte_found (findFrame_referred hw h)]
  · refine spadByte_congr (findFrame_referred_ne hw h hq) ?_ ?_ <;> unfold State.referred <;> split <;> rfl

theorem spadRead_referred (hw : s.framesWf) {a : Nat} (h : s.findFrame T (a / 2048) = some (c, j, f)) :
    (s.referred c j f).spadRead T a n = s.spadRead T a n := by
  rw [spadRead_found h, spadRead_found (findFrame_referred hw h)]

/-! ### MMAs that read -/

/-- Frames are no part of what the MMAs of a core are reading (07_memory_instructions R152). -/
theorem mmasReading_setFrame {a : Nat} (h : s.mmasReading T a n = []) (o : Option Frame) : (s.setFrame c j o).mmasReading T a n = [] := by
  unfold State.mmasReading at h ⊢
  rw [List.flatMap_eq_nil_iff] at h ⊢
  intro x hx
  rcases SMap.mem_of_mem_set (d := fun _ => {}) (m := s.cores) (k := c) hx with rfl | hx
  · by_cases hc : s.core c = {}
    · rw [hc]
      rfl
    · exact h _ (SMap.mem_of_get_ne hc)
  · exact h x hx

/-! ### A resident page is made ready -/

/-- What making a resident page ready leaves: the page is resident, and no byte, no weft and no operation has changed. -/
structure Readied (T P : Nat) (s t : State) : Prop where
  mem      : t.mem = s.mem
  wefts    : t.wefts = s.wefts
  teams    : t.teams = s.teams
  byte     : ∀ q, t.spadByte T q = s.spadByte T q
  read     : ∀ a n, a / 2048 = P → t.spadRead T a n = s.spadRead T a n
  resident : t.resident T P
  stlb     : ∀ core, (t.core core).stlb = (s.core core).stlb
  reading  : ∀ a n, s.mmasReading T a n = [] → t.mmasReading T a n = []

theorem readied_referred (hw : s.framesWf) (h : s.findFrame T P = some (c, j, f))
    (ho : c = (s.team T).core ∨ (s.team T).pair = true ∧ c = (s.team T).core + 1) : Readied T P s (s.referred c j f) := by
  have hteams : (s.referred c j f).teams = s.teams := by unfold State.referred; split <;> rfl
  have hteam : (s.referred c j f).team T = s.team T := by unfold State.team; rw [hteams]
  refine ⟨?_, ?_, hteams, spadByte_referred hw h, fun a n ha => ?_, ⟨⟨c, j, _, findFrame_referred hw h, by rw [hteam]; exact ho⟩, ?_⟩,
    fun core => ?_, fun a n hm => ?_⟩
  · unfold State.referred; split <;> rfl
  · unfold State.referred; split <;> rfl
  · subst ha
    exact spadRead_referred hw h
  · unfold State.referred
    split
    · exact hw
    · exact framesWf_setFrame hw
  · unfold State.referred State.setFrame State.modCore
    split
    · rfl
    · rw [State.core_setCore]
      split
      · next hc => rw [hc]
      · rfl
  · unfold State.referred
    split
    · exact hm
    · exact mmasReading_setFrame hm _

/-- Bringing in one page that is resident and whose entry the core's TLB holds does no more than refer to it. -/
theorem bringPages_resident {core : Nat} (hr : s.resident T P) (hs : (T, P) ∈ (s.core core).stlb) :
    ∃ t, s.bringPages T core [P] = .ok t ∧ Readied T P s t := by
  obtain ⟨⟨c, j, f, h, ho⟩, hw⟩ := hr
  refine ⟨s.referred c j f, ?_, readied_referred hw h ho⟩
  have hown : (s.team T).ownCores.contains c = true := by
    unfold Team.ownCores
    rcases ho with rfl | ⟨hp, rfl⟩
    · split <;> simp
    · simp [hp]
  have htlb : s.spadTlb core T P = s := by
    unfold State.spadTlb
    rw [if_pos (List.contains_iff_mem.2 hs)]
  have hbp : s.bringPage T core P = .ok (s.referred c j f) := by
    unfold State.bringPage
    simp only [htlb, h, hown, if_true]
    rfl
  have hof : s.ownFrame T P = some (c, j, f) := by
    unfold State.ownFrame
    rw [h, Option.filter_some, if_pos hown]
  unfold State.bringPages
  simp [hof, hbp]

/-! ### A write within one page -/

/-- A frame with bytes written at an offset of its page. -/
def Frame.written (f : Frame) (o : Nat) (bs : List Byte) : Frame :=
  { f with dirty := true, ref := true, data := SMap.write zeroByte f.data o bs }

theorem spadByte_spadWrite {bs : List Byte} (hw : s.framesWf) (h : s.findFrame T (A / 2048) = some (c, j, f))
    (hin : A % 2048 + bs.length ≤ 2048) (q : Nat) :
    (s.spadWrite T A bs).spadByte T q = if A ≤ q ∧ q < A + bs.length then bs.getD (q - A) 0 else s.spadByte T q := by
  have hff : ∀ Q, (s.spadWrite T A bs).findFrame T Q = (s.setFrame c j (some (f.written (A % 2048) bs))).findFrame T Q := fun Q => by
    unfold State.spadWrite
    rw [h]
    rw [findFrame_eq, findFrame_eq]
    simp only [State.modTeam, State.team_setTeam_same]
    rfl
  by_cases hq : q / 2048 = A / 2048
  · have hfq := hff (q / 2048)
    rw [hq, findFrame_setFrame_same (g := f.written (A % 2048) bs) hw h rfl rfl, ← hq] at hfq
    rw [spadByte_found hfq, spadByte_found (hq ▸ h), Frame.written, SMap.get_write]
    by_cases hm : A ≤ q ∧ q < A + bs.length
    · rw [dif_pos (by omega), if_pos hm, List.getD_eq_getElem _ _ (by omega)]
      congr 1
      omega
    · rw [dif_neg (by omega), if_neg hm]
  · rw [if_neg (by omega)]
    refine spadByte_congr ((hff _).trans (findFrame_setFrame_ne (g := f.written (A % 2048) bs) hw h rfl rfl hq)) ?_ ?_ <;> unfold State.spadWrite <;> rw [h]
    · simp only [State.modTeam, State.team_setTeam_same]
      exact SMap.get_set_ne _ _ _ hq
    · rfl

theorem spadWrite_mem (s : State) (T A : Nat) (bs : List Byte) : (s.spadWrite T A bs).mem = s.mem := by
  unfold State.spadWrite
  split <;> rfl

theorem spadWrite_wefts (s : State) (T A : Nat) (bs : List Byte) : (s.spadWrite T A bs).wefts = s.wefts := by
  unfold State.spadWrite
  split <;> rfl

/-- Where no weft of the team waits, a write to the scratchpad wakes none (08_copy_engine R182). -/
theorem spadPut_of_free {bs : List Byte} (hh : ∀ k ∈ s.weftsOf T, (s.weft k).hold = none) : s.spadPut T A bs = s.spadWrite T A bs := by
  have hweft : ∀ k, (s.spadWrite T A bs).weft k = s.weft k := fun k => by
    unfold State.weft
    rw [spadWrite_wefts]
  unfold State.spadPut
  refine List.foldlRecOn (motive := fun t => t = s.spadWrite T A bs) _ _ rfl fun t ht k hk => ?_
  subst ht
  rw [hweft, hh k hk]

/-! ### An access of one lane -/

theorem beatsOf_single {α : Type} {L : Nat} (hL : L < 64) (x : α) : beatsOf [(L, x)] = [[(L, x)]] := by
  have hb : L / 16 = 0 ∨ L / 16 = 1 ∨ L / 16 = 2 ∨ L / 16 = 3 := by omega
  have hr : List.range 4 = [0, 1, 2, 3] := rfl
  unfold beatsOf
  rcases hb with hb | hb | hb | hb <;> simp [hr, hb]

/-- An access of one lane to a page that is resident is performed on a state that differs in that page's reference bit alone. -/
theorem runBeats_single {α β : Type} {core L : Nat} (F : Nat → Nat × α → State → β × State) (x : α) (hL : L < 64)
    (hr : s.resident T (A / 2048)) (hs : (T, A / 2048) ∈ (s.core core).stlb) :
    ∃ t, Readied T (A / 2048) s t ∧ runBeats T core F (beatsOf [(L, A, x)]) s = .ok ([(F L (A, x) t).1], (F L (A, x) t).2) := by
  obtain ⟨t, hb, ht⟩ := bringPages_resident hr hs
  refine ⟨t, ht, ?_⟩
  rw [beatsOf_single hL]
  simp [runBeats, hb]

/-- A write of an aligned value to a page made ready. -/
theorem spadByte_readied {t : State} {bs : List Byte} (ht : Readied T (A / 2048) s t) (hin : A % 2048 + bs.length ≤ 2048)
    (hh : ∀ k ∈ s.weftsOf T, (s.weft k).hold = none) :
    (t.spadPut T A bs).mem = s.mem
      ∧ ∀ q, (t.spadPut T A bs).spadByte T q = if A ≤ q ∧ q < A + bs.length then bs.getD (q - A) 0 else s.spadByte T q := by
  obtain ⟨⟨c, j, f, h, -⟩, hw⟩ := ht.resident
  have hfree : ∀ k ∈ t.weftsOf T, (t.weft k).hold = none := fun k hk => by
    unfold State.weftsOf State.team at hk
    rw [ht.teams] at hk
    unfold State.weft
    rw [ht.wefts]
    exact hh k hk
  rw [spadPut_of_free hfree]
  refine ⟨(spadWrite_mem ..).trans ht.mem, fun q => ?_⟩
  rw [spadByte_spadWrite hw h hin, ht.byte]

/-- An aligned access of 1, 2, 4, 8 or 16 bytes stays within its page. -/
theorem aligned_within {n : Nat} (hn : n ∣ 2048) (hA : A % n = 0) : A % 2048 + n ≤ 2048 := by
  obtain ⟨m, hm⟩ := hn
  obtain ⟨b, rfl⟩ := Nat.dvd_of_mod_eq_zero hA
  rw [hm, Nat.mul_mod_mul_left]
  have hlt : b % m < m := Nat.mod_lt _ (by
    rcases Nat.eq_zero_or_pos m with rfl | hp
    · omega
    · exact hp)
  calc n * (b % m) + n = n * (b % m + 1) := by ring
    _ ≤ n * m := Nat.mul_le_mul_left _ hlt

end Sys2Proof.Machine

namespace Sys2Proof.Machine

variable {i : Info} {s s' s1 s2 : State} {body : Ctx → State → Except Stop Eff} {e : Eff} {off : Int} {n : Nat}

/-! ## Checks of a scratchpad access (06_core_memory R136) -/

/-- Where every lane passes the checks no lane faults. -/
theorem spadLanes_ok (ha : i.ak = .reg 1) (hk : i.spadOk s off n) : spadLanes (i.ctx s) s n off = .ok (i.spads s off, i.ctx s, s) := by
  have hw : s.weft (i.ctx s).k = s.me := rfl
  have ht : teamOf (i.ctx s).k = teamOf s.cur := rfl
  have hall : ((i.ctx s).accessLanes s.me).map (fun L => (L, (i.ctx s).addrS s.me off L)) = i.spads s off :=
    List.map_congr_left fun L _ => by rw [addrS_ctx ha]
  have hmem : ∀ x ∈ i.spads s off, x.2 % n = 0 ∧ x.2 < (s.team (teamOf s.cur)).size ∧ s.spadBad (teamOf s.cur) x.2 = false
      ∧ s.spadUpset (teamOf s.cur) x.2 = none := by
    intro x hx
    obtain ⟨L, hL, rfl⟩ := List.mem_map.1 hx
    exact hk.2 L hL
  have hfind : (i.spads s off).find? (fun x => s.spadBad (teamOf s.cur) x.2) = none :=
    List.find?_eq_none.2 fun x hx => by simp [hmem x hx]
  have hup : (i.spads s off).findSome? (fun x => s.spadUpset (teamOf s.cur) x.2) = none :=
    List.findSome?_eq_none_iff.2 fun x hx => (hmem x hx).2.2.2
  have hbad : (i.spads s off).filter (fun x => x.2 % n != 0) = [] := List.filter_eq_nil_iff.2 fun x hx => by simp [hmem x hx]
  have hbeyond : (i.spads s off).filter (fun x => x.2 % n == 0 && decide ((s.team (teamOf s.cur)).size ≤ x.2)) = [] :=
    List.filter_eq_nil_iff.2 fun x hx => by simp [hmem x hx]
  have hgood : (i.spads s off).filter (fun x => x.2 % n == 0 && decide (x.2 < (s.team (teamOf s.cur)).size)) = i.spads s off :=
    List.filter_eq_self.2 fun x hx => by simp [hmem x hx]
  unfold spadLanes
  simp only [hw, ht, hall, hfind, hup, hbad, hbeyond, hgood]
  rfl

/-- The sizes of an access divide a page. -/
theorem szBytes_dvd (z : Nat) : szBytes z ∣ 2048 := by
  unfold szBytes
  split <;> decide

theorem spads_single {L : Nat} (h : i.lanes s = [L]) : bare (i.spads s off) = [(L, i.saddr s off L, ())] := by
  simp [bare, Info.spads, h]

/-! ## STS (07_memory_instructions R150, R152) -/

/-- The lanes of an STS with their addresses and bytes, where no operand read holds one. -/
def Info.storeLanes (i : Info) (s : State) (off : Int) (n : Nat) : List (Nat × Nat × List Byte × List (Nat × Nat)) :=
  (i.lanes s).map fun L => (L, i.saddr s off L, i.data s n L, [])

/-- The records of an STS, with the old bytes of its lanes (07_memory_instructions R151). -/
def Info.spadStoreRecs (i : Info) (s : State) (off : Int) (n : Nat) (olds : List (List (List Word))) : List Rec :=
  storeRecs true n (i.spads s off).length (if (i.spads s off).isEmpty then 0 else (i.ctx s).active) fun j => olds.getD j []

theorem spadStore_ok {olds : List (List (List Word))} {r : List Unit} (ha : i.ak = .reg 1) (hk : i.spadOk s off n)
    (h1 : runBeats (teamOf s.cur) (s.coreOf s.cur) (fun _ (x : Nat × Unit) x' => (oldWords (fun q m => x'.spadRead (teamOf s.cur) q m) n x.1, x'))
      (beatsOf (bare (i.spads s off))) s = .ok (olds, s1))
    (hm : ∀ L ∈ i.lanes s, s1.mmasReading (teamOf s.cur) (i.saddr s off L) n = [])
    (h2 : runBeats (teamOf s.cur) (s.coreOf s.cur) (fun _ (x : Nat × List Byte × List (Nat × Nat)) x' => ((), x'.spadPut (teamOf s.cur) x.1 x.2.1))
      (beatsOf (i.storeLanes s off n)) s1 = .ok (r, s2)) :
    spadStore n off (i.ctx s) s = .ok { s := s2, recs := i.spadStoreRecs s off n olds, noUndo := true } := by
  have hw : s.weft (i.ctx s).k = s.me := rfl
  have hw1 : s1.weft (i.ctx s).k = s.me := (runBeats_wefts (fun _ _ _ => rfl) h1).weft s.cur
  have hdata : (i.spads s off).map (fun x => (x.1, x.2, (i.ctx s).storeData s.me n x.1, s1.mmasReading (teamOf s.cur) x.2 n))
      = i.storeLanes s off n := by
    unfold Info.spads Info.storeLanes
    rw [List.map_map]
    refine List.map_congr_left fun L hL => ?_
    rw [Function.comp_apply, hm L hL]
    rfl
  have hheld : (i.storeLanes s off n).filter (fun x => !x.2.2.2.isEmpty) = [] :=
    List.filter_eq_nil_iff.2 fun x hx => by
      obtain ⟨L, -, rfl⟩ := List.mem_map.1 hx
      simp
  have hfree : (i.storeLanes s off n).filter (fun x => x.2.2.2.isEmpty) = i.storeLanes s off n :=
    List.filter_eq_self.2 fun x hx => by
      obtain ⟨L, -, rfl⟩ := List.mem_map.1 hx
      rfl
  unfold spadStore
  simp only [hw, hk.1, Bool.false_eq_true, if_false, spadLanes_ok ha hk, show teamOf (i.ctx s).k = teamOf s.cur from rfl,
    show s.coreOf (i.ctx s).k = s.coreOf s.cur from rfl, h1, hw1, hdata, hheld, hfree, h2]
  rfl

theorem spadStore_takes {olds : List (List (List Word))} {r : List Unit} (h : issues i s = true) (ha : i.ak = .reg 1) (hk : i.spadOk s off n)
    (h1 : runBeats (teamOf s.cur) (s.coreOf s.cur) (fun _ (x : Nat × Unit) x' => (oldWords (fun q m => x'.spadRead (teamOf s.cur) q m) n x.1, x'))
      (beatsOf (bare (i.spads s off))) s = .ok (olds, s1))
    (hm : ∀ L ∈ i.lanes s, s1.mmasReading (teamOf s.cur) (i.saddr s off L) n = [])
    (h2 : runBeats (teamOf s.cur) (s.coreOf s.cur) (fun _ (x : Nat × List Byte × List (Nat × Nat)) x' => ((), x'.spadPut (teamOf s.cur) x.1 x.2.1))
      (beatsOf (i.storeLanes s off n)) s1 = .ok (r, s2))
    (hc : s.clear s2) (hme : s2.me = s.me) : ∃ t, Takes (issueMem i (spadStore n off) s) s t ∧ Retires i s s2 t := by
  have hb := spadStore_ok ha hk h1 hm h2
  have hcur : s2.cur = s.cur := (runBeats_cur (fun _ _ _ => spadPut_cur ..) h2).trans (runBeats_wefts (fun _ _ _ => rfl) h1).2
  have hw : s2.weft s.cur = s.me := by rw [← hcur]; exact hme
  exact takes_of_ok h hb rfl (by rw [hw]; exact ⟨id, rfl, rfl⟩) hc

/-- A store of one lane to a resident page writes its bytes, and no others. -/
theorem spadStore_bytes {olds : List (List (List Word))} {r : List Unit} {core L : Nat} (hd : n ∣ 2048) (hk : i.spadOk s off n)
    (h1 : runBeats (teamOf s.cur) core (fun _ (x : Nat × Unit) x' => (oldWords (fun q m => x'.spadRead (teamOf s.cur) q m) n x.1, x'))
      (beatsOf (bare (i.spads s off))) s = .ok (olds, s1))
    (h2 : runBeats (teamOf s.cur) core (fun _ (x : Nat × List Byte × List (Nat × Nat)) x' => ((), x'.spadPut (teamOf s.cur) x.1 x.2.1))
      (beatsOf (i.storeLanes s off n)) s1 = .ok (r, s2))
    (hL : L < 64) (hl : i.lanes s = [L]) (hr : s.resident (teamOf s.cur) (i.saddr s off L / 2048))
    (hs : (teamOf s.cur, i.saddr s off L / 2048) ∈ (s.core core).stlb) (hh : ∀ k ∈ s.weftsOf (teamOf s.cur), (s.weft k).hold = none) :
    s2.mem = s.mem ∧ ∀ q, s2.spadByte (teamOf s.cur) q = if i.saddr s off L ≤ q ∧ q < i.saddr s off L + n
      then (i.data s n L).getD (q - i.saddr s off L) 0 else s.spadByte (teamOf s.cur) q := by
  have hlen : (i.data s n L).length = n := leBytes_length n _
  have hin := aligned_within hd (hk.2 L (by simp [hl])).1
  rw [spads_single hl] at h1
  rw [show i.storeLanes s off n = [(L, i.saddr s off L, i.data s n L, [])] by simp [Info.storeLanes, hl]] at h2
  obtain ⟨t1, ht1, h1'⟩ := runBeats_single _ () hL hr hs
  rw [h1'] at h1
  cases h1
  obtain ⟨t2, ht2, h2'⟩ := runBeats_single
    (fun _ (x : Nat × List Byte × List (Nat × Nat)) x' => ((), x'.spadPut (teamOf s.cur) x.1 x.2.1)) (i.data s n L, []) hL ht1.resident
    (by rw [ht1.stlb]; exact hs)
  rw [h2'] at h2
  cases h2
  obtain ⟨hmem, hbyte⟩ := spadByte_readied (A := i.saddr s off L) (bs := i.data s n L) ht2 (by rw [hlen]; exact hin) (fun k hk => by
    unfold State.weftsOf State.team at hk
    rw [ht1.teams] at hk
    unfold State.weft
    rw [ht1.wefts]
    exact hh k hk)
  refine ⟨hmem.trans ht1.mem, fun q => ?_⟩
  rw [hbyte, hlen, ht1.byte]

/-! ## Entries of the store queue (07_memory_instructions R146, R150) -/

/-- The bytes of each lane of a store, a .b128 lane as two halves, the high one first. -/
def lanePieces (n : Nat) (x : Nat × Dword × List Byte) : List (Nat × Dword × List Byte) :=
  (storeHalves n).map fun h => (x.1, x.2.1 + BitVec.ofNat 64 h.1, (x.2.2.drop h.1).take h.2)

theorem flatMap_range_getElem? {α β : Type} (ls : List α) (f : Option α → List β) :
    (List.range ls.length).flatMap (fun i => f ls[i]?) = ls.flatMap fun x => f (some x) := by
  have h : (List.range ls.length).map (fun i => ls[i]?) = ls.map some :=
    List.ext_getElem (by simp) fun j h1 h2 => by
      have hj : j < ls.length := by simpa using h2
      simp [hj]
  rw [← List.flatMap_map (fun i => ls[i]?) f, h, List.flatMap_map]

theorem map_range_getD {α β : Type} (ls : List α) (d : α) (f : α → β) : (List.range ls.length).map (fun i => f (ls.getD i d)) = ls.map f :=
  List.ext_getElem (by simp) fun j h1 h2 => by
    have hj : j < ls.length := by simpa using h2
    simp [hj]

/-- The pieces of an entry are those of its lanes in ascending order. -/
theorem storePieces_map (n : Nat) (top : Option Nat) (ls : List (Nat × Dword × List Byte)) :
    (storePieces n top ls).map (fun q => (q.lane, q.va, q.data)) = ls.flatMap (lanePieces n) := by
  unfold storePieces
  rw [List.map_flatMap]
  refine Eq.trans ?_ (flatMap_range_getElem? ls fun o => (o.map (lanePieces n)).getD [])
  refine List.flatMap_congr fun j _ => ?_
  cases ls[j]? with
  | none => rfl
  | some x =>
    obtain ⟨L, va, bs⟩ := x
    dsimp only [Option.map_some, Option.getD_some]
    rw [List.map_map]
    exact map_range_getD (storeHalves n) (0, n) fun h => (L, va + BitVec.ofNat 64 h.1, (bs.drop h.1).take h.2)

theorem storePieces_fresh {n : Nat} {top : Option Nat} {ls : List (Nat × Dword × List Byte)} {q : Piece} (h : q ∈ storePieces n top ls) :
    q.done = false := by
  unfold storePieces at h
  obtain ⟨j, -, h⟩ := List.mem_flatMap.1 h
  cases hj : ls[j]? with
  | none =>
    rw [hj] at h
    cases h
  | some x =>
    rw [hj] at h
    obtain ⟨k, -, rfl⟩ := List.mem_map.1 h
    rfl

/-- The halves of a lane's bytes. -/
theorem lanePieces_data (L : Nat) (va : Dword) {n : Nat} {bs : List Byte} (h : bs.length = n) :
    lanePieces n (L, va, bs) = if n = 16 then [(L, va + 8, bs.drop 8), (L, va, bs.take 8)] else [(L, va, bs)] := by
  unfold lanePieces storeHalves
  split
  · next h16 =>
    have h8 : (bs.drop 8).take 8 = bs.drop 8 := List.take_of_length_le (by rw [List.length_drop]; omega)
    simp [h8]
  · simp [← h]

/-- The lanes of a global store with their addresses and bytes. -/
def Info.globalStoreLanes (i : Info) (s : State) (off : Int) (n : Nat) : List (Nat × Dword × List Byte) :=
  (i.lanes s).map fun L => (L, i.addr s off L, i.data s n L)

theorem globalStoreLanes_pieces (i : Info) (s : State) (off : Int) (n : Nat) (top : Option Nat) :
    (storePieces n top (i.globalStoreLanes s off n)).map (fun q => (q.lane, q.va, q.data)) = (i.lanes s).flatMap fun L =>
      if n = 16 then [(L, i.addr s off L + 8, (i.data s 16 L).drop 8), (L, i.addr s off L, (i.data s 16 L).take 8)]
      else [(L, i.addr s off L, i.data s n L)] := by
  rw [storePieces_map, Info.globalStoreLanes, List.flatMap_map]
  refine List.flatMap_congr fun L _ => ?_
  rw [lanePieces_data L _ (show (i.data s n L).length = n from leBytes_length n _)]
  split
  · next h16 => rw [h16]
  · rfl

/-- The weft with one more entry in its store queue, counted on its flag. -/
def Weft.withStore (w : Weft) (c : Ctx) (e : StoreEntry) : Weft :=
  { w with seq := w.seq + 1, stores := w.stores ++ [e] }.countFlag (c.flagNo w)

/-- A body that leaves its weft with an entry behind its stores, of which some may have been released. -/
theorem queues_of_ok {x : StoreEntry} {st : List StoreEntry} (h : issues i s = true) (hb : body (i.ctx s) s = .ok e) (hf : e.fin = .next)
    (ho : OnlyWeft s.cur s e.s) (hw : e.s.weft s.cur = { s.me with stores := st }.withStore (i.ctx s) x) :
    ∃ t, issue i body s = .next t ∧ Queues i x s t ∧ (t.weft s.cur).stores = st ++ [x] ∧ (t.weft s.cur).seq = s.me.seq + 1 := by
  obtain ⟨t, ht, ⟨hto, hj⟩, hg, hctl, hx, hh⟩ := retires_of_ok h hb hf (by rw [hw]; exact ⟨id, rfl, rfl⟩)
  rw [hw] at hctl hx hh
  have hst : (t.weft s.cur).stores = st ++ [x] := by rw [hctl]; rfl
  have hfg : (t.weft s.cur).flags = (s.me.countFlag ((i.ctx s).flagNo s.me)).flags := by rw [hctl]; rfl
  have hsq : (t.weft s.cur).seq = s.me.seq + 1 := by rw [hctl]; rfl
  refine ⟨t, ht, ⟨⟨?_, fun j hne => (hj j hne).trans (ho.2 j hne)⟩, hg, hfg, ?_, hx, hh⟩, hst, hsq⟩
  · rw [hto, ho.1]
  · unfold SameControl at hctl ⊢
    rw [hst, hfg, hsq]
    exact hctl

/-! ### ST -/

/-- Where the history stack stands when a store's records are pushed, if they are. -/
def Weft.recordsAt (w : Weft) : Option Nat := if w.recording then some w.hist.top else none

theorem globalStore_lanes (i : Info) (s : State) (off : Int) (n : Nat) :
    ((i.lanes s).map fun L => (L, i.addr s off L)).map (fun x => (x.1, x.2, i.data s n x.1)) = i.globalStoreLanes s off n := by
  rw [List.map_map]
  rfl

theorem map_isEmpty {α β : Type} {ls : List α} {f : α → β} (hl : ls ≠ []) : (ls.map f).isEmpty = false := by
  rw [List.isEmpty_map]
  exact List.isEmpty_eq_false_iff.2 hl

theorem globalStoreLanes_isEmpty (hl : i.lanes s ≠ []) : (i.globalStoreLanes s off n).isEmpty = false := map_isEmpty hl

/-- The entry that a store of flag B makes. -/
def Info.storeEntry (i : Info) (s : State) (hdrs : List Nat) (ps : List Piece) : StoreEntry :=
  { seq := s.me.seq, pc := s.me.flow.pc, ic := s.me.flow.ic, flag := some ((i.ctx s).flagNo s.me), hdrs := hdrs, pieces := ps }

theorem globalStore_ok (ha : i.ak = .reg 2) (hal : i.allAligned s off n) (hm : s.member s.cur = 0) (hq : s.me.queueLen < 32)
    (hl : i.lanes s ≠ []) : globalStore n off (i.ctx s) s = .ok
      { s := s.setWeft s.cur (s.me.withStore (i.ctx s) (i.storeEntry s
          (storeHdrs n (i.globalStoreLanes s off n).length s.me.recordsAt) (storePieces n s.me.recordsAt (i.globalStoreLanes s off n))))
        recs := storeRecs false n (i.globalStoreLanes s off n).length (i.ctx s).active (blankFill n), noUndo := true } := by
  have hw : s.weft s.cur = s.me := rfl
  have hk : (i.ctx s).k = s.cur := rfl
  have hnl : ∀ L, (i.ctx s).storeData s.me n L = i.data s n L := fun _ => rfl
  unfold globalStore
  simp only [hw, accessAddrs ha, filter_misaligned hal, filter_aligned hal, hk, hm, Nat.not_le.2 hq, and_false, if_false, ne_eq, not_true_eq_false,
    false_and, faultLanes_nil, hnl, globalStore_lanes, map_isEmpty hl, globalStoreLanes_isEmpty hl, Bool.false_eq_true]
  rfl

theorem globalStore_none (ha : i.ak = .reg 2) (hm : s.member s.cur = 0) (hq : s.me.queueLen < 32) (hl : i.lanes s = []) :
    globalStore n off (i.ctx s) s = .ok { s := s, recs := storeRecs false n 0 0 (blankFill n), noUndo := true } := by
  have hw : s.weft s.cur = s.me := rfl
  have hk : (i.ctx s).k = s.cur := rfl
  unfold globalStore
  simp only [hw, accessAddrs ha, hk, hm, Nat.not_le.2 hq, and_false, if_false, ne_eq, not_true_eq_false, false_and, hl, List.map_nil]
  rfl

/-! ### STL (07_memory_instructions R155) -/

/-- The stores of a weft once a release has covered them, at scope .t. -/
def Weft.releasedAt (w : Weft) (m : Nat) : List StoreEntry := w.stores.map fun e => { e with released := e.released || m == 0 }

theorem releasedAt_pos (w : Weft) {m : Nat} (hm : m ≠ 0) : w.releasedAt m = w.stores := by
  have h : (m == 0) = false := beq_false_of_ne hm
  simp [Weft.releasedAt, h]

theorem weft_markReleased (s : State) (k m : Nat) : (markReleased s k 1 (m + 1)).weft k = { s.weft k with stores := (s.weft k).releasedAt m } := by
  unfold markReleased
  by_cases hm : m = 0
  · subst hm
    rw [if_pos ⟨by decide, rfl⟩, State.modWeft, State.weft_setWeft_same]
    simp [Weft.releasedAt]
  · rw [if_neg (by omega), releasedAt_pos _ hm]

/-- The weft as O22 writes it once its stores are covered. -/
theorem weft_covered (s : State) (m : BitVec 2) :
    (s.modWeft s.cur fun w => { w with stores := w.stores.map fun e => { e with released := e.released || m == 0 } }).weft s.cur
      = { s.me with stores := s.me.releasedAt m.toNat } := by
  have hz : ∀ m : BitVec 2, (m == 0) = (m.toNat == 0) := by decide
  rw [State.modWeft, State.weft_setWeft_same, hz]
  rfl

theorem markReleased_only (s : State) (k m : Nat) : OnlyWeft k s (markReleased s k 1 m) := by
  unfold markReleased
  split
  · exact ⟨rfl, fun j hj => State.weft_setWeft_ne _ _ hj⟩
  · exact ⟨rfl, fun _ _ => rfl⟩

theorem member_markReleased (s : State) (k m : Nat) : (markReleased s k 1 m).member k = s.member k := by
  unfold markReleased
  split <;> rfl

theorem queueLen_releasedAt (w : Weft) (m : Nat) : { w with stores := w.releasedAt m }.queueLen = w.queueLen := by
  simp [Weft.queueLen, Weft.releasedAt, List.filter_map, Function.comp_def]

/-- The context sees the same lanes and operands in a weft whose queue alone differs. -/
theorem stlBody_ok {m : Nat} (ha : i.ak = .reg 2) (hal : i.allAligned s off n) (hf : fenceReady s s.cur 1 (m + 1) = true)
    (hm : s.member s.cur = 0) (hq : s.me.queueLen < 32) (hl : i.lanes s ≠ []) :
    stlBody m n off (i.ctx s) s = .ok
      { s := (markReleased s s.cur 1 (m + 1)).setWeft s.cur ({ s.me with stores := s.me.releasedAt m }.withStore (i.ctx s)
          (i.storeEntry s [] (storePieces n none (i.globalStoreLanes s off n))))
        noUndo := true } := by
  have hk : (i.ctx s).k = s.cur := rfl
  have hw : (markReleased s s.cur 1 (m + 1)).weft s.cur = { s.me with stores := s.me.releasedAt m } := weft_markReleased s s.cur m
  have hmem : (markReleased s s.cur 1 (m + 1)).member s.cur = 0 := (member_markReleased ..).trans hm
  have hq' : ¬ 32 ≤ ({ s.me with stores := s.me.releasedAt m } : Weft).queueLen := by
    rw [queueLen_releasedAt]
    exact Nat.not_le.2 hq
  have haddrs : ((i.ctx s).accessLanes { s.me with stores := s.me.releasedAt m }).map
      (fun L => (L, (i.ctx s).addrG { s.me with stores := s.me.releasedAt m } off L)) = (i.lanes s).map fun L => (L, i.addr s off L) :=
    accessAddrs ha
  have hdata : ∀ L, (i.ctx s).storeData { s.me with stores := s.me.releasedAt m } n L = i.data s n L := fun _ => rfl
  unfold stlBody
  simp only [hk, hf, Bool.not_true, Bool.false_eq_true, if_false, hw, hmem, hq', and_false, haddrs, filter_misaligned hal, filter_aligned hal,
    faultLanes_nil, hdata, globalStore_lanes, globalStoreLanes_isEmpty hl, ne_eq, not_true_eq_false]
  rfl

theorem stlBody_none {m : Nat} (ha : i.ak = .reg 2) (hf : fenceReady s s.cur 1 (m + 1) = true)
    (hm : s.member s.cur = 0) (hq : s.me.queueLen < 32) (hl : i.lanes s = []) :
    stlBody m n off (i.ctx s) s = .ok { s := markReleased s s.cur 1 (m + 1), noUndo := true } := by
  have hk : (i.ctx s).k = s.cur := rfl
  have hw : (markReleased s s.cur 1 (m + 1)).weft s.cur = { s.me with stores := s.me.releasedAt m } := weft_markReleased s s.cur m
  have hmem : (markReleased s s.cur 1 (m + 1)).member s.cur = 0 := (member_markReleased ..).trans hm
  have hq' : ¬ 32 ≤ ({ s.me with stores := s.me.releasedAt m } : Weft).queueLen := by
    rw [queueLen_releasedAt]
    exact Nat.not_le.2 hq
  have haddrs : ((i.ctx s).accessLanes { s.me with stores := s.me.releasedAt m }).map
      (fun L => (L, (i.ctx s).addrG { s.me with stores := s.me.releasedAt m } off L)) = (i.lanes s).map fun L => (L, i.addr s off L) :=
    accessAddrs ha
  unfold stlBody
  simp only [hk, hf, Bool.not_true, Bool.false_eq_true, if_false, hw, hmem, hq', and_false, haddrs, hl, List.map_nil]
  rfl

/-! ## The statement -/

section Arms

variable (p : Option Prefix) (sz u : Bool) (d a : Reg) (z : BitVec 3) (m : BitVec 2) (k : BitVec 7) (s : State)

theorem exec_st : exec (.st p z u d a k) s = issue (formA p 0x39 z.toNat u d a k)
    (globalStore (szBytes z.toNat) (immM p k * szBytes z.toNat)) s := rfl

theorem exec_stl : exec (.stl p m sz u d a k) s = issue (formA p 0x3F (2 * m.toNat + sz.toNat) u d a k)
    (stlBody m.toNat (szBytes (szCode sz)) (immM p k * szBytes (szCode sz))) s := rfl

theorem exec_sts : exec (.sts p z u d a k) s = issueMem (formA p 0x3B z.toNat u d a k)
    (spadStore (szBytes z.toNat) (immM p k * szBytes z.toNat)) s := rfl

end Arms

/-- What O22 says of a store of flag B that leaves the entry of its lanes behind the stores `st`. -/
theorem queued_of_ok {st : List StoreEntry} {hdrs : List Nat} {top : Option Nat} (hi : i.flag = some true) (h : issues i s = true)
    (hb : body (i.ctx s) s = .ok e) (hf : e.fin = .next) (ho : OnlyWeft s.cur s e.s)
    (hw : e.s.weft s.cur = { s.me with stores := st }.withStore (i.ctx s) (i.storeEntry s hdrs (storePieces n top (i.globalStoreLanes s off n)))) :
    ∃ t x, issue i body s = .next t ∧ Queues i x s t ∧ (t.weft s.cur).stores = st ++ [x]
      ∧ x.seq = s.me.seq ∧ (t.weft s.cur).seq = s.me.seq + 1 ∧ x.pc = s.me.flow.pc ∧ x.ic = s.me.flow.ic
      ∧ x.flag = some s.me.flow.flagB ∧ x.entered = false ∧ x.spad = false
      ∧ x.pieces.map (fun q => (q.lane, q.va, q.data)) = ((i.lanes s).flatMap fun L =>
        if n = 16 then [(L, i.addr s off L + 8, (i.data s 16 L).drop 8), (L, i.addr s off L, (i.data s 16 L).take 8)]
        else [(L, i.addr s off L, i.data s n L)]) ∧ ∀ q ∈ x.pieces, q.done = false := by
  obtain ⟨t, ht, hq, hst, hsq⟩ := queues_of_ok h hb hf ho hw
  exact ⟨t, _, ht, hq, hst, rfl, hsq, rfl, rfl, congrArg some (flagNo_B hi), rfl, rfl, globalStoreLanes_pieces i s off n top,
    fun q hq => storePieces_fresh hq⟩

/-- The same wefts in another table make no difference to what a retirement leaves. -/
theorem Retires.congr {t : State} (h : Retires i s s' t) (hx : s2 = { s' with wefts := s2.wefts }) (hw : ∀ j, s2.weft j = s'.weft j) :
    Retires i s s2 t := by
  obtain ⟨⟨ho, hj⟩, hg, hc, hr, hh⟩ := h
  refine ⟨⟨?_, fun j hne => (hj j hne).trans (hw j).symm⟩, hg, ?_, ?_, ?_⟩
  · rw [ho, hx]
  · rw [hw]; exact hc
  · rw [hw]; exact hr
  · rw [hw]; exact hh

/-- Settles O22: an ST or STL leaves the entry of its lanes (`globalStore_ok`, `stlBody_ok`), and an STS two runs over its beats, of which
the second writes (`spadStore_ok`). -/
theorem storesQueue : Obligations.StoresQueue := by
  unfold Obligations.StoresQueue
  refine ⟨?_, ?_⟩
  · intro p sz u d a z m k s pieces one n i n2 j hm hq
    refine ⟨fun h hal => ⟨fun hl => ?_, fun hl => ?_⟩, fun h hal hf => ⟨fun hl => ?_, fun hl => ?_⟩⟩
    · rw [exec_st]
      exact queued_of_ok rfl h (globalStore_ok rfl hal hm hq hl) rfl ⟨rfl, fun j hj => State.weft_setWeft_ne _ _ hj⟩
        (State.weft_setWeft_same ..)
    · rw [exec_st]
      exact retires_of_ok h (globalStore_none rfl hm hq hl) rfl ⟨id, rfl, rfl⟩
    · have hst : (s.modWeft s.cur fun w => { w with stores := w.stores.map fun e => { e with released := e.released || m == 0 } }).me.stores
          = s.me.releasedAt m.toNat := congrArg Weft.stores (weft_covered s m)
      rw [exec_stl, szBytes_szCode, hst]
      have ho := markReleased_only s s.cur (m.toNat + 1)
      have hb := stlBody_ok (off := immM p k * n2) (n := n2) rfl hal hf hm hq hl
      exact queued_of_ok rfl h hb rfl ⟨by rw [ho.1]; rfl, fun j hj => (State.weft_setWeft_ne _ _ hj).trans (ho.2 j hj)⟩
        (State.weft_setWeft_same ..)
    · rw [exec_stl, szBytes_szCode]
      have ho := markReleased_only s s.cur (m.toNat + 1)
      have hw := weft_markReleased s s.cur m.toNat
      obtain ⟨t, ht, hr⟩ := retires_of_ok h (stlBody_none (off := immM p k * n2) (n := n2) rfl hf hm hq hl) rfl
        (by rw [hw]; exact ⟨id, rfl, rfl⟩)
      refine ⟨t, ht, hr.congr (by rw [ho.1]; rfl) fun x => ?_⟩
      by_cases hx : x = s.cur
      · rw [hx, hw]
        exact weft_covered s m
      · rw [ho.2 x hx, State.modWeft, State.weft_setWeft_ne _ _ hx]
  · intro p u d a z k s s1 s2 olds r T core n off i h hk h1 hm h2 hc hme
    refine ⟨?_, fun L hL hl hr hs hh => ?_⟩
    · rw [exec_sts]
      exact spadStore_takes h rfl hk h1 hm h2 hc hme
    · exact spadStore_bytes (szBytes_dvd _) hk h1 h2 hL hl hr hs hh

end Sys2Proof.Machine

namespace Sys2Proof.Machine

variable {i : Info} {s s' : State} {off : Int} {n : Nat} {ls : List LaneAcc}

/-! ## LDS (07_memory_instructions R149) -/

/-- What a lane of LDS reads. -/
def ldsRead (T n L : Nat) (x : Nat × Unit) (s : State) : LaneAcc × State :=
  ({ lane := L, va := BitVec.ofNat 64 x.1, pa := x.1, val := some (valOf (s.spadRead T x.1 n)) }, s)

theorem spadLoad_inFlight {sx : Bool} (h : issues i s = true) (ha : i.ak = .reg 1) (hi : i.flag = some false) (hk : i.spadOk s off n)
    (hr : runBeats (teamOf s.cur) (s.coreOf s.cur) (ldsRead (teamOf s.cur) n) (beatsOf (bare (i.spads s off))) s = .ok (ls, s'))
    (hc : s.clear s') : ∃ t, Takes (issueMem i (spadLoad n sx off) s) s t ∧ Launches i [i.flight s .lds n i.dk.words sx 0 ls] s s' t := by
  have hw : s.weft (i.ctx s).k = s.me := rfl
  have hw' : s'.weft s.cur = s.me := (runBeats_wefts (fun _ _ _ => rfl) hr).weft s.cur
  have hb : spadLoad n sx off (i.ctx s) s
      = .ok { s := launch (i.ctx s) s' .lds n i.dk.words sx ls, recs := destRecs (s'.weft s.cur) (i.ctx s) } := by
    unfold ldsRead at hr
    unfold spadLoad
    simp only [hw, hk.1, Bool.false_eq_true, if_false, spadLanes_ok ha hk, show teamOf (i.ctx s).k = teamOf s.cur from rfl,
      show s.coreOf (i.ctx s).k = s.coreOf s.cur from rfl, hr]
    rfl
  have hl : launch (i.ctx s) s' .lds n i.dk.words sx ls = _ := launch_local hi rfl hw'
  exact launches_of_ok h hb rfl hl hc

theorem spadLoad_value {core L : Nat} (hL : L < 64) (hl : i.lanes s = [L])
    (hr : runBeats (teamOf s.cur) core (ldsRead (teamOf s.cur) n) (beatsOf (bare (i.spads s off))) s = .ok (ls, s'))
    (hres : s.resident (teamOf s.cur) (i.saddr s off L / 2048)) (hs : (teamOf s.cur, i.saddr s off L / 2048) ∈ (s.core core).stlb) :
    ls = [{ lane := L, va := BitVec.ofNat 64 (i.saddr s off L), pa := i.saddr s off L
            val := some (valOf (s.spadRead (teamOf s.cur) (i.saddr s off L) n)) }] ∧ s'.mem = s.mem := by
  rw [spads_single hl] at hr
  obtain ⟨t, ht, hr'⟩ := runBeats_single (ldsRead (teamOf s.cur) n) () hL hres hs
  rw [hr'] at hr
  cases hr
  unfold ldsRead
  rw [ht.read _ _ rfl]
  exact ⟨rfl, ht.mem⟩

/-! ## XCHGS and the scratchpad atomics (07_memory_instructions R153, R163, R165) -/

/-- The lanes of a scratchpad exchange or atomic with their operands. -/
def withOperands (ls : List LaneAcc) (X : Nat → BitVec 128) : List LaneAcc := ls.map fun l => { l with x := X l.lane }

/-- A body that performs its lanes as `spadRmw` does and launches them on flag A. -/
theorem rmw_inFlight {op : FlightOp} {g : Nat → BitVec 128 → BitVec 128} {X : Nat → BitVec 128} {body : Ctx → State → Except Stop Eff}
    (h : issues i s = true) (hi : i.flag = some false) (hop : op.global = false)
    (hr : runBeats (teamOf s.cur) (s.coreOf s.cur) (spadRmw (teamOf s.cur) n g) (beatsOf (bare (i.spads s off))) s = .ok (ls, s'))
    (hc : s.clear s') (hme : s'.me = s.me)
    (hb : body (i.ctx s) s = .ok { s := launch (i.ctx s) s' op n i.dk.words false (withOperands ls X), noUndo := true }) :
    ∃ t, Takes (issueMem i body s) s t ∧ Launches i [i.flight s op n i.dk.words false 0 (withOperands ls X)] s s' t := by
  have hcur : s'.cur = s.cur := runBeats_cur (spadRmw_cur _ _ _) hr
  have hw' : s'.weft s.cur = s.me := by rw [← hcur]; exact hme
  exact launches_of_ok h hb rfl (launch_local hi hop hw') hc

/-- One lane of an exchange or atomic on a resident page takes the old value and writes the new one. -/
theorem rmw_value {core L : Nat} {g : Nat → BitVec 128 → BitVec 128} (hd : n ∣ 2048) (hk : i.spadOk s off n) (hL : L < 64)
    (hl : i.lanes s = [L])
    (hr : runBeats (teamOf s.cur) core (spadRmw (teamOf s.cur) n g) (beatsOf (bare (i.spads s off))) s = .ok (ls, s'))
    (hres : s.resident (teamOf s.cur) (i.saddr s off L / 2048)) (hs : (teamOf s.cur, i.saddr s off L / 2048) ∈ (s.core core).stlb)
    (hm : s.mmasReading (teamOf s.cur) (i.saddr s off L) n = []) (hh : ∀ k ∈ s.weftsOf (teamOf s.cur), (s.weft k).hold = none) :
    ls.map (fun l => l.val) = [some (valOf (s.spadRead (teamOf s.cur) (i.saddr s off L) n))] ∧ s'.mem = s.mem
      ∧ ∀ q, s'.spadByte (teamOf s.cur) q = if i.saddr s off L ≤ q ∧ q < i.saddr s off L + n
          then (leBytes n (g L (valOf (s.spadRead (teamOf s.cur) (i.saddr s off L) n))).toNat).getD (q - i.saddr s off L) 0
          else s.spadByte (teamOf s.cur) q := by
  have hin := aligned_within hd (hk.2 L (by simp [hl])).1
  rw [spads_single hl] at hr
  obtain ⟨t, ht, hr'⟩ := runBeats_single (spadRmw (teamOf s.cur) n g) () hL hres hs
  rw [hr'] at hr
  cases hr
  unfold spadRmw
  simp only [ht.reading _ _ hm, ht.read _ _ rfl, List.isEmpty_nil, if_true]
  have hlen := leBytes_length n (g L (valOf (s.spadRead (teamOf s.cur) (i.saddr s off L) n))).toNat
  obtain ⟨hmem, hbyte⟩ := spadByte_readied ht (by rw [hlen]; exact hin) hh
  refine ⟨rfl, hmem, fun q => ?_⟩
  rw [hbyte, hlen]

theorem spadXchg_ok (ha : i.ak = .reg 1) (hk : i.spadOk s off n)
    (hr : runBeats (teamOf s.cur) (s.coreOf s.cur) (spadRmw (teamOf s.cur) n fun L _ => readOp s.me i.u i.dk i.d L)
      (beatsOf (bare (i.spads s off))) s = .ok (ls, s')) :
    spadXchg n off (i.ctx s) s = .ok { s := launch (i.ctx s) s' .xchgs n i.dk.words false (withOperands ls fun L => readOp s.me i.u i.dk i.d L)
                                       noUndo := true } := by
  have hw : s.weft (i.ctx s).k = s.me := rfl
  have hv : ∀ L, (i.ctx s).valD s.me L = readOp s.me i.u i.dk i.d L := fun _ => rfl
  unfold spadXchg
  simp only [hw, hv, hk.1, Bool.false_eq_true, if_false, spadLanes_ok ha hk, show teamOf (i.ctx s).k = teamOf s.cur from rfl,
    show s.coreOf (i.ctx s).k = s.coreOf s.cur from rfl, hr]
  rfl

theorem spadAtomic_ok {fn : Nat} (ha : i.ak = .reg 1) (hdk : i.dk.words = 1) (hk : i.spadOk s 0 4)
    (hr : runBeats (teamOf s.cur) (s.coreOf s.cur) (spadRmw (teamOf s.cur) 4 fun L o => atomicNew fn 4 o (readOp s.me i.bScalar i.bk i.b L))
      (beatsOf (bare (i.spads s 0))) s = .ok (ls, s')) :
    spadAtomic fn (i.ctx s) s = .ok
      { s := launch (i.ctx s) s' (.atoms fn) 4 i.dk.words false (withOperands ls fun L => readOp s.me i.bScalar i.bk i.b L), noUndo := true } := by
  have hw : s.weft (i.ctx s).k = s.me := rfl
  have hv : ∀ L, (i.ctx s).valB s.me L = readOp s.me i.bScalar i.bk i.b L := fun _ => rfl
  unfold spadAtomic
  simp only [hw, hv, hk.1, Bool.false_eq_true, if_false, spadLanes_ok ha hk, show teamOf (i.ctx s).k = teamOf s.cur from rfl,
    show s.coreOf (i.ctx s).k = s.coreOf s.cur from rfl, hr]
  rw [hdk]
  rfl

/-! ## The statement -/

section Arms

variable (p : Option Prefix) (sz u : Bool) (d a : Reg) (z : BitVec 3) (k : BitVec 7) (s : State)

theorem exec_lds : exec (.lds p z u d a k) s = issueMem (formA p 0x3A z.toNat u d a k)
    (spadLoad (szBytes z.toNat) (loadSext z) (immM p k * szBytes z.toNat)) s := rfl

theorem exec_xchgs : exec (.xchgs p sz u d a k) s = issueMem (formA p 0x3D (szCode sz) u d a k)
    (spadXchg (szBytes (szCode sz)) (immM p k * szBytes (szCode sz))) s := rfl

end Arms

/-- The atomics on the scratchpad: function code and instruction (07_memory_instructions R163, R165). -/
inductive IsSpadAtom (p : Option Prefix) (u : Bool) (d a b : Reg) : Nat → Instr → Prop
  | aaddsI32 : IsSpadAtom p u d a b 0 (.aaddsI32 p u d a b)
  | aaddsF32 : IsSpadAtom p u d a b 1 (.aaddsF32 p u d a b)
  | aminsI : IsSpadAtom p u d a b 2 (.aminsI p u d a b)
  | amaxsI : IsSpadAtom p u d a b 3 (.amaxsI p u d a b)
  | aands : IsSpadAtom p u d a b 4 (.aands p u d a b)
  | aors : IsSpadAtom p u d a b 5 (.aors p u d a b)
  | axors : IsSpadAtom p u d a b 6 (.axors p u d a b)
  | axchs : IsSpadAtom p u d a b 7 (.axchs p u d a b)

theorem exec_spadAtom {p : Option Prefix} {u : Bool} {d a b : Reg} {fn : Nat} {x : Instr} (hx : IsSpadAtom p u d a b fn x) (s : State) :
    exec x s = issueMem (formA p 0x4B fn u d a b) (spadAtomic fn) s := by
  cases hx <;> rfl

/-- Settles O20: an access to global memory is launched once its lanes are translated, which changes no weft (`xlateAll_threads`); one to the
scratchpad is launched once its beats have been performed, and a single lane on a resident page writes its own bytes alone (`rmw_value`). -/
theorem accessesIssue : Obligations.AccessesIssue := by
  unfold Obligations.AccessesIssue
  refine ⟨?_, ?_⟩
  · intro p sz t u d a b z m k s s' accs one none_ noY D B C n2 code shared atom cas
    have hatom : ∀ fn x, IsAtom p t u d a b fn x → atom fn x := by
      intro fn x hx
      obtain ⟨ha, hi⟩ := atom_form p t u d a b fn
      exact ⟨fun hm h hal hr hc => (atomic_inFlight (exec_atom hx s) h ha hi rfl hal hr hc).1 hm,
        fun hm h hal hr hc => (atomic_inFlight (exec_atom hx s) h ha hi rfl hal hr hc).2 hm⟩
    refine ⟨fun h hal hr hc => ?_, fun h hal hr hc => ?_, fun h hal hr hc => ?_, hatom _ _ .aaddI, hatom _ _ .aaddF, hatom _ _ .aminI,
      hatom _ _ .amaxI, hatom _ _ .aand, hatom _ _ .aor, hatom _ _ .axor, hatom _ _ .axch,
      ⟨fun hm h hal hr hc => ?_, fun hm h hal hr hc => ?_⟩, ⟨fun hm h hal hr hc => ?_, fun hm h hal hr hc => ?_⟩⟩
    · rw [exec_ld]
      exact globalLoad_inFlight h rfl rfl rfl hal hr hc
    · rw [exec_lda, szBytes_szCode]
      exact globalLoad_inFlight h rfl rfl rfl hal hr hc
    · rw [exec_xchg, szBytes_szCode]
      exact globalXchg_inFlight h rfl rfl hal hr hc
    · exact (atomic_inFlight (exec_acasB32 p u d a b s) h rfl rfl rfl hal hr hc).1 hm
    · exact (atomic_inFlight (exec_acasB32 p u d a b s) h rfl rfl rfl hal hr hc).2 hm
    · exact (atomic_inFlight (exec_acasB64 p u d a b s) h rfl rfl rfl hal hr hc).1 hm
    · exact (atomic_inFlight (exec_acasB64 p u d a b s) h rfl rfl rfl hal hr hc).2 hm
  · intro p sz u d a b z k s s' ls T core flight load rmw n2 i2 old atom
    have hn2 : n2 ∣ 2048 := by
      cases sz <;> decide
    have hatom : ∀ fn x, IsSpadAtom p u d a b fn x → atom fn x := by
      intro fn x hx h hk hr hc hme
      refine ⟨?_, fun L hL hl hres hs hm hh => ?_⟩
      · rw [exec_spadAtom hx]
        exact rmw_inFlight h rfl rfl hr hc hme (spadAtomic_ok rfl rfl hk hr)
      · have hv := rmw_value (by decide) hk hL hl hr hres hs hm hh
        exact hv
    refine ⟨fun h hk hr hc => ⟨?_, fun L hL hl hres hs => spadLoad_value hL hl hr hres hs⟩,
      fun h hk hr hc hme => ⟨?_, fun L hL hl hres hs hm hh => ?_⟩, hatom _ _ .aaddsI32,
      hatom _ _ .aaddsF32, hatom _ _ .aminsI, hatom _ _ .amaxsI, hatom _ _ .aands, hatom _ _ .aors, hatom _ _ .axors, hatom _ _ .axchs⟩
    · rw [exec_lds]
      exact spadLoad_inFlight h rfl rfl hk hr hc
    · rw [exec_xchgs, szBytes_szCode]
      exact rmw_inFlight h rfl rfl hr hc hme (spadXchg_ok rfl hk hr)
    · have hv := rmw_value hn2 hk hL hl hr hres hs hm hh
      exact hv

end Sys2Proof.Machine

/-!
# Clauses, traps and completions

What O18, O23, O37 and O38 need: entries of traps after a retirement, the start of a clause, and the completion of accesses and functions in
flight.
-/

namespace Sys2Proof.Machine

variable {i : Info} {s : State}

/-! ## Instructions that retire into a trap (15_control_flow R355, 18_traps R405, R408) -/

/-- The trap entered from outside a handler resumes where its entry says. -/
theorem takeTrap_resume {k : Nat} {c : Cause} {tpc tic addr : Dword} {lane : Nat} {resume : Dword} {entry : Entry} (h : s.armed k) :
    ((takeTrap s k c tpc tic addr lane resume entry).weft k).trap.resume = resume := by
  obtain ⟨hh, hv⟩ := h
  unfold takeTrap
  simp only [hh, hv, if_true, Bool.false_eq_true, if_false]
  rw [State.weft_setWeft_same]

/-- Nothing but a weft that keeps its handler mode differs: the trap vector of its context is what it was. -/
theorem PlainStep.armed {v n m : Nat → Prop} {t : State} (h : PlainStep i v n m s t) (ha : s.armed s.cur) : t.armed s.cur := by
  obtain ⟨hh, hv⟩ := ha
  refine ⟨?_, ?_⟩
  · have hc := congrArg (fun w => w.trap.handler) h.control
    exact hc.trans hh
  · rw [h.only.1]
    exact hv

/-- The retirement alone of an instruction that takes effect, outside the irreversible class, is a plain step. -/
theorem retire_plainStep (h : issues i s = true) (hi : i.irrev = false) :
    PlainStep i (fun _ => False) (fun _ => False) (fun _ => False) s (retire (i.ctx s) s.me { s := s }) := by
  obtain ⟨t, ht, hp⟩ := plainStep_of_unchanged (body := fun _ s => .ok { s := s }) h rfl
  rw [issue_of_issues h] at ht
  unfold Info.finish at ht
  rw [hi] at ht
  exact Host.Outcome.next.inj ht ▸ hp

section
variable {addr : Ctx → Weft → Dword} (h : issues i s = true)
include h

/-- In a handler BRK and TRAP only retire. -/
theorem break_inHandler (hh : s.me.trap.handler = true) :
    ∃ t, issue i (breakBody addr) s = .next t ∧ PlainStep i (fun _ => False) (fun _ => False) (fun _ => False) s t :=
  plainStep_of_unchanged (rs := []) h (if_pos hh)

/-- Outside a handler they retire, and the trap BREAK is entered at the next word. -/
theorem break_traps (hi : i.irrev = false) (ha : s.armed s.cur) :
    ∃ t s', issue i (breakBody addr) s = .next t ∧ PlainStep i (fun _ => False) (fun _ => False) (fun _ => False) s s'
      ∧ EntersTrap .brk (i.ctx s).next (s.me.flow.ic + 1) (addr (i.ctx s) s.me) 0 s.cur s' t ∧ (t.weft s.cur).trap.resume = (i.ctx s).next := by
  have hp := retire_plainStep h hi
  have hb : breakBody addr (i.ctx s) s = .error (.whole (takeTrap (retire (i.ctx s) s.me { s := s }) s.cur .brk (i.ctx s).next
      (s.me.flow.ic + 1) (addr (i.ctx s) s.me) 0 (i.ctx s).next .body)) := by
    unfold breakBody
    exact if_neg fun hh => Bool.false_ne_true (ha.1.symm.trans hh)
  refine ⟨_, _, ?_, hp, takeTrap_enters (entry := .body) (hp.armed ha), takeTrap_resume (hp.armed ha)⟩
  rw [issue_of_issues h, hb]
  rfl

end

theorem pairOf_one (v : Word) : pairOf v 1 = 0x100000000 + v.setWidth 64 := by
  apply BitVec.eq_of_toNat_eq
  unfold pairOf
  have := v.isLt
  rw [BitVec.toNat_append, BitVec.toNat_add, BitVec.toNat_setWidth, ← Nat.shiftLeft_add_eq_or_of_lt v.isLt]
  simp only [Nat.shiftLeft_eq]
  simp
  omega

theorem exec_brk (p : Option Prefix) (b : Reg) (s : State) :
    exec (.brk p b) s = issue (formA p 0x65 5 true 0 0 b) (breakBody fun c _ => c.i.b.setWidth 64) s := rfl
theorem exec_trap (p : Option Prefix) (a : Reg) (s : State) :
    exec (.trap p a) s = issue (formA p 0x65 6 true 0 a 0) (breakBody fun c w => pairOf (sregOf w c.i.a) 1) s := rfl
theorem exec_illegalEncoding (v : Word) (s : State) :
    exec (.illegalEncoding v) s = issue noForm (fun _ s => .ok { s := s }) s := rfl

/-- Where every imprecise cause waits on a flag none is due before the next instruction. -/
theorem nextImprecise_none {w : Weft} {q : Impr → Bool} (h : ∀ x ∈ w.trap.impr, q x = false) : w.nextImprecise q = none := by
  unfold Weft.nextImprecise
  rw [filter_none _ _ h]
  rfl

/-- A word that names no instruction breaks a rule of decode, and no other check comes before it. -/
theorem decodeStop_noForm (w : Weft) : decodeStop noForm w = some (.illegal, 0) := rfl

/-- Settles O38: BRK and TRAP by `break_inHandler` and `break_traps`, a word that is no instruction by its stop in decode. -/
theorem trapsTaken : Obligations.TrapsTaken := by
  unfold Obligations.TrapsTaken
  refine ⟨fun p a b s => ?_, fun v s hc hx ha => ?_⟩
  · intro one
    refine ⟨fun h => ⟨fun hh => ?_, fun hh hv => ?_⟩, fun h => ⟨fun hh => ?_, fun hh hv => ?_⟩⟩
    · exact exec_brk p b s ▸ break_inHandler h hh
    · exact exec_brk p b s ▸ break_traps h rfl ⟨hh, hv⟩
    · exact exec_trap p a s ▸ break_inHandler h hh
    · rw [exec_trap, ← pairOf_one]
      exact break_traps h rfl ⟨hh, hv⟩
  · have hi : (s.me.nextImprecise fun x => x.gate.isNone) = none := nextImprecise_none fun x h => by simpa using hx x h
    rw [exec_illegalEncoding, issue_of_decodeStop hc hi rfl (decodeStop_noForm s.me)]
    exact ⟨_, rfl, takeTrap_enters ha, takeTrap_resume ha⟩

end Sys2Proof.Machine

namespace Sys2Proof.Machine

variable {s : State} {k : Nat} {h : Word}

/-! ## The start of a clause (03_encoding R53, R55) -/

theorem exec_clauseStart (k : Nat) (s : State) : exec (.clauseStart k) s = execClauseStart k s := rfl

/-- A header is fetched where a weft has arrived by a transfer, or falls into it from the clause that its back-link names. -/
theorem fetchHeader_ok (hc : s.codeWord k (s.weft k).flow.pc = .ok h) (hh : isHeader h = true) (hb : badHeader h = false)
    (he : (s.weft k).flow.entry = .arrived ∨ (s.weft k).flow.entry = .fall ∧ headerBackLink h ≠ 0
      ∧ (s.weft k).flow.pc = (s.weft k).flow.hdr + BitVec.ofNat 64 (4 * headerBackLink h)) : fetchHeader s k = .ok h := by
  unfold fetchHeader
  rcases he with he | ⟨he, hl, hp⟩
  · simp [hc, hh, hb, he]
  · simp [hc, hh, hb, he, hl, ← hp]

/-- The weft in the body of the clause whose header `h` stands at its PC. -/
def Weft.inClause (w : Weft) (h : Word) : Weft :=
  { w with flow := { w.flow with entry := .body, hdr := w.flow.pc, flagA := headerFlagA h, flagB := headerFlagB h, pc := w.flow.pc + 4 } }

/-- A clause whose flags are clear, and on none of which an imprecise cause waits, starts. -/
theorem startClause_starts (hf : fetchHeader s k = .ok h) (hc : (s.weft k).flagsClear (h.extractLsb' 8 12) = true)
    (hd : ∀ x ∈ (s.weft k).trap.impr, ∀ n, x.gate = some n → (s.weft k).trap.handler = false → (h.extractLsb' 8 12).getLsbD n = false) :
    startClause k s = s.setWeft k ((s.weft k).inClause h) := by
  unfold startClause
  rw [hf]
  simp only [hc, Bool.not_true, Bool.false_eq_true, if_false]
  cases hm : (s.weft k).trap.handler with
  | true => rfl
  | false =>
    simp only [Bool.false_eq_true, if_false]
    rw [nextImprecise_none fun x hx => ?_]
    · rfl
    · cases hg : x.gate with
      | none => rfl
      | some n => exact hd x hx n hg hm

/-- Until its flags are clear a clause waits. -/
theorem startClause_waits (hf : fetchHeader s k = .ok h) (hc : (s.weft k).flagsClear (h.extractLsb' 8 12) = false) : startClause k s = s := by
  unfold startClause
  rw [hf]
  simp only [hc, Bool.not_false, if_true]

/-- A weft whose arrival reconverges with no entry of its stack stands at the same header with the same lanes. -/
theorem arrive_stays {st : List StackEntry} {m : Mask} {at_ : Dword} (hm : m ≠ 0) (hst : st.head?.map StackEntry.rpc ≠ some at_) :
    arrive st m at_ false = { stack := st, active := m, at_ := at_, removed := [], popped := false } := by
  cases st with
  | nil => rfl
  | cons e t =>
    have he : e.rpc ≠ at_ := fun hx => hst (congrArg some hx)
    unfold arrive
    simp only [if_neg hm, if_neg he, Bool.false_and]

theorem reconverge_stays {w : Weft} (hm : w.flow.active ≠ 0) (hst : w.flow.stack.head?.map StackEntry.rpc ≠ some w.flow.pc) (again : Bool) :
    reconverge w again = { w with flow := { w.flow with entry := .arrived } } := by
  unfold reconverge
  rw [arrive_stays hm hst]
  simp only [if_neg hm, List.isEmpty_nil, Bool.true_or, if_true, Bool.false_eq_true, if_false]

/-- A weft that waits at a header is live. -/
theorem live_of_atClause (ha : s.atClause k = true) : (s.weft k).status = .live := by
  unfold State.atClause at ha
  simp only [Bool.and_eq_true, beq_iff_eq] at ha
  exact ha.1.1.1.1.1.1

/-- What CLAUSE_START does where the weft's own arrival is made already. -/
theorem execClauseStart_arrived (ha : s.atClause k = true) (he : (s.weft k).flow.entry = .arrived) (hf : fetchHeader s k = .ok h) :
    execClauseStart k s = .next (startClause k s) := by
  unfold execClauseStart
  simp [ha, he, hf, live_of_atClause ha]

/-- What it does where the weft falls into a header at which no entry reconverges. -/
theorem execClauseStart_falls (ha : s.atClause k = true) (he : (s.weft k).flow.entry = .fall) (hl : (s.weft k).lanesPending = false)
    (hf : fetchHeader s k = .ok h) (hm : (s.weft k).flow.active ≠ 0)
    (hst : (s.weft k).flow.stack.head?.map StackEntry.rpc ≠ some (s.weft k).flow.pc) :
    execClauseStart k s = .next (startClause k (s.setWeft k { s.weft k with flow := { (s.weft k).flow with entry := .arrived } })) := by
  unfold execClauseStart
  simp [ha, he, hf, hl, live_of_atClause ha, reconverge_stays hm hst]

/-- Settles O37: a weft that falls into its clause is one that has arrived there, since no entry reconverges. -/
theorem clausesStart : Obligations.ClausesStart := by
  unfold Obligations.ClausesStart
  intro k h s w fall ha hc hh hb hl he
  refine ⟨fun hcl hd => ?_, fun hae hcl => ?_⟩
  · rcases he with he | ⟨he, hback, hpc, hm, hst⟩
    · have hf := fetchHeader_ok hc hh hb (.inl he)
      refine ⟨_, (exec_clauseStart k s).trans ((execClauseStart_arrived ha he hf).trans (congrArg _ (startClause_starts hf hcl hd))),
        onlyWeft_setWeft_once _ _ _, ?_⟩
      rw [State.weft_setWeft_same]
      rfl
    · have hf := fetchHeader_ok hc hh hb (.inr ⟨he, hback, hpc⟩)
      let u := s.setWeft k { w with flow := { w.flow with entry := .arrived } }
      have hu : u.weft k = { w with flow := { w.flow with entry := .arrived } } := State.weft_setWeft_same ..
      have hfu : fetchHeader u k = .ok h := fetchHeader_ok (by rw [hu]; exact hc) hh hb (.inl (by rw [hu]))
      refine ⟨_, (exec_clauseStart k s).trans ((execClauseStart_falls ha he hl hf hm hst).trans (congrArg _ (startClause_starts hfu ?_ ?_))),
        onlyWeft_setWeft _ _ _ _, ?_⟩
      · rw [hu]; exact hcl
      · rw [hu]; exact hd
      · rw [State.weft_setWeft_same, hu]
        rfl
  · have hf := fetchHeader_ok hc hh hb (.inl hae)
    exact (exec_clauseStart k s).trans ((execClauseStart_arrived ha hae hf).trans (congrArg _ (startClause_waits hf hcl)))

end Sys2Proof.Machine

namespace Sys2Proof.Machine

variable {f : Flight} {r : Regs} {vs : List (Nat × BitVec 128)} {L M q j k : Nat} {v : BitVec 128} {w : Weft} {s t : State}

/-! ## The destination of a flight (03_encoding R56) -/

/-- The words of a flight's destination for one lane, among the registers of its weft. -/
def Flight.putWords (f : Flight) (r : Regs) (L : Nat) (v : BitVec 128) : Regs :=
  if f.uni then r.setWordsS f.d (splitWords f.words v) else r.setWordsV f.d L (splitWords f.words v)

theorem put_eq (f : Flight) (w : Weft) (L : Nat) (v : BitVec 128) : f.put w L v = { w with regs := f.putWords w.regs L v } := rfl

/-- The values of several lanes. -/
def Flight.putLanes (f : Flight) (vs : List (Nat × BitVec 128)) (r : Regs) : Regs := vs.foldl (fun r x => f.putWords r x.1 x.2) r

theorem foldl_put (f : Flight) : ∀ (vs : List (Nat × BitVec 128)) (w : Weft),
    vs.foldl (fun w x => f.put w x.1 x.2) w = { w with regs := f.putLanes vs w.regs }
  | [], _ => rfl
  | x :: vs, w => foldl_put f vs (f.put w x.1 x.2)

theorem putWords_frame (f : Flight) (r : Regs) (L : Nat) (v : BitVec 128) : ∃ y z, f.putWords r L v = { r with v := y, s := z } := by
  unfold Flight.putWords
  split
  · exact ⟨_, _, setWordsS_frame _ _ _⟩
  · exact ⟨_, _, setWordsV_frame _ _ _ _⟩

/-- Registers of other kinds are as they were. -/
theorem putLanes_frame (f : Flight) : ∀ (vs : List (Nat × BitVec 128)) (r : Regs), ∃ y z, f.putLanes vs r = { r with v := y, s := z }
  | [], r => ⟨r.v, r.s, rfl⟩
  | x :: vs, r => by
    obtain ⟨_, _, hx⟩ := putWords_frame f r x.1 x.2
    obtain ⟨y, z, h⟩ := putLanes_frame f vs (f.putWords r x.1 x.2)
    exact ⟨y, z, h.trans (by rw [hx])⟩

theorem getS_putWords {n : Nat} (h : f.uni = false ∨ ¬ (f.d ≤ n ∧ n < f.d + f.words)) : (f.putWords r L v).getS n = r.getS n := by
  unfold Flight.putWords
  split
  · next hu =>
    rw [getS_setWordsS, dif_neg]
    rw [splitWords_length]
    exact h.resolve_left (by rw [hu]; exact Bool.noConfusion)
  · rw [setWordsV_frame]
    rfl

theorem getV_putWords_uni (hu : f.uni = true) : (f.putWords r L v).getV q M = r.getV q M := by
  unfold Flight.putWords Regs.getV
  rw [hu, if_pos rfl, setWordsS_frame]

theorem getV_putWords (hu : f.uni = false) (hL : L < 64) (hM : M < 64) :
    (f.putWords r L v).getV q M = if h : M = L ∧ f.d ≤ q ∧ q < f.d + f.words
      then (splitWords f.words v)[q - f.d]'(by rw [splitWords_length]; omega) else r.getV q M := by
  unfold Flight.putWords
  rw [hu, if_neg Bool.false_ne_true, getV_setWordsV L hL _ _ _ _ _ hM]
  simp only [splitWords_length]

/-- A scalar destination reads back. -/
theorem wordsS_putWords (hu : f.uni = true) : (f.putWords r L v).wordsS f.d f.words = splitWords f.words v := by
  rw [show f.putWords r L v = r.setWordsS f.d (splitWords f.words v) from if_pos hu]
  unfold Regs.wordsS
  refine List.ext_getElem (by simp [splitWords_length]) fun i h1 h2 => ?_
  rw [List.getElem_map, getS_setWordsS, dif_pos (by simpa using h2)]
  simp

/-- So does a lane's. -/
theorem wordsV_putWords (hu : f.uni = false) (hL : L < 64) : (f.putWords r L v).wordsV f.d L f.words = splitWords f.words v := by
  unfold Regs.wordsV
  refine List.ext_getElem (by simp [splitWords_length]) fun i h1 h2 => ?_
  rw [List.getElem_map, getV_putWords hu hL hL, dif_pos (by rw [splitWords_length] at h2; simpa using h2)]
  simp

/-- A scalar outside the destination is as it was. -/
theorem getS_putLanes {n : Nat} (h : f.uni = false ∨ ¬ (f.d ≤ n ∧ n < f.d + f.words)) :
    ∀ (vs : List (Nat × BitVec 128)) (r : Regs), (f.putLanes vs r).getS n = r.getS n
  | [], _ => rfl
  | _ :: vs, _ => (getS_putLanes h vs _).trans (getS_putWords h)

theorem getV_putLanes_uni (hu : f.uni = true) : ∀ (vs : List (Nat × BitVec 128)) (r : Regs), (f.putLanes vs r).getV q M = r.getV q M
  | [], _ => rfl
  | _ :: vs, _ => (getV_putLanes_uni hu vs _).trans (getV_putWords_uni hu)

/-- A register outside the destination, or of a lane without a value, is as it was. -/
theorem getV_putLanes (hM : M < 64) : ∀ (vs : List (Nat × BitVec 128)) (r : Regs), (∀ x ∈ vs, x.1 < 64) →
    (f.uni = true ∨ (∀ x ∈ vs, x.1 ≠ M) ∨ ¬ (f.d ≤ q ∧ q < f.d + f.words)) → (f.putLanes vs r).getV q M = r.getV q M
  | [], _, _, _ => rfl
  | x :: vs, r, h64, h => by
    cases hu : f.uni with
    | true => exact getV_putLanes_uni hu _ _
    | false =>
      have hx : (f.putWords r x.1 x.2).getV q M = r.getV q M := by
        rw [getV_putWords hu (h64 x (by simp)) hM, dif_neg]
        rintro ⟨hm, hq⟩
        rcases h with h | h | h
        · rw [hu] at h; cases h
        · exact h x (by simp) hm.symm
        · exact h hq
      refine (getV_putLanes hM vs _ (fun y hy => h64 y (List.mem_cons_of_mem _ hy)) ?_).trans hx
      exact h.imp_right (Or.imp_left fun h y hy => h y (List.mem_cons_of_mem _ hy))

/-- Each lane that has a value reads it back, where no lane has two. -/
theorem wordsV_putLanes (hu : f.uni = false) : ∀ (vs : List (Nat × BitVec 128)) (r : Regs), (∀ x ∈ vs, x.1 < 64) →
    (vs.map Prod.fst).Nodup → ∀ x ∈ vs, (f.putLanes vs r).wordsV f.d x.1 f.words = splitWords f.words x.2
  | y :: vs, r, h64, hn, x, hx => by
    rw [List.map_cons, List.nodup_cons] at hn
    have h64' : ∀ z ∈ vs, z.1 < 64 := fun z hz => h64 z (List.mem_cons_of_mem _ hz)
    rcases List.mem_cons.1 hx with rfl | hx
    · have hne : ∀ z ∈ vs, z.1 ≠ x.1 := fun z hz he => hn.1 (he ▸ List.mem_map_of_mem hz)
      have hlt := h64 x (by simp)
      rw [← wordsV_putWords (r := r) (v := x.2) hu hlt]
      unfold Regs.wordsV
      exact List.map_congr_left fun i _ => getV_putLanes hlt vs _ h64' (.inr (.inl hne))
    · exact wordsV_putLanes hu vs _ h64' hn.2 x hx

/-! ## The completion of a flight -/

/-- The lanes that z zeroes. -/
def Flight.zeros (f : Flight) (w : Weft) : List (Nat × BitVec 128) := (lanesOf w.width f.zlanes).map fun L => (L, 0)

/-- The registers of a weft in which a flight has completed with these values. -/
def Flight.landedRegs (f : Flight) (vs : List (Nat × BitVec 128)) (w : Weft) : Regs := f.putLanes (f.zeros w) (f.putLanes vs w.regs)

/-- The weft itself. -/
def Weft.landed (w : Weft) (j : Nat) (f : Flight) (vs : List (Nat × BitVec 128)) : Weft := { w with regs := f.landedRegs vs w }.land j f

theorem landedRegs_frame (f : Flight) (vs : List (Nat × BitVec 128)) (w : Weft) : ∃ y z, f.landedRegs vs w = { w.regs with v := y, s := z } := by
  obtain ⟨_, _, h⟩ := putLanes_frame f vs w.regs
  obtain ⟨y, z, h'⟩ := putLanes_frame f (f.zeros w) (f.putLanes vs w.regs)
  exact ⟨y, z, h'.trans (by rw [h])⟩

theorem foldl_put_zeros (f : Flight) (w : Weft) (m : Nat) :
    (lanesOf m f.zlanes).foldl (fun w L => f.put w L 0) w
      = { w with regs := f.putLanes ((lanesOf m f.zlanes).map fun L => (L, 0)) w.regs } := by
  rw [← foldl_put, List.foldl_map]

theorem mem_zeros {x : Nat × BitVec 128} (h : x ∈ f.zeros w) : x.1 < 64 ∧ f.zlanes.getLsbD x.1 = true ∧ x.2 = 0 := by
  obtain ⟨L, hL, rfl⟩ := List.mem_map.1 h
  exact ⟨lanesOf_lt hL, (List.mem_filter.1 hL).2, rfl⟩

theorem zeros_nodup (f : Flight) (w : Weft) : ((f.zeros w).map Prod.fst).Nodup := by
  unfold Flight.zeros
  rw [List.map_map]
  exact (List.map_id _ ▸ (lanesOf_pairwise _ _).imp fun h => Nat.ne_of_lt h)

section
variable (hp : f.proper) (hv : (vs.map Prod.fst).Sublist (f.lanes.map fun l => l.lane))
include hp hv

/-- The lanes that have values are below 64, and z zeroes none of them. -/
theorem proper_lane {x : Nat × BitVec 128} (hx : x ∈ vs) : x.1 < 64 ∧ f.zlanes.getLsbD x.1 = false := by
  obtain ⟨l, hl, he⟩ := List.mem_map.1 (hv.subset (List.mem_map_of_mem hx))
  exact he ▸ hp.2.1 l hl

/-- Each lane that has a value reads it back from the destination. -/
theorem landedRegs_wrote {x : Nat × BitVec 128} (hx : x ∈ vs) :
    (if f.uni then (f.landedRegs vs w).wordsS f.d f.words else (f.landedRegs vs w).wordsV f.d x.1 f.words) = splitWords f.words x.2 := by
  unfold Flight.landedRegs
  cases hu : f.uni with
  | true =>
    obtain ⟨l, hl, hz⟩ := hp.2.2 hu
    have hvs : vs = [x] := by
      have hlen := hv.length_le
      rw [hl, List.length_map, List.length_map] at hlen
      match vs, hx, hlen with
      | [y], hx, _ => rw [List.mem_singleton.1 hx]
    have hzs : f.zeros w = [] := by simp [Flight.zeros, lanesOf, hz]
    rw [if_pos rfl, hzs, hvs]
    exact wordsS_putWords hu
  | false =>
    obtain ⟨h64, hz⟩ := proper_lane hp hv hx
    rw [if_neg Bool.false_ne_true, ← wordsV_putLanes hu vs w.regs (fun y hy => (proper_lane hp hv hy).1) (hv.nodup hp.1) x hx]
    unfold Regs.wordsV
    refine List.map_congr_left fun i _ => getV_putLanes h64 _ _ (fun y hy => (mem_zeros hy).1) (.inr (.inl fun y hy he => ?_))
    rw [← he, (mem_zeros hy).2.1] at hz
    cases hz

/-- No other per-thread register has changed. -/
theorem landedRegs_getV (hM : M < 64)
    (h : f.uni = true ∨ ((∀ x ∈ vs, x.1 ≠ M) ∧ f.zlanes.getLsbD M = false) ∨ ¬ (f.d ≤ q ∧ q < f.d + f.words)) :
    (f.landedRegs vs w).getV q M = w.regs.getV q M := by
  unfold Flight.landedRegs
  rw [getV_putLanes hM _ _ fun y hy => (mem_zeros hy).1, getV_putLanes hM _ _ fun y hy => (proper_lane hp hv hy).1]
  · exact h.imp_right (Or.imp_left And.left)
  · refine h.imp_right (Or.imp_left fun ⟨_, hz⟩ y hy he => ?_)
    rw [← he, (mem_zeros hy).2.1] at hz
    cases hz

omit hv in
/-- The lanes of z read zero. -/
theorem landedRegs_zero (hL : L < w.width) (hz : f.zlanes.getLsbD L = true) (hq : q < f.words) : (f.landedRegs vs w).getV (f.d + q) L = 0 := by
  have hu : f.uni = false := by
    by_contra hu
    obtain ⟨-, -, h0⟩ := hp.2.2 (by simpa using hu)
    rw [h0] at hz
    exact absurd hz (by simp)
  have h64 : L < 64 := BitVec.lt_of_getLsbD hz
  have hmem : (L, (0 : BitVec 128)) ∈ f.zeros w := List.mem_map_of_mem (List.mem_filter.2 ⟨List.mem_range.2 hL, hz⟩)
  have hw := wordsV_putLanes hu (f.zeros w) (f.putLanes vs w.regs) (fun y hy => (mem_zeros hy).1) (zeros_nodup f w) _ hmem
  have hi := List.getElem_of_eq hw (i := q) (by simp [Regs.wordsV, hq])
  rw [splitWords_zero] at hi
  simpa [Regs.wordsV, Flight.landedRegs] using hi

/-- A state in which nothing but its weft differs, where the flight has completed. -/
theorem lands_of_landed (ho : OnlyWeft k s t) (hw : t.weft k = (s.weft k).landed j f vs) : Lands k j f vs s t := by
  have hr : (t.weft k).regs = f.landedRegs vs (s.weft k) := by rw [hw]; rfl
  obtain ⟨y, z, hfr⟩ := landedRegs_frame f vs (s.weft k)
  refine ⟨ho, ?_, fun L => ?_, ⟨fun q L hL hq => ?_, fun n hn => ?_, fun n h0 _ => ?_, ?_, ?_, ?_⟩, fun x hx => ?_, fun L hL hz q hq => ?_,
    fun q L hL hx hz => ?_⟩
  · rw [hr, hw]
    rfl
  · unfold Weft.fflag
    rw [hr, hfr]
  · rw [hr]
    refine landedRegs_getV hp hv hL ?_
    cases hu : f.uni with
    | true => exact .inl rfl
    | false => exact .inr (.inr fun h => hq ⟨hu, h⟩)
  · have h : f.uni = false ∨ ¬ (f.d ≤ n ∧ n < f.d + f.words) := by
      cases hu : f.uni with
      | false => exact .inl rfl
      | true => exact .inr fun h => hn ⟨hu, h⟩
    rw [hr]
    exact (getS_putLanes h _ _).trans (getS_putLanes h _ _)
  · unfold Weft.maskReg
    rw [if_neg h0, if_neg h0, hr, hfr]
  · rw [hr, hfr]
  · rw [hr, hfr]
  · rw [hr, hfr]
  · rw [hr]
    exact landedRegs_wrote hp hv hx
  · rw [hr]
    exact landedRegs_zero hp hL hz hq
  · rw [hr]
    exact landedRegs_getV hp hv hL (.inr (.inl ⟨hx, hz⟩))

end

end Sys2Proof.Machine

namespace Sys2Proof.Machine

variable {f : Flight} {vs : List (Nat × BitVec 128)} {ls : List LaneAcc} {j k : Nat} {s s' t : State}

/-! ## Accesses that complete (03_encoding R56, 07_memory_instructions R147, R149) -/

/-- The values that the lanes of an access have, as its destination takes them (07_memory_instructions R148). -/
def Flight.vals (f : Flight) (ls : List LaneAcc) : List (Nat × BitVec 128) :=
  ls.filterMap fun l => l.val.map fun v => (l.lane, extendVal f.bytes f.sext v)

theorem vals_cons (f : Flight) (l : LaneAcc) (ls : List LaneAcc) : f.vals (l :: ls) = f.vals [l] ++ f.vals ls :=
  List.filterMap_append (l := [l])

theorem vals_lanes (f : Flight) : ∀ ls : List LaneAcc, ((f.vals ls).map Prod.fst).Sublist (ls.map fun l => l.lane)
  | [] => List.Sublist.refl _
  | l :: ls => by
    have hl : ((f.vals [l]).map Prod.fst).Sublist [l.lane] := by
      unfold Flight.vals
      cases hv : l.val <;> simp [hv]
    rw [vals_cons, List.map_append]
    exact hl.append (vals_lanes f ls)

/-- A fold that puts each lane's value puts them all. -/
theorem foldl_vals {g : Weft → LaneAcc → Weft} (hg : ∀ w l, g w l = { w with regs := f.putLanes (f.vals [l]) w.regs }) :
    ∀ (ls : List LaneAcc) (w : Weft), ls.foldl g w = { w with regs := f.putLanes (f.vals ls) w.regs }
  | [], _ => rfl
  | l :: ls, w => by
    rw [List.foldl_cons, foldl_vals hg ls, hg, vals_cons f l ls]
    unfold Flight.putLanes
    rw [List.foldl_append]

theorem finishFlight_landed (s : State) (k j : Nat) (f : Flight) :
    finishFlight s k j f = s.setWeft k ((s.weft k).landed j f (f.vals f.lanes)) := by
  unfold finishFlight
  rw [State.modWeft_eq]
  dsimp only
  rw [foldl_vals (f := f), foldl_put_zeros]
  · rfl
  · rintro w ⟨lane, va, pa, gr, x, y, val, cause, waits⟩
    cases val <;> rfl

/-- An access whose lanes have these values completes with them. -/
theorem finishFlight_lands (hp : f.proper) (hl : (ls.map fun l => l.lane) = f.lanes.map fun l => l.lane) :
    Lands k j f (f.vals ls) s (finishFlight s k j { f with lanes := ls }) := by
  rw [finishFlight_landed]
  exact lands_of_landed hp (hl ▸ vals_lanes f ls) (onlyWeft_setWeft_once _ _ _) (State.weft_setWeft_same ..)

/-! ### Performing keeps the lanes -/

theorem performAll_lanes (k : Nat) (f : Flight) (own : List (Nat × List Byte)) : ∀ (ls : List LaneAcc) (s : State),
    ((performAll k f own ls s).1.map fun l => l.lane) = ls.map fun l => l.lane
  | [], _ => rfl
  | l :: ls, s => congrArg (l.lane :: ·) (performAll_lanes k f own ls (performLane k f own l s).2)

theorem performSpad_lanes (h : performSpad k f s = .ok (ls, s')) : (ls.map fun l => l.lane) = f.lanes.map fun l => l.lane := by
  unfold performSpad at h
  dsimp only at h
  split at h
  · cases h
  · split at h
    · cases h
    · next bs _ _ =>
      obtain ⟨rfl, -⟩ := Prod.mk.inj (Except.ok.inj h)
      rw [List.map_map]
      refine List.map_congr_left fun l _ => ?_
      rw [Function.comp_apply]
      cases hb : bs.find? fun x => x.lane == l.lane with
      | none => rfl
      | some x => simpa using List.find?_some hb

/-! ### The event -/

/-- An event that met no access that must wait takes place. -/
theorem takes_event (hc : s.clear t) : Takes (event s (.ok t)) s t := by
  have ho := applyOrs_threads (threads_refl { t with coh := { t.coh with actor := none } })
  refine ⟨s.after t, rfl, rfl, ?_, ?_, State.after_of_plain hc.1 hc.2⟩ <;> rw [State.after_of_clear hc.1 hc.2]
  · exact ho.1
  · exact ho.2.1

theorem clear_giveResult (ic : Dword) (vals : List (Nat × BitVec 128)) (h : s.clear s') : s.clear (s'.giveResult k ic vals []) := by
  unfold State.giveResult
  split <;> exact h

theorem exec_flagACompletion (k j : Nat) (s : State) : exec (.flagACompletion k j) s = execFlagACompletion k j s := rfl

section
variable (hf : (s.weft k).flights[j]? = some f)
include hf

theorem completion_local (ho : f.op ≠ .func) (hr : f.remote = false) :
    exec (.flagACompletion k j) s = event s (completeLocal s k j f) := by
  rw [exec_flagACompletion]
  unfold execFlagACompletion
  simp [hf, ho, hr]

theorem completion_remote (hr : f.remote = true) (ha : f.answered = true) :
    exec (.flagACompletion k j) s = .next (finishRemote s k j f) := by
  have ho : f.op ≠ .func := fun h => by
    unfold Flight.remote at hr
    rw [h] at hr
    cases hr
  rw [exec_flagACompletion]
  unfold execFlagACompletion
  simp [hf, ho, hr, ha]

/-- A uniform instruction that had no lane completes without an effect (02_threads R27). -/
theorem completion_empty (ho : f.op = .func) (hw : f.words = 0) (hl : f.lanes = []) :
    exec (.flagACompletion k j) s = .next (finishFlight s k j f) := by
  rw [exec_flagACompletion]
  unfold execFlagACompletion
  simp [hf, ho, hw, hl]

/-- The event completes an access on its own core, which then has these values. -/
theorem completion_lands (hp : f.proper) (ho : f.op ≠ .func) (hr : f.remote = false)
    (hl : (ls.map fun l => l.lane) = f.lanes.map fun l => l.lane) (hc : s.clear s')
    (hx : completeLocal s k j f = .ok (finishFlight s' k j { f with lanes := ls })) :
    ∃ t, Takes (exec (.flagACompletion k j) s) s t ∧ Lands k j f (f.vals ls) s' t := by
  rw [completion_local hf ho hr, hx]
  exact ⟨_, takes_event (by rw [finishFlight_landed]; exact hc), finishFlight_lands hp hl⟩

end

/-- A global access is performed on its own core. -/
theorem local_of_global (hg : f.globalLoad = true) : f.op ≠ .func ∧ f.remote = false := by
  unfold Flight.globalLoad FlightOp.global at hg
  unfold Flight.remote
  cases ho : f.op <;> simp [ho] at hg ⊢

/-! ### What completes (07_memory_instructions R147, R152, 19_reliability R432) -/

/-- A scratchpad load has its values since its issue. -/
theorem completeLocal_lds (ho : f.op = .lds) : completeLocal s k j f = .ok (finishFlight s k j f) := by
  unfold completeLocal
  simp only [ho]

/-- A load, exchange or atomic that may be performed now is performed. -/
theorem completeLocal_global (hg : f.globalLoad = true) (hm : f.op ≠ .mirror false) (hp : s.mayPerform k f = true)
    (hx : performAll k f (s.ownWrites k f.seq) f.lanes (s.acting k f.seq) = (ls, s')) :
    completeLocal s k j f = .ok (finishFlight (s'.giveResult k f.ic (laneVals ls) []) k j { f with lanes := ls }) := by
  have hg' : f.op.global = true := hg
  unfold completeLocal
  split
  case h_1 ho => rw [ho] at hg'; cases hg'
  case h_2 ho => rw [ho] at hg'; cases hg'
  case h_3 ho => rw [ho] at hg'; cases hg'
  case h_4 remote ho =>
    cases remote
    · exact absurd ho hm
    · rw [ho] at hg'; cases hg'
  case h_5 => rw [if_pos ⟨hg, hp⟩, hx]

/-- So is a scratchpad access whose held lanes can all be performed. -/
theorem completeLocal_spad (ho : f.op = .xchgs ∨ ∃ fn, f.op = .atoms fn) (hx : performSpad k f s = .ok (ls, s'))
    (hv : ∀ l ∈ ls, l.val.isSome = true) : completeLocal s k j f = .ok (finishFlight s' k j { f with lanes := ls }) := by
  have hs : finishSpad k j f s = .ok (finishFlight s' k j { f with lanes := ls }) := by
    unfold finishSpad
    rw [hx]
    exact congrArg Except.ok (if_pos (List.all_eq_true.2 hv))
  unfold completeLocal
  rcases ho with ho | ⟨fn, ho⟩ <;> rw [ho] <;> exact hs

/-- An access none of whose lanes faults leaves no fault behind. -/
theorem remoteFaults_none (s : State) (k : Nat) (h : ∀ l ∈ f.lanes, l.cause = none) : remoteFaults s k f = s := by
  unfold remoteFaults
  rw [filter_none _ _ fun l hl => by rw [h l hl]; rfl]

theorem finishRemote_eq (h : ∀ l ∈ f.lanes, l.cause = none) :
    finishRemote s k j f = finishFlight (s.giveResult k f.ic (laneVals f.lanes) []) k j f := by
  have hn : (f.lanes.filterMap fun l => l.cause.map fun c => (l.lane, c)) = [] :=
    List.filterMap_eq_nil_iff.2 fun l hl => by rw [h l hl]; rfl
  unfold finishRemote
  rw [hn]
  exact remoteFaults_none _ _ h

/-- A lane of the trailing member with its partner's value. -/
def SegResult.laneOf (r : SegResult) (l : LaneAcc) : LaneAcc :=
  { l with val := (r.vals.find? fun x => x.1 == l.lane).map fun x => x.2, cause := none }

/-- The trailing member takes its partner's result, which is then spent. -/
theorem completeLocal_mirror {remote : Bool} {r : SegResult} (ho : f.op = .mirror remote) (hr : (s.weft k).resultOf f.ic = some r)
    (hn : ∀ l ∈ f.lanes, (r.faults.find? fun x => x.1 == l.lane) = none) :
    completeLocal s k j f
      = .ok ((finishFlight s k j { f with lanes := f.lanes.map r.laneOf }).modWeft k fun w => w.dropResult f.ic) := by
  have hl : (f.lanes.map fun l => ({ l with val := (r.vals.find? fun x => x.1 == l.lane).map fun x => x.2
                                            cause := (r.faults.find? fun x => x.1 == l.lane).map fun x => x.2 } : LaneAcc))
      = f.lanes.map r.laneOf := List.map_congr_left fun l hl => by rw [hn l hl]; rfl
  unfold completeLocal
  rw [ho]
  simp only [hr, hl]
  refine congrArg Except.ok (remoteFaults_none (f := { f with lanes := f.lanes.map r.laneOf }) _ _ fun l hl => ?_)
  obtain ⟨x, -, rfl⟩ := List.mem_map.1 hl
  rfl

theorem mirror_lands {r : SegResult} (hp : f.proper) :
    Lands k j f (f.vals (f.lanes.map r.laneOf)) (s.modWeft k fun w => w.dropResult f.ic)
      ((finishFlight s k j { f with lanes := f.lanes.map r.laneOf }).modWeft k fun w => w.dropResult f.ic) := by
  have hl : ((f.lanes.map r.laneOf).map fun l => l.lane) = f.lanes.map fun l => l.lane := by
    rw [List.map_map]
    rfl
  rw [finishFlight_landed]
  simp only [State.modWeft_eq]
  refine lands_of_landed hp (hl ▸ vals_lanes f _) ⟨rfl, fun i hi => ?_⟩ ?_
  · rw [State.weft_setWeft_ne _ _ hi, State.weft_setWeft_ne _ _ hi, State.weft_setWeft_ne _ _ hi]
  · rw [State.weft_setWeft_same, State.weft_setWeft_same, State.weft_setWeft_same]
    rfl

/-- Settles O23: each access completes by `completion_lands`, once its lanes have been performed (`performAll`, `performSpad`), answered, or given
their values by the partner. -/
theorem accessesComplete : Obligations.AccessesComplete := by
  unfold Obligations.AccessesComplete
  intro k j f s s' ls hf hp vals done takes
  refine ⟨fun hg hm hpm hx hc => ?_, fun ho hb => ?_, fun ho hx hv hc => ?_, fun remote r ho hr hb hn => ?_, fun ho hv => ?_,
    fun ho hw hl => ?_⟩
  · obtain ⟨hfunc, hrem⟩ := local_of_global hg
    have hl := performAll_lanes k f (s.ownWrites k f.seq) f.lanes (s.acting k f.seq)
    rw [hx] at hl
    exact completion_lands hf hp hfunc hrem hl (clear_giveResult _ _ hc) (completeLocal_global hg hm hpm hx)
  · exact completion_lands hf hp (by rw [ho]; exact FlightOp.noConfusion) (by unfold Flight.remote; rw [ho]) rfl ⟨rfl, hb⟩
      (completeLocal_lds ho)
  · have hloc : f.op ≠ .func ∧ f.remote = false := by
      unfold Flight.remote
      rcases ho with ho | ⟨fn, ho⟩ <;> rw [ho] <;> exact ⟨FlightOp.noConfusion, rfl⟩
    exact completion_lands hf hp hloc.1 hloc.2 (performSpad_lanes hx) hc (completeLocal_spad ho hx hv)
  · have hrem : f.remote = false := by unfold Flight.remote; rw [ho]
    have hx := completion_local hf (by rw [ho]; exact FlightOp.noConfusion) hrem
    rw [completeLocal_mirror ho hr hn] at hx
    exact ⟨_, hx ▸ takes_event (by rw [finishFlight_landed]; exact ⟨rfl, hb⟩), mirror_lands hp⟩
  · have hrem : f.remote = true := by
      unfold Flight.remote
      rcases ho with ho | ho | ⟨fn, ho⟩ <;> rw [ho]
    have hans : f.answered = true := List.all_eq_true.2 fun l hl => by rw [(hv l hl).1]; rfl
    refine ⟨_, completion_remote hf hrem hans, ?_⟩
    rw [finishRemote_eq fun l hl => (hv l hl).2]
    exact finishFlight_lands (ls := f.lanes) hp rfl
  · refine ⟨_, completion_empty hf ho hw hl, ?_⟩
    have hland := finishFlight_lands (k := k) (j := j) (s := s) (ls := f.lanes) hp rfl
    rw [hl] at hland
    exact hl ▸ hland

end Sys2Proof.Machine

namespace Sys2Proof.Machine

variable {i : Info} {f : Flight} {fn j k L M : Nat} {s : State} {t : Bool} {w : Weft} {rs : List (Nat × LaneOut)}

/-! ## Correctly rounded functions (12_float R286, R288) -/

/-- Results without faults change FFLAGS alone. -/
theorem applyFaults_frame : ∀ {rs : List (Nat × LaneOut)} (w : Weft), (∀ r ∈ rs, r.2.fault = none) →
    ∃ x, applyFaults rs w = { w with regs := { w.regs with fflags := x } }
  | [], w, _ => ⟨w.regs.fflags, rfl⟩
  | r :: rs, w, h => by
    have hr : applyFaults (r :: rs) w = applyFaults rs (if r.2.flags = 0 then w else w.orFflag r.1 r.2.flags) := by
      unfold applyFaults
      rw [List.foldl_cons, h r (by simp)]
    obtain ⟨x, hx⟩ := applyFaults_frame (rs := rs) (if r.2.flags = 0 then w else w.orFflag r.1 r.2.flags)
      fun y hy => h y (List.mem_cons_of_mem _ hy)
    refine ⟨x, hr.trans (hx.trans ?_)⟩
    split <;> rfl

/-- Each lane that computed has its flags ORed in (10_formats R244). -/
theorem fflag_applyFaults (g : Nat → LaneOut) : ∀ {ls : List Nat} (w : Weft), ls.Nodup → (∀ L ∈ ls, (g L).fault = none) →
    (applyFaults (ls.map fun L => (L, g L)) w).fflag M = if M ∈ ls then w.fflag M ||| (g M).flags else w.fflag M
  | [], _, _, _ => rfl
  | L :: ls, w, hn, h => by
    obtain ⟨hL, hn⟩ := List.nodup_cons.1 hn
    have hstep : (if (g L).flags = 0 then w else w.orFflag L (g L).flags).fflag M
        = if M = L then w.fflag M ||| (g L).flags else w.fflag M := by
      by_cases h0 : (g L).flags = 0
      · rw [if_pos h0, h0]
        simp
      · rw [if_neg h0]
        unfold Weft.orFflag
        rw [fflag_setFflag]
        split
        · next hm => rw [hm]
        · rfl
    have hr : applyFaults ((L :: ls).map fun L => (L, g L)) w
        = applyFaults (ls.map fun L => (L, g L)) (if (g L).flags = 0 then w else w.orFflag L (g L).flags) := by
      unfold applyFaults
      rw [List.map_cons, List.foldl_cons, h L (by simp)]
    rw [hr, fflag_applyFaults g _ hn fun x hx => h x (List.mem_cons_of_mem _ hx), hstep]
    by_cases hM : M = L
    · subst hM
      simp [hL]
    · simp [hM]

theorem lanes_nodup (i : Info) (s : State) : (i.lanes s).Nodup := by
  cases hu : i.u with
  | true =>
    unfold Info.lanes
    rw [if_pos hu]
    exact List.nodup_singleton _
  | false => exact (lanes_pairwise hu).imp fun h => Nat.ne_of_lt h

theorem fmt64_bits (t : Bool) : (fmt64 t).bits = if t then 64 else 32 := by cases t <;> rfl

/-- The bits of operand a in its format. -/
theorem operandA_bits (ha : i.ak = .reg (if t then 2 else 1)) :
    (i.lane s L).a.toNat % 2 ^ (fmt64 t).bits = i.fa t s L := by
  change (readOp s.me i.aScalar i.ak i.a L).toNat % _ = _
  unfold Info.fa Info.a64 Info.a32
  rw [fmt64_bits, ha, ← w64_readOp, ← w32_readOp]
  cases t
  · exact (BitVec.toNat_setWidth ..).symm
  · exact (BitVec.toNat_setWidth ..).symm

/-- The value of a function in a lane of a form, and its flags. -/
def Info.fnRes (i : Info) (fn : Nat) (t : Bool) (s : State) (L : Nat) : FRes :=
  fFn fn (fmt64 t) (i.envAt s (i.pos L)) ((fmt64 t).operand (i.envAt s (i.pos L)).ftzi (i.fa t s L))

theorem fpLane_fn (ha : i.ak = .reg (if t then 2 else 1)) (hn : noEnabled i s (i.fnRes fn t s)) (hL : L ∈ i.lanes s) :
    fpLane (i.ctx s) s.me (fp1 (fmt64 t) (fFn fn (fmt64 t))) (i.lane s L)
      = { val := BitVec.ofNat 128 (i.fnRes fn t s L).bits, flags := (i.fnRes fn t s L).flags } := by
  have hr : fp1 (fmt64 t) (fFn fn (fmt64 t)) (fenv s.me.regs.fmode (rmOf i.p s.me.regs.fmode)) (i.pos L) (i.lane s L) = i.fnRes fn t s L := by
    unfold fp1
    rw [operandA_bits ha]
    rfl
  have he := hn L hL
  unfold fpLane
  change ({ val := _, flags := _, fault := _ } : LaneOut) = _
  rw [show (i.ctx s).ditherLane (i.lane s L) = i.pos L from rfl, ctx_u, hr, he]
  rfl

/-- What a function of the form puts in flight: the results of its lanes, on flag B. -/
def Info.fnFlight (i : Info) (fn : Nat) (t : Bool) (s : State) : Flight :=
  { op := .func, flag := s.me.flow.flagB, pc := s.me.flow.pc, ic := s.me.flow.ic, uni := i.u, d := i.first s.me, words := i.dk.words
    bytes := 4 * i.dk.words, zlanes := i.zeroedOf s.me
    lanes := (i.lanes s).map fun L => { lane := L, va := 0, pa := 0, x := BitVec.ofNat 128 (i.fnRes fn t s L).bits } }

/-- The weft at the retirement of such a function, with its flags raised. -/
def Weft.withFunction (w : Weft) (x : SMap Byte) (n : Nat) (f : Flight) : Weft :=
  { w with regs := { w.regs with fflags := x }, flights := w.flights ++ [f] }.countFlag n

theorem functionEffect_ok (hf : i.flag = some true) (ha : i.ak = .reg (if t then 2 else 1)) (hn : noEnabled i s (i.fnRes fn t s)) :
    ∃ x recs, functionEffect fn (fmt64 t) (i.ctx s) s
        = .ok { s := s.setWeft s.cur (s.me.withFunction x s.me.flow.flagB (i.fnFlight fn t s)), recs := recs, noUndo := true }
      ∧ ∀ M, SMap.get zeroByte x M = if M ∈ i.lanes s then s.me.fflag M ||| (i.fnRes fn t s M).flags else s.me.fflag M := by
  let g : Nat → LaneOut := fun L => { val := BitVec.ofNat 128 (i.fnRes fn t s L).bits, flags := (i.fnRes fn t s L).flags }
  have hrs : laneResults (fpLane (i.ctx s) s.me (fp1 (fmt64 t) (fFn fn (fmt64 t)))) (i.ctx s) s.me = (i.lanes s).map fun L => (L, g L) := by
    unfold laneResults
    rw [computing_eq]
    exact List.map_congr_left fun L hL => congrArg (Prod.mk L) (fpLane_fn ha hn hL)
  have hclean : ∀ r ∈ (i.lanes s).map fun L => (L, g L), r.2.fault = none := fun r hr => by
    obtain ⟨L, -, rfl⟩ := List.mem_map.1 hr
    rfl
  have hok : ((i.lanes s).map fun L => (L, g L)).filter (fun r => r.2.fault.isNone) = (i.lanes s).map fun L => (L, g L) :=
    List.filter_eq_self.2 fun r hr => by rw [hclean r hr]; rfl
  obtain ⟨x, hx⟩ := applyFaults_frame s.me hclean
  have hw : s.weft (i.ctx s).k = s.me := rfl
  refine ⟨x, destRecs s.me (survivors (i.ctx s) ((i.lanes s).map fun L => (L, g L))), ?_, fun M => ?_⟩
  · unfold functionEffect
    simp only [hw, hrs, hok, hx, flagNo_B hf, List.map_map]
    rfl
  · rw [← fflag_applyFaults g s.me (lanes_nodup i s) fun _ _ => rfl, hx]
    rfl

/-- A function in flight, with its flags raised, changes no other register and counts on flag B. -/
theorem function_launches (h : issues i s = true) (hf : i.flag = some true) (ha : i.ak = .reg (if t then 2 else 1))
    (hn : noEnabled i s (i.fnRes fn t s)) :
    ∃ u, issue i (functionEffect fn (fmt64 t)) s = .next u ∧ FlagsOred i s (u.weft s.cur) (i.fnRes fn t s)
      ∧ Launches i [i.fnFlight fn t s] s s u := by
  obtain ⟨x, recs, hb, hfl⟩ := functionEffect_ok hf ha hn
  obtain ⟨u, hu, ⟨⟨hon, hoj⟩, hg, hctl, hx, hh⟩⟩ := retires_of_ok h hb rfl (by rw [State.weft_setWeft_same]; exact ⟨id, rfl, rfl⟩)
  rw [State.weft_setWeft_same] at hctl hx hh
  have hfs : (u.weft s.cur).flights = s.me.flights ++ [i.fnFlight fn t s] := by rw [hctl]; rfl
  have hfg : (u.weft s.cur).flags = (s.me.countFlag ((i.ctx s).flagNo s.me)).flags := by rw [hctl, flagNo_B hf]; rfl
  have hsq : (u.weft s.cur).seq = s.me.seq := by rw [hctl]; rfl
  refine ⟨u, hu, fun M => ?_, ⟨⟨hon, fun j hj => ?_⟩, hg, hfs, hfg, ?_, ?_, hh⟩⟩
  · unfold Weft.fflag
    rw [hx]
    exact hfl M
  · rw [hoj j hj, State.weft_setWeft_ne _ _ hj]
  · unfold SameControl at hctl ⊢
    rw [hfs, hfg, hsq, flagNo_B hf]
    exact hctl
  · refine ⟨fun _ _ _ _ => by rw [hx]; rfl, fun _ _ => by rw [hx]; rfl, fun j h0 _ => ?_, by rw [hx]; rfl, by rw [hx]; rfl, by rw [hx]; rfl⟩
    unfold Weft.maskReg
    rw [if_neg h0, if_neg h0, hx]
    rfl

/-- The functions: function code and instruction (12_float R286). -/
inductive IsFunction (p : Option Prefix) (t u : Bool) (d a : Reg) : Nat → Instr → Prop
  | fexp : IsFunction p t u d a 0 (.fexp p t u d a)
  | fexp2 : IsFunction p t u d a 1 (.fexp2 p t u d a)
  | flog : IsFunction p t u d a 2 (.flog p t u d a)
  | flog2 : IsFunction p t u d a 3 (.flog2 p t u d a)
  | ferf : IsFunction p t u d a 4 (.ferf p t u d a)
  | ferfc : IsFunction p t u d a 5 (.ferfc p t u d a)
  | fncdf : IsFunction p t u d a 6 (.fncdf p t u d a)
  | ftanh : IsFunction p t u d a 7 (.ftanh p t u d a)

theorem exec_function {p : Option Prefix} {t u : Bool} {d a : Reg} {fn : Nat} {x : Instr} (hx : IsFunction p t u d a fn x) (s : State) :
    exec x s = issue (formA p (if t then 0x2D else 0x2C) fn u d a 0) (functionEffect fn (fmt64 t)) s := by
  cases hx <;> rfl

theorem function_form (p : Option Prefix) (t u : Bool) (d a : Reg) (fn : Nat) :
    let i := formA p (if t then 0x2D else 0x2C) fn u d a 0
    i.flag = some true ∧ i.ak = .reg (if t then 2 else 1) ∧ i.u = u ∧ i.dk.words = if t then 2 else 1 := by
  cases t <;> exact ⟨rfl, rfl, rfl, rfl⟩

/-! ### Results (12_float R288, 03_encoding R56) -/

theorem exec_functionResult (k j : Nat) (s : State) : exec (.functionResult k j) s = execFunctionResult k j s := rfl

/-- A result whose shadow does not disagree is written in every lane that issued it. -/
theorem functionResult_landed (hf : (s.weft k).flights[j]? = some f) (ho : f.op = .func) (hs : (s.shadowAt k f.ic).isNone = true) :
    execFunctionResult k j s = .next (s.setWeft k ((s.weft k).landed j f (f.lanes.map fun l => (l.lane, l.x)))) := by
  have hput := foldl_put f (f.lanes.map fun l => (l.lane, l.x)) (s.weft k)
  rw [List.foldl_map] at hput
  have hbit : ∀ n, (0 : Mask).getLsbD n = false := fun _ => BitVec.getLsbD_zero
  have hnone : ∀ n, lanesOf n 0 = [] := fun n => filter_none _ _ fun L _ => hbit L
  unfold execFunctionResult
  simp only [hf, ho, Option.isNone_iff_eq_none.1 hs, hbit, hnone, Bool.false_eq_true, if_false, if_true, ne_eq, not_true_eq_false]
  rw [hput, foldl_put_zeros]
  rfl

/-- Settles O18: functions go in flight by `function_launches`, and land by `functionResult_landed`. -/
theorem functionsRun : Obligations.FunctionsRun := by
  unfold Obligations.FunctionsRun
  refine ⟨fun p t u d a s => ?_, fun k j f s hf ho hs hp => ?_⟩
  · intro T one
    have hone : ∀ fn x, IsFunction p t u d a fn x → one fn x := by
      intro fn x hx h hn
      obtain ⟨hflag, ha, hu, hw⟩ := function_form p t u d a fn
      have hl := function_launches h hflag ha hn
      unfold Info.fnFlight at hl
      rw [hu, hw] at hl
      exact exec_function hx s ▸ hl
    exact ⟨hone _ _ .fexp, hone _ _ .fexp2, hone _ _ .flog, hone _ _ .flog2, hone _ _ .ferf, hone _ _ .ferfc, hone _ _ .fncdf,
      hone _ _ .ftanh⟩
  · exact ⟨_, (exec_functionResult k j s).trans (functionResult_landed hf ho hs),
      lands_of_landed hp (by rw [List.map_map]; exact List.Sublist.refl _) (onlyWeft_setWeft_once _ _ _) (State.weft_setWeft_same ..)⟩

end Sys2Proof.Machine

/-!
# Reset, repair, stores and coherence

What O3, O24, O50, O51, O53 and O54 need: the reset values of the management registers, fields of registers, what repair, the order points of
stores and the messages of coherence do.
-/

namespace Sys2Proof.Machine

/-! ## Reset values of the management registers (the register maps of 04_dram_l2, 06_core_memory, 16_scheduling, 20_host_fabric) -/

theorem regReset_mpcstat {n : Nat} (h : n < 1024) : regReset (0x20000 + 8 * n) = 0x40000000 := by
  unfold regReset
  iterate 2 rw [if_neg (by omega)]
  exact if_pos (by omega)

theorem regReset_cbrole {c : Nat} (h : c < 1024) : regReset (0x4000 + 16 * c) = 0xAA55555555550000 := by
  unfold regReset
  iterate 4 rw [if_neg (by omega)]
  exact if_pos (by omega)

theorem regReset_cbstat {c : Nat} (h : c < 1024) : regReset (0x4008 + 16 * c) = BitVec.ofNat 64 (160 * 2 ^ 10) := by
  unfold regReset
  iterate 5 rw [if_neg (by omega)]
  exact if_pos (by omega)

theorem regReset_plctl {l : Nat} (h : l < 16) : regReset (0xC000 + 64 * l) = BitVec.ofNat 64 (1 + 2 * 2 ^ 4) := by
  unfold regReset
  iterate 10 rw [if_neg (by omega)]
  exact if_pos (by omega)

theorem regReset_qcfg {q : Nat} (h : q < 16384) : regReset (0x200000 + 128 * q) = BitVec.ofNat 64 (0xF * 2 ^ 8 + 2 ^ 24) := by
  unfold regReset
  iterate 11 rw [if_neg (by omega)]
  exact if_pos (by omega)

/-- The other registers of the queues, from QBASE to QTAIL. -/
theorem regReset_queue {q r : Nat} (h : q < 16384) (hr : 0 < r) (h' : r < 128) : regReset (0x200000 + r + 128 * q) = 0 := by
  unfold regReset
  iterate 14 rw [if_neg (by omega)]

/-- A register between the links' PLSTAT and MPCSTAT: but for PLCTL, none has a reset value. -/
theorem regReset_fabric {off : Nat} (h : 0xC000 ≤ off) (h' : off < 0x20000) (hp : off < 0xC400 → off % 64 ≠ 0) : regReset off = 0 := by
  unfold regReset
  iterate 14 rw [if_neg (by omega)]

theorem reset_reg (off : Nat) : State.reset.reg off = regReset off := rfl

/-- Settles O3: the registers that stand alone are closed facts, those of a family have the value of its row in `regReset`. -/
theorem resetRegisters : Obligations.ResetRegisters := by
  unfold Obligations.ResetRegisters State.field
  simp only [reset_reg]
  refine ⟨by decide, by decide, by decide, by decide, fun n hn => ?_, by decide, by decide, fun c hc => ⟨regReset_cbrole hc, ?_⟩,
    fun q hq => ⟨?_, ?_, ?_, ?_⟩, by decide, by decide, by decide, by decide, by decide, by decide, by decide, by decide, by decide, by decide, rfl,
    rfl, rfl, fun l hl => ⟨?_, ?_⟩, fun w hw => ⟨?_, ?_, ?_⟩, fun n hn => ?_, fun _ => rfl, by decide, by decide⟩
  · rw [regReset_mpcstat hn]
    decide
  · rw [regReset_cbstat hc]
    decide
  · rw [regReset_qcfg hq]
    decide
  · exact regReset_queue (r := 8) hq (by decide) (by decide)
  · exact regReset_queue (r := 16) hq (by decide) (by decide)
  · exact regReset_queue (r := 24) hq (by decide) (by decide)
  · rw [regReset_plctl hl]
    decide
  all_goals exact regReset_fabric (by omega) (by omega) (by omega)

end Sys2Proof.Machine

namespace Sys2Proof.Machine

/-! ## Fields of registers (00_scope R3) -/

/-- Bits of a register after a field is written. -/
theorem getLsbD_withBits {w : Nat} (v : BitVec w) (lo n x i : Nat) :
    (withBits v lo n x).getLsbD i = if lo ≤ i ∧ i < lo + n ∧ i < w then x.testBit (i - lo) else v.getLsbD i := by
  unfold withBits
  simp only [BitVec.getLsbD_or, BitVec.getLsbD_and, BitVec.getLsbD_not, BitVec.getLsbD_shiftLeft, BitVec.getLsbD_ofNat,
    Nat.testBit_two_pow_sub_one, Nat.testBit_mod_two_pow]
  by_cases hw : i < w
  · by_cases hl : i < lo
    · simp [hw, hl, Nat.not_le.2 hl]
    · have hlw : i - lo < w := by omega
      by_cases hn : i - lo < n
      · rw [if_pos ⟨by omega, by omega, hw⟩]
        simp [hw, hl, hlw, hn]
      · rw [if_neg (by omega)]
        simp [hw, hl, hlw, hn]
  · rw [if_neg (by omega), BitVec.getLsbD_of_ge v i (by omega)]
    simp [hw]

theorem testBit_bitsOf {w : Nat} (v : BitVec w) (lo n i : Nat) : (bitsOf v lo n).testBit i = (decide (i < n) && v.getLsbD (lo + i)) := by
  unfold bitsOf bitsN BitVec.getLsbD
  rw [Nat.testBit_mod_two_pow, Nat.testBit_shiftRight]

/-- Fields whose bits agree are equal. -/
theorem bitsOf_congr {w : Nat} {v v' : BitVec w} {lo n : Nat} (h : ∀ i, lo ≤ i → i < lo + n → v.getLsbD i = v'.getLsbD i) :
    bitsOf v lo n = bitsOf v' lo n := by
  refine Nat.eq_of_testBit_eq fun i => ?_
  rw [testBit_bitsOf, testBit_bitsOf]
  by_cases hi : i < n
  · rw [h (lo + i) (by omega) (by omega)]
  · simp [hi]

theorem bitsOf_withBits_same {w : Nat} (v : BitVec w) {lo n : Nat} (x : Nat) (h : lo + n ≤ w) : bitsOf (withBits v lo n x) lo n = x % 2 ^ n := by
  refine Nat.eq_of_testBit_eq fun i => ?_
  rw [testBit_bitsOf, getLsbD_withBits, Nat.testBit_mod_two_pow]
  by_cases hi : i < n
  · rw [if_pos (by omega), Nat.add_sub_cancel_left]
  · simp [hi]

/-- A field that shares no bit with the one written is as it was. -/
theorem bitsOf_withBits_ne {w : Nat} (v : BitVec w) {lo n lo' n' : Nat} (x : Nat) (h : lo' + n' ≤ lo ∨ lo + n ≤ lo') :
    bitsOf (withBits v lo n x) lo' n' = bitsOf v lo' n' :=
  bitsOf_congr fun i h1 h2 => by rw [getLsbD_withBits, if_neg (by omega)]

theorem bitsOf_lt {w : Nat} (v : BitVec w) (lo n : Nat) : bitsOf v lo n < 2 ^ n := Nat.mod_lt _ (Nat.two_pow_pos n)

section
variable (s : State) {off o lo n lo' n' i : Nat}

theorem State.reg_setField_ne (x : Nat) (h : o ≠ off) : (s.setField off lo n x).reg o = s.reg o := State.reg_setReg_ne s _ h

theorem State.reg_setField_same (x : Nat) : (s.setField off lo n x).reg off = withBits (s.reg off) lo n x := State.reg_setReg_same s _ _

theorem State.field_setField_ne (x : Nat) (h : o ≠ off) : (s.setField off lo n x).field o lo' n' = s.field o lo' n' :=
  congrArg (bitsOf · lo' n') (s.reg_setField_ne x h)

theorem State.field_setField_same (x : Nat) (h : lo + n ≤ 64) : (s.setField off lo n x).field off lo n = x % 2 ^ n := by
  unfold State.field
  rw [s.reg_setField_same, bitsOf_withBits_same _ _ h]

/-- A field of the same register that shares no bit with the one written. -/
theorem State.field_setField_apart (x : Nat) (h : lo' + n' ≤ lo ∨ lo + n ≤ lo') :
    (s.setField off lo n x).field off lo' n' = s.field off lo' n' := by
  unfold State.field
  rw [s.reg_setField_same, bitsOf_withBits_ne _ _ h]

theorem State.getLsbD_setField (x : Nat) :
    ((s.setField off lo n x).reg off).getLsbD i = if lo ≤ i ∧ i < lo + n ∧ i < 64 then x.testBit (i - lo) else (s.reg off).getLsbD i := by
  rw [s.reg_setField_same, getLsbD_withBits]

theorem State.getLsbD_setBit (b : Nat) (hb : b < 64) :
    ((s.setBit off b).reg off).getLsbD i = (decide (i = b) || (s.reg off).getLsbD i) := by
  unfold State.setBit
  rw [s.getLsbD_setField]
  by_cases h : i = b
  · rw [if_pos (by omega), h, Nat.sub_self]
    simp
  · rw [if_neg (by omega)]
    simp [h]

theorem State.reg_setBit_ne (b : Nat) (h : o ≠ off) : (s.setBit off b).reg o = s.reg o := s.reg_setField_ne 1 h

end

/-! ## Module events (20_host_fabric R444) -/

/-- Nothing but registers of the window, and what the host has been sent, differs. -/
def OnlyWindow (s t : State) : Prop := ∃ m o, t = { s with mgmt := m, hostOut := o }

theorem OnlyWindow.trans {s t u : State} (h : OnlyWindow s t) (h' : OnlyWindow t u) : OnlyWindow s u := by
  obtain ⟨m, o, rfl⟩ := h
  obtain ⟨m', o', rfl⟩ := h'
  exact ⟨m', o', rfl⟩

theorem onlyWindow_setField (s : State) (off lo n x : Nat) : OnlyWindow s (s.setField off lo n x) := ⟨_, s.hostOut, rfl⟩

theorem onlyWindow_signalPort (vec : Nat) (s : State) (port : Nat) : OnlyWindow s (signalPort vec s port) := by
  unfold signalPort
  split
  · exact ⟨s.mgmt, s.hostOut, rfl⟩
  · split
    · exact onlyWindow_setField _ _ _ _ _
    · exact ⟨s.mgmt, _, rfl⟩

theorem onlyWindow_signal (s : State) (vec : Nat) : OnlyWindow s (s.signal vec) := by
  unfold State.signal
  split
  · exact ⟨s.mgmt, s.hostOut, rfl⟩
  · exact (onlyWindow_signalPort vec s 0).trans (onlyWindow_signalPort vec _ 1)

theorem onlyWindow_raise (s : State) (b : Nat) : OnlyWindow s (s.raise b) := by
  unfold State.raise
  split
  · exact ⟨s.mgmt, s.hostOut, rfl⟩
  · exact (onlyWindow_setField _ _ _ _ _).trans (onlyWindow_signal _ _)

theorem reg_signalPort {off : Nat} (h : off < 0x410000) (vec : Nat) (s : State) (port : Nat) : (signalPort vec s port).reg off = s.reg off := by
  unfold signalPort
  split
  · rfl
  · split
    · exact s.reg_setBit_ne _ (by unfold msixPending; omega)
    · rfl

theorem reg_signal {off : Nat} (h : off < 0x410000) (s : State) (vec : Nat) : (s.signal vec).reg off = s.reg off := by
  unfold State.signal
  split
  · rfl
  · exact (reg_signalPort h vec _ 1).trans (reg_signalPort h vec s 0)

/-- Of the registers below the pending bits an event changes MEVT alone. -/
theorem reg_raise {off : Nat} (h : off < 0x410000) (hm : off ≠ mevt) (s : State) (b : Nat) : (s.raise b).reg off = s.reg off := by
  unfold State.raise
  split
  · rfl
  · rw [reg_signal h, s.reg_setBit_ne _ hm]

theorem field_raise {off : Nat} (h : off < 0x410000) (hm : off ≠ mevt) (s : State) (b lo n : Nat) :
    (s.raise b).field off lo n = s.field off lo n := congrArg (bitsOf · lo n) (reg_raise h hm s b)

/-- There it sets its own bit. -/
theorem mevt_raise (s : State) {b : Nat} (hb : b < 64) (i : Nat) :
    ((s.raise b).reg mevt).getLsbD i = (decide (i = b) || (s.reg mevt).getLsbD i) := by
  unfold State.raise
  split
  · next h =>
    by_cases hi : i = b
    · rw [hi, h, Bool.or_true]
    · simp [hi]
  · rw [reg_signal (by decide), s.getLsbD_setBit b hb]

end Sys2Proof.Machine

namespace Sys2Proof.Machine

variable {s : State}

/-! ## Repair is asked for and granted (04_dram_l2 R79 to R83) -/

theorem exec_mrepairPend (pcn : Nat) (s : State) : exec (.mrepairPend pcn) s = execMrepairPend pcn s := rfl
theorem exec_mrepairGrant (v : Dword) (s : State) : exec (.mrepairGrant v) s = execMrepairGrant v s := rfl

/-- MREPAIR after a host's write: W1C of DONE and FAIL, then PCN and GRANT. -/
def State.repairWritten (s : State) (v : Dword) : State := (s.clearOnes mrepair 0x180000 v).putMasked mrepair 0x103FF v

theorem clearOnes_repairing (v : Dword) : (s.clearOnes mrepair 0x180000 v).repairing = s.repairing := by
  show ((s.clearOnes mrepair 0x180000 v).reg mrepair).getLsbD 18 = (s.reg mrepair).getLsbD 18
  unfold State.clearOnes
  rw [State.reg_setReg_same]
  simp

/-- A register other than MREPAIR. -/
theorem reg_repairWritten {off : Nat} (h : off ≠ mrepair) (v : Dword) : (s.repairWritten v).reg off = s.reg off :=
  (State.reg_setReg_ne _ _ h).trans (State.reg_setReg_ne s _ h)

theorem mrepair_repairWritten (v : Dword) :
    (s.repairWritten v).reg mrepair = (s.reg mrepair &&& ~~~(v &&& 0x180000)) &&& ~~~0x103FF ||| (v &&& 0x103FF) := by
  unfold State.repairWritten State.putMasked State.clearOnes
  rw [State.reg_setReg_same, State.reg_setReg_same]

theorem repairing_repairWritten (v : Dword) : (s.repairWritten v).repairing = s.repairing := by
  show ((s.repairWritten v).reg mrepair).getLsbD 18 = (s.reg mrepair).getLsbD 18
  rw [mrepair_repairWritten]
  simp

theorem pcn_repairWritten (v : Dword) : (s.repairWritten v).field mrepair 0 10 = bitsOf v 0 10 := by
  unfold State.field
  rw [mrepair_repairWritten]
  refine bitsOf_congr fun i _ hi => ?_
  have hm : ((0x103FF : Dword)).getLsbD i = true := by
    have h : ∀ j < 10, ((0x103FF : Dword)).getLsbD j = true := by decide
    exact h i (by omega)
  simp only [BitVec.getLsbD_or, BitVec.getLsbD_and, BitVec.getLsbD_not, hm]
  simp

theorem mpcstat_ne {n off : Nat} (h : off < 0x20000) : mpcstat n ≠ off := by
  unfold mpcstat
  omega

theorem dead_repairWritten (v : Dword) (n : Nat) : (s.repairWritten v).dead n = s.dead n :=
  congrArg (BitVec.getLsbD · 16) (reg_repairWritten (mpcstat_ne (by decide)) v)

theorem live_repairWritten (v : Dword) : (s.repairWritten v).field 0 0 11 = s.field 0 0 11 :=
  congrArg (bitsOf · 0 11) (reg_repairWritten (by decide) v)

/-- What a host's write of MREPAIR does outside a repair: GRANT is refused for a dead channel, or with 768 live, and begins the repair otherwise. -/
theorem execMrepairGrant_eq (v : Dword) (h : s.repairing = false) :
    execMrepairGrant v s = .next (if v.getLsbD 16 = false then s.repairWritten v
      else if s.dead (bitsOf v 0 10) then refuseRepair 1 (s.repairWritten v)
      else if s.field 0 0 11 ≤ 768 then refuseRepair 2 (s.repairWritten v)
      else beginRepair (s.repairWritten v)) := by
  unfold execMrepairGrant
  extract_lets s1 s2
  rw [show s1.repairing = false from (clearOnes_repairing v).trans h]
  change (if false = true then _ else if (!v.getLsbD 16) = true then .next (s.repairWritten v)
    else if (s.repairWritten v).dead ((s.repairWritten v).field mrepair 0 10) = true then .next (refuseRepair 1 (s.repairWritten v))
    else if (s.repairWritten v).field 0 0 11 ≤ 768 then .next (refuseRepair 2 (s.repairWritten v))
    else .next (beginRepair (s.repairWritten v)) : Host.Outcome State Fault Refusal) = _
  rw [pcn_repairWritten, dead_repairWritten, live_repairWritten, if_neg Bool.false_ne_true, apply_ite Host.Outcome.next, apply_ite Host.Outcome.next,
    apply_ite Host.Outcome.next]
  simp only [Bool.not_eq_true']

theorem onlyWindow_refuseRepair (code : Nat) (s : State) : OnlyWindow s (refuseRepair code s) :=
  OnlyWindow.trans ⟨_, s.hostOut, rfl⟩ (onlyWindow_raise _ _)

theorem onlyWindow_repairWritten (v : Dword) : OnlyWindow s (s.repairWritten v) := ⟨_, s.hostOut, rfl⟩

theorem reg_refuseRepair {off : Nat} (h : off < 0x410000) (hm : off ≠ mevt) (hr : off ≠ mrepair) (code : Nat) (s : State) :
    (refuseRepair code s).reg off = s.reg off := by
  unfold refuseRepair
  rw [reg_raise h hm, State.reg_setField_ne _ _ hr, State.reg_setField_ne _ _ hr, State.reg_setField_ne _ _ hr, State.reg_setBit_ne _ _ hr]

/-- FAIL and its code are set, GRANT and PEND are clear, and BUSY is as it was. -/
theorem mrepair_refuseRepair {code : Nat} (hc : code < 8) (s : State) :
    (refuseRepair code s).field mrepair 21 3 = code ∧ ((refuseRepair code s).reg mrepair).getLsbD 20 = true
      ∧ ((refuseRepair code s).reg mrepair).getLsbD 16 = false ∧ ((refuseRepair code s).reg mrepair).getLsbD 17 = false
      ∧ (refuseRepair code s).repairing = s.repairing := by
  have hr : ∀ i, ((refuseRepair code s).reg mrepair).getLsbD i = _ := fun i => by
    unfold refuseRepair
    rw [reg_raise (by decide) (by decide), State.getLsbD_setField, State.getLsbD_setField, State.getLsbD_setField, State.getLsbD_setBit _ _ (by decide)]
  refine ⟨?_, by rw [hr]; rfl, by rw [hr]; rfl, by rw [hr]; rfl, ?_⟩
  · unfold refuseRepair
    rw [field_raise (by decide) (by decide), State.field_setField_apart _ _ (.inr (by decide)), State.field_setField_apart _ _ (.inr (by decide)),
      State.field_setField_same _ _ (by decide)]
    exact Nat.mod_eq_of_lt hc
  · exact hr 18

theorem mevt_refuseRepair (code : Nat) (s : State) : ((refuseRepair code s).reg mevt).getLsbD evRepFail = true := by
  unfold refuseRepair
  rw [mevt_raise _ (by decide)]
  rfl

/-- Settles O54: the refusal is that of `execMrepairGrant_eq`, and leaves everything but MREPAIR and MEVT. -/
theorem repairRefused : Obligations.RepairRefused := by
  unfold Obligations.RepairRefused
  intro v s hb hv hd
  have hx : exec (.mrepairGrant v) s = .next (refuseRepair (if s.dead (bitsOf v 0 10) then 1 else 2) (s.repairWritten v)) := by
    rw [exec_mrepairGrant, execMrepairGrant_eq v hb, if_neg (by rw [hv]; exact Bool.noConfusion)]
    cases hdead : s.dead (bitsOf v 0 10) with
    | true => rfl
    | false =>
      have hlive : s.field 0 0 11 ≤ 768 := by
        have := hd.resolve_left (by rw [hdead]; exact Bool.noConfusion)
        omega
      rw [if_neg Bool.false_ne_true, if_pos hlive, if_neg Bool.false_ne_true]
  obtain ⟨hcode, hfail, -, -, hbusy⟩ := mrepair_refuseRepair (code := if s.dead (bitsOf v 0 10) then 1 else 2) (by split <;> decide) (s.repairWritten v)
  obtain ⟨_, _, hf⟩ := (onlyWindow_repairWritten v).trans (onlyWindow_refuseRepair (if s.dead (bitsOf v 0 10) then 1 else 2) (s.repairWritten v))
  have hlive : (refuseRepair (if s.dead (bitsOf v 0 10) then 1 else 2) (s.repairWritten v)).field 0 0 11 = s.field 0 0 11 := by
    unfold State.field
    rw [reg_refuseRepair (by decide) (by decide) (by decide), reg_repairWritten (by decide)]
  refine ⟨_, hx, hfail, hcode, hbusy.trans ((repairing_repairWritten v).trans hb), ?_, ?_, ?_, ?_, congrArg (· * channelBytes) hlive, hlive⟩ <;> rw [hf]

end Sys2Proof.Machine

namespace Sys2Proof.Machine

variable {s : State} {T t : Nat}

/-! ## Every resident team is pre-empted (18_traps R426, 19_reliability R430) -/

/-- A pre-emption writes teams alone. -/
theorem preemptTeam_frame (s : State) (t : Nat) : ∃ x, preemptTeam s t = { s with teams := x } := by
  unfold preemptTeam
  extract_lets x s1
  split
  · exact ⟨s.teams, rfl⟩
  · split <;> exact ⟨_, rfl⟩

/-- What a pre-emption makes of a team. -/
def stopResident (x : Team) : Team := if x.status = .resident then { x with status := .saving 4 } else x

theorem stopResident_status (x : Team) : (stopResident x).status = if x.status = .resident then .saving 4 else x.status := by
  unfold stopResident
  split <;> rfl

/-- The team itself and its partner stop, where they are resident. -/
theorem preemptTeam_eq (h : (s.team t).status = .resident) :
    preemptTeam s t = if (s.team t).member = 0 then s.modTeam t stopResident
      else (s.modTeam t stopResident).modTeam (s.team t).partner stopResident := by
  have hx : s.modTeam t stopResident = s.modTeam t fun x => { x with status := .saving 4 } :=
    congrArg (s.setTeam t) (if_pos h)
  unfold preemptTeam
  rw [hx]
  simp only [h, ne_eq, not_true_eq_false, if_false]
  rfl

theorem modTeam_stopResident (s : State) (t T : Nat) :
    ((s.modTeam t stopResident).team T).status = if T = t ∧ (s.team T).status = .resident then .saving 4 else (s.team T).status := by
  rw [State.modTeam_eq, State.team_setTeam]
  by_cases h : T = t
  · rw [if_pos h, h, stopResident_status]
    simp
  · rw [if_neg h, if_neg fun x => h x.1]

/-- No team's status changes but from resident to being saved, and the pre-empted team's does. -/
theorem preemptTeam_status (s : State) (t T : Nat) :
    ((preemptTeam s t).team T).status = (s.team T).status ∧ (T = t → (s.team T).status ≠ .resident)
      ∨ (s.team T).status = .resident ∧ ((preemptTeam s t).team T).status = .saving 4 := by
  by_cases h : (s.team t).status = .resident
  · have h1 := modTeam_stopResident s t T
    have h2 := modTeam_stopResident (s.modTeam t stopResident) (s.team t).partner T
    rw [preemptTeam_eq h]
    by_cases hT : T = t ∧ (s.team T).status = .resident
    · refine .inr ⟨hT.2, ?_⟩
      rw [if_pos hT] at h1
      split
      · exact h1
      · rw [h2, if_neg fun x => TeamStatus.noConfusion (h1.symm.trans x.2), h1]
    · rw [if_neg hT] at h1
      have hne : T = t → (s.team T).status ≠ .resident := fun e hr => hT ⟨e, hr⟩
      split
      · exact .inl ⟨h1, hne⟩
      · rw [h2, h1]
        split
        · next hp => exact .inr ⟨hp.2, rfl⟩
        · exact .inl ⟨rfl, hne⟩
  · exact .inl ⟨by rw [show preemptTeam s t = s from if_pos h], fun e => e ▸ h⟩

/-- A team that is being saved stays so. -/
theorem preemptTeam_saving (h : (s.team T).status = .saving 4) (t : Nat) : ((preemptTeam s t).team T).status = .saving 4 := by
  rcases preemptTeam_status s t T with ⟨he, -⟩ | ⟨-, he⟩
  · exact he.trans h
  · exact he

theorem preemptTeams_saving : ∀ (l : List (Nat × Team)) {s : State}, (s.team T).status = .saving 4 →
    ((l.foldl (fun s x => preemptTeam s x.1) s).team T).status = .saving 4
  | [], _, h => h
  | x :: l, _, h => preemptTeams_saving l (preemptTeam_saving h x.1)

/-- A resident team of the list is being saved at its end. -/
theorem preemptTeams_stop (l : List (Nat × Team)) : ∀ {s : State}, T ∈ l.map Prod.fst → (s.team T).status = .resident →
    ((l.foldl (fun s x => preemptTeam s x.1) s).team T).status = .saving 4 := by
  induction l with
  | nil => exact fun h => absurd h List.not_mem_nil
  | cons x l ih =>
    intro s hT h
    rw [List.map_cons, List.mem_cons] at hT
    rcases preemptTeam_status s x.1 T with ⟨he, hne⟩ | ⟨-, he⟩
    · exact ih (hT.resolve_left fun e => hne e h) (he.trans h)
    · exact preemptTeams_saving l he

theorem preemptTeams_frame : ∀ (l : List (Nat × Team)) (s : State), ∃ x, l.foldl (fun s x => preemptTeam s x.1) s = { s with teams := x }
  | [], s => ⟨s.teams, rfl⟩
  | y :: l, s => by
    obtain ⟨x, hx⟩ := preemptTeam_frame s y.1
    obtain ⟨z, hz⟩ := preemptTeams_frame l (preemptTeam s y.1)
    exact ⟨z, hz.trans (by rw [hx])⟩

/-- A team that is not as one that was never placed is in the table. -/
theorem mem_teams (h : (s.team T).status = .resident) : T ∈ s.teams.map Prod.fst := by
  have hne : s.team T ≠ {} := fun he => by
    rw [he] at h
    cases h
  exact List.mem_map.2 ⟨_, SMap.mem_of_get_ne hne, rfl⟩

/-- The granted repair sets BUSY, and stops every resident team (04_dram_l2 R80). -/
theorem beginRepair_spec (s : State) :
    (beginRepair s).repairing = true ∧ (∀ T, (s.team T).status = .resident → ((beginRepair s).team T).status = .saving 4)
      ∧ (beginRepair s).wefts = s.wefts := by
  obtain ⟨x, hx⟩ := preemptTeams_frame s.teams (s.setBit mrepair 18)
  refine ⟨?_, fun T hT => ?_, ?_⟩
  · show ((beginRepair s).reg mrepair).getLsbD 18 = true
    rw [show beginRepair s = _ from hx]
    exact (State.getLsbD_setBit s (off := mrepair) (i := 18) 18 (by decide)).trans rfl
  · exact preemptTeams_stop s.teams (s := s.setBit mrepair 18) (mem_teams hT) hT
  · rw [show beginRepair s = _ from hx]
    rfl

end Sys2Proof.Machine

namespace Sys2Proof.Machine

/-! ## What the messages of coherence leave alone while no upset waits (04_dram_l2 R77, R84 to R95) -/

/-- What the messages of coherence leave alone where no upset waits: a read of home memory then delivers its data, so that no register, no
repair and nothing held back changes. -/
abbrev State.Device (o s : State) : Prop := s.upsets = [] ∧ s.mgmt = o.mgmt ∧ s.repair = o.repair ∧ s.held = o.held

/-- With no upset a read of L2 delivers its data, and changes nothing but which sectors the slices hold. -/
theorem l2Read_clean {s : State} (h : s.upsets = []) (pa n : Nat) : ∃ l, s.l2Read pa n = (true, { s with coh := { s.coh with l2 := l } }) := by
  unfold State.l2Read
  generalize blocksOf pa n = bs
  induction bs generalizing s with
  | nil => exact ⟨s.coh.l2, rfl⟩
  | cons b bs ih =>
    obtain ⟨l, hl⟩ := ih (s := s.l2Fill b (sectorsOf b pa n &&& ~~~s.l2Valid b)) h
    refine ⟨l, ?_⟩
    rw [List.foldl_cons]
    refine (congrArg (fun x => List.foldl _ x bs) ?_).trans hl
    have hu : s.upsets.isEmpty = true := by rw [h]; rfl
    dsimp only
    rw [if_pos hu, if_pos rfl]

section
variable {o s : State}

theorem foldl_keeps {α : Type} {f : State → α → State} (hf : ∀ s x, o.Device s → o.Device (f s x)) :
    ∀ (l : List α) {s : State}, o.Device s → o.Device (l.foldl f s)
  | [], _, h => h
  | x :: l, _, h => foldl_keeps hf l (hf _ x h)

theorem ite_keeps {c : Prop} [Decidable c] {t : State} (hs : o.Device s) (ht : o.Device t) : o.Device (if c then s else t) := by
  split
  · exact hs
  · exact ht

/-! ### Memory and caches -/

theorem homePut_keeps (pa : Nat) (bs : List Byte) (h : o.Device s) : o.Device (s.homePut pa bs) := by
  obtain ⟨l, hl⟩ := l2Write_l2 s pa bs.length
  unfold State.homePut
  rw [hl]
  exact h

theorem shedLines_keeps (p : L1Line → Bool) (h : o.Device s) : o.Device (s.shedLines p) :=
  foldl_keeps (f := State.sendWbD) (fun _ _ h => h) _ h

theorem ncFlush_keeps (core : Nat) (p : NcSector → Bool) (drop write : Bool) (h : o.Device s) : o.Device (s.ncFlush core p drop write) := by
  unfold State.ncFlush
  extract_lets hit s1 clean
  have h1 : o.Device s1 := ite_keeps (foldl_keeps (fun _ _ h => foldl_keeps (fun _ _ h => homePut_keeps _ _ h) _ h) _ h) h
  clear_value s1
  exact ite_keeps h h1

theorem dropClusterTranslations_keeps (ci base n : Nat) (h : o.Device s) : o.Device (s.dropClusterTranslations ci base n) := by
  unfold State.dropClusterTranslations
  exact ite_keeps h (foldl_keeps (fun _ _ h => ncFlush_keeps _ _ _ _ h) _ (shedLines_keeps _ h))

theorem dropThrough_keeps (m : Msg) (h : o.Device s) : o.Device (s.dropThrough m) := ite_keeps h (dropClusterTranslations_keeps _ _ _ h)

/-! ### Transactions -/

theorem grantMemory_keeps (t : Txn) (k : MsgKind) (h : o.Device s) : o.Device (grantMemory s t k) := by
  obtain ⟨l, hl⟩ := l2Read_clean h.1 t.unit t.gr
  unfold grantMemory
  rw [hl]
  exact h

/-- A unit's entry in the directory, with the bits of its frame. -/
theorem grant_keeps (die u gr pa : Nat) (d : UnitDir) (own : Bool) (h : o.Device s) : o.Device ((s.setUnitDir die u gr d).frameTouch pa own) := h

theorem completeHome_keeps (t : Txn) (h : o.Device s) : o.Device (completeHome s t) := by
  unfold completeHome
  extract_lets hd q only d p
  split
  · split
    · exact grant_keeps _ _ _ _ _ _ (grantMemory_keeps t .dataE h)
    · exact grant_keeps _ _ _ _ _ _ (grantMemory_keeps t .dataS h)
  · exact grant_keeps _ _ _ _ _ _ (s := (s.dropTxn t).sendMsg (grantMsg t .ackM [])) h
  · exact grant_keeps _ _ _ _ _ _ (grantMemory_keeps t .dataM h)
  · exact h

theorem coh_keeps (c : Coherence) (h : o.Device s) : o.Device { s with coh := c } := h

theorem sendMsg_keeps (m : Msg) (h : o.Device s) : o.Device (s.sendMsg m) := h

theorem setUnitDir_keeps (die u gr : Nat) (d : UnitDir) (h : o.Device s) : o.Device (s.setUnitDir die u gr d) := h

theorem putTxn_keeps (t : Txn) (h : o.Device s) : o.Device (s.putTxn t) := h

theorem completeGate_keeps (t : Txn) (h : o.Device s) : o.Device (completeGate s t) := by
  unfold completeGate
  split <;> dsimp only
  · exact h
  · have hs : o.Device (if t.from_ < 128 then s.sendMsg (grantMsg t .wbAck []) else s) := ite_keeps h h
    generalize (if t.from_ < 128 then s.sendMsg (grantMsg t .wbAck []) else s) = s' at hs ⊢
    split
    · exact sendMsg_keeps _ (putTxn_keeps _ (coh_keeps _ (setUnitDir_keeps t.node t.unit t.gr
        { s'.unitDir t.node t.unit with owner := none, presence := 0 } hs)))
    · exact setUnitDir_keeps _ _ _ _ (s := s'.dropTxn t) hs
  · exact h
  · exact ite_keeps h h
  · exact h
  · have hd : o.Device ((s.dropTxn t).setUnitDir t.node t.unit t.gr {}) := h
    generalize (s.dropTxn t).setUnitDir t.node t.unit t.gr {} = s' at hd ⊢
    split
    · exact sendMsg_keeps _ hd
    · exact sendMsg_keeps _ (sendMsg_keeps _ hd)

theorem advance_keeps (t : Txn) (h : o.Device s) : o.Device (advance s t) := by
  unfold advance
  refine ite_keeps h ?_
  split
  · exact h
  · exact ite_keeps (completeHome_keeps _ h) (completeGate_keeps _ h)

theorem openTxn_keeps (t : Txn) (l : List Nat) (x : Option Nat) (h : o.Device s) : o.Device (openTxn s t l x) :=
  advance_keeps _ (foldl_keeps (f := fun s d =>
    s.sendMsg { kind := .inv, src := nodeAgent t.node, dst := d, unit := t.unit, gr := t.gr, mark := t.mark }) (fun _ _ h => h) l h)

theorem applyWbD_keeps (m : Msg) (h : o.Device s) : o.Device (applyWbD s m) :=
  ite_keeps h ((homePut_keeps m.unit m.data (s := (s.consume m.src m.unit).sendMsg _) h))

theorem acceptHome_keeps (m : Msg) (h : o.Device s) : o.Device (acceptHome s m) := by
  unfold acceptHome
  extract_lets hd q d0 d s' t others x
  have hs : o.Device s' := ite_keeps h h
  clear_value s'
  refine ite_keeps (applyWbD_keeps _ h) (ite_keeps ?_ (ite_keeps ?_ ?_)) <;> exact openTxn_keeps _ _ _ hs

theorem acceptGate_keeps (n : Nat) (m : Msg) (h : o.Device s) : o.Device (acceptGate s n m) := by
  unfold acceptGate
  extract_lets q d0 t s0 d s1 mine others x
  have h0 : o.Device s0 := h
  have h1 : o.Device s1 := ite_keeps h h
  clear_value s0 s1
  refine ite_keeps (ite_keeps (openTxn_keeps _ _ _ h0) (h0))
    (ite_keeps (ite_keeps (openTxn_keeps _ _ _ h1) h1) (ite_keeps (ite_keeps (openTxn_keeps _ _ _ h1) h1)
      (ite_keeps (openTxn_keeps _ _ _ h1) h1)))

theorem acceptProbe_keeps (n : Nat) (m : Msg) (h : o.Device s) : o.Device (acceptProbe s n m) :=
  ite_keeps (openTxn_keeps _ _ _ h) (openTxn_keeps _ _ _ h)

theorem recallEntry_keeps (n : Nat) (e : DirEntry) (h : o.Device s) : o.Device (recallEntry s n e) := foldl_keeps (fun _ _ h => openTxn_keeps _ _ _ h) _ h

/-! ### Requests -/

/-- With no upset a node meets no error as it takes up a request (19_reliability R440). -/
theorem nodeError_clean (h : s.upsets = []) (n u : Nat) : s.nodeError n u = none := by
  unfold State.nodeError
  rw [h]
  simp

theorem takeUp_keeps (m : Msg) (h : o.Device s) : o.Device (takeUp s m) := by
  unfold takeUp
  extract_lets n
  rw [nodeError_clean h.1, if_neg (by simp)]
  refine ite_keeps (acceptProbe_keeps _ _ h) (ite_keeps ?_ (ite_keeps (acceptHome_keeps _ h) (acceptGate_keeps _ _ h)))
  split
  · exact recallEntry_keeps _ _ h
  · exact h

theorem arriveMsg_keeps (m : Msg) (h : o.Device s) : o.Device (arriveMsg s m) := ite_keeps (takeUp_keeps _ h) h

theorem pump_keeps : ∀ (n : Nat) {s : State}, o.Device s → o.Device (pump n s)
  | 0, _, h => h
  | n + 1, s, h => by
    unfold pump
    split
    · exact h
    · exact pump_keeps n (takeUp_keeps _ h)

/-! ### Messages at a cluster and at a node -/

theorem clusterForward_keeps (m : Msg) (h : o.Device s) : o.Device (clusterForward s m) := by
  unfold clusterForward
  extract_lets back give ls
  split
  · exact ite_keeps ((dropThrough_keeps m (s := s.dropLines m.dst m.unit) h)) h
  · next s' _ _ =>
    have hs : o.Device s' := ite_keeps (dropThrough_keeps m h) h
    clear_value s'
    split <;> exact hs

theorem clusterInv_keeps (m : Msg) (h : o.Device s) : o.Device (clusterInv s m) :=
  (dropThrough_keeps m (s := s.dropLines m.dst m.unit) h)

theorem clusterData_keeps (m : Msg) (h : o.Device s) : o.Device (clusterData s m) := by
  unfold clusterData
  extract_lets st s1 mine l
  have h1 : o.Device s1 := ite_keeps h h
  exact h1

theorem clusterAck_keeps (m : Msg) (h : o.Device s) : o.Device (clusterAck s m) := by
  unfold clusterAck
  split
  · exact h
  · exact h

theorem gateAnswer_keeps (n : Nat) (m : Msg) (h : o.Device s) : o.Device (gateAnswer s n m) := by
  unfold gateAnswer
  split
  · exact h
  · split
    · exact h
    · dsimp only
      split
      · exact h
      · exact ite_keeps h h
      · exact openTxn_keeps _ _ _ h
      · exact ite_keeps (openTxn_keeps _ _ _ h) (openTxn_keeps _ _ _ h)

theorem gateWbAck_keeps (n u : Nat) (h : o.Device s) : o.Device (gateWbAck s n u) := by
  simp only [gateWbAck]
  split <;> exact h

theorem nodeInvAck_keeps (n : Nat) (m : Msg) (h : o.Device s) : o.Device (nodeInvAck s n m) := by
  simp only [nodeInvAck]
  split
  · exact h
  · exact advance_keeps _ h

theorem nodeFwdAck_keeps (n : Nat) (m : Msg) (h : o.Device s) : o.Device (nodeFwdAck s n m) := by
  simp only [nodeFwdAck]
  split
  · exact h
  · repeat' split
    all_goals exact h

theorem nodeNoData_keeps (n : Nat) (m : Msg) (h : o.Device s) : o.Device (nodeNoData s n m) := by
  simp only [nodeNoData]
  split
  · exact h
  · exact ite_keeps (completeHome_keeps _ h) (ite_keeps (openTxn_keeps _ _ _ h)
      (ite_keeps (openTxn_keeps _ _ _ h) (completeGate_keeps _ h)))

theorem handle_keeps (m : Msg) (h : o.Device s) : o.Device (handle s m) := by
  unfold handle
  split
  · split
    · exact clusterForward_keeps m h
    · exact clusterForward_keeps m h
    · exact clusterInv_keeps m h
    · exact clusterAck_keeps m h
    · exact h
    · exact clusterData_keeps m h
  · extract_lets n
    split
    · exact nodeInvAck_keeps n m h
    · exact nodeFwdAck_keeps n m h
    · exact nodeNoData_keeps n m h
    · exact gateWbAck_keeps n _ h
    · exact gateAnswer_keeps n m h
    · exact ite_keeps (homePut_keeps _ _ h) (gateAnswer_keeps n m h)
    · exact gateAnswer_keeps n m h
    · exact ite_keeps h (gateAnswer_keeps n m h)
    · exact arriveMsg_keeps m h

/-! ### Delivery -/

theorem linkError_clean (h : s.upsets = []) (m : Msg) : s.linkError m = false := by
  unfold State.linkError
  rw [h]
  simp

theorem deliver_keeps (m : Msg) (h : o.Device s) : o.Device (deliver s m) := by
  unfold deliver
  rw [linkError_clean h.1]
  exact pump_keeps _ (handle_keeps m h)

theorem drive_keeps (done : State → Bool) (near : Msg → Bool) : ∀ (f : Nat) {s : State}, o.Device s → o.Device (drive done near f s)
  | 0, _, h => h
  | f + 1, s, h => by
    unfold drive
    refine ite_keeps h ?_
    split
    · exact drive_keeps done near f (deliver_keeps _ h)
    · exact h

/-- The caches are written back and emptied. -/
theorem emptyCaches_keeps (h : o.Device s) : o.Device (emptyCaches s) := by
  have h1 : o.Device (dropAllL1 s) :=
    drive_keeps _ _ _ (foldl_keeps (fun _ _ h => ncFlush_keeps _ _ _ _ (shedLines_keeps _ h)) _ h)
  unfold emptyCaches
  extract_lets s1 s2
  have h2 : o.Device s2 := foldl_keeps (f := fun s c => s.modCluster c fun x => { x with tlb := [], icache := [] }) (fun _ _ h => h) _ h1
  exact h2

end

end Sys2Proof.Machine

namespace Sys2Proof.Machine

variable {s : State}

/-! ## The end of a repair (04_dram_l2 R80, R81) -/

theorem exec_repairCopyDone (s : State) : exec .repairCopyDone s = execRepairCopyDone s := rfl

/-- The registers that a withdrawal writes: LIVE and CAP, the channel's DEAD, and the epoch of the capacity. -/
theorem mgmt_withdraw (pcn : Nat) (s : State) : ∃ c e, (withdraw pcn s).mgmt =
    ((((s.setField 0 0 11 (s.field 0 0 11 - 1)).setField 0 32 20 c).setBit (mpcstat pcn) 16).setField 0x0010 0 32 e).mgmt := by
  unfold withdraw
  extract_lets live rec s1 s2 s3 ups
  refine ⟨768 * (live - 1), s2.field 0x0010 0 32 + 1, ?_⟩
  clear_value ups
  show s3.mgmt = _
  unfold s3 s2
  have h : s1.mgmt = s.mgmt := rfl
  simp only [State.setBit, State.setField, State.setReg, State.reg, State.field, h]
  rfl

theorem reg_withdraw {off pcn : Nat} (h0 : off ≠ 0) (h1 : off ≠ 0x0010) (hp : off ≠ mpcstat pcn) (s : State) : (withdraw pcn s).reg off = s.reg off := by
  obtain ⟨c, e, h⟩ := mgmt_withdraw pcn s
  refine (congrArg (SMap.get regReset · off) h).trans ?_
  exact (State.reg_setField_ne _ _ h1).trans ((State.reg_setBit_ne _ _ hp).trans ((State.reg_setField_ne _ _ h0).trans (State.reg_setField_ne s _ h0)))

/-- LIVE falls by one, and with it the capacity. -/
theorem live_withdraw (pcn : Nat) (s : State) : (withdraw pcn s).field 0 0 11 = s.field 0 0 11 - 1 := by
  obtain ⟨c, e, h⟩ := mgmt_withdraw pcn s
  refine (congrArg (fun m => bitsOf (SMap.get regReset m 0) 0 11) h).trans ?_
  refine (State.field_setField_ne _ e (by decide)).trans ?_
  refine (State.field_setField_ne _ 1 (mpcstat_ne (by decide)).symm).trans ?_
  rw [State.field_setField_apart _ c (.inl (by decide)), State.field_setField_same _ _ (by decide)]
  have hlt : s.field 0 0 11 < 2 ^ 11 := bitsOf_lt _ _ _
  exact Nat.mod_eq_of_lt (by omega)

/-- The channel is dead. -/
theorem dead_withdraw (pcn : Nat) (s : State) : (withdraw pcn s).dead pcn = true := by
  obtain ⟨c, e, h⟩ := mgmt_withdraw pcn s
  refine (congrArg (fun m => (SMap.get regReset m (mpcstat pcn)).getLsbD 16) h).trans ?_
  refine (congrArg (BitVec.getLsbD · 16) (State.reg_setField_ne _ e (mpcstat_ne (by decide)))).trans ?_
  exact (State.getLsbD_setBit _ 16 (by decide)).trans rfl

/-- Only memory below the new capacity is left. -/
theorem mem_withdraw (pcn : Nat) (s : State) : (withdraw pcn s).mem = s.mem.filter fun e => decide (e.1 < (withdraw pcn s).cap) := rfl

theorem byte_withdraw {pcn a : Nat} (h : (withdraw pcn s).cap ≤ a) : (withdraw pcn s).byte a = 0 := by
  unfold State.byte
  rw [mem_withdraw]
  generalize (withdraw pcn s).cap = c at h
  refine (SMap.get_filter _ _ (fun k => decide (k < c)) _).trans ?_
  rw [if_neg (by simpa using h)]
  rfl

/-- What else a withdrawal touches: the repair's record, the upsets and the sweeper's place. -/
theorem withdraw_frame (pcn : Nat) (s : State) : ∃ m o b u n, withdraw pcn s =
    { s with
        mgmt := m, hostOut := o, mem := b, upsets := u, sweepNext := n,
        repair.done := s.repair.done ++ [(pcn, s.field 0 0 11)] } := by
  unfold withdraw
  extract_lets live rec s1 s2 s3 ups
  obtain ⟨m, o, h⟩ : OnlyWindow s1 s3 := (((onlyWindow_setField s1 _ _ _ _).trans (onlyWindow_setField _ _ _ _ _)).trans
    (onlyWindow_setField _ _ _ _ _)).trans (onlyWindow_setField _ _ _ _ _)
  clear_value ups s3
  subst h
  exact ⟨m, o, _, ups, _, rfl⟩
/-- What the end of a repair tells the host and the firmware: the capacity's event, and DONE in MREPAIR with its own. -/
def State.repairTold (s : State) : State :=
  let told := if s.viral then s else { s with hostOut := s.hostOut ++ [.event (BitVec.ofNat 32 (s.field 0x0010 0 32)) (s.field 0 32 20)] }
  ((((told.raise evCapChg).setField mrepair 16 3 0).setField mrepair 18 1 0).setBit mrepair 19).raise evRepDone

theorem execRepairCopyDone_eq (hr : s.repairing = true) (hq : s.quiet = true) :
    execRepairCopyDone s = taken s (outcomeOf (withdraw (s.field mrepair 0 10) (emptyCaches s)).repairTold.serveHeld) := by
  unfold execRepairCopyDone
  rw [hr, hq]
  rfl

theorem onlyWindow_repairTold (s : State) : OnlyWindow s s.repairTold := by
  unfold State.repairTold
  extract_lets told
  have h : OnlyWindow s told := by
    unfold told
    split
    · exact ⟨s.mgmt, s.hostOut, rfl⟩
    · exact ⟨s.mgmt, _, rfl⟩
  exact (((((h.trans (onlyWindow_raise _ _)).trans (onlyWindow_setField _ _ _ _ _)).trans (onlyWindow_setField _ _ _ _ _)).trans
    (onlyWindow_setField _ _ _ _ _)).trans (onlyWindow_raise _ _))

theorem reg_repairTold {off : Nat} (h : off < 0x410000) (hm : off ≠ mevt) (hr : off ≠ mrepair) (s : State) : s.repairTold.reg off = s.reg off := by
  unfold State.repairTold
  extract_lets told
  have ht : told.reg off = s.reg off := by
    unfold told
    split <;> rfl
  rw [reg_raise h hm, State.reg_setBit_ne _ _ hr, State.reg_setField_ne _ _ hr, State.reg_setField_ne _ _ hr, reg_raise h hm, ht]

/-- BUSY is clear and DONE set, and both events are raised. -/
theorem mrepair_repairTold (s : State) : s.repairTold.repairing = false ∧ (s.repairTold.reg mrepair).getLsbD 19 = true
    ∧ (s.repairTold.reg mevt).getLsbD evCapChg = true ∧ (s.repairTold.reg mevt).getLsbD evRepDone = true := by
  unfold State.repairTold
  extract_lets told
  clear_value told
  refine ⟨?_, ?_, ?_, ?_⟩
  · show (State.reg _ mrepair).getLsbD 18 = false
    rw [reg_raise (by decide) (by decide), State.getLsbD_setBit _ _ (by decide), State.getLsbD_setField]
    rfl
  · rw [reg_raise (by decide) (by decide), State.getLsbD_setBit _ _ (by decide)]
    rfl
  · rw [mevt_raise _ (by decide), State.reg_setBit_ne _ _ (by decide), State.reg_setField_ne _ _ (by decide), State.reg_setField_ne _ _ (by decide),
      mevt_raise _ (by decide)]
    rfl
  · rw [mevt_raise _ (by decide)]
    rfl

/-- Outside a repair, with nothing held back, nothing more is served. -/
theorem serveHeld_nothing (h : s.repairing = false) (hh : s.held = []) : s.serveHeld = .ok s := by
  unfold State.serveHeld
  rw [h, hh]
  exact congrArg Except.ok (by rw [← hh])

/-- With no upset the caches empty without touching a register, what is held back, a weft or a team. -/
theorem emptyCaches_device (h : s.upsets = []) : s.Device (emptyCaches s) := emptyCaches_keeps ⟨h, rfl, rfl, rfl⟩

theorem dropL1_threads {o : State} (core : Nat) (h : o.Threads s) : o.Threads (dropL1 s core) := ncFlush_threads _ _ _ _ (shedLines_threads _ h)

theorem emptyCaches_threads {o : State} (h : o.Threads s) : o.Threads (emptyCaches s) := by
  have h1 : o.Threads (dropAllL1 s) := drive_threads _ _ _ (foldl_threads (fun _ c h => dropL1_threads c h) _ h)
  unfold emptyCaches
  extract_lets s1 s2
  have h2 : o.Threads s2 := foldl_threads (f := fun s c => s.modCluster c fun x => { x with tlb := [], icache := [] }) (fun _ _ h => h) _ h1
  exact h2

/-- The state in which a repair has ended. -/
def State.repaired (s : State) : State := (withdraw (s.field mrepair 0 10) (emptyCaches s)).repairTold

section
variable (hu : s.upsets = [])
include hu

theorem reg_emptyCaches (off : Nat) : (emptyCaches s).reg off = s.reg off := by
  obtain ⟨-, hm, -, -⟩ := emptyCaches_device hu
  exact congrArg (SMap.get regReset · off) hm

theorem live_repaired : s.repaired.field 0 0 11 = s.field 0 0 11 - 1 := by
  have h : s.repaired.field 0 0 11 = _ := congrArg (bitsOf · 0 11) (reg_repairTold (by decide) (by decide) (by decide) _)
  refine h.trans ((live_withdraw _ _).trans ?_)
  exact congrArg (bitsOf · 0 11 - 1) (reg_emptyCaches hu 0)

theorem viral_repaired : s.repaired.viral = s.viral := by
  have h : s.repaired.reg 0xA008 = s.reg 0xA008 :=
    (reg_repairTold (by decide) (by decide) (by decide) _).trans
      ((reg_withdraw (by decide) (by decide) (mpcstat_ne (by decide)).symm _).trans (reg_emptyCaches hu _))
  exact congrArg (BitVec.getLsbD · 0) h

end

theorem dead_repaired (s : State) : s.repaired.dead (s.field mrepair 0 10) = true := by
  have hlt : mpcstat (s.field mrepair 0 10) < 0x410000 := by
    have : s.field mrepair 0 10 < 2 ^ 10 := bitsOf_lt _ _ _
    unfold mpcstat
    omega
  refine Eq.trans (congrArg (BitVec.getLsbD · 16) (reg_repairTold hlt (mpcstat_ne (by decide)) (mpcstat_ne (by decide)) _)) ?_
  exact dead_withdraw _ _


/-- Memory at and above the new capacity is gone. -/
theorem byte_repaired {a : Nat} (h : s.repaired.cap ≤ a) : s.repaired.byte a = 0 := by
  have hcap : s.repaired.cap = (withdraw (s.field mrepair 0 10) (emptyCaches s)).cap :=
    congrArg (bitsOf · 0 11 * channelBytes) (reg_repairTold (by decide) (by decide) (by decide) _)
  obtain ⟨m, o, hf⟩ := onlyWindow_repairTold (withdraw (s.field mrepair 0 10) (emptyCaches s))
  have hb : s.repaired.byte a = (withdraw (s.field mrepair 0 10) (emptyCaches s)).byte a := by
    unfold State.repaired
    rw [hf]
    rfl
  exact hb.trans (byte_withdraw (hcap ▸ h))

/-- What the end of a repair leaves of the state with its caches emptied. -/
theorem repaired_frame (s : State) : ∃ m o b u n, s.repaired =
    { emptyCaches s with
        mgmt := m, hostOut := o, mem := b, upsets := u, sweepNext := n,
        repair.done := (emptyCaches s).repair.done ++ [(s.field mrepair 0 10, (emptyCaches s).field 0 0 11)] } := by
  obtain ⟨m, o, b, u, n, hw⟩ := withdraw_frame (s.field mrepair 0 10) (emptyCaches s)
  obtain ⟨m', o', ht⟩ := onlyWindow_repairTold (withdraw (s.field mrepair 0 10) (emptyCaches s))
  refine ⟨m', o', b, u, n, ?_⟩
  unfold State.repaired
  rw [ht, hw]

/-- REPAIR_COPY_DONE while every context stands in its images. -/
theorem takes_repairCopyDone (hr : s.repairing = true) (hq : s.quiet = true) (hh : s.held = []) (hu : s.upsets = []) (hc : s.clear (emptyCaches s)) :
    Takes (exec .repairCopyDone s) s s.repaired := by
  obtain ⟨m, o, b, u, n, hf⟩ := repaired_frame s
  obtain ⟨-, -, -, hheld⟩ := emptyCaches_device hu
  have hs : s.repaired.serveHeld = .ok s.repaired := by
    refine serveHeld_nothing (mrepair_repairTold _).1 ?_
    rw [hf]
    exact hheld.trans hh
  have hx : exec .repairCopyDone s = event s (.ok s.repaired) := by
    rw [exec_repairCopyDone, execRepairCopyDone_eq hr hq]
    exact congrArg (fun x => taken s (outcomeOf x)) hs
  rw [hx]
  refine takes_event ⟨viral_repaired hu, ?_⟩
  rw [hf]
  exact hc.2

/-- What a refusal leaves in MREPAIR and MEVT. -/
theorem mrepairGrant_refused {v : Dword} {code : Nat} (hc : code < 8)
    (hx : exec (.mrepairGrant v) s = .next (refuseRepair code (s.repairWritten v))) :
    ∃ t, exec (.mrepairGrant v) s = .next t ∧ t.field mrepair 21 3 = code ∧ (t.reg mrepair).getLsbD 20 = true
      ∧ (t.reg mrepair).getLsbD 16 = false ∧ (t.reg mrepair).getLsbD 17 = false ∧ (t.reg mevt).getLsbD evRepFail = true ∧ t.mem = s.mem
      ∧ t.teams = s.teams := by
  obtain ⟨hcode, hfail, h16, h17, -⟩ := mrepair_refuseRepair hc (s.repairWritten v)
  obtain ⟨_, _, hf⟩ := (onlyWindow_repairWritten v).trans (onlyWindow_refuseRepair code (s.repairWritten v))
  exact ⟨_, hx, hcode, hfail, h16, h17, mevt_refuseRepair _ _, by rw [hf], by rw [hf]⟩

/-- Settles O53: the firmware's request, the cases of `execMrepairGrant_eq`, and the end of the repair by `takes_repairCopyDone`. -/
theorem repairsRun : Obligations.RepairsRun := by
  unfold Obligations.RepairsRun
  intro s event
  refine ⟨fun pcn hp hb => ?_, fun v hb => ?_, fun hr hq hh hu hl hc => ?_⟩
  · obtain ⟨m, o, hf⟩ := ((onlyWindow_setField s mrepair 0 10 pcn).trans (onlyWindow_setField _ mrepair 17 1 1)).trans (onlyWindow_raise _ evRepPend)
    refine ⟨((s.setField mrepair 0 10 pcn).setBit mrepair 17).raise evRepPend, ?_, ?_, ?_, ?_, ?_⟩
    · rw [exec_mrepairPend]
      unfold execMrepairPend
      exact if_neg (not_or.2 ⟨by omega, by rw [hb]; exact Bool.noConfusion⟩)
    · rw [field_raise (by decide) (by decide)]
      refine (State.field_setField_apart _ 1 (.inl (by decide))).trans ?_
      rw [State.field_setField_same _ _ (by decide)]
      exact Nat.mod_eq_of_lt hp
    · rw [reg_raise (by decide) (by decide), State.getLsbD_setBit _ _ (by decide)]
      rfl
    · exact (mevt_raise _ (by decide) _).trans rfl
    · exact ⟨(congrArg State.mem hf).trans rfl, (congrArg State.wefts hf).trans rfl, (congrArg State.teams hf).trans rfl⟩
  · have hx := (exec_mrepairGrant v s).trans (execMrepairGrant_eq v hb)
    refine ⟨fun hv => ?_, fun hv hd => ?_, fun hv hd hlive => ?_, fun hv hd hlive => ?_⟩
    · rw [if_pos hv] at hx
      exact ⟨_, hx, rfl, pcn_repairWritten v⟩
    · rw [if_neg (by rw [hv]; exact Bool.noConfusion), if_pos hd] at hx
      exact mrepairGrant_refused (by decide) hx
    · rw [if_neg (by rw [hv]; exact Bool.noConfusion), if_neg (by rw [hd]; exact Bool.noConfusion), if_pos hlive] at hx
      exact mrepairGrant_refused (by decide) hx
    · rw [if_neg (by rw [hv]; exact Bool.noConfusion), if_neg (by rw [hd]; exact Bool.noConfusion), if_neg (by omega)] at hx
      obtain ⟨hrep, hstop, hw⟩ := beginRepair_spec (s.repairWritten v)
      exact ⟨_, hx, hrep, hstop, hw⟩
  · obtain ⟨m, o, b, u, n, hf⟩ := repaired_frame s
    obtain ⟨-, -, hrepair, -⟩ := emptyCaches_device hu
    obtain ⟨hwefts, hteams, -⟩ := emptyCaches_threads (threads_refl s)
    obtain ⟨hbusy, hdone, hcap, hrep⟩ := mrepair_repairTold (withdraw (s.field mrepair 0 10) (emptyCaches s))
    refine ⟨s.repaired, takes_repairCopyDone hr hq hh hu hc, live_repaired hu, ?_, dead_repaired s, ?_, hbusy, hdone, hcap, hrep, ?_,
      fun a ha => byte_repaired ha, ?_, ?_⟩
    · exact (congrArg (· * channelBytes) (live_repaired hu)).trans (Nat.sub_one_mul _ _)
    · have hlive : (emptyCaches s).field 0 0 11 = s.field 0 0 11 := congrArg (bitsOf · 0 11) (reg_emptyCaches hu 0)
      rw [hf, ← hlive, ← hrepair]
    all_goals rw [hf]
    · rfl
    · exact hwefts
    · exact hteams

end Sys2Proof.Machine

namespace Sys2Proof.Machine

variable {s : State} {m : Msg}

/-! ## Messages at a cluster (04_dram_l2 R89 to R92, 05_translation R113) -/

/-! ### What goes with a unit -/

/-- Requests that wait, and what the clusters have translated. -/
abbrev State.Waits (o s : State) : Prop := s.coh.waiting = o.coh.waiting ∧ s.clusters = o.clusters

section
variable {o : State}

theorem foldl_waits {α : Type} {f : State → α → State} (hf : ∀ s x, o.Waits s → o.Waits (f s x)) :
    ∀ (l : List α) {s : State}, o.Waits s → o.Waits (l.foldl f s)
  | [], _, h => h
  | x :: l, _, h => foldl_waits hf l (hf _ x h)

theorem homePut_waits (pa : Nat) (bs : List Byte) (h : o.Waits s) : o.Waits (s.homePut pa bs) := by
  obtain ⟨l, hl⟩ := l2Write_l2 s pa bs.length
  unfold State.homePut
  rw [hl]
  exact h

theorem shedLines_waits (p : L1Line → Bool) (h : o.Waits s) : o.Waits (s.shedLines p) := foldl_waits (f := State.sendWbD) (fun _ _ h => h) _ h

theorem ncFlush_waits (core : Nat) (p : NcSector → Bool) (drop write : Bool) (h : o.Waits s) : o.Waits (s.ncFlush core p drop write) := by
  unfold State.ncFlush
  extract_lets hit s1 clean
  have h1 : o.Waits s1 := by
    unfold s1
    split
    · exact foldl_waits (fun _ _ h => foldl_waits (fun _ _ h => homePut_waits _ _ h) _ h) _ h
    · exact h
  clear_value s1
  split
  · exact h
  · exact h1

end

/-- Nothing was translated through the unit of a message, or what was translated stays (05_translation R109). -/
def State.unread (s : State) (m : Msg) : Prop :=
  m.mark = true ∨ (∀ e ∈ (s.cluster m.dst).tlb, e.walkedIn m.unit m.gr = false)
    ∧ ∀ l ∈ (s.cluster m.dst).icache, m.unit + m.gr ≤ l.pa ∨ l.pa + 128 ≤ m.unit

/-- Then nothing goes with it. -/
theorem dropThrough_unread (h : s.unread m) : s.dropThrough m = s := by
  unfold State.dropThrough
  rcases h with h | ⟨htlb, hic⟩
  · exact if_pos h
  · have hgone : ((s.cluster m.dst).tlb.filter fun e => e.walkedIn m.unit m.gr) = [] := List.filter_eq_nil_iff.2 fun e he => by simp [htlb e he]
    unfold State.dropClusterTranslations
    dsimp only
    rw [hgone]
    have hlines : ((s.cluster m.dst).icache.filter fun l =>
        !(decide (l.pa < m.unit + m.gr) && decide (m.unit < l.pa + 128)) && !([] : List TlbEntry).any fun e => e.hits l.ctx l.va)
        = (s.cluster m.dst).icache := List.filter_eq_self.2 fun l hl => by
      have := hic l hl
      simp only [List.any_nil, Bool.not_false, Bool.and_true, Bool.not_eq_true', Bool.and_eq_false_iff, decide_eq_false_iff_not]
      omega
    rw [hlines]
    simp

theorem dropThrough_waiting (s : State) (m : Msg) : (s.dropThrough m).coh.waiting = s.coh.waiting := by
  unfold State.dropThrough
  split
  · rfl
  · unfold State.dropClusterTranslations
    extract_lets cl gone under lines s1 s2
    split
    · rfl
    · have h2 : s1.Waits s2 := shedLines_waits _ ⟨rfl, rfl⟩
      exact (foldl_waits (fun _ _ h => ncFlush_waits _ _ _ _ h) _ h2).1

/-- Afterwards the cluster holds no translation that was read in the unit. -/
theorem dropThrough_tlb (h : m.mark = false) {e : TlbEntry} (he : e ∈ ((s.dropThrough m).cluster m.dst).tlb) : e.walkedIn m.unit m.gr = false := by
  unfold State.dropThrough at he
  rw [if_neg (by rw [h]; exact Bool.noConfusion)] at he
  unfold State.dropClusterTranslations at he
  extract_lets cl gone under lines s1 s2 at he
  split at he
  · next hg =>
    have hgone : gone = [] := by
      rw [Bool.and_eq_true, List.isEmpty_iff] at hg
      exact hg.1
    exact Bool.eq_false_iff.2 (List.filter_eq_nil_iff.1 hgone e he)
  · have h2 : s1.Waits s2 := shedLines_waits _ ⟨rfl, rfl⟩
    obtain ⟨-, hc⟩ : s1.Waits _ := foldl_waits (fun _ _ h => ncFlush_waits _ _ _ _ h) _ h2
    unfold State.cluster at he
    rw [hc] at he
    have hs1 : s1.cluster m.dst = _ := State.cluster_setCluster_same _ _ _
    unfold State.cluster at hs1
    rw [hs1] at he
    simpa using (List.mem_filter.1 he).2

/-! ### Delivery -/

/-- The state as a message has left the messages in flight. -/
def State.received (s : State) (m : Msg) : State := { s with coh := { s.coh with msgs := s.coh.msgs.erase m } }

/-- With no upset a message does what its receiver does with it, and requests that waited follow. -/
theorem deliver_pump (hu : s.upsets = []) : deliver s m = pumpAll (handle (s.received m) m) := by
  unfold deliver
  rw [linkError_clean hu]
  exact if_neg Bool.false_ne_true

theorem pumpAll_nothing (h : s.coh.waiting = []) : pumpAll s = s := by
  unfold pumpAll
  rw [h]
  rfl

theorem deliver_eq (hu : s.upsets = []) (hw : (handle (s.received m) m).coh.waiting = []) : deliver s m = handle (s.received m) m :=
  (deliver_pump hu).trans (pumpAll_nothing hw)

/-- A message that a cluster sends as it receives one. -/
def Msg.reply (m : Msg) (kind : MsgKind) (dst : Nat) (data : List Byte) (other : Nat) : Msg :=
  { kind := kind, src := m.dst, dst := dst, unit := m.unit, gr := m.gr, data := data, other := other }

/-- The copy that a forward takes: a dirty one, or the first. -/
def State.servedCopy (s : State) (m : Msg) : Option L1Line :=
  ((s.linesIn m.dst m.unit).find? fun l => l.st.dirty).orElse fun _ => (s.linesIn m.dst m.unit).head?

/-- What a forward for a shared copy leaves of a line of the cluster. -/
def L1Line.lent (m : Msg) (x : L1Line) : L1Line :=
  if x.cluster == m.dst && x.base == m.unit then { x with st := match x.st with
    | .M => .O
    | .E => .S
    | y => y } else x

theorem clusterForward_fwdX {l : L1Line} (hk : m.kind = .fwdX) (hl : s.servedCopy m = some l) :
    clusterForward s m =
      (((s.dropLines m.dst m.unit).dropThrough m).sendMsg (m.reply .dataM m.other l.data 0)).sendMsg (m.reply .fwdAck m.src [] 0) := by
  unfold State.servedCopy at hl
  unfold clusterForward
  simp only [hk, hl, if_true]
  rfl

theorem clusterForward_fwdS {l : L1Line} (hk : m.kind = .fwdS) (hl : s.servedCopy m = some l) :
    clusterForward s m = (({ s with coh := { s.coh with l1 := s.coh.l1.map (L1Line.lent m) } } : State).sendMsg
      (m.reply .dataS m.other l.data 0)).sendMsg (m.reply .fwdAck m.src [] (if l.st.dirty then 4 else 1)) := by
  unfold State.servedCopy at hl
  unfold clusterForward
  simp only [hk, hl, reduceCtorEq, if_false]
  rfl

/-- With no copy a forward is answered from the write-back buffer, or with NoData. -/
theorem clusterForward_none (hl : s.servedCopy m = none) : clusterForward s m =
    match (if m.kind = .fwdX then s.dropThrough m else s).buffered m.dst m.unit with
    | some b => ((if m.kind = .fwdX then s.dropThrough m else s).sendMsg
        (m.reply (if m.kind = .fwdX then .dataM else .dataS) m.other b.data 0)).sendMsg (m.reply .fwdAck m.src [] 0)
    | none => (if m.kind = .fwdX then s.dropThrough m else s).sendMsg (m.reply .noData m.src [] 0) := by
  unfold State.servedCopy at hl
  unfold clusterForward
  simp only [hl]
  rfl

theorem clusterForward_waiting (s : State) (m : Msg) : (clusterForward s m).coh.waiting = s.coh.waiting := by
  unfold clusterForward
  extract_lets back give ls
  split
  · split
    · exact dropThrough_waiting (s.dropLines m.dst m.unit) m
    · rfl
  · next s' _ _ =>
    have hs : s'.coh.waiting = s.coh.waiting := by
      unfold s'
      split
      · exact dropThrough_waiting s m
      · rfl
    clear_value s'
    split <;> exact hs

/-- The clusters after a forward are those after what was translated through the unit has gone. -/
theorem clusterForward_clusters (hk : m.kind = .fwdX) :
    (clusterForward s m).clusters = ((s.dropLines m.dst m.unit).dropThrough m).clusters ∨ (clusterForward s m).clusters = (s.dropThrough m).clusters := by
  unfold clusterForward
  extract_lets back give ls
  split
  · rw [if_pos hk]
    exact .inl rfl
  · next s' _ _ =>
    have hs : s' = s.dropThrough m := if_pos hk
    clear_value s'
    subst hs
    split <;> exact .inr rfl

section
variable (hd : m.dst < 128) (hu : s.upsets = []) (hw : s.coh.waiting = [])
include hd hu hw

theorem deliver_inv (hk : m.kind = .inv) : deliver s m = clusterInv (s.received m) m := by
  have h : handle (s.received m) m = clusterInv (s.received m) m := by
    unfold handle
    simp only [hd, if_true, hk]
  refine (deliver_eq hu ?_).trans h
  rw [h]
  exact (dropThrough_waiting ((s.received m).dropLines m.dst m.unit) m).trans hw

theorem deliver_forward (hk : m.kind = .fwdS ∨ m.kind = .fwdX) : deliver s m = clusterForward (s.received m) m := by
  have h : handle (s.received m) m = clusterForward (s.received m) m := by
    unfold handle
    rcases hk with hk | hk <;> simp only [hd, if_true, hk]
  refine (deliver_eq hu ?_).trans h
  rw [h]
  exact (clusterForward_waiting _ m).trans hw

theorem deliver_data (hk : m.kind = .dataS ∨ m.kind = .dataE ∨ m.kind = .dataM) : deliver s m = clusterData (s.received m) m := by
  have h : handle (s.received m) m = clusterData (s.received m) m := by
    unfold handle
    rcases hk with hk | hk | hk <;> simp only [hd, if_true, hk]
  refine (deliver_eq hu ?_).trans h
  rw [h]
  unfold clusterData
  extract_lets st s1 mine l
  have h1 : s1.coh.waiting = s.coh.waiting := by
    unfold s1
    split <;> rfl
  exact h1.trans hw

theorem deliver_ackM (hk : m.kind = .ackM) : deliver s m = clusterAck (s.received m) m := by
  have h : handle (s.received m) m = clusterAck (s.received m) m := by
    unfold handle
    simp only [hd, if_true, hk]
  refine (deliver_eq hu ?_).trans h
  rw [h]
  unfold clusterAck
  split <;> exact hw

theorem deliver_wbAck (hk : m.kind = .wbAck) : deliver s m = freeBuffer (s.received m) m.dst m.unit := by
  have h : handle (s.received m) m = freeBuffer (s.received m) m.dst m.unit := by
    unfold handle
    simp only [hd, if_true, hk]
  refine (deliver_eq hu ?_).trans h
  rw [h]
  exact hw

end


/-! ### The messages' rows -/

theorem messageTo_next {kind : MsgKind} {u : Nat} (h : s.nextMsg (fun y => y.kind == kind && y.dst == m.dst) u = some m) :
    messageTo kind m.dst u s = .next (applyOrs (deliver s m)) := by
  unfold messageTo
  rw [h]

theorem messageFrom_next {kind : MsgKind} {u : Nat} (h : s.nextMsg (fun y => y.kind == kind && y.src == m.src) u = some m) :
    messageFrom kind m.src u s = .next (applyOrs (deliver s m)) := by
  unfold messageFrom
  rw [h]

theorem request_next {kind : MsgKind} {u : Nat} (h : s.nextMsg (fun y => y.kind == kind && y.src == m.src) u = some m) :
    request kind m.src u s = .next (applyOrs (deliver s m)) := by
  unfold request
  rw [h]

/-- No delivery changes a weft or a team. -/
theorem delivered_threads (s : State) (m : Msg) : (applyOrs (deliver s m)).wefts = s.wefts ∧ (applyOrs (deliver s m)).teams = s.teams := by
  obtain ⟨hw, ht, -⟩ := applyOrs_threads (deliver_threads m (threads_refl s))
  exact ⟨hw, ht⟩

/-! ### What the messages leave in the caches -/

/-- The lines of other clusters and units. -/
def State.otherLines (s : State) (m : Msg) : List L1Line := s.coh.l1.filter fun l => !(l.cluster == m.dst && l.base == m.unit)

theorem servedCopy_eq_none (h : s.linesIn m.dst m.unit = []) : s.servedCopy m = none := by
  unfold State.servedCopy
  rw [h]
  rfl

/-- A line of the cluster that was lent is neither in M nor in E. -/
theorem lent_shared {x : L1Line} (h : (x.lent m).cluster = m.dst) (hb : (x.lent m).base = m.unit) : (x.lent m).st ≠ .M ∧ (x.lent m).st ≠ .E := by
  unfold L1Line.lent at h hb ⊢
  split at h
  · next hx =>
    rw [if_pos hx]
    cases x.st <;> exact ⟨CohState.noConfusion, CohState.noConfusion⟩
  · next hx =>
    rw [if_neg hx] at hb
    exact absurd (by rw [h, hb]; simp) hx

/-- The state that a grant with data gives its line. -/
def MsgKind.granted : MsgKind → CohState
  | .dataE => .E
  | .dataM => .M
  | _ => .S

/-- The line that a grant fills: the one that the cluster asked for, or one of its first core. -/
def State.filledLine (s : State) (m : Msg) (st : CohState) : L1Line :=
  match s.coh.asks.find? fun a => a.cluster == m.dst && decide (m.unit ≤ a.pa) && decide (a.pa < m.unit + m.gr) with
  | some a => { core := a.core, base := m.unit, gr := m.gr, st := st, data := m.data, ctx := a.ctx, w := a.w, used := s.coh.clock
                va := a.va - BitVec.ofNat 64 (a.pa - m.unit) }
  | none => { core := 8 * m.dst, base := m.unit, gr := m.gr, st := st, data := m.data, va := BitVec.ofNat 64 m.unit }

/-- A grant in S joins the cluster's lines of the unit; any other replaces them. -/
theorem l1_clusterData (s : State) (m : Msg) :
    (clusterData s m).coh.l1 = s.filledLine m m.kind.granted :: if m.kind.granted = .S then s.coh.l1 else s.otherLines m := by
  unfold clusterData
  extract_lets st s1 mine l
  have hst : st = m.kind.granted := by cases hk : m.kind <;> simp only [st, hk, MsgKind.granted]
  have h1 : s1.coh.l1 = if st = .S then s.coh.l1 else s.otherLines m := by
    unfold s1
    split <;> rfl
  have hl : l = s.filledLine m st := by
    have ha : s1.coh.asks = s.coh.asks ∧ s1.coh.clock = s.coh.clock := by
      unfold s1
      split <;> exact ⟨rfl, rfl⟩
    unfold l State.filledLine
    rw [ha.1, ha.2] <;> rfl
  rw [← hst, ← h1, ← hl]


section
variable (hd : m.dst < 128) (hu : s.upsets = []) (hw : s.coh.waiting = [])
include hd hu hw

/-- An Inv drops the copies, and answers with a dirty one's data. -/
theorem inv_delivered (hk : m.kind = .inv) (hun : s.unread m) : (deliver s m).coh.l1 = s.otherLines m ∧ (deliver s m).coh.msgs = s.coh.msgs.erase m
    ++ [m.reply .invAck m.src ((((s.linesIn m.dst m.unit).find? fun l => l.st.dirty).map fun l => l.data).getD []) 0] := by
  have hdrop : ((s.received m).dropLines m.dst m.unit).dropThrough m = (s.received m).dropLines m.dst m.unit := dropThrough_unread hun
  rw [deliver_inv hd hu hw hk]
  unfold clusterInv
  rw [hdrop]
  exact ⟨rfl, rfl⟩

/-- An Inv or a FwdX without the mark of R109 leaves no translation read in the unit. -/
theorem tlb_delivered (hk : m.kind = .inv ∨ m.kind = .fwdX) (hmark : m.mark = false) {e : TlbEntry} (he : e ∈ ((deliver s m).cluster m.dst).tlb) :
    e.walkedIn m.unit m.gr = false := by
  rcases hk with hk | hk
  · rw [deliver_inv hd hu hw hk] at he
    exact dropThrough_tlb (s := (s.received m).dropLines m.dst m.unit) hmark he
  · rw [deliver_forward hd hu hw (.inr hk)] at he
    unfold State.cluster at he
    rcases clusterForward_clusters (s := s.received m) hk with hc | hc <;> rw [hc] at he <;> exact dropThrough_tlb hmark he

/-- A FwdX hands the data on and drops the copies. -/
theorem fwdX_delivered (hk : m.kind = .fwdX) (hun : s.unread m) {l : L1Line} (hl : s.servedCopy m = some l) :
    (deliver s m).coh.l1 = s.otherLines m
      ∧ (deliver s m).coh.msgs = s.coh.msgs.erase m ++ [m.reply .dataM m.other l.data 0, m.reply .fwdAck m.src [] 0] := by
  have hdrop : ((s.received m).dropLines m.dst m.unit).dropThrough m = (s.received m).dropLines m.dst m.unit := dropThrough_unread hun
  rw [deliver_forward hd hu hw (.inr hk), clusterForward_fwdX (s := s.received m) hk hl, hdrop]
  exact ⟨rfl, List.append_assoc (s.coh.msgs.erase m) _ _⟩

/-- A FwdS hands the data on, and leaves the copies in O or S. -/
theorem fwdS_delivered (hk : m.kind = .fwdS) {l : L1Line} (hl : s.servedCopy m = some l) :
    (deliver s m).coh.msgs = s.coh.msgs.erase m ++ [m.reply .dataS m.other l.data 0, m.reply .fwdAck m.src [] (if l.st.dirty then 4 else 1)]
      ∧ ∀ l' ∈ (deliver s m).linesIn m.dst m.unit, l'.st ≠ .M ∧ l'.st ≠ .E := by
  rw [deliver_forward hd hu hw (.inl hk), clusterForward_fwdS (s := s.received m) hk hl]
  refine ⟨List.append_assoc (s.coh.msgs.erase m) _ _, fun l' hl' => ?_⟩
  obtain ⟨hmem, hin⟩ := List.mem_filter.1 hl'
  obtain ⟨x, -, rfl⟩ := List.mem_map.1 hmem
  simp only [Bool.and_eq_true, beq_iff_eq] at hin
  exact lent_shared hin.1 hin.2

/-- A forward that finds nothing answers NoData. -/
theorem noData_delivered (hk : m.kind = .fwdS ∨ m.kind = .fwdX ∧ s.unread m) (hls : s.linesIn m.dst m.unit = [])
    (hb : s.buffered m.dst m.unit = none) :
    (deliver s m).coh.msgs = s.coh.msgs.erase m ++ [m.reply .noData m.src [] 0] ∧ (deliver s m).coh.l1 = s.coh.l1 := by
  have hnone : (s.received m).servedCopy m = none := servedCopy_eq_none hls
  have hbuf : (s.received m).buffered m.dst m.unit = none := hb
  have hdrop : (if m.kind = .fwdX then (s.received m).dropThrough m else s.received m) = s.received m := by
    rcases hk with hk | ⟨hk, hun⟩
    · exact if_neg (by rw [hk]; exact MsgKind.noConfusion)
    · exact (if_pos hk).trans (dropThrough_unread hun)
  rw [deliver_forward hd hu hw (hk.imp_right And.left), clusterForward_none hnone, hdrop, hbuf]
  exact ⟨rfl, rfl⟩

/-- Ack(M) leaves the cluster one copy, in M. -/
theorem ackM_delivered (hk : m.kind = .ackM) {l : L1Line} (hl : (s.linesIn m.dst m.unit).head? = some l) :
    (deliver s m).linesIn m.dst m.unit = [{ l with st := .M }] := by
  have hl' : ((s.received m).linesIn m.dst m.unit).head? = some l := hl
  have hin : (l.cluster == m.dst && l.base == m.unit) = true := (List.mem_filter.1 (List.mem_of_head? hl)).2
  have hrest : (s.otherLines m).filter (fun l => l.cluster == m.dst && l.base == m.unit) = [] :=
    List.filter_eq_nil_iff.2 fun x hx => Bool.eq_false_iff.1 (Bool.not_eq_true' _ ▸ (List.mem_filter.1 hx).2)
  rw [deliver_ackM hd hu hw hk]
  unfold clusterAck
  rw [hl']
  exact (List.filter_cons_of_pos (a := { l with st := .M }) (p := fun l : L1Line => l.cluster == m.dst && l.base == m.unit) hin).trans
    (congrArg (({ l with st := .M } : L1Line) :: ·) hrest)

end

/-- Settles O50: the rows deliver the next message, and each kind by what its receiver does with it. -/
theorem messagesDelivered : Obligations.MessagesDelivered := by
  unfold Obligations.MessagesDelivered
  intro u m s next rest mk ls dirty others step to_ from_ near unread t mine filled
  have hto : ∀ kind x, exec x s = messageTo kind m.dst u s → to_ kind x := fun kind x hx hk hn => by
    subst hk
    exact ⟨hx.trans (messageTo_next hn), delivered_threads s m⟩
  have hfrom : ∀ kind x, exec x s = messageFrom kind m.src u s → from_ kind x := fun kind x hx hk hn => by
    subst hk
    exact ⟨hx.trans (messageFrom_next hn), delivered_threads s m⟩
  have hreq : ∀ kind x, exec x s = request kind m.src u s → from_ kind x := fun kind x hx hk hn => by
    subst hk
    exact ⟨hx.trans (request_next hn), delivered_threads s m⟩
  refine ⟨⟨hto _ _ rfl, hto _ _ rfl, hto _ _ rfl, hto _ _ rfl, hto _ _ rfl, hto _ _ rfl, hto _ _ rfl, hto _ _ rfl, hfrom _ _ rfl, hfrom _ _ rfl,
    hfrom _ _ rfl, hreq _ _ rfl, hreq _ _ rfl, hreq _ _ rfl, hreq _ _ rfl⟩, ?_, ?_, ?_, ?_, ?_, ?_, ?_, ?_, ?_, ?_⟩
  · rintro ⟨hk, hd, hw, hu⟩ hun
    exact inv_delivered hd hu hw hk hun
  · rintro (⟨hk, hd, hw, hu⟩ | ⟨hk, hd, hw, hu⟩) hmark e he
    · exact tlb_delivered hd hu hw (.inl hk) hmark he
    · exact tlb_delivered hd hu hw (.inr hk) hmark he
  · rintro ⟨hk, hd, hw, hu⟩ hun l hl
    exact fwdX_delivered hd hu hw hk hun hl
  · rintro ⟨hk, hd, hw, hu⟩ l hl
    exact fwdS_delivered hd hu hw hk hl
  · rintro (⟨hk, hd, hw, hu⟩ | ⟨⟨hk, hd, hw, hu⟩, hun⟩) hls hb
    · exact noData_delivered hd hu hw (.inl hk) hls hb
    · exact noData_delivered hd hu hw (.inr ⟨hk, hun⟩) hls hb
  · rintro ⟨hk, hd, hw, hu⟩
    rw [show t = _ from deliver_data hd hu hw (.inl hk), l1_clusterData, hk]
    rfl
  · rintro ⟨hk, hd, hw, hu⟩
    rw [show t = _ from deliver_data hd hu hw (.inr (.inl hk)), l1_clusterData, hk]
    rfl
  · rintro ⟨hk, hd, hw, hu⟩
    rw [show t = _ from deliver_data hd hu hw (.inr (.inr hk)), l1_clusterData, hk]
    rfl
  · rintro ⟨hk, hd, hw, hu⟩ l hl
    exact ackM_delivered hd hu hw hk hl
  · rintro ⟨hk, hd, hw, hu⟩
    rw [show t = _ from deliver_wbAck hd hu hw hk]
    rfl

end Sys2Proof.Machine

namespace Sys2Proof.Machine

variable {s : State} {m : Msg} {t : Txn}

/-! ## Requests that a home grants (04_dram_l2 R85 to R92, 05_translation R121) -/

/-! ### The directory -/

/-- An entry of the directory that is taken away has every unit in I. -/
theorem DirEntry.unitDir_of_free {e : DirEntry} {u : Nat} (h : e.free = true) (hd : (e.unitDir u).state = .I → e.unitDir u = {}) : e.unitDir u = {} := by
  by_contra hne
  have hmem : (u, e.unitDir u) ∈ e.units := SMap.mem_of_get_ne hne
  have hst := List.all_eq_true.1 h _ hmem
  exact hne (hd (by simpa using hst))

/-- The entry of a block after it is put there. -/
theorem dirFind_dirPut (s : State) (e : DirEntry) : (s.dirPut e).dirFind e.die e.block = if e.free then none else some e := by
  have hdir : (s.dirPut e).coh.dir = if e.free then s.coh.dir.filter fun x => !(x.die == e.die && x.block == e.block)
    else e :: s.coh.dir.filter fun x => !(x.die == e.die && x.block == e.block) := rfl
  unfold State.dirFind
  rw [hdir]
  split
  · exact List.find?_eq_none.2 fun x hx => Bool.eq_false_iff.1 (Bool.not_eq_true' _ ▸ (List.mem_filter.1 hx).2)
  · exact List.find?_cons_of_pos (by simp)

/-- What a directory holds of a unit after it is put there: no unit without holders is put in any other form than the empty one. -/
theorem unitDir_setUnitDir {u gr die : Nat} {d : UnitDir} (s : State) (hd : d.state = .I → d = {}) : (s.setUnitDir die u gr d).unitDir die u = d := by
  unfold State.setUnitDir
  extract_lets e
  have hkey : e.die = die ∧ e.block = u / 512 := by
    unfold e
    cases hf : s.dirFind die (u / 512) with
    | none => exact ⟨rfl, rfl⟩
    | some x => simpa using List.find?_some hf
  have hu : (e.setUnit u d).unitDir u = d := SMap.get_set_same _ _ _ _
  have hfind : (s.dirPut (e.setUnit u d)).dirFind die (u / 512) = if (e.setUnit u d).free then none else some (e.setUnit u d) := by
    rw [← hkey.1, ← hkey.2]
    exact dirFind_dirPut s (e.setUnit u d)
  unfold State.unitDir
  rw [hfind]
  cases hfree : (e.setUnit u d).free with
  | true => exact (hu ▸ DirEntry.unitDir_of_free hfree (hu.symm ▸ hd) : d = {}).symm
  | false => exact hu

/-- A unit with holders has an entry. -/
theorem dirFind_isSome {die u : Nat} (h : s.unitDir die u ≠ {}) : (s.dirFind die (u / 512)).isSome = true := by
  unfold State.unitDir at h
  cases hf : s.dirFind die (u / 512) with
  | none =>
    rw [hf] at h
    exact absurd rfl h
  | some e => rfl

/-! ### Grants -/

/-- One holder of a unit. -/
def UnitDir.sole (st : CohState) (q : Nat) : UnitDir := { state := st, owner := some q, presence := bitAt q }

/-- A state that differs from another by messages sent and by what the directory holds of a unit, and not in memory, in a weft or in the requests
that wait. -/
def State.Answers (s : State) (msgs : List Msg) (s' : State) : Prop :=
  s'.coh.msgs = s.coh.msgs ++ msgs ∧ s'.mem = s.mem ∧ s'.wefts = s.wefts ∧ s'.coh.waiting = s.coh.waiting

def State.Grants (s : State) (msgs : List Msg) (u : Nat) (d : UnitDir) (s' : State) : Prop := s.Answers msgs s' ∧ s'.unitDir 4 u = d

theorem grants_setUnitDir {msgs : List Msg} {s' : State} (h : s.Answers msgs s') (u gr : Nat) {d : UnitDir} (hd : d.state = .I → d = {}) :
    s.Grants msgs u d (s'.setUnitDir 4 u gr d) := ⟨h, unitDir_setUnitDir s' hd⟩

/-- With no upset home memory's bytes are granted. -/
theorem grantMemory_answers (hu : s.upsets = []) (t : Txn) (k : MsgKind) : s.Answers [grantMsg t k (s.readMem t.unit t.gr)] (grantMemory s t k) := by
  obtain ⟨l, hl⟩ := l2Read_clean hu t.unit t.gr
  unfold grantMemory
  rw [hl]
  exact ⟨rfl, rfl, rfl, rfl⟩

/-- A home's transaction ends: a read of a unit that no one holds grants E, and a write M; an upgrade is acknowledged. -/
theorem completeHome_rdS (hu : s.upsets = []) (hk : t.req = .rdS) (hp : (s.unitDir 4 t.unit).presence = 0) :
    ∃ s', completeHome s t = s'.frameTouch t.unit false
      ∧ s.Grants [grantMsg t .dataE (s.readMem t.unit t.gr)] t.unit (.sole .E (numberAt 4 (s.homeDie t.unit) t.from_)) s' := by
  unfold completeHome
  simp only [hk, hp, if_true]
  exact ⟨_, rfl, grants_setUnitDir (grantMemory_answers hu t .dataE) _ _ nofun⟩

/-- The grant of a home that answers a write. -/
def State.homeData (s : State) (t : Txn) : Msg :=
  { kind := .dataM, src := homeAgent, dst := t.from_, unit := t.unit, gr := t.gr, data := s.readMem t.unit t.gr }

theorem completeHome_rdX (hu : s.upsets = []) (hn : t.node = 4) (hk : t.req = .rdX) :
    ∃ s', completeHome s t = s'.frameTouch t.unit true
      ∧ s.Grants [s.homeData t] t.unit (.sole .M (numberAt 4 (s.homeDie t.unit) t.from_)) s' := by
  have hg : grantMsg t .dataM (s.readMem t.unit t.gr) = s.homeData t := by
    unfold grantMsg
    rw [hn]
    rfl
  unfold completeHome
  simp only [hk]
  exact ⟨_, rfl, grants_setUnitDir (hg ▸ grantMemory_answers hu t .dataM) _ _ nofun⟩

theorem completeHome_upg (hk : t.req = .upg) :
    ∃ s', completeHome s t = s'.frameTouch t.unit true
      ∧ s.Grants [grantMsg t .ackM []] t.unit (.sole .M (numberAt 4 (s.homeDie t.unit) t.from_)) s' := by
  unfold completeHome
  simp only [hk]
  exact ⟨_, rfl, grants_setUnitDir (s' := (s.dropTxn t).sendMsg (grantMsg t .ackM [])) ⟨rfl, rfl, rfl, rfl⟩ _ _ nofun⟩

/-- A transaction of a home with no InvAck due and no forward to send ends. -/
theorem openTxn_home (hn : t.node = 4) : openTxn s t [] none = completeHome s { t with acks := [], fwdTo := none } := by
  unfold openTxn advance
  rw [if_neg (by simp)]
  exact if_pos hn

/-! ### A request arrives at the home -/

/-- The request that a cluster makes of the home of its die. -/
def State.homeRequest (s : State) (kind : MsgKind) (c u : Nat) : Msg :=
  { kind := kind, src := c, dst := homeAgent, unit := u, gr := s.askGrain c u, other := u }

/-- The transaction that it opens there. -/
def State.homeTxn (s : State) (kind : MsgKind) (c u : Nat) : Txn :=
  { node := 4, unit := u, gr := s.askGrain c u, req := kind, from_ := c, other := u }

/-- The grain of a request is that of the block's entry, where it has one (R86). -/
theorem askGrain_of_dirFind {c u : Nat} {e : DirEntry} (h : s.dirFind 4 (u / 512) = some e) : s.askGrain c u = e.grain := by
  unfold State.askGrain State.grainAt
  rw [h]

theorem atGrain_homeRequest {kind : MsgKind} {c u : Nat} (hg : u % s.askGrain c u = 0) :
    s.atGrain (s.homeRequest kind c u) = s.homeRequest kind c u := by
  unfold State.atGrain
  split
  · show (match s.dirFind 4 (u / 512) with
      | some e => { s.homeRequest kind c u with unit := unitBase u e.grain, gr := e.grain }
      | none => s.homeRequest kind c u) = _
    cases hf : s.dirFind 4 (u / 512) with
    | none => rfl
    | some e =>
      rw [askGrain_of_dirFind hf] at hg
      have hb : unitBase u e.grain = u := Nat.div_mul_cancel (Nat.dvd_of_mod_eq_zero hg)
      show { s.homeRequest kind c u with unit := unitBase u e.grain, gr := e.grain } = s.homeRequest kind c u
      unfold State.homeRequest
      rw [hb, askGrain_of_dirFind hf]
  · rfl

/-- A request for a unit that is not busy is taken up at once, where the unit's set has room. -/
theorem arriveMsg_home (hu : s.upsets = []) (hm : m.dst = homeAgent) (hp : m.kind.isProbe = false) (hg : s.atGrain m = m)
    (hb : s.nodeBusy 4 m.unit = false) (hr : s.needsRoom m = false) : arriveMsg s m = acceptHome s m := by
  have hn : nodeOf m.dst = 4 := if_pos hm
  have ho : s.grainOpen m = false := by
    unfold State.grainOpen
    rw [hn]
    rfl
  have ha : s.acceptable m = true := by
    unfold State.acceptable
    simp only [hn, hp, hg, hb, ho, hr]
    rfl
  unfold arriveMsg takeUp
  simp only [ha, nodeError_clean hu, hp, hr, hn, hg, if_true, ne_eq, not_true_eq_false, if_false, Bool.false_eq_true]

/-- The presence bits of one cluster of the home's die name that cluster alone. -/
theorem present_bitAt {st : CohState} {o : Option Nat} {c h : Nat} (hc : c / 32 = h) :
    ({ state := st, owner := o, presence := bitAt (c % 32) } : UnitDir).present 4 h = [c] := by
  have hbits : ∀ q < 32, ((List.range 35).filter fun i => (bitAt q).getLsbD i) = [q] := by decide
  have hq : c % 32 < 32 := Nat.mod_lt _ (by decide)
  unfold UnitDir.present
  rw [hbits _ hq]
  show [agentOf 4 h (c % 32)] = [c]
  unfold agentOf
  rw [if_neg (by decide), if_pos hq, ← hc, Nat.div_add_mod]

theorem present_empty (n h : Nat) : ({} : UnitDir).present n h = [] := by
  have hbits : ((List.range 35).filter fun i => (0 : Dword).getLsbD i) = [] := by decide
  exact congrArg (List.map (agentOf n h)) hbits

theorem numberAt_cluster {c h : Nat} (hc : c < 128) : numberAt 4 h c = c % 32 := by
  unfold numberAt
  rw [if_neg (by decide), if_pos hc]

section
variable {c u : Nat} (hc : c < 128) (hu : s.upsets = [])
include hc hu

theorem acceptHome_rdS (hd : s.unitDir 4 u = {}) : ∃ s', acceptHome s (s.homeRequest .rdS c u) = s'.frameTouch u false
    ∧ s.Grants [{ kind := .dataE, src := homeAgent, dst := c, unit := u, gr := s.askGrain c u, data := s.readMem u (s.askGrain c u) }] u
      (.sole .E (c % 32)) s' := by
  obtain ⟨s', hs, hg⟩ := completeHome_rdS (t := s.homeTxn .rdS c u) hu rfl
    (congrArg UnitDir.presence hd)
  refine ⟨s', Eq.trans ?_ hs, numberAt_cluster (h := s.homeDie u) hc ▸ hg⟩
  refine Eq.trans ?_ (openTxn_home (t := s.homeTxn .rdS c u) rfl)
  unfold acceptHome State.homeRequest
  simp only [hd, reduceCtorEq, if_false, false_and, if_true]
  rfl

theorem acceptHome_rdX (hd : s.unitDir 4 u = {}) : ∃ s', acceptHome s (s.homeRequest .rdX c u) = s'.frameTouch u true
    ∧ s.Grants [{ kind := .dataM, src := homeAgent, dst := c, unit := u, gr := s.askGrain c u, data := s.readMem u (s.askGrain c u) }] u
      (.sole .M (c % 32)) s' := by
  obtain ⟨s', hs, hg⟩ := completeHome_rdX (t := s.homeTxn .rdX c u) hu rfl rfl
  refine ⟨s', Eq.trans ?_ hs, numberAt_cluster (h := s.homeDie u) hc ▸ hg⟩
  refine Eq.trans ?_ (openTxn_home (t := s.homeTxn .rdX c u) rfl)
  unfold acceptHome State.homeRequest
  simp only [hd, reduceCtorEq, if_false, false_and, if_true, present_empty]
  rfl

omit hu in
theorem acceptHome_upg (hh : c / 32 = s.homeDie u) (hd : s.unitDir 4 u = { state := .S, presence := bitAt (c % 32) }) :
    ∃ s', acceptHome s (s.homeRequest .upg c u) = s'.frameTouch u true
      ∧ s.Grants [{ kind := .ackM, src := homeAgent, dst := c, unit := u, gr := s.askGrain c u, data := [] }] u (.sole .M (c % 32)) s' := by
  obtain ⟨s', hs, hg⟩ := completeHome_upg (s := s) (t := s.homeTxn .upg c u) rfl
  refine ⟨s', Eq.trans ?_ hs, numberAt_cluster (h := s.homeDie u) hc ▸ hg⟩
  refine Eq.trans ?_ (openTxn_home (t := s.homeTxn .upg c u) rfl)
  have hbit : (bitAt (c % 32)).getLsbD (c % 32) = true := by
    have h : ∀ q < 32, (bitAt q).getLsbD q = true := by decide
    exact h _ (Nat.mod_lt _ (by decide))
  have hself : ([c].filter fun a => a != c) = [] := by simp
  unfold acceptHome State.homeRequest
  simp only [hd, reduceCtorEq, if_false, false_and, if_true, present_bitAt hh, numberAt_cluster hc, hbit, hself]
  rfl

end

/-! ### What a cluster asks of an idle unit -/

/-- A cluster of the home's die may ask for a unit on which nothing is under way. -/
def State.IdleFor (s : State) (kind : MsgKind) (c u : Nat) : Prop :=
  (∀ x ∈ s.coh.msgs, x.unit ≠ u) ∧ c < 128 ∧ c / 32 = s.homeDie u ∧ u % s.askGrain c u = 0 ∧ s.running = true
    ∧ s.exists u (s.askGrain c u) = true ∧ s.outstanding c u = false ∧ s.mayAsk kind c u = true ∧ s.nodeBusy 4 u = false ∧ s.coh.waiting = [] ∧ s.upsets = []

theorem nextMsg_none {u : Nat} (h : ∀ x ∈ s.coh.msgs, x.unit ≠ u) (p : Msg → Bool) : s.nextMsg p u = none := by
  unfold State.nextMsg
  rw [List.find?_eq_none.2 fun x hx => by simp [h x hx]]

theorem serverOf_home {c u : Nat} (h : c / 32 = s.homeDie u) : s.serverOf c u = homeAgent := if_pos h

section
variable {kind : MsgKind} {c u : Nat} (h : s.IdleFor kind c u)
include h

/-- A request without data goes to the home, which takes it up. -/
theorem request_idle (hk : kind = .rdS ∨ kind = .rdX ∨ kind = .upg) (hr : (s.dirFind 4 (u / 512)).isSome = true ∨ s.setFull 4 (u / 512) = false) :
    request kind c u s = .next (applyOrs (pumpAll (acceptHome s (s.homeRequest kind c u)))) := by
  obtain ⟨hm, hc, hh, hg, hrun, hex, hout, hmay, hb, hw, hu⟩ := h
  have hwbd : kind ≠ .wbD := by rcases hk with rfl | rfl | rfl <;> exact MsgKind.noConfusion
  have hp : kind.isProbe = false := by rcases hk with rfl | rfl | rfl <;> rfl
  have hroom : s.needsRoom (s.homeRequest kind c u) = false := by
    show (kind != .wbD && !kind.isProbe && (s.dirFind 4 (u / 512)).isNone && s.setFull 4 (u / 512)) = false
    rcases hr with hr | hr
    · rw [Option.isSome_iff_exists] at hr
      obtain ⟨e, he⟩ := hr
      simp [he]
    · simp [hr]
  have ha := arriveMsg_home (m := s.homeRequest kind c u) hu rfl hp (atGrain_homeRequest hg) hb hroom
  unfold request
  rw [nextMsg_none hm]
  dsimp only
  rw [if_neg (by simp [hc, hg, hrun, hex, hout, hmay]), if_neg hwbd, serverOf_home hh]
  exact congrArg (fun x => Host.Outcome.next (applyOrs (pumpAll x))) ha

/-- What the home grants then is the outcome of the request. -/
theorem request_granted (hk : kind = .rdS ∨ kind = .rdX ∨ kind = .upg)
    (hr : (s.dirFind 4 (u / 512)).isSome = true ∨ s.setFull 4 (u / 512) = false) {own : Bool} {msgs : List Msg} {d : UnitDir}
    (ha : ∃ s', acceptHome s (s.homeRequest kind c u) = s'.frameTouch u own ∧ s.Grants msgs u d s') :
    ∃ s' : State, request kind c u s = .next (applyOrs (s'.frameTouch u own)) ∧ s'.unitDir 4 u = d ∧ s'.mem = s.mem ∧ s'.wefts = s.wefts
      ∧ s'.coh.msgs = s.coh.msgs ++ msgs := by
  obtain ⟨s', hs, ⟨hmsgs, hmem, hwefts, hwait⟩, hdir⟩ := ha
  obtain ⟨-, -, -, -, -, -, -, -, -, hw, -⟩ := id h
  refine ⟨s', ?_, hdir, hmem, hwefts, hmsgs⟩
  rw [request_idle h hk hr, hs, pumpAll_nothing (s := s'.frameTouch u own) (hwait.trans hw)]

end

/-! ### Write-backs -/

/-- A message that is sent on a unit with none in flight is the next there. -/
theorem nextMsg_sent {p : Msg → Bool} (h : ∀ x ∈ s.coh.msgs, x.unit ≠ m.unit) (hp : p m = true) (hk : m.kind = .wbD) :
    (s.sendMsg m).nextMsg p m.unit = some m := by
  have hfind : ∀ q : Msg → Bool, (∀ x, q x = true → x.unit = m.unit) → q m = true → (s.sendMsg m).coh.msgs.find? q = some m := fun q hq hm => by
    show (s.coh.msgs ++ [m]).find? q = some m
    rw [List.find?_append, List.find?_eq_none.2 fun x hx hqx => h x hx (hq x hqx), List.find?_cons_of_pos hm]
    rfl
  have hinv : (s.sendMsg m).invWaits m = false := by
    unfold State.invWaits
    rw [hk]
    rfl
  unfold State.nextMsg State.deliverable
  rw [hfind (fun x => p x && x.unit == m.unit) (fun x hx => by simpa using (Bool.and_eq_true_iff.1 hx).2) (by simp [hp])]
  dsimp only
  rw [hfind (fun x => x.dst == m.dst && x.unit == m.unit) (fun x hx => by simpa using (Bool.and_eq_true_iff.1 hx).2) (by simp), hinv]
  simp

/-- A message sent last and delivered at once leaves the messages as they were. -/
theorem received_sendMsg (h : ∀ x ∈ s.coh.msgs, x.unit ≠ m.unit) : (s.sendMsg m).received m = s := by
  have he : (s.coh.msgs ++ [m]).erase m = s.coh.msgs := by
    rw [List.erase_append_right _ fun hm => h m hm rfl]
    simp
  unfold State.received State.sendMsg
  dsimp only
  rw [he]

theorem homePut_frame (s : State) (pa : Nat) (bs : List Byte) :
    ∃ l, s.homePut pa bs = { s with coh := { s.coh with l2 := l }, mem := (s.writeMem pa bs).mem } := by
  obtain ⟨l, hl⟩ := l2Write_l2 s pa bs.length
  exact ⟨l, by unfold State.homePut; rw [hl]; rfl⟩

/-- The home applies the write-back of a unit's owner in M, and acknowledges it. -/
theorem applyWbD_owner {q : Nat} (hd : s.unitDir 4 m.unit = .sole .M q) (hq : numberAt 4 (s.homeDie m.unit) m.src = q) :
    (applyWbD s m).unitDir 4 m.unit = {} ∧ (applyWbD s m).coh.l1 = s.coh.l1 ∧ (applyWbD s m).mem = (s.writeMem m.unit m.data).mem
      ∧ (applyWbD s m).wefts = s.wefts ∧ (applyWbD s m).coh.waiting = s.coh.waiting
      ∧ (applyWbD s m).coh.msgs = s.coh.msgs ++ [{ kind := .wbAck, src := homeAgent, dst := m.src, unit := m.unit, gr := m.gr }] := by
  obtain ⟨l, hl⟩ := homePut_frame ((s.consume m.src m.unit).sendMsg { kind := .wbAck, src := homeAgent, dst := m.src, unit := m.unit, gr := m.gr })
    m.unit m.data
  have ha : applyWbD s m = (((s.consume m.src m.unit).sendMsg { kind := .wbAck, src := homeAgent, dst := m.src, unit := m.unit, gr := m.gr }).homePut
      m.unit m.data).setUnitDir 4 m.unit m.gr {} := by
    unfold applyWbD
    simp only [hd, hq, UnitDir.sole, ne_eq, not_true_eq_false, if_false, reduceCtorEq]
  rw [ha]
  refine ⟨unitDir_setUnitDir _ fun _ => rfl, ?_⟩
  rw [hl]
  exact ⟨rfl, rfl, rfl, rfl, rfl⟩

/-- The write-back that the cluster sends. -/
def L1Line.writeBack (l : L1Line) (c u : Nat) : Msg := { kind := .wbD, src := c, dst := homeAgent, unit := u, gr := l.gr, data := l.data }

/-- The state in which it is in flight, but for the message. -/
def State.shed (s : State) (c u : Nat) (l : L1Line) : State :=
  { s.dropLines c u with coh := { (s.dropLines c u).coh with wbuf := s.coh.wbuf ++ [l.writeBack c u] } }

section
variable {c u : Nat} (h : s.IdleFor .wbD c u) {l : L1Line} (hl : ((s.linesIn c u).find? fun l => l.st.dirty) = some l)
include h hl

theorem sendWbD_shed : (s.dropLines c u).sendWbD l = (s.shed c u l).sendMsg (l.writeBack c u) := by
  obtain ⟨-, -, hh, -⟩ := id h
  have hin := (List.mem_filter.1 (List.mem_of_find?_eq_some hl)).2
  rw [Bool.and_eq_true, beq_iff_eq, beq_iff_eq] at hin
  have hs : (s.dropLines c u).serverOf c u = homeAgent := serverOf_home hh
  unfold State.sendWbD
  dsimp only
  rw [hin.1, hin.2, hs]
  rfl

/-- A write-back goes to the home, which takes it up. -/
theorem request_wbD : request .wbD c u s = .next (applyOrs (pumpAll (applyWbD (s.shed c u l) (l.writeBack c u)))) := by
  have hsend := sendWbD_shed h hl
  obtain ⟨hm, hc, hh, hg, hrun, hex, hout, hmay, hb, hw, hu⟩ := h
  have hnext : ((s.shed c u l).sendMsg (l.writeBack c u)).nextMsg (fun y => y.kind == .wbD && y.src == c) u = some (l.writeBack c u) :=
    nextMsg_sent (s := s.shed c u l) (m := l.writeBack c u) hm (by simp [L1Line.writeBack]) rfl
  have hrec : ((s.shed c u l).sendMsg (l.writeBack c u)).received (l.writeBack c u) = s.shed c u l := received_sendMsg hm
  have hhandle : handle (s.shed c u l) (l.writeBack c u) = applyWbD (s.shed c u l) (l.writeBack c u) :=
    arriveMsg_home (s := s.shed c u l) (m := l.writeBack c u) hu rfl rfl rfl hb rfl
  unfold request
  rw [nextMsg_none hm]
  dsimp only
  rw [if_neg (by simp [hc, hg, hrun, hex, hout, hmay]), if_pos rfl, hl]
  dsimp only
  rw [hsend, hnext]
  dsimp only
  rw [deliver_pump (s := (s.shed c u l).sendMsg (l.writeBack c u)) hu, hrec, hhandle]

end

/-! ### Answers that end a transaction of the home -/

section
variable (hr : t.req = .rdX)
include hr

/-- The owner has served the forward: the requester owns the unit. -/
theorem nodeFwdAck_rdX (hf : (s.findTxn fun t => t.node == 4 && t.unit == m.unit && t.fwd && t.fwdTo == some m.src) = some t) :
    ∃ s', nodeFwdAck s 4 m = s'.frameTouch t.unit true
      ∧ s.Grants [] t.unit (.sole .M (numberAt 4 (s.homeDie t.unit) t.from_)) s' := by
  refine ⟨(s.dropTxn t).setUnitDir 4 t.unit t.gr (.sole .M (numberAt 4 (s.homeDie t.unit) t.from_)), ?_,
    grants_setUnitDir (s' := s.dropTxn t) ⟨(List.append_nil _).symm, rfl, rfl, rfl⟩ _ _ nofun⟩
  unfold nodeFwdAck
  rw [hf]
  simp only [hr, if_true]
  rfl

section
variable (hu : s.upsets = [])
include hu

/-- The forward found nothing: home memory serves the request. -/
theorem nodeNoData_rdX (hf : (s.findTxn fun t => t.node == 4 && t.unit == m.unit && t.fwd && t.fwdTo == some m.src) = some t) :
    ∃ s', nodeNoData s 4 m = s'.frameTouch t.unit true
      ∧ s.Grants [s.homeData t] t.unit (.sole .M (numberAt 4 (s.homeDie t.unit) t.from_)) s' := by
  have ht := List.find?_some hf
  simp only [Bool.and_eq_true, beq_iff_eq] at ht
  obtain ⟨⟨⟨hnode, -⟩, -⟩, -⟩ := ht
  unfold nodeNoData
  rw [hf]
  exact completeHome_rdX (s := s.setUnitDir 4 t.unit t.gr ((s.unitDir 4 t.unit).without (numberAt 4 (s.homeDie t.unit) m.src)))
    (t := { t with fwd := false, fwdTo := none }) hu hnode hr

/-- A transaction whose answers have all come ends. -/
theorem advance_rdX (hnode : t.node = 4) (ha : t.acks = []) (hw : t.fwdTo = none) : ∃ s', advance s t = s'.frameTouch t.unit true
    ∧ s.Grants [s.homeData t] t.unit (.sole .M (numberAt 4 (s.homeDie t.unit) t.from_)) s' := by
  unfold advance
  simp only [ha, hw, hnode, List.isEmpty_nil, Bool.not_true, Bool.false_eq_true, if_false, if_true]
  exact completeHome_rdX hu hnode hr

/-- The last InvAck has come. -/
theorem nodeInvAck_rdX (hf : (s.findTxn fun t => t.node == 4 && t.unit == m.unit && t.acks.contains m.src) = some t) (ha : t.acks = [m.src])
    (hw : t.fwdTo = none) :
    ∃ s', nodeInvAck s 4 m = s'.frameTouch t.unit true
      ∧ s.Grants [s.homeData t] t.unit (.sole .M (numberAt 4 (s.homeDie t.unit) t.from_)) s' := by
  have ht := List.find?_some hf
  simp only [Bool.and_eq_true, beq_iff_eq] at ht
  obtain ⟨⟨hnode, -⟩, -⟩ := ht
  unfold nodeInvAck
  rw [hf]
  simp only [ha, hr, reduceCtorEq, false_and, if_false]
  exact advance_rdX (s := s.setUnitDir 4 t.unit t.gr _) (t := { t with req := .rdX, acks := [m.src].erase m.src }) rfl hu hnode (List.erase_cons_head _ _) hw

end
end

/-- A transaction that a home's search for a unit finds is of that unit. -/
theorem unit_of_findTxn {p : Txn → Bool} {u : Nat} (hp : ∀ x, p x = true → x.unit = u) (hf : s.findTxn p = some t) : t.unit = u :=
  hp t (List.find?_some hf)

theorem handle_fwdAck (hm : m.dst = homeAgent) (hk : m.kind = .fwdAck) : handle s m = nodeFwdAck s 4 m := by
  unfold handle
  simp only [hm, hk]
  rfl

theorem handle_noData (hm : m.dst = homeAgent) (hk : m.kind = .noData) : handle s m = nodeNoData s 4 m := by
  unfold handle
  simp only [hm, hk]
  rfl

theorem handle_invAck (hm : m.dst = homeAgent) (hk : m.kind = .invAck) : handle s m = nodeInvAck s 4 m := by
  unfold handle
  simp only [hm, hk]
  rfl

/-- What an answer leaves that ends its transaction. -/
theorem answer_granted {x : Instr} {own : Bool} {msgs : List Msg} {u : Nat} {d : UnitDir} (hu : s.upsets = []) (hw : s.coh.waiting = [])
    (hn : s.nextMsg (fun y => y.kind == m.kind && y.src == m.src) m.unit = some m) (hx : exec x s = messageFrom m.kind m.src m.unit s)
    (h : ∃ s', handle (s.received m) m = s'.frameTouch u own ∧ (s.received m).Grants msgs u d s') :
    ∃ s' : State, exec x s = .next (applyOrs (s'.frameTouch u own)) ∧ s'.coh.msgs = s.coh.msgs.erase m ++ msgs ∧ s'.unitDir 4 u = d
      ∧ s'.mem = s.mem ∧ s'.wefts = s.wefts := by
  obtain ⟨s', hs, ⟨hmsgs, hmem, hwefts, hwait⟩, hdir⟩ := h
  refine ⟨s', ?_, hmsgs, hdir, hmem, hwefts⟩
  rw [hx, messageFrom_next hn, deliver_pump hu, hs, pumpAll_nothing (s := s'.frameTouch u own) (hwait.trans hw)]

/-- Settles O51: the home takes each request up at once, and each answer ends its transaction. -/
theorem requestsGranted : Obligations.RequestsGranted := by
  unfold Obligations.RequestsGranted
  refine ⟨?_, ?_⟩
  · intro c u s gr q idle room sole grant
    refine ⟨fun hi hr hd => ?_, fun hi hr hd => ?_, fun hi hd => ?_, fun hi hd l hl => ?_⟩
    · obtain ⟨-, hc, -, -, -, -, -, -, -, -, hu⟩ := id hi
      exact request_granted hi (.inl rfl) hr (acceptHome_rdS hc hu hd)
    · obtain ⟨-, hc, -, -, -, -, -, -, -, -, hu⟩ := id hi
      exact request_granted hi (.inr (.inl rfl)) hr (acceptHome_rdX hc hu hd)
    · obtain ⟨-, hc, hh, -⟩ := id hi
      have hne : s.unitDir 4 u ≠ {} := by
        rw [hd]
        exact fun h => CohState.noConfusion (congrArg UnitDir.state h)
      exact request_granted hi (.inr (.inr rfl)) (.inl (dirFind_isSome hne)) (acceptHome_upg hc hh hd)
    · obtain ⟨-, hc, -, -, -, -, -, -, -, hw, hu⟩ := id hi
      obtain ⟨hdir, hl1, hmem, hwefts, hwait, hmsgs⟩ := applyWbD_owner (s := s.shed c u l) (m := l.writeBack c u) hd
        (numberAt_cluster (h := s.homeDie u) hc)
      refine ⟨_, (request_wbD hi hl).trans (by rw [pumpAll_nothing (hwait.trans hw)]), hdir, ?_, hmem, hwefts, hmsgs⟩
      unfold State.linesIn
      rw [hl1]
      exact List.filter_eq_nil_iff.2 fun x hx => Bool.eq_false_iff.1 (Bool.not_eq_true' _ ▸ (List.mem_filter.1 hx).2)
  · intro m t s h q won next data hr
    refine ⟨fun hk ⟨hn, hm, hw, hu⟩ hf => ?_, fun hk ⟨hn, hm, hw, hu⟩ hf => ?_, fun hk ⟨hn, hm, hw, hu⟩ hf ha hfw => ?_⟩
    · have hunit := unit_of_findTxn (fun x hx => by simp at hx; exact hx.1.1.2) hf
      have := nodeFwdAck_rdX (s := s.received m) hr hf
      rw [← handle_fwdAck hm hk, hunit] at this
      exact answer_granted hu hw hn (by rw [hk]; rfl) this
    · have hunit := unit_of_findTxn (fun x hx => by simp at hx; exact hx.1.1.2) hf
      have := nodeNoData_rdX (s := s.received m) hr hu hf
      unfold State.homeData at this
      rw [← handle_noData hm hk, hunit] at this
      exact answer_granted hu hw hn (by rw [hk]; rfl) this
    · have hunit := unit_of_findTxn (fun x hx => by simp at hx; exact hx.1.2) hf
      have := nodeInvAck_rdX (s := s.received m) hr hu hf ha hfw
      unfold State.homeData at this
      rw [← handle_invAck hm hk, hunit] at this
      exact answer_granted hu hw hn (by rw [hk]; rfl) this

end Sys2Proof.Machine

namespace Sys2Proof.Machine

variable {s o : State} {core ctx pa gr n k : Nat} {va : Dword} {bs : List Byte}

/-! ## Reads of home memory change no byte (04_dram_l2 R77, R84) -/

theorem foldl_mem_snd {α β : Type} {f : β × State → α → β × State} (hf : ∀ r x, (f r x).2.mem = r.2.mem) :
    ∀ (l : List α) (r : β × State), (l.foldl f r).2.mem = r.2.mem
  | [], _ => rfl
  | x :: l, r => (foldl_mem_snd hf l (f r x)).trans (hf r x)

theorem mem_of_onlyWindow {t : State} (h : OnlyWindow s t) : t.mem = s.mem := by
  obtain ⟨_, _, rfl⟩ := h
  rfl

theorem goViral_mem (s : State) (c a : Nat) : (s.goViral c a).mem = s.mem := by
  unfold State.goViral
  split <;> rfl

theorem countCorrected_mem (p : Nat) (s : State) : (countCorrected p s).mem = s.mem := by
  simp only [countCorrected]
  split
  · rfl
  · exact mem_of_onlyWindow (onlyWindow_raise _ _)

theorem readCodeword_mem (c : Nat) (s : State) : (readCodeword c s).2.mem = s.mem := by
  refine foldl_mem_snd (fun r u => ?_) _ _
  cases u with
  | dram a unc =>
    dsimp only
    split
    · rfl
    · split
      · exact goViral_mem _ _ _
      · exact countCorrected_mem _ _
  | _ => rfl

theorem readSector_mem (a : Nat) (s : State) : (readSector a s).2.mem = s.mem := by
  refine foldl_mem_snd (fun r u => ?_) _ _
  cases u with
  | l2 a' unc =>
    dsimp only
    split
    · rfl
    · split
      · exact goViral_mem _ _ _
      · rfl
  | _ => rfl

theorem l2Read_mem (s : State) (pa n : Nat) : (s.l2Read pa n).2.mem = s.mem := by
  unfold State.l2Read
  refine foldl_mem_snd (fun r b => ?_) _ (true, s)
  extract_lets lacks x
  have hx : x.2.mem = r.2.mem := by
    show (if _ then _ else _ : Bool × State).2.mem = _
    split
    · rfl
    · refine foldl_mem_snd (fun y i => ?_) _ (true, r.2)
      show (if _ then _ else _ : Bool × State).2.mem = _
      split
      · exact readCodeword_mem _ _
      · exact readSector_mem _ _
  clear_value x
  split <;> exact hx

/-! ## Uncached accesses of a core (04_dram_l2 R98, R99) -/

/-- A run of bytes of memory, byte by byte. -/
theorem readMem_eq_map (s : State) (pa n : Nat) : s.readMem pa n = (List.range n).map fun i => s.byte (pa + i) := by
  refine List.map_congr_left fun i hi => ?_
  have hin : (decide (pa ≤ pa + i) && decide (pa + i < pa + n)) = true := by
    have := List.mem_range.1 hi
    simp [this]
  exact (SMap.get_filter unlisted s.mem (fun a => decide (pa ≤ a) && decide (a < pa + n)) (pa + i)).trans (if_pos hin)

/-- A write of home memory changes its bytes and no other. -/
theorem byte_homePut (s : State) (pa : Nat) (bs : List Byte) (q : Nat) :
    (s.homePut pa bs).byte q = if pa ≤ q ∧ q < pa + bs.length then bs.getD (q - pa) 0 else s.byte q := by
  have hb : (s.homePut pa bs).byte q = (s.writeMem pa bs).byte q := by
    unfold State.byte State.homePut State.writeMem
    rw [l2Write_mem]
  rw [hb, State.byte_writeMem]
  split
  · next h => exact (List.getD_eq_getElem bs 0 (by omega)).symm
  · rfl

theorem coreWrite_uncached (hl : s.lineAt core ctx va = none) (hs : s.sectorAt core ctx va = none)
    (hm : ((s.noteWriter core pa bs.length).holdRanges core ctx).rangeMode ctx pa = 2) :
    s.coreWrite core ctx va pa gr bs = ((s.noteWriter core pa bs.length).holdRanges core ctx).homePut pa bs := by
  have hl' : (s.noteWriter core pa bs.length).lineAt core ctx va = none := hl
  have hs' : (s.noteWriter core pa bs.length).sectorAt core ctx va = none := hs
  unfold State.coreWrite
  simp only [hl', hs', hm, OfNat.ofNat_ne_zero, OfNat.ofNat_ne_one, if_false]

theorem coreRead_uncached (hl : s.lineAt core ctx va = none) (hs : s.sectorAt core ctx va = none)
    (hm : (s.holdRanges core ctx).rangeMode ctx pa = 2) :
    (s.coreRead core ctx va pa gr n).1 = ((s.holdRanges core ctx).l2Read pa n).2.readMem pa n := by
  unfold State.coreRead
  simp only [hl, hs, hm, OfNat.ofNat_ne_zero, OfNat.ofNat_ne_one, if_false]

/-- An uncached load reads the bytes of home memory. -/
theorem coreRead_uncached_bytes (hl : s.lineAt core ctx va = none) (hs : s.sectorAt core ctx va = none)
    (hm : (s.holdRanges core ctx).rangeMode ctx pa = 2) :
    (s.coreRead core ctx va pa gr n).1 = (List.range n).map fun i => (s.holdRanges core ctx).byte (pa + i) := by
  rw [coreRead_uncached hl hs hm, ← readMem_eq_map]
  unfold State.readMem
  rw [l2Read_mem]

/-! ## A core's store changes no weft and no team -/

theorem fetchOwned_threads (core ctx : Nat) (va : Dword) (pa gr : Nat) (h : o.Threads s) : o.Threads (s.fetchOwned core ctx va pa gr) := by
  unfold State.fetchOwned
  extract_lets c s1 gr' u coh s2 held best
  have h1 : o.Threads s1 := settled_threads _ _ (l1Room_threads _ _ _ h)
  have h2 : o.Threads s2 := dropClusterTranslations_threads _ _ _ h1
  clear_value s1 s2 best
  split
  · exact h1
  · split
    · exact ask_threads _ _ _ _ _ _ _ h2
    · exact ite_threads h2 (ask_threads _ _ _ _ _ _ _ (s := { s2 with coh := { s2.coh with l1 := _ } }) h2)

theorem ncFetch_threads (core ctx : Nat) (va : Dword) (pa : Nat) (h : o.Threads s) : o.Threads (s.ncFetch core ctx va pa) := by
  unfold State.ncFetch
  split
  · exact h
  · exact l2Read_threads _ _ (l1Room_threads _ _ _ h)

theorem holdRanges_threads (core ctx : Nat) (h : o.Threads s) : o.Threads (s.holdRanges core ctx) :=
  ite_threads (fetchShared_threads _ _ _ _ _ (fetchShared_threads _ _ _ _ _ h)) h

theorem storeLine_threads (core ctx : Nat) (va : Dword) (pa gr : Nat) (bs : List Byte) (h : o.Threads s) :
    o.Threads (s.storeLine core ctx va pa gr bs) := by
  unfold State.storeLine
  extract_lets s1 l1
  have h1 : o.Threads s1 := fetchOwned_threads core ctx va pa gr h
  clear_value s1
  exact h1

theorem storeSector_threads (core ctx : Nat) (va : Dword) (pa : Nat) (bs : List Byte) (h : o.Threads s) :
    o.Threads (s.storeSector core ctx va pa bs) := by
  unfold State.storeSector
  extract_lets s1 mark
  have h1 : o.Threads s1 := ncFetch_threads core ctx va pa h
  clear_value s1
  exact h1

theorem noteWriter_threads (core pa n : Nat) (h : o.Threads s) : o.Threads (s.noteWriter core pa n) := h

theorem coreWrite_threads (core ctx : Nat) (va : Dword) (pa gr : Nat) (bs : List Byte) (h : o.Threads s) :
    o.Threads (s.coreWrite core ctx va pa gr bs) := by
  have h1 := noteWriter_threads core pa bs.length h
  simp only [State.coreWrite]
  generalize s.noteWriter core pa bs.length = s1 at h1
  have h2 := holdRanges_threads core ctx h1
  generalize s1.holdRanges core ctx = s2 at h2
  split
  · exact storeSector_threads _ _ _ _ _ h1
  · split
    · exact storeLine_threads _ _ _ _ _ _ h1
    · exact ite_threads (storeLine_threads _ _ _ _ _ _ h2) (ite_threads (storeSector_threads _ _ _ _ _ h2) (homePut_threads _ _ h2))

end Sys2Proof.Machine

namespace Sys2Proof.Machine

variable {s s' : State} {k : Nat} {e : StoreEntry}

/-! ## Stores enter and reach their order points (07_memory_instructions R146 to R150, R157, 04_dram_l2 R96) -/

theorem exec_storeEntry (k : Nat) (s : State) : exec (.storeEntry k) s = execStoreEntry k s := rfl
theorem exec_storeOrderPoint (k j l : Nat) (s : State) : exec (.storeOrderPoint k j l) s = execStoreOrderPoint k j l s := rfl

/-! ### What leaves the queue -/

theorem dropStore_stores (w : Weft) (q : Nat) (f : Option Nat) : (w.dropStore q f).stores = w.stores.filter fun e => e.seq != q := by
  unfold Weft.dropStore
  cases f <;> rfl

/-- A store that leaves the queue changes nothing else but its completion flag. -/
theorem dropStore_frame (w : Weft) (q : Nat) (f : Option Nat) :
    ∃ fl, w.dropStore q f = { w with stores := w.stores.filter fun e => e.seq != q, flags := fl } := by
  unfold Weft.dropStore
  cases f with
  | none => exact ⟨w.flags, rfl⟩
  | some n => exact ⟨_, rfl⟩

theorem dropStore_flagCount (w : Weft) (q : Nat) (f : Option Nat) (n : Nat) :
    (w.dropStore q f).flagCount n = if f = some n then w.flagCount n - 1 else w.flagCount n := by
  unfold Weft.dropStore
  cases f with
  | none => rfl
  | some m =>
    show SMap.get zeroNat (SMap.set zeroNat w.flags m (w.flagCount m - 1)) n = _
    rw [SMap.get_set]
    by_cases h : n = m
    · rw [if_pos h, if_pos (congrArg some h.symm), h]
    · rw [if_neg h, if_neg fun x => h (Option.some.inj x).symm]
      rfl

/-! ### Entry -/

/-- Of a list that holds one element with a property, no two elements have it. -/
theorem eq_of_countP_one {α : Type} {p : α → Bool} {l : List α} (h : l.countP p = 1) {a b : α} (ha : a ∈ l) (hb : b ∈ l) (hpa : p a = true)
    (hpb : p b = true) : a = b := by
  rw [List.countP_eq_length_filter, List.length_eq_one_iff] at h
  obtain ⟨x, hx⟩ := h
  have hin : ∀ c ∈ l, p c = true → c = x := fun c hc hp => List.mem_singleton.1 (hx ▸ List.mem_filter.2 ⟨hc, hp⟩)
  exact (hin a ha hpa).trans (hin b hb hpb).symm

/-- The weft with a store entered under its number. -/
def Weft.storeEntered (w : Weft) (e : StoreEntry) (born : Nat) (ps : List Piece) : Weft :=
  { w with stores := w.stores.map fun x => if x.seq = e.seq then { x with entered := true, born := born, pieces := ps } else x }

theorem storeEntered_eq {w : Weft} {born : Nat} {ps : List Piece} (h : w.stores.countP (fun x => x.seq = e.seq) = 1) (he : e ∈ w.stores) :
    w.storeEntered e born ps =
      { w with stores := w.stores.map fun x => if x.seq = e.seq then { e with entered := true, born := born, pieces := ps } else x } := by
  have hs : (w.stores.map fun x => if x.seq = e.seq then { x with entered := true, born := born, pieces := ps } else x)
      = w.stores.map fun x => if x.seq = e.seq then { e with entered := true, born := born, pieces := ps } else x := by
    refine List.map_congr_left fun x hx => ?_
    split
    · next hs => rw [eq_of_countP_one h hx he (decide_eq_true hs) (decide_eq_true rfl)]
    · rfl
  unfold Weft.storeEntered
  rw [hs]

section
variable (he : (s.weft k).stores.find? (fun e => !e.entered) = some e)
include he

/-- A store that has been translated in every lane enters, in its place among the accesses of its core. -/
theorem takes_storeEntry {accs : List (Nat × Dword × Nat × Nat)}
    (hx : s.xlateAll (s.coreOf k) (s.ctxOf k) .write ((List.range e.pieces.length).zip (e.pieces.map fun p => p.va)) = .ok (accs, s'))
    (hn : (s.weft k).stores.countP (fun x => x.seq = e.seq) = 1) (hc : s.clear s') :
    ∃ t, Takes (exec (.storeEntry k) s) s t ∧ OnlyWeft k (s'.arrive (s.coreOf k)).2 t
      ∧ t.weft k = { s.weft k with stores := (s.weft k).stores.map fun x => if x.seq = e.seq then
          { e with entered := true, born := (s'.core (s.coreOf k)).arrived, pieces := placedPieces e accs } else x } := by
  have hth := xlateAll_threads hx
  have hw : (s'.arrive (s.coreOf k)).2.weft k = s.weft k := hth.weft k
  let u := (s'.arrive (s.coreOf k)).2.setWeft k
    (((s'.arrive (s.coreOf k)).2.weft k).storeEntered e (s'.core (s.coreOf k)).arrived (placedPieces e accs))
  have hexec : exec (.storeEntry k) s = event s (.ok u) := by
    rw [exec_storeEntry]
    unfold execStoreEntry
    simp only [he, hx]
    rw [hth.coreOf]
    rfl
  refine ⟨u, hexec ▸ takes_event hc, onlyWeft_setWeft_once k _ _, ?_⟩
  rw [State.weft_setWeft_same, hw, storeEntered_eq hn (List.mem_of_find?_eq_some he)]

/-- The weft with a whole store stopped: it leaves the queue, and its records cover no lane. -/
def Weft.storeStopped (w : Weft) (e : StoreEntry) : Weft :=
  { w.dropStore e.seq e.flag with hist := e.hdrs.foldl Hist.clearMask (w.dropStore e.seq e.flag).hist }

omit he in
theorem storeStopped_frame (w : Weft) (e : StoreEntry) :
    ∃ fl h, w.storeStopped e = { w with stores := w.stores.filter fun x => x.seq != e.seq, flags := fl, hist := h } := by
  obtain ⟨fl, hw⟩ := dropStore_frame w e.seq e.flag
  refine ⟨fl, e.hdrs.foldl Hist.clearMask (w.dropStore e.seq e.flag).hist, ?_⟩
  unfold Weft.storeStopped
  rw [hw]

omit he in
/-- With no fence waiting, an imprecise PROT of a store is reported at the store itself. -/
theorem storeProt_eq {w : Weft} (h : w.hold = none) (e : StoreEntry) (lane : Nat) (va : Dword) :
    storeProt w e lane va = { cause := .prot, pc := e.pc, ic := e.ic, lane := lane, mask := 0, addr := va, gate := none } := by
  unfold storeProt
  rw [h]
  rfl

omit he in
theorem imprecise_live {x : Impr} {w : Weft} (h : w.status = .live) :
    (s.setWeft k w).imprecise k x = (s.setWeft k w).setWeft k { w with trap := { w.trap with impr := w.trap.impr ++ [x] } } := by
  unfold State.imprecise
  rw [State.weft_setWeft_same]
  exact if_pos h

/-- A lane without permission stops the whole store: an imprecise PROT. -/
theorem storeEntry_prot {n : Nat} {va : Dword}
    (hx : s.xlateAll (s.coreOf k) (s.ctxOf k) .write ((List.range e.pieces.length).zip (e.pieces.map fun p => p.va)) = .error (.prot, n, va))
    (hl : (s.weft k).status = .live) (hh : (s.weft k).hold = none) :
    ∃ t, exec (.storeEntry k) s = .next t ∧ OnlyWeft k s t
      ∧ (t.weft k).stores = (s.weft k).stores.filter (fun x => x.seq != e.seq) ∧ (t.weft k).regs = (s.weft k).regs
      ∧ (t.weft k).flow = (s.weft k).flow ∧ ∃ x, (t.weft k).trap = { (s.weft k).trap with impr := (s.weft k).trap.impr ++ [x] }
        ∧ x.cause = .prot ∧ x.pc = e.pc ∧ x.ic = e.ic ∧ x.addr = va ∧ x.gate = none := by
  obtain ⟨fl, h, hw⟩ := storeStopped_frame (s.weft k) e
  have hexec : exec (.storeEntry k) s = .next ((s.setWeft k ((s.weft k).storeStopped e)).imprecise k
      (storeProt ((s.weft k).storeStopped e) e ((e.pieces[n]?.map fun p => p.lane).getD 0) va)) := by
    rw [exec_storeEntry]
    unfold execStoreEntry
    simp only [he, hx]
    rfl
  rw [hw, imprecise_live (w := { s.weft k with stores := _, flags := fl, hist := h }) hl,
    storeProt_eq (w := { s.weft k with stores := _, flags := fl, hist := h }) hh] at hexec
  refine ⟨_, hexec, onlyWeft_setWeft k s _ _, ?_⟩
  rw [State.weft_setWeft_same]
  exact ⟨rfl, rfl, rfl, _, rfl, rfl, rfl, rfl, rfl, rfl⟩

end

/-! ### Order points -/

theorem State.Threads.ctx {o : State} (h : o.Threads s) (k : Nat) : s.ctxOf k = o.ctxOf k := by
  unfold State.ctxOf State.teamOfWeft
  rw [h.team]

/-- Pieces are written by the weft's core, which their writes leave where it is. -/
theorem foldl_coreWrite {o : State} (k : Nat) (l : List Piece) (h : o.Threads s) :
    l.foldl (fun s q => s.coreWrite (s.coreOf k) (s.ctxOf k) q.va q.pa q.gr q.data) s
      = l.foldl (fun s q => s.coreWrite (o.coreOf k) (o.ctxOf k) q.va q.pa q.gr q.data) s := by
  induction l generalizing s with
  | nil => rw [List.foldl_nil, List.foldl_nil]
  | cons q l ih =>
    have hq := ih (coreWrite_threads (o.coreOf k) (o.ctxOf k) q.va q.pa q.gr q.data h)
    rw [List.foldl_cons, List.foldl_cons, h.coreOf, h.ctx]
    exact hq

theorem foldl_coreWrite_threads {o : State} (core ctx : Nat) (l : List Piece) (h : o.Threads s) :
    o.Threads (l.foldl (fun s q => s.coreWrite core ctx q.va q.pa q.gr q.data) s) :=
  foldl_threads (fun _ _ h => coreWrite_threads _ _ _ _ _ _ h) l h

/-- The pieces of a store after some have been performed. -/
def StoreEntry.after (e : StoreEntry) (now : List Piece) : List Piece := e.pieces.map fun q => if now.contains q then { q with done := true } else q

/-- The stack with the old bytes of pieces in their records. -/
def Hist.withOlds (h : Hist) (olds : List (Piece × List Word)) : Hist :=
  olds.foldl (fun (h : Hist) x => match x.1.hist with
    | some at_ => h.patch at_ x.2
    | none => h) h

/-- Pieces with no record leave the stack as it was. -/
theorem withOlds_none (h : Hist) : ∀ (olds : List (Piece × List Word)), (∀ x ∈ olds, x.1.hist = none) → h.withOlds olds = h
  | [], _ => rfl
  | x :: l, hn => by
    have ih := withOlds_none h l fun y hy => hn y (List.mem_cons_of_mem _ hy)
    unfold Hist.withOlds at ih ⊢
    rw [List.foldl_cons]
    simp only [hn x List.mem_cons_self]
    exact ih

/-- The weft once pieces of a store are done: the store leaves the queue when none is left. -/
def Weft.storeAfter (w : Weft) (e : StoreEntry) (ps : List Piece) : Weft :=
  if ps.all fun q => q.done then w.dropStore e.seq e.flag
  else { w with stores := w.stores.map fun x => if x.seq = e.seq then { x with pieces := ps } else x }

theorem storeAfter_frame (w : Weft) (e : StoreEntry) (ps : List Piece) : ∃ st fl, w.storeAfter e ps = { w with stores := st, flags := fl } := by
  unfold Weft.storeAfter
  split
  · obtain ⟨fl, h⟩ := dropStore_frame w e.seq e.flag
    exact ⟨_, fl, h⟩
  · exact ⟨_, w.flags, rfl⟩

theorem storeAfter_stores (w : Weft) (e : StoreEntry) (ps : List Piece) :
    if ps.all fun q => q.done then (w.storeAfter e ps).stores = w.stores.filter fun x => x.seq != e.seq
    else (w.storeAfter e ps).stores = w.stores.map fun x => if x.seq = e.seq then { x with pieces := ps } else x := by
  unfold Weft.storeAfter
  split
  · exact dropStore_stores _ _ _
  · rfl

theorem storeAfter_flagCount (w : Weft) (e : StoreEntry) (ps : List Piece) (n : Nat) :
    (w.storeAfter e ps).flagCount n = if (ps.all fun q => q.done) ∧ e.flag = some n then w.flagCount n - 1 else w.flagCount n := by
  unfold Weft.storeAfter
  split
  · next h =>
    rw [dropStore_flagCount]
    simp only [h, true_and]
  · next h =>
    rw [if_neg fun x => h x.1]
    rfl

theorem finishPieces_eq (s : State) (k : Nat) (e : StoreEntry) (now : List Piece) (f : Piece → List Word) :
    finishPieces s k e (now.map fun p => (p, f p)) = s.setWeft k
      (({ s.weft k with hist := (s.weft k).hist.withOlds (now.map fun p => (p, f p)) } : Weft).storeAfter e (e.after now)) := by
  have hps : (e.pieces.map fun p => if (now.map fun p => (p, f p)).any (fun x => x.1 == p) then { p with done := true } else p) = e.after now := by
    refine List.map_congr_left fun p _ => ?_
    have hin : (now.map fun p => (p, f p)).any (fun x => x.1 == p) = now.contains p := by
      rw [List.any_map, Bool.eq_iff_iff, List.any_eq_true, List.contains_iff_mem]
      simp
    rw [hin]
  unfold finishPieces
  simp only [hps]
  rfl

/-- The pieces of a store that are written at the order point of one of them. -/
def StoreEntry.unitOf (e : StoreEntry) (p : Piece) : List Piece := e.pieces.filter fun q => !q.done && sameUnit q.pa q.gr p.pa p.gr

/-- A store into global memory at its order point: its pieces in the unit are written, with the bytes that they replace recorded. -/
theorem execStoreOrderPoint_global {j l : Nat} {p : Piece} (hj : (s.weft k).stores[j]? = some e)
    (hp : e.pieces.find? (fun q => !q.done && q.lane == l) = some p) (hg : e.spad = false) (he : e.entered = true)
    (hl : (s.weft k).earlierLoads e.seq = []) (hb : s.storeBefore k e.seq p.pa p.gr = false) (ho : s.otherBefore k p.pa p.gr e.born = false) :
    ∃ f : Piece → List Word, execStoreOrderPoint k j l s = event s (.ok (finishPieces
      ((e.unitOf p).foldl (fun s q => s.coreWrite (s.coreOf k) (s.ctxOf k) q.va q.pa q.gr q.data) (s.acting k e.seq))
      k e ((e.unitOf p).map fun q => (q, f q)))) := by
  have hth : s.Threads (s.acting k e.seq) := threads_refl s
  rw [foldl_coreWrite k _ hth]
  unfold execStoreOrderPoint
  simp only [hj, hp, hg, Bool.false_eq_true, if_false]
  unfold globalOrderPoint performPieces
  simp only [he, hl, hb, ho, List.isEmpty_nil, Bool.not_true, Bool.or_self, Bool.false_eq_true, if_false]
  exact ⟨_, rfl⟩

section
variable {j l : Nat} {p : Piece} (hj : (s.weft k).stores[j]? = some e) (hp : e.pieces.find? (fun q => !q.done && q.lane == l) = some p)
include hj hp

/-- What an order point leaves of the weft, whose core has written the pieces. -/
theorem takes_storeOrderPoint (hg : e.spad = false) (he : e.entered = true) (hl : (s.weft k).earlierLoads e.seq = [])
    (hb : s.storeBefore k e.seq p.pa p.gr = false) (ho : s.otherBefore k p.pa p.gr e.born = false)
    (hs' : s' = (e.unitOf p).foldl (fun s q => s.coreWrite (s.coreOf k) (s.ctxOf k) q.va q.pa q.gr q.data) (s.acting k e.seq))
    (hc : s.clear s') : ∃ t olds, Takes (exec (.storeOrderPoint k j l) s) s t ∧ OnlyWeft k s' t
      ∧ t.weft k = ({ s.weft k with hist := (s.weft k).hist.withOlds olds } : Weft).storeAfter e (e.after (e.unitOf p))
      ∧ ∀ x ∈ olds, x.1 ∈ e.unitOf p := by
  obtain ⟨f, hx⟩ := execStoreOrderPoint_global hj hp hg he hl hb ho
  have hact : s.Threads (s.acting k e.seq) := threads_refl s
  have hth : s.Threads s' := by
    rw [hs', foldl_coreWrite k _ hact]
    exact foldl_coreWrite_threads _ _ _ hact
  rw [← hs', finishPieces_eq, hth.weft] at hx
  refine ⟨_, (e.unitOf p).map fun q => (q, f q), ?_, onlyWeft_setWeft_once k s' _, State.weft_setWeft_same _ _ _, fun x hx => ?_⟩
  · rw [exec_storeOrderPoint, hx]
    exact takes_event hc
  · obtain ⟨q, hq, rfl⟩ := List.mem_map.1 hx
    exact hq

end

/-- Settles O24: entry by `takes_storeEntry` and `storeEntry_prot`, the order point by `takes_storeOrderPoint`, and the uncached range by
`coreWrite_uncached` and `coreRead_uncached_bytes`. -/
theorem storesReachMemory : Obligations.StoresReachMemory := by
  unfold Obligations.StoresReachMemory
  refine ⟨?_, ?_, ?_⟩
  · intro k e s s' accs n va he vas r
    exact ⟨fun hr hn _ hc => takes_storeEntry he hr hn hc, fun hr hl hh => storeEntry_prot he hr hl hh⟩
  · intro k j l e p s hj hp hg he hl hb ho now s' ps hc
    obtain ⟨t, olds, ht, hone, hw, holds⟩ := takes_storeOrderPoint hj hp hg he hl hb ho rfl hc
    obtain ⟨st, fl, hfr⟩ := storeAfter_frame { s.weft k with hist := (s.weft k).hist.withOlds olds } e ps
    have hw' : t.weft k = { s.weft k with hist := (s.weft k).hist.withOlds olds, stores := st, flags := fl } := hw.trans hfr
    refine ⟨t, ht, hone, by rw [hw'], by rw [hw'], ?_, fun n => ?_, fun hn => ?_⟩
    · rw [hw]
      exact storeAfter_stores _ e ps
    · rw [hw]
      exact storeAfter_flagCount _ e ps n
    · rw [hw']
      exact congrArg Hist.words (withOlds_none _ _ fun x hx => hn x.1 (holds x hx))
  · intro s core ctx va pa gr n bs hl hs s1 s2
    refine ⟨fun hm q => ?_, fun hm => coreRead_uncached_bytes hl hs hm⟩
    rw [coreWrite_uncached hl hs hm]
    exact byte_homePut _ _ _ _

end Sys2Proof.Machine

/-!
# Registers that a host writes

What O59 needs: what the writes of the translation, image-pool and queue registers leave of the window, and what a host's post does to its queue.
-/

namespace Sys2Proof.Machine

variable {s : State} {off lo n : Nat} {m v : Dword}

theorem exec_translationConfigWrite (off : Nat) (v : Dword) (s : State) :
    exec (.translationConfigWrite off v) s = execTranslationConfigWrite off v s := rfl
theorem exec_imagePoolWrite (off : Nat) (v : Dword) (s : State) : exec (.imagePoolWrite off v) s = execImagePoolWrite off v s := rfl
theorem exec_qcfgWrite (q : Nat) (v : Dword) (s : State) : exec (.qcfgWrite q v) s = execQcfgWrite q v s := rfl
theorem exec_qbaseWrite (q : Nat) (v : Dword) (s : State) : exec (.qbaseWrite q v) s = execQbaseWrite q v s := rfl
theorem exec_qpost (q bytes : Nat) (r : BitVec 512) (s : State) : exec (.qpost q bytes r) s = execQpost q bytes r s := rfl

/-! ## One register is written -/

/-- Nothing but the register at an offset differs. -/
def OnlyReg (s : State) (off : Nat) (t : State) : Prop := t = { s with mgmt := t.mgmt } ∧ ∀ o, o ≠ off → t.reg o = s.reg o

theorem onlyReg_setReg (s : State) (off : Nat) (v : Dword) : OnlyReg s off (s.setReg off v) := ⟨rfl, fun _ h => State.reg_setReg_ne s v h⟩

/-- A register whose written value a mask selects takes a field that lies in the mask from that value. -/
theorem field_putMasked (hm : bitsOf m lo n = 2 ^ n - 1) : (s.putMasked off m v).field off lo n = bitsOf v lo n := by
  unfold State.field State.putMasked
  rw [State.reg_setReg_same]
  refine bitsOf_congr fun i h1 h2 => ?_
  have hi : m.getLsbD i = true := by
    have h := testBit_bitsOf m lo n (i - lo)
    rw [hm, Nat.testBit_two_pow_sub_one, Nat.add_sub_cancel' h1, decide_eq_true (show i - lo < n by omega)] at h
    exact h.symm
  simp [hi]

/-- A step that writes a register through a mask: it takes effect on a field in the mask, and on no other register. -/
theorem writes_putMasked {x : Instr} (hx : exec x s = .next (s.putMasked off m v)) (hm : bitsOf m lo n = 2 ^ n - 1) :
    ∃ t, exec x s = .next t ∧ OnlyReg s off t ∧ t.field off lo n = bitsOf v lo n :=
  ⟨_, hx, onlyReg_setReg _ _ _, field_putMasked hm⟩

/-- A step that sets an error bit. -/
theorem refused_setBit {x : Instr} {i : Nat} (hi : i < 64) (hx : exec x s = .next (s.setBit off i)) :
    ∃ t, exec x s = .next t ∧ OnlyReg s off t ∧ (t.reg off).getLsbD i = true := by
  refine ⟨_, hx, onlyReg_setReg _ _ _, ?_⟩
  rw [s.getLsbD_setBit i hi]
  simp

/-! ## Translation registers (05_translation R123) -/

/-- XCTXB, XCTXN and FTBASE, with the masks of their fields: written only while no context has a task. -/
def guardedRegs : List (Nat × Dword) := [(0x2000, 0x000FFFFFFFFFF000), (0x2008, 0x1FFF), (0x2010, 0x000FFFFFFFFFC000)]

theorem exists_mask_guardedRegs (h : off ∈ [0x2000, 0x2008, 0x2010]) : ∃ m, (off, m) ∈ guardedRegs := by
  obtain ⟨⟨_, m⟩, hm, rfl⟩ := List.exists_of_mem_map (f := Prod.fst) (l := guardedRegs) h
  exact ⟨m, hm⟩

/-- The registers of the sweeper and of its cold queue, with the masks of their fields: written at any time. -/
def sweeperRegs : List (Nat × Dword) := [(0x2018, 0xFFFFFFFF01), (0x2020, 0x000FFFFFFFFFF01F), (0x2028, 0xFFFFFFFF)]

theorem exec_translationConfigWrite_guarded (h : (off, m) ∈ guardedRegs) (v : Dword) (s : State) :
    exec (.translationConfigWrite off v) s = .next (if s.anyTask then s.setBit xstat 0 else s.putMasked off m v) := by
  simp only [guardedRegs, List.mem_cons, Prod.mk.injEq, List.not_mem_nil, or_false] at h
  obtain ⟨rfl, rfl⟩ | ⟨rfl, rfl⟩ | ⟨rfl, rfl⟩ := h <;> rfl

theorem exec_translationConfigWrite_sweeper (h : (off, m) ∈ sweeperRegs) (v : Dword) (s : State) :
    exec (.translationConfigWrite off v) s = .next (s.putMasked off m v) := by
  simp only [sweeperRegs, List.mem_cons, Prod.mk.injEq, List.not_mem_nil, or_false] at h
  obtain ⟨rfl, rfl⟩ | ⟨rfl, rfl⟩ | ⟨rfl, rfl⟩ := h <;> rfl

theorem translationConfigWrite_free (h : (off, m) ∈ guardedRegs) (hm : bitsOf m lo n = 2 ^ n - 1) (ht : s.anyTask = false) :
    ∃ t, exec (.translationConfigWrite off v) s = .next t ∧ OnlyReg s off t ∧ t.field off lo n = bitsOf v lo n := by
  refine writes_putMasked (m := m) ?_ hm
  rw [exec_translationConfigWrite_guarded h, ht, if_neg Bool.false_ne_true]

theorem translationConfigWrite_busy (h : (off, m) ∈ guardedRegs) (ht : s.anyTask = true) :
    ∃ t, exec (.translationConfigWrite off v) s = .next t ∧ OnlyReg s xstat t ∧ (t.reg xstat).getLsbD 0 = true := by
  refine refused_setBit (by decide) ?_
  rw [exec_translationConfigWrite_guarded h, ht, if_pos rfl]

theorem translationConfigWrite_sweeper (h : (off, m) ∈ sweeperRegs) (hm : bitsOf m lo n = 2 ^ n - 1) :
    ∃ t, exec (.translationConfigWrite off v) s = .next t ∧ OnlyReg s off t ∧ t.field off lo n = bitsOf v lo n :=
  writes_putMasked (exec_translationConfigWrite_sweeper h v s) hm

/-- XSTAT's bits are cleared by writing ones to them. -/
theorem translationConfigWrite_xstat (v : Dword) (s : State) : ∃ t, exec (.translationConfigWrite xstat v) s = .next t ∧ OnlyReg s xstat t
    ∧ t.reg xstat = s.reg xstat &&& ~~~(v &&& 3) :=
  ⟨s.clearOnes xstat 3 v, rfl, onlyReg_setReg _ _ _, State.reg_setReg_same _ _ _⟩

/-! ## The image pool (18_traps R420) -/

theorem anyTask_eq_true : s.anyTask = true ↔ ∃ x ∈ s.teams, x.2.status ≠ .absent := by
  unfold State.anyTask
  simp

theorem execImagePoolWrite_eq (h : off = 0x3000 ∨ off = 0x3008) (v : Dword) (s : State) : execImagePoolWrite off v s =
    .next (if s.anyTask then s.setBit cistat cisCfgErr else (s.setField off 12 40 (bitsOf v 12 40)).notePool) := by
  unfold execImagePoolWrite
  rw [if_neg (by omega), apply_ite Host.Outcome.next]
  rfl

/-- CIBASE or CILEN is written, and CIFREE follows. -/
theorem imagePoolWrite_free (h : off = 0x3000 ∨ off = 0x3008) (ht : s.anyTask = false) : ∃ t, exec (.imagePoolWrite off v) s = .next t
    ∧ t = { s with mgmt := t.mgmt } ∧ t.field off 12 40 = bitsOf v 12 40 := by
  refine ⟨(s.setField off 12 40 (bitsOf v 12 40)).notePool, ?_, rfl, ?_⟩
  · rw [exec_imagePoolWrite, execImagePoolWrite_eq h, ht, if_neg Bool.false_ne_true]
  · unfold State.notePool
    rw [State.field_setField_ne _ _ (by omega), State.field_setField_same _ _ (by decide), Nat.mod_eq_of_lt (bitsOf_lt _ _ _)]

theorem imagePoolWrite_busy (h : off = 0x3000 ∨ off = 0x3008) (ht : s.anyTask = true) : ∃ t, exec (.imagePoolWrite off v) s = .next t
    ∧ OnlyReg s cistat t ∧ (t.reg cistat).getLsbD cisCfgErr = true := by
  refine refused_setBit (by decide) ?_
  rw [exec_imagePoolWrite, execImagePoolWrite_eq h, ht, if_pos rfl]

/-! ## Queue registers (16_scheduling R357) -/

section
variable {q : Nat} (hq : q < 16384)
include hq

theorem qErr_eq (s : State) : s.qErr q = (s.setBit (qhead q) 32).raise evQErr := if_pos hq

/-- Of the registers below the pending bits, the error of a queue changes its QHEAD and MEVT alone. -/
theorem reg_qErr {o : Nat} (ho : o < 0x410000) (hm : o ≠ mevt) (hh : o ≠ qhead q) (s : State) : (s.qErr q).reg o = s.reg o := by
  rw [qErr_eq hq, reg_raise ho hm, s.reg_setBit_ne _ hh]

theorem err_qErr (s : State) : ((s.qErr q).reg (qhead q)).getLsbD 32 = true := by
  have hlt : qhead q < 0x410000 ∧ qhead q ≠ mevt := by
    unfold qhead mevt
    omega
  rw [qErr_eq hq, reg_raise hlt.1 hlt.2, s.getLsbD_setBit _ (by decide)]
  rfl

theorem onlyWindow_qErr (s : State) : OnlyWindow s (s.qErr q) := by
  rw [qErr_eq hq]
  exact (onlyWindow_setField _ _ _ _ _).trans (onlyWindow_raise _ _)

theorem qErr_frame (s : State) : (s.qErr q).coh = s.coh ∧ (s.qErr q).mem = s.mem ∧ (s.qErr q).wefts = s.wefts := by
  obtain ⟨_, _, hf⟩ := onlyWindow_qErr hq s
  rw [hf]
  exact ⟨rfl, rfl, rfl⟩

/-- A step that is refused with the error of a queue: ERR is set, the other registers of the queues stay, and so do memory and the wefts. -/
theorem refused_qErr {x : Instr} (hx : exec x s = .next (s.qErr q)) : ∃ t, exec x s = .next t
    ∧ (∀ o, 0x200000 ≤ o → o < 0x410000 → o ≠ qhead q → t.reg o = s.reg o)
    ∧ (t.reg (qhead q)).getLsbD 32 = true ∧ t.mem = s.mem ∧ t.wefts = s.wefts :=
  ⟨_, hx, fun o h1 h2 h3 => reg_qErr hq h2 (by unfold mevt; omega) h3 s, err_qErr hq s, (qErr_frame hq s).2⟩

end

/-- What an accepted write leaves in QCFG: the fields below bit 25, without EN where LOG2N or DIES may not be enabled. -/
def qcfgValue (v : Dword) : Dword :=
  if bitsOf v 1 4 < 4 ∨ bitsOf v 8 4 = 0 then BitVec.ofNat 64 (bitsOf v 0 25) &&& ~~~(1 : Dword) else BitVec.ofNat 64 (bitsOf v 0 25)

theorem getLsbD_qcfgValue (v : Dword) {i : Nat} (hi : i < 25) :
    (qcfgValue v).getLsbD i = (v.getLsbD i && !(decide (i = 0) && decide (bitsOf v 1 4 < 4 ∨ bitsOf v 8 4 = 0))) := by
  have hv : (BitVec.ofNat 64 (bitsOf v 0 25)).getLsbD i = v.getLsbD i := by
    rw [BitVec.getLsbD_ofNat, testBit_bitsOf, Nat.zero_add, decide_eq_true hi, decide_eq_true (show i < 64 by omega), Bool.true_and, Bool.true_and]
  unfold qcfgValue
  split
  · next hbad => 
    rw [BitVec.getLsbD_and, hv, decide_eq_true hbad, BitVec.getLsbD_not, show (1 : Dword) = 1#64 from rfl, BitVec.getLsbD_one]
    simp [show i < 64 by omega]
  · next hbad => rw [hv, decide_eq_false hbad, Bool.and_false, Bool.not_false, Bool.and_true]

theorem fields_qcfgValue (v : Dword) : bitsOf (qcfgValue v) 1 24 = bitsOf v 1 24 :=
  bitsOf_congr fun i h1 h2 => by
    rw [getLsbD_qcfgValue v (by omega), decide_eq_false (show i ≠ 0 by omega), Bool.false_and, Bool.not_false, Bool.and_true]

theorem en_qcfgValue (v : Dword) : (qcfgValue v).getLsbD 0 = true ↔ v.getLsbD 0 = true ∧ 4 ≤ bitsOf v 1 4 ∧ bitsOf v 8 4 ≠ 0 := by
  rw [getLsbD_qcfgValue v (by decide), Bool.and_eq_true]
  simp

section
variable {q : Nat} (hq : q < 16384)
include hq

theorem execQcfgWrite_eq (v : Dword) (s : State) :
    execQcfgWrite q v s = .next (if s.qEn q = true ∧ v.getLsbD 0 = true then s.qErr q else s.setReg (qcfg q) (qcfgValue v)) := by
  unfold execQcfgWrite
  rw [if_neg (Nat.not_le.2 hq), apply_ite Host.Outcome.next]
  rfl

theorem execQbaseWrite_eq (v : Dword) (s : State) :
    execQbaseWrite q v s = .next (if s.qEn q = true then s.qErr q else s.setField (qbase q) 12 40 (bitsOf v 12 40)) := by
  unfold execQbaseWrite
  rw [if_neg (Nat.not_le.2 hq), apply_ite Host.Outcome.next]

/-- QCFG of an enabled queue is written only with EN 0. -/
theorem qcfgWrite_refused (hen : s.qEn q = true) (hv : v.getLsbD 0 = true) : ∃ t, exec (.qcfgWrite q v) s = .next t
    ∧ t.reg (qcfg q) = s.reg (qcfg q) ∧ (t.reg (qhead q)).getLsbD 32 = true ∧ t.mem = s.mem ∧ t.wefts = s.wefts := by
  have hx : exec (.qcfgWrite q v) s = .next (s.qErr q) := by
    rw [exec_qcfgWrite, execQcfgWrite_eq hq, if_pos ⟨hen, hv⟩]
  obtain ⟨t, ht, hreg, hrest⟩ := refused_qErr hq hx
  exact ⟨t, ht, hreg _ (by unfold qcfg; omega) (by unfold qcfg; omega) (by unfold qcfg qhead; omega), hrest⟩

theorem qcfgWrite_accepted (h : s.qEn q = false ∨ v.getLsbD 0 = false) : ∃ t, exec (.qcfgWrite q v) s = .next t ∧ OnlyReg s (qcfg q) t
    ∧ t.field (qcfg q) 1 24 = bitsOf v 1 24 ∧ (t.qEn q = true ↔ v.getLsbD 0 = true ∧ 4 ≤ bitsOf v 1 4 ∧ bitsOf v 8 4 ≠ 0) := by
  refine ⟨s.setReg (qcfg q) (qcfgValue v), ?_, onlyReg_setReg _ _ _, ?_, ?_⟩
  · have hno : ¬ (s.qEn q = true ∧ v.getLsbD 0 = true) := fun ⟨hen, hv⟩ => by rw [hen, hv] at h; exact h.elim Bool.noConfusion Bool.noConfusion
    rw [exec_qcfgWrite, execQcfgWrite_eq hq, if_neg hno]
  · unfold State.field
    rw [State.reg_setReg_same, fields_qcfgValue]
  · unfold State.qEn
    rw [State.reg_setReg_same, en_qcfgValue]

theorem qbaseWrite_accepted (hen : s.qEn q = false) : ∃ t, exec (.qbaseWrite q v) s = .next t ∧ OnlyReg s (qbase q) t
    ∧ t.field (qbase q) 12 40 = bitsOf v 12 40 := by
  refine ⟨s.setField (qbase q) 12 40 (bitsOf v 12 40), ?_, onlyReg_setReg _ _ _, ?_⟩
  · rw [exec_qbaseWrite, execQbaseWrite_eq hq, hen, if_neg Bool.false_ne_true]
  · rw [State.field_setField_same _ _ (by decide), Nat.mod_eq_of_lt (bitsOf_lt _ _ _)]

theorem qbaseWrite_refused (hen : s.qEn q = true) : ∃ t, exec (.qbaseWrite q v) s = .next t
    ∧ t.reg (qbase q) = s.reg (qbase q) ∧ (t.reg (qhead q)).getLsbD 32 = true ∧ t.mem = s.mem ∧ t.wefts = s.wefts := by
  have hx : exec (.qbaseWrite q v) s = .next (s.qErr q) := by
    rw [exec_qbaseWrite, execQbaseWrite_eq hq, if_pos hen]
  obtain ⟨t, ht, hreg, hrest⟩ := refused_qErr hq hx
  exact ⟨t, ht, hreg _ (by unfold qbase; omega) (by unfold qbase; omega) (by unfold qbase qhead; omega), hrest⟩

end

/-! ## Posts (16_scheduling R358, 04_dram_l2 R80) -/

/-- Nothing waits but this access of a host. -/
def State.holding (s : State) (x : HeldHost) : State := { s with held := [x] }

theorem field_holding (s : State) (x : HeldHost) (off lo n : Nat) : (s.holding x).field off lo n = s.field off lo n := rfl

/-- An access of a host that finds nothing waiting, and that need not wait itself, is performed as it comes. -/
theorem hostAccess_performed {x : HeldHost} {t : State} (hr : s.repairing = false) (hh : s.held = [])
    (hp : performHeld (s.holding x) x = .ok t) (hb : t.coh.blocked = false) :
    s.hostAccess x = .ok { (s.holding x).after t with held := [] } := by
  have hw : s.hostAccess x = serveAll [x] (s.holding x) := by
    unfold State.hostAccess State.serveHeld
    rw [hh, show State.repairing { s with held := [] ++ [x] } = false from hr]
    rfl
  rw [hw]
  unfold serveAll
  rw [hp]
  simp only [hb, Bool.false_and]
  rfl

/-- An access of a host that comes during a repair pause waits. -/
theorem hostAccess_repairing (x : HeldHost) (hr : s.repairing = true) (hv : s.viral = false) :
    s.hostAccess x = .ok { s with held := s.held ++ [x] } := by
  have h : (State.repairing { s with held := s.held ++ [x] } && !State.viral { s with held := s.held ++ [x] }) = true := by
    show (s.repairing && !s.viral) = true
    rw [hr, hv]
    rfl
  exact if_pos h

theorem post_room {q : Nat} (r : BitVec 512) (hen : s.qEn q = true) (hf : s.qFull q = false) : s.post q r = s.qAppend q (leBytes 64 r.toNat) := by
  unfold State.post bitsBytes
  rw [hen, hf, if_neg (by decide)]

theorem post_discarded {q : Nat} (r : BitVec 512) (h : s.qEn q = false ∨ s.qFull q = true) : s.post q r = .ok (s.qErr q) := by
  unfold State.post
  exact if_pos (h.imp_left fun h => by rw [h]; rfl)

/-- An append advances TAIL and touches no weft. -/
theorem qAppend_ok {q : Nat} {bs : List Byte} {s1 : State} (h : s.qAppend q bs = .ok s1) :
    s1.field (qtail q) 0 32 = (s.field (qtail q) 0 32 + 1) % 2 ^ 32 ∧ s1.wefts = s.wefts := by
  unfold State.qAppend at h
  extract_lets t at_ at h
  split at h
  · cases h
  · cases h
    exact ⟨State.field_setField_same _ _ (by decide), (homeWrite_threads at_ bs (threads_refl s)).1⟩

section
variable {q : Nat} (hq : q < 16384)
include hq

theorem exec_qpost_64 (r : BitVec 512) (s : State) : exec (.qpost q 64 r) s = outcomeOf (s.hostAccess (.post q r)) := by
  rw [exec_qpost]
  unfold execQpost
  rw [if_neg (Nat.not_le.2 hq), if_neg (fun h => h rfl)]

theorem exec_qpost_bytes {bytes : Nat} (h : bytes ≠ 64) (r : BitVec 512) (s : State) : exec (.qpost q bytes r) s = .next (s.qErr q) := by
  rw [exec_qpost]
  unfold execQpost
  rw [if_neg (Nat.not_le.2 hq), if_pos h]

/-- The error of a queue meets no error of DRAM and leaves nothing that waits. -/
theorem after_qErr (hc : s.calm) : s.after (s.qErr q) = { s.qErr q with coh := { (s.qErr q).coh with actor := none } } := by
  obtain ⟨hb, -, ho⟩ := hc
  obtain ⟨hcoh, -⟩ := qErr_frame hq s
  have hv : (s.qErr q).viral = s.viral :=
    congrArg (BitVec.getLsbD · 0) (reg_qErr hq (by decide) (by decide) (by unfold qhead; omega) s)
  exact State.after_of_plain hv (hcoh ▸ hb) (hcoh ▸ ho)

variable (r : BitVec 512)

/-- A post to an enabled queue with room. -/
theorem qpost_appended {s1 : State} (hen : s.qEn q = true) (hf : s.qFull q = false) (hh : s.held = []) (hr : s.repairing = false)
    (ha : (s.holding (.post q r)).qAppend q (leBytes 64 r.toNat) = .ok s1) (hb : s1.coh.blocked = false) :
    exec (.qpost q 64 r) s = .next { (s.holding (.post q r)).after s1 with held := [] }
      ∧ s1.field (qtail q) 0 32 = (s.field (qtail q) 0 32 + 1) % 2 ^ 32 ∧ s1.wefts = s.wefts := by
  have hp : performHeld (s.holding (.post q r)) (.post q r) = .ok s1 := (post_room (s := s.holding (.post q r)) r hen hf).trans ha
  obtain ⟨htail, hwefts⟩ := qAppend_ok ha
  rw [field_holding] at htail
  refine ⟨?_, htail, hwefts⟩
  rw [exec_qpost_64 hq, hostAccess_performed hr hh hp hb]
  rfl

theorem qpost_repairing (hr : s.repairing = true) (hv : s.viral = false) :
    exec (.qpost q 64 r) s = .next { s with held := s.held ++ [.post q r] } := by
  rw [exec_qpost_64 hq, hostAccess_repairing _ hr hv]
  rfl

/-- A post that finds the queue full or not enabled. -/
theorem qpost_discarded (h : s.qEn q = false ∨ s.qFull q = true) (hh : s.held = []) (hr : s.repairing = false) (hc : s.calm) :
    ∃ t, exec (.qpost q 64 r) s = .next t ∧ (t.reg (qhead q)).getLsbD 32 = true ∧ t.mem = s.mem ∧ t.wefts = s.wefts := by
  have hp : performHeld (s.holding (.post q r)) (.post q r) = .ok ((s.holding (.post q r)).qErr q) :=
    post_discarded (s := s.holding (.post q r)) r h
  have hc0 : (s.holding (.post q r)).calm := hc
  obtain ⟨hcoh, hmem, hwefts⟩ := qErr_frame hq (s.holding (.post q r))
  refine ⟨{ (s.holding (.post q r)).after ((s.holding (.post q r)).qErr q) with held := [] }, ?_, ?_, ?_, ?_⟩
  · rw [exec_qpost_64 hq, hostAccess_performed hr hh hp (hcoh ▸ hc0.1)]
    rfl
  all_goals rw [after_qErr hq hc0]
  · exact err_qErr hq _
  · exact hmem
  · exact hwefts

end

/-- Settles O59: the writes through masks and their refusals, the equations of QCFG and QBASE, and the posts by `hostAccess_performed`. -/
theorem configurationWrites : Obligations.ConfigurationWrites := by
  unfold Obligations.ConfigurationWrites
  intro q v r s s1 only writes refused
  refine ⟨fun h => ⟨?_, ?_, ?_⟩, fun h off hoff => ?_, ?_, ?_, ?_, translationConfigWrite_xstat v s,
    fun off hoff => ⟨fun h => ?_, fun h => ?_⟩, fun hq => ?_⟩
  · exact translationConfigWrite_free (m := 0x000FFFFFFFFFF000) (by decide) (by decide) h
  · exact translationConfigWrite_free (m := 0x1FFF) (by decide) (by decide) h
  · exact translationConfigWrite_free (m := 0x000FFFFFFFFFC000) (by decide) (by decide) h
  · obtain ⟨m, hm⟩ := exists_mask_guardedRegs hoff
    exact translationConfigWrite_busy hm h
  · exact translationConfigWrite_sweeper (m := 0xFFFFFFFF01) (by decide) (by decide)
  · exact translationConfigWrite_sweeper (m := 0x000FFFFFFFFFF01F) (by decide) (by decide)
  · exact translationConfigWrite_sweeper (m := 0xFFFFFFFF) (by decide) (by decide)
  · refine imagePoolWrite_free hoff (Bool.eq_false_iff.2 fun ht => ?_)
    obtain ⟨x, hx, hne⟩ := anyTask_eq_true.1 ht
    exact hne (h x hx)
  · exact imagePoolWrite_busy hoff (anyTask_eq_true.2 h)
  · refine ⟨qcfgWrite_refused hq, qcfgWrite_accepted hq, qbaseWrite_accepted hq, qbaseWrite_refused hq, ?_, qpost_repairing hq r, fun bytes h => ?_⟩
    · intro s0 hen hf hh hr ha hc
      exact qpost_appended hq r hen hf hh hr ha hc.2
    · by_cases hb : bytes = 64
      · subst hb
        obtain ⟨hno, hh, hr, hc⟩ := h.resolve_left fun hne => hne rfl
        exact qpost_discarded hq r hno hh hr hc
      · obtain ⟨t, ht, -, hrest⟩ := refused_qErr hq (exec_qpost_bytes hq hb r s)
        exact ⟨t, ht, hrest⟩

end Sys2Proof.Machine

/-!
# Cache maintenance, prefetch and scratchpad eviction

What O26 needs: the bodies of CMO leave every weft as it was, and where nothing stops them they retire on what their accesses leave.
-/

namespace Sys2Proof.Machine

/-! ## Accesses of maintenance and prefetch change no weft (07_memory_instructions R160) -/

section

variable {o s : State}

theorem State.Threads.ctxOf {t : State} (h : s.Threads t) (k : Nat) : t.ctxOf k = s.ctxOf k := by
  unfold State.ctxOf State.teamOfWeft
  rw [h.team]

theorem maintain_threads (fn core lo hi : Nat) (h : o.Threads s) : o.Threads (s.maintain fn core lo hi) := by
  have h1 : o.Threads (s.ncFlush core (NcSector.within lo hi) (fn != 2) (fn != 1)) := ncFlush_threads _ _ _ _ h
  exact ite_threads h1 (settled_threads _ _ (shedLines_threads _ h1))

theorem xlate_threads {core ctx pa gr : Nat} {acc : Acc} {va : Dword} {t : State} (h : o.Threads s)
    (hx : s.xlate core ctx acc va = .ok (pa, gr, t)) : o.Threads t := by
  unfold State.xlate at hx
  split at hx
  · cases hx
  · cases hx
    unfold State.through
    split
    · exact touch_threads _ _ _ _ _ h
    · exact h

theorem coreRead_threads (core ctx : Nat) (va : Dword) (pa gr n : Nat) (h : o.Threads s) : o.Threads (s.coreRead core ctx va pa gr n).2 := by
  have h1 := holdRanges_threads core ctx h
  simp only [State.coreRead]
  generalize s.holdRanges core ctx = s1 at h1
  split
  · exact h
  · split
    · exact h
    · split
      · exact fetchShared_threads _ _ _ _ _ h1
      · split
        · exact ncFetch_threads _ _ _ _ h1
        · exact l2Read_threads _ _ h1

theorem fillCode_threads {core ctx : Nat} {va : Dword} {t : State} (h : o.Threads s) (hf : s.fillCode core ctx va = .ok t) : o.Threads t := by
  simp only [State.fillCode] at hf
  split at hf
  · cases hf
  · next hx =>
    cases hf
    exact foldl_threads (fun _ _ h => fetchShared_threads _ _ _ _ _ h) _ (xlate_threads h hx)

theorem tryTo_threads {f : State → State} (h : o.Threads s) (hf : o.Threads (f s)) : o.Threads (tryTo s f) := ite_threads h hf

theorem prefCode_threads (core ctx lo hi : Nat) (h : o.Threads s) : o.Threads (prefCode core ctx lo hi s) := by
  refine foldl_threads (fun s i h => tryTo_threads h ?_) _ h
  split
  · next hf => exact fillCode_threads h hf
  · exact h

theorem prefSectors_threads (fn core ctx : Nat) (q : Nat × Nat × Nat) (h : o.Threads s) : o.Threads (prefSectors fn core ctx q s) := by
  unfold prefSectors
  dsimp only
  split
  · exact h
  · next hx =>
    refine foldl_threads (fun s i h => tryTo_threads h ?_) _ (xlate_threads h hx)
    split
    · exact homeRead_threads _ _ h
    · exact coreRead_threads _ _ _ _ _ _ h

/-- An eviction changes frames, memory and the team's table, and no weft (06_core_memory R138, R139). -/
theorem evictPage_wefts {T P : Nat} {r : Except Stop State} (h : Yields o.Wefts r) : Yields o.Wefts (evictPage T r P) := by
  cases r with
  | error e => trivial
  | ok s =>
    unfold evictPage
    dsimp only
    split
    · exact h
    · exact .ite (modCore_wefts _ _ h) (evict_wefts h)

end

/-! ## CFLUSH, CINV and CCLEAN (07_memory_instructions R160, R161) -/

section

variable {i : Info} {s s1 s2 : State} {body : Ctx → State → Except Stop Eff} {e : Eff} {fn : Nat} {accs : List (Nat × Dword × Nat × Nat)}

/-- A body that leaves every weft as it was retires on the state that it leaves. -/
theorem takes_of_wefts (h : issues i s = true) (hb : body (i.ctx s) s = .ok e) (hf : e.fin = .next) (hw : s.Wefts e.s) (hc : s.clear e.s) :
    ∃ t, Takes (issueMem i body s) s t ∧ Retires i s e.s t :=
  takes_of_ok h hb hf (by rw [hw.weft]; exact KeepsPace.of_regs s.me s.me.regs) hc

/-- The pages of the ranges that the lanes supply, each with its lane. -/
def Info.cmoPages (i : Info) (s : State) : List (Nat × Nat × Nat × Nat) :=
  (cmoRanges (i.ctx s) s.me 32).flatMap fun r => (pagesOf r.2.1 r.2.2).map fun q => (r.1, q)

/-- The runs of physical addresses that translated pages give. -/
def cmoRuns (pages : List (Nat × Nat × Nat × Nat)) (accs : List (Nat × Dword × Nat × Nat)) : List (Nat × Nat) :=
  (pages.zip accs).map fun y => (y.2.2.2.1 + (y.1.2.2.1 - y.1.2.1), y.2.2.2.1 + (y.1.2.2.2 - y.1.2.1))

/-- The state once every run has been maintained in turn. -/
def State.maintainRuns (s : State) (fn core : Nat) (runs : List (Nat × Nat)) : State := runs.foldl (fun t r => t.maintain fn core r.1 r.2) s

theorem maintainRuns_threads {o : State} (fn core : Nat) (runs : List (Nat × Nat)) (h : o.Threads s) : o.Threads (s.maintainRuns fn core runs) :=
  foldl_threads (fun _ r h => maintain_threads _ _ r.1 r.2 h) _ h

section

variable {pages : List (Nat × Nat × Nat × Nat)} (hp : i.cmoPages s = pages)
  (hx : s.xlateAll (s.coreOf s.cur) (s.ctxOf s.cur) .maint (pages.map fun q => (q.1, BitVec.ofNat 64 q.2.1)) = .ok (accs, s1))
  (hr : ∀ r ∈ cmoRuns pages accs, s1.storesMeet s.cur r.1 r.2 = false ∧ (s.member s.cur = 0 ∨ s1.segMeets s.cur r.1 r.2 = false))

include hp hx hr

/-- Where no earlier store of the weft meets the runs, and no unreleased write of a member of a pair, each run is maintained. -/
theorem cmoBody_ok :
    cmoBody fn (i.ctx s) s = .ok { s := s1.maintainRuns fn (s.coreOf s.cur) (cmoRuns pages accs), noUndo := true } := by
  have ht := xlateAll_threads hx
  have hk : (i.ctx s).k = s.cur := rfl
  have hw : s.weft s.cur = s.me := rfl
  have hstores : (cmoRuns pages accs).any (fun r => s1.storesMeet s.cur r.1 r.2) = false := List.any_eq_false.2 fun r hm => by simp [(hr r hm).1]
  have hsegs : (s1.member s.cur != 0 && !s.me.trap.handler && (cmoRuns pages accs).any fun r => s1.segMeets s.cur r.1 r.2) = false := by
    by_cases h0 : s.member s.cur = 0
    · simp [ht.member, h0]
    · have hany : (cmoRuns pages accs).any (fun r => s1.segMeets s.cur r.1 r.2) = false :=
        List.any_eq_false.2 fun r hm => by simp [(hr r hm).2.resolve_left h0]
      simp [hany]
  subst hp
  unfold Info.cmoPages at hx hstores hsegs
  unfold cmoRuns at hstores hsegs
  unfold cmoBody
  simp only [hk, hw, hx, hsegs, hstores, ht.coreOf, Bool.false_eq_true, if_false]
  rfl

theorem maintenance_takes (h : issues i s = true) (hc : s.clear (s1.maintainRuns fn (s.coreOf s.cur) (cmoRuns pages accs))) :
    ∃ t, Takes (issueMem i (cmoBody fn) s) s t ∧ Retires i s (s1.maintainRuns fn (s.coreOf s.cur) (cmoRuns pages accs)) t :=
  takes_of_wefts h (cmoBody_ok hp hx hr) rfl ((wefts_refl s).access (maintainRuns_threads _ _ _ (xlateAll_threads hx))) hc

end

/-! ## PREF, PREF1 and IPREF (07_memory_instructions R160) -/

/-- Only what a part does to the state that it meets counts. -/
theorem tryTo_congr {f g : State → State} (h : f s = g s) : tryTo s f = tryTo s g := by
  unfold tryTo
  rw [h]

/-- A page of a prefetch is brought in, as code or as data. -/
def prefPage (fn core ctx : Nat) (q : Nat × Nat × Nat) (t : State) : State :=
  if fn = 5 then prefCode core ctx q.2.1 q.2.2 t else prefSectors fn core ctx q t

theorem tryTo_prefPage_threads {o t : State} (fn core ctx : Nat) (q : Nat × Nat × Nat) (h : o.Threads t) :
    o.Threads (tryTo t (prefPage fn core ctx q)) :=
  tryTo_threads h (ite_threads (prefCode_threads _ _ _ _ h) (prefSectors_threads _ _ _ _ h))

/-- The context of the weft that issues is the same for every page, since no page changes a weft or a team. -/
theorem foldl_prefPage_ctx (fn core : Nat) (pages : List (Nat × Nat × Nat)) (s : State) :
    pages.foldl (fun t q => tryTo t (prefPage fn core (s.ctxOf s.cur) q)) s
      = pages.foldl (fun t q => tryTo t fun t => prefPage fn core (t.ctxOf t.cur) q t) s := by
  refine (List.foldl_rel (r := fun t t' => t = t' ∧ s.Threads t) ⟨rfl, threads_refl s⟩ fun q _ t t' ⟨he, ht⟩ => ?_).1
  subst he
  have hctx : t.ctxOf t.cur = s.ctxOf s.cur := by rw [ht.ctxOf, ht.2.2]
  exact ⟨tryTo_congr (by rw [hctx]), tryTo_prefPage_threads _ _ _ _ ht⟩

/-- What a prefetch leaves: each page is brought in, or dropped. -/
def Info.prefetched (i : Info) (fn : Nat) (s : State) : State :=
  ((cmoRanges (i.ctx s) s.me 32).flatMap fun r => pagesOf r.2.1 r.2.2).foldl
    (fun t q => tryTo t (prefPage fn (s.coreOf s.cur) (s.ctxOf s.cur) q)) s

theorem prefBody_ok (i : Info) (fn : Nat) (s : State) : prefBody fn (i.ctx s) s = .ok { s := i.prefetched fn s, noUndo := true } := rfl

theorem prefetched_threads (i : Info) (fn : Nat) (s : State) : s.Threads (i.prefetched fn s) :=
  foldl_threads (fun _ _ h => tryTo_prefPage_threads _ _ _ _ h) _ (threads_refl s)

theorem prefetch_takes {s' : State} (h : issues i s = true) (hs : i.prefetched fn s = s') (hc : s.clear s') :
    ∃ t, Takes (issueMem i (prefBody fn) s) s t ∧ Retires i s s' t ∧ s'.wefts = s.wefts ∧ s'.teams = s.teams := by
  subst hs
  have ht := prefetched_threads i fn s
  obtain ⟨t, hk, hr⟩ := takes_of_wefts h (prefBody_ok i fn s) rfl ((wefts_refl s).access ht) hc
  exact ⟨t, hk, hr, ht.1, ht.2.1⟩

/-! ## SPEVICT (06_core_memory R138, 07_memory_instructions R160) -/

/-- The pages below S that the ranges of SPEVICT name. -/
def Info.evictPages (i : Info) (s : State) : List Nat :=
  ((cmoRanges (i.ctx s) s.me 2048).flatMap fun r =>
    (List.range (r.2.2 / 2048 - r.2.1 / 2048)).map fun n => r.2.1 / 2048 + n).filter fun P => decide (P * 2048 < (s.team (teamOf s.cur)).size)

theorem spevictBody_eq (i : Info) (s : State) : spevictBody (i.ctx s) s
    = ((i.evictPages s).foldl (evictPage (teamOf s.cur)) (.ok s)).map fun t => { s := t, noUndo := true } := rfl

theorem spevictBody_ok (h : (i.evictPages s).foldl (evictPage (teamOf s.cur)) (.ok s) = .ok s2) :
    spevictBody (i.ctx s) s = .ok { s := s2, noUndo := true } := by
  rw [spevictBody_eq, h]
  rfl

theorem foldl_evictPage_wefts {T : Nat} {Ps : List Nat} (h : Ps.foldl (evictPage T) (.ok s) = .ok s2) : s.Wefts s2 := by
  have hr : Yields s.Wefts (Ps.foldl (evictPage T) (.ok s)) :=
    List.foldlRecOn (motive := Yields s.Wefts) Ps _ (wefts_refl s) fun _ hr _ _ => evictPage_wefts hr
  exact hr.ok h

end

/-! ## The statement -/

/-- The forms of maintenance: function code and instruction (07_memory_instructions R160). -/
inductive IsMaintenance (p : Option Prefix) (u : Bool) (a b : Reg) : Nat → Instr → Prop
  | cflush : IsMaintenance p u a b 0 (.cflush p u a b)
  | cinv : IsMaintenance p u a b 1 (.cinv p u a b)
  | cclean : IsMaintenance p u a b 2 (.cclean p u a b)

theorem exec_maintenance {p : Option Prefix} {u : Bool} {a b : Reg} {fn : Nat} {x : Instr} (hx : IsMaintenance p u a b fn x) (s : State) :
    exec x s = issueMem (formA p 0x40 fn u 0 a b) (cmoBody fn) s := by
  cases hx <;> rfl

/-- The forms of prefetch: function code and instruction (07_memory_instructions R160). -/
inductive IsPrefetch (p : Option Prefix) (u : Bool) (a b : Reg) : Nat → Instr → Prop
  | pref : IsPrefetch p u a b 3 (.pref p u a b)
  | pref1 : IsPrefetch p u a b 4 (.pref1 p u a b)
  | ipref : IsPrefetch p u a b 5 (.ipref p u a b)

theorem exec_prefetch {p : Option Prefix} {u : Bool} {a b : Reg} {fn : Nat} {x : Instr} (hx : IsPrefetch p u a b fn x) (s : State) :
    exec x s = issueMem (formA p 0x40 fn u 0 a b) (prefBody fn) s := by
  cases hx <;> rfl

theorem exec_spevict (p : Option Prefix) (u : Bool) (a b : Reg) (s : State) :
    exec (.spevict p u a b) s = issueMem (formA p 0x40 6 u 0 a b) spevictBody s := rfl

/-- The ranges are those of CFLUSH in every form but SPEVICT, whose start is 32 bits (07_memory_instructions R159). -/
theorem cmoRanges_form (p : Option Prefix) (u : Bool) (a b : Reg) {fn : Nat} (h : fn ≠ 6) (s : State) :
    cmoRanges ((formA p 0x40 fn u 0 a b).ctx s) s.me 32 = cmoRanges ((formA p 0x40 0 u 0 a b).ctx s) s.me 32 := by
  unfold formA
  simp only [h, if_false]
  rfl

theorem cmoPages_form (p : Option Prefix) (u : Bool) (a b : Reg) {fn : Nat} (h : fn ≠ 6) (s : State) :
    (formA p 0x40 fn u 0 a b).cmoPages s = (formA p 0x40 0 u 0 a b).cmoPages s := by
  unfold Info.cmoPages
  rw [cmoRanges_form p u a b h]

/-- The pages of a prefetch as O26 writes it, each in the context of the state that it meets. -/
theorem prefetched_form (p : Option Prefix) (u : Bool) (a b : Reg) {fn : Nat} (h : fn ≠ 6) (s : State) :
    (formA p 0x40 fn u 0 a b).prefetched fn s
      = ((cmoRanges ((formA p 0x40 0 u 0 a b).ctx s) s.me 32).flatMap fun r => pagesOf r.2.1 r.2.2).foldl
          (fun t q => tryTo t fun t => prefPage fn (s.coreOf s.cur) (t.ctxOf t.cur) q t) s := by
  unfold Info.prefetched
  rw [cmoRanges_form p u a b h, foldl_prefPage_ctx]

/-- Settles O26: each form retires on what its body leaves (`cmoBody_ok`, `prefBody_ok`, `spevictBody_ok`), in which every weft is as it was. -/
theorem cacheOperations : Obligations.CacheOperations := by
  unfold Obligations.CacheOperations
  intro p u a b s s1 s2 accs i core ranges maintain fetch
  have hmaintain : ∀ fn x, IsMaintenance p u a b fn x → maintain fn x := by
    intro fn x hm h hx hr hc
    have hne : fn ≠ 6 := by cases hm <;> decide
    rw [exec_maintenance hm]
    exact maintenance_takes (cmoPages_form p u a b hne s) hx hr h hc
  have hfetch : ∀ fn x, IsPrefetch p u a b fn x → fetch fn x := by
    intro fn x hm h hc
    have hne : fn ≠ 6 := by cases hm <;> decide
    rw [exec_prefetch hm]
    exact prefetch_takes h (prefetched_form p u a b hne s) hc
  refine ⟨hmaintain _ _ .cflush, hmaintain _ _ .cinv, hmaintain _ _ .cclean, hfetch _ _ .pref, hfetch _ _ .pref1, hfetch _ _ .ipref, ?_⟩
  intro T pages h he hc
  have hfold : pages.foldl (evictPage T) (.ok s) = .ok s2 := by
    refine (List.foldl_ext _ _ _ fun r P _ => ?_).trans he
    cases r with
    | error e => rfl
    | ok s =>
      unfold evictPage
      dsimp only
      cases s.findFrame T P <;> rfl
  rw [exec_spevict]
  exact takes_of_wefts h (spevictBody_ok hfold) rfl (foldl_evictPage_wefts hfold) hc

end Sys2Proof.Machine

namespace Sys2Proof.Machine

/-! ## The values of atomics (07_memory_instructions R163) -/

/-- The signed value of a number that fits its width. -/
theorem sextN_of_lt {v n : Nat} (h : v < 2 ^ n) : sextN v n = if v < 2 ^ (n - 1) then (v : Int) else (v : Int) - 2 ^ n := by
  unfold sextN
  simp only [Nat.mod_eq_of_lt h]
  push_cast
  rfl

/-- Numbers that fit their width are told apart by their signed values. -/
theorem sextN_inj {v v' n : Nat} (h : v < 2 ^ n) (h' : v' < 2 ^ n) (he : sextN v n = sextN v' n) : v = v' := by
  unfold sextN at he
  simp only [Nat.mod_eq_of_lt h, Nat.mod_eq_of_lt h'] at he
  split_ifs at he <;> omega

section
variable {n : Nat} {o x : BitVec 128}

/-- The signed minimum is the operand where it is the less. -/
theorem atomicNew_min : atomicNew 2 n o x = if sextN x.toNat (8 * n) < sextN o.toNat (8 * n) then x else o := by
  rw [← ite_not]
  simp only [not_lt]
  rfl

/-- The signed maximum is the operand where it is the greater; where the two are equal either is the other. -/
theorem atomicNew_max (ho : o.toNat < 2 ^ (8 * n)) (hx : x.toNat < 2 ^ (8 * n)) :
    atomicNew 3 n o x = if sextN o.toNat (8 * n) < sextN x.toNat (8 * n) then x else o := by
  rcases lt_trichotomy (sextN o.toNat (8 * n)) (sextN x.toNat (8 * n)) with h | h | h
  · exact (if_pos h.le).trans (if_pos h).symm
  · obtain rfl : o = x := BitVec.eq_of_toNat_eq (sextN_inj ho hx h)
    exact (ite_self o).trans (ite_self o).symm
  · exact (if_neg h.not_ge).trans (if_neg h.le.not_gt).symm

/-- The sum is that modulo 2 to the width. -/
theorem toNat_atomicNew_add (hn : 8 * n ≤ 128) : (atomicNew 0 n o x).toNat = (o.toNat + x.toNat) % 2 ^ (8 * n) :=
  (BitVec.toNat_ofNat ..).trans
    (Nat.mod_eq_of_lt ((Nat.mod_lt _ (Nat.two_pow_pos _)).trans_le (Nat.pow_le_pow_right (by decide) hn)))

end

/-- Settles O21: the sum by `toNat_atomicNew_add`, the signed forms by `atomicNew_min` and `atomicNew_max`, the rest by what the function is. -/
theorem atomicValues : Obligations.AtomicValues := by
  unfold Obligations.AtomicValues
  intro n o x hn ho hx sg
  have hsg : ∀ {v : BitVec 128}, v.toNat < 2 ^ (8 * n) → sextN v.toNat (8 * n) = sg v := fun hv => sextN_of_lt hv
  refine ⟨toNat_atomicNew_add (by omega), ?_, ?_, rfl, rfl, rfl, rfl⟩
  · rw [atomicNew_min, hsg ho, hsg hx]
  · rw [atomicNew_max ho hx, hsg ho, hsg hx]

end Sys2Proof.Machine

namespace Sys2Proof.Machine

variable {s : State} {k fn scope : Nat}

/-! ## When a fence may complete (07_memory_instructions R157) -/

/-- No release and no acquire waits where nothing is in flight and nothing queued. -/
theorem fenceReady_of_storesDone (h : s.storesDone k) (fn scope : Nat) : fenceReady s k fn scope = true := by
  obtain ⟨hf, hs, ht⟩ := h
  have hteam : s.teamReleased k = true := by
    simp only [State.teamReleased, List.all_eq_true, Bool.or_eq_true, bne_iff_ne]
    intro x hx
    rcases eq_or_ne (teamOf x.1) (teamOf k) with hk | hk
    · exact .inr (by rw [ht x hx hk]; exact fun _ h => absurd h List.not_mem_nil)
    · exact .inl hk
  simp [fenceReady, acqReady, relReady, hf, hs, hteam]

/-! ## What a fence leaves (R154, R156) -/

/-- The stores of a weft once a fence has covered them: a release at .t marks those that are queued. -/
def Weft.fencedStores (w : Weft) (fn scope : Nat) : List StoreEntry :=
  w.stores.map fun e => { e with released := e.released || decide (fn ≠ 0 ∧ scope = 1) }

theorem fencedStores_nil {w : Weft} (h : w.stores = []) (fn scope : Nat) : w.fencedStores fn scope = [] := by
  rw [Weft.fencedStores, h, List.map_nil]

theorem markReleased_weft (s : State) (k fn scope : Nat) :
    (markReleased s k fn scope).weft k = { s.weft k with stores := (s.weft k).fencedStores fn scope } := by
  unfold markReleased
  by_cases h : fn ≠ 0 ∧ scope = 1
  · rw [if_pos h, State.modWeft, State.weft_setWeft_same]
    simp [Weft.fencedStores, h]
  · rw [if_neg h]
    simp [Weft.fencedStores, h]

theorem markReleased_onlyWeft (s : State) (k fn scope : Nat) : OnlyWeft k s (markReleased s k fn scope) := by
  unfold markReleased
  split
  · exact onlyWeft_setWeft_once ..
  · exact onlyWeft_refl ..

theorem OnlyWeft.trans {t u : State} (h : OnlyWeft k s t) (h' : OnlyWeft k t u) : OnlyWeft k s u := by
  obtain ⟨ht, hj⟩ := h
  obtain ⟨hu, hj'⟩ := h'
  exact ⟨by rw [hu, ht], fun j hne => (hj' j hne).trans (hj j hne)⟩

/-! ## Issue and completion -/

/-- A fence ends no segment of a redundant pair unless it is a release at .t of a member that is a pair team (19_reliability R431). -/
def State.fenceFree (s : State) (fn scope : Nat) : Prop := s.member s.cur = 0 ∨ fn = 0 ∨ scope ≠ 1 ∨ (s.teamOfWeft s.cur).pair = false

theorem fence_boundary (h : s.fenceFree fn scope) :
    (if fn ≠ 0 ∧ scope = 1 ∧ (s.teamOfWeft s.cur).pair then s.boundary s.cur 3 [] else none) = none := by
  split
  · next hc =>
    obtain ⟨h0, h1, hp⟩ := hc
    rcases h with hm | hf | hs | hq
    · exact if_pos (.inl hm)
    · exact absurd hf h0
    · exact absurd h1 hs
    · rw [hq] at hp; cases hp
  · rfl

variable {i : Info}

theorem fenceBody_ready (hb : s.fenceFree fn scope) (hr : fenceReady s s.cur fn scope = true) :
    fenceBody fn scope (i.ctx s) s = .ok { s := markReleased s s.cur fn scope, noUndo := true } := by
  have hk : (i.ctx s).k = s.cur := rfl
  unfold fenceBody
  rw [hk, fence_boundary hb]
  exact if_pos hr

theorem fenceBody_waits (hb : s.fenceFree fn scope) (hr : fenceReady s s.cur fn scope = false) :
    fenceBody fn scope (i.ctx s) s = .error (.hold s (.fence fn scope)) := by
  have hk : (i.ctx s).k = s.cur := rfl
  unfold fenceBody
  rw [hk, fence_boundary hb]
  exact if_neg (by rw [hr]; exact Bool.false_ne_true)

/-- A fence whose condition holds retires on the state in which it has covered its weft's stores. -/
theorem fence_retires (h : issues i s = true) (hb : s.fenceFree fn scope) (hr : fenceReady s s.cur fn scope = true) :
    ∃ t, issue i (fenceBody fn scope) s = .next t ∧ Retires i s (markReleased s s.cur fn scope) t :=
  retires_of_ok h (fenceBody_ready hb hr) rfl (by rw [markReleased_weft]; exact ⟨id, rfl, rfl⟩)

/-- A retirement on a weft whose queue alone has changed. -/
theorem fence_passed {t : State} (h : Retires i s (markReleased s s.cur fn scope) t) :
    OnlyWeft s.cur s t ∧ SameControl { s.me with stores := (t.weft s.cur).stores } (t.weft s.cur) ∧ (t.weft s.cur).regs = s.me.regs
      ∧ (t.weft s.cur).stores = s.me.fencedStores fn scope ∧ SameHistory s.me (t.weft s.cur) := by
  obtain ⟨ho, -, hc, hx, hh⟩ := h
  rw [markReleased_weft] at hc hx hh
  have hst : (t.weft s.cur).stores = s.me.fencedStores fn scope := by rw [hc]; rfl
  refine ⟨(markReleased_onlyWeft ..).trans ho, ?_, hx, hst, hh⟩
  rw [hst]
  exact hc

/-- An instruction that leaves every register as it was. -/
theorem sameRegs_of_eq {w w' : Weft} (h : w'.regs = w.regs) (v n m : Nat → Prop) : SameRegs v n m w w' := by
  refine ⟨fun _ _ _ _ => by rw [h], fun _ _ => by rw [h], fun j h0 _ => ?_, by rw [h], by rw [h], by rw [h]⟩
  unfold Weft.maskReg
  rw [if_neg h0, if_neg h0, h]

/-- A fence of a weft with nothing in flight and nothing queued changes nothing but its place in the code. -/
theorem fence_passes (h : issues i s = true) (hm : s.member s.cur = 0) (hd : s.storesDone s.cur) :
    ∃ t, issue i (fenceBody fn scope) s = .next t ∧ PlainStep i (fun _ => False) (fun _ => False) (fun _ => False) s t
      ∧ (t.weft s.cur).regs = s.me.regs := by
  obtain ⟨t, ht, hr⟩ := fence_retires h (.inl hm) (fenceReady_of_storesDone hd fn scope)
  obtain ⟨ho, hc, hx, hst, hh⟩ := fence_passed hr
  have hnil : s.me.stores = [] := hd.2.1
  rw [hst, fencedStores_nil hnil, ← hnil] at hc
  exact ⟨t, ht, ⟨ho, hr.goes, hc, sameRegs_of_eq hx .., hh⟩, hx⟩

theorem exec_fenceComplete (k : Nat) (s : State) : exec (.fenceComplete k) s = execFenceComplete k s := rfl

/-- FENCE_COMPLETE of a weft that may go on, at a fence whose condition holds. -/
theorem fenceComplete_resumes {h : Hold} (hh : (s.weft k).hold = some h) (hk : h.kind = .fence fn scope) (hc : s.canRelease k = true)
    (hl : (s.weft k).flow.active ≠ 0 ∨ (s.weft k).lanesPending = false) (hr : fenceReady s k fn scope = true) :
    ∃ t, exec (.fenceComplete k) s = .next t ∧ OnlyWeft k s t ∧ (t.weft k).hold = none ∧ (t.weft k).flow.pc = h.next
      ∧ (t.weft k).flow.ic = (if (s.weft k).trap.handler then (s.weft k).flow.ic else (s.weft k).flow.ic + 1)
      ∧ (t.weft k).regs = (s.weft k).regs := by
  have hw := markReleased_weft s k fn scope
  obtain ⟨ho, hhold, hpc, hic, hx⟩ := releaseHold_resumes (s := markReleased s k fn scope) (h := h) (by rw [hw]; exact hl)
  rw [hw] at hic hx
  refine ⟨_, ?_, (markReleased_onlyWeft ..).trans ho, hhold, hpc, hic, hx⟩
  rw [exec_fenceComplete]
  unfold execFenceComplete
  simp only [hh, hk, hc, hr, Bool.and_self, if_true]

/-- The fences: function code and instruction (07_memory_instructions R156). -/
inductive IsFence (p : Option Prefix) (sc : BitVec 2) : Nat → Instr → Prop
  | acq : IsFence p sc 0 (.fenceAcq p sc)
  | rel : IsFence p sc 1 (.fenceRel p sc)
  | ar : IsFence p sc 2 (.fenceAr p sc)
  | sc : IsFence p sc 3 (.fenceSc p sc)

theorem exec_fence {p : Option Prefix} {sc : BitVec 2} {fn : Nat} {x : Instr} (hx : IsFence p sc fn x) (s : State) :
    exec x s = issue (formA p 0x41 fn true 0 0 (sc.setWidth 7)) (fenceBody fn sc.toNat) s := by
  cases hx <;> rfl

theorem scope_eq_one (sc : BitVec 2) : sc.toNat = 1 ↔ sc = 1 := by
  revert sc
  decide

/-- Settles O25: a fence whose condition holds retires (`fence_retires`) or completes (`fenceComplete_resumes`), and one whose condition does
not hold keeps its weft (`issue_holds`). -/
theorem fencesOrder : Obligations.FencesOrder := by
  unfold Obligations.FencesOrder
  refine ⟨?_, ?_, ?_⟩
  · intro p sc s F quiet passes
    have one : ∀ fn x, IsFence p sc fn x → issues (F fn) s = true → quiet → passes fn (exec x s) := by
      intro fn x hx h hq
      rw [exec_fence hx]
      exact fence_passes h hq.1 hq.2
    exact ⟨one _ _ .acq, one _ _ .rel, one _ _ .ar, one _ _ .sc⟩
  · intro k fn scope h s hh hk hc hl hr
    exact fenceComplete_resumes hh hk hc hl (hr.elim (fenceReady_of_storesDone · fn scope) id)
  · intro p sc s one
    have all : ∀ fn x, IsFence p sc fn x → one fn x := by
      intro fn x hx h hb
      have hfree : s.fenceFree fn sc.toNat := by rwa [State.fenceFree, ne_eq, scope_eq_one]
      rw [exec_fence hx]
      refine ⟨fun hr => ?_, fun hr => ?_⟩
      · obtain ⟨t, ht, hret⟩ := fence_retires h hfree hr
        obtain ⟨ho, hctl, hx, hst, -⟩ := fence_passed hret
        refine ⟨t, ht, ho, hret.goes, hctl, hx, ?_⟩
        rw [hst, Weft.fencedStores]
        simp only [scope_eq_one]
      · obtain ⟨t, x, ht, ho, hw, hkind, hpc, hnext⟩ := issue_holds h (fenceBody_waits hfree hr)
        exact ⟨t, x, ht, ho, hw, hkind, hpc, hnext⟩
    exact ⟨all _ _ .acq, all _ _ .rel, all _ _ .ar, all _ _ .sc⟩

end Sys2Proof.Machine

namespace Sys2Proof.Machine

variable {s s' : State} {l : Nat} {f : Flit}

/-! ## Flits sent on a link (20_host_fabric R448) -/

@[simp] theorem State.link_setLink_same (s : State) (l : Nat) (e : LinkEnd) : (s.setLink l e).link l = e := SMap.get_set_same _ _ _ _

/-- The flit as a link carries it: with its source, the acknowledgement of what the link has received, and the link's next number. -/
def State.numberedFlit (s : State) (l : Nat) (f : Flit) : Flit :=
  ({ f with src := BitVec.ofNat 16 s.modid, ack := (s.link l).recvSeq - 1, seq := (s.link l).sendSeq } : Flit).sealed

/-- The CRC does not cover itself. -/
theorem crcOk_sealed (f : Flit) : f.sealed.crcOk = true := beq_self_eq_true (crc32c f.body)

/-- A numbered flit takes the link's next number, and is kept until it is acknowledged. -/
theorem send_numbered (hv : s.viral = false) (hn : f.numbered = true) :
    s.send l f = s.setLink l { s.link l with sendSeq := (s.link l).sendSeq + 1, kept := (s.link l).kept ++ [s.numberedFlit l f]
                                             out := (s.link l).out ++ [s.numberedFlit l f] } := by
  have hn' : ({ f with src := BitVec.ofNat 16 s.modid, ack := (s.link l).recvSeq - 1 } : Flit).numbered = true := hn
  unfold State.send
  simp only [hv, Bool.false_and, Bool.false_eq_true, if_false, hn', if_true]
  rfl

/-! ## What a request of a lane leaves alone (07_memory_instructions R169) -/

theorem send_threads {o : State} (l : Nat) (f : Flit) (h : o.Threads s) : o.Threads (s.send l f) := by
  unfold State.send
  exact ite_threads h (ite_threads h h)

variable {k seq L link : Nat} {addr : Dword} {x y z : BitVec 128} {op : RemoteOp}

/-- The request of a lane, sent on a link, and its wait. -/
def State.sendWaiting (s : State) (k seq L link : Nat) (addr : Dword) (f : Flit) : State :=
  { s.send link f with fabric := { (s.send link f).fabric with waits := (s.send link f).fabric.waits ++
      [{ link := link, k := k, seq := seq, lane := L, peer := bitsOf addr 48 12, flit := f
         at_ := SMap.get zeroNat s.fabric.assigned (bitsOf addr 48 12) - 1 }] } }

theorem sendWaiting_threads {o : State} (f : Flit) (h : o.Threads s) : o.Threads (s.sendWaiting k seq L link addr f) := send_threads link f h

/-- A request of a lane touches no weft and no team. -/
theorem askPeer_threads {o : State} (h : o.Threads s) : o.Threads (askPeer op k seq L addr x y z s).2 := by
  cases op with
  | retry =>
    unfold askPeer
    dsimp only
    split
    · exact h
    · split
      · exact h
      · exact sendWaiting_threads _ h
  | ratom t =>
    unfold askPeer
    dsimp only
    split
    · exact h
    · exact sendWaiting_threads (s := (s.takeId _).2) _ h
  | rld n =>
    unfold askPeer
    dsimp only
    split
    · exact h
    · split
      · exact h
      · exact sendWaiting_threads (s := (s.takeTag _).2) _ h
  | rst n =>
    unfold askPeer
    dsimp only
    split
    · exact h
    · split
      · exact h
      · exact sendWaiting_threads (s := (s.takeTag _).2) _ h

theorem askAll_threads {o : State} : ∀ (ls : List RemoteLane) {s : State}, o.Threads s → o.Threads (askAll op k seq ls s).2
  | [], _, h => h
  | (L, a, d, b, cc) :: rest, s, h => by
    unfold askAll
    refine askAll_threads rest ?_
    rw [apply_ite Prod.snd]
    exact ite_threads h (askPeer_threads h)

/-! ## The request of a lane (R168 to R170) -/

/-- A lane whose request has been sent waits for its answer. -/
def sentLane (L : Nat) (addr : Dword) : LaneAcc := { lane := L, va := addr, pa := 0 }

/-- The flit that a sent request puts behind those of its link. -/
theorem sendWaiting_out {s1 : State} (hl : s1.link link = s.link link) (hv : s1.viral = false) (hn : f.numbered = true) :
    ∃ g : Flit, ((s1.sendWaiting k seq L link addr f).link link).out = (s.link link).out ++ [g] ∧ g.typ = f.typ ∧ g.dst = f.dst
      ∧ g.raddr = f.raddr ∧ g.op1 = f.op1 ∧ g.seq = (s.link link).sendSeq ∧ g.crcOk = true := by
  refine ⟨s1.numberedFlit link f, ?_, rfl, rfl, rfl, rfl, congrArg LinkEnd.sendSeq hl, crcOk_sealed _⟩
  show ((s1.send link f).link link).out = _
  rw [send_numbered hv hn, State.link_setLink_same, hl]

section
variable (hlink : s.linkTo (bitsOf addr 48 12) = some link)
include hlink

theorem askPeer_rld {n : Nat} (hn : ¬ (n = 16 ∧ s.field (plstat link) 4 4 < 2)) : askPeer (.rld n) k seq L addr x y z s =
    (sentLane L addr, (s.takeTag (bitsOf addr 48 12)).2.sendWaiting k seq L link addr
      { Flit.blank with raddr := addr, dst := BitVec.ofNat 16 (bitsOf addr 48 12), typ := if n = 16 then 2 else 1, fl := 2
                        id := BitVec.ofNat 16 (s.takeTag (bitsOf addr 48 12)).1 }) := by
  unfold askPeer
  simp only [hlink, if_neg hn]
  rfl

theorem askPeer_rst {n : Nat} (hn : ¬ (n = 16 ∧ s.field (plstat link) 4 4 < 2)) : askPeer (.rst n) k seq L addr x y z s =
    (sentLane L addr, (s.takeTag (bitsOf addr 48 12)).2.sendWaiting k seq L link addr
      { Flit.blank with raddr := addr, dst := BitVec.ofNat 16 (bitsOf addr 48 12), typ := if n = 16 then 4 else 3, fl := 2
                        id := BitVec.ofNat 16 (s.takeTag (bitsOf addr 48 12)).1
                        op1 := if n = 16 then x else (x.setWidth 64).setWidth 128 }) := by
  unfold askPeer
  simp only [hlink, if_neg hn]
  rfl

theorem askPeer_ratom {t : Nat} : askPeer (.ratom t) k seq L addr x y z s =
    (sentLane L addr, (s.takeId (bitsOf addr 48 12)).2.sendWaiting k seq L link addr
      { Flit.blank with raddr := addr, dst := BitVec.ofNat 16 (bitsOf addr 48 12), typ := BitVec.ofNat 8 t
                        id := BitVec.ofNat 16 (s.takeId (bitsOf addr 48 12)).1
                        op1 := (y.setWidth 64).setWidth 128, op2 := if t = 6 then z.setWidth 64 else 0 }) := by
  unfold askPeer
  simp only [hlink]
  rfl

end


/-! ## An instruction that asks its peers (R168 to R170) -/

variable {i : Info} {n m : Nat} {fop : FlightOp} {ls : List LaneAcc} {body : Ctx → State → Except Stop Eff} {e : Eff}

/-- A body that leaves its weft with an access in flight, on the state `s'` that differs in no weft. -/
theorem launches_of_only {f : Flight} (h : issues i s = true) (hb : body (i.ctx s) s = .ok e) (hf : e.fin = .next)
    (ho : OnlyWeft s.cur s' e.s) (hw : e.s.weft s.cur = s.me.withFlight (i.ctx s) f) :
    ∃ t, issue i body s = .next t ∧ Launches i [f] s s' t := by
  obtain ⟨t, ht, hto, hg, hctl, hx, hh⟩ := retires_of_ok h hb hf (by rw [hw]; exact ⟨id, rfl, rfl⟩)
  rw [hw] at hctl hx hh
  have hfl : (t.weft s.cur).flights = s.me.flights ++ [f] := by rw [hctl]; rfl
  have hfg : (t.weft s.cur).flags = (s.me.countFlag ((i.ctx s).flagNo s.me)).flags := by rw [hctl]; rfl
  have hsq : (t.weft s.cur).seq = s.me.seq + 1 := by rw [hctl]; rfl
  refine ⟨t, ht, OnlyWeft.trans ho hto, hg, hfl, hfg, ?_, sameRegs_of_eq hx .., hh⟩
  unfold SameControl at hctl ⊢
  rw [hfl, hfg, hsq]
  exact hctl

/-- The access that an instruction to its peers puts in flight. -/
def Info.remoteFlight (i : Info) (s : State) (fop : FlightOp) (words n : Nat) (ls : List LaneAcc) : Flight :=
  { op := fop, seq := s.me.seq, flag := (i.ctx s).flagNo s.me, pc := s.me.flow.pc, ic := s.me.flow.ic, uni := i.u, d := i.first s.me
    words := words, bytes := n, lanes := ls, zlanes := i.zeroedOf s.me }

theorem launch_remote (hop : fop.global = false) (hw : s'.weft s.cur = s.me) :
    launch (i.ctx s) s' fop n m false ls = s'.setWeft s.cur (s.me.withFlight (i.ctx s) (i.remoteFlight s fop m n ls)) := by
  have hk : (i.ctx s).k = s.cur := rfl
  unfold launch
  simp only [hop, if_false, hk, hw, Bool.false_eq_true]
  rfl

/-- Nothing completes where no RST of the weft at that place has all its answers. -/
theorem settleRst_none (h : ∀ f ∈ (s.weft k).flights, f.seq = seq → f.op = .rst → f.answered = false) : settleRst s k seq = s := by
  have hn : ((List.range (s.weft k).flights.length).find? fun j =>
      (s.weft k).flights[j]?.any fun f => f.seq == seq && f.op == .rst && f.answered) = none := by
    rw [List.find?_eq_none]
    intro j _
    cases hj : (s.weft k).flights[j]? with
    | none => exact Bool.false_ne_true
    | some f =>
      have hf := h f (List.mem_of_getElem? hj)
      simp only [Option.any_some, Bool.and_eq_true, beq_iff_eq, not_and]
      rintro ⟨hs, ho⟩
      rw [hf hs ho]
      exact Bool.false_ne_true
  unfold settleRst
  simp only [hn]

/-- The flights of a weft once the lanes of those of a place have the answers of the requests that they share. -/
def spreadAt (seq : Nat) (fs : List Flight) : List Flight := fs.map fun f => if f.seq = seq ∧ f.op ≠ .func then spreadAnswers f else f

/-- Only the new access stands at its place. -/
theorem spreadAt_append {fs : List Flight} {f : Flight} (h : ∀ g ∈ fs, g.op ≠ .func → g.seq ≠ f.seq) (hf : f.op ≠ .func) :
    spreadAt f.seq (fs ++ [f]) = fs ++ [spreadAnswers f] := by
  have hfs : spreadAt f.seq fs = fs := (List.map_congr_left fun g hg => if_neg fun hs => h g hg hs.2 hs.1).trans (List.map_id fs)
  unfold spreadAt at hfs ⊢
  rw [List.map_append, hfs, List.map_singleton, if_pos ⟨rfl, hf⟩]

/-- The lanes of an access to peers, with what their requests name. -/
def Info.asking (i : Info) (s : State) : List RemoteLane :=
  (i.lanes s).map fun L => (L, i.addr s 0 L, readOp s.me i.u i.dk i.d L, readOp s.me i.bScalar i.bk i.b L, readOp s.me i.u i.ck i.c L)

/-- The words that an access to peers writes in each lane. -/
def Info.remoteWords (i : Info) (op : RemoteOp) : Nat :=
  match op with
  | .rst _ => 0
  | _ => i.dk.words

theorem flight_local (op : RemoteOp) : op.flight.global = false ∧ op.flight ≠ .func := by
  cases op <;> exact ⟨rfl, FlightOp.noConfusion⟩

/-- The state once the requests have gone out and the access is in flight. -/
def Info.asked (i : Info) (s s' : State) (op : RemoteOp) (ls : List LaneAcc) : State :=
  (s'.setWeft s.cur (s.me.withFlight (i.ctx s) (i.remoteFlight s op.flight (i.remoteWords op) op.bytes ls))).modWeft s.cur fun w =>
    { w with flights := spreadAt s.me.seq w.flights }

/-- Where every lane is aligned the requests go out, and an RST that is answered at once completes. -/
theorem remoteBody_asks (ha : i.ak = .reg 2) (hal : i.allAligned s 0 op.bytes) (hm : s.member s.cur ≠ 2)
    (hq : askAll op s.cur s.me.seq (i.asking s) s = (ls, s')) :
    remoteBody op (i.ctx s) s = .ok { s := settleRst (i.asked s s' op ls) s.cur s.me.seq, noUndo := true } := by
  have hw : s.weft s.cur = s.me := rfl
  have hk : (i.ctx s).k = s.cur := rfl
  have ht : s.Threads s' := by
    have := askAll_threads (op := op) (k := s.cur) (seq := s.me.seq) (i.asking s) (threads_refl s)
    rwa [hq] at this
  have hask : askAll op s.cur s.me.seq (((i.lanes s).map fun L => (L, i.addr s 0 L)).map fun x =>
      (x.1, x.2, (i.ctx s).valD s.me x.1, (i.ctx s).valB s.me x.1, (i.ctx s).valC s.me x.1)) s = (ls, s') := by
    rw [List.map_map]
    exact hq
  have hl := launch_remote (i := i) (n := op.bytes) (m := i.remoteWords op) (ls := ls) (flight_local op).1 ht.me
  unfold remoteBody
  simp only [hk, hw, accessAddrs ha, filter_misaligned hal, filter_aligned hal, faultLanes_nil, if_neg hm, hask]
  unfold Info.asked
  rw [← hl]
  rfl

/-- In the weft that asks the new access has its answers, and no other has changed. -/
theorem asked_weft (h : ∀ f ∈ s.me.flights, f.op ≠ .func → f.seq ≠ s.me.seq) : (i.asked s s' op ls).weft s.cur
    = s.me.withFlight (i.ctx s) (spreadAnswers (i.remoteFlight s op.flight (i.remoteWords op) op.bytes ls)) := by
  have hs := spreadAt_append (f := i.remoteFlight s op.flight (i.remoteWords op) op.bytes ls) h (flight_local op).2
  unfold Info.asked
  rw [State.modWeft, State.weft_setWeft_same, State.weft_setWeft_same]
  unfold Weft.withFlight
  rw [← hs]
  rfl

/-- RATOM, RLD and RST put their access in flight, with what their peers have answered at once (R169). -/
theorem remote_launches (h : issues i s = true) (ha : i.ak = .reg 2) (hal : i.allAligned s 0 op.bytes) (hm : s.member s.cur ≠ 2)
    (hq : askAll op s.cur s.me.seq (i.asking s) s = (ls, s'))
    (hr : op.flight = .rst → (spreadAnswers (i.remoteFlight s op.flight (i.remoteWords op) op.bytes ls)).answered = false)
    (hf : ∀ f ∈ s.me.flights, (f.op = .rst → f.answered = false) ∧ (f.op ≠ .func → f.seq ≠ s.me.seq)) :
    ∃ t, issue i (remoteBody op) s = .next t
      ∧ Launches i [spreadAnswers (i.remoteFlight s op.flight (i.remoteWords op) op.bytes ls)] s s' t := by
  have hw := asked_weft (i := i) (s' := s') (op := op) (ls := ls) fun f hx => (hf f hx).2
  have hset : settleRst (i.asked s s' op ls) s.cur s.me.seq = i.asked s s' op ls := by
    refine settleRst_none fun f hx _ ho => ?_
    rw [hw] at hx
    rcases List.mem_append.1 hx with hx | hx
    · exact (hf f hx).1 ho
    · obtain rfl := List.mem_singleton.1 hx
      exact hr ho
  refine launches_of_only h (remoteBody_asks ha hal hm hq) rfl ?_ ?_ <;> dsimp only <;> rw [hset]
  · exact onlyWeft_setWeft ..
  · exact hw

/-- In the trailing member of a redundant pair they wait for the partner's result (19_reliability R432). -/
theorem remote_mirrors (h : issues i s = true) (ha : i.ak = .reg 2) (hal : i.allAligned s 0 op.bytes) (hm : s.member s.cur = 2) :
    ∃ t, issue i (remoteBody op) s = .next t
      ∧ Launches i [i.remoteFlight s (.mirror true) (i.remoteWords op) op.bytes ((i.lanes s).map fun L => sentLane L (i.addr s 0 L))] s s t := by
  have hw : s.weft s.cur = s.me := rfl
  have hk : (i.ctx s).k = s.cur := rfl
  have hl := launch_remote (i := i) (s := s) (n := op.bytes) (m := i.remoteWords op) (fop := .mirror true)
    (ls := (i.lanes s).map fun L => sentLane L (i.addr s 0 L)) rfl hw
  have hb : remoteBody op (i.ctx s) s = .ok (mirrorLaunch (i.ctx s) s true op.bytes (i.remoteWords op)
      ((i.lanes s).map fun L => sentLane L (i.addr s 0 L))) := by
    unfold remoteBody
    simp only [hk, hw, accessAddrs ha, filter_misaligned hal, filter_aligned hal, faultLanes_nil, if_pos hm, List.map_map]
    rfl
  refine launches_of_only h hb rfl ?_ ?_ <;> rw [mirrorLaunch, hl]
  · exact onlyWeft_setWeft_once ..
  · exact State.weft_setWeft_same ..

/-! ## The statement -/

/-- RATOM: function code, what the lanes ask for, and instruction (R169). -/
inductive IsRatom (p : Option Prefix) (u : Bool) (d a b : Reg) : Nat → RemoteOp → Instr → Prop
  | add : IsRatom p u d a b 0 (.ratom 5) (.ratomAdd64 p u d a b)
  | cas : IsRatom p u d a b 1 (.ratom 6) (.ratomCas64 p u d a b)
  | xch : IsRatom p u d a b 2 (.ratom 7) (.ratomXch64 p u d a b)
  | retry : IsRatom p u d a b 3 .retry (.ratomRetry p u d a b)

/-- REMOTE, likewise. -/
inductive IsRemote (p : Option Prefix) (u : Bool) (d a : Reg) : Nat → RemoteOp → Instr → Prop
  | rld8 : IsRemote p u d a 0 (.rld 8) (.rldB64 p u d a)
  | rst8 : IsRemote p u d a 1 (.rst 8) (.rstB64 p u d a)
  | rld16 : IsRemote p u d a 2 (.rld 16) (.rldB128 p u d a)
  | rst16 : IsRemote p u d a 3 (.rst 16) (.rstB128 p u d a)

theorem exec_ratom {p : Option Prefix} {u : Bool} {d a b : Reg} {fn : Nat} {x : Instr} (hx : IsRatom p u d a b fn op x) (s : State) :
    exec x s = issue (formA p 0x4D fn u d a b) (remoteBody op) s := by
  cases hx <;> rfl

theorem exec_remote {p : Option Prefix} {u : Bool} {d a : Reg} {fn : Nat} {x : Instr} (hx : IsRemote p u d a fn op x) (s : State) :
    exec x s = issue (formA p 0x4E fn u d a 0) (remoteBody op) s := by
  cases hx <;> rfl

/-- What O27 says of the instruction of a form, by what its lanes ask for. -/
theorem asks_peers {x : Instr} (hx : exec x s = issue i (remoteBody op) s) (h : issues i s = true) (ha : i.ak = .reg 2)
    (hal : i.allAligned s 0 op.bytes) :
    (s.member s.cur ≠ 2 → askAll op s.cur s.me.seq (i.asking s) s = (ls, s') →
      (op.flight = .rst → (spreadAnswers (i.remoteFlight s op.flight (i.remoteWords op) op.bytes ls)).answered = false) →
      (∀ f ∈ s.me.flights, (f.op = .rst → f.answered = false) ∧ (f.op ≠ .func → f.seq ≠ s.me.seq)) →
      ∃ t, exec x s = .next t ∧ Launches i [spreadAnswers (i.remoteFlight s op.flight (i.remoteWords op) op.bytes ls)] s s' t)
    ∧ (s.member s.cur = 2 → ∃ t, exec x s = .next t ∧ Launches i
        [i.remoteFlight s (.mirror true) (i.remoteWords op) op.bytes ((i.lanes s).map fun L => sentLane L (i.addr s 0 L))] s s t) := by
  rw [hx]
  exact ⟨fun hm hq hr hf => remote_launches h ha hal hm hq hr hf, fun hm => remote_mirrors h ha hal hm⟩

/-- A request of a lane goes out with the next number of its link, as flit type `typ` with the operand `v`, and its lane waits. -/
def RequestSent (op : RemoteOp) (typ : Nat) (v : BitVec 128) (k seq L link : Nat) (addr : Dword) (x y z : BitVec 128) (s : State) : Prop :=
  ∃ g : Flit, ((askPeer op k seq L addr x y z s).2.link link).out = (s.link link).out ++ [g] ∧ g.typ = BitVec.ofNat 8 typ
    ∧ g.dst = BitVec.ofNat 16 (bitsOf addr 48 12) ∧ g.raddr = addr ∧ g.op1 = v ∧ g.seq = (s.link link).sendSeq ∧ g.crcOk = true
    ∧ (askPeer op k seq L addr x y z s).1 = sentLane L addr

/-- A request that is sent as a given flit, behind those of the link. -/
theorem requestSent_of {s1 : State} {typ : Nat} (hf : askPeer op k seq L addr x y z s = (sentLane L addr, s1.sendWaiting k seq L link addr f))
    (hl : s1.link link = s.link link) (hv : s1.viral = false) (hn : f.numbered = true) (ht : f.typ = BitVec.ofNat 8 typ)
    (hd : f.dst = BitVec.ofNat 16 (bitsOf addr 48 12)) (ha : f.raddr = addr) : RequestSent op typ f.op1 k seq L link addr x y z s := by
  obtain ⟨g, hout, htyp, hdst, haddr, hop, hseq, hcrc⟩ := sendWaiting_out (k := k) (seq := seq) (L := L) (addr := addr) hl hv hn
  unfold RequestSent
  rw [hf]
  exact ⟨g, hout, htyp.trans ht, hdst.trans hd, haddr.trans ha, hop, hseq, hcrc, rfl⟩

section
variable (hv : s.viral = false) (hlink : s.linkTo (bitsOf addr 48 12) = some link)
include hv hlink

/-- Every version of a link carries 8 bytes (20_host_fabric R447). -/
theorem rld8_sent : RequestSent (.rld 8) 1 0 k seq L link addr x y z s :=
  requestSent_of (askPeer_rld hlink fun h => absurd h.1 (by decide)) rfl hv rfl rfl rfl rfl

theorem rst8_sent : RequestSent (.rst 8) 3 ((x.setWidth 64).setWidth 128) k seq L link addr x y z s :=
  requestSent_of (askPeer_rst hlink fun h => absurd h.1 (by decide)) rfl hv rfl rfl rfl rfl

/-- The second version of a link carries 16 bytes. -/
theorem rld16_sent (hver : 2 ≤ s.field (plstat link) 4 4) : RequestSent (.rld 16) 2 0 k seq L link addr x y z s :=
  requestSent_of (askPeer_rld hlink fun h => absurd h.2 hver.not_gt) rfl hv rfl rfl rfl rfl

theorem rst16_sent (hver : 2 ≤ s.field (plstat link) 4 4) : RequestSent (.rst 16) 4 x k seq L link addr x y z s :=
  requestSent_of (askPeer_rst hlink fun h => absurd h.2 hver.not_gt) rfl hv rfl rfl rfl rfl

theorem ratom_sent {t : Nat} (ht : t = 5 ∨ t = 6 ∨ t = 7) :
    RequestSent (.ratom t) t ((y.setWidth 64).setWidth 128) k seq L link addr x y z s := by
  refine requestSent_of (askPeer_ratom hlink) rfl hv ?_ rfl rfl rfl
  rcases ht with rfl | rfl | rfl <;> rfl

end

/-- Settles O27: the instructions by `asks_peers`, the flits by what the request of a lane sends (`RequestSent`). -/
theorem remoteRequests : Obligations.RemoteRequests := by
  unfold Obligations.RemoteRequests
  intro p u d a b s s' ls one atom mem asks low
  have ratom : ∀ {fn op fop x}, IsRatom p u d a b fn op x → fop = op.flight → 2 = (formA p 0x4D fn u d a b).remoteWords op → op.bytes = 8 →
      atom fn x op fop := by
    rintro fn op fop x hx rfl hw hn
    show one _ x op op.flight 2 8
    rw [hw, ← hn]
    exact fun h hal => asks_peers (exec_ratom hx s) h rfl hal
  have remote : ∀ {fn op fop x words n}, IsRemote p u d a fn op x → fop = op.flight → words = (formA p 0x4E fn u d a 0).remoteWords op →
      n = op.bytes → mem fn x op fop words n := by
    rintro fn op fop x words n hx rfl rfl rfl h hal
    exact asks_peers (exec_remote hx s) h (by cases hx <;> rfl) hal
  exact ⟨ratom .add rfl rfl rfl, ratom .cas rfl rfl rfl, ratom .xch rfl rfl rfl, ratom .retry rfl rfl rfl, remote .rld8 rfl rfl rfl,
    remote .rld16 rfl rfl rfl, remote .rst8 rfl rfl rfl, remote .rst16 rfl rfl rfl, fun _ _ _ _ _ _ _ _ hv hl _ => rld8_sent hv hl,
    fun _ _ _ _ _ _ _ _ hv hl hver => rld16_sent hv hl hver, fun _ _ _ _ _ _ _ _ hv hl _ => rst8_sent hv hl,
    fun _ _ _ _ _ _ _ _ hv hl hver => rst16_sent hv hl hver, fun _ _ _ _ _ _ _ _ hv hl _ => ratom_sent hv hl (.inl rfl),
    fun _ _ _ _ _ _ _ _ hv hl _ => ratom_sent hv hl (.inr (.inl rfl)), fun _ _ _ _ _ _ _ _ hv hl _ => ratom_sent hv hl (.inr (.inr rfl))⟩

end Sys2Proof.Machine

namespace Sys2Proof.Machine

/-! ## What an access at the home leaves alone: the links -/

/-- The links, with what their requests wait for, are those of `o`. -/
abbrev State.SameLinks (o s : State) : Prop := s.fabric = o.fabric

variable {o s : State}

theorem foldl_sameLinks {α : Type} {f : State → α → State} (hf : ∀ s x, o.SameLinks s → o.SameLinks (f s x)) :
    ∀ (l : List α) {s : State}, o.SameLinks s → o.SameLinks (l.foldl f s)
  | [], _, h => h
  | x :: l, _, h => foldl_sameLinks hf l (hf _ x h)

theorem foldl_sameLinks₂ {α β : Type} {f : β × State → α → β × State} (hf : ∀ r x, o.SameLinks r.2 → o.SameLinks (f r x).2) :
    ∀ (l : List α) {r : β × State}, o.SameLinks r.2 → o.SameLinks (l.foldl f r).2
  | [], _, h => h
  | x :: l, _, h => foldl_sameLinks₂ hf l (hf _ x h)

theorem ite_sameLinks {c : Prop} [Decidable c] {t : State} (hs : o.SameLinks s) (ht : o.SameLinks t) : o.SameLinks (if c then s else t) := by
  split
  · exact hs
  · exact ht

theorem coh_sameLinks (c : Coherence) (h : o.SameLinks s) : o.SameLinks { s with coh := c } := h

/-! ### Registers, errors and L2 -/

theorem signal_sameLinks (n : Nat) (h : o.SameLinks s) : o.SameLinks (s.signal n) := by
  unfold State.signal
  refine ite_sameLinks h (foldl_sameLinks (fun s p h => ?_) _ h)
  unfold signalPort
  exact ite_sameLinks h (ite_sameLinks h h)

theorem raise_sameLinks (b : Nat) (h : o.SameLinks s) : o.SameLinks (s.raise b) :=
  ite_sameLinks h (signal_sameLinks _ h)

theorem goViral_sameLinks (c a : Nat) (h : o.SameLinks s) : o.SameLinks (s.goViral c a) := ite_sameLinks h h

theorem countCorrected_sameLinks (n : Nat) (h : o.SameLinks s) : o.SameLinks (countCorrected n s) := by
  simp only [countCorrected]
  exact ite_sameLinks h (raise_sameLinks _ h)

theorem readCodeword_sameLinks (c : Nat) (h : o.SameLinks s) : o.SameLinks (readCodeword c s).2 := by
  refine foldl_sameLinks₂ (fun r u h => ?_) _ h
  cases u with
  | dram pa unc =>
    dsimp only
    split
    · exact h
    · split
      · exact goViral_sameLinks _ _ h
      · exact countCorrected_sameLinks _ h
  | _ => exact h

theorem readSector_sameLinks (a : Nat) (h : o.SameLinks s) : o.SameLinks (readSector a s).2 := by
  refine foldl_sameLinks₂ (fun r u h => ?_) _ h
  cases u with
  | l2 pa unc =>
    dsimp only
    split
    · exact h
    · split
      · exact goViral_sameLinks _ _ h
      · exact h
  | _ => exact h

theorem homePut_sameLinks (pa : Nat) (bs : List Byte) (h : o.SameLinks s) : o.SameLinks (s.homePut pa bs) :=
  foldl_sameLinks (f := fun s b => s.l2Fill b (sectorsOf b pa bs.length)) (fun _ _ h => h) _ h

theorem l2Read_sameLinks (pa n : Nat) (h : o.SameLinks s) : o.SameLinks (s.l2Read pa n).2 := by
  unfold State.l2Read
  refine foldl_sameLinks₂ (r := (true, s)) (fun r b h => ?_) _ h
  extract_lets lacks x
  have hx : o.SameLinks x.2 := by
    show o.SameLinks (if _ then _ else _ : Bool × State).2
    split
    · exact h
    · refine foldl_sameLinks₂ (r := (true, r.2)) (fun y i h => ?_) _ h
      show o.SameLinks (if _ then _ else _ : Bool × State).2
      split
      · exact readCodeword_sameLinks _ h
      · exact readSector_sameLinks _ h
  clear_value x
  split <;> exact hx

/-! ### Caches -/

theorem shedLines_sameLinks (p : L1Line → Bool) (h : o.SameLinks s) : o.SameLinks (s.shedLines p) :=
  foldl_sameLinks (f := State.sendWbD) (fun _ _ h => h) _ h

theorem ncFlush_sameLinks (core : Nat) (p : NcSector → Bool) (drop write : Bool) (h : o.SameLinks s) : o.SameLinks (s.ncFlush core p drop write) := by
  unfold State.ncFlush
  extract_lets hit s1 clean
  have h1 : o.SameLinks s1 :=
    ite_sameLinks (foldl_sameLinks (fun _ x h => foldl_sameLinks (fun _ _ h => homePut_sameLinks _ _ h) _ h) _ h) h
  clear_value s1
  exact ite_sameLinks h h1

theorem dropClusterTranslations_sameLinks (ci base n : Nat) (h : o.SameLinks s) : o.SameLinks (s.dropClusterTranslations ci base n) := by
  unfold State.dropClusterTranslations
  exact ite_sameLinks h (foldl_sameLinks (fun _ _ h => ncFlush_sameLinks _ _ _ _ h) _ (shedLines_sameLinks _ h))

theorem dropThrough_sameLinks (m : Msg) (h : o.SameLinks s) : o.SameLinks (s.dropThrough m) :=
  ite_sameLinks h (dropClusterTranslations_sameLinks _ _ _ h)

/-! ### Messages (04_dram_l2 R89 to R95) -/

theorem grantMemory_sameLinks (t : Txn) (k : MsgKind) (h : o.SameLinks s) : o.SameLinks (grantMemory s t k) := by
  have h' := l2Read_sameLinks t.unit t.gr h
  unfold grantMemory
  generalize s.l2Read t.unit t.gr = x at h'
  obtain ⟨ok, s'⟩ := x
  exact ite_sameLinks (c := ok = true) h' h'

/-- A unit's entry in the directory, with or without the bits of its frame. -/
theorem grant_sameLinks (die u gr pa : Nat) (d : UnitDir) (own : Bool) (h : o.SameLinks s) :
    o.SameLinks ((s.setUnitDir die u gr d).frameTouch pa own) := h

theorem completeHome_sameLinks (t : Txn) (h : o.SameLinks s) : o.SameLinks (completeHome s t) := by
  unfold completeHome
  extract_lets hd q only d p
  split
  · split
    · exact grant_sameLinks _ _ _ _ _ _ (grantMemory_sameLinks t .dataE h)
    · exact grant_sameLinks _ _ _ _ _ _ (grantMemory_sameLinks t .dataS h)
  · exact grant_sameLinks _ _ _ _ _ _ (s := (s.dropTxn t).sendMsg (grantMsg t .ackM [])) h
  · exact grant_sameLinks _ _ _ _ _ _ (grantMemory_sameLinks t .dataM h)
  · exact h

theorem sendMsg_sameLinks (m : Msg) (h : o.SameLinks s) : o.SameLinks (s.sendMsg m) := h

theorem putTxn_sameLinks (t : Txn) (h : o.SameLinks s) : o.SameLinks (s.putTxn t) := h

theorem setUnitDir_sameLinks (die u gr : Nat) (d : UnitDir) (h : o.SameLinks s) : o.SameLinks (s.setUnitDir die u gr d) := h

theorem completeGate_sameLinks (t : Txn) (h : o.SameLinks s) : o.SameLinks (completeGate s t) := by
  unfold completeGate
  split <;> dsimp only
  · exact h
  · have hs : o.SameLinks (if t.from_ < 128 then s.sendMsg (grantMsg t .wbAck []) else s) := ite_sameLinks h h
    generalize (if t.from_ < 128 then s.sendMsg (grantMsg t .wbAck []) else s) = s' at hs ⊢
    split
    · exact sendMsg_sameLinks _ (putTxn_sameLinks _ (coh_sameLinks _ (setUnitDir_sameLinks t.node t.unit t.gr
        { s'.unitDir t.node t.unit with owner := none, presence := 0 } hs)))
    · exact setUnitDir_sameLinks _ _ _ _ (s := s'.dropTxn t) hs
  · exact h
  · exact ite_sameLinks h h
  · exact h
  · have hd : o.SameLinks ((s.dropTxn t).setUnitDir t.node t.unit t.gr {}) := h
    generalize (s.dropTxn t).setUnitDir t.node t.unit t.gr {} = s' at hd ⊢
    split
    · exact sendMsg_sameLinks _ hd
    · exact sendMsg_sameLinks _ (sendMsg_sameLinks _ hd)

theorem advance_sameLinks (t : Txn) (h : o.SameLinks s) : o.SameLinks (advance s t) := by
  unfold advance
  refine ite_sameLinks h ?_
  split
  · exact h
  · exact ite_sameLinks (completeHome_sameLinks _ h) (completeGate_sameLinks _ h)

theorem openTxn_sameLinks (t : Txn) (l : List Nat) (x : Option Nat) (h : o.SameLinks s) : o.SameLinks (openTxn s t l x) :=
  advance_sameLinks _ (foldl_sameLinks (f := fun s d =>
    s.sendMsg { kind := .inv, src := nodeAgent t.node, dst := d, unit := t.unit, gr := t.gr, mark := t.mark }) (fun _ _ h => h) l h)

theorem applyWbD_sameLinks (m : Msg) (h : o.SameLinks s) : o.SameLinks (applyWbD s m) :=
  ite_sameLinks h (homePut_sameLinks m.unit m.data (s := (s.consume m.src m.unit).sendMsg _) h)

theorem acceptHome_sameLinks (m : Msg) (h : o.SameLinks s) : o.SameLinks (acceptHome s m) := by
  unfold acceptHome
  extract_lets hd q d0 d s' t others x
  have hs : o.SameLinks s' := ite_sameLinks h h
  clear_value s'
  refine ite_sameLinks (applyWbD_sameLinks _ h) (ite_sameLinks ?_ (ite_sameLinks ?_ ?_)) <;> exact openTxn_sameLinks _ _ _ hs

theorem acceptGate_sameLinks (n : Nat) (m : Msg) (h : o.SameLinks s) : o.SameLinks (acceptGate s n m) := by
  unfold acceptGate
  extract_lets q d0 t s0 d s1 mine others x
  have h1 : o.SameLinks s1 := ite_sameLinks h h
  clear_value s1
  refine ite_sameLinks (ite_sameLinks (openTxn_sameLinks _ _ _ (s := s0) h) h)
    (ite_sameLinks (ite_sameLinks (openTxn_sameLinks _ _ _ h1) h1) (ite_sameLinks (ite_sameLinks (openTxn_sameLinks _ _ _ h1) h1)
      (ite_sameLinks (openTxn_sameLinks _ _ _ h1) h1)))

theorem acceptProbe_sameLinks (n : Nat) (m : Msg) (h : o.SameLinks s) : o.SameLinks (acceptProbe s n m) :=
  ite_sameLinks (openTxn_sameLinks _ _ _ h) (openTxn_sameLinks _ _ _ h)

theorem recallEntry_sameLinks (n : Nat) (e : DirEntry) (h : o.SameLinks s) : o.SameLinks (recallEntry s n e) :=
  foldl_sameLinks (fun _ _ h => openTxn_sameLinks _ _ _ h) _ h

theorem takeUp_sameLinks (m : Msg) (h : o.SameLinks s) : o.SameLinks (takeUp s m) := by
  unfold takeUp
  refine ite_sameLinks (goViral_sameLinks _ _ h) (ite_sameLinks (acceptProbe_sameLinks _ _ h) (ite_sameLinks ?_
    (ite_sameLinks (acceptHome_sameLinks _ h) (acceptGate_sameLinks _ _ h))))
  split
  · exact recallEntry_sameLinks _ _ (s := s.wait m) h
  · exact h

theorem arriveMsg_sameLinks (m : Msg) (h : o.SameLinks s) : o.SameLinks (arriveMsg s m) := ite_sameLinks (takeUp_sameLinks _ h) h

theorem pump_sameLinks : ∀ (n : Nat) {s : State}, o.SameLinks s → o.SameLinks (pump n s)
  | 0, _, h => h
  | n + 1, s, h => by
    unfold pump
    split
    · exact h
    · exact pump_sameLinks n (takeUp_sameLinks _ (s := { s with coh := { s.coh with waiting := _ } }) h)

theorem clusterForward_sameLinks (m : Msg) (h : o.SameLinks s) : o.SameLinks (clusterForward s m) := by
  unfold clusterForward
  extract_lets back give ls
  split
  · exact ite_sameLinks (dropThrough_sameLinks m (s := s.dropLines m.dst m.unit) h) h
  · next s' _ _ =>
    have hs : o.SameLinks s' := ite_sameLinks (dropThrough_sameLinks m h) h
    clear_value s'
    split <;> exact hs

theorem clusterInv_sameLinks (m : Msg) (h : o.SameLinks s) : o.SameLinks (clusterInv s m) :=
  dropThrough_sameLinks m (s := s.dropLines m.dst m.unit) h

theorem clusterData_sameLinks (m : Msg) (h : o.SameLinks s) : o.SameLinks (clusterData s m) := by
  unfold clusterData
  extract_lets st s1 mine l
  have h1 : o.SameLinks s1 := ite_sameLinks h h
  exact h1

theorem clusterAck_sameLinks (m : Msg) (h : o.SameLinks s) : o.SameLinks (clusterAck s m) := by
  unfold clusterAck
  split <;> exact h

theorem gateAnswer_sameLinks (n : Nat) (m : Msg) (h : o.SameLinks s) : o.SameLinks (gateAnswer s n m) := by
  unfold gateAnswer
  split
  · exact h
  · split
    · exact h
    · extract_lets s' t0 d q others t grant s2 x
      have hgrant : ∀ (k : MsgKind) (e : UnitDir), o.SameLinks (grant k e) := fun _ _ => coh_sameLinks (s := s) _ h
      have h2 : o.SameLinks s2 := coh_sameLinks (s := s) _ h
      clear_value grant s2
      split
      · exact hgrant _ _
      · exact ite_sameLinks (hgrant _ _) (hgrant _ _)
      · exact openTxn_sameLinks _ _ _ (s := s'.setUnitDir n t.unit t.gr { d with state := .M }) h
      · exact ite_sameLinks (openTxn_sameLinks _ _ _ h2) (openTxn_sameLinks _ _ _ h2)

theorem gateWbAck_sameLinks (n u : Nat) (h : o.SameLinks s) : o.SameLinks (gateWbAck s n u) := by
  simp only [gateWbAck]
  split <;> exact h

theorem nodeInvAck_sameLinks (n : Nat) (m : Msg) (h : o.SameLinks s) : o.SameLinks (nodeInvAck s n m) := by
  simp only [nodeInvAck]
  split
  · exact h
  · exact advance_sameLinks _ h

theorem nodeFwdAck_sameLinks (n : Nat) (m : Msg) (h : o.SameLinks s) : o.SameLinks (nodeFwdAck s n m) := by
  unfold nodeFwdAck
  split
  · exact h
  · extract_lets hd i q d set toHome s' p c
    have hset : ∀ {u : State} (e : UnitDir), o.SameLinks u → o.SameLinks (set u e) := fun _ h => h
    have hhome : ∀ {u : State} (st : Nat), o.SameLinks u → o.SameLinks (toHome u st) := fun _ h => h
    have hs : o.SameLinks s' := h
    clear_value set toHome s'
    split
    · exact ite_sameLinks (hset _ hs) (hset _ hs)
    · exact hset _ hs
    · exact ite_sameLinks (hhome _ (hset _ hs)) (hhome _ (hset _ hs))
    · exact hhome _ (hset _ hs)
    · exact ite_sameLinks (hset _ hs) (hset _ hs)

theorem nodeNoData_sameLinks (n : Nat) (m : Msg) (h : o.SameLinks s) : o.SameLinks (nodeNoData s n m) := by
  simp only [nodeNoData]
  split
  · exact h
  · exact ite_sameLinks (completeHome_sameLinks _ h) (ite_sameLinks (openTxn_sameLinks _ _ _ h)
      (ite_sameLinks (openTxn_sameLinks _ _ _ h) (completeGate_sameLinks _ h)))

theorem handle_sameLinks (m : Msg) (h : o.SameLinks s) : o.SameLinks (handle s m) := by
  unfold handle
  split
  · split
    · exact clusterForward_sameLinks m h
    · exact clusterForward_sameLinks m h
    · exact clusterInv_sameLinks m h
    · exact clusterAck_sameLinks m h
    · exact h
    · exact clusterData_sameLinks m h
  · extract_lets n
    split
    · exact nodeInvAck_sameLinks n m h
    · exact nodeFwdAck_sameLinks n m h
    · exact nodeNoData_sameLinks n m h
    · exact gateWbAck_sameLinks n _ h
    · exact gateAnswer_sameLinks n m h
    · exact ite_sameLinks (homePut_sameLinks _ _ h) (gateAnswer_sameLinks n m h)
    · exact gateAnswer_sameLinks n m h
    · exact ite_sameLinks h (gateAnswer_sameLinks n m h)
    · exact arriveMsg_sameLinks m h

theorem deliver_sameLinks (m : Msg) (h : o.SameLinks s) : o.SameLinks (deliver s m) :=
  ite_sameLinks (goViral_sameLinks _ _ (s := { s with coh := { s.coh with msgs := s.coh.msgs.erase m } }) h)
    (pump_sameLinks _ (handle_sameLinks m (s := { s with coh := { s.coh with msgs := s.coh.msgs.erase m } }) h))

theorem drive_sameLinks (done : State → Bool) (near : Msg → Bool) : ∀ (f : Nat) {s : State}, o.SameLinks s → o.SameLinks (drive done near f s)
  | 0, _, h => h
  | f + 1, s, h => by
    unfold drive
    refine ite_sameLinks h ?_
    split
    · exact drive_sameLinks done near f (deliver_sameLinks _ h)
    · exact h

theorem settled_sameLinks (pa n : Nat) (h : o.SameLinks s) : o.SameLinks (s.settled pa n) := ite_sameLinks h (drive_sameLinks _ _ _ h)

/-! ### Accesses at the home -/

theorem gather_sameLinks (pa n : Nat) (mark : Bool) (h : o.SameLinks s) : o.SameLinks (s.gather pa n mark) := by
  have h1 := settled_sameLinks pa n h
  unfold State.gather
  exact ite_sameLinks h1 (settled_sameLinks _ _ (foldl_sameLinks (fun _ _ h => openTxn_sameLinks _ _ _ h) _ h1))

theorem homeWrite_sameLinks (pa : Nat) (bs : List Byte) (h : o.SameLinks s) : o.SameLinks (s.homeWrite pa bs) :=
  homePut_sameLinks pa bs (gather_sameLinks pa bs.length false h)

theorem homeOr_sameLinks (pa : Nat) (v : Byte) (mark : Bool) (h : o.SameLinks s) : o.SameLinks (s.homeOr pa v mark) :=
  homePut_sameLinks _ _ (gather_sameLinks pa 1 mark h)

theorem homeRead_sameLinks (pa n : Nat) (h : o.SameLinks s) : o.SameLinks (s.homeRead pa n).2 :=
  foldl_sameLinks (fun _ _ h => ite_sameLinks h (l2Read_sameLinks _ _ h)) _ (settled_sameLinks pa n h)

/-- Setting the bits of frames that wait changes no weft and no team (05_translation R121). -/
theorem applyOrs_sameLinks (h : o.SameLinks s) : o.SameLinks (applyOrs s) :=
  foldl_sameLinks (fun s x h => ite_sameLinks h
    (homeOr_sameLinks x.1 x.2 false (s := { s with coh := { s.coh with ors := s.coh.ors.erase x } }) h)) _ h

theorem orLeaf_sameLinks (leaf : Nat) (m : Byte) (h : o.SameLinks s) : o.SameLinks (s.orLeaf leaf m) := ite_sameLinks h (homeOr_sameLinks _ _ _ h)

end Sys2Proof.Machine

namespace Sys2Proof.Machine

variable {s s1 s2 q w : State} {l n typ : Nat} {f : Flit} {x : Instr} {t : Byte} {v : BitVec 128} {pa : Nat}

/-! ## What accesses of hosts and peers leave of the links -/

theorem hostRead_sameLinks (s : State) (pa n : Nat) : s.SameLinks (s.hostRead pa n).2 := homeRead_sameLinks pa n rfl

theorem hostWrite_sameLinks (s : State) (pa : Nat) (bs : List Byte) : s.SameLinks (s.hostWrite pa bs) := homeWrite_sameLinks pa bs rfl

theorem hostXlate_sameLinks {ctx : Nat} {acc : Acc} {va : Dword} (h : s.hostXlate ctx acc va = .ok (pa, s2)) : s.SameLinks s2 := by
  obtain ⟨wk, hwk⟩ : ∃ wk, walk s ctx va 3 = wk := ⟨_, rfl⟩
  rw [State.hostXlate, hwk] at h
  split at h
  · cases h
  split at h
  · cases h
  split at h
  · cases h
  next e _ =>
  split at h
  · cases h
  split at h
  · cases h
  obtain ⟨-, rfl⟩ := Prod.mk.inj (Except.ok.inj h)
  exact ite_sameLinks (orLeaf_sameLinks _ _ (orLeaf_sameLinks _ _ rfl)) (orLeaf_sameLinks _ _ rfl)

theorem after_sameLinks {u : State} (h : s.clear u) : u.SameLinks (s.after u) := by
  obtain ⟨hv, hb⟩ := h
  rw [State.after_of_clear hv hb]
  exact applyOrs_sameLinks rfl

/-! ## Receipt (20_host_fabric R448) -/

/-- What the checks of a flit that comes in find: a link that is up, a good check in order, and zero fields. -/
structure ComesIn (s : State) (l : Nat) (f : Flit) : Prop where
  powered : s.powered = true
  up : s.linkUp l = true
  good : s.flitBad l f = false
  zeros : f.zerosOk = true

/-- A flit that passes the checks is handed on. -/
theorem receive_comesIn (h : ComesIn s l f) (ht : f.typ.toNat = typ) (act : State → Except Fault State) :
    receive typ l f act s = outcomeOf (act (s.accept l f)) := by
  unfold receive
  rw [h.powered, h.up, h.good, h.zeros, ht]
  simp

/-- The end of a link after a flit in order: its ACK lets go of kept flits, and a number of its own is the next expected one. -/
theorem link_accept (s : State) (l : Nat) (f : Flit) : (s.accept l f).link l =
    { s.link l with kept := (s.link l).kept.filter fun g => !seqLe g.seq f.ack
                    recvSeq := if f.numbered then (s.link l).recvSeq + 1 else (s.link l).recvSeq } := by
  unfold State.accept State.takeAck
  split <;> simp only [State.link_setLink_same]

/-- Receipt changes the end of its link alone. -/
theorem accept_links (s : State) (l : Nat) (f : Flit) :
    s.accept l f = { s with fabric := { s.fabric with links := (s.accept l f).fabric.links } } := by
  unfold State.accept
  split <;> rfl

/-! ## Answers to requests of peers -/

/-- The response copies ID and FL.TAG, and goes back to the source. -/
def responseTo (f : Flit) (t : Byte) (v : BitVec 128) : Flit := { Flit.blank with typ := t, fl := f.fl &&& 2, dst := f.src, id := f.id, op1 := v }

/-- A response takes the next number of its link and goes out; nothing but the link changes. -/
theorem respond_numbered (hv : s.viral = false) (ht : (responseTo f t v).numbered = true) : s.respond l f t v =
    s.setLink l { s.link l with sendSeq := (s.link l).sendSeq + 1, kept := (s.link l).kept ++ [s.numberedFlit l (responseTo f t v)]
                                out := (s.link l).out ++ [s.numberedFlit l (responseTo f t v)] } := send_numbered hv ht

/-- In `u` the request has been answered with a response of type `t` and value `v`, behind the flits of `q`, and its number counted. -/
def Responded (s q u : State) (l : Nat) (f : Flit) (t : Byte) (v : BitVec 128) : Prop :=
  ∃ g : Flit, (u.link l).out = (q.link l).out ++ [g] ∧ g.typ = t ∧ g.fl = f.fl &&& 2 ∧ g.dst = f.src ∧ g.id = f.id ∧ g.op1 = v
    ∧ g.seq = (q.link l).sendSeq ∧ g.crcOk = true ∧ (u.link l).recvSeq = (s.link l).recvSeq + 1 ∧ u.mem = q.mem

theorem responded_respond (hv : w.viral = false) (hl : w.link l = q.link l) (hm : w.mem = q.mem) (hr : (q.link l).recvSeq = (s.link l).recvSeq + 1)
    (ht : (responseTo f t v).numbered = true) : Responded s q (w.respond l f t v) l f t v := by
  unfold Responded
  rw [respond_numbered hv ht, State.link_setLink_same]
  refine ⟨w.numberedFlit l (responseTo f t v), ?_, rfl, rfl, rfl, rfl, rfl, ?_, crcOk_sealed _, ?_, hm⟩
  · rw [hl]
  · exact congrArg LinkEnd.sendSeq hl
  · exact (congrArg LinkEnd.recvSeq hl).trans hr

/-! ## The request (20_host_fabric R450) -/

/-- Types 1 and 2 read. -/
def requestWrites (f : Flit) : Bool := f.typ.toNat != 1 && f.typ.toNat != 2

/-- A request that its window serves, and no kept value answers: `s2` is the state once its address is translated. -/
structure Admitted (s : State) (l : Nat) (f : Flit) (pa : Nat) (s2 : State) : Prop where
  viral : s.viral = false
  version : reqBytes f.typ.toNat = 16 → 2 ≤ s.field (plstat l) 4 4
  fresh : f.fl.getLsbD 0 = true → 5 ≤ f.typ.toNat → s.keptFor f = none
  enabled : (s.reg (rwcfg (bitsOf f.raddr 60 4))).getLsbD 0 = true
  writable : requestWrites f = true → (s.reg (rwcfg (bitsOf f.raddr 60 4))).getLsbD 1 = true
  inside : bitsOf f.raddr 0 48 < s.field (rwlen (bitsOf f.raddr 60 4)) 14 34 * 16384
  aligned : bitsOf f.raddr 0 48 % reqBytes f.typ.toNat = 0
  xlate : s.hostXlate (bitsOf (s.reg (rwcfg (bitsOf f.raddr 60 4))) 12 12) (if requestWrites f then .write else .read)
    ((s.reg (rwbase (bitsOf f.raddr 60 4)) &&& ~~~(16383 : Dword)) + BitVec.ofNat 64 (bitsOf f.raddr 0 48)) = .ok (pa, s2)

/-- The old value of an atomic's 8 bytes. -/
def State.oldAt (s2 : State) (pa : Nat) : Dword := leDword (s2.hostRead pa 8).1

/-- Memory once an atomic has been performed. -/
def State.swapped (s2 : State) (f : Flit) (pa : Nat) : State := (s2.hostRead pa 8).2.hostWrite pa (leBytes 8 (reqNew f (s2.oldAt pa)).toNat)

/-- An admitted request is performed as a host access, and answered. -/
theorem serve_admitted (h : Admitted s l f pa s2) : s.serve l f =
    if requestWrites f = false then
      (s2.hostRead pa (reqBytes f.typ.toNat)).2.respond l f 0x41 (BitVec.ofNat 128 (leNat (s2.hostRead pa (reqBytes f.typ.toNat)).1))
    else if 5 ≤ f.typ.toNat then ((s2.swapped f pa).keep f (s2.oldAt pa)).respond l f 0x41 ((s2.oldAt pa).setWidth 128)
    else (s2.hostWrite pa (leBytes (reqBytes f.typ.toNat) f.op1.toNat)).respond l f 0x42 0 := by
  obtain ⟨hv, hver, hfresh, hen, hwr, hin, hal, hx⟩ := h
  have hkept : (if decide (5 ≤ f.typ.toNat) && f.fl.getLsbD 0 then s.keptFor f else none) = none := by
    split
    · next hc =>
      rw [Bool.and_eq_true, decide_eq_true_eq] at hc
      exact hfresh hc.2 hc.1
    · rfl
  unfold requestWrites at hwr hx ⊢
  unfold State.serve
  extract_lets t n win off cfg wr atomic va
  rw [hv, if_neg Bool.false_ne_true, if_neg fun hc => absurd hc.2 (hver hc.1).not_gt, hkept]
  dsimp only
  rw [if_neg (by simpa [hen, hin, hal, cfg, win, off, wr, n, t] using hwr), hx]
  simp only [Bool.not_eq_true']
  rfl

/-- The value kept last for a source's id is the one that a request sent again finds. -/
theorem keptFor_keep (s : State) (f : Flit) (o : Dword) : (s.keep f o).keptFor f = some { src := f.src.toNat, id := f.id.toNat, val := o } := by
  unfold State.keptFor State.keep
  rw [List.find?_cons_of_pos (by simp)]

/-! ## Receipt of a request -/

/-- A request that comes in outside a repair pause, and that its window admits, is performed, and the response leaves. -/
theorem request_answered (hx : exec x s = receive typ l f (fun s => s.hostAccess (.flit l f)) s) (ht : f.typ.toNat = typ) (hin : ComesIn s l f)
    (hrep : s.repairing = false) (hheld : s.held = []) (hserve : ((s.accept l f).holding (.flit l f)).serve l f = w.respond l f t v)
    (hw : w = { q with fabric := w.fabric }) (hl : w.link l = q.link l) (hq : ((s.accept l f).holding (.flit l f)).SameLinks q) (hn : f.numbered = true)
    (hv : s.viral = false) (hc : ((s.accept l f).holding (.flit l f)).clear q) (hr : (responseTo f t v).numbered = true) :
    ∃ t', exec x s = .next t' ∧ t' = { ((s.accept l f).holding (.flit l f)).after (w.respond l f t v) with held := [] }
      ∧ t'.fabric = (w.respond l f t v).fabric ∧ Responded s q (w.respond l f t v) l f t v := by
  have hqv : q.viral = false := by
    rw [hc.1]
    exact (congrArg State.viral (accept_links s l f)).trans hv
  have hwv : w.viral = false := by
    rw [hw]
    exact hqv
  have hu : ((s.accept l f).holding (.flit l f)).clear (w.respond l f t v) := by
    rw [respond_numbered hwv hr, hw]
    exact hc
  have hp : (s.accept l f).hostAccess (.flit l f) = .ok { ((s.accept l f).holding (.flit l f)).after (w.respond l f t v) with held := [] } := by
    refine hostAccess_performed ?_ ?_ (congrArg Except.ok hserve) hu.2
    · exact (congrArg State.repairing (accept_links s l f)).trans hrep
    · exact (congrArg State.held (accept_links s l f)).trans hheld
  refine ⟨_, ?_, rfl, after_sameLinks hu, responded_respond hwv hl ?_ ?_ hr⟩
  · rw [hx, receive_comesIn hin ht, hp]
    rfl
  · rw [hw]
  · have hql : q.link l = (s.accept l f).link l := by
      unfold State.link
      rw [hq]
      rfl
    rw [hql, link_accept, hn]
    rfl

/-- What O48 asks of a flit that comes in and of the module, whatever its type. -/
structure Requested (s : State) (l : Nat) (f : Flit) (typ : Nat) (pa : Nat) (s2 : State) : Prop where
  code : f.typ = BitVec.ofNat 8 typ
  known : 1 ≤ typ ∧ typ ≤ 7
  comes : ComesIn s l f
  repairing : s.repairing = false
  held : s.held = []
  admitted : Admitted ((s.accept l f).holding (.flit l f)) l f pa s2

theorem Requested.toNat (h : Requested s l f typ pa s2) : f.typ.toNat = typ := by
  rw [h.code, BitVec.toNat_ofNat, Nat.mod_eq_of_lt (by have := h.known; omega)]

/-- A request has a number. -/
theorem Requested.numbered (h : Requested s l f typ pa s2) : f.numbered = true := by
  have ht := h.toNat
  have hk := h.known
  have hne : ∀ {b : Byte}, 7 < b.toNat → f.typ ≠ b := by
    rintro b hb rfl
    omega
  unfold Flit.numbered
  simp only [Bool.and_eq_true, bne_iff_ne]
  exact ⟨⟨hne (by decide), hne (by decide)⟩, hne (by decide)⟩

theorem Requested.writes (h : Requested s l f typ pa s2) : requestWrites f = (typ != 1 && typ != 2) := by
  unfold requestWrites
  rw [h.toNat]

theorem Requested.sameLinks (h : Requested s l f typ pa s2) : ((s.accept l f).holding (.flit l f)).SameLinks s2 :=
  hostXlate_sameLinks h.admitted.xlate

theorem Requested.viral (h : Requested s l f typ pa s2) : s.viral = false := by
  have hv := h.admitted.viral
  rw [accept_links] at hv
  exact hv

section
variable (hx : exec x s = receive typ l f (fun s => s.hostAccess (.flit l f)) s) (h : Requested s l f typ pa s2)
include hx h

/-- A read is answered with the bytes of its address. -/
theorem read_served (hn : reqBytes typ = n) (hw : requestWrites f = false) (hc : ((s.accept l f).holding (.flit l f)).clear (s2.hostRead pa n).2) :
    ∃ t u, exec x s = .next t ∧ t = { ((s.accept l f).holding (.flit l f)).after u with held := [] } ∧ t.fabric = u.fabric
      ∧ Responded s (s2.hostRead pa n).2 u l f 0x41 (BitVec.ofNat 128 (leNat (s2.hostRead pa n).1)) := by
  have hs := serve_admitted h.admitted
  rw [if_pos hw, h.toNat, hn] at hs
  have hq := (hostRead_sameLinks s2 pa n).trans h.sameLinks
  obtain ⟨t, ht⟩ := request_answered hx h.toNat h.comes h.repairing h.held hs rfl rfl hq h.numbered h.viral hc rfl
  exact ⟨t, _, ht⟩

/-- A write changes memory, and is acknowledged. -/
theorem write_served (hn : reqBytes typ = n) (hw : requestWrites f = true) (ha : ¬ 5 ≤ typ)
    (hc : ((s.accept l f).holding (.flit l f)).clear (s2.hostWrite pa (leBytes n f.op1.toNat))) :
    ∃ t u, exec x s = .next t ∧ t = { ((s.accept l f).holding (.flit l f)).after u with held := [] } ∧ t.fabric = u.fabric
      ∧ Responded s (s2.hostWrite pa (leBytes n f.op1.toNat)) u l f 0x42 0 := by
  have hs := serve_admitted h.admitted
  rw [if_neg (by simp [hw]), h.toNat, if_neg ha, hn] at hs
  have hq := (hostWrite_sameLinks s2 pa (leBytes n f.op1.toNat)).trans h.sameLinks
  obtain ⟨t, ht⟩ := request_answered hx h.toNat h.comes h.repairing h.held hs rfl rfl hq h.numbered h.viral hc rfl
  exact ⟨t, _, ht⟩

/-- An atomic changes memory, is answered with the old value, and keeps it (07_memory_instructions R174). -/
theorem atomic_served (hw : requestWrites f = true) (ha : 5 ≤ typ) (hc : ((s.accept l f).holding (.flit l f)).clear (s2.swapped f pa)) :
    ∃ t u, exec x s = .next t ∧ t = { ((s.accept l f).holding (.flit l f)).after u with held := [] } ∧ t.fabric = u.fabric
      ∧ Responded s (s2.swapped f pa) u l f 0x41 ((s2.oldAt pa).setWidth 128) ∧ ∃ v, u.keptFor f = some v ∧ v.val = s2.oldAt pa := by
  have hs := serve_admitted h.admitted
  rw [if_neg (by simp [hw]), h.toNat, if_pos ha] at hs
  have hq : ((s.accept l f).holding (.flit l f)).SameLinks (s2.swapped f pa) :=
    ((hostWrite_sameLinks _ pa _).trans (hostRead_sameLinks s2 pa 8)).trans h.sameLinks
  obtain ⟨t, ht, hta, htf, hres⟩ := request_answered hx h.toNat h.comes h.repairing h.held hs rfl rfl hq h.numbered h.viral hc rfl
  refine ⟨t, _, ht, hta, htf, hres, ?_⟩
  have hv : ((s2.swapped f pa).keep f (s2.oldAt pa)).viral = false := hc.1.trans h.admitted.viral
  rw [respond_numbered hv rfl]
  exact ⟨_, keptFor_keep (s2.swapped f pa) f _, rfl⟩

end

/-- The window's registers, and the values kept, are not changed by the receipt. -/
theorem admitted_accept (hv : s.viral = false) (hver : reqBytes f.typ.toNat = 16 → 2 ≤ s.field (plstat l) 4 4)
    (hk : f.fl.getLsbD 0 = true → 5 ≤ f.typ.toNat → s.keptFor f = none)
    (hen : (s.reg (rwcfg (bitsOf f.raddr 60 4))).getLsbD 0 = true)
    (hwr : requestWrites f = true → (s.reg (rwcfg (bitsOf f.raddr 60 4))).getLsbD 1 = true)
    (hin : bitsOf f.raddr 0 48 < s.field (rwlen (bitsOf f.raddr 60 4)) 14 34 * 16384)
    (hal : bitsOf f.raddr 0 48 % reqBytes f.typ.toNat = 0)
    (hx : ((s.accept l f).holding (.flit l f)).hostXlate (bitsOf (s.reg (rwcfg (bitsOf f.raddr 60 4))) 12 12)
      (if requestWrites f then .write else .read)
      ((s.reg (rwbase (bitsOf f.raddr 60 4)) &&& ~~~(16383 : Dword)) + BitVec.ofNat 64 (bitsOf f.raddr 0 48)) = .ok (pa, s2)) :
    Admitted ((s.accept l f).holding (.flit l f)) l f pa s2 := by
  rw [accept_links] at hx ⊢
  exact ⟨hv, hver, hk, hen, hwr, hin, hal, hx⟩

/-! ### The instructions of the requests -/

theorem exec_rld8 (l : Nat) (f : Flit) (s : State) : exec (.rld8 l f) s = receive 1 l f (fun s => s.hostAccess (.flit l f)) s := rfl

theorem exec_rld16 (l : Nat) (f : Flit) (s : State) : exec (.rld16 l f) s = receive 2 l f (fun s => s.hostAccess (.flit l f)) s := rfl

theorem exec_rst8 (l : Nat) (f : Flit) (s : State) : exec (.rst8 l f) s = receive 3 l f (fun s => s.hostAccess (.flit l f)) s := rfl

theorem exec_rst16 (l : Nat) (f : Flit) (s : State) : exec (.rst16 l f) s = receive 4 l f (fun s => s.hostAccess (.flit l f)) s := rfl

theorem exec_raddFlit (l : Nat) (f : Flit) (s : State) : exec (.raddFlit l f) s = receive 5 l f (fun s => s.hostAccess (.flit l f)) s := rfl

theorem exec_rcas (l : Nat) (f : Flit) (s : State) : exec (.rcas l f) s = receive 6 l f (fun s => s.hostAccess (.flit l f)) s := rfl

theorem exec_rxch (l : Nat) (f : Flit) (s : State) : exec (.rxch l f) s = receive 7 l f (fun s => s.hostAccess (.flit l f)) s := rfl

theorem reqNew_add (h : f.typ = BitVec.ofNat 8 5) : reqNew f = fun o => o + f.op1.setWidth 64 := by
  unfold reqNew
  rw [h]
  rfl

theorem reqNew_cas (h : f.typ = BitVec.ofNat 8 6) : reqNew f = fun o => if o = f.op1.setWidth 64 then f.op2 else o := by
  unfold reqNew
  rw [h]
  rfl

theorem reqNew_xch (h : f.typ = BitVec.ofNat 8 7) : reqNew f = fun _ => f.op1.setWidth 64 := by
  unfold reqNew
  rw [h]
  rfl

/-- Settles O48: each request by what its window admits (`read_served`, `write_served`, `atomic_served`). -/
theorem peerRequestsServed : Obligations.PeerRequestsServed := by
  unfold Obligations.PeerRequestsServed
  intro l f s s1 w off cfg va answer one get put swap read write atomic rmw X
  have req : ∀ {typ n : Nat} {wr : Bool} {pa : Nat} {s2 : State}, 1 ≤ typ ∧ typ ≤ 7 → reqBytes typ = n → (typ != 1 && typ != 2) = wr →
      f.typ = BitVec.ofNat 8 typ → s.powered = true → s.linkUp l = true → s.flitBad l f = false → f.zerosOk = true →
      s.viral = false → s.repairing = false → s.held = [] → (n = 16 → 2 ≤ s.field (plstat l) 4 4) →
      (f.fl.getLsbD 0 = true → 5 ≤ typ → s.keptFor f = none) →
      cfg.getLsbD 0 = true → (wr = true → cfg.getLsbD 1 = true) → off < s.field (rwlen w) 14 34 * 16384 → off % n = 0 →
      s1.hostXlate (bitsOf cfg 12 12) (if wr then .write else .read) va = .ok (pa, s2) → Requested s l f typ pa s2 := by
    intro typ n wr pa s2 hk hn hw ht hp hu hg hz hv hrep hheld hver hkept hen hwr hin hal hx
    have hN : f.typ.toNat = typ := by
      rw [ht, BitVec.toNat_ofNat, Nat.mod_eq_of_lt (by omega)]
    have hW : requestWrites f = wr := by
      unfold requestWrites
      rw [hN, hw]
    subst hn hN hW
    exact ⟨ht, hk, ⟨hp, hu, hg, hz⟩, hrep, hheld, admitted_accept hv hver hkept hen hwr hin hal hx⟩
  have reads : ∀ {typ n : Nat} {x : Instr}, exec x s = receive typ l f (fun s => s.hostAccess (.flit l f)) s → typ = 1 ∨ typ = 2 →
      reqBytes typ = n → one typ n x false (get n) (read n) := by
    intro typ n x hx hk hn ht hp hu hg hz hv hrep hheld hver hkept hen hwr hin hal pa s2 hxl hc
    have hw : (typ != 1 && typ != 2) = false := by rcases hk with rfl | rfl <;> rfl
    have h := req (by omega) hn hw ht hp hu hg hz hv hrep hheld hver hkept hen hwr hin hal hxl
    exact read_served hx h hn (h.writes.trans hw) hc
  have writes : ∀ {typ n : Nat} {x : Instr}, exec x s = receive typ l f (fun s => s.hostAccess (.flit l f)) s → typ = 3 ∨ typ = 4 →
      reqBytes typ = n → one typ n x true (put n) (write n) := by
    intro typ n x hx hk hn ht hp hu hg hz hv hrep hheld hver hkept hen hwr hin hal pa s2 hxl hc
    have hw : (typ != 1 && typ != 2) = true := by rcases hk with rfl | rfl <;> rfl
    have h := req (by omega) hn hw ht hp hu hg hz hv hrep hheld hver hkept hen hwr hin hal hxl
    exact write_served hx h hn (h.writes.trans hw) (by omega) hc
  have atomics : ∀ {typ : Nat} {x : Instr} {new : Dword → Dword}, exec x s = receive typ l f (fun s => s.hostAccess (.flit l f)) s →
      5 ≤ typ ∧ typ ≤ 7 → reqBytes typ = 8 → (f.typ = BitVec.ofNat 8 typ → reqNew f = new) → rmw typ x new := by
    intro typ x new hx hk hn hnew ht hp hu hg hz hv hrep hheld hver hkept hen hwr hin hal pa s2 hxl hc
    have hw : (typ != 1 && typ != 2) = true := by simp; omega
    have h := req (by omega) hn hw ht hp hu hg hz hv hrep hheld hver hkept hen hwr hin hal hxl
    obtain rfl := hnew ht
    exact atomic_served hx h (h.writes.trans hw) hk.1 hc
  exact ⟨reads (exec_rld8 l f s) (.inl rfl) rfl, reads (exec_rld16 l f s) (.inr rfl) rfl, writes (exec_rst8 l f s) (.inl rfl) rfl,
    writes (exec_rst16 l f s) (.inr rfl) rfl, atomics (new := fun o => o + X) (exec_raddFlit l f s) (by decide) rfl reqNew_add,
    atomics (new := fun o => if o = X then f.op2 else o) (exec_rcas l f s) (by decide) rfl reqNew_cas,
    atomics (new := fun _ => X) (exec_rxch l f s) (by decide) rfl reqNew_xch⟩

end Sys2Proof.Machine

namespace Sys2Proof.Machine

variable {s t : State} {l n typ : Nat} {f : Flit} {x : RemoteWait} {i : Instr} {val : Option (BitVec 128)} {cause : Option Cause}

/-! ## What receipt leaves alone -/

@[simp] theorem accept_wefts (s : State) (l : Nat) (f : Flit) : (s.accept l f).wefts = s.wefts := by rw [accept_links]

@[simp] theorem accept_mem (s : State) (l : Nat) (f : Flit) : (s.accept l f).mem = s.mem := by rw [accept_links]

@[simp] theorem accept_waits (s : State) (l : Nat) (f : Flit) : (s.accept l f).fabric.waits = s.fabric.waits := by rw [accept_links]

@[simp] theorem accept_viral (s : State) (l : Nat) (f : Flit) : (s.accept l f).viral = s.viral := by
  rw [accept_links]
  rfl

@[simp] theorem accept_field (s : State) (l : Nat) (f : Flit) (off lo n : Nat) : (s.accept l f).field off lo n = s.field off lo n := by
  rw [accept_links]
  rfl

/-! ## The wait of a lane ends (07_memory_instructions R171, R172) -/

/-- What completing a remote access leaves alone: the links, the registers and memory. -/
abbrev State.SameDevice (o s : State) : Prop := s.fabric = o.fabric ∧ s.mgmt = o.mgmt ∧ s.mem = o.mem

theorem finishRemote_sameDevice (s : State) (k j : Nat) (f : Flight) : s.SameDevice (finishRemote s k j f) := by
  have hgive : ∀ {ic vs bs fs}, s.SameDevice (s.giveResult k ic vs bs fs) := by
    intro ic vs bs fs
    unfold State.giveResult
    split <;> exact ⟨rfl, rfl, rfl⟩
  have himpr : ∀ {u : State} {y : Impr}, s.SameDevice u → s.SameDevice (u.imprecise k y) := by
    intro u y h
    unfold State.imprecise
    dsimp only
    split <;> exact h
  unfold finishRemote remoteFaults
  dsimp only
  split
  · exact hgive
  · exact himpr hgive

theorem settleRst_sameDevice (s : State) (k seq : Nat) : s.SameDevice (settleRst s k seq) := by
  unfold settleRst
  dsimp only
  split
  · exact ⟨rfl, rfl, rfl⟩
  · split
    · exact finishRemote_sameDevice ..
    · exact ⟨rfl, rfl, rfl⟩

/-- A wait that ends leaves the registers and memory alone, and of the links only that wait. -/
theorem endWait_sameDevice (s : State) (x : RemoteWait) (val : Option (BitVec 128)) (cause : Option Cause) :
    ({ s with fabric := { s.fabric with waits := s.fabric.waits.erase x } } : State).SameDevice (s.endWait x val cause) :=
  settleRst_sameDevice ..

theorem endWait_saved (s : State) (x : RemoteWait) (val : Option (BitVec 128)) (cause : Option Cause) :
    (s.endWait x val cause).fabric.saved = s.fabric.saved := by rw [(endWait_sameDevice ..).1]

/-- An access other than RST keeps its answer until it completes by itself. -/
theorem endWait_kept (h : ∀ y ∈ (s.weft x.k).flights, y.op ≠ .rst) : s.endWait x val cause =
    { s with fabric := { s.fabric with waits := s.fabric.waits.erase x } }.setWeft x.k ((s.weft x.k).answer x.seq x.lane val cause) := by
  refine settleRst_none fun y hy _ hr => ?_
  rw [State.modWeft, State.weft_setWeft_same] at hy
  obtain ⟨z, hz, rfl⟩ := List.mem_map.1 hy
  refine absurd ?_ (h z hz)
  rw [← hr]
  split <;> rfl

/-- In `t` the wait of a lane is over, and nothing else of the wefts, the waits and memory has changed since `s`. -/
def WaitEnds (s : State) (x : RemoteWait) (val : Option (BitVec 128)) (cause : Option Cause) (t : State) : Prop :=
  t.weft x.k = (s.weft x.k).answer x.seq x.lane val cause ∧ (∀ k, k ≠ x.k → t.weft k = s.weft k)
    ∧ t.fabric.waits = s.fabric.waits.erase x ∧ t.mem = s.mem

theorem waitEnds_endWait {s' : State} (h : ∀ y ∈ (s.weft x.k).flights, y.op ≠ .rst) (hw : s'.wefts = s.wefts)
    (hf : s'.fabric.waits = s.fabric.waits) (hm : s'.mem = s.mem) : WaitEnds s x val cause (s'.endWait x val cause) := by
  have hweft : ∀ k, s'.weft k = s.weft k := fun k => by
    unfold State.weft
    rw [hw]
  rw [endWait_kept (by rw [hweft]; exact h), hweft]
  refine ⟨State.weft_setWeft_same .., fun k hk => (State.weft_setWeft_ne _ _ hk).trans (hweft k), ?_, hm⟩
  exact congrArg (·.erase x) hf

/-- What the answer to a RETRY frees is no wait, and no weft. -/
theorem answered_eq (h : (s.fabric.waits.find? fun y => y.peer == f.src.toNat && y.flit.id == f.id && y.flit.fl.getLsbD 1 == f.fl.getLsbD 1) = some x) :
    ∃ r, s.answered f val cause = ({ s with fabric := { s.fabric with saved := r } } : State).endWait x val cause := by
  unfold State.answered
  rw [h]
  dsimp only
  split
  · exact ⟨_, rfl⟩
  · exact ⟨_, rfl⟩

/-- The response to a request ends the wait of its lane. -/
theorem answer_ends (hi : exec i s = receive typ l f (fun s => .ok (s.answered f val cause)) s) (ht : f.typ.toNat = typ) (hc : ComesIn s l f)
    (hn : f.numbered = true)
    (hx : (s.fabric.waits.find? fun y => y.peer == f.src.toNat && y.flit.id == f.id && y.flit.fl.getLsbD 1 == f.fl.getLsbD 1) = some x)
    (h : ∀ y ∈ (s.weft x.k).flights, y.op ≠ .rst) :
    ∃ t, exec i s = .next t ∧ WaitEnds s x val cause t ∧ (t.link l).recvSeq = (s.link l).recvSeq + 1 := by
  have hw := accept_waits s l f
  obtain ⟨r, hr⟩ := answered_eq (s := s.accept l f) (val := val) (cause := cause) (by rw [hw]; exact hx)
  refine ⟨_, hi.trans ((receive_comesIn hc ht _).trans (congrArg Host.Outcome.next hr)), waitEnds_endWait h (accept_wefts s l f) hw (accept_mem s l f), ?_⟩
  · unfold State.link
    rw [(endWait_sameDevice ..).1]
    show ((s.accept l f).link l).recvSeq = _
    rw [link_accept, hn]
    rfl

/-! ## Responses that are lost (R172, R173) -/

/-- The saved requests once the response to a RATOM is lost: it is saved once, and not after 32,768 later ids. -/
def State.savedBy (s : State) (x : RemoteWait) : List SavedReq :=
  if x.flit.fl.getLsbD 0 = true ∨ s.lapsed x.peer x.at_ = true then s.fabric.saved
  else s.fabric.saved ++ [{ peer := x.peer, id := x.flit.id.toNat, flit := { x.flit with fl := 0 }, at_ := x.at_ }]

theorem lose_tagged (h : x.flit.fl.getLsbD 1 = true) : s.lose x = s.endWait x none (some .atomic) := if_pos h

theorem lose_atomic (h : x.flit.fl.getLsbD 1 = false) : s.lose x =
    ({ s with fabric := { s.fabric with saved := s.savedBy x } } : State).endWait x (some (lostValue x.flit.id.toNat 0xFFFFFFFF)) (some .atomic) := by
  unfold State.lose State.savedBy
  rw [if_neg (by rw [h]; exact Bool.false_ne_true)]
  simp only [Bool.or_eq_true]
  split <;> rfl

/-- The id has 16 bits. -/
theorem lostValue_id (id : BitVec 16) (code : Nat) : lostValue id.toNat code = BitVec.ofNat 128 (id.toNat + code * 2 ^ 32) := by
  unfold lostValue
  rw [Nat.mod_eq_of_lt id.isLt]

theorem exec_responseLost {k j lane : Nat} {y : Flight} (hy : (s.weft k).flights[j]? = some y)
    (hx : (s.fabric.waits.find? fun v => v.k == k && v.seq == y.seq && v.lane == lane) = some x) :
    exec (.responseLost k j lane) s = .next (s.lose x) := by
  show execResponseLost k j lane s = _
  unfold execResponseLost
  rw [hy]
  dsimp only
  rw [hx]

/-- A lapsed request is saved no more, and no other is forgotten. -/
theorem mem_dropSaved {peer id : Nat} {r : SavedReq} :
    r ∈ (dropSaved s peer id).fabric.saved ↔ r ∈ s.fabric.saved ∧ ¬ (r.peer = peer ∧ r.id = id) := by
  unfold dropSaved
  simp [List.mem_filter, imp_iff_not_or]

/-- Outside a repair pause a kept value may expire. -/
theorem exec_keptValueExpiry (src id : Nat) (h : s.repairing = false) : exec (.keptValueExpiry src id) s =
    .next { s with fabric := { s.fabric with kept := s.fabric.kept.filter fun v => !(v.src == src && v.id == id) } } := by
  show execKeptValueExpiry src id s = _
  unfold execKeptValueExpiry
  rw [h, if_neg Bool.false_ne_true]

/-! ## Flits without a number (20_host_fabric R448) -/

/-- IDLE, NAK and TRAIN go out without a number, and the link keeps none of them. -/
theorem send_unnumbered (hv : s.viral = false) (hn : f.numbered = false) :
    ∃ g : Flit, s.send l f = (s.setLink l { s.link l with out := (s.link l).out ++ [g] }).tick ∧ g.typ = f.typ ∧ g.op1 = f.op1 := by
  have hn' : ({ f with src := BitVec.ofNat 16 s.modid, ack := (s.link l).recvSeq - 1 } : Flit).numbered = false := hn
  unfold State.send
  simp only [hv, Bool.false_and, Bool.false_eq_true, if_false, hn']
  exact ⟨_, rfl, rfl, rfl⟩

/-- A flit that fails its check is answered with a NAK of the next expected SEQ. -/
theorem nak_sent (hv : s.viral = false) : ∃ g : Flit, s.nak l f = (s.setLink l { s.link l with out := (s.link l).out ++ [g] }).tick
    ∧ g.typ = 0x71 ∧ g.op1 = (s.link l).recvSeq.setWidth 128 := send_unnumbered hv rfl

theorem exec_flitCheckFailure (hp : s.powered = true) (hu : s.linkUp l = true) (hb : s.flitBad l f = true) :
    exec (.flitCheckFailure l f) s = .next (s.nak l f) := by
  show execFlitCheckFailure l f s = _
  unfold execFlitCheckFailure
  rw [hp, hu, hb]
  rfl

/-! ## TRAIN (20_host_fabric R447) -/

/-- The offer of this end. -/
def State.offer (s : State) (l : Nat) (f : Flit) : Flit :=
  { Flit.blank with typ := 0x7E, dst := f.src, op1 := BitVec.ofNat 128 (s.offers l + 256 * s.modid) }

/-- The link with fresh sequence numbers, and the offer of this end on it. -/
def State.trained (s : State) (l : Nat) (f : Flit) : State := (s.setLink l { out := (s.link l).out }).send l (s.offer l f)

/-- The state of the link once the other end has offered a version. -/
def State.linkTrained (s : State) (l ver peer : Nat) : State :=
  if ver = 0 then s.setField (plstat l) 0 2 3
  else ((s.setField (plstat l) 4 4 ver).setField (plstat l) 16 12 peer).setField (plstat l) 0 2 2

theorem exec_train (ht : f.typ.toNat = 0x7E) (hp : s.powered = true) (hu : s.linkUp l = false) (he : (s.reg (plctl l)).getLsbD 0 = true)
    (hc : f.crcOk = true) (hz : f.zerosOk = true) :
    exec (.train l f) s = .next ((s.trained l f).linkTrained l (min (s.offers l) (bitsOf f.op1 0 8)) (bitsOf f.op1 8 12)) := by
  show execTrain l f s = _
  unfold execTrain
  rw [ht, hp, hu, he, hc, hz]
  exact (apply_ite Host.Outcome.next _ _ _).symm

/-- The versions of both ends have 4 bits. -/
theorem offers_lt (s : State) (l : Nat) : s.offers l < 16 := max_lt (by decide) (bitsOf_lt _ _ _)

theorem offers_pos (s : State) (l : Nat) : 0 < s.offers l := Nat.lt_of_lt_of_le Nat.one_pos (Nat.le_max_left _ _)

theorem linkTrained_link (s : State) (l ver peer : Nat) : (s.linkTrained l ver peer).link l = s.link l := by
  unfold State.linkTrained
  split <;> rfl

/-- Without a version of the other end the link fails. -/
theorem linkTrained_none (s : State) (l peer : Nat) : (s.linkTrained l 0 peer).linkState l = 3 := State.field_setField_same s 3 (by decide)

/-- With one it is up, at that version and with that peer. -/
theorem linkTrained_up (s : State) (l : Nat) {ver peer : Nat} (h : 0 < ver) (hv : ver < 16) (hp : peer < 4096) :
    (s.linkTrained l ver peer).linkState l = 2 ∧ (s.linkTrained l ver peer).field (plstat l) 4 4 = ver
      ∧ (s.linkTrained l ver peer).field (plstat l) 16 12 = peer := by
  unfold State.linkTrained State.linkState
  rw [if_neg h.ne']
  refine ⟨State.field_setField_same _ 2 (by decide), ?_, ?_⟩
  · rw [State.field_setField_apart _ _ (by decide), State.field_setField_apart _ _ (by decide), State.field_setField_same _ _ (by decide)]
    exact Nat.mod_eq_of_lt hv
  · rw [State.field_setField_apart _ _ (by decide), State.field_setField_same _ _ (by decide)]
    exact Nat.mod_eq_of_lt hp

/-! ## A link that fails (R447, R172) -/

/-- Erasing one after the other the members that satisfy a predicate leaves those that do not. -/
theorem diff_filter {α : Type} [BEq α] [LawfulBEq α] (p : α → Bool) (l : List α) : l.diff (l.filter p) = l.filter fun a => !p a := by
  induction l with
  | nil => rfl
  | cons a l ih =>
    cases h : p a
    · rw [List.filter_cons_of_neg (by simp [h]), List.filter_cons_of_pos (by simp [h]), List.cons_diff_of_not_mem (by simp [h]), ih]
    · rw [List.filter_cons_of_pos h, List.filter_cons_of_neg (by simp [h]), List.diff_cons, List.erase_cons_head, ih]

/-- A response that is lost ends its wait, and leaves the registers and memory alone. -/
theorem lose_keeps (s : State) (x : RemoteWait) : (s.lose x).mgmt = s.mgmt ∧ (s.lose x).mem = s.mem
    ∧ (s.lose x).fabric.waits = s.fabric.waits.erase x := by
  cases h : x.flit.fl.getLsbD 1
  · rw [lose_atomic h]
    obtain ⟨hf, hm, hmem⟩ := endWait_sameDevice { s with fabric := { s.fabric with saved := s.savedBy x } } x
      (some (lostValue x.flit.id.toNat 0xFFFFFFFF)) (some .atomic)
    exact ⟨hm, hmem, congrArg Fabric.waits hf⟩
  · rw [lose_tagged h]
    obtain ⟨hf, hm, hmem⟩ := endWait_sameDevice s x none (some .atomic)
    exact ⟨hm, hmem, congrArg Fabric.waits hf⟩

theorem foldl_lose_keeps (xs : List RemoteWait) (s : State) : (xs.foldl State.lose s).mgmt = s.mgmt ∧ (xs.foldl State.lose s).mem = s.mem
    ∧ (xs.foldl State.lose s).fabric.waits = s.fabric.waits.diff xs := by
  induction xs generalizing s with
  | nil => exact ⟨rfl, rfl, rfl⟩
  | cons x xs ih =>
    obtain ⟨hm, hmem, hw⟩ := ih (s.lose x)
    obtain ⟨hm', hmem', hw'⟩ := lose_keeps s x
    rw [List.foldl_cons, List.diff_cons, ← hw']
    exact ⟨hm.trans hm', hmem.trans hmem', hw⟩

theorem exec_linkFail (hu : s.linkUp l = true) : exec (.linkFail l) s =
    .next ((s.fabric.waits.filter fun x => x.link == l).foldl State.lose (s.setField (plstat l) 0 2 3)) := by
  show execLinkFail l s = _
  unfold execLinkFail
  rw [hu]
  rfl

/-! ## IDLE, NAK, and what is discarded -/

/-- A flit without a number leaves the next expected SEQ. -/
theorem link_accept_unnumbered (hn : f.numbered = false) :
    (s.accept l f).link l = { s.link l with kept := (s.link l).kept.filter fun g => !seqLe g.seq f.ack } := by
  rw [link_accept, hn]
  rfl

/-- The kept flits from a named SEQ. -/
def keptFrom (e : LinkEnd) (q : Word) : List Flit := e.kept.filter fun g => seqLe q g.seq

/-- A NAK has the kept flits from its SEQ sent again, and counted. -/
def State.sentAgain (s : State) (l : Nat) (q : Word) : State :=
  (s.setLink l { s.link l with out := (s.link l).out ++ keptFrom (s.link l) q }).setField (plstat l) 32 32
    (s.field (plstat l) 32 32 + (keptFrom (s.link l) q).length)

theorem exec_nak (h : ComesIn s l f) (ht : f.typ.toNat = 0x71) :
    exec (.nak l f) s = .next ((s.accept l f).sentAgain l (f.op1.setWidth 32)) :=
  receive_comesIn h ht fun s => .ok (s.sentAgain l (f.op1.setWidth 32))

theorem sentAgain_link (s : State) (l : Nat) (q : Word) :
    (s.sentAgain l q).link l = { s.link l with out := (s.link l).out ++ keptFrom (s.link l) q } := State.link_setLink_same ..

theorem sentAgain_count (s : State) (l : Nat) (q : Word) :
    (s.sentAgain l q).field (plstat l) 32 32 = (s.field (plstat l) 32 32 + (keptFrom (s.link l) q).length) % 2 ^ 32 :=
  State.field_setField_same _ _ (by decide)

theorem exec_unknownFlitType (hp : s.powered = true) (hu : s.linkUp l = true) (hb : s.flitBad l f = false)
    (hk : knownType f.typ.toNat = false ∨ f.zerosOk = false) :
    exec (.unknownFlitType l f) s = .next ((s.accept l f).discardFlit l f) := by
  show execUnknownFlitType l f s = _
  unfold execUnknownFlitType
  rw [hp, hu, hb, if_pos (by simpa using hk)]

/-- A flit that could be a request is refused with code 1, and any other is answered with nothing. -/
theorem discardFlit_sends (hv : s.viral = false) (f : Flit) : ∃ gs, ((s.discardFlit l f).link l).out = (s.link l).out ++ gs
    ∧ ((s.discardFlit l f).link l).recvSeq = (s.link l).recvSeq ∧ (s.discardFlit l f).mem = s.mem ∧ (s.discardFlit l f).wefts = s.wefts
    ∧ (1 ≤ f.typ.toNat ∧ f.typ.toNat ≤ 0x3F → ∃ g : Flit, gs = [g] ∧ g.typ = 0x43 ∧ g.op1 = 1)
    ∧ (¬ (1 ≤ f.typ.toNat ∧ f.typ.toNat ≤ 0x3F) → gs = []) := by
  by_cases h : 1 ≤ f.typ.toNat ∧ f.typ.toNat ≤ 0x3F
  · have hr : s.discardFlit l f = s.respond l f 0x43 1 := if_pos h
    rw [hr, respond_numbered hv rfl, State.link_setLink_same]
    exact ⟨_, rfl, rfl, rfl, rfl, fun _ => ⟨_, rfl, rfl, rfl⟩, fun hn => absurd h hn⟩
  · have hr : s.discardFlit l f = s := if_neg h
    rw [hr]
    exact ⟨[], (List.append_nil _).symm, rfl, rfl, rfl, fun hn => absurd hn h, fun _ => rfl⟩

/-! ## The instructions of answers -/

theorem exec_rdata (l : Nat) (f : Flit) (s : State) : exec (.rdata l f) s = receive 0x41 l f (fun s => .ok (s.answered f (some f.op1) none)) s := rfl

theorem exec_rack (l : Nat) (f : Flit) (s : State) : exec (.rack l f) s = receive 0x42 l f (fun s => .ok (s.answered f (some 0) none)) s := rfl

theorem exec_rerr (l : Nat) (f : Flit) (s : State) : exec (.rerr l f) s = receive 0x43 l f (fun s => .ok (s.answered f none (some .prot))) s := rfl

theorem exec_idle (l : Nat) (f : Flit) (s : State) : exec (.idle l f) s = receive 0x70 l f .ok s := rfl

/-- The type alone says whether a flit has a number. -/
theorem numbered_of_typ {b : Byte} (h : f.typ = b) : f.numbered = (b != 0x70 && b != 0x71 && b != 0x7E) := by
  subst h
  rfl

/-! ## The parts of the statement -/

/-- A lost response gives its lane ATOMIC; that of a RATOM leaves the id and a code, and its request is saved (R172, R173). -/
theorem lost_ends (h : ∀ y ∈ (s.weft x.k).flights, y.op ≠ .rst) :
    (x.flit.fl.getLsbD 1 = true → WaitEnds s x none (some .atomic) (s.lose x) ∧ (s.lose x).fabric.saved = s.fabric.saved)
    ∧ (x.flit.fl.getLsbD 1 = false →
        WaitEnds s x (some (BitVec.ofNat 128 (x.flit.id.toNat + 0xFFFFFFFF * 2 ^ 32))) (some .atomic) (s.lose x)
        ∧ (s.lose x).fabric.saved = s.savedBy x) := by
  refine ⟨fun ht => ?_, fun ht => ?_⟩
  · rw [lose_tagged ht]
    exact ⟨waitEnds_endWait h rfl rfl rfl, endWait_saved ..⟩
  · rw [lose_atomic ht, lostValue_id]
    exact ⟨waitEnds_endWait h rfl rfl rfl, endWait_saved ..⟩

/-- TRAIN puts this end's offer behind the flits of its link, and takes the lower version. -/
theorem train_trains (ht : f.typ.toNat = 0x7E) (hp : s.powered = true) (hu : s.linkUp l = false) (he : (s.reg (plctl l)).getLsbD 0 = true)
    (hc : f.crcOk = true) (hz : f.zerosOk = true) (hv : s.viral = false) :
    ∃ t g, exec (.train l f) s = .next t ∧ t.link l = { sendSeq := 0, recvSeq := 0, kept := [], out := (s.link l).out ++ [g] }
      ∧ g.typ = 0x7E ∧ g.op1 = BitVec.ofNat 128 (s.offers l + 256 * s.modid)
      ∧ (bitsOf f.op1 0 8 = 0 → t.linkState l = 3)
      ∧ (0 < bitsOf f.op1 0 8 → t.linkState l = 2 ∧ t.field (plstat l) 4 4 = min (s.offers l) (bitsOf f.op1 0 8)
          ∧ t.field (plstat l) 16 12 = bitsOf f.op1 8 12) := by
  obtain ⟨g, hg, htyp, hop⟩ := send_unnumbered (s := s.setLink l { out := (s.link l).out }) (l := l) (f := s.offer l f) hv rfl
  have hlink : (s.trained l f).link l = { sendSeq := 0, recvSeq := 0, kept := [], out := (s.link l).out ++ [g] } := by
    refine (congrArg (State.link · l) hg).trans ((State.link_setLink_same ..).trans ?_)
    rw [State.link_setLink_same]
  refine ⟨_, g, exec_train ht hp hu he hc hz, (linkTrained_link ..).trans hlink, htyp, hop, fun h => ?_, fun h => ?_⟩
  · rw [h, Nat.min_zero]
    exact linkTrained_none ..
  · exact linkTrained_up _ _ (lt_min (offers_pos s l) h) (lt_of_le_of_lt (min_le_left _ _) (offers_lt s l)) (bitsOf_lt _ _ _)

/-- A link that fails is in state 3, and no request waits on it. -/
theorem linkFail_loses (hu : s.linkUp l = true) : ∃ t, exec (.linkFail l) s = .next t ∧ t.linkState l = 3
    ∧ t.fabric.waits = s.fabric.waits.filter (fun x => x.link != l) ∧ t.mem = s.mem := by
  obtain ⟨hm, hmem, hw⟩ := foldl_lose_keeps (s.fabric.waits.filter fun x => x.link == l) (s.setField (plstat l) 0 2 3)
  refine ⟨_, exec_linkFail hu, ?_, hw.trans (diff_filter _ _), hmem⟩
  unfold State.linkState State.field State.reg
  rw [hm]
  exact State.field_setField_same s 3 (by decide)

/-- Settles O49: each step by what it does to a wait (`WaitEnds`), or to the end of a link. -/
theorem answersAndLinks : Obligations.AnswersAndLinks := by
  unfold Obligations.AnswersAndLinks
  constructor
  · intro l f x s ends one
    have answer : ∀ {typ : Nat} {i : Instr} {val : Option (BitVec 128)} {cause : Option Cause},
        exec i s = receive typ l f (fun s => .ok (s.answered f val cause)) s → (BitVec.ofNat 8 typ).toNat = typ →
        (f.typ = BitVec.ofNat 8 typ → f.numbered = true) → one typ i val cause := by
      intro typ i val cause hi hN hn ht hp hu hb hz hx h
      exact answer_ends hi ((congrArg BitVec.toNat ht).trans hN) ⟨hp, hu, hb, hz⟩ (hn ht) hx h
    refine ⟨answer (exec_rdata l f s) rfl numbered_of_typ, answer (exec_rack l f s) rfl numbered_of_typ, answer (exec_rerr l f s) rfl numbered_of_typ,
      fun j y hy hx h => ⟨s.lose x, exec_responseLost hy hx, lost_ends h⟩, fun peer id => ⟨dropSaved s peer id, rfl, rfl, fun r => mem_dropSaved⟩,
      fun src id h => ⟨_, exec_keptValueExpiry src id h, rfl, fun v => ?_⟩⟩
    simp [List.mem_filter, imp_iff_not_or]
  · intro l f s e good kept
    refine ⟨?_, ?_, ?_, linkFail_loses, ?_, ?_⟩
    · rintro ht ⟨hp, hu, hb⟩ hz
      refine ⟨s.accept l f, ?_, link_accept_unnumbered (numbered_of_typ ht), accept_mem s l f, accept_wefts s l f⟩
      exact (exec_idle l f s).trans (receive_comesIn ⟨hp, hu, hb, hz⟩ (congrArg BitVec.toNat ht) _)
    · rintro ht ⟨hp, hu, hb⟩ hz
      have hl := link_accept_unnumbered (s := s) (l := l) (numbered_of_typ ht)
      refine ⟨_, exec_nak ⟨hp, hu, hb, hz⟩ (congrArg BitVec.toNat ht), ?_, ?_⟩
      · rw [sentAgain_link, hl]
        rfl
      · rw [sentAgain_count, hl, accept_field]
        rfl
    · intro theirs mine ht hp hu he hc hz hv
      exact train_trains (congrArg BitVec.toNat ht) hp hu he hc hz hv
    · intro hp hu hb hv
      obtain ⟨g, hg, htyp, hop⟩ := nak_sent (l := l) (f := f) hv
      refine ⟨_, g, exec_flitCheckFailure hp hu hb, ?_, htyp, hop, ?_⟩ <;> rw [hg]
      · exact State.link_setLink_same ..
      · exact ⟨rfl, rfl⟩
    · rintro ⟨hp, hu, hb⟩ hk hv
      obtain ⟨gs, hout, hrecv, hmem, hwefts, hreq⟩ := discardFlit_sends (l := l) ((accept_viral s l f).trans hv) f
      refine ⟨_, gs, exec_unknownFlitType hp hu hb hk, hout.trans ?_, hrecv.trans ?_, hmem.trans (accept_mem s l f),
        hwefts.trans (accept_wefts s l f), hreq⟩
      all_goals rw [link_accept]

end Sys2Proof.Machine

/-!
# Properties that no access disturbs

The engines' copies and operations, the wefts and the place of a team are no part of what an access to memory, or to the pages of the
scratchpad, changes. That is proved once, for every property of states that such accesses cannot disturb.
-/

namespace Sys2Proof.Machine

/-! ## What an access changes: memory, caches, translations and registers of the window -/

/-- Nothing but memory, the registers of the window, the caches, the translations of the clusters, the errors that wait, the messages to the
hosts and the counter of the free values differs. -/
abbrev State.Accessed (s t : State) : Prop :=
  t = { s with mem := t.mem, mgmt := t.mgmt, coh := t.coh, clusters := t.clusters, upsets := t.upsets, hostOut := t.hostOut, freeTick := t.freeTick }

/-- Nothing of a core but its sectors, its frames and what their management keeps differs. -/
abbrev Core.Paged (c d : Core) : Prop :=
  d = { c with nc := d.nc, frames := d.frames, hand := d.hand, reserve := d.reserve, stlb := d.stlb, misses := d.misses }

/-- Nothing of a team but its page table and the release of its old cores differs. -/
abbrev Team.Paged (x y : Team) : Prop := y = { x with spt := y.spt, release := y.release }

/-- A property of states that says nothing of what an access changes. -/
structure Undisturbed (Q : State → Prop) : Prop where
  access : ∀ {s t : State}, Q s → s.Accessed t → Q t
  core   : ∀ {s : State} (c : Nat) (x : Core), Q s → (s.core c).Paged x → Q (s.setCore c x)
  team   : ∀ {s : State} (t : Nat) (x : Team), Q s → (s.team t).Paged x → Q (s.setTeam t x)

namespace Undisturbed

variable {Q : State → Prop} {s : State}

theorem ite {c : Prop} [Decidable c] {a b : State} (ha : Q a) (hb : Q b) : Q (if c then a else b) := by
  split
  · exact ha
  · exact hb

theorem foldl {α : Type} {f : State → α → State} (hf : ∀ s x, Q s → Q (f s x)) : ∀ (l : List α) {s : State}, Q s → Q (l.foldl f s)
  | [], _, h => h
  | x :: l, _, h => foldl hf l (hf _ x h)

theorem foldl_snd {α β : Type} {f : β × State → α → β × State} (hf : ∀ r x, Q r.2 → Q (f r x).2) :
    ∀ (l : List α) {r : β × State}, Q r.2 → Q (l.foldl f r).2
  | [], _, h => h
  | x :: l, _, h => foldl_snd hf l (hf _ x h)

variable (hQ : Undisturbed Q)
include hQ

/-! ### Registers, errors and L2 -/

theorem signal (n : Nat) (h : Q s) : Q (s.signal n) := by
  unfold State.signal
  refine ite h (foldl (fun s p h => ?_) _ h)
  unfold signalPort
  exact ite h (ite (hQ.access h rfl) (hQ.access h rfl))

theorem raise (b : Nat) (h : Q s) : Q (s.raise b) := ite h (hQ.signal _ (hQ.access h rfl))

theorem goViral (c a : Nat) (h : Q s) : Q (s.goViral c a) := ite h (hQ.access h rfl)

theorem countCorrected (n : Nat) (h : Q s) : Q (countCorrected n s) := by
  simp only [Machine.countCorrected]
  exact ite (hQ.access h rfl) (hQ.raise _ (hQ.access h rfl))

theorem readCodeword (c : Nat) (h : Q s) : Q (readCodeword c s).2 := by
  refine foldl_snd (fun r u h => ?_) _ h
  cases u with
  | dram pa unc =>
    dsimp only
    split
    · exact h
    · split
      · exact hQ.goViral _ _ h
      · exact hQ.countCorrected _ (hQ.access h rfl)
  | _ => exact h

theorem readSector (a : Nat) (h : Q s) : Q (readSector a s).2 := by
  refine foldl_snd (fun r u h => ?_) _ h
  cases u with
  | l2 pa unc =>
    dsimp only
    split
    · exact h
    · split
      · exact hQ.goViral _ _ h
      · exact hQ.access h rfl
  | _ => exact h

theorem l2Fill (b : Nat) (m : BitVec 16) (h : Q s) : Q (s.l2Fill b m) := hQ.access h rfl

theorem homePut (pa : Nat) (bs : List Byte) (h : Q s) : Q (s.homePut pa bs) :=
  hQ.access (foldl (f := fun s b => s.l2Fill b (sectorsOf b pa bs.length)) (fun _ _ h => hQ.l2Fill _ _ h) (blocksOf pa bs.length) h) rfl

theorem l2Read (pa n : Nat) (h : Q s) : Q (s.l2Read pa n).2 := by
  unfold State.l2Read
  refine foldl_snd (r := (true, s)) (fun r b h => ?_) _ h
  extract_lets lacks x
  have hx : Q x.2 := by
    show Q (if _ then _ else _ : Bool × State).2
    split
    · exact h
    · refine foldl_snd (r := (true, r.2)) (fun y i h => ?_) _ h
      show Q (if _ then _ else _ : Bool × State).2
      split
      · exact hQ.readCodeword _ h
      · exact hQ.readSector _ h
  clear_value x
  split
  · exact hQ.l2Fill _ _ hx
  · exact hx

/-! ### Caches -/

theorem shedLines (p : L1Line → Bool) (h : Q s) : Q (s.shedLines p) :=
  foldl (f := State.sendWbD) (fun _ _ h => hQ.access h rfl) _ (hQ.access h rfl)

theorem ncFlush (core : Nat) (p : NcSector → Bool) (drop write : Bool) (h : Q s) : Q (s.ncFlush core p drop write) := by
  unfold State.ncFlush
  extract_lets hit s1 clean
  have h1 : Q s1 := ite (foldl (fun _ x h => foldl (fun _ _ h => hQ.homePut _ _ h) _ h) _ h) h
  clear_value s1
  exact ite h (hQ.core _ _ h1 rfl)

theorem dropClusterTranslations (ci base n : Nat) (h : Q s) : Q (s.dropClusterTranslations ci base n) := by
  unfold State.dropClusterTranslations
  exact ite h (foldl (fun _ _ h => hQ.ncFlush _ _ _ _ h) _ (hQ.shedLines _ (hQ.access h rfl)))

theorem dropThrough (m : Msg) (h : Q s) : Q (s.dropThrough m) := ite h (hQ.dropClusterTranslations _ _ _ h)

/-! ### Messages (04_dram_l2 R89 to R95) -/

theorem grantMemory (t : Txn) (k : MsgKind) (h : Q s) : Q (grantMemory s t k) := by
  have h' := hQ.l2Read t.unit t.gr h
  unfold Machine.grantMemory
  generalize s.l2Read t.unit t.gr = x at h'
  obtain ⟨ok, s'⟩ := x
  exact ite (c := ok = true) (hQ.access h' rfl) (hQ.access h' rfl)

theorem unitDir (die u gr : Nat) (d : UnitDir) (h : Q s) : Q (s.setUnitDir die u gr d) := hQ.access h rfl

/-- A unit's entry in the directory, with the bits of its frame. -/
theorem granted (die u gr pa : Nat) (d : UnitDir) (own : Bool) (h : Q s) : Q ((s.setUnitDir die u gr d).frameTouch pa own) := hQ.access h rfl

theorem completeHome (t : Txn) (h : Q s) : Q (completeHome s t) := by
  unfold Machine.completeHome
  extract_lets hd q only d p
  split
  · split
    · exact hQ.granted _ _ _ _ _ _ (hQ.grantMemory t .dataE h)
    · exact hQ.granted _ _ _ _ _ _ (hQ.grantMemory t .dataS h)
  · exact hQ.access h rfl
  · exact hQ.granted _ _ _ _ _ _ (hQ.grantMemory t .dataM h)
  · exact hQ.access h rfl

theorem completeGate (t : Txn) (h : Q s) : Q (completeGate s t) := by
  unfold Machine.completeGate
  split <;> dsimp only
  · exact hQ.access h rfl
  · have hs : Q (if t.from_ < 128 then s.sendMsg (grantMsg t .wbAck []) else s) := ite (hQ.access h rfl) h
    generalize (if t.from_ < 128 then s.sendMsg (grantMsg t .wbAck []) else s) = s' at hs ⊢
    split
    · exact hQ.access (hQ.unitDir t.node t.unit t.gr { s'.unitDir t.node t.unit with owner := none, presence := 0 } hs) rfl
    · exact hQ.unitDir t.node t.unit t.gr {} (s := s'.dropTxn t) (hQ.access hs rfl)
  · exact hQ.access h rfl
  · exact ite (hQ.access h rfl) (hQ.access h rfl)
  · exact hQ.access h rfl
  · have hd : Q ((s.dropTxn t).setUnitDir t.node t.unit t.gr {}) := hQ.access h rfl
    generalize (s.dropTxn t).setUnitDir t.node t.unit t.gr {} = s' at hd ⊢
    split <;> exact hQ.access hd rfl

theorem advance (t : Txn) (h : Q s) : Q (advance s t) := by
  unfold Machine.advance
  refine ite (hQ.access h rfl) ?_
  split
  · exact hQ.access h rfl
  · exact ite (hQ.completeHome _ h) (hQ.completeGate _ h)

theorem openTxn (t : Txn) (l : List Nat) (x : Option Nat) (h : Q s) : Q (openTxn s t l x) :=
  hQ.advance _ (foldl (f := fun s d => s.sendMsg { kind := .inv, src := nodeAgent t.node, dst := d, unit := t.unit, gr := t.gr, mark := t.mark })
    (fun _ _ h => hQ.access h rfl) l h)

theorem applyWbD (m : Msg) (h : Q s) : Q (applyWbD s m) := by
  unfold Machine.applyWbD
  extract_lets q d s1
  have h1 : Q s1 := hQ.access h rfl
  clear_value s1
  exact ite h1 (hQ.access (hQ.homePut m.unit m.data h1) rfl)

theorem acceptHome (m : Msg) (h : Q s) : Q (acceptHome s m) := by
  unfold Machine.acceptHome
  extract_lets hd q d0 d s' t others x
  have hs : Q s' := ite h (hQ.access h rfl)
  clear_value s'
  refine ite (hQ.applyWbD _ h) (ite ?_ (ite ?_ ?_)) <;> exact hQ.openTxn _ _ _ hs

theorem acceptGate (n : Nat) (m : Msg) (h : Q s) : Q (acceptGate s n m) := by
  have hask : ∀ {s : State} (t : Txn) (k : MsgKind), Q s → Q (askHome s t k) := fun _ _ h => hQ.access h rfl
  unfold Machine.acceptGate
  extract_lets q d0 t s0 d s1 mine others x
  have h0 : Q s0 := hQ.access h rfl
  have h1 : Q s1 := ite h (hQ.access h rfl)
  clear_value s0 s1
  refine ite (ite (hQ.openTxn _ _ _ h0) (hQ.access h0 rfl)) (ite (ite (hQ.openTxn _ _ _ h1) (hask _ _ h1))
    (ite (ite (hQ.openTxn _ _ _ h1) (hask _ _ h1)) (ite (hQ.openTxn _ _ _ h1) (hask _ _ h1))))

theorem acceptProbe (n : Nat) (m : Msg) (h : Q s) : Q (acceptProbe s n m) := ite (hQ.openTxn _ _ _ h) (hQ.openTxn _ _ _ h)

theorem recallEntry (n : Nat) (e : DirEntry) (h : Q s) : Q (recallEntry s n e) := foldl (fun _ _ h => hQ.openTxn _ _ _ h) _ h

theorem takeUp (m : Msg) (h : Q s) : Q (takeUp s m) := by
  unfold Machine.takeUp
  refine ite (hQ.goViral _ _ h) (ite (hQ.acceptProbe _ _ h) (ite ?_ (ite (hQ.acceptHome _ h) (hQ.acceptGate _ _ h))))
  split
  · exact hQ.recallEntry _ _ (hQ.access h rfl)
  · exact hQ.access h rfl

theorem arriveMsg (m : Msg) (h : Q s) : Q (arriveMsg s m) := ite (hQ.takeUp _ h) (hQ.access h rfl)

theorem pump : ∀ (n : Nat) {s : State}, Q s → Q (pump n s)
  | 0, _, h => h
  | n + 1, s, h => by
    unfold Machine.pump
    split
    · exact h
    · exact pump n (hQ.takeUp _ (hQ.access h rfl))

theorem clusterForward (m : Msg) (h : Q s) : Q (clusterForward s m) := by
  unfold Machine.clusterForward
  extract_lets back give ls
  split
  · exact ite (hQ.access (hQ.dropThrough m (s := s.dropLines m.dst m.unit) (hQ.access h rfl)) rfl) (hQ.access h rfl)
  · next s' _ _ =>
    have hs : Q s' := ite (hQ.dropThrough m h) h
    clear_value s'
    split <;> exact hQ.access hs rfl

theorem clusterInv (m : Msg) (h : Q s) : Q (clusterInv s m) :=
  hQ.access (hQ.dropThrough m (s := s.dropLines m.dst m.unit) (hQ.access h rfl)) rfl

theorem clusterData (m : Msg) (h : Q s) : Q (clusterData s m) := by
  unfold Machine.clusterData
  extract_lets st s1 mine l
  have h1 : Q s1 := ite h (hQ.access h rfl)
  clear_value s1 l
  exact hQ.access h1 rfl

theorem clusterAck (m : Msg) (h : Q s) : Q (clusterAck s m) := by
  unfold Machine.clusterAck
  split
  · exact h
  · exact hQ.access h rfl

theorem gateAnswer (n : Nat) (m : Msg) (h : Q s) : Q (gateAnswer s n m) := by
  unfold Machine.gateAnswer
  split
  · exact hQ.access h rfl
  · split
    · exact h
    · dsimp only
      split
      · exact hQ.access h rfl
      · exact ite (hQ.access h rfl) (hQ.access h rfl)
      · exact hQ.openTxn _ _ _ (hQ.access h rfl)
      · exact ite (hQ.openTxn _ _ _ (hQ.access h rfl)) (hQ.openTxn _ _ _ (hQ.access h rfl))

theorem gateWbAck (n u : Nat) (h : Q s) : Q (gateWbAck s n u) := by
  simp only [Machine.gateWbAck]
  split <;> exact hQ.access h rfl

theorem nodeInvAck (n : Nat) (m : Msg) (h : Q s) : Q (nodeInvAck s n m) := by
  simp only [Machine.nodeInvAck]
  split
  · exact h
  · exact hQ.advance _ (hQ.access h rfl)

theorem nodeFwdAck (n : Nat) (m : Msg) (h : Q s) : Q (nodeFwdAck s n m) := by
  simp only [Machine.nodeFwdAck]
  split
  · exact h
  · repeat' split
    all_goals exact hQ.access h rfl

theorem nodeNoData (n : Nat) (m : Msg) (h : Q s) : Q (nodeNoData s n m) := by
  simp only [Machine.nodeNoData]
  split
  · exact h
  · exact ite (hQ.completeHome _ (hQ.access h rfl)) (ite (hQ.openTxn _ _ _ (hQ.access h rfl))
      (ite (hQ.openTxn _ _ _ (hQ.access h rfl)) (hQ.completeGate _ (hQ.access h rfl))))

theorem handle (m : Msg) (h : Q s) : Q (handle s m) := by
  unfold Machine.handle
  split
  · split
    · exact hQ.clusterForward m h
    · exact hQ.clusterForward m h
    · exact hQ.clusterInv m h
    · exact hQ.clusterAck m h
    · exact hQ.access h rfl
    · exact hQ.clusterData m h
  · extract_lets n
    split
    · exact hQ.nodeInvAck n m h
    · exact hQ.nodeFwdAck n m h
    · exact hQ.nodeNoData n m h
    · exact hQ.gateWbAck n _ h
    · exact hQ.gateAnswer n m h
    · exact ite (hQ.homePut _ _ h) (hQ.gateAnswer n m h)
    · exact hQ.gateAnswer n m h
    · exact ite h (hQ.gateAnswer n m h)
    · exact hQ.arriveMsg m h

theorem deliver (m : Msg) (h : Q s) : Q (deliver s m) := by
  have ht : Q { s with coh := { s.coh with msgs := s.coh.msgs.erase m } } := hQ.access h rfl
  exact ite (hQ.goViral _ _ ht) (hQ.pump _ (hQ.handle m ht))

theorem drive (done : State → Bool) (near : Msg → Bool) : ∀ (f : Nat) {s : State}, Q s → Q (drive done near f s)
  | 0, _, h => hQ.access h rfl
  | f + 1, s, h => by
    unfold Machine.drive
    refine ite h ?_
    split
    · exact drive done near f (hQ.deliver _ h)
    · exact hQ.access h rfl

theorem settled (pa n : Nat) (h : Q s) : Q (s.settled pa n) := ite h (hQ.drive _ _ _ h)

/-! ### Accesses at the home, and translation -/

theorem gather (pa n : Nat) (mark : Bool) (h : Q s) : Q (s.gather pa n mark) := by
  have h1 := hQ.settled pa n h
  unfold State.gather
  exact ite h1 (hQ.settled _ _ (foldl (fun _ _ h => hQ.openTxn _ _ _ h) _ h1))

theorem homeWrite (pa : Nat) (bs : List Byte) (h : Q s) : Q (s.homeWrite pa bs) :=
  hQ.access (hQ.homePut pa bs (hQ.gather pa bs.length false h)) rfl

theorem homeOr (pa : Nat) (v : Byte) (mark : Bool) (h : Q s) : Q (s.homeOr pa v mark) := hQ.homePut _ _ (hQ.gather pa 1 mark h)

theorem homeRead (pa n : Nat) (h : Q s) : Q (s.homeRead pa n).2 :=
  foldl (fun _ _ h => ite h (hQ.l2Read _ _ h)) _ (hQ.settled pa n h)

theorem l1Room (core ctx : Nat) (va : Dword) (h : Q s) : Q (s.l1Room core ctx va) := by
  unfold State.l1Room
  refine ite h (ite h ?_)
  dsimp only
  split
  · exact hQ.ncFlush _ _ _ _ (hQ.shedLines _ h)
  · exact h

theorem ask (kind : MsgKind) (core ctx : Nat) (va : Dword) (pa gr : Nat) (p : L1Line → Bool) (h : Q s) : Q (s.ask kind core ctx va pa gr p) :=
  hQ.drive _ _ _ (hQ.pump _ (hQ.arriveMsg _ (hQ.access h rfl)))

theorem fetchShared (core ctx : Nat) (va : Dword) (pa gr : Nat) (h : Q s) : Q (s.fetchShared core ctx va pa gr) := by
  unfold State.fetchShared
  split
  · exact h
  · extract_lets c s1 held s2 s3
    have h1 : Q s1 := hQ.settled _ _ (hQ.l1Room _ _ _ h)
    have h3 : Q s3 := hQ.ask _ _ _ _ _ _ _ (hQ.settled _ _ (hQ.shedLines _ h1))
    clear_value s3 held s1
    refine ite (hQ.access h3 rfl) ?_
    split
    · exact hQ.access h1 rfl
    · exact hQ.ask _ _ _ _ _ _ _ h1

theorem orLeaf (leaf : Nat) (m : Byte) (h : Q s) : Q (s.orLeaf leaf m) := ite h (hQ.homeOr _ _ _ h)

theorem holdWalk (cl : Nat) (e : TlbEntry) (h : Q s) : Q (s.holdWalk cl e) :=
  foldl (fun _ _ h => ite (hQ.fetchShared _ _ _ _ _ h) (hQ.fetchShared _ _ _ _ _ (hQ.fetchShared _ _ _ _ _ h))) _ h

theorem touch (cl ctx : Nat) (acc : Acc) (va : Dword) (e : TlbEntry) (h : Q s) : Q (s.touch cl ctx acc va e) := by
  unfold State.touch
  extract_lets s1 s2
  have h1 : Q s1 := ite h (hQ.orLeaf _ _ (hQ.access (hQ.holdWalk _ _ h) rfl))
  clear_value s1
  exact ite (hQ.access (hQ.orLeaf _ _ h1) rfl) h1

theorem holdRanges (core ctx : Nat) (h : Q s) : Q (s.holdRanges core ctx) :=
  ite (hQ.fetchShared _ _ _ _ _ (hQ.fetchShared _ _ _ _ _ h)) h

/-! ### Accesses of the engines (08_copy_engine R187, R194) -/

theorem engXlate (core ctx : Nat) (acc : Acc) (va : Dword) (h : Q s) : Yields (fun r => Q r.2.2) (s.engXlate core ctx acc va) := by
  unfold State.engXlate
  split
  · trivial
  · exact hQ.touch _ _ _ _ _ h

theorem engRead (core ctx pa n : Nat) (h : Q s) : Q (s.engRead core ctx pa n).2 := by
  have h1 := hQ.holdRanges core ctx h
  simp only [State.engRead]
  generalize s.holdRanges core ctx = s1 at h1
  split
  · exact hQ.access (hQ.homeRead pa n h1) rfl
  · exact hQ.l2Read pa n h1

theorem noteWriter (core pa n : Nat) (h : Q s) : Q (s.noteWriter core pa n) := hQ.access h rfl

theorem engWrite (core ctx pa : Nat) (bs : List Byte) (h : Q s) : Q (s.engWrite core ctx pa bs) := by
  have h1 := hQ.holdRanges core ctx h
  unfold State.engWrite
  generalize s.holdRanges core ctx = s1 at h1
  exact hQ.noteWriter _ _ _ (ite (hQ.access (hQ.homeWrite pa bs h1) rfl) (hQ.homePut pa bs h1))

end Undisturbed

end Sys2Proof.Machine

/-!
# Pages and records disturb nothing else

The pages of the scratchpad and the iterator records of an engine instruction (06_core_memory R137 to R140, 08_copy_engine R178, R184) keep
every property of `Undisturbed`; what follows for the wefts, the places of the teams and the copies of the cores.
-/

namespace Sys2Proof.Machine

namespace Undisturbed

variable {Q : State → Prop} {s : State}

variable (hQ : Undisturbed Q)
include hQ

/-! ### Loads of a core -/

theorem ncFetch (core ctx : Nat) (va : Dword) (pa : Nat) (h : Q s) : Q (s.ncFetch core ctx va pa) := by
  unfold State.ncFetch
  split
  · exact h
  · exact hQ.core _ _ (hQ.l2Read _ _ (hQ.l1Room _ _ _ h)) rfl

theorem useLine (core ctx : Nat) (va : Dword) (h : Q s) : Q (s.useLine core ctx va) := hQ.access h rfl

theorem coreRead (core ctx : Nat) (va : Dword) (pa gr n : Nat) (h : Q s) : Q (s.coreRead core ctx va pa gr n).2 := by
  have h1 := hQ.holdRanges core ctx h
  simp only [State.coreRead]
  generalize s.holdRanges core ctx = s1 at h1
  split
  · exact hQ.useLine _ _ _ h
  · split
    · exact h
    · split
      · exact hQ.fetchShared _ _ _ _ _ h1
      · split
        · exact hQ.ncFetch _ _ _ _ h1
        · exact hQ.l2Read _ _ h1

theorem xlate (core ctx : Nat) (acc : Acc) (va : Dword) (h : Q s) : Yields (fun r => Q r.2.2) (s.xlate core ctx acc va) := by
  unfold State.xlate State.through
  split
  · trivial
  · split
    · exact hQ.touch _ _ _ _ _ h
    · exact h

theorem readRecord (core ctx : Nat) (va : Dword) (pa gr : Nat) (h : Q s) : Q (s.readRecord core ctx va pa gr).2 :=
  hQ.coreRead _ _ _ _ _ _ (hQ.coreRead _ _ _ _ _ _ h)

/-! ### Frames and pages -/

theorem setFrame (c n : Nat) (f : Option Frame) (h : Q s) : Q (s.setFrame c n f) := hQ.core _ _ h rfl

theorem noteFree (c : Nat) (h : Q s) : Q (s.noteFree c) := hQ.access h rfl

theorem setField (off lo n v : Nat) (h : Q s) : Q (s.setField off lo n v) := hQ.access h rfl

theorem missed (c : Nat) (h : Q s) : Q (s.modCore c fun x => { x with misses := x.misses + 1 }) := hQ.core _ _ h rfl

theorem stlbMissed (c : Nat) (l : List (Nat × Nat)) (h : Q s) :
    Q (s.modCore c fun x => { x with stlb := (l ++ x.stlb).take 256, misses := x.misses + 1 }) := hQ.core _ _ h rfl

theorem setSpte (t P : Nat) (e : Dword) (h : Q s) : Q (s.setTeam t ((s.team t).setSpte P e)) := hQ.team _ _ h rfl

theorem evict (core n : Nat) (h : Q s) : Yields Q (s.evict core n) := by
  unfold State.evict
  split
  · exact h
  · extract_lets back e x at_ inImage s1 s2 s3 s4
    have h1 : Q s1 := Undisturbed.ite (hQ.homeWrite _ _ h) h
    have h2 : Q s2 := Undisturbed.ite (hQ.homeWrite _ _ h1) h1
    have h4 : Q s4 := hQ.noteFree _ (hQ.setFrame _ _ _ (hQ.setSpte _ _ _ h2))
    clear_value s4
    refine .ite trivial (.ite trivial (hQ.team _ _ h4 ?_))
    dsimp only
    split
    · rfl
    · generalize List.any _ _ = b
      cases b <;> rfl

theorem clockVictim (core : Nat) (h : Q s) : ∀ x ∈ s.clockVictim core, Q x.2 := by
  intro x hx
  simp only [State.clockVictim] at hx
  split at hx
  · cases hx
  · cases hx
    refine hQ.core _ _ (foldl (fun s i h => ?_) _ h) rfl
    split
    · exact hQ.setFrame _ _ _ h
    · exact h

theorem takeFrame (core P : Nat) (h : Q s) : Yields (∀ x ∈ ·, Q x.2) (s.takeFrame core P) := by
  unfold State.takeFrame
  split
  · exact fun x hx => Option.mem_some.1 hx ▸ h
  · split
    · exact fun x hx => nomatch hx
    · next hv =>
      split
      · trivial
      · next hs =>
        intro x hx
        obtain ⟨i, -, rfl⟩ := Option.map_eq_some_iff.1 hx
        exact (hQ.evict _ _ (hQ.clockVictim _ h _ hv)).ok hs

theorem teamFrame (t P core : Nat) (h : Q s) : Yields (∀ x ∈ ·, Q x.2.2) (s.teamFrame t P core) := by
  unfold State.teamFrame
  dsimp only
  split
  · trivial
  · next hr => exact fun x hx => Option.mem_some.1 hx ▸ (hQ.takeFrame core P h).ok hr _ rfl
  · refine .ite ?_ fun x hx => nomatch hx
    split
    · trivial
    · next hr =>
      intro x hx
      obtain ⟨y, hy, rfl⟩ := Option.map_eq_some_iff.1 hx
      exact (hQ.takeFrame _ P h).ok hr y hy

theorem fillPage (t P core : Nat) (h : Q s) : Yields Q (s.fillPage t P core) := by
  unfold State.fillPage
  extract_lets x e back
  refine .ite trivial ?_
  split
  · trivial
  · trivial
  · next c i s1 hr =>
    have h1 : Q s1 := (hQ.teamFrame t P core h).ok hr _ rfl
    have h2 : Q (if speZf e then ([], s1) else s1.homeRead back 2048).2 := by
      split
      · exact h1
      · exact hQ.homeRead _ _ h1
    generalize (if speZf e then ([], s1) else s1.homeRead back 2048) = r at h2 ⊢
    obtain ⟨bs, s2⟩ := r
    dsimp only
    exact hQ.missed core (hQ.setField _ _ _ _ (hQ.noteFree _ (hQ.setFrame _ _ _ (hQ.setSpte _ _ _ h2))))

theorem spadTlb (core t P : Nat) (h : Q s) : Q (s.spadTlb core t P) := by
  unfold State.spadTlb
  exact Undisturbed.ite h (hQ.stlbMissed core [(t, P)] (Undisturbed.ite (hQ.homeRead _ _ h) h))

theorem bringPage (t core P : Nat) (h : Q s) : Yields Q (s.bringPage t core P) := by
  unfold State.bringPage
  extract_lets s1
  have h1 : Q s1 := hQ.spadTlb _ _ _ h
  clear_value s1
  split
  · refine .ite (Undisturbed.ite h1 (hQ.setFrame _ _ _ h1)) (.ite trivial ?_)
    split
    · trivial
    · next hs => exact hQ.fillPage _ _ _ ((hQ.evict _ _ h1).ok hs)
  · exact hQ.fillPage _ _ _ h1

theorem bringPages (t core : Nat) (Ps : List Nat) (h : Q s) : Yields Q (s.bringPages t core Ps) := by
  unfold State.bringPages
  extract_lets Qs need waiting first r
  refine .ite trivial ?_
  have hr : Yields Q r := by
    refine List.foldlRecOn Qs _ h fun r hr P _ => ?_
    cases r with
    | error e => trivial
    | ok s => exact hQ.bringPage _ _ _ hr
  clear_value r
  split
  · trivial
  · trivial
  · exact Undisturbed.ite (hQ.core _ _ hr rfl) hr

/-! ### Structures of an engine instruction -/

theorem spadAt (c : Ctx) (a n : Nat) (h : Q s) : Yields (fun r => Q r.2) (spadAt c s a n) := by
  unfold Machine.spadAt
  extract_lets t w
  refine .ite trivial (.ite trivial ?_)
  split
  · trivial
  · next hs => exact (hQ.bringPages _ _ _ h).ok hs

theorem recordAt (c : Ctx) (glob inGlobal : Bool) (r : Reg) (h : Q s) : Yields (fun r => Q r.2) (recordAt c s glob inGlobal r) := by
  unfold Machine.recordAt
  extract_lets w S judge va a
  have hj {bs : List Byte} {s : State} (h : Q s) : Yields (fun r => Q r.2) (judge bs s) := by
    simp only [judge]
    split
    · exact .ite h trivial
    · trivial
  refine .ite (.ite trivial ?_) (.ite trivial ?_)
  · split
    · unfold xlateStop
      split <;> trivial
    · next hx => exact .ite trivial (hj (hQ.readRecord _ _ _ _ _ ((hQ.xlate _ _ _ _ h).ok hx)))
  · split
    · trivial
    · next hs => exact hj ((hQ.spadAt _ _ _ h).ok hs)

theorem recordsAt (c : Ctx) : ∀ (rs : List Reg) {s : State}, Q s → Yields (fun r => Q r.2) (recordsAt c rs s)
  | [], _, h => h
  | r :: t, _, h => by
    unfold Machine.recordsAt
    split
    · trivial
    · next hs => exact (recordsAt c t ((hQ.recordAt c false false r h).ok hs)).map fun _ h => h

theorem copyOperands (fn : Nat) (c : Ctx) (h : Q s) : Yields (fun r => Q r.2.2.2) (copyOperands fn c s) := by
  unfold Machine.copyOperands
  extract_lets ext w
  split
  · split
    · trivial
    · next hx =>
      have h1 := (hQ.recordAt _ _ _ _ h).ok hx
      split
      · trivial
      · next hy => exact .ite trivial ((hQ.recordAt _ _ _ _ h1).ok hy)
  · split
    · trivial
    · next hy =>
      have h1 := (hQ.recordAt _ _ _ _ h).ok hy
      split
      · exact h1
      · trivial
  · split
    · trivial
    · next hx =>
      have h1 := (hQ.recordAt _ _ _ _ h).ok hx
      split
      · exact h1
      · trivial
  · trivial

/-! ### Elements of an engine operation (08_copy_engine R187) -/

theorem readElem (core k seq : Nat) (r : Iter) (e : Nat) (h : Q s) : Yields (fun r => Q r.2) (readElem s core k seq r e) := by
  unfold Machine.readElem
  extract_lets a t
  refine .ite ?_ (.ite trivial (.ite trivial ?_))
  · split
    · trivial
    · trivial
    · next pa gr s1 hx =>
      have h1 := hQ.engRead core (s1.ctxOf k) pa r.esize ((hQ.engXlate core (s.ctxOf k) .read a h).ok hx)
      refine .ite trivial ?_
      split
      next hr =>
        rw [hr] at h1
        exact h1
  · split
    · trivial
    · next hs => exact (hQ.bringPages _ _ _ h).ok hs

end Undisturbed

/-! ## What the checks of an engine instruction leave -/

/-- The wefts, the turn, and the cores of the wefts are those of `o`. -/
structure State.Placed (o s : State) : Prop where
  wefts  : s.wefts = o.wefts
  cur    : s.cur = o.cur
  coreOf : ∀ k, s.coreOf k = o.coreOf k

theorem State.Placed.refl (s : State) : s.Placed s := ⟨rfl, rfl, fun _ => rfl⟩

theorem State.Placed.me {o s : State} (h : o.Placed s) : s.weft o.cur = o.me := by
  unfold State.weft
  rw [h.wefts]
  rfl

/-- A team whose page table alone has changed stands where it stood. -/
theorem State.coreOf_setTeam {s : State} {t : Nat} {x : Team} (hc : x.core = (s.team t).core) (hp : x.pair = (s.team t).pair) (k : Nat) :
    (s.setTeam t x).coreOf k = s.coreOf k := by
  unfold State.coreOf State.teamOfWeft
  by_cases h : teamOf k = t
  · rw [h, State.team_setTeam_same]
    dsimp only
    rw [hc, hp]
  · rw [State.team_setTeam_ne _ _ h]

theorem placed_undisturbed (o : State) : Undisturbed o.Placed where
  access h ht := by rw [ht]; exact ⟨h.wefts, h.cur, h.coreOf⟩
  core _ _ h _ := ⟨h.wefts, h.cur, h.coreOf⟩
  team t x h hx := ⟨h.wefts, h.cur, fun k => (State.coreOf_setTeam (by rw [hx]) (by rw [hx]) k).trans (h.coreOf k)⟩

end Sys2Proof.Machine

/-!
# Operations given to the engines, and their completion

O30: an engine instruction hands its core an operation and counts its flag (`engages_of_ok`, `launchOp_eq`); an operation that completes leaves
the core and counts the flag down (`finishOp`); the slots of the operand buffer.
-/

namespace Sys2Proof.Machine

variable {i : Info} {s s' : State} {body : Ctx → State → Except Stop Eff} {e : Eff}

/-! ## Operations at issue -/

/-- The weft that has given its core an operation, counted on its flag. -/
def Weft.engaged (w : Weft) (c : Ctx) : Weft := { w with seq := w.seq + 1 }.countFlag (c.flagNo w)

/-- A body that counts its flag and changes its core, on the state that its checks leave. -/
theorem engages_of_ok {f : Core → Core} (h : issues i s = true) (hb : body (i.ctx s) s = .ok e) (hf : e.fin = .next)
    (he : e.s = (s'.setWeft s.cur (s.me.engaged (i.ctx s))).modCore (s.coreOf s.cur) f) (hc : s.clear s') :
    ∃ t, Takes (issueMem i body s) s t ∧ Engages i s s' t ∧ t.cores = e.s.cores := by
  have hw : e.s.weft s.cur = s.me.engaged (i.ctx s) := by
    rw [he, State.modCore_eq, State.setCore_weft, State.weft_setWeft_same]
  obtain ⟨t, ht, ⟨ho, hj⟩, hg, hctl, hx, hh⟩ := takes_of_ok h hb hf (by rw [hw]; exact ⟨id, rfl, rfl⟩) (by rw [he]; exact hc)
  rw [hw] at hctl hx hh
  have hfg : (t.weft s.cur).flags = (s.me.countFlag ((i.ctx s).flagNo s.me)).flags := by rw [hctl]; rfl
  have hcores : t.cores = e.s.cores := by rw [ho]
  refine ⟨t, ht, ⟨⟨?_, fun j hne => ?_, fun c hne => ?_⟩, hg, hfg, ?_, hx, hh⟩, hcores⟩
  · rw [hcores, ho, he]
    rfl
  · rw [hj j hne, he, State.modCore_eq, State.setCore_weft, State.weft_setWeft_ne _ _ hne]
  · unfold State.core
    rw [hcores, he]
    exact (State.core_setCore_ne _ _ hne).trans rfl
  · unfold SameControl at hctl ⊢
    rw [hfg]
    exact hctl

/-- What an operation's launch leaves, on a state whose wefts and places are those at issue. -/
theorem launchOp_eq (hp : s.Placed s') (kind : EngKind) :
    launchOp (i.ctx s) s' kind = (s'.setWeft s.cur (s.me.engaged (i.ctx s))).modCore (s.coreOf s.cur)
      fun x => { x with ops := x.ops ++ [i.engOp s s' kind] } := by
  have hw : s'.weft (i.ctx s).k = s.me := hp.me
  have hk : ∀ w, (s'.setWeft s.cur w).coreOf s.cur = s.coreOf s.cur := fun _ => hp.coreOf s.cur
  unfold launchOp
  simp only [hw, Weft.takeSeq]
  change State.modCore _ ((s'.setWeft s.cur _).coreOf s.cur) _ = _
  rw [hk]
  rfl

/-- An instruction whose body's one effect is an operation for its core. -/
theorem engages_of_launch {kind : EngKind} (h : issues i s = true) (hp : s.Placed s')
    (hb : body (i.ctx s) s = .ok { s := launchOp (i.ctx s) s' kind }) (hc : s.clear s') :
    ∃ t, Takes (issueMem i body s) s t ∧ Engages i s s' t
      ∧ t.core (s.coreOf s.cur)
        = { s'.core (s.coreOf s.cur) with ops := (s'.core (s.coreOf s.cur)).ops ++ [i.engOp s s' kind] } := by
  obtain ⟨t, ht, he, hcores⟩ := engages_of_ok h hb rfl (launchOp_eq hp kind) hc
  refine ⟨t, ht, he, ?_⟩
  unfold State.core
  rw [hcores]
  dsimp only
  rw [launchOp_eq hp kind]
  exact State.core_setCore_same _ _ _

/-! ## TSWEEP (08_copy_engine R191 to R193) -/

/-- The element that TFILL writes: a word, or a pair, of the scalars. -/
def sweepFill (fn : Nat) (w : Weft) (a : Reg) (dst : Iter) : Dword :=
  if fn = 6 then (if dst.esize = 8 then pairAt w true a 0 else (wordAt w true a 0).setWidth 64) else 0

/-- A sweep whose records agree launches its operation. -/
theorem sweepBody_ok {fn : Nat} {s1 s2 : State} {dst : Iter} {srcs : List Iter} (hp : s.Placed s2)
    (hd : recordAt (i.ctx s) s false false i.d = .ok (dst, s1)) (hs : recordsAt (i.ctx s) (sweepSources fn (i.ctx s)) s1 = .ok (srcs, s2))
    (hr : ∀ r ∈ srcs, r.count = dst.count ∧ r.start = dst.start) (h3 : fn = 3 → (srcs.map Iter.esize).dedup.length = 1)
    (h7 : fn = 7 → srcs.map Iter.esize = [dst.esize]) (h6 : fn = 6 → dst.esize = 8 → i.a.toNat % 2 = 0) :
    sweepBody fn (i.ctx s) s = .ok { s := launchOp (i.ctx s) s2 (.tsweep fn dst srcs (sweepFill fn s.me i.a dst)) } := by
  have hany : srcs.any (fun r => r.count != dst.count || r.start != dst.start) = false := by
    rw [List.any_eq_false]
    intro r hm
    simp [hr r hm]
  have hsize : (fn == 3 && (srcs.map Iter.esize).dedup.length != 1) = false := by
    by_cases h : fn = 3
    · simp [h3 h]
    · simp [h]
  have hcopy : (fn == 7 && srcs.map Iter.esize != [dst.esize]) = false := by
    by_cases h : fn = 7
    · simp [h7 h]
    · simp [h]
  have hfill : ¬ (fn = 6 ∧ dst.esize = 8 ∧ i.a.toNat % 2 = 1) := fun ⟨hf, h8, ho⟩ => by
    rw [h6 hf h8] at ho
    cases ho
  have hw : s2.weft (i.ctx s).k = s.me := hp.me
  unfold sweepBody
  rw [show recordAt (i.ctx s) s false false (i.ctx s).i.d = .ok (dst, s1) from hd]
  dsimp only
  rw [hs]
  dsimp only
  rw [hany, hsize, hcopy, hw]
  exact if_neg hfill

/-- A sweep is given to its core with the phase that it reserves. -/
theorem sweep_engages {fn : Nat} {p : Option Prefix} {d a b : Reg} {s1 s2 : State} {dst : Iter} {srcs : List Iter}
    (h : issues (formA p 0x52 fn true d a b) s = true) (hd : recordAt ((formA p 0x52 fn true d a b).ctx s) s false false d = .ok (dst, s1))
    (hs : recordsAt ((formA p 0x52 fn true d a b).ctx s) (sweepSources fn ((formA p 0x52 fn true d a b).ctx s)) s1 = .ok (srcs, s2))
    (hc : s.clear s2) (hr : ∀ r ∈ srcs, r.count = dst.count ∧ r.start = dst.start) (h3 : fn = 3 → (srcs.map Iter.esize).dedup.length = 1)
    (h7 : fn = 7 → srcs.map Iter.esize = [dst.esize]) (h6 : fn = 6 → dst.esize = 8 → a.toNat % 2 = 0) :
    ∃ t, Takes (issueSweep fn p d a b s) s t ∧ Engages (formA p 0x52 fn true d a b) s s2 t
      ∧ t.core (s.coreOf s.cur) = { s2.core (s.coreOf s.cur) with ops := (s2.core (s.coreOf s.cur)).ops ++
          [(formA p 0x52 fn true d a b).engOp s s2 (.tsweep fn dst srcs (sweepFill fn s.me a dst))] } := by
  have hQ := placed_undisturbed s
  have hp : s.Placed s2 := (hQ.recordsAt _ _ ((hQ.recordAt _ _ _ _ (.refl s)).ok hd)).ok hs
  exact engages_of_launch h hp (sweepBody_ok hp hd hs hr h3 h7 h6) hc

/-! ## Completion (08_copy_engine R192, R193) -/

/-- The weft whose operation completes: the flags in the operation's lane, DPHASE where the kind of operation moves it, and the count of its
completion flag. -/
def Weft.finishedOp (w : Weft) (o : EngOp) (fl : Byte) : Weft :=
  let w := if fl = 0 then w else w.orFflag o.lane fl
  let w := if o.kind.sweepLike then w.stepPhase 1 else w
  w.dropFlag o.flag

theorem finishOp_eq (s : State) (core j : Nat) (o : EngOp) (fl : Byte) :
    finishOp s core j o fl none = (dropOp s core j).setWeft o.k ((s.weft o.k).finishedOp o fl) := rfl

theorem core_dropOp (s : State) (core j : Nat) : (dropOp s core j).core core = { s.core core with ops := (s.core core).ops.eraseIdx j } :=
  State.core_setCore_same _ _ _

variable (w : Weft) (o : EngOp) (fl : Byte)

theorem Weft.orFflag_fflag (L : Nat) : (if fl = 0 then w else w.orFflag L fl).fflag L = w.fflag L ||| fl := by
  split
  · next h => exact h ▸ (BitVec.or_zero).symm
  · unfold Weft.orFflag
    rw [fflag_setFflag, if_pos rfl]

/-- Of the registers, completion changes FFLAGS and FMODE alone. -/
theorem Weft.finishedOp_frame : w.finishedOp o fl = { w with
    regs := { w.regs with fflags := (w.finishedOp o fl).regs.fflags, fmode := (w.finishedOp o fl).regs.fmode }
    flags := (w.dropFlag o.flag).flags } := by
  unfold Weft.finishedOp
  split <;> split <;> rfl

theorem Weft.finishedOp_fflag : (w.finishedOp o fl).fflag o.lane = w.fflag o.lane ||| fl := by
  rw [← w.orFflag_fflag fl o.lane]
  unfold Weft.finishedOp
  split <;> split <;> rfl

theorem Weft.finishedOp_flagCount : (w.finishedOp o fl).flagCount o.flag = w.flagCount o.flag - 1 := by
  rw [← w.dropFlag_count o.flag]
  unfold Weft.flagCount
  rw [w.finishedOp_frame o fl]

theorem Weft.finishedOp_dphase (h : o.kind.sweepLike = true) :
    dphase (w.finishedOp o fl).regs.fmode = (dphase w.regs.fmode + 1) % 64 := by
  have hm : (w.finishedOp o fl).regs.fmode = withBits w.regs.fmode 11 6 (dphase w.regs.fmode + 1) := by
    simp only [Weft.finishedOp, if_pos h]
    split <;> rfl
  rw [hm]
  exact bitsOf_withBits_same _ _ (by decide)

/-! ## Slots of the operand buffer (08_copy_engine R194 to R197) -/

/-- Nothing but the cores differs, and of one core nothing but its slots. -/
structure SlotsOnly (core : Nat) (s t : State) : Prop where
  state : t = { s with cores := t.cores }
  core  : t.core core = { s.core core with slots := (t.core core).slots }

theorem SlotsOnly.refl (core : Nat) (s : State) : SlotsOnly core s s := ⟨rfl, rfl⟩

theorem slotsOnly_setSlot {core : Nat} {s t : State} (h : SlotsOnly core s t) (n : Nat) (x : Slot) : SlotsOnly core s (t.setSlot core n x) := by
  refine ⟨?_, ?_⟩
  · rw [h.state]
    rfl
  · rw [State.setSlot, State.modCore_eq, State.core_setCore_same, h.core]

theorem slot_setSlot (s : State) (core n : Nat) (x : Slot) : ((s.setSlot core n x).core core).slot n = x := by
  rw [State.setSlot, State.modCore_eq, State.core_setCore_same]
  exact SMap.get_set_same _ _ _ _

/-- Pins are a list of a slot beside its bytes and its marks. -/
theorem addPins_slot {core n : Nat} {s : State} : ∀ (bs : List Nat) {t : State}, SlotsOnly core s t →
    SlotsOnly core s (t.addPins core n bs)
      ∧ ((t.addPins core n bs).core core).slot n
        = { (t.core core).slot n with pins := (((t.addPins core n bs).core core).slot n).pins }
  | [], _, h => ⟨h, rfl⟩
  | b :: bs, t, h => by
    have hstep : SlotsOnly core s (t.addPins core n [b]) ∧ ((t.addPins core n [b]).core core).slot n
        = { (t.core core).slot n with pins := (((t.addPins core n [b]).core core).slot n).pins } := by
      simp only [State.addPins, List.foldl_cons, List.foldl_nil]
      split
      · refine ⟨slotsOnly_setSlot h _ _, ?_⟩
        rw [slot_setSlot]
      · exact ⟨h, rfl⟩
    obtain ⟨h1, h2⟩ := addPins_slot bs hstep.1
    rw [hstep.2] at h2
    exact ⟨h1, h2⟩

/-- A slot that is filled holds the bytes from its first one, zeros after them, and has no re-run to come. -/
theorem fillSlot_slot (s : State) (core n : Nat) (bs : List Byte) (blocks : List Nat) :
    SlotsOnly core s (fillSlot s core n bs blocks)
      ∧ (((fillSlot s core n bs blocks).core core).slot n).rerun = false
      ∧ ∀ q, SMap.get zeroByte (((fillSlot s core n bs blocks).core core).slot n).data q = if q < bs.length then bs.getD q 0 else 0 := by
  obtain ⟨h1, h2⟩ := addPins_slot (n := n) blocks.dedup (slotsOnly_setSlot (.refl core s) n
    { (s.core core).slot n with data := SMap.write zeroByte [] 0 bs, rerun := false })
  rw [slot_setSlot] at h2
  refine ⟨h1, ?_, fun q => ?_⟩
  · unfold fillSlot
    rw [h2]
  · have hd : (((fillSlot s core n bs blocks).core core).slot n).data = SMap.write zeroByte [] 0 bs := by
      unfold fillSlot
      rw [h2]
    rw [hd, SMap.get_write]
    by_cases hq : q < bs.length
    · rw [dif_pos ⟨Nat.zero_le q, by omega⟩, if_pos hq, List.getD_eq_getElem _ _ hq]
      rfl
    · rw [dif_neg (by omega), if_neg hq]
      rfl

/-- The slot's new record at the issue of a TFETCH: its pins and marks are gone, and no operation consumes the fetch (R464). -/
def State.takeRecord (s : State) (core n : Nat) (x : Nat × Iter) : State :=
  let s := s.releasePins core n
  let s := s.setSlot core n { (s.core core).slot n with snap := some x, used := false, unpin := false, rerun := false, rerunProt := none }
  s.modCore core fun x => { x with ops := x.ops.map fun o => { o with eats := o.eats.filter fun m => m != n } }

theorem takeRecord_cores (s : State) (core n : Nat) (x : Nat × Iter) :
    s.takeRecord core n x = { s with cores := (s.takeRecord core n x).cores } := rfl

theorem takeRecord_slot (s : State) (core n : Nat) (x : Nat × Iter) :
    (((s.takeRecord core n x).core core).slot n).snap = some x ∧ (((s.takeRecord core n x).core core).slot n).pins = [] := by
  have h : ((s.takeRecord core n x).core core).slot n
      = { (((s.releasePins core n).core core).slot n) with snap := some x, used := false, unpin := false, rerun := false, rerunProt := none } := by
    unfold State.takeRecord
    rw [State.modCore_eq, State.core_setCore_same]
    exact slot_setSlot (s.releasePins core n) core n _
  rw [h]
  refine ⟨rfl, ?_⟩
  unfold State.releasePins
  rw [slot_setSlot]

theorem tfetchBody_ok {r : Iter} {s1 : State} (hr : recordAt (i.ctx s) s true false i.a = .ok (r, s1))
    (hn : (sregOf s.me i.d).toNat < s1.slotCount (s.coreOf s.cur)) (hsz : (r.count - r.start) * r.esize ≤ 16384)
    (hf : s1.slotToRead (s.coreOf s.cur) (sregOf s.me i.d).toNat = false) :
    tfetchBody (i.ctx s) s = .ok
      { s := launchOp (i.ctx s) (s1.takeRecord (s.coreOf s.cur) (sregOf s.me i.d).toNat (teamOf s.cur, r)) (.tfetch (sregOf s.me i.d).toNat r) } := by
  have hbad : ¬ (s1.slotCount (s.coreOf s.cur) ≤ (sregOf s.me i.d).toNat ∨ 16384 < (r.count - r.start) * r.esize) := by omega
  unfold tfetchBody
  rw [show recordAt (i.ctx s) s true false (i.ctx s).i.a = .ok (r, s1) from hr]
  exact (if_neg hbad).trans (if_neg (Bool.eq_false_iff.1 hf))

/-- A TUNPIN reaches the slot and the fetches to it that are in flight. -/
def State.unpinned (s : State) (core n : Nat) : State :=
  let s := s.releasePins core n
  let s := s.setSlot core n { (s.core core).slot n with unpin := true }
  s.modCore core fun x => { x with ops := x.ops.map fun o => if o.fetches n then { o with unpin := true } else o }

theorem unpinned_slot (s : State) (core n : Nat) :
    (((s.unpinned core n).core core).slot n).pins = [] ∧ (((s.unpinned core n).core core).slot n).data = ((s.core core).slot n).data := by
  have h : ((s.unpinned core n).core core).slot n = { (((s.releasePins core n).core core).slot n) with unpin := true } := by
    unfold State.unpinned
    rw [State.modCore_eq, State.core_setCore_same]
    exact slot_setSlot (s.releasePins core n) core n _
  rw [h]
  unfold State.releasePins
  rw [slot_setSlot]
  exact ⟨rfl, rfl⟩

theorem unpinned_fetches (s : State) (core n : Nat) : ∀ o ∈ ((s.unpinned core n).core core).ops, o.fetches n = true → o.unpin = true := by
  intro o ho hf
  unfold State.unpinned at ho
  rw [State.modCore_eq, State.core_setCore_same] at ho
  obtain ⟨o', -, rfl⟩ := List.mem_map.1 ho
  split at hf
  · next h => rw [if_pos h]
  · next h => exact absurd hf h

theorem tunpinBody_ok (hn : (sregOf s.me i.d).toNat < s.slotCount (s.coreOf s.cur)) :
    tunpinBody (i.ctx s) s = .ok { s := s.unpinned (s.coreOf s.cur) (sregOf s.me i.d).toNat } :=
  if_neg (Nat.not_le.2 hn)

/-! ## The events TSWEEP_COMPLETE, TFETCH_COMPLETE and TFETCH_RERUN_COMPLETE, whose elements have all been performed -/

theorem tsweepComplete_ok {core j fn : Nat} {o : EngOp} {dst : Iter} {srcs : List Iter} {fill : Dword} {s1 : State} {fl : Byte}
    (ho : (s.core core).ops[j]? = some o) (hk : o.kind = .tsweep fn dst srcs fill) (hst : o.stopped = false)
    (hr : runElems (enables o.fmode) (sweepElem core o fn dst srcs fill) dst.elements (s.acting o.k o.seq) 0 none = .ok (s1, fl, none)) :
    execTsweepComplete core j s = event s (.ok (finishOp s1 core j o fl none)) := by
  unfold execTsweepComplete
  rw [ho]
  dsimp only
  rw [hk, hst]
  dsimp only
  rw [hr]
  rfl

theorem tfetchComplete_ok {core j n : Nat} {o : EngOp} {r : Iter} {s1 : State} {bs : List Byte} {blocks : List Nat}
    (ho : (s.core core).ops[j]? = some o) (hk : o.kind = .tfetch n r) (hst : o.stopped = false)
    (hf : ∀ x ∈ (s.core core).ops.take j, x.fetches n = false)
    (hr : fetchAll core (s.ctxOf o.k) (some (o.k, o.seq)) r r.elements (s.acting o.k o.seq) = .ok (bs, blocks, s1)) :
    ∃ pins, execTfetchComplete core j s = event s (.ok (finishOp (fillSlot s1 core n bs pins) core j o 0 none)) := by
  have hany : ((s.core core).ops.take j).any (fun x => x.fetches n) = false := List.any_eq_false.2 fun x hx => by rw [hf x hx]; decide
  refine ⟨if !o.unpin && !((s.core core).ops.drop (j + 1)).any fun x => x.fetches n then blocks else [], ?_⟩
  unfold execTfetchComplete
  dsimp only
  rw [ho]
  dsimp only
  rw [hk, hst]
  dsimp only
  rw [hany, hr]
  rfl

theorem tfetchRerun_ok {core n T : Nat} {r : Iter} {s1 : State} {bs : List Byte} {blocks : List Nat}
    (hre : ((s.core core).slot n).rerun = true) (hs : ((s.core core).slot n).snap = some (T, r)) (hT : (s.team T).status = .resident)
    (hr : fetchAll core (s.team T).ctx none r r.elements s = .ok (bs, blocks, s1)) :
    ∃ pins, execTfetchRerunComplete core n s = event s (.ok (fillSlot s1 core n bs pins)) := by
  refine ⟨if ((s.core core).slot n).unpin then [] else blocks, ?_⟩
  unfold execTfetchRerunComplete
  dsimp only
  rw [hre, hs]
  dsimp only
  rw [if_neg (not_not.2 hT), hr]
  rfl

/-- Settles O30: at issue by `engages_of_launch` on the checks' state, at completion by what `finishOp` and `fillSlot` leave. -/
theorem sweepsAndFetchesRun : Obligations.SweepsAndFetchesRun := by
  unfold Obligations.SweepsAndFetchesRun
  refine ⟨⟨fun p d a b s s1 s2 dst srcs => ?_, fun core j fn o dst srcs fill s s1 fl ho hk hst hr hc => ?_⟩, ?_, ?_, ?_, ?_⟩
  · exact ⟨sweep_engages, sweep_engages, sweep_engages, sweep_engages, sweep_engages, sweep_engages, sweep_engages, sweep_engages⟩
  · have hs : o.kind.sweepLike = true := by rw [hk]; rfl
    refine ⟨finishOp s1 core j o fl none, ?_, rfl, ?_, ?_, ?_, ?_, ?_, ?_, fun k hne => ?_⟩
    · change Takes (execTsweepComplete core j s) s _
      rw [tsweepComplete_ok ho hk hst hr]
      exact takes_event hc
    · rw [finishOp_eq, State.setWeft_core, core_dropOp]
    all_goals rw [finishOp_eq]
    · rw [State.weft_setWeft_same, Weft.finishedOp_fflag]
    · rw [State.weft_setWeft_same, Weft.finishedOp_dphase _ _ _ hs]
    · rw [State.weft_setWeft_same, Weft.finishedOp_flagCount]
    · rw [State.weft_setWeft_same, Weft.finishedOp_frame]
    · rw [State.weft_setWeft_same, Weft.finishedOp_frame]
    · exact State.weft_setWeft_ne _ _ hne
  · intro p d a s s1 r i core n h hr hc hn hsz hf
    have hp : s.Placed s1 := ((placed_undisturbed s).recordAt _ _ _ _ (.refl s)).ok hr
    have hp' : s.Placed (s1.takeRecord core n (teamOf s.cur, r)) := ⟨hp.wefts, hp.cur, hp.coreOf⟩
    obtain ⟨t, ht, he, hcore⟩ := engages_of_launch h hp' (tfetchBody_ok hr hn hsz hf) hc
    obtain ⟨hsnap, hpins⟩ := takeRecord_slot s1 core n (teamOf s.cur, r)
    refine ⟨t, _, ht, takeRecord_cores s1 core n _, he, ?_, ?_, ?_⟩ <;> rw [hcore]
    · exact List.getLast?_concat
    · exact hsnap
    · exact hpins
  · intro p d s i core n h hn
    obtain ⟨t, ht, hr⟩ := retires_of_ok h (tunpinBody_ok hn) rfl (KeepsPace.of_regs s.me s.me.regs)
    have hcore : t.core core = (s.unpinned core n).core core := by rw [hr.only.1]; rfl
    obtain ⟨hpins, hdata⟩ := unpinned_slot s core n
    refine ⟨t, _, ht, rfl, hr, ?_, ?_, ?_⟩ <;> rw [hcore]
    · exact hpins
    · exact hdata
    · exact unpinned_fetches s core n
  · intro core j n o r s s1 bs blocks ho hk hst hf hr hc
    obtain ⟨pins, hx⟩ := tfetchComplete_ok ho hk hst hf hr
    obtain ⟨hs, -, hd⟩ := fillSlot_slot s1 core n bs pins
    have hcore := core_dropOp (fillSlot s1 core n bs pins) core j
    have hw (k : Nat) : (fillSlot s1 core n bs pins).weft k = s1.weft k := by rw [hs.state]; rfl
    refine ⟨finishOp (fillSlot s1 core n bs pins) core j o 0 none, ?_, ?_, ?_, ?_⟩
    · change Takes (execTfetchComplete core j s) s _
      rw [hx]
      refine takes_event ?_
      rw [finishOp_eq, hs.state]
      exact hc
    all_goals rw [finishOp_eq]
    · rw [State.setWeft_core, hcore, hs.core]
    · rw [State.weft_setWeft_same, Weft.finishedOp_flagCount, hw]
    · rw [State.setWeft_core, hcore]
      exact hd
  · intro core n T r s s1 bs blocks hre hs hT hr hc
    obtain ⟨pins, hx⟩ := tfetchRerun_ok hre hs hT hr
    obtain ⟨hs, hre', hd⟩ := fillSlot_slot s1 core n bs pins
    refine ⟨fillSlot s1 core n bs pins, ?_, ?_, hre', hd⟩
    · change Takes (execTfetchRerunComplete core n s) s _
      rw [hx]
      refine takes_event ?_
      rw [hs.state]
      exact hc
    · rw [hs.state]

end Sys2Proof.Machine

/-!
# What a weft that is woken changes, and the copies

A wait that ends and a trap that is taken change wefts and the states of teams (`Stirs`): of the wefts one (`Touches`), or those that were held
(`Woken`). With that, what an update of a byte barrier leaves (08_copy_engine R180, R182), and O28.
-/

namespace Sys2Proof.Machine

/-! ## Wefts and the states of teams -/

/-- Nothing of a team but its state, its report and the clocks of the arrivals at its barriers differs. -/
abbrev Team.Marked (x y : Team) : Prop := y = { x with status := y.status, report := y.report, arrivalsOf := y.arrivalsOf }

/-- Nothing differs but wefts and what `Team.Marked` allows of teams. -/
structure Stirs (s t : State) : Prop where
  state : t = { s with wefts := t.wefts, teams := t.teams }
  team  : ∀ T, (s.team T).Marked (t.team T)

/-- Of the wefts only `k` differs. -/
structure Touches (k : Nat) (s t : State) : Prop extends Stirs s t where
  ne : ∀ j, j ≠ k → t.weft j = s.weft j

/-- Of the wefts only those differ that were held. -/
structure Woken (s t : State) : Prop extends Stirs s t where
  weft : ∀ k, (s.weft k).hold = none → t.weft k = s.weft k

variable {s t u : State} {k : Nat}

theorem Stirs.refl (s : State) : Stirs s s := ⟨rfl, fun _ => rfl⟩

theorem Stirs.trans (h : Stirs s t) (h' : Stirs t u) : Stirs s u := by
  refine ⟨?_, fun T => ?_⟩
  · rw [h'.state, h.state]
  · rw [h'.team T, h.team T]

theorem Touches.refl (k : Nat) (s : State) : Touches k s s := ⟨.refl s, fun _ _ => rfl⟩

theorem Touches.trans (h : Touches k s t) (h' : Touches k t u) : Touches k s u :=
  ⟨h.toStirs.trans h'.toStirs, fun j hj => (h'.ne j hj).trans (h.ne j hj)⟩

theorem Touches.setWeft (h : Touches k s t) (w : Weft) : Touches k s (t.setWeft k w) :=
  h.trans ⟨⟨rfl, fun _ => rfl⟩, fun _ hj => State.weft_setWeft_ne _ _ hj⟩

theorem Touches.setTeam (h : Touches k s t) {T : Nat} {x : Team} (hx : (t.team T).Marked x) : Touches k s (t.setTeam T x) := by
  refine h.trans ⟨⟨rfl, fun T' => ?_⟩, fun _ _ => rfl⟩
  rw [State.team_setTeam]
  split
  · next h => exact h ▸ hx
  · rfl

theorem Woken.refl (s : State) : Woken s s := ⟨.refl s, fun _ _ => rfl⟩

theorem Woken.trans (h : Woken s t) (h' : Woken t u) : Woken s u :=
  ⟨h.toStirs.trans h'.toStirs, fun k hk => (h'.weft k (by rw [h.weft k hk]; exact hk)).trans (h.weft k hk)⟩

theorem Touches.woken (h : Touches k s t) (hk : (s.weft k).hold ≠ none) : Woken s t :=
  ⟨h.toStirs, fun j hj => h.ne j fun he => hk (he ▸ hj)⟩

theorem Woken.ite {c : Prop} [Decidable c] (ht : Woken s t) (hu : Woken s u) : Woken s (if c then t else u) := by
  split
  · exact ht
  · exact hu

theorem Woken.foldl {α : Type} {f : State → α → State} (hf : ∀ s x, Woken s (f s x)) : ∀ (l : List α) (s : State), Woken s (l.foldl f s)
  | [], s => .refl s
  | x :: l, s => (hf s x).trans (Woken.foldl hf l (f s x))

/-! ### Traps (18_traps R405 to R408) -/

theorem Touches.parkTeam (h : Touches k s t) (T kind : Nat) (r : Report) : Touches k s (parkTeam t T kind r) := by
  unfold Machine.parkTeam
  extract_lets x open_ y s1
  have h1 : Touches k s s1 := h.setTeam rfl
  clear_value open_ s1
  cases open_ with
  | false => exact h
  | true =>
    dsimp only
    split
    · exact h1
    · refine h1.setTeam ?_
      dsimp only
      split <;> rfl

theorem Touches.fqpark (h : Touches k s t) (c : Nat) : Touches k s (fqpark t k c) := (h.setWeft _).parkTeam _ _ _

theorem Touches.takeTrap (h : Touches k s t) (c : Cause) (tpc tic addr : Dword) (lane : Nat) (resume : Dword) (entry : Entry) :
    Touches k s (takeTrap t k c tpc tic addr lane resume entry) := by
  unfold Machine.takeTrap
  dsimp only
  split
  · exact h.fqpark _
  · split
    · exact h.setWeft _
    · exact (h.setWeft _).fqpark _

theorem Touches.takeLaneTrap (h : Touches k s t) (resume : Dword) (entry : Entry) : Touches k s (takeLaneTrap t k resume entry) := by
  unfold Machine.takeLaneTrap
  extract_lets w L
  split
  · exact h.takeTrap ..
  · exact h

theorem Touches.retire {c : Ctx} {e : Eff} (h : Touches c.k s e.s) (old : Weft) : Touches c.k s (retire c old e) := by
  unfold Machine.retire
  extract_lets w data emptied w1 undo w3 s1
  have h1 : Touches c.k s s1 := h.setWeft _
  split
  · exact h1.takeLaneTrap ..
  · exact h1

/-! ### Waits -/

theorem Touches.releaseHold (h : Touches k s t) (x : Hold) : Touches k s (releaseHold t k x) :=
  Touches.retire (c := { k := k, i := { op := 0, u := true, p := none }, active := _, zeroed := 0, pc := x.pc, next := x.next }) (h.setWeft _) _

theorem Touches.leaveWait (h : Touches k s t) (x : Dword) : Touches k s (t.leaveWait k x) := by
  unfold State.leaveWait
  split
  · exact h.setWeft _
  · exact h

theorem woken_wakeBarrier (s : State) (T a : Nat) (b : BBar) : Woken s (wakeBarrier s T a b) := by
  refine Woken.foldl (fun s k => ?_) _ s
  cases hk : (s.weft k).hold with
  | none => exact .refl s
  | some x =>
    have hne : (s.weft k).hold ≠ none := by rw [hk]; exact Option.some_ne_none x
    dsimp only
    split
    · exact .ite (.refl s) (.ite ((((Touches.refl k s).leaveWait _).releaseHold x).woken hne)
        (.ite (((Touches.refl k s).setWeft _).woken hne) (.refl s)))
    · exact .refl s

/-- A write to the scratchpad, then the waits that look at it. -/
theorem woken_spadPut (s : State) (T a : Nat) (bs : List Byte) : Woken (s.spadWrite T a bs) (s.spadPut T a bs) := by
  refine Woken.foldl (fun s k => ?_) _ _
  split
  · exact .ite (woken_wakeBarrier ..) (.refl s)
  · exact .refl s

theorem woken_modTeam {T : Nat} {f : Team → Team} (h : (s.team T).Marked (f (s.team T))) : Woken s (s.modTeam T f) :=
  ⟨((Touches.refl 0 s).setTeam h).toStirs, fun _ _ => rfl⟩

/-- What an update of a barrier does beyond the write of its bytes. -/
theorem woken_updateBarrier (s : State) (T a : Nat) (f : BBar → BBar) :
    Woken (s.spadWrite T a (f (BBar.ofBytes (s.spadRead T a 16))).test.toBytes) (updateBarrier s T a f) := by
  unfold updateBarrier
  extract_lets old b new s1 s2
  have h1 : Woken (s.spadWrite T a new.toBytes) s1 := woken_spadPut ..
  refine (h1.trans ?_).trans (woken_wakeBarrier ..)
  exact .ite (woken_modTeam rfl) (.refl s1)

/-! ## What leaves the copies as they were -/

/-- Memory, the caches and the registers of the window are as they were, and so are the copies of every core. -/
structure CopiesKept (s t : State) : Prop where
  state  : t = { s with wefts := t.wefts, teams := t.teams, cores := t.cores }
  copies : ∀ c, (t.core c).copies = (s.core c).copies

theorem CopiesKept.refl (s : State) : CopiesKept s s := ⟨rfl, fun _ => rfl⟩

theorem CopiesKept.trans (h : CopiesKept s t) (h' : CopiesKept t u) : CopiesKept s u := by
  refine ⟨?_, fun c => (h'.copies c).trans (h.copies c)⟩
  rw [h'.state, h.state]

theorem Stirs.copiesKept (h : Stirs s t) : CopiesKept s t := by
  have hc : t.cores = s.cores := by rw [h.state]
  refine ⟨?_, fun c => ?_⟩
  · rw [hc]
    exact h.state
  · unfold State.core
    rw [hc]

/-- A frame is no copy. -/
theorem copies_setFrame (s : State) (c n : Nat) (f : Option Frame) (j : Nat) : ((s.setFrame c n f).core j).copies = (s.core j).copies := by
  unfold State.setFrame
  rw [State.modCore_eq, State.core_setCore]
  split
  · next h => rw [h]
  · rfl

theorem copiesKept_spadWrite (s : State) (T a : Nat) (bs : List Byte) : CopiesKept s (s.spadWrite T a bs) := by
  unfold State.spadWrite
  split
  · exact ⟨rfl, copies_setFrame _ _ _ _⟩
  · exact .refl s

theorem copiesKept_spadPut (s : State) (T a : Nat) (bs : List Byte) : CopiesKept s (s.spadPut T a bs) :=
  (copiesKept_spadWrite s T a bs).trans (woken_spadPut s T a bs).copiesKept

theorem copiesKept_updateBarrier (s : State) (T a : Nat) (f : BBar → BBar) : CopiesKept s (updateBarrier s T a f) :=
  (copiesKept_spadWrite ..).trans (woken_updateBarrier s T a f).copiesKept

theorem copiesKept_wakeInval (s : State) (T a : Nat) : CopiesKept s (wakeInval s T a) := by
  have hstep : ∀ s k, CopiesKept s (wakeInvalOf T a s k) := fun s k => by
    unfold wakeInvalOf
    split
    · split
      · exact .refl s
      · split
        · exact (copiesKept_spadPut ..).trans ((Touches.refl k _).releaseHold _).copiesKept
        · exact ((Touches.refl k s).takeTrap ..).copiesKept
    · exact .refl s
  unfold wakeInval
  split
  · exact .refl s
  · exact List.foldlRecOn (motive := fun t => CopiesKept s t) _ _ (.refl s) fun t ht k _ => ht.trans (hstep t k)

/-- The copies of every core are those of `o`. -/
def State.SameCopies (o s : State) : Prop := ∀ c, (s.core c).copies = (o.core c).copies

theorem sameCopies_undisturbed (o : State) : Undisturbed o.SameCopies where
  access h ht c := by
    rw [ht]
    exact h c
  core j x h hx c := by
    rw [State.core_setCore]
    split
    · next hc => rw [hx, hc]; exact h j
    · exact h c
  team _ _ h _ := h

theorem sameCopies_writeElem {o : State} (core k seq : Nat) (ic : Dword) (r : Iter) (e : Nat) (bs : List Byte) (h : o.SameCopies s) :
    Yields o.SameCopies (writeElem s core k seq ic r e bs) := by
  have hQ := sameCopies_undisturbed o
  unfold writeElem
  extract_lets a T
  refine .ite ?_ (.ite trivial (.ite trivial ?_))
  · split
    · trivial
    · trivial
    · next hx =>
      have h1 := (hQ.engXlate core (s.ctxOf k) .write a h).ok hx
      exact .ite trivial (.ite h1 (hQ.engWrite _ _ _ _ h1))
  · split
    · trivial
    · next hs => exact fun c => ((copiesKept_spadPut ..).copies c).trans ((hQ.bringPages _ _ _ h).ok hs c)

/-- An element of a copy moves bytes and leaves every copy as it was. -/
theorem sameCopies_copyElem {o : State} (core : Nat) (y : Copy) (h : o.SameCopies s) : Yields o.SameCopies (copyElem s core y) := by
  unfold copyElem
  extract_lets e w src
  have hs : Yields (fun r => o.SameCopies r.2) src := .ite h ((sameCopies_undisturbed o).readElem _ _ _ _ _ h)
  clear_value src
  split
  · trivial
  · exact .ite hs (sameCopies_writeElem _ _ _ _ _ _ _ hs)

/-! ## BCOPY (08_copy_engine R184 to R187) -/

/-- The copy that a BCOPY gives its core. -/
def newCopy (fn : Nat) (s : State) (a b : Reg) (bar : Nat) (src dst : Iter) (regs : List Nat) : Copy :=
  { k := s.cur, fn := fn, bar := bar, flag := s.me.flow.flagB, pc := s.me.flow.pc, ic := s.me.flow.ic, src := src, dst := dst
    seq := s.me.seq, next := src.start
    regs := if fn = 4 then regs.flatMap fun q => (List.range s.me.width).map fun L => s.me.regs.getV q L else []
    run := if fn = 5 then regs else []
    arg := if fn = 4 then sregOf s.me a else if fn = 5 then sregOf s.me b else 0 }

/-- The core with one more copy, the newest. -/
def Core.withCopy (x : Core) (y : Copy) : Core := { x with copies := x.copies ++ [y] }

variable {i : Info} {s1 s2 : State} {src dst : Iter} {regs : List Nat} {bs : List Byte} {fn : Nat}

theorem bcopyBody_ok (hp : s.Placed s2) (hi : i.flag = some true) (ho : copyOperands fn (i.ctx s) s = .ok (src, dst, regs, s1))
    (hb : (sregOf s.me i.d).toNat % 16 = 0) (hS : (sregOf s.me i.d).toNat < (s.team (teamOf s.cur)).size)
    (ha : spadAt (i.ctx s) s1 (sregOf s.me i.d).toNat 16 = .ok (bs, s2)) (hv : (BBar.ofBytes bs).valid = true) :
    bcopyBody fn (i.ctx s) s = .ok
      { s := (s2.setWeft s.cur (s.me.engaged (i.ctx s))).modCore (s.coreOf s.cur) fun x =>
          x.withCopy (newCopy fn s i.a i.b (sregOf s.me i.d).toNat src dst regs) } := by
  have hw : s2.weft (i.ctx s).k = s.me := hp.me
  have hk : ∀ w, (s2.setWeft s.cur w).coreOf s.cur = s.coreOf s.cur := fun _ => hp.coreOf s.cur
  have hfl : (i.ctx s).flagNo { s.me with seq := s.me.seq + 1 } = s.me.flow.flagB := flagNo_B (s := s) hi
  have hbad : ¬ ((sregOf s.me i.d).toNat % 16 ≠ 0 ∨ (s.team (teamOf s.cur)).size ≤ (sregOf s.me i.d).toNat) := by omega
  unfold bcopyBody
  rw [ho]
  refine (if_neg hbad).trans ?_
  rw [show spadAt (i.ctx s) s1 (sregOf (s.weft (i.ctx s).k) (i.ctx s).i.d).toNat 16 = .ok (bs, s2) from ha]
  dsimp only
  rw [hv, hw]
  simp only [Weft.takeSeq, hfl]
  rw [show (s2.setWeft (i.ctx s).k _).coreOf (i.ctx s).k = s.coreOf s.cur from hk _]
  unfold Weft.engaged
  rw [show (i.ctx s).flagNo s.me = s.me.flow.flagB from flagNo_B hi]
  rfl

/-- A BCOPY whose operands pass their checks hands its core the copy. -/
theorem bcopy_engages {p : Option Prefix} {d a b : Reg} :
    let i : Info := { formA p 0x50 fn true d a b with more := runRegisters fn a b s.me }
    let bar := (sregOf s.me d).toNat
    issues i s = true → copyOperands fn (i.ctx s) s = .ok (src, dst, regs, s1) → bar % 16 = 0 → bar < (s.team (teamOf s.cur)).size →
    spadAt (i.ctx s) s1 bar 16 = .ok (bs, s2) → (BBar.ofBytes bs).valid = true → s.clear s2 →
    ∃ t, Takes (issueBcopy fn p d a b s) s t ∧ Engages i s s2 t
      ∧ t.core (s.coreOf s.cur) = { s2.core (s.coreOf s.cur) with
          copies := (s2.core (s.coreOf s.cur)).copies ++ [newCopy fn s a b bar src dst regs] } := by
  intro i bar h ho hb hS ha hv hc
  have hQ := placed_undisturbed s
  have hp : s.Placed s2 := (hQ.spadAt _ _ _ ((hQ.copyOperands _ _ (.refl s)).ok ho)).ok ha
  obtain ⟨t, ht, he, hcores⟩ := engages_of_ok (f := fun x => x.withCopy (newCopy fn s a b bar src dst regs)) h
    (bcopyBody_ok (i := i) hp rfl ho hb hS ha hv) rfl rfl hc
  refine ⟨t, ht, he, ?_⟩
  unfold State.core
  rw [hcores]
  exact State.core_setCore_same _ _ _

/-- COPY_ACCEPT takes the first copy that waits. -/
theorem copyAccept_ok {core : Nat} {pre post : List Copy} {y : Copy} (hcs : (s.core core).copies = pre ++ y :: post)
    (hpre : ∀ x ∈ pre, x.accepted = true) (hy : y.accepted = false) (hn : (pre ++ post).countP (fun x => x.accepted) < 64) :
    execCopyAccept core s = .next ((s.setCore core { s.core core with copies := pre ++ { y with accepted := true } :: post }).modWeft y.k
      fun w => w.dropFlag y.flag) := by
  have hj : (pre ++ y :: post).findIdx (fun x => !x.accepted) = pre.length := by
    rw [List.findIdx_append, List.findIdx_eq_length_of_false fun x hx => by rw [hpre x hx]; rfl]
    simp [List.findIdx_cons, hy]
  have hg : (pre ++ y :: post)[pre.length]? = some y := by simp
  have hset : (pre ++ y :: post).set pre.length { y with accepted := true } = pre ++ { y with accepted := true } :: post := by simp
  have hlt : ¬ 64 ≤ ((pre ++ y :: post).filter fun x => x.accepted).length := by
    rw [← List.countP_eq_length_filter]
    rw [List.countP_append] at hn ⊢
    rw [List.countP_cons_of_neg (by rw [hy]; decide)]
    omega
  unfold execCopyAccept
  dsimp only
  rw [hcs, hj, hg]
  dsimp only
  rw [if_neg hlt, hset, State.modCore_eq]

theorem copies_setCopy (s : State) (core j : Nat) (f : Copy → Option Copy) {y : Copy} (hy : (s.core core).copies[j]? = some y) :
    ((setCopy s core j f).core core).copies = match f y with
      | some y' => (s.core core).copies.set j y'
      | none => (s.core core).copies.eraseIdx j := by
  unfold setCopy
  rw [State.modCore_eq, State.core_setCore_same, hy]
  dsimp only
  cases f y <;> rfl

/-- COPY_ELEMENT_LAND, once the element's bytes have moved, reports them to the barrier and steps or ends the copy (R187, R180). -/
def landed (s : State) (core j : Nat) (y : Copy) : State :=
  let s := updateBarrier s (teamOf y.k) y.bar fun b => { b with bytes := b.bytes - BitVec.ofNat 32 y.src.esize }
  let s := setCopy s core j fun y => if y.next + 1 < y.src.count then some { y with next := y.next + 1 } else none
  wakeInval s (teamOf y.k) y.bar

theorem copyElementLand_ok {core j : Nat} {y : Copy} (hy : (s.core core).copies[j]? = some y) (ha : y.accepted = true) (hst : y.stopped = false)
    (hb : s.spadBad (teamOf y.k) y.bar = false) (hp : (s.acting y.k y.seq).bringPages (teamOf y.k) core [y.bar / 2048] = .ok s1)
    (he : copyElem s1 core y = .ok s2) : execCopyElementLand core j s = event s (.ok (landed s2 core j y)) := by
  have hbar : copyBarrier (s.acting y.k y.seq) core y = .ok s1 := by
    unfold copyBarrier
    dsimp only
    rw [show (s.acting y.k y.seq).spadBad (teamOf y.k) y.bar = false from hb, hp]
    rfl
  unfold execCopyElementLand
  rw [hy]
  dsimp only
  rw [ha, hst, hbar]
  dsimp only [Except.bind]
  rw [he]
  rfl

/-- What the report of an element leaves: nothing but the cores, the wefts and the states of teams changes, and the copy has stepped or ended. -/
theorem landed_copies {core j : Nat} {y : Copy} (hy : (s.core core).copies[j]? = some y) :
    landed s core j y = { s with wefts := (landed s core j y).wefts, teams := (landed s core j y).teams, cores := (landed s core j y).cores }
      ∧ ((landed s core j y).core core).copies
        = if y.next + 1 < y.src.count then (s.core core).copies.set j { y with next := y.next + 1 } else (s.core core).copies.eraseIdx j := by
  obtain ⟨hu, hcu⟩ := copiesKept_updateBarrier s (teamOf y.k) y.bar fun b => { b with bytes := b.bytes - BitVec.ofNat 32 y.src.esize }
  unfold landed
  extract_lets u v
  obtain ⟨hw, hcw⟩ := copiesKept_wakeInval v (teamOf y.k) y.bar
  have hset := copies_setCopy u core j (fun y => if y.next + 1 < y.src.count then some { y with next := y.next + 1 } else none) (y := y)
    (by rw [show u = updateBarrier .. from rfl, hcu]; exact hy)
  refine ⟨?_, ?_⟩
  · rw [hw]
    change ({ u with wefts := _, teams := _, cores := _ } : State) = _
    rw [show u = _ from hu]
  · rw [hcw, show v = setCopy .. from rfl, hset, show u = updateBarrier .. from rfl, hcu]
    by_cases hn : y.next + 1 < y.src.count
    · simp only [if_pos hn]
    · simp only [if_neg hn]

/-- Settles O28: at issue by `engages_of_ok`, at acceptance by the copies before the one that waits, and at the landing of an element because
neither the element nor the report to its barrier touches a copy. -/
theorem copiesRun : Obligations.CopiesRun := by
  unfold Obligations.CopiesRun
  refine ⟨fun p d a b s s1 s2 src dst regs bs => ?_, fun core pre post y s hcs hpre hy hn => ?_, fun core j y s s1 s2 hy ha hst hb hp he hc => ?_⟩
  · exact ⟨bcopy_engages, bcopy_engages, bcopy_engages, bcopy_engages, bcopy_engages, bcopy_engages⟩
  · refine ⟨_, copyAccept_ok hcs hpre hy hn, rfl, ?_, ?_, fun k hk => ?_⟩
    · exact State.core_setCore_same _ _ _
    · exact State.weft_setWeft_same _ _ _
    · exact State.weft_setWeft_ne _ _ hk
  · have h1 : s.SameCopies s1 := ((sameCopies_undisturbed s).bringPages _ _ _ (s := s.acting y.k y.seq) fun _ => rfl).ok hp
    have h2 : (s2.core core).copies = (s.core core).copies := (sameCopies_copyElem core y h1).ok he core
    obtain ⟨ht, hcs⟩ := landed_copies (s := s2) (by rw [h2]; exact hy)
    refine ⟨landed s2 core j y, ?_, by rw [ht], by rw [hcs, h2]⟩
    change Takes (execCopyElementLand core j s) s _
    rw [copyElementLand_ok hy ha hst hb hp he]
    refine takes_event ?_
    rw [ht]
    exact hc

end Sys2Proof.Machine

/-!
# Byte barriers

O29: the four words of a byte barrier (08_copy_engine R179), its bytes in a resident page after an update, and what the weft that issues sees
of the wefts that the update wakes, which is nothing.
-/

namespace Sys2Proof.Machine

/-! ## A barrier's words and its bytes -/

theorem leNat_leBytes (rest : List Byte) : ∀ n v : Nat, leNat (leBytes n v ++ rest) = v % 256 ^ n + 256 ^ n * leNat rest
  | 0, v => by simp [leBytes, Nat.mod_one]
  | n + 1, v => by
    have hb : (BitVec.ofNat 8 v).toNat = v % 256 := BitVec.toNat_ofNat ..
    rw [leBytes, List.cons_append, leNat, leNat_leBytes rest n, hb, Nat.pow_succ', Nat.mod_mul]
    ring

theorem leWord_leBytes (w : Word) (rest : List Byte) : leWord (leBytes 4 w.toNat ++ rest) = w := by
  apply BitVec.eq_of_toNat_eq
  unfold leWord
  rw [BitVec.toNat_ofNat, leNat_leBytes]
  omega

theorem BBar.ofBytes_toBytes (b : BBar) : BBar.ofBytes b.toBytes = b := by
  have h : b.toBytes = leBytes 4 b.head.toNat ++ (leBytes 4 b.count.toNat ++ (leBytes 4 b.arrive.toNat ++ (leBytes 4 b.bytes.toNat ++ []))) := rfl
  have hd (n v : Nat) (rest : List Byte) : (leBytes n v ++ rest).drop n = rest := by
    rw [List.drop_append_of_le_length (leBytes_length n v).ge, List.drop_of_length_le (leBytes_length n v).le, List.nil_append]
  have hd2 (m : Nat) (x y : List Byte) (hx : x.length = 4) : (x ++ y).drop (4 + m) = y.drop m := by
    rw [← hx, List.drop_length_add_append]
  unfold BBar.ofBytes
  rw [h, leWord_leBytes, hd, leWord_leBytes, hd2 4 _ _ (leBytes_length ..), hd, leWord_leBytes, hd2 8 _ _ (leBytes_length ..),
    hd2 4 _ _ (leBytes_length ..), hd, leWord_leBytes]

theorem BBar.toBytes_length (b : BBar) : b.toBytes.length = 16 := by
  simp [BBar.toBytes, leBytes_length]

/-! ## Bytes of one page -/

variable {s t : State} {T a n : Nat} {bs : List Byte}

/-- A read within one page takes the bytes one by one. -/
theorem spadRead_eq_map (h : a % 2048 + n ≤ 2048) : s.spadRead T a n = (List.range n).map fun i => s.spadByte T (a + i) := by
  unfold State.spadRead
  split
  · next c j f hf =>
    refine List.map_congr_left fun i hi => ?_
    have hlt := List.mem_range.1 hi
    have hin : (decide (a % 2048 ≤ a % 2048 + i) && decide (a % 2048 + i < a % 2048 + n)) = true := by simp [hlt]
    rw [spadByte_found (c := c) (j := j) (f := f) (by rw [show (a + i) / 2048 = a / 2048 by omega]; exact hf),
      show (a + i) % 2048 = a % 2048 + i by omega]
    exact (SMap.get_filter zeroByte f.data (fun q => decide (a % 2048 ≤ q) && decide (q < a % 2048 + n)) _).trans (if_pos hin)
  · rfl

/-- Bytes written within a page that is resident are read back. -/
theorem spadRead_spadWrite (hr : s.resident T (a / 2048)) (hin : a % 2048 + bs.length ≤ 2048) :
    (s.spadWrite T a bs).spadRead T a bs.length = bs := by
  obtain ⟨⟨c, j, f, hf, -⟩, hw⟩ := hr
  rw [spadRead_eq_map hin]
  refine List.ext_getElem (by simp) fun i h1 h2 => ?_
  rw [List.getElem_map, List.getElem_range, spadByte_spadWrite hw hf hin, if_pos (by omega), Nat.add_sub_cancel_left, List.getD_eq_getElem]

/-- Wefts and the states of teams are no part of where a page lies, nor of its bytes. -/
theorem Stirs.findFrame (h : Stirs s t) (T P : Nat) : t.findFrame T P = s.findFrame T P := by
  have hc (c : Nat) : t.core c = s.core c := by rw [h.state]; rfl
  rw [findFrame_eq, findFrame_eq, h.team T]
  simp only [hc]
  rfl

theorem Stirs.spadByte (h : Stirs s t) (T q : Nat) : t.spadByte T q = s.spadByte T q :=
  spadByte_congr (h.findFrame _ _) (by rw [h.team T]; rfl) (by rw [h.state]; rfl)

theorem Stirs.spadRead (h : Stirs s t) (T a n : Nat) : t.spadRead T a n = s.spadRead T a n := by
  unfold State.spadRead
  rw [h.findFrame]
  split
  · rfl
  · exact List.map_congr_left fun i _ => h.spadByte T _

theorem Stirs.resident {P : Nat} (h : Stirs s t) (hr : s.resident T P) : t.resident T P := by
  obtain ⟨⟨c, j, f, hf, ho⟩, hw⟩ := hr
  refine ⟨⟨c, j, f, (h.findFrame T P).trans hf, ?_⟩, fun c => ?_⟩
  · rw [h.team T]
    exact ho
  · rw [h.state]
    exact hw c

theorem OnlyWeft.stirs {k : Nat} (h : OnlyWeft k s t) : Stirs s t := by
  obtain ⟨ht, -⟩ := h
  refine ⟨?_, fun T => ?_⟩ <;> rw [ht]
  rfl

/-! ## Writes and updates of a barrier -/

/-- What a write to the scratchpad leaves for the weft that issues, where its page is resident: the bytes are there; memory, the caches and the
weft are as they were. -/
structure Leaves (k T a : Nat) (bs : List Byte) (s t : State) : Prop where
  kept : CopiesKept s t
  weft : (s.weft k).hold = none → t.weft k = s.weft k
  read : t.spadRead T a bs.length = bs

theorem leaves_of_woken {k : Nat} (hr : s.resident T (a / 2048)) (hin : a % 2048 + bs.length ≤ 2048) (h : Woken (s.spadWrite T a bs) t) :
    Leaves k T a bs s t := by
  have hw : (s.spadWrite T a bs).weft k = s.weft k := by unfold State.weft; rw [spadWrite_wefts]
  refine ⟨(copiesKept_spadWrite ..).trans h.copiesKept, fun hk => ?_, (h.spadRead ..).trans (spadRead_spadWrite hr hin)⟩
  rw [h.weft k (by rw [hw]; exact hk), hw]

/-- An update leaves the barrier as its test finds it (R180). -/
theorem updateBarrier_leaves (k : Nat) (hr : s.resident T (a / 2048)) (ha : a % 16 = 0) (f : BBar → BBar) :
    Leaves k T a (f (BBar.ofBytes (s.spadRead T a 16))).test.toBytes s (updateBarrier s T a f) :=
  leaves_of_woken hr (by rw [BBar.toBytes_length]; omega) (woken_updateBarrier ..)

theorem spadPut_leaves (k : Nat) (hr : s.resident T (a / 2048)) (ha : a % 16 = 0) (b : BBar) : Leaves k T a b.toBytes s (s.spadPut T a b.toBytes) :=
  leaves_of_woken hr (by rw [BBar.toBytes_length]; omega) (woken_spadPut ..)

/-! ## Instructions on a barrier -/

variable {i : Info} {s1 : State} {body : Ctx → State → Except Stop Eff} {e : Eff} {at_ : Nat} {bar : BBar}

/-- A weft that issues is not held. -/
theorem hold_of_issues (h : issues i s = true) : s.me.hold = none := by
  unfold issues State.canIssue at h
  simp only [Bool.and_eq_true, Option.isNone_iff_eq_none] at h
  exact h.1.1.1.1.1.1.1.1.1.1.1.1.1.1.1.2

/-- The barrier of an instruction is aligned; its four words are those that its page holds. -/
theorem barrierAt_yields {c : Ctx} (h : barrierAt c s = .ok (at_, bar, s1)) :
    at_ % 16 = 0 ∧ bar = BBar.ofBytes (s1.spadRead (teamOf c.k) at_ 16) ∧ s.Placed s1 := by
  have hp := (placed_undisturbed s).spadAt c (sregOf (s.weft c.k) c.i.a).toNat 16 (.refl s)
  unfold barrierAt at h
  dsimp only at h
  split at h
  · cases h
  · next ha =>
    rw [not_or] at ha
    split at h
    · cases h
    · next bs u hs =>
      cases h
      refine ⟨not_not.1 ha.1, ?_, hp.ok hs⟩
      unfold spadAt at hs
      dsimp only at hs
      split at hs
      · cases hs
      · split at hs
        · cases hs
        · split at hs
          · cases hs
          · cases hs
            rfl

/-- Where an instruction on a barrier takes effect: its barrier, on a page that is resident once it has been brought in. -/
structure Barred (i : Info) (s s1 : State) (at_ : Nat) (bar : BBar) : Prop where
  issues   : issues i s = true
  barrier  : barrierAt (i.ctx s) s = .ok (at_, bar, s1)
  clear    : s.clear s1
  resident : s1.resident (teamOf s.cur) (at_ / 2048)

theorem Barred.aligned (h : Barred i s s1 at_ bar) : at_ % 16 = 0 := (barrierAt_yields h.barrier).1

theorem Barred.now (h : Barred i s s1 at_ bar) : BBar.ofBytes (s1.spadRead (teamOf s.cur) at_ 16) = bar := (barrierAt_yields h.barrier).2.1.symm

theorem Barred.me (h : Barred i s s1 at_ bar) : s1.weft s.cur = s.me := (barrierAt_yields h.barrier).2.2.me

theorem Barred.hold (h : Barred i s s1 at_ bar) : (s1.weft s.cur).hold = none := by
  rw [h.me]
  exact hold_of_issues h.issues

/-- What the effect of an instruction on a barrier leaves before it retires: the bytes of memory are those of the checks, the weft is not held and
goes on with registers of its own, and the barrier's words are these. -/
structure Barring (i : Info) (s s1 u : State) (at_ : Nat) (bar : BBar) (r : Regs) : Prop where
  state : u = { s1 with wefts := u.wefts, teams := u.teams, cores := u.cores }
  pace  : KeepsPace s.me (u.weft s.cur)
  hold  : (u.weft s.cur).hold = none
  regs  : (u.weft s.cur).regs = r
  now   : BBar.ofBytes (u.spadRead (teamOf s.cur) at_ 16) = bar

theorem went_of_ok {b : BBar} {r : Regs} (h : Barred i s s1 at_ bar) (hb : body (i.ctx s) s = .ok e) (hf : e.fin = .next)
    (hu : Barring i s s1 e.s at_ b r) :
    ∃ t, Takes (issueMem i body s) s t ∧ (WentOn i s.me (t.weft s.cur) ∧ (t.weft s.cur).hold = none ∧ t.mem = s1.mem)
      ∧ (t.weft s.cur).regs = r ∧ BBar.ofBytes (t.spadRead (teamOf s.cur) at_ 16) = b := by
  have hc : s.clear e.s := by rw [hu.state]; exact h.clear
  obtain ⟨t, ht, hr⟩ := takes_of_ok h.issues hb hf hu.pace hc
  have hst : Stirs e.s t := hr.only.stirs
  refine ⟨t, ht, ⟨hr.goes, ?_, ?_⟩, hr.regs.trans hu.regs, ?_⟩
  · rw [hr.control]
    exact hu.hold
  · rw [hr.only.1, hu.state]
  · rw [hst.spadRead]
    exact hu.now

/-- The effect of a write to the barrier's bytes, on a state that differs from that of the checks in wefts and in the states of teams. -/
theorem barring_of_leaves {u v : State} {b : BBar} (hs : Stirs s1 u) (hk : KeepsPace s.me (u.weft s.cur)) (hh : (u.weft s.cur).hold = none)
    (hr : (u.weft s.cur).regs = s.me.regs) (hl : Leaves s.cur (teamOf s.cur) at_ b.toBytes u v) : Barring i s s1 v at_ b s.me.regs := by
  have hw := hl.weft hh
  have hread := hl.read
  rw [BBar.toBytes_length] at hread
  refine ⟨?_, by rw [hw]; exact hk, by rw [hw]; exact hh, by rw [hw]; exact hr, by rw [hread, BBar.ofBytes_toBytes]⟩
  rw [hl.kept.state, hs.state]

/-- The barrier is only looked at. -/
theorem barring_of_stirs {u : State} (h : Barred i s s1 at_ bar) (hs : Stirs s1 u) (hk : KeepsPace s.me (u.weft s.cur))
    (hh : (u.weft s.cur).hold = none) : Barring i s s1 u at_ bar (u.weft s.cur).regs := by
  refine ⟨?_, hk, hh, rfl, by rw [hs.spadRead]; exact h.now⟩
  have hc : u.cores = s1.cores := by rw [hs.state]
  rw [hc]
  exact hs.state

theorem Barred.keepsPace (h : Barred i s s1 at_ bar) : KeepsPace s.me (s1.weft s.cur) := by
  rw [h.me]
  exact .of_regs s.me s.me.regs

/-! ### BB.INIT, BB.EXPECT and BB.ARRIVE -/

theorem bbInit_ok (h : Barred i s s1 at_ bar) (hv : bar.valid = false) (h1 : 1 ≤ (sregOf s.me i.b).toNat) (h2 : (sregOf s.me i.b).toNat ≤ 65536) :
    bbBody 0 (i.ctx s) s = .ok
      { s := (s1.modTeam (teamOf s.cur) fun y => y.clearArrivals at_).spadPut (teamOf s.cur) at_
               (BBar.toBytes { head := 2, count := sregOf s.me i.b, arrive := sregOf s.me i.b, bytes := 0 }) } := by
  have hw : s1.weft (i.ctx s).k = s.me := h.me
  have hx : (sregOf s.me i.b == 0) = false := by
    rw [beq_eq_false_iff_ne]
    intro h0
    rw [h0] at h1
    exact absurd h1 (by decide)
  have hbad : ¬ (bar.valid || sregOf s.me i.b == 0 || decide (65536 < (sregOf s.me i.b).toNat)) = true := by
    rw [hv, hx, decide_eq_false (Nat.not_lt.2 h2)]
    decide
  unfold bbBody
  rw [h.barrier]
  dsimp only
  rw [hw]
  exact if_neg hbad

theorem bbExpect_ok (h : Barred i s s1 at_ bar) (hv : bar.valid = true) :
    bbBody 1 (i.ctx s) s
      = .ok { s := updateBarrier s1 (teamOf s.cur) at_ fun b => { b with bytes := b.bytes + sregOf s.me i.b } } := by
  have hw : s1.weft (i.ctx s).k = s.me := h.me
  unfold bbBody
  rw [h.barrier]
  dsimp only
  rw [hw, hv]
  rfl

/-- The release and the clock of an arrival (14_consistency R335, 17_determinism R389). -/
def State.arrived (s : State) (k a : Nat) (phase : Bool) : State := noteArrival (releaseT s k) k a phase

theorem bbArrive_ok (h : Barred i s s1 at_ bar) (hv : bar.valid = true) (ha : bar.arrive ≠ 0) (hr : relReady s1 s.cur 1 = true) :
    bbBody 2 (i.ctx s) s = .ok
      { s := updateBarrier (s1.arrived s.cur at_ bar.phase) (teamOf s.cur) at_
               fun b => { b with bytes := b.bytes + sregOf s.me i.b, arrive := b.arrive - 1 } } := by
  have hw : s1.weft (i.ctx s).k = s.me := h.me
  have hready : relReady s1 (i.ctx s).k 1 = true := hr
  unfold bbBody
  rw [h.barrier]
  dsimp only
  rw [hw, hv, beq_eq_false_iff_ne.2 ha, hready]
  rfl

theorem arrived_stirs (s : State) (k a : Nat) (phase : Bool) : Stirs s (s.arrived k a phase) := by
  have h1 : Stirs s (releaseT s k) := (markReleased_only s k 1).stirs
  unfold State.arrived noteArrival
  exact h1.trans (woken_modTeam rfl).toStirs

theorem weft_arrived (s : State) (k a : Nat) (phase : Bool) :
    (s.arrived k a phase).weft k = { s.weft k with stores := (s.weft k).releasedAt 0 } := weft_markReleased s k 0

/-! ### BB.WAIT, BB.TEST and BB.INVAL -/

theorem bbWait_over (h : Barred i s s1 at_ bar) (hv : bar.valid = true) (ht : s.me.inTurn = false) (hp : bar.phase ≠ (sregOf s.me i.b).getLsbD 0) :
    bbWaitBody (i.ctx s) s = .ok { s := s1.leaveWait s.cur (s1.bbExit s.cur at_ ((sregOf s.me i.b).getLsbD 0)), noUndo := true } := by
  have hw : s1.weft (i.ctx s).k = s.me := h.me
  unfold bbWaitBody
  rw [h.barrier]
  dsimp only
  rw [hw, hv, ht]
  exact (if_neg (by decide)).trans (if_pos (bne_iff_ne.2 hp))

/-- Leaving a wait changes nothing of the weft but its clocks. -/
theorem weft_leaveWait (s : State) (k : Nat) (x : Dword) : ∃ c, (s.leaveWait k x).weft k = { s.weft k with sched := c } := by
  unfold State.leaveWait
  split
  · exact ⟨_, State.weft_setWeft_same _ _ _⟩
  · exact ⟨_, rfl⟩

/-- The weft that waits, with its exit clock where no arrival is to come. -/
def State.waits (s : State) (k at_ : Nat) (bar : BBar) (parity : Bool) : State :=
  s.modWeft k fun w => { w with sched := { w.sched with exitClock := if bar.arrive = 0 then some (s.bbExit k at_ parity) else none } }

theorem bbWait_holds (h : Barred i s s1 at_ bar) (hv : bar.valid = true) (ht : s.me.inTurn = false) (hp : bar.phase = (sregOf s.me i.b).getLsbD 0)
    (hl : s.me.lanesPending = false) :
    bbWaitBody (i.ctx s) s
      = .error (.hold (s1.waits s.cur at_ bar ((sregOf s.me i.b).getLsbD 0)) (.bbwait at_ ((sregOf s.me i.b).getLsbD 0))) := by
  have hw : s1.weft (i.ctx s).k = s.me := h.me
  unfold bbWaitBody State.waits
  rw [State.modWeft_eq, h.barrier]
  dsimp only
  rw [show s1.weft s.cur = s.me from hw, hw, hv, ht, hl]
  exact (if_neg (by decide)).trans ((if_neg fun hne => bne_iff_ne.1 hne hp).trans (if_neg (by decide)))

/-- A wait whose phase goes on keeps its weft: of that, nothing but the hold and the exit clock changes. -/
theorem issueMem_holds {u : State} {hk : HoldKind} (h : issues i s = true) (hb : body (i.ctx s) s = .error (.hold u hk)) (hc : s.clear u) :
    ∃ t x, Takes (issueMem i body s) s t ∧ t.weft s.cur = { u.weft s.cur with hold := some x } ∧ x.kind = hk ∧ x.pc = s.me.flow.pc := by
  let x : Hold := { kind := hk, pc := s.me.flow.pc, next := (i.ctx s).next, recs := if i.irrev then [barrierRec (i.ctx s)] else [] }
  refine ⟨u.modWeft s.cur fun w => { w with hold := some x }, x, ?_, State.weft_setWeft_same _ _ _, rfl, rfl⟩
  unfold issueMem
  rw [issue_of_issues h, hb]
  exact takes_event hc

theorem bbTest_ok (h : Barred i s s1 at_ bar) (hv : bar.valid = true) :
    bbTestBody (i.ctx s) s = .ok
      { s := s1.setWeft s.cur (writeD s.me (i.ctx s) 0 (if bar.phase != (sregOf s.me i.b).getLsbD 0 then 1 else 0))
        recs := destRecs s.me (i.ctx s) } := by
  have hw : s1.weft (i.ctx s).k = s.me := h.me
  unfold bbTestBody
  rw [h.barrier]
  dsimp only
  rw [hw, hv]
  rfl

theorem getS_writeD_word (w : Weft) {c : Ctx} (L : Nat) (v : BitVec 128) (hu : c.i.u = true) (hd : c.i.dk = .reg 1) :
    (writeD w c L v).regs.getS c.i.d.toNat = v.setWidth 32 := by
  have hs : splitWords c.i.dk.words v = [v.setWidth 32] := by rw [hd]; rfl
  unfold writeD
  rw [hs, hu]
  change (w.regs.setWordsS c.i.d.toNat [v.setWidth 32]).getS c.i.d.toNat = _
  rw [getS_setWordsS, dif_pos ⟨Nat.le_refl _, Nat.lt_succ_self _⟩]
  simp

theorem bbInval_ok (h : Barred i s s1 at_ bar) (hv : bar.valid = true) (hc : s1.copiesOn (teamOf s.cur) at_ = false) :
    bbInvalBody (i.ctx s) s = .ok { s := s1.spadPut (teamOf s.cur) at_ (BBar.toBytes { head := 0, count := 0, arrive := 0, bytes := 0 }) } := by
  unfold bbInvalBody
  rw [h.barrier]
  dsimp only
  rw [hv, if_neg (by decide), if_neg (by rw [show s1.copiesOn (teamOf (i.ctx s).k) at_ = false from hc]; decide)]
  rfl

/-- Settles O29: each body's effect leaves the barrier's bytes as `Barring` says, and the instruction goes on by `went_of_ok`. -/
theorem byteBarriers : Obligations.ByteBarriers := by
  unfold Obligations.ByteBarriers
  intro p d a b s s1 at_ bar T F x now start went
  have barred {i : Info} (h : start i) : Barred i s s1 at_ bar := by
    obtain ⟨hi, hb, hc, hr⟩ := h
    exact ⟨hi, hb, hc, hr⟩
  refine ⟨fun h hv h1 h2 => ?_, fun h hv => ?_, fun h hv ha hr => ?_, fun h hv ht => ⟨fun hp => ?_, fun hp hl => ?_⟩, fun h hv => ?_,
    fun h hv hc => ?_⟩
  · have hb := barred h
    have hs : Stirs s1 (s1.modTeam T fun y => y.clearArrivals at_) := (woken_modTeam rfl).toStirs
    exact went_of_ok hb (bbInit_ok hb hv h1 h2) rfl
      (barring_of_leaves hs hb.keepsPace hb.hold (congrArg Weft.regs hb.me) (spadPut_leaves s.cur (hs.resident hb.resident) hb.aligned _))
  · have hb := barred h
    have hl := updateBarrier_leaves s.cur hb.resident hb.aligned fun b => { b with bytes := b.bytes + x }
    rw [hb.now] at hl
    exact went_of_ok hb (bbExpect_ok hb hv) rfl (barring_of_leaves (.refl s1) hb.keepsPace hb.hold (congrArg Weft.regs hb.me) hl)
  · have hb := barred h
    have hs := arrived_stirs s1 s.cur at_ bar.phase
    have hl := updateBarrier_leaves s.cur (hs.resident hb.resident) hb.aligned fun b => { b with bytes := b.bytes + x, arrive := b.arrive - 1 }
    rw [hs.spadRead, hb.now] at hl
    have hw := weft_arrived s1 s.cur at_ bar.phase
    rw [hb.me] at hw
    exact went_of_ok hb (bbArrive_ok hb hv ha hr) rfl
      (barring_of_leaves hs (by rw [hw]; exact ⟨id, rfl, rfl⟩) (by rw [hw]; exact hold_of_issues hb.issues) (by rw [hw]) hl)
  · have hb := barred h
    have hs := ((Touches.refl s.cur s1).leaveWait (s1.bbExit s.cur at_ (x.getLsbD 0))).toStirs
    obtain ⟨c, hw⟩ := weft_leaveWait s1 s.cur (s1.bbExit s.cur at_ (x.getLsbD 0))
    rw [hb.me] at hw
    have hu := barring_of_stirs hb hs (by rw [hw]; exact ⟨id, rfl, rfl⟩) (by rw [hw]; exact hold_of_issues hb.issues)
    rw [hw] at hu
    exact went_of_ok hb (bbWait_over hb hv ht hp) rfl hu
  · have hb := barred h
    obtain ⟨t, y, ht, hw, hk, hpc⟩ := issueMem_holds hb.issues (bbWait_holds hb hv ht hp hl) hb.clear
    refine ⟨t, y, ht, by rw [hw], hk, hpc, ?_⟩
    rw [hw, State.waits, State.modWeft_eq, State.weft_setWeft_same, hb.me]
  · have hb := barred h
    have hs : Stirs s1 (s1.setWeft s.cur (writeD s.me ((F 4 d b).ctx s) 0 (if bar.phase != x.getLsbD 0 then 1 else 0))) :=
      ((Touches.refl s.cur s1).setWeft _).toStirs
    obtain ⟨v, y, hw⟩ := writeD_frame s.me ((F 4 d b).ctx s) 0 (if bar.phase != x.getLsbD 0 then 1 else 0)
    have hu := barring_of_stirs hb hs (by rw [State.weft_setWeft_same, hw]; exact KeepsPace.of_regs s.me _)
      (by rw [State.weft_setWeft_same, hw]; exact hold_of_issues hb.issues)
    obtain ⟨t, ht, hg, hr, hn⟩ := went_of_ok hb (bbTest_ok hb hv) rfl hu
    refine ⟨t, ht, hg, hn, ?_⟩
    rw [hr, State.weft_setWeft_same]
    refine (getS_writeD_word s.me (c := (F 4 d b).ctx s) 0 _ rfl rfl).trans ?_
    by_cases hp : bar.phase = x.getLsbD 0
    · rw [if_neg (bne_iff_ne.not_left.2 hp), if_neg (not_not.2 hp)]
      rfl
    · rw [if_pos (bne_iff_ne.2 hp), if_pos hp]
      rfl
  · have hb := barred h
    exact went_of_ok hb (bbInval_ok hb hv hc) rfl
      (barring_of_leaves (.refl s1) hb.keepsPace hb.hold (congrArg Weft.regs hb.me) (spadPut_leaves s.cur hb.resident hb.aligned _))

end Sys2Proof.Machine
